-- ==== Sys2Proof/Word.lean ====
section
/-! DEFINITION. The words of the machine: a 64-bit register word, a vector register, a byte (R1, R126). -/

namespace Sys2Proof

/-- A 64-bit register. -/
abbrev Word := BitVec 64
/-- A byte. -/
abbrev Byte := BitVec 8
/-- A vector register: 64 lanes of 32 bits, lane 0 in the low bits (R66, R126). -/
abbrev VecWord := BitVec 2048

end Sys2Proof
end

