-- ==== Sys2Proof/Machine/Crypto.lean ====
section
/-! DEFINITION. The ciphers and digests the spec names: AES-256 in XTS and GCM modes (R385, R389, R390, R394, R395),
SHA-256 and HMAC (R385, R393, R394), and the curve P-256 (R388, R393, R394). A byte is a number below 256, a string of
bytes a list, first byte first. -/

namespace Sys2Proof.Machine

/-! ### Bytes -/

/-- Exclusive or, byte by byte. -/
def xorBytes (a b : List Nat) : List Nat := List.zipWith (· ^^^ ·) a b
/-- The big-endian number of a string. -/
def beNat (l : List Nat) : Nat := l.foldl (fun acc b => acc * 256 + b % 256) 0
/-- The n big-endian bytes of a number. -/
def beBytes : Nat → Nat → List Nat
  | 0, _ => []
  | n + 1, x => beBytes n (x / 256) ++ [x % 256]
/-- The n little-endian bytes of a number. -/
def leBytes : Nat → Nat → List Nat
  | 0, _ => []
  | n + 1, x => x % 256 :: leBytes n (x / 256)
/-- The little-endian number of a string. -/
def leNum : List Nat → Nat
  | [] => 0
  | b :: l => b % 256 + 256 * leNum l
/-- The string cut into pieces of n bytes, at most `fuel` of them. -/
def chunks (n : Nat) : Nat → List Nat → List (List Nat)
  | 0, _ => []
  | fuel + 1, l => if l.isEmpty then [] else l.take n :: chunks n fuel (l.drop n)

/-! ### AES-256 -/

/-- Multiply by x in the field of AES. -/
def xtime (a : Nat) : Nat := (if a < 128 then 2 * a else (2 * a) ^^^ 0x11B) % 256
/-- Multiply in the field of AES, over the n low bits of b. -/
def gfMul : Nat → Nat → Nat → Nat
  | 0, _, _ => 0
  | n + 1, a, b => (if b % 2 = 1 then a else 0) ^^^ gfMul n (xtime a) (b / 2)
/-- a to the power 2^n - 1 times 2: the inverse is a^254. -/
def gfPow : Nat → Nat → Nat
  | 0, _ => 1
  | n + 1, a => gfMul 8 a (let p := gfPow n a; gfMul 8 p p)
/-- The inverse in the field of AES, 0 for 0. -/
def gfInv (a : Nat) : Nat := let p := gfPow 7 a; gfMul 8 p p
/-- Rotate 8 bits left. -/
def rotl8 (a n : Nat) : Nat := (a * 2 ^ n + a / 2 ^ (8 - n)) % 256
/-- The S-box. -/
def sbox (a : Nat) : Nat := let b := gfInv a; b ^^^ rotl8 b 1 ^^^ rotl8 b 2 ^^^ rotl8 b 3 ^^^ rotl8 b 4 ^^^ 0x63
/-- The inverse S-box. -/
def invSbox (a : Nat) : Nat := gfInv (rotl8 a 1 ^^^ rotl8 a 3 ^^^ rotl8 a 6 ^^^ 0x05)
/-- One word of the AES-256 key schedule: word i from words i - 1 and i - 8. -/
def aesWord (i : Nat) (prev old : List Nat) : List Nat :=
  let t := if i % 8 = 0 then
      let r := (prev.drop 1 ++ prev.take 1).map sbox
      xorBytes r [(List.range (i / 8 - 1)).foldl (fun a _ => xtime a) 1, 0, 0, 0]
    else if i % 8 = 4 then prev.map sbox else prev
  xorBytes old t
/-- The key schedule, newest word first, of n more words. -/
def aesExpand : Nat → List (List Nat) → List (List Nat)
  | 0, ws => ws
  | n + 1, ws => aesExpand n (aesWord ws.length (ws.headD []) (ws.getD 7 []) :: ws)
/-- The 15 round keys of a 32-byte key. -/
def aesKeys (key : List Nat) : List (List Nat) :=
  let ws := (aesExpand 52 (chunks 4 8 key).reverse).reverse
  (List.range 15).map fun r => ((ws.drop (4 * r)).take 4).flatten
/-- Byte i of a block. -/
def byteAt (l : List Nat) (i : Nat) : Nat := l.getD i 0
/-- SHIFTROWS, or its inverse. -/
def shiftRows (inv : Bool) (b : List Nat) : List Nat :=
  (List.range 16).map fun i => byteAt b (4 * ((i / 4 + (if inv then 4 - i % 4 else i % 4)) % 4) + i % 4)
/-- MIXCOLUMNS with the coefficients of row 0. -/
def mixColumns (co : List Nat) (b : List Nat) : List Nat :=
  (List.range 16).map fun i =>
    (List.range 4).foldl (fun acc j => acc ^^^ gfMul 8 (byteAt b (i / 4 * 4 + j)) (co.getD ((j + 4 - i % 4) % 4) 0)) 0
/-- Encrypt one block under the round keys. -/
def aesEnc (ks : List (List Nat)) (b : List Nat) : List Nat :=
  let mid := ((ks.drop 1).take 13).foldl
    (fun b k => xorBytes (mixColumns [2, 3, 1, 1] (shiftRows false (b.map sbox))) k) (xorBytes b (ks.headD []))
  xorBytes (shiftRows false (mid.map sbox)) (ks.getD 14 [])
/-- Decrypt one block under the round keys. -/
def aesDec (ks : List (List Nat)) (b : List Nat) : List Nat :=
  let r := ks.reverse
  let mid := ((r.drop 1).take 13).foldl
    (fun b k => mixColumns [14, 11, 13, 9] (xorBytes ((shiftRows true b).map invSbox) k)) (xorBytes b (r.headD []))
  xorBytes ((shiftRows true mid).map invSbox) (r.getD 14 [])

/-! ### XTS (R389) -/

/-- The next tweak: multiply by x, the tweak a little-endian number of 128 bits. -/
def xtsNext (t : Nat) : Nat := if t < 2 ^ 127 then 2 * t else (2 * t) % 2 ^ 128 ^^^ 0x87
/-- Apply a block function under XTS to a list of blocks. -/
def xtsBlocks (f : List Nat → List Nat) : Nat → List (List Nat) → List Nat
  | _, [] => []
  | t, b :: l => xorBytes (f (xorBytes b (leBytes 16 t))) (leBytes 16 t) ++ xtsBlocks f (xtsNext t) l
/-- AES-256-XTS over a 64-byte line: the 64-byte key is the data key, then the tweak key. -/
def xtsLine (enc : Bool) (key : BitVec 512) (tweak : Nat) (line : List Nat) : List Nat :=
  let k := leBytes 64 key.toNat
  let t := leNum (aesEnc (aesKeys (k.drop 32)) (leBytes 16 tweak))
  let ks := aesKeys (k.take 32)
  xtsBlocks (if enc then aesEnc ks else aesDec ks) t (chunks 16 4 line)

/-! ### GCM -/

/-- Multiply in the field of GCM, over n bits of y from the highest. -/
def ghMul : Nat → Nat → Nat → Nat
  | 0, _, _ => 0
  | n + 1, x, v =>
    (if x / 2 ^ n % 2 = 1 then v else 0) ^^^ ghMul n x (v / 2 ^^^ (if v % 2 = 1 then 0xE1 * 2 ^ 120 else 0))
/-- A string as blocks of 16 bytes, the last padded with zeros. -/
def pad16 (l : List Nat) : List (List Nat) :=
  (chunks 16 (l.length / 16 + 1) l).map fun b => b ++ List.replicate (16 - b.length) 0
/-- GHASH of the blocks. -/
def ghash (h : Nat) (bs : List (List Nat)) : Nat := bs.foldl (fun y b => ghMul 128 (y ^^^ beNat b) h) 0
/-- Counter mode from counter c on. -/
def gctr (ks : List (List Nat)) (iv : List Nat) : Nat → List (List Nat) → List Nat
  | _, [] => []
  | c, b :: l => xorBytes b (aesEnc ks (iv ++ beBytes 4 c)) ++ gctr ks iv (c + 1) l
/-- The 16-byte tag over the authenticated data and the ciphertext. -/
def gcmTag (ks : List (List Nat)) (iv aad ct : List Nat) : List Nat :=
  let h := beNat (aesEnc ks (List.replicate 16 0))
  let s := ghash h (pad16 aad ++ pad16 ct ++ [beBytes 8 (8 * aad.length) ++ beBytes 8 (8 * ct.length)])
  xorBytes (beBytes 16 s) (aesEnc ks (iv ++ beBytes 4 1))
/-- AES-256-GCM encryption: ciphertext and tag. -/
def gcmEnc (key iv aad pt : List Nat) : List Nat × List Nat :=
  let ks := aesKeys key
  let ct := gctr ks iv 2 (chunks 16 (pt.length / 16 + 1) pt)
  (ct, gcmTag ks iv aad ct)
/-- AES-256-GCM decryption: the plaintext when the tag verifies. -/
def gcmDec (key iv aad ct tag : List Nat) : Option (List Nat) :=
  let ks := aesKeys key
  if gcmTag ks iv aad ct = tag then some (gctr ks iv 2 (chunks 16 (ct.length / 16 + 1) ct)) else none

/-! ### SHA-256 and HMAC -/

/-- The round constants. -/
def shaK : List Nat :=
  [0x428a2f98, 0x71374491, 0xb5c0fbcf, 0xe9b5dba5, 0x3956c25b, 0x59f111f1, 0x923f82a4, 0xab1c5ed5]
  ++ [0xd807aa98, 0x12835b01, 0x243185be, 0x550c7dc3, 0x72be5d74, 0x80deb1fe, 0x9bdc06a7, 0xc19bf174]
  ++ [0xe49b69c1, 0xefbe4786, 0x0fc19dc6, 0x240ca1cc, 0x2de92c6f, 0x4a7484aa, 0x5cb0a9dc, 0x76f988da]
  ++ [0x983e5152, 0xa831c66d, 0xb00327c8, 0xbf597fc7, 0xc6e00bf3, 0xd5a79147, 0x06ca6351, 0x14292967]
  ++ [0x27b70a85, 0x2e1b2138, 0x4d2c6dfc, 0x53380d13, 0x650a7354, 0x766a0abb, 0x81c2c92e, 0x92722c85]
  ++ [0xa2bfe8a1, 0xa81a664b, 0xc24b8b70, 0xc76c51a3, 0xd192e819, 0xd6990624, 0xf40e3585, 0x106aa070]
  ++ [0x19a4c116, 0x1e376c08, 0x2748774c, 0x34b0bcb5, 0x391c0cb3, 0x4ed8aa4a, 0x5b9cca4f, 0x682e6ff3]
  ++ [0x748f82ee, 0x78a5636f, 0x84c87814, 0x8cc70208, 0x90befffa, 0xa4506ceb, 0xbef9a3f7, 0xc67178f2]
/-- The initial hash value. -/
def shaInit : List (BitVec 32) :=
  [0x6a09e667, 0xbb67ae85, 0x3c6ef372, 0xa54ff53a, 0x510e527f, 0x9b05688c, 0x1f83d9ab, 0x5be0cd19]
/-- Word i of a list of words. -/
def w32 (l : List (BitVec 32)) (i : Nat) : BitVec 32 := l.getD i 0
/-- n more words of the message schedule, newest first. -/
def shaSched : Nat → List (BitVec 32) → List (BitVec 32)
  | 0, w => w
  | n + 1, w =>
    let a := w32 w 1
    let b := w32 w 14
    shaSched n ((w32 w 15 + (b.rotateRight 7 ^^^ b.rotateRight 18 ^^^ (b >>> 3)) + w32 w 6
      + (a.rotateRight 17 ^^^ a.rotateRight 19 ^^^ (a >>> 10))) :: w)
/-- One round. -/
def shaRound (h : List (BitVec 32)) (kw : BitVec 32) : List (BitVec 32) :=
  let a := w32 h 0
  let e := w32 h 4
  let t1 := w32 h 7 + (e.rotateRight 6 ^^^ e.rotateRight 11 ^^^ e.rotateRight 25)
    + ((e &&& w32 h 5) ^^^ (~~~e &&& w32 h 6)) + kw
  let t2 := (a.rotateRight 2 ^^^ a.rotateRight 13 ^^^ a.rotateRight 22)
    + ((a &&& w32 h 1) ^^^ (a &&& w32 h 2) ^^^ (w32 h 1 &&& w32 h 2))
  [t1 + t2, a, w32 h 1, w32 h 2, w32 h 3 + t1, e, w32 h 5, w32 h 6]
/-- One block of 64 bytes. -/
def shaBlock (h : List (BitVec 32)) (b : List Nat) : List (BitVec 32) :=
  let w0 := (chunks 4 16 b).map fun x => BitVec.ofNat 32 (beNat x)
  let w := (shaSched 48 w0.reverse).reverse
  List.zipWith (· + ·) h ((List.zipWith (fun k x => BitVec.ofNat 32 k + x) shaK w).foldl shaRound h)
/-- The SHA-256 digest of a string, 32 bytes. -/
def sha256 (m : List Nat) : List Nat :=
  let z := (119 - m.length % 64) % 64
  let p := m ++ [0x80] ++ List.replicate z 0 ++ beBytes 8 (8 * m.length)
  ((chunks 64 (p.length / 64 + 1) p).foldl shaBlock shaInit).flatMap fun x => beBytes 4 x.toNat
/-- HMAC-SHA-256. -/
def hmac (key m : List Nat) : List Nat :=
  let k := if 64 < key.length then sha256 key else key
  let k := k ++ List.replicate (64 - k.length) 0
  sha256 (k.map (· ^^^ 0x5C) ++ sha256 (k.map (· ^^^ 0x36) ++ m))

/-! ### P-256 -/

/-- The field prime. -/
def pPrime : Nat := 2 ^ 256 - 2 ^ 224 + 2 ^ 192 + 2 ^ 96 - 1
/-- The group order. -/
def pOrder : Nat := 0xffffffff00000000ffffffffffffffffbce6faada7179e84f3b9cac2fc632551
/-- The base point. -/
def pBase : Nat × Nat :=
  (0x6b17d1f2e12c4247f8bce6e563a440f277037d812deb33a0f4a13945d898c296,
   0x4fe342e2fe1a7f9b8ee7eb4a7c0f9e162bce33576b315ececbb6406837bf51f5)
/-- a to the power of the n low bits of e, modulo m. -/
def powMod (m : Nat) : Nat → Nat → Nat → Nat
  | 0, _, _ => 1
  | n + 1, a, e => (if e % 2 = 1 then a else 1) * powMod m n (a * a % m) (e / 2) % m
/-- The inverse modulo a prime. -/
def invMod (m a : Nat) : Nat := powMod m 256 (a % m) (m - 2)
/-- Addition on the curve; none is the point at infinity. -/
def pAdd (p q : Option (Nat × Nat)) : Option (Nat × Nat) :=
  match p, q with
  | none, q => q
  | p, none => p
  | some (x1, y1), some (x2, y2) =>
    if x1 = x2 ∧ (y1 + y2) % pPrime = 0 then none
    else
      let l := if x1 = x2 then (3 * x1 * x1 + pPrime - 3) * invMod pPrime (2 * y1) % pPrime
        else (y2 + pPrime - y1) * invMod pPrime (x2 + pPrime - x1) % pPrime
      let x3 := (l * l + 2 * pPrime - x1 - x2) % pPrime
      some (x3, (l * (x1 + pPrime - x3) + pPrime - y1) % pPrime)
/-- The multiple of a point by the n low bits of k. -/
def pMul : Nat → Nat → Option (Nat × Nat) → Option (Nat × Nat)
  | 0, _, _ => none
  | n + 1, k, p => pAdd (if k % 2 = 1 then p else none) (pMul n (k / 2) (pAdd p p))
/-- The public key of a private one, 64 bytes: x then y. -/
def pPublic (d : Nat) : List Nat :=
  match pMul 256 d (some pBase) with
  | none => List.replicate 64 0
  | some (x, y) => beBytes 32 x ++ beBytes 32 y
/-- The ECDH x-coordinate of a private key with a public key of 64 bytes. -/
def ecdh (d : Nat) (pub : List Nat) : List Nat :=
  match pMul 256 d (some (beNat (pub.take 32), beNat (pub.drop 32))) with
  | none => List.replicate 32 0
  | some (x, _) => beBytes 32 x
/-- An ECDSA signature of a digest with a per-signature number k, 64 bytes: r then s. -/
def ecdsa (d k : Nat) (digest : List Nat) : List Nat :=
  let r := match pMul 256 k (some pBase) with
    | none => 0
    | some (x, _) => x % pOrder
  beBytes 32 r ++ beBytes 32 (invMod pOrder k * (beNat digest + r * d) % pOrder)

end Sys2Proof.Machine
end

