-- ==== Sys2Proof/Config.lean ====
section
/-! DEFINITION. What an implementation fixes and what the manual leaves open: constants without a body, so nothing can
be proved of their values (log entries 5, 13, 14, 15, 18, 19, 20, 52, 97, 107). -/

namespace Sys2Proof.Config

/-- Whether a thing whose duration the manual does not state (R418) is put off once more at the n-th time it is asked.
FREE VALUE. -/
opaque delayed : Nat → Bool
/-- Which of several orders or choices the manual leaves open is taken at the n-th time it is asked. FREE VALUE. -/
opaque choice : Nat → Nat
/-- Whether the host refuses the n-th access to host memory (R201, R403). FREE VALUE. -/
opaque hostRefuses : Nat → Bool
/-- The n-th key of the internal random source (R388, R391). FREE VALUE. -/
opaque randomKey : Nat → BitVec 512
/-- The context-sealing key of an ordinary partition of a package (R385, R394): no rule loads one. FREE VALUE. -/
opaque ordinarySeal : Nat → Nat → BitVec 256
/-- The fused P-256 identity key of a package (R393). FREE VALUE. -/
opaque identityKey : Nat → Nat
/-- The certificate chain of a package's identity key (R393), byte by byte. FREE VALUE. -/
opaque certChain : Nat → Nat → BitVec 8
/-- The bytes of a package's Apex firmware image (R393, R411), by count of accepted updates. FREE VALUE. -/
opaque firmwareImage : Nat → Nat → List (BitVec 8)
/-- Whether a firmware image at a host address bears a good signature (R411). FREE VALUE. -/
opaque firmwareSigned : Nat → Bool
/-- The port group through which a package reaches another (R411). FREE VALUE. -/
opaque portGroup : Nat → Nat → Nat
/-- The Apex port through which a package's traffic from another comes in (R308). FREE VALUE. -/
opaque apexPort : Nat → Nat → Nat
/-- The package between two others of a HyperX (R17): a free package number. A number that is one of the two, or names no
package, is none. FREE VALUE. -/
opaque via : Nat → Nat → Nat
/-- The header of a fabric packet from a die to a package (R390), as authenticated data. FREE VALUE. -/
opaque packetHeader : Nat → Nat → List Nat
/-- An island's fused operating table (R409): the pairs (VCODE, FRAC) it holds. FREE VALUE. -/
opaque operating : Nat → Nat → Nat → Bool

end Sys2Proof.Config
end

