-- ==== Sys2Proof/Syntax.lean ====
section
/-! DEFINITION. The syntax of the Krytond K8: one constructor for every row of spec/opcode_table.json.
A structure for each syllable format of R103 to R111 (spec/04_encoding.md) and each micro-operation format of R232
(spec/11_matrix.md); a field holds the bits the format names, as a natural number.
The device events of the table (CHORD_MULTICAST to REPORT_WRITTEN) name the unit they happen in. -/

namespace Sys2Proof

/-- Format CN. -/
structure FmtCN where
  g : Nat
  deriving DecidableEq, Repr

/-- Format CP. -/
structure FmtCP where
  g : Nat
  tb : Nat
  off : Nat
  deriving DecidableEq, Repr

/-- Format CR. -/
structure FmtCR where
  g : Nat
  tb : Nat
  sa : Nat
  deriving DecidableEq, Repr

/-- Format CT. -/
structure FmtCT where
  g : Nat
  tb : Nat
  p : Nat
  d : Nat
  lk : Nat
  deriving DecidableEq, Repr

/-- Format CLI. -/
structure FmtCLI where
  g : Nat
  l : Nat
  fin : Nat
  cnt : Nat
  deriving DecidableEq, Repr

/-- Format CLR. -/
structure FmtCLR where
  g : Nat
  l : Nat
  fin : Nat
  s : Nat
  deriving DecidableEq, Repr

/-- Format CJ. -/
structure FmtCJ where
  g : Nat
  k : Nat
  deriving DecidableEq, Repr

/-- Format CM. -/
structure FmtCM where
  g : Nat
  mode : Nat
  deriving DecidableEq, Repr

/-- Format CS. -/
structure FmtCS where
  g : Nat
  s : Nat
  pri : Nat
  deriving DecidableEq, Repr

/-- Format CX. -/
structure FmtCX where
  g : Nat
  code : Nat
  deriving DecidableEq, Repr

/-- Format SR. -/
structure FmtSR where
  g : Nat
  d : Nat
  a : Nat
  b : Nat
  deriving DecidableEq, Repr

/-- Format SRU. -/
structure FmtSRU where
  g : Nat
  d : Nat
  a : Nat
  b : Nat
  u : Nat
  deriving DecidableEq, Repr

/-- Format SI. -/
structure FmtSI where
  g : Nat
  d : Nat
  a : Nat
  i : Nat
  deriving DecidableEq, Repr

/-- Format SIW with its extension word. -/
structure FmtSIW where
  g : Nat
  d : Nat
  a : Nat
  i : Nat
  deriving DecidableEq, Repr

/-- Format SL. -/
structure FmtSL where
  g : Nat
  d : Nat
  i : Nat
  deriving DecidableEq, Repr

/-- Format SLW with its extension word. -/
structure FmtSLW where
  g : Nat
  d : Nat
  h : Nat
  i : Nat
  deriving DecidableEq, Repr

/-- Format SLH with its extension word. -/
structure FmtSLH where
  g : Nat
  d : Nat
  i : Nat
  deriving DecidableEq, Repr

/-- Format S1. -/
structure FmtS1 where
  g : Nat
  d : Nat
  a : Nat
  deriving DecidableEq, Repr

/-- Format SS. -/
structure FmtSS where
  g : Nat
  d : Nat
  a : Nat
  b : Nat
  p : Nat
  deriving DecidableEq, Repr

/-- Format SC. -/
structure FmtSC where
  g : Nat
  pd : Nat
  a : Nat
  b : Nat
  cond : Nat
  f : Nat
  fzi : Nat
  deriving DecidableEq, Repr

/-- Format SK. -/
structure FmtSK where
  g : Nat
  pd : Nat
  a : Nat
  cond : Nat
  i : Nat
  deriving DecidableEq, Repr

/-- Format SKW with its extension word. -/
structure FmtSKW where
  g : Nat
  pd : Nat
  a : Nat
  cond : Nat
  i : Nat
  deriving DecidableEq, Repr

/-- Format SH. -/
structure FmtSH where
  g : Nat
  d : Nat
  a : Nat
  n : Nat
  deriving DecidableEq, Repr

/-- Format SF. -/
structure FmtSF where
  g : Nat
  d : Nat
  a : Nat
  b : Nat
  t : Nat
  fzi : Nat
  fzo : Nat
  deriving DecidableEq, Repr

/-- Format SFW with its extension word. -/
structure FmtSFW where
  g : Nat
  d : Nat
  a : Nat
  b : Nat
  t : Nat
  fzi : Nat
  fzo : Nat
  sc : Nat
  rmo : Nat
  deriving DecidableEq, Repr

/-- Format SV. -/
structure FmtSV where
  g : Nat
  d : Nat
  a : Nat
  df : Nat
  sf : Nat
  fzi : Nat
  fzo : Nat
  u : Nat
  deriving DecidableEq, Repr

/-- Format SVW with its extension word. -/
structure FmtSVW where
  g : Nat
  d : Nat
  a : Nat
  df : Nat
  sf : Nat
  fzi : Nat
  fzo : Nat
  u : Nat
  rmo : Nat
  sat : Nat
  deriving DecidableEq, Repr

/-- Format SX. -/
structure FmtSX where
  g : Nat
  r : Nat
  csr : Nat
  deriving DecidableEq, Repr

/-- Format SM. -/
structure FmtSM where
  g : Nat
  s : Nat
  m : Nat
  d : Nat
  deriving DecidableEq, Repr

/-- Format MS. -/
structure FmtMS where
  g : Nat
  s : Nat
  b : Nat
  sz : Nat
  x : Nat
  pi : Nat
  h : Nat
  off : Nat
  deriving DecidableEq, Repr

/-- Format MSW with its extension word. -/
structure FmtMSW where
  g : Nat
  s : Nat
  b : Nat
  sz : Nat
  x : Nat
  pi : Nat
  h : Nat
  off : Nat
  deriving DecidableEq, Repr

/-- Format MT. -/
structure FmtMT where
  g : Nat
  b : Nat
  l : Nat
  deriving DecidableEq, Repr

/-- Format MTW with its extension word. -/
structure FmtMTW where
  g : Nat
  b : Nat
  len : Nat
  deriving DecidableEq, Repr

/-- Format MV. -/
structure FmtMV where
  g : Nat
  v : Nat
  b : Nat
  e : Nat
  pi : Nat
  h : Nat
  off : Nat
  deriving DecidableEq, Repr

/-- Format MVW with its extension word. -/
structure FmtMVW where
  g : Nat
  v : Nat
  b : Nat
  e : Nat
  pi : Nat
  h : Nat
  off : Nat
  deriving DecidableEq, Repr

/-- Format MX. -/
structure FmtMX where
  g : Nat
  v : Nat
  ix : Nat
  b : Nat
  e : Nat
  sh : Nat
  deriving DecidableEq, Repr

/-- Format VI. -/
structure FmtVI where
  g : Nat
  d : Nat
  a : Nat
  b : Nat
  e : Nat
  s : Nat
  u : Nat
  deriving DecidableEq, Repr

/-- Format VIW with its extension word. -/
structure FmtVIW where
  g : Nat
  d : Nat
  a : Nat
  b : Nat
  e : Nat
  s : Nat
  u : Nat
  bs : Nat
  sb : Nat
  deriving DecidableEq, Repr

/-- Format VC. -/
structure FmtVC where
  g : Nat
  pd : Nat
  a : Nat
  b : Nat
  cond : Nat
  f : Nat
  fzi : Nat
  deriving DecidableEq, Repr

/-- Format VS. -/
structure FmtVS where
  g : Nat
  d : Nat
  a : Nat
  b : Nat
  p : Nat
  deriving DecidableEq, Repr

/-- Format VSW with its extension word. -/
structure FmtVSW where
  g : Nat
  d : Nat
  a : Nat
  b : Nat
  p : Nat
  bs : Nat
  sb : Nat
  deriving DecidableEq, Repr

/-- Format VV. -/
structure FmtVV where
  g : Nat
  d : Nat
  a : Nat
  df : Nat
  sf : Nat
  part : Nat
  fzi : Nat
  fzo : Nat
  deriving DecidableEq, Repr

/-- Format VVW with its extension word. -/
structure FmtVVW where
  g : Nat
  d : Nat
  a : Nat
  df : Nat
  sf : Nat
  part : Nat
  fzi : Nat
  fzo : Nat
  rmo : Nat
  u : Nat
  sat : Nat
  deriving DecidableEq, Repr

/-- Format VP. -/
structure FmtVP where
  g : Nat
  d : Nat
  a : Nat
  x : Nat
  e : Nat
  deriving DecidableEq, Repr

/-- Format VB. -/
structure FmtVB where
  g : Nat
  d : Nat
  sa : Nat
  e : Nat
  deriving DecidableEq, Repr

/-- Format VF. -/
structure FmtVF where
  g : Nat
  d : Nat
  a : Nat
  b : Nat
  t : Nat
  fzi : Nat
  fzo : Nat
  deriving DecidableEq, Repr

/-- Format VFW with its extension word. -/
structure FmtVFW where
  g : Nat
  d : Nat
  a : Nat
  b : Nat
  t : Nat
  fzi : Nat
  fzo : Nat
  vc : Nat
  rmo : Nat
  bs : Nat
  sb : Nat
  deriving DecidableEq, Repr

/-- Format VR. -/
structure FmtVR where
  g : Nat
  d : Nat
  a : Nat
  fm : Nat
  x : Nat
  fzi : Nat
  fzo : Nat
  deriving DecidableEq, Repr

/-- Format VRW with its extension word. -/
structure FmtVRW where
  g : Nat
  d : Nat
  a : Nat
  fm : Nat
  x : Nat
  fzi : Nat
  fzo : Nat
  rmo : Nat
  deriving DecidableEq, Repr

/-- Format VL. -/
structure FmtVL where
  g : Nat
  s : Nat
  v : Nat
  lane : Nat
  d : Nat
  deriving DecidableEq, Repr

/-- Format VN. -/
structure FmtVN where
  g : Nat
  d : Nat
  pa : Nat
  deriving DecidableEq, Repr

/-- Format VM. -/
structure FmtVM where
  g : Nat
  d : Nat
  a : Nat
  x : Nat
  t : Nat
  fzi : Nat
  deriving DecidableEq, Repr

/-- Format VH. -/
structure FmtVH where
  g : Nat
  d : Nat
  a : Nat
  b : Nat
  deriving DecidableEq, Repr

/-- Format VHW with its extension word. -/
structure FmtVHW where
  g : Nat
  d : Nat
  a : Nat
  b : Nat
  bs : Nat
  sb : Nat
  deriving DecidableEq, Repr

/-- Format VO. -/
structure FmtVO where
  g : Nat
  pd : Nat
  pa : Nat
  mode : Nat
  deriving DecidableEq, Repr

/-- Format PL. -/
structure FmtPL where
  g : Nat
  pd : Nat
  pa : Nat
  pb : Nat
  deriving DecidableEq, Repr

/-- Format PU. -/
structure FmtPU where
  g : Nat
  pd : Nat
  pa : Nat
  deriving DecidableEq, Repr

/-- Format PS. -/
structure FmtPS where
  g : Nat
  pd : Nat
  n : Nat
  deriving DecidableEq, Repr

/-- Format PM. -/
structure FmtPM where
  g : Nat
  d : Nat
  a : Nat
  sel : Nat
  deriving DecidableEq, Repr

/-- Format XC. -/
structure FmtXC where
  g : Nat
  r : Nat
  deriving DecidableEq, Repr

/-- Format XP. -/
structure FmtXP where
  g : Nat
  a : Nat
  b : Nat
  idx : Nat
  deriving DecidableEq, Repr

/-- Format XZ. -/
structure FmtXZ where
  g : Nat
  v : Nat
  tile : Nat
  row : Nat
  h : Nat
  fz : Nat
  deriving DecidableEq, Repr

/-- Format XS. -/
structure FmtXS where
  g : Nat
  d : Nat
  tile : Nat
  clr : Nat
  deriving DecidableEq, Repr

/-- Format EC. -/
structure FmtEC where
  g : Nat
  dst : Nat
  src : Nat
  len : Nat
  bar : Nat
  nb : Nat
  dh : Nat
  deriving DecidableEq, Repr

/-- Format ECW with its extension word. -/
structure FmtECW where
  g : Nat
  dst : Nat
  src : Nat
  len : Nat
  bar : Nat
  nb : Nat
  dh : Nat
  inc : Nat
  ts : Nat
  tag : Nat
  ckpt : Nat
  rel : Nat
  acq : Nat
  scope : Nat
  opx : Nat
  deriving DecidableEq, Repr

/-- Format ESE. -/
structure FmtESE where
  g : Nat
  d : Nat
  op : Nat
  bar : Nat
  nb : Nat
  deriving DecidableEq, Repr

/-- Format ESEW with its extension word. -/
structure FmtESEW where
  g : Nat
  d : Nat
  op : Nat
  bar : Nat
  nb : Nat
  inc : Nat
  rel : Nat
  acq : Nat
  scope : Nat
  deriving DecidableEq, Repr

/-- Format EK. -/
structure FmtEK where
  g : Nat
  k : Nat
  d : Nat
  deriving DecidableEq, Repr

/-- Format EK0. -/
structure FmtEK0 where
  g : Nat
  k : Nat
  deriving DecidableEq, Repr

/-- Format EH. -/
structure FmtEH where
  g : Nat
  h : Nat
  deriving DecidableEq, Repr

/-- Format EG. -/
structure FmtEG where
  g : Nat
  dst : Nat
  adr : Nat
  hpc : Nat
  ck : Nat
  deriving DecidableEq, Repr

/-- Format EGW with its extension word. -/
structure FmtEGW where
  g : Nat
  dst : Nat
  adr : Nat
  hpc : Nat
  ck : Nat
  acq : Nat
  scope : Nat
  deriving DecidableEq, Repr

/-- Format EF. -/
structure FmtEF where
  g : Nat
  dst : Nat
  adr : Nat
  x : Nat
  op : Nat
  w : Nat
  deriving DecidableEq, Repr

/-- Format EFW with its extension word. -/
structure FmtEFW where
  g : Nat
  dst : Nat
  adr : Nat
  x : Nat
  op : Nat
  w : Nat
  rel : Nat
  acq : Nat
  scope : Nat
  opx : Nat
  deriving DecidableEq, Repr

/-- Format EA. -/
structure FmtEA where
  g : Nat
  dst : Nat
  src : Nat
  t : Nat
  bar : Nat
  nb : Nat
  deriving DecidableEq, Repr

/-- Format EAW with its extension word. -/
structure FmtEAW where
  g : Nat
  dst : Nat
  src : Nat
  t : Nat
  bar : Nat
  nb : Nat
  inc : Nat
  rel : Nat
  scope : Nat
  deriving DecidableEq, Repr

/-- Format ER. -/
structure FmtER where
  g : Nat
  src : Nat
  win : Nat
  rank : Nat
  deriving DecidableEq, Repr

/-- Format ERW with its extension word. -/
structure FmtERW where
  g : Nat
  src : Nat
  win : Nat
  rank : Nat
  rel : Nat
  scope : Nat
  deriving DecidableEq, Repr

/-- Format EN. -/
structure FmtEN where
  g : Nat
  scope : Nat
  deriving DecidableEq, Repr

/-- Format EBA. -/
structure FmtEBA where
  g : Nat
  b : Nat
  inc : Nat
  deriving DecidableEq, Repr

/-- Format EBW. -/
structure FmtEBW where
  g : Nat
  b : Nat
  ph : Nat
  deriving DecidableEq, Repr

/-- Format EBC. -/
structure FmtEBC where
  g : Nat
  b : Nat
  thr : Nat
  deriving DecidableEq, Repr

/-- Format EBCW with its extension word. -/
structure FmtEBCW where
  g : Nat
  b : Nat
  thr : Nat
  deriving DecidableEq, Repr

/-- Format EBI. -/
structure FmtEBI where
  g : Nat
  b : Nat
  a : Nat
  deriving DecidableEq, Repr

/-- Format ET. -/
structure FmtET where
  g : Nat
  d : Nat
  b : Nat
  thr : Nat
  desc : Nat
  deriving DecidableEq, Repr

/-- Format ETC. -/
structure FmtETC where
  g : Nat
  a : Nat
  deriving DecidableEq, Repr

/-- Format EM. -/
structure FmtEM where
  g : Nat
  m : Nat
  c : Nat
  deriving DecidableEq, Repr

/-- Format EP. -/
structure FmtEP where
  g : Nat
  a : Nat
  deriving DecidableEq, Repr

/-- Format EP0. -/
structure FmtEP0 where
  g : Nat
  deriving DecidableEq, Repr

/-- Format UW. -/
structure FmtUW where
  sel : Nat
  off : Nat
  qs : Nat
  soff : Nat
  fm : Nat
  fzi : Nat
  deriving DecidableEq, Repr

/-- Format UA. -/
structure FmtUA where
  sel : Nat
  off : Nat
  qd : Nat
  tile : Nat
  row0 : Nat
  nrows : Nat
  fm : Nat
  fzi : Nat
  gath : Nat
  deriving DecidableEq, Repr

/-- Format UT. -/
structure FmtUT where
  tile : Nat
  deriving DecidableEq, Repr

/-- Format UG. -/
structure FmtUG where
  tile : Nat
  gq : Nat
  q : Nat
  gexp : Nat
  deriving DecidableEq, Repr

/-- Format UC. -/
structure FmtUC where
  sel : Nat
  off : Nat
  qd : Nat
  tile : Nat
  row0 : Nat
  nrows : Nat
  tgt : Nat
  fzo : Nat
  tag : Nat
  deriving DecidableEq, Repr

/-- Format UL. -/
structure FmtUL where
  cq : Nat
  q : Nat
  cnt : Nat
  deriving DecidableEq, Repr

/-- Format UR. -/
structure FmtUR where
  w : Nat
  bq : Nat
  bar : Nat
  inc : Nat
  deriving DecidableEq, Repr

/-- Format UM. -/
structure FmtUM where
  bq : Nat
  bar : Nat
  ph : Nat
  deriving DecidableEq, Repr

/-- Format UI. -/
structure FmtUI where
  q : Nat
  imm : Nat
  deriving DecidableEq, Repr

/-- The instructions, micro-operations and device events of the opcode table. -/
inductive Instr where
  /-- The header 0x0000 (R93). -/
  | emptyBundle
  | nop (f : FmtCN)
  | prep (f : FmtCP)
  | prepr (f : FmtCR)
  | trans (f : FmtCT)
  | loopImm (f : FmtCLI)
  | loopReg (f : FmtCLR)
  | sync (f : FmtCN)
  | syncj (f : FmtCN)
  | syncl (f : FmtCN)
  | join (f : FmtCJ)
  | joinW (f : FmtCJ)
  | detach (f : FmtCN)
  | smode (f : FmtCM)
  | spawn (f : FmtCS)
  | suspend (f : FmtCN)
  | yield (f : FmtCN)
  | halt (f : FmtCN)
  | trap (f : FmtCX)
  | tret (f : FmtCN)
  | add (f : FmtSR)
  | sub (f : FmtSR)
  | mul (f : FmtSR)
  | mulh (f : FmtSRU)
  | div (f : FmtSRU)
  | rem (f : FmtSRU)
  | addi (f : FmtSI)
  | addiWide (f : FmtSIW)
  | movi (f : FmtSL)
  | moviWide (f : FmtSLW)
  | moviHi (f : FmtSLH)
  | and (f : FmtSR)
  | or (f : FmtSR)
  | xor (f : FmtSR)
  | shl (f : FmtSR)
  | shr (f : FmtSR)
  | sar (f : FmtSR)
  | min (f : FmtSR)
  | max (f : FmtSR)
  | umin (f : FmtSR)
  | umax (f : FmtSR)
  | clz (f : FmtS1)
  | popc (f : FmtS1)
  | sel (f : FmtSS)
  | cmp (f : FmtSC)
  | cmpi (f : FmtSK)
  | cmpiWide (f : FmtSKW)
  | andi (f : FmtSI)
  | andiWide (f : FmtSIW)
  | ori (f : FmtSI)
  | oriWide (f : FmtSIW)
  | xori (f : FmtSI)
  | xoriWide (f : FmtSIW)
  | shli (f : FmtSH)
  | shri (f : FmtSH)
  | sari (f : FmtSH)
  | fadd (f : FmtSF)
  | faddWide (f : FmtSFW)
  | fmul (f : FmtSF)
  | fmulWide (f : FmtSFW)
  | ffma (f : FmtSF)
  | ffmaWide (f : FmtSFW)
  | fcvt (f : FmtSV)
  | fcvtWide (f : FmtSVW)
  | csrr (f : FmtSX)
  | csrw (f : FmtSX)
  | movm (f : FmtSM)
  | ld (f : FmtMS)
  | ldWide (f : FmtMSW)
  | st (f : FmtMS)
  | stWide (f : FmtMSW)
  | ldf (f : FmtMS)
  | ldfWide (f : FmtMSW)
  | lde (f : FmtMS)
  | ldeWide (f : FmtMSW)
  | ste (f : FmtMS)
  | steWide (f : FmtMSW)
  | tage (f : FmtMT)
  | tageWide (f : FmtMTW)
  | tagf (f : FmtMT)
  | tagfWide (f : FmtMTW)
  | vld (f : FmtMV)
  | vldWide (f : FmtMVW)
  | vst (f : FmtMV)
  | vstWide (f : FmtMVW)
  | vldx (f : FmtMX)
  | vstx (f : FmtMX)
  | vadd (f : FmtVI)
  | vaddWide (f : FmtVIW)
  | vsub (f : FmtVI)
  | vsubWide (f : FmtVIW)
  | vmul (f : FmtVI)
  | vmulWide (f : FmtVIW)
  | vmin (f : FmtVI)
  | vminWide (f : FmtVIW)
  | vmax (f : FmtVI)
  | vmaxWide (f : FmtVIW)
  | vand (f : FmtVI)
  | vandWide (f : FmtVIW)
  | vor (f : FmtVI)
  | vorWide (f : FmtVIW)
  | vxor (f : FmtVI)
  | vxorWide (f : FmtVIW)
  | vshl (f : FmtVI)
  | vshlWide (f : FmtVIW)
  | vshr (f : FmtVI)
  | vshrWide (f : FmtVIW)
  | vsar (f : FmtVI)
  | vsarWide (f : FmtVIW)
  | vcmp (f : FmtVC)
  | vsel (f : FmtVS)
  | vselWide (f : FmtVSW)
  | vcvt (f : FmtVV)
  | vcvtWide (f : FmtVVW)
  | vperm (f : FmtVP)
  | vbcast (f : FmtVB)
  | vaddF (f : FmtVF)
  | vaddFWide (f : FmtVFW)
  | vsubF (f : FmtVF)
  | vsubFWide (f : FmtVFW)
  | vmulF (f : FmtVF)
  | vmulFWide (f : FmtVFW)
  | vfma (f : FmtVF)
  | vfmaWide (f : FmtVFW)
  | vminF (f : FmtVF)
  | vminFWide (f : FmtVFW)
  | vmaxF (f : FmtVF)
  | vmaxFWide (f : FmtVFW)
  | vsum (f : FmtVR)
  | vsumWide (f : FmtVRW)
  | vmaxr (f : FmtVR)
  | vmaxrWide (f : FmtVRW)
  | vscan (f : FmtVR)
  | vscanWide (f : FmtVRW)
  | vlane (f : FmtVL)
  | vpopc (f : FmtVN)
  | vcmpr (f : FmtVM)
  | vhash (f : FmtVH)
  | vhashWide (f : FmtVHW)
  | vvote (f : FmtVO)
  | vexp2 (f : FmtVF)
  | vexp2Wide (f : FmtVFW)
  | vlog2 (f : FmtVF)
  | vlog2Wide (f : FmtVFW)
  | vrcp (f : FmtVF)
  | vrcpWide (f : FmtVFW)
  | vrsq (f : FmtVF)
  | vrsqWide (f : FmtVFW)
  | pand (f : FmtPL)
  | por (f : FmtPL)
  | pxor (f : FmtPL)
  | pnot (f : FmtPU)
  | pset (f : FmtPS)
  | pmov (f : FmtPM)
  | mxcall (f : FmtXC)
  | mxprog (f : FmtXP)
  | mxprogTab (f : FmtXP)
  | zrd (f : FmtXZ)
  | zwr (f : FmtXZ)
  | mxstat (f : FmtXS)
  | copy (f : FmtEC)
  | copyWide (f : FmtECW)
  | copy2d (f : FmtEC)
  | copy2dWide (f : FmtECW)
  | tmov (f : FmtEC)
  | tmovWide (f : FmtECW)
  | seop (f : FmtESE)
  | seopWide (f : FmtESEW)
  | copyUnseal (f : FmtEC)
  | copyUnsealWide (f : FmtECW)
  | strcfg (f : FmtEK)
  | stron (f : FmtEK0)
  | stroff (f : FmtEK0)
  | bufrel (f : FmtEH)
  | rput (f : FmtEC)
  | rputWide (f : FmtECW)
  | rget (f : FmtEG)
  | rgetWide (f : FmtEGW)
  | rgetv (f : FmtEC)
  | rgetvWide (f : FmtECW)
  | rfop (f : FmtEF)
  | rfopWide (f : FmtEFW)
  | rfopIncw (f : FmtEFW)
  | rfopBadd (f : FmtEFW)
  | rfopCas (f : FmtEFW)
  | rvatom (f : FmtEA)
  | rvatomWide (f : FmtEAW)
  | rred (f : FmtER)
  | rredWide (f : FmtERW)
  | rmcast (f : FmtEC)
  | rmcastWide (f : FmtECW)
  | fence (f : FmtEN)
  | arrive (f : FmtEBA)
  | waitb (f : FmtEBW)
  | waitbC (f : FmtEBC)
  | waitbCWide (f : FmtEBCW)
  | waith (f : FmtEH)
  | barinit (f : FmtEBI)
  | trigarm (f : FmtET)
  | trigcancel (f : FmtETC)
  | moncfgConfigure (f : FmtEM)
  | moncfgSnapshot (f : FmtEM)
  | moncfgSnapshotClear (f : FmtEM)
  | moncfgStop (f : FmtEM)
  | tlbinv (f : FmtEP)
  | tlbinvPart (f : FmtEP0)
  | tlbinvPkg (f : FmtEP0)
  | slotld (f : FmtEP)
  | buddyset (f : FmtEP)
  | mret
  | wld (f : FmtUW)
  | wswap
  | ast (f : FmtUA)
  | zclr (f : FmtUT)
  | zgrid (f : FmtUG)
  | zcvt (f : FmtUC)
  | mloop (f : FmtUL)
  | mend
  | marrive (f : FmtUR)
  | mwait (f : FmtUM)
  | minc (f : FmtUI)
  | chordMulticast
  | chordRestart
  | joinTimeout
  | chordJoinTimeout
  | transferMature
  | loopEnd
  | syncGenerationComplete
  | waitTimeout
  | tagWaitTimeout
  | takeRecord
  | arrivalOverflowPush
  | schedulerDispatch
  | batchPush
  | priorityAging
  | skipLimit
  | coreLeaveNode
  | engineNodeComplete
  | decrement
  | failureNotice
  | notifyRingWrite
  | notifyAck
  | corestartGo
  | coreMapWrite
  | preemptRequeue
  | preemptPark
  | preemptResume
  | preemptStop
  | drainTimeout
  | imageSave
  | imageRestore
  | bteRelease
  | handleFillClaim
  | bteHandleTimeout
  | bteCommandComplete
  | arriveApply
  | seCommandStart
  | seCommandComplete
  | streamEntryFetch
  | streamEntryWrite
  | pageWalk
  | fabricWriteAtHome
  | remoteBarrierIncrement
  | putAcknowledge
  | multicastMemberDelivery
  | rgetReadAtHome
  | rgetReply
  | rgetvComplete
  | combineRequest
  | rfopAtHome
  | combinedReplySplit
  | rfopReply
  | rvatomAtHome
  | cruPartialForward
  | contributionAtRoot
  | roundTimeout
  | roundEndMessage
  | peerTimeout
  | slotTableEffect
  | monitorPeriodicSample
  | uncorrectableError
  | packageReset
  | dieTableWrite
  | windowTableWrite
  | reductionWindowWrite
  | rankMapWrite
  | graphTableWrite
  | contextTableWrite
  | keyTableWrite
  | sweepRekey
  | deadPeerClear
  | ownershipWrite
  | pctlDefine
  | functionLevelReset
  | launch
  | heartbeat
  | heartbeatPeriodExpiry
  | graceExpiry
  | qnonceWrite
  | extendWrite
  | keyload
  | efqPop
  | monownWrite
  | islctlWrite
  | islandChangeDone
  | pgctlDrain
  | pgctlLoad
  | firmwareLoadDone
  | registerWrite
  | btePieceWrite
  | seRowOperation
  | rgetvPieceLanding
  | microopComplete
  | targetLinesReady
  | codeCopyComplete
  | reportWritten
  deriving DecidableEq, Repr

end Sys2Proof
end

