-- ==== Sys2Proof/WellFormed.lean ====
section
/-! DEFINITION. Which field values each instruction accepts (R98, R102 to R112, R232): the width of every field, and
the values the value tables of spec/04_encoding.md and the instruction's own chapter accept. -/

namespace Sys2Proof

/-- RMO (R102): 0 or a rounding mode; 1 to 3 are reserved. -/
def rmoOk (r : Nat) : Bool := r == 0 || decide (4 ≤ r)
/-- COND of CMP (R102, R148): integer compares accept 0 to 9, FP32 compares 0 to 3, 6, 7 and 10; FZI only with F = 1 (R149). -/
def cmpOk (c f z : Nat) : Bool :=
  if f == 0 then decide (c ≤ 9) && z == 0 else (decide (c ≤ 3) || c == 6 || c == 7 || c == 10)
/-- VCOND of VCMP (R102, R163). -/
def vcmpOk (c f z : Nat) : Bool :=
  if f == 0 then decide (c ≤ 5) && z == 0 else (decide (c ≤ 3) || c == 6)
/-- Integer formats among the FMT codes (R102): I32, I16, I8, I64. -/
def fmtInt (k : Nat) : Bool := k == 0 || k == 6 || k == 7 || k == 8
/-- FCVT (R105, R151): formats 0 to 8, unequal; U with an integer side; SAT with an integer destination. -/
def fcvtOk (df sf u sat : Nat) : Bool :=
  decide (df ≤ 8) && decide (sf ≤ 8) && df != sf && (u == 0 || fmtInt df || fmtInt sf) && (sat == 0 || fmtInt df)
/-- Width in bits of an FMT code (R102). -/
def fmtBits (k : Nat) : Nat :=
  if k == 0 || k == 1 then 32 else if k == 4 || k == 5 || k == 7 then 8 else if k == 8 then 64 else 16
/-- VCVT (R165): unequal formats, PART in range, U with an integer side, SAT with an integer destination. -/
def vcvtOk (df sf part u sat : Nat) : Bool :=
  df != sf && (u == 0 || fmtInt df || fmtInt sf) && (sat == 0 || fmtInt df) &&
    decide (part < max (fmtBits df / fmtBits sf) (max (fmtBits sf / fmtBits df) 1))
/-- VSUM, VMAXR, VSCAN (R166): no E4M3 or E5M2; FZI and FZO 0 for integer formats. -/
def vredOk (k zi zo : Nat) : Bool := k != 4 && k != 5 && (!fmtInt k || (zi == 0 && zo == 0))
/-- PI = 1 together with H = 1 is not accepted (R106). -/
def msOk (pi h : Nat) : Bool := pi == 0 || h == 0
/-- BS and SB of VX (R108, R159). -/
def bsOk (b bs sb : Nat) : Bool := if bs == 0 then sb == 0 else b == 0
/-- SCOPE of EX (R111, R262): 0 when REL and ACQ are 0, never 6 or 7. -/
def scopeOk (rel acq scope : Nat) : Bool := if rel == 0 && acq == 0 then scope == 0 else decide (scope ≤ 5)
/-- OPX of RPUT (R297): bits 6:5 are 0, and bits 4:0 are 0 when RB is 0. -/
def rbOk (opx : Nat) : Bool := opx / 32 % 4 == 0 && (opx / 128 == 1 || opx == 0)
/-- SEL of a micro-operation (R231): with bit 5 = 0, bits 4:3 are 0. -/
def selOk (sel : Nat) : Bool := decide (32 ≤ sel) || decide (sel < 8)
/-- Weight and activation formats (R232): 0 to 3 and 15. -/
def wfmtOk (k : Nat) : Bool := decide (k ≤ 3) || k == 15
/-- The CSR numbers that name a register (R129). -/
def csrNumbers : List Nat :=
  [0x000, 0x001, 0x002, 0x003, 0x004, 0x005, 0x006, 0x010, 0x011, 0x018, 0x020, 0x028, 0x029, 0x02A, 0x02B,
   0x030, 0x031, 0x032, 0x033, 0x800, 0x801, 0x802, 0x803, 0x804, 0x810, 0x811, 0x812, 0x820]
/-- The CSR number is listed (R129). -/
def csrListed (n : Nat) : Bool := csrNumbers.contains n

/-- Every field of format CN fits its bits. -/
def FmtFits.CN (f : FmtCN) : Bool :=
  decide (f.g < 16)
/-- Every field of format CP fits its bits. -/
def FmtFits.CP (f : FmtCP) : Bool :=
  decide (f.g < 16) && decide (f.tb < 8) && decide (f.off < 524288)
/-- Every field of format CR fits its bits. -/
def FmtFits.CR (f : FmtCR) : Bool :=
  decide (f.g < 16) && decide (f.tb < 8) && decide (f.sa < 32)
/-- Every field of format CT fits its bits. -/
def FmtFits.CT (f : FmtCT) : Bool :=
  decide (f.g < 16) && decide (f.tb < 8) && decide (f.p < 32) && decide (f.d < 4) && decide (f.lk < 2)
/-- Every field of format CLI fits its bits. -/
def FmtFits.CLI (f : FmtCLI) : Bool :=
  decide (f.g < 16) && decide (f.l < 2) && decide (f.fin < 1024) && decide (f.cnt < 1024)
/-- Every field of format CLR fits its bits. -/
def FmtFits.CLR (f : FmtCLR) : Bool :=
  decide (f.g < 16) && decide (f.l < 2) && decide (f.fin < 1024) && decide (f.s < 32)
/-- Every field of format CJ fits its bits. -/
def FmtFits.CJ (f : FmtCJ) : Bool :=
  decide (f.g < 16) && decide (f.k < 16)
/-- Every field of format CM fits its bits. -/
def FmtFits.CM (f : FmtCM) : Bool :=
  decide (f.g < 16) && decide (f.mode < 4)
/-- Every field of format CS fits its bits. -/
def FmtFits.CS (f : FmtCS) : Bool :=
  decide (f.g < 16) && decide (f.s < 32) && decide (f.pri < 2)
/-- Every field of format CX fits its bits. -/
def FmtFits.CX (f : FmtCX) : Bool :=
  decide (f.g < 16) && decide (f.code < 256)
/-- Every field of format SR fits its bits. -/
def FmtFits.SR (f : FmtSR) : Bool :=
  decide (f.g < 16) && decide (f.d < 32) && decide (f.a < 32) && decide (f.b < 32)
/-- Every field of format SRU fits its bits. -/
def FmtFits.SRU (f : FmtSRU) : Bool :=
  decide (f.g < 16) && decide (f.d < 32) && decide (f.a < 32) && decide (f.b < 32) && decide (f.u < 2)
/-- Every field of format SI fits its bits. -/
def FmtFits.SI (f : FmtSI) : Bool :=
  decide (f.g < 16) && decide (f.d < 32) && decide (f.a < 32) && decide (f.i < 4096)
/-- Every field of format SIW fits its bits. -/
def FmtFits.SIW (f : FmtSIW) : Bool :=
  decide (f.g < 16) && decide (f.d < 32) && decide (f.a < 32) && decide (f.i < 4294967296)
/-- Every field of format SL fits its bits. -/
def FmtFits.SL (f : FmtSL) : Bool :=
  decide (f.g < 16) && decide (f.d < 32) && decide (f.i < 131072)
/-- Every field of format SLW fits its bits. -/
def FmtFits.SLW (f : FmtSLW) : Bool :=
  decide (f.g < 16) && decide (f.d < 32) && decide (f.h < 2) && decide (f.i < 4294967296)
/-- Every field of format SLH fits its bits. -/
def FmtFits.SLH (f : FmtSLH) : Bool :=
  decide (f.g < 16) && decide (f.d < 32) && decide (f.i < 4294967296)
/-- Every field of format S1 fits its bits. -/
def FmtFits.S1 (f : FmtS1) : Bool :=
  decide (f.g < 16) && decide (f.d < 32) && decide (f.a < 32)
/-- Every field of format SS fits its bits. -/
def FmtFits.SS (f : FmtSS) : Bool :=
  decide (f.g < 16) && decide (f.d < 32) && decide (f.a < 32) && decide (f.b < 32) && decide (f.p < 32)
/-- Every field of format SC fits its bits. -/
def FmtFits.SC (f : FmtSC) : Bool :=
  decide (f.g < 16) && decide (f.pd < 32) && decide (f.a < 32) && decide (f.b < 32) && decide (f.cond < 16) && decide (f.f < 2) && decide (f.fzi < 2)
/-- Every field of format SK fits its bits. -/
def FmtFits.SK (f : FmtSK) : Bool :=
  decide (f.g < 16) && decide (f.pd < 32) && decide (f.a < 32) && decide (f.cond < 16) && decide (f.i < 256)
/-- Every field of format SKW fits its bits. -/
def FmtFits.SKW (f : FmtSKW) : Bool :=
  decide (f.g < 16) && decide (f.pd < 32) && decide (f.a < 32) && decide (f.cond < 16) && decide (f.i < 4294967296)
/-- Every field of format SH fits its bits. -/
def FmtFits.SH (f : FmtSH) : Bool :=
  decide (f.g < 16) && decide (f.d < 32) && decide (f.a < 32) && decide (f.n < 64)
/-- Every field of format SF fits its bits. -/
def FmtFits.SF (f : FmtSF) : Bool :=
  decide (f.g < 16) && decide (f.d < 32) && decide (f.a < 32) && decide (f.b < 32) && decide (f.t < 4) && decide (f.fzi < 2) && decide (f.fzo < 2)
/-- Every field of format SFW fits its bits. -/
def FmtFits.SFW (f : FmtSFW) : Bool :=
  decide (f.g < 16) && decide (f.d < 32) && decide (f.a < 32) && decide (f.b < 32) && decide (f.t < 4) && decide (f.fzi < 2) && decide (f.fzo < 2) && decide (f.sc < 32) && decide (f.rmo < 8)
/-- Every field of format SV fits its bits. -/
def FmtFits.SV (f : FmtSV) : Bool :=
  decide (f.g < 16) && decide (f.d < 32) && decide (f.a < 32) && decide (f.df < 16) && decide (f.sf < 16) && decide (f.fzi < 2) && decide (f.fzo < 2) && decide (f.u < 2)
/-- Every field of format SVW fits its bits. -/
def FmtFits.SVW (f : FmtSVW) : Bool :=
  decide (f.g < 16) && decide (f.d < 32) && decide (f.a < 32) && decide (f.df < 16) && decide (f.sf < 16) && decide (f.fzi < 2) && decide (f.fzo < 2) && decide (f.u < 2) && decide (f.rmo < 8) && decide (f.sat < 2)
/-- Every field of format SX fits its bits. -/
def FmtFits.SX (f : FmtSX) : Bool :=
  decide (f.g < 16) && decide (f.r < 32) && decide (f.csr < 4096)
/-- Every field of format SM fits its bits. -/
def FmtFits.SM (f : FmtSM) : Bool :=
  decide (f.g < 16) && decide (f.s < 32) && decide (f.m < 8) && decide (f.d < 2)
/-- Every field of format MS fits its bits. -/
def FmtFits.MS (f : FmtMS) : Bool :=
  decide (f.g < 16) && decide (f.s < 32) && decide (f.b < 32) && decide (f.sz < 4) && decide (f.x < 2) && decide (f.pi < 2) && decide (f.h < 2) && decide (f.off < 128)
/-- Every field of format MSW fits its bits. -/
def FmtFits.MSW (f : FmtMSW) : Bool :=
  decide (f.g < 16) && decide (f.s < 32) && decide (f.b < 32) && decide (f.sz < 4) && decide (f.x < 2) && decide (f.pi < 2) && decide (f.h < 2) && decide (f.off < 4294967296)
/-- Every field of format MT fits its bits. -/
def FmtFits.MT (f : FmtMT) : Bool :=
  decide (f.g < 16) && decide (f.b < 32) && decide (f.l < 32)
/-- Every field of format MTW fits its bits. -/
def FmtFits.MTW (f : FmtMTW) : Bool :=
  decide (f.g < 16) && decide (f.b < 32) && decide (f.len < 4294967296)
/-- Every field of format MV fits its bits. -/
def FmtFits.MV (f : FmtMV) : Bool :=
  decide (f.g < 16) && decide (f.v < 64) && decide (f.b < 32) && decide (f.e < 4) && decide (f.pi < 2) && decide (f.h < 2) && decide (f.off < 128)
/-- Every field of format MVW fits its bits. -/
def FmtFits.MVW (f : FmtMVW) : Bool :=
  decide (f.g < 16) && decide (f.v < 64) && decide (f.b < 32) && decide (f.e < 4) && decide (f.pi < 2) && decide (f.h < 2) && decide (f.off < 4294967296)
/-- Every field of format MX fits its bits. -/
def FmtFits.MX (f : FmtMX) : Bool :=
  decide (f.g < 16) && decide (f.v < 64) && decide (f.ix < 64) && decide (f.b < 32) && decide (f.e < 4) && decide (f.sh < 8)
/-- Every field of format VI fits its bits. -/
def FmtFits.VI (f : FmtVI) : Bool :=
  decide (f.g < 16) && decide (f.d < 64) && decide (f.a < 64) && decide (f.b < 64) && decide (f.e < 4) && decide (f.s < 2) && decide (f.u < 2)
/-- Every field of format VIW fits its bits. -/
def FmtFits.VIW (f : FmtVIW) : Bool :=
  decide (f.g < 16) && decide (f.d < 64) && decide (f.a < 64) && decide (f.b < 64) && decide (f.e < 4) && decide (f.s < 2) && decide (f.u < 2) && decide (f.bs < 2) && decide (f.sb < 32)
/-- Every field of format VC fits its bits. -/
def FmtFits.VC (f : FmtVC) : Bool :=
  decide (f.g < 16) && decide (f.pd < 32) && decide (f.a < 64) && decide (f.b < 64) && decide (f.cond < 8) && decide (f.f < 2) && decide (f.fzi < 2)
/-- Every field of format VS fits its bits. -/
def FmtFits.VS (f : FmtVS) : Bool :=
  decide (f.g < 16) && decide (f.d < 64) && decide (f.a < 64) && decide (f.b < 64) && decide (f.p < 16)
/-- Every field of format VSW fits its bits. -/
def FmtFits.VSW (f : FmtVSW) : Bool :=
  decide (f.g < 16) && decide (f.d < 64) && decide (f.a < 64) && decide (f.b < 64) && decide (f.p < 16) && decide (f.bs < 2) && decide (f.sb < 32)
/-- Every field of format VV fits its bits. -/
def FmtFits.VV (f : FmtVV) : Bool :=
  decide (f.g < 16) && decide (f.d < 64) && decide (f.a < 64) && decide (f.df < 8) && decide (f.sf < 8) && decide (f.part < 4) && decide (f.fzi < 2) && decide (f.fzo < 2)
/-- Every field of format VVW fits its bits. -/
def FmtFits.VVW (f : FmtVVW) : Bool :=
  decide (f.g < 16) && decide (f.d < 64) && decide (f.a < 64) && decide (f.df < 8) && decide (f.sf < 8) && decide (f.part < 4) && decide (f.fzi < 2) && decide (f.fzo < 2) && decide (f.rmo < 8) && decide (f.u < 2) && decide (f.sat < 2)
/-- Every field of format VP fits its bits. -/
def FmtFits.VP (f : FmtVP) : Bool :=
  decide (f.g < 16) && decide (f.d < 64) && decide (f.a < 64) && decide (f.x < 64) && decide (f.e < 4)
/-- Every field of format VB fits its bits. -/
def FmtFits.VB (f : FmtVB) : Bool :=
  decide (f.g < 16) && decide (f.d < 64) && decide (f.sa < 32) && decide (f.e < 4)
/-- Every field of format VF fits its bits. -/
def FmtFits.VF (f : FmtVF) : Bool :=
  decide (f.g < 16) && decide (f.d < 64) && decide (f.a < 64) && decide (f.b < 64) && decide (f.t < 4) && decide (f.fzi < 2) && decide (f.fzo < 2)
/-- Every field of format VFW fits its bits. -/
def FmtFits.VFW (f : FmtVFW) : Bool :=
  decide (f.g < 16) && decide (f.d < 64) && decide (f.a < 64) && decide (f.b < 64) && decide (f.t < 4) && decide (f.fzi < 2) && decide (f.fzo < 2) && decide (f.vc < 64) && decide (f.rmo < 8) && decide (f.bs < 2) && decide (f.sb < 32)
/-- Every field of format VR fits its bits. -/
def FmtFits.VR (f : FmtVR) : Bool :=
  decide (f.g < 16) && decide (f.d < 64) && decide (f.a < 64) && decide (f.fm < 8) && decide (f.x < 2) && decide (f.fzi < 2) && decide (f.fzo < 2)
/-- Every field of format VRW fits its bits. -/
def FmtFits.VRW (f : FmtVRW) : Bool :=
  decide (f.g < 16) && decide (f.d < 64) && decide (f.a < 64) && decide (f.fm < 8) && decide (f.x < 2) && decide (f.fzi < 2) && decide (f.fzo < 2) && decide (f.rmo < 8)
/-- Every field of format VL fits its bits. -/
def FmtFits.VL (f : FmtVL) : Bool :=
  decide (f.g < 16) && decide (f.s < 32) && decide (f.v < 64) && decide (f.lane < 64) && decide (f.d < 2)
/-- Every field of format VN fits its bits. -/
def FmtFits.VN (f : FmtVN) : Bool :=
  decide (f.g < 16) && decide (f.d < 32) && decide (f.pa < 32)
/-- Every field of format VM fits its bits. -/
def FmtFits.VM (f : FmtVM) : Bool :=
  decide (f.g < 16) && decide (f.d < 64) && decide (f.a < 64) && decide (f.x < 64) && decide (f.t < 4) && decide (f.fzi < 2)
/-- Every field of format VH fits its bits. -/
def FmtFits.VH (f : FmtVH) : Bool :=
  decide (f.g < 16) && decide (f.d < 64) && decide (f.a < 64) && decide (f.b < 64)
/-- Every field of format VHW fits its bits. -/
def FmtFits.VHW (f : FmtVHW) : Bool :=
  decide (f.g < 16) && decide (f.d < 64) && decide (f.a < 64) && decide (f.b < 64) && decide (f.bs < 2) && decide (f.sb < 32)
/-- Every field of format VO fits its bits. -/
def FmtFits.VO (f : FmtVO) : Bool :=
  decide (f.g < 16) && decide (f.pd < 32) && decide (f.pa < 32) && decide (f.mode < 4)
/-- Every field of format PL fits its bits. -/
def FmtFits.PL (f : FmtPL) : Bool :=
  decide (f.g < 16) && decide (f.pd < 32) && decide (f.pa < 32) && decide (f.pb < 32)
/-- Every field of format PU fits its bits. -/
def FmtFits.PU (f : FmtPU) : Bool :=
  decide (f.g < 16) && decide (f.pd < 32) && decide (f.pa < 32)
/-- Every field of format PS fits its bits. -/
def FmtFits.PS (f : FmtPS) : Bool :=
  decide (f.g < 16) && decide (f.pd < 32) && decide (f.n < 128)
/-- Every field of format PM fits its bits. -/
def FmtFits.PM (f : FmtPM) : Bool :=
  decide (f.g < 16) && decide (f.d < 32) && decide (f.a < 32) && decide (f.sel < 4)
/-- Every field of format XC fits its bits. -/
def FmtFits.XC (f : FmtXC) : Bool :=
  decide (f.g < 16) && decide (f.r < 64)
/-- Every field of format XP fits its bits. -/
def FmtFits.XP (f : FmtXP) : Bool :=
  decide (f.g < 16) && decide (f.a < 32) && decide (f.b < 32) && decide (f.idx < 1024)
/-- Every field of format XZ fits its bits. -/
def FmtFits.XZ (f : FmtXZ) : Bool :=
  decide (f.g < 16) && decide (f.v < 64) && decide (f.tile < 16) && decide (f.row < 32) && decide (f.h < 2) && decide (f.fz < 2)
/-- Every field of format XS fits its bits. -/
def FmtFits.XS (f : FmtXS) : Bool :=
  decide (f.g < 16) && decide (f.d < 32) && decide (f.tile < 16) && decide (f.clr < 2)
/-- Every field of format EC fits its bits. -/
def FmtFits.EC (f : FmtEC) : Bool :=
  decide (f.g < 16) && decide (f.dst < 32) && decide (f.src < 32) && decide (f.len < 32) && decide (f.bar < 32) && decide (f.nb < 2) && decide (f.dh < 2)
/-- Every field of format ECW fits its bits. -/
def FmtFits.ECW (f : FmtECW) : Bool :=
  decide (f.g < 16) && decide (f.dst < 32) && decide (f.src < 32) && decide (f.len < 32) && decide (f.bar < 32) && decide (f.nb < 2) && decide (f.dh < 2) && decide (f.inc < 4096) && decide (f.ts < 32) && decide (f.tag < 2) && decide (f.ckpt < 2) && decide (f.rel < 2) && decide (f.acq < 2) && decide (f.scope < 8) && decide (f.opx < 256)
/-- Every field of format ESE fits its bits. -/
def FmtFits.ESE (f : FmtESE) : Bool :=
  decide (f.g < 16) && decide (f.d < 32) && decide (f.op < 4) && decide (f.bar < 32) && decide (f.nb < 2)
/-- Every field of format ESEW fits its bits. -/
def FmtFits.ESEW (f : FmtESEW) : Bool :=
  decide (f.g < 16) && decide (f.d < 32) && decide (f.op < 4) && decide (f.bar < 32) && decide (f.nb < 2) && decide (f.inc < 4096) && decide (f.rel < 2) && decide (f.acq < 2) && decide (f.scope < 8)
/-- Every field of format EK fits its bits. -/
def FmtFits.EK (f : FmtEK) : Bool :=
  decide (f.g < 16) && decide (f.k < 8) && decide (f.d < 32)
/-- Every field of format EK0 fits its bits. -/
def FmtFits.EK0 (f : FmtEK0) : Bool :=
  decide (f.g < 16) && decide (f.k < 8)
/-- Every field of format EH fits its bits. -/
def FmtFits.EH (f : FmtEH) : Bool :=
  decide (f.g < 16) && decide (f.h < 32)
/-- Every field of format EG fits its bits. -/
def FmtFits.EG (f : FmtEG) : Bool :=
  decide (f.g < 16) && decide (f.dst < 32) && decide (f.adr < 32) && decide (f.hpc < 32) && decide (f.ck < 32)
/-- Every field of format EGW fits its bits. -/
def FmtFits.EGW (f : FmtEGW) : Bool :=
  decide (f.g < 16) && decide (f.dst < 32) && decide (f.adr < 32) && decide (f.hpc < 32) && decide (f.ck < 32) && decide (f.acq < 2) && decide (f.scope < 8)
/-- Every field of format EF fits its bits. -/
def FmtFits.EF (f : FmtEF) : Bool :=
  decide (f.g < 16) && decide (f.dst < 32) && decide (f.adr < 32) && decide (f.x < 32) && decide (f.op < 16) && decide (f.w < 2)
/-- Every field of format EFW fits its bits. -/
def FmtFits.EFW (f : FmtEFW) : Bool :=
  decide (f.g < 16) && decide (f.dst < 32) && decide (f.adr < 32) && decide (f.x < 32) && decide (f.op < 16) && decide (f.w < 2) && decide (f.rel < 2) && decide (f.acq < 2) && decide (f.scope < 8) && decide (f.opx < 256)
/-- Every field of format EA fits its bits. -/
def FmtFits.EA (f : FmtEA) : Bool :=
  decide (f.g < 16) && decide (f.dst < 32) && decide (f.src < 32) && decide (f.t < 2) && decide (f.bar < 32) && decide (f.nb < 2)
/-- Every field of format EAW fits its bits. -/
def FmtFits.EAW (f : FmtEAW) : Bool :=
  decide (f.g < 16) && decide (f.dst < 32) && decide (f.src < 32) && decide (f.t < 2) && decide (f.bar < 32) && decide (f.nb < 2) && decide (f.inc < 4096) && decide (f.rel < 2) && decide (f.scope < 8)
/-- Every field of format ER fits its bits. -/
def FmtFits.ER (f : FmtER) : Bool :=
  decide (f.g < 16) && decide (f.src < 32) && decide (f.win < 256) && decide (f.rank < 32)
/-- Every field of format ERW fits its bits. -/
def FmtFits.ERW (f : FmtERW) : Bool :=
  decide (f.g < 16) && decide (f.src < 32) && decide (f.win < 256) && decide (f.rank < 32) && decide (f.rel < 2) && decide (f.scope < 8)
/-- Every field of format EN fits its bits. -/
def FmtFits.EN (f : FmtEN) : Bool :=
  decide (f.g < 16) && decide (f.scope < 8)
/-- Every field of format EBA fits its bits. -/
def FmtFits.EBA (f : FmtEBA) : Bool :=
  decide (f.g < 16) && decide (f.b < 32) && decide (f.inc < 4096)
/-- Every field of format EBW fits its bits. -/
def FmtFits.EBW (f : FmtEBW) : Bool :=
  decide (f.g < 16) && decide (f.b < 32) && decide (f.ph < 2)
/-- Every field of format EBC fits its bits. -/
def FmtFits.EBC (f : FmtEBC) : Bool :=
  decide (f.g < 16) && decide (f.b < 32) && decide (f.thr < 131072)
/-- Every field of format EBCW fits its bits. -/
def FmtFits.EBCW (f : FmtEBCW) : Bool :=
  decide (f.g < 16) && decide (f.b < 32) && decide (f.thr < 4294967296)
/-- Every field of format EBI fits its bits. -/
def FmtFits.EBI (f : FmtEBI) : Bool :=
  decide (f.g < 16) && decide (f.b < 32) && decide (f.a < 32)
/-- Every field of format ET fits its bits. -/
def FmtFits.ET (f : FmtET) : Bool :=
  decide (f.g < 16) && decide (f.d < 32) && decide (f.b < 32) && decide (f.thr < 32) && decide (f.desc < 32)
/-- Every field of format ETC fits its bits. -/
def FmtFits.ETC (f : FmtETC) : Bool :=
  decide (f.g < 16) && decide (f.a < 32)
/-- Every field of format EM fits its bits. -/
def FmtFits.EM (f : FmtEM) : Bool :=
  decide (f.g < 16) && decide (f.m < 16) && decide (f.c < 32)
/-- Every field of format EP fits its bits. -/
def FmtFits.EP (f : FmtEP) : Bool :=
  decide (f.g < 16) && decide (f.a < 32)
/-- Every field of format EP0 fits its bits. -/
def FmtFits.EP0 (f : FmtEP0) : Bool :=
  decide (f.g < 16)
/-- Every field of format UW fits its bits. -/
def FmtFits.UW (f : FmtUW) : Bool :=
  decide (f.sel < 64) && decide (f.off < 1048576) && decide (f.qs < 8) && decide (f.soff < 1048576) && decide (f.fm < 16) && decide (f.fzi < 2)
/-- Every field of format UA fits its bits. -/
def FmtFits.UA (f : FmtUA) : Bool :=
  decide (f.sel < 64) && decide (f.off < 65536) && decide (f.qd < 8) && decide (f.tile < 16) && decide (f.row0 < 32) && decide (f.nrows < 64) && decide (f.fm < 16) && decide (f.fzi < 2) && decide (f.gath < 2)
/-- Every field of format UT fits its bits. -/
def FmtFits.UT (f : FmtUT) : Bool :=
  decide (f.tile < 16)
/-- Every field of format UG fits its bits. -/
def FmtFits.UG (f : FmtUG) : Bool :=
  decide (f.tile < 16) && decide (f.gq < 2) && decide (f.q < 8) && decide (f.gexp < 2048)
/-- Every field of format UC fits its bits. -/
def FmtFits.UC (f : FmtUC) : Bool :=
  decide (f.sel < 64) && decide (f.off < 65536) && decide (f.qd < 8) && decide (f.tile < 16) && decide (f.row0 < 32) && decide (f.nrows < 64) && decide (f.tgt < 16) && decide (f.fzo < 2) && decide (f.tag < 2)
/-- Every field of format UL fits its bits. -/
def FmtFits.UL (f : FmtUL) : Bool :=
  decide (f.cq < 2) && decide (f.q < 8) && decide (f.cnt < 65536)
/-- Every field of format UR fits its bits. -/
def FmtFits.UR (f : FmtUR) : Bool :=
  decide (f.w < 2) && decide (f.bq < 2) && decide (f.bar < 32) && decide (f.inc < 4096)
/-- Every field of format UM fits its bits. -/
def FmtFits.UM (f : FmtUM) : Bool :=
  decide (f.bq < 2) && decide (f.bar < 32) && decide (f.ph < 2)
/-- Every field of format UI fits its bits. -/
def FmtFits.UI (f : FmtUI) : Bool :=
  decide (f.q < 8) && decide (f.imm < 4294967296)

/-- The instruction's fields fit and hold accepted values. Events have no encoding; their operands are unit numbers. -/
def Instr.wf : Instr → Bool
  | .emptyBundle => true
  | .nop f => FmtFits.CN f
  | .prep f => FmtFits.CP f
  | .prepr f => FmtFits.CR f
  | .trans f => FmtFits.CT f
  | .loopImm f => FmtFits.CLI f && decide (1 ≤ f.fin)
  | .loopReg f => FmtFits.CLR f && decide (1 ≤ f.fin)
  | .sync f => FmtFits.CN f
  | .syncj f => FmtFits.CN f
  | .syncl f => FmtFits.CN f
  | .join f => FmtFits.CJ f
  | .joinW f => FmtFits.CJ f
  | .detach f => FmtFits.CN f
  | .smode f => FmtFits.CM f && (f.mode == 1 || f.mode == 2)
  | .spawn f => FmtFits.CS f
  | .suspend f => FmtFits.CN f
  | .yield f => FmtFits.CN f
  | .halt f => FmtFits.CN f
  | .trap f => FmtFits.CX f
  | .tret f => FmtFits.CN f
  | .add f => FmtFits.SR f
  | .sub f => FmtFits.SR f
  | .mul f => FmtFits.SR f
  | .mulh f => FmtFits.SRU f
  | .div f => FmtFits.SRU f
  | .rem f => FmtFits.SRU f
  | .addi f => FmtFits.SI f
  | .addiWide f => FmtFits.SIW f
  | .movi f => FmtFits.SL f
  | .moviWide f => FmtFits.SLW f
  | .moviHi f => FmtFits.SLH f
  | .and f => FmtFits.SR f
  | .or f => FmtFits.SR f
  | .xor f => FmtFits.SR f
  | .shl f => FmtFits.SR f
  | .shr f => FmtFits.SR f
  | .sar f => FmtFits.SR f
  | .min f => FmtFits.SR f
  | .max f => FmtFits.SR f
  | .umin f => FmtFits.SR f
  | .umax f => FmtFits.SR f
  | .clz f => FmtFits.S1 f
  | .popc f => FmtFits.S1 f
  | .sel f => FmtFits.SS f
  | .cmp f => FmtFits.SC f && cmpOk f.cond f.f f.fzi
  | .cmpi f => FmtFits.SK f && decide (f.cond ≤ 9)
  | .cmpiWide f => FmtFits.SKW f && decide (f.cond ≤ 9)
  | .andi f => FmtFits.SI f
  | .andiWide f => FmtFits.SIW f
  | .ori f => FmtFits.SI f
  | .oriWide f => FmtFits.SIW f
  | .xori f => FmtFits.SI f
  | .xoriWide f => FmtFits.SIW f
  | .shli f => FmtFits.SH f
  | .shri f => FmtFits.SH f
  | .sari f => FmtFits.SH f
  | .fadd f => FmtFits.SF f && decide (f.t ≤ 2)
  | .faddWide f => FmtFits.SFW f && (decide (f.t ≤ 2) && rmoOk f.rmo && f.sc == 0)
  | .fmul f => FmtFits.SF f && decide (f.t ≤ 2)
  | .fmulWide f => FmtFits.SFW f && (decide (f.t ≤ 2) && rmoOk f.rmo && f.sc == 0)
  | .ffma f => FmtFits.SF f && decide (f.t ≤ 2)
  | .ffmaWide f => FmtFits.SFW f && (decide (f.t ≤ 2) && rmoOk f.rmo)
  | .fcvt f => FmtFits.SV f && fcvtOk f.df f.sf f.u 0
  | .fcvtWide f => FmtFits.SVW f && (fcvtOk f.df f.sf f.u f.sat && rmoOk f.rmo)
  | .csrr f => FmtFits.SX f && csrListed f.csr
  | .csrw f => FmtFits.SX f && csrListed f.csr
  | .movm f => FmtFits.SM f
  | .ld f => FmtFits.MS f && (msOk f.pi f.h && (f.x == 0 || decide (f.sz ≤ 2)) && (f.pi == 0 || f.s != f.b))
  | .ldWide f => FmtFits.MSW f && (msOk f.pi f.h && (f.x == 0 || decide (f.sz ≤ 2)) && (f.pi == 0 || f.s != f.b))
  | .st f => FmtFits.MS f && (msOk f.pi f.h && f.x == 0)
  | .stWide f => FmtFits.MSW f && (msOk f.pi f.h && f.x == 0)
  | .ldf f => FmtFits.MS f && (msOk f.pi f.h && f.x == 0 && (f.pi == 0 || f.s != f.b))
  | .ldfWide f => FmtFits.MSW f && (msOk f.pi f.h && f.x == 0 && (f.pi == 0 || f.s != f.b))
  | .lde f => FmtFits.MS f && (msOk f.pi f.h && f.x == 0 && (f.pi == 0 || f.s != f.b))
  | .ldeWide f => FmtFits.MSW f && (msOk f.pi f.h && f.x == 0 && (f.pi == 0 || f.s != f.b))
  | .ste f => FmtFits.MS f && (msOk f.pi f.h && f.x == 0)
  | .steWide f => FmtFits.MSW f && (msOk f.pi f.h && f.x == 0)
  | .tage f => FmtFits.MT f
  | .tageWide f => FmtFits.MTW f
  | .tagf f => FmtFits.MT f
  | .tagfWide f => FmtFits.MTW f
  | .vld f => FmtFits.MV f && (msOk f.pi f.h && decide (f.e ≤ 2))
  | .vldWide f => FmtFits.MVW f && (msOk f.pi f.h && decide (f.e ≤ 2))
  | .vst f => FmtFits.MV f && (msOk f.pi f.h && decide (f.e ≤ 2))
  | .vstWide f => FmtFits.MVW f && (msOk f.pi f.h && decide (f.e ≤ 2))
  | .vldx f => FmtFits.MX f && decide (f.e ≤ 2)
  | .vstx f => FmtFits.MX f && decide (f.e ≤ 2)
  | .vadd f => FmtFits.VI f && (decide (f.e ≤ 2) && (f.s == 1 || f.u == 0))
  | .vaddWide f => FmtFits.VIW f && (decide (f.e ≤ 2) && (f.s == 1 || f.u == 0) && bsOk f.b f.bs f.sb)
  | .vsub f => FmtFits.VI f && (decide (f.e ≤ 2) && (f.s == 1 || f.u == 0))
  | .vsubWide f => FmtFits.VIW f && (decide (f.e ≤ 2) && (f.s == 1 || f.u == 0) && bsOk f.b f.bs f.sb)
  | .vmul f => FmtFits.VI f && (decide (f.e ≤ 2) && (f.s == 1 || f.u == 0))
  | .vmulWide f => FmtFits.VIW f && (decide (f.e ≤ 2) && (f.s == 1 || f.u == 0) && bsOk f.b f.bs f.sb)
  | .vmin f => FmtFits.VI f && (decide (f.e ≤ 2) && f.s == 0)
  | .vminWide f => FmtFits.VIW f && (decide (f.e ≤ 2) && f.s == 0 && bsOk f.b f.bs f.sb)
  | .vmax f => FmtFits.VI f && (decide (f.e ≤ 2) && f.s == 0)
  | .vmaxWide f => FmtFits.VIW f && (decide (f.e ≤ 2) && f.s == 0 && bsOk f.b f.bs f.sb)
  | .vand f => FmtFits.VI f && (decide (f.e ≤ 2) && f.s == 0 && f.u == 0)
  | .vandWide f => FmtFits.VIW f && (decide (f.e ≤ 2) && f.s == 0 && f.u == 0 && bsOk f.b f.bs f.sb)
  | .vor f => FmtFits.VI f && (decide (f.e ≤ 2) && f.s == 0 && f.u == 0)
  | .vorWide f => FmtFits.VIW f && (decide (f.e ≤ 2) && f.s == 0 && f.u == 0 && bsOk f.b f.bs f.sb)
  | .vxor f => FmtFits.VI f && (decide (f.e ≤ 2) && f.s == 0 && f.u == 0)
  | .vxorWide f => FmtFits.VIW f && (decide (f.e ≤ 2) && f.s == 0 && f.u == 0 && bsOk f.b f.bs f.sb)
  | .vshl f => FmtFits.VI f && (decide (f.e ≤ 2) && f.s == 0 && f.u == 0)
  | .vshlWide f => FmtFits.VIW f && (decide (f.e ≤ 2) && f.s == 0 && f.u == 0 && bsOk f.b f.bs f.sb)
  | .vshr f => FmtFits.VI f && (decide (f.e ≤ 2) && f.s == 0 && f.u == 0)
  | .vshrWide f => FmtFits.VIW f && (decide (f.e ≤ 2) && f.s == 0 && f.u == 0 && bsOk f.b f.bs f.sb)
  | .vsar f => FmtFits.VI f && (decide (f.e ≤ 2) && f.s == 0 && f.u == 0)
  | .vsarWide f => FmtFits.VIW f && (decide (f.e ≤ 2) && f.s == 0 && f.u == 0 && bsOk f.b f.bs f.sb)
  | .vcmp f => FmtFits.VC f && vcmpOk f.cond f.f f.fzi
  | .vsel f => FmtFits.VS f
  | .vselWide f => FmtFits.VSW f && bsOk f.b f.bs f.sb
  | .vcvt f => FmtFits.VV f && vcvtOk f.df f.sf f.part 0 0
  | .vcvtWide f => FmtFits.VVW f && (vcvtOk f.df f.sf f.part f.u f.sat && rmoOk f.rmo)
  | .vperm f => FmtFits.VP f && decide (f.e ≤ 2)
  | .vbcast f => FmtFits.VB f && decide (f.e ≤ 2)
  | .vaddF f => FmtFits.VF f && decide (f.t ≤ 2)
  | .vaddFWide f => FmtFits.VFW f && (decide (f.t ≤ 2) && rmoOk f.rmo && bsOk f.b f.bs f.sb && f.vc == 0)
  | .vsubF f => FmtFits.VF f && decide (f.t ≤ 2)
  | .vsubFWide f => FmtFits.VFW f && (decide (f.t ≤ 2) && rmoOk f.rmo && bsOk f.b f.bs f.sb && f.vc == 0)
  | .vmulF f => FmtFits.VF f && decide (f.t ≤ 2)
  | .vmulFWide f => FmtFits.VFW f && (decide (f.t ≤ 2) && rmoOk f.rmo && bsOk f.b f.bs f.sb && f.vc == 0)
  | .vfma f => FmtFits.VF f && decide (f.t ≤ 2)
  | .vfmaWide f => FmtFits.VFW f && (decide (f.t ≤ 2) && rmoOk f.rmo && bsOk f.b f.bs f.sb)
  | .vminF f => FmtFits.VF f && decide (f.t ≤ 2)
  | .vminFWide f => FmtFits.VFW f && (decide (f.t ≤ 2) && rmoOk f.rmo && bsOk f.b f.bs f.sb && f.vc == 0)
  | .vmaxF f => FmtFits.VF f && decide (f.t ≤ 2)
  | .vmaxFWide f => FmtFits.VFW f && (decide (f.t ≤ 2) && rmoOk f.rmo && bsOk f.b f.bs f.sb && f.vc == 0)
  | .vsum f => FmtFits.VR f && (vredOk f.fm f.fzi f.fzo && f.x == 0)
  | .vsumWide f => FmtFits.VRW f && (vredOk f.fm f.fzi f.fzo && f.x == 0 && rmoOk f.rmo)
  | .vmaxr f => FmtFits.VR f && (vredOk f.fm f.fzi f.fzo)
  | .vmaxrWide f => FmtFits.VRW f && (vredOk f.fm f.fzi f.fzo && rmoOk f.rmo)
  | .vscan f => FmtFits.VR f && (vredOk f.fm f.fzi f.fzo)
  | .vscanWide f => FmtFits.VRW f && (vredOk f.fm f.fzi f.fzo && rmoOk f.rmo)
  | .vlane f => FmtFits.VL f
  | .vpopc f => FmtFits.VN f
  | .vcmpr f => FmtFits.VM f && (decide (f.t ≤ 2) && f.d != f.x)
  | .vhash f => FmtFits.VH f
  | .vhashWide f => FmtFits.VHW f && bsOk f.b f.bs f.sb
  | .vvote f => FmtFits.VO f && decide (f.mode ≤ 1)
  | .vexp2 f => FmtFits.VF f && (decide (f.t ≤ 2) && f.b == 0)
  | .vexp2Wide f => FmtFits.VFW f && (decide (f.t ≤ 2) && f.b == 0 && f.bs == 0 && f.sb == 0 && f.vc == 0 && rmoOk f.rmo)
  | .vlog2 f => FmtFits.VF f && (decide (f.t ≤ 2) && f.b == 0)
  | .vlog2Wide f => FmtFits.VFW f && (decide (f.t ≤ 2) && f.b == 0 && f.bs == 0 && f.sb == 0 && f.vc == 0 && rmoOk f.rmo)
  | .vrcp f => FmtFits.VF f && (decide (f.t ≤ 2) && f.b == 0)
  | .vrcpWide f => FmtFits.VFW f && (decide (f.t ≤ 2) && f.b == 0 && f.bs == 0 && f.sb == 0 && f.vc == 0 && rmoOk f.rmo)
  | .vrsq f => FmtFits.VF f && (decide (f.t ≤ 2) && f.b == 0)
  | .vrsqWide f => FmtFits.VFW f && (decide (f.t ≤ 2) && f.b == 0 && f.bs == 0 && f.sb == 0 && f.vc == 0 && rmoOk f.rmo)
  | .pand f => FmtFits.PL f
  | .por f => FmtFits.PL f
  | .pxor f => FmtFits.PL f
  | .pnot f => FmtFits.PU f
  | .pset f => FmtFits.PS f && decide (f.n ≤ 64)
  | .pmov f => FmtFits.PM f && decide (f.sel ≤ 2)
  | .mxcall f => FmtFits.XC f
  | .mxprog f => FmtFits.XP f
  | .mxprogTab f => FmtFits.XP f && decide (f.idx < 64)
  | .zrd f => FmtFits.XZ f && decide (f.tile ≤ 11)
  | .zwr f => FmtFits.XZ f && decide (f.tile ≤ 11)
  | .mxstat f => FmtFits.XS f && (decide (f.tile ≤ 11) || f.tile == 15)
  | .copy f => FmtFits.EC f && ((f.nb == 0 || f.bar == 0))
  | .copyWide f => FmtFits.ECW f && ((f.nb == 0 || f.bar == 0) && (f.nb == 0 || f.inc == 0) && scopeOk f.rel f.acq f.scope && f.opx == 0)
  | .copy2d f => FmtFits.EC f && ((f.nb == 0 || f.bar == 0) && f.dh == 0)
  | .copy2dWide f => FmtFits.ECW f && ((f.nb == 0 || f.bar == 0) && f.dh == 0 && (f.nb == 0 || f.inc == 0) && scopeOk f.rel f.acq f.scope && f.ckpt == 0 && f.opx == 0)
  | .tmov f => FmtFits.EC f && ((f.nb == 0 || f.bar == 0))
  | .tmovWide f => FmtFits.ECW f && ((f.nb == 0 || f.bar == 0) && (f.nb == 0 || f.inc == 0) && scopeOk f.rel f.acq f.scope && f.ckpt == 0 && f.opx == 0)
  | .seop f => FmtFits.ESE f && (f.nb == 0 || f.bar == 0)
  | .seopWide f => FmtFits.ESEW f && ((f.nb == 0 || f.bar == 0) && (f.nb == 0 || f.inc == 0) && scopeOk f.rel f.acq f.scope)
  | .copyUnseal f => FmtFits.EC f && (f.nb == 0 || f.bar == 0)
  | .copyUnsealWide f => FmtFits.ECW f && ((f.nb == 0 || f.bar == 0) && (f.nb == 0 || f.inc == 0) && scopeOk f.rel f.acq f.scope && f.opx == 0)
  | .strcfg f => FmtFits.EK f
  | .stron f => FmtFits.EK0 f
  | .stroff f => FmtFits.EK0 f
  | .bufrel f => FmtFits.EH f
  | .rput f => FmtFits.EC f && ((f.nb == 0 || f.bar == 0) && f.dh == 0)
  | .rputWide f => FmtFits.ECW f && ((f.nb == 0 || f.bar == 0) && f.dh == 0 && (f.nb == 0 || f.inc == 0) && scopeOk f.rel f.acq f.scope && f.ts == 0 && f.tag == 0 && f.ckpt == 0 && f.acq == 0 && rbOk f.opx)
  | .rget f => FmtFits.EG f
  | .rgetWide f => FmtFits.EGW f && scopeOk 0 f.acq f.scope
  | .rgetv f => FmtFits.EC f && ((f.nb == 0 || f.bar == 0) && f.dh == 0)
  | .rgetvWide f => FmtFits.ECW f && ((f.nb == 0 || f.bar == 0) && f.dh == 0 && (f.nb == 0 || f.inc == 0) && scopeOk f.rel f.acq f.scope && f.ts == 0 && f.ckpt == 0 && f.rel == 0 && f.opx == 0)
  | .rfop f => FmtFits.EF f && decide (f.op ≤ 8)
  | .rfopWide f => FmtFits.EFW f && (decide (f.op ≤ 8) && scopeOk f.rel f.acq f.scope && decide (f.opx < 32))
  | .rfopIncw f => FmtFits.EFW f && (f.op == 9 && f.x == 0 && scopeOk f.rel f.acq f.scope && decide (f.opx < 32))
  | .rfopBadd f => FmtFits.EFW f && (f.op == 10 && scopeOk f.rel f.acq f.scope && decide (f.opx < 32))
  | .rfopCas f => FmtFits.EFW f && (f.op == 11 && scopeOk f.rel f.acq f.scope && decide (f.opx < 32))
  | .rvatom f => FmtFits.EA f && (f.nb == 0 || f.bar == 0)
  | .rvatomWide f => FmtFits.EAW f && ((f.nb == 0 || f.bar == 0) && (f.nb == 0 || f.inc == 0) && scopeOk f.rel 0 f.scope)
  | .rred f => FmtFits.ER f
  | .rredWide f => FmtFits.ERW f && scopeOk f.rel 0 f.scope
  | .rmcast f => FmtFits.EC f && ((f.nb == 0 || f.bar == 0) && f.dh == 0)
  | .rmcastWide f => FmtFits.ECW f && ((f.nb == 0 || f.bar == 0) && f.dh == 0 && (f.nb == 0 || f.inc == 0) && scopeOk f.rel f.acq f.scope && f.ts == 0 && f.tag == 0 && f.ckpt == 0 && f.acq == 0)
  | .fence f => FmtFits.EN f && decide (f.scope ≤ 5)
  | .arrive f => FmtFits.EBA f
  | .waitb f => FmtFits.EBW f
  | .waitbC f => FmtFits.EBC f
  | .waitbCWide f => FmtFits.EBCW f
  | .waith f => FmtFits.EH f
  | .barinit f => FmtFits.EBI f
  | .trigarm f => FmtFits.ET f
  | .trigcancel f => FmtFits.ETC f
  | .moncfgConfigure f => FmtFits.EM f
  | .moncfgSnapshot f => FmtFits.EM f
  | .moncfgSnapshotClear f => FmtFits.EM f
  | .moncfgStop f => FmtFits.EM f
  | .tlbinv f => FmtFits.EP f
  | .tlbinvPart f => FmtFits.EP0 f
  | .tlbinvPkg f => FmtFits.EP0 f
  | .slotld f => FmtFits.EP f
  | .buddyset f => FmtFits.EP f
  | .mret => true
  | .wld f => FmtFits.UW f && (selOk f.sel && wfmtOk f.fm && (f.fm != 2 && f.fm != 3 || f.qs == 0 && f.soff == 0))
  | .wswap => true
  | .ast f => FmtFits.UA f && (selOk f.sel && wfmtOk f.fm && decide (f.nrows ≤ 32) && (f.nrows != 0 || f.row0 == 0) && decide (f.row0 + f.nrows ≤ 32))
  | .zclr f => FmtFits.UT f
  | .zgrid f => FmtFits.UG f && (if f.gq == 0 then f.q == 0 else f.gexp == 0)
  | .zcvt f => FmtFits.UC f && (decide (f.sel < 8) && (decide (f.tgt ≤ 2) || f.tgt == 15) && decide (f.nrows ≤ 32) && (f.nrows != 0 || f.row0 == 0) && decide (f.row0 + f.nrows ≤ 32))
  | .mloop f => FmtFits.UL f && (if f.cq == 0 then f.q == 0 else f.cnt == 0)
  | .mend => true
  | .marrive f => FmtFits.UR f && (f.bq == 0 || f.bar == 0)
  | .mwait f => FmtFits.UM f && (f.bq == 0 || f.bar == 0)
  | .minc f => FmtFits.UI f
  | .chordMulticast => true
  | .chordRestart => true
  | .joinTimeout => true
  | .chordJoinTimeout => true
  | .transferMature => true
  | .loopEnd => true
  | .syncGenerationComplete => true
  | .waitTimeout => true
  | .tagWaitTimeout => true
  | .takeRecord => true
  | .arrivalOverflowPush => true
  | .schedulerDispatch => true
  | .batchPush => true
  | .priorityAging => true
  | .skipLimit => true
  | .coreLeaveNode => true
  | .engineNodeComplete => true
  | .decrement => true
  | .failureNotice => true
  | .notifyRingWrite => true
  | .notifyAck => true
  | .corestartGo => true
  | .coreMapWrite => true
  | .preemptRequeue => true
  | .preemptPark => true
  | .preemptResume => true
  | .preemptStop => true
  | .drainTimeout => true
  | .imageSave => true
  | .imageRestore => true
  | .bteRelease => true
  | .handleFillClaim => true
  | .bteHandleTimeout => true
  | .bteCommandComplete => true
  | .arriveApply => true
  | .seCommandStart => true
  | .seCommandComplete => true
  | .streamEntryFetch => true
  | .streamEntryWrite => true
  | .pageWalk => true
  | .fabricWriteAtHome => true
  | .remoteBarrierIncrement => true
  | .putAcknowledge => true
  | .multicastMemberDelivery => true
  | .rgetReadAtHome => true
  | .rgetReply => true
  | .rgetvComplete => true
  | .combineRequest => true
  | .rfopAtHome => true
  | .combinedReplySplit => true
  | .rfopReply => true
  | .rvatomAtHome => true
  | .cruPartialForward => true
  | .contributionAtRoot => true
  | .roundTimeout => true
  | .roundEndMessage => true
  | .peerTimeout => true
  | .slotTableEffect => true
  | .monitorPeriodicSample => true
  | .uncorrectableError => true
  | .packageReset => true
  | .dieTableWrite => true
  | .windowTableWrite => true
  | .reductionWindowWrite => true
  | .rankMapWrite => true
  | .graphTableWrite => true
  | .contextTableWrite => true
  | .keyTableWrite => true
  | .sweepRekey => true
  | .deadPeerClear => true
  | .ownershipWrite => true
  | .pctlDefine => true
  | .functionLevelReset => true
  | .launch => true
  | .heartbeat => true
  | .heartbeatPeriodExpiry => true
  | .graceExpiry => true
  | .qnonceWrite => true
  | .extendWrite => true
  | .keyload => true
  | .efqPop => true
  | .monownWrite => true
  | .islctlWrite => true
  | .islandChangeDone => true
  | .pgctlDrain => true
  | .pgctlLoad => true
  | .firmwareLoadDone => true
  | .registerWrite => true
  | .btePieceWrite => true
  | .seRowOperation => true
  | .rgetvPieceLanding => true
  | .microopComplete => true
  | .targetLinesReady => true
  | .codeCopyComplete => true
  | .reportWritten => true

end Sys2Proof
end

