-- ==== Sys2Proof/Decode.lean ====
section
/-! DEFINITION. Decoding and encoding (spec/04_encoding.md, spec/11_matrix.md R232).
A syllable and its extension word are one number: the syllable word is bits 31:0, the extension word bits 63:32.
`decodeSyl` is total: it answers the instruction or the name of the decode fault (R98). -/

namespace Sys2Proof

/-- Bits hi:lo of x, as R1 writes x[hi:lo], given lo and the width. -/
def bits (x lo n : Nat) : Nat := x / 2 ^ lo % 2 ^ n

/-- The syllable classes of R91, and the matrix micro-operations. -/
inductive Cls where
  | C | S | M | V | X | E
  deriving DecidableEq, Repr

/-- Why the decoder refuses a syllable (R98). -/
inductive DecodeError where
  /-- A code point marked unassigned in its class map. -/
  | illegalInstruction
  /-- A reserved bit, a value not accepted, or a WIDE bit where there is no wide form. -/
  | illegalEncoding
  deriving DecidableEq, Repr


/-- The fields of a word of format CN. -/
def fmtOfCN (w : Nat) : FmtCN :=
  ⟨bits w 22 4⟩
/-- The word whose fields are those of f, above the fixed bits. -/
def fmtEncCN (base : Nat) (f : FmtCN) : Nat :=
  base + f.g * 2 ^ 22
/-- The fields of a word of format CP. -/
def fmtOfCP (w : Nat) : FmtCP :=
  ⟨bits w 22 4, bits w 19 3, bits w 0 19⟩
/-- The word whose fields are those of f, above the fixed bits. -/
def fmtEncCP (base : Nat) (f : FmtCP) : Nat :=
  base + f.g * 2 ^ 22 + f.tb * 2 ^ 19 + f.off * 2 ^ 0
/-- The fields of a word of format CR. -/
def fmtOfCR (w : Nat) : FmtCR :=
  ⟨bits w 22 4, bits w 19 3, bits w 14 5⟩
/-- The word whose fields are those of f, above the fixed bits. -/
def fmtEncCR (base : Nat) (f : FmtCR) : Nat :=
  base + f.g * 2 ^ 22 + f.tb * 2 ^ 19 + f.sa * 2 ^ 14
/-- The fields of a word of format CT. -/
def fmtOfCT (w : Nat) : FmtCT :=
  ⟨bits w 22 4, bits w 19 3, bits w 14 5, bits w 12 2, bits w 11 1⟩
/-- The word whose fields are those of f, above the fixed bits. -/
def fmtEncCT (base : Nat) (f : FmtCT) : Nat :=
  base + f.g * 2 ^ 22 + f.tb * 2 ^ 19 + f.p * 2 ^ 14 + f.d * 2 ^ 12 + f.lk * 2 ^ 11
/-- The fields of a word of format CLI. -/
def fmtOfCLI (w : Nat) : FmtCLI :=
  ⟨bits w 22 4, bits w 21 1, bits w 11 10, bits w 0 10⟩
/-- The word whose fields are those of f, above the fixed bits. -/
def fmtEncCLI (base : Nat) (f : FmtCLI) : Nat :=
  base + f.g * 2 ^ 22 + f.l * 2 ^ 21 + f.fin * 2 ^ 11 + f.cnt * 2 ^ 0
/-- The fields of a word of format CLR. -/
def fmtOfCLR (w : Nat) : FmtCLR :=
  ⟨bits w 22 4, bits w 21 1, bits w 11 10, bits w 5 5⟩
/-- The word whose fields are those of f, above the fixed bits. -/
def fmtEncCLR (base : Nat) (f : FmtCLR) : Nat :=
  base + f.g * 2 ^ 22 + f.l * 2 ^ 21 + f.fin * 2 ^ 11 + f.s * 2 ^ 5
/-- The fields of a word of format CJ. -/
def fmtOfCJ (w : Nat) : FmtCJ :=
  ⟨bits w 22 4, bits w 18 4⟩
/-- The word whose fields are those of f, above the fixed bits. -/
def fmtEncCJ (base : Nat) (f : FmtCJ) : Nat :=
  base + f.g * 2 ^ 22 + f.k * 2 ^ 18
/-- The fields of a word of format CM. -/
def fmtOfCM (w : Nat) : FmtCM :=
  ⟨bits w 22 4, bits w 20 2⟩
/-- The word whose fields are those of f, above the fixed bits. -/
def fmtEncCM (base : Nat) (f : FmtCM) : Nat :=
  base + f.g * 2 ^ 22 + f.mode * 2 ^ 20
/-- The fields of a word of format CS. -/
def fmtOfCS (w : Nat) : FmtCS :=
  ⟨bits w 22 4, bits w 17 5, bits w 16 1⟩
/-- The word whose fields are those of f, above the fixed bits. -/
def fmtEncCS (base : Nat) (f : FmtCS) : Nat :=
  base + f.g * 2 ^ 22 + f.s * 2 ^ 17 + f.pri * 2 ^ 16
/-- The fields of a word of format CX. -/
def fmtOfCX (w : Nat) : FmtCX :=
  ⟨bits w 22 4, bits w 14 8⟩
/-- The word whose fields are those of f, above the fixed bits. -/
def fmtEncCX (base : Nat) (f : FmtCX) : Nat :=
  base + f.g * 2 ^ 22 + f.code * 2 ^ 14
/-- The fields of a word of format SR. -/
def fmtOfSR (w : Nat) : FmtSR :=
  ⟨bits w 22 4, bits w 17 5, bits w 12 5, bits w 7 5⟩
/-- The word whose fields are those of f, above the fixed bits. -/
def fmtEncSR (base : Nat) (f : FmtSR) : Nat :=
  base + f.g * 2 ^ 22 + f.d * 2 ^ 17 + f.a * 2 ^ 12 + f.b * 2 ^ 7
/-- The fields of a word of format SRU. -/
def fmtOfSRU (w : Nat) : FmtSRU :=
  ⟨bits w 22 4, bits w 17 5, bits w 12 5, bits w 7 5, bits w 0 1⟩
/-- The word whose fields are those of f, above the fixed bits. -/
def fmtEncSRU (base : Nat) (f : FmtSRU) : Nat :=
  base + f.g * 2 ^ 22 + f.d * 2 ^ 17 + f.a * 2 ^ 12 + f.b * 2 ^ 7 + f.u * 2 ^ 0
/-- The fields of a word of format SI. -/
def fmtOfSI (w : Nat) : FmtSI :=
  ⟨bits w 22 4, bits w 17 5, bits w 12 5, bits w 0 12⟩
/-- The word whose fields are those of f, above the fixed bits. -/
def fmtEncSI (base : Nat) (f : FmtSI) : Nat :=
  base + f.g * 2 ^ 22 + f.d * 2 ^ 17 + f.a * 2 ^ 12 + f.i * 2 ^ 0
/-- The fields of a word of format SIW. -/
def fmtOfSIW (w : Nat) : FmtSIW :=
  ⟨bits w 22 4, bits w 17 5, bits w 12 5, bits w 32 32⟩
/-- The word whose fields are those of f, above the fixed bits. -/
def fmtEncSIW (base : Nat) (f : FmtSIW) : Nat :=
  base + f.g * 2 ^ 22 + f.d * 2 ^ 17 + f.a * 2 ^ 12 + f.i * 2 ^ 32
/-- The fields of a word of format SL. -/
def fmtOfSL (w : Nat) : FmtSL :=
  ⟨bits w 22 4, bits w 17 5, bits w 0 17⟩
/-- The word whose fields are those of f, above the fixed bits. -/
def fmtEncSL (base : Nat) (f : FmtSL) : Nat :=
  base + f.g * 2 ^ 22 + f.d * 2 ^ 17 + f.i * 2 ^ 0
/-- The fields of a word of format SLW. -/
def fmtOfSLW (w : Nat) : FmtSLW :=
  ⟨bits w 22 4, bits w 17 5, bits w 15 1, bits w 32 32⟩
/-- The word whose fields are those of f, above the fixed bits. -/
def fmtEncSLW (base : Nat) (f : FmtSLW) : Nat :=
  base + f.g * 2 ^ 22 + f.d * 2 ^ 17 + f.h * 2 ^ 15 + f.i * 2 ^ 32
/-- The fields of a word of format SLH. -/
def fmtOfSLH (w : Nat) : FmtSLH :=
  ⟨bits w 22 4, bits w 17 5, bits w 32 32⟩
/-- The word whose fields are those of f, above the fixed bits. -/
def fmtEncSLH (base : Nat) (f : FmtSLH) : Nat :=
  base + f.g * 2 ^ 22 + f.d * 2 ^ 17 + f.i * 2 ^ 32
/-- The fields of a word of format S1. -/
def fmtOfS1 (w : Nat) : FmtS1 :=
  ⟨bits w 22 4, bits w 17 5, bits w 12 5⟩
/-- The word whose fields are those of f, above the fixed bits. -/
def fmtEncS1 (base : Nat) (f : FmtS1) : Nat :=
  base + f.g * 2 ^ 22 + f.d * 2 ^ 17 + f.a * 2 ^ 12
/-- The fields of a word of format SS. -/
def fmtOfSS (w : Nat) : FmtSS :=
  ⟨bits w 22 4, bits w 17 5, bits w 12 5, bits w 7 5, bits w 2 5⟩
/-- The word whose fields are those of f, above the fixed bits. -/
def fmtEncSS (base : Nat) (f : FmtSS) : Nat :=
  base + f.g * 2 ^ 22 + f.d * 2 ^ 17 + f.a * 2 ^ 12 + f.b * 2 ^ 7 + f.p * 2 ^ 2
/-- The fields of a word of format SC. -/
def fmtOfSC (w : Nat) : FmtSC :=
  ⟨bits w 22 4, bits w 17 5, bits w 12 5, bits w 7 5, bits w 3 4, bits w 2 1, bits w 1 1⟩
/-- The word whose fields are those of f, above the fixed bits. -/
def fmtEncSC (base : Nat) (f : FmtSC) : Nat :=
  base + f.g * 2 ^ 22 + f.pd * 2 ^ 17 + f.a * 2 ^ 12 + f.b * 2 ^ 7 + f.cond * 2 ^ 3 + f.f * 2 ^ 2 + f.fzi * 2 ^ 1
/-- The fields of a word of format SK. -/
def fmtOfSK (w : Nat) : FmtSK :=
  ⟨bits w 22 4, bits w 17 5, bits w 12 5, bits w 8 4, bits w 0 8⟩
/-- The word whose fields are those of f, above the fixed bits. -/
def fmtEncSK (base : Nat) (f : FmtSK) : Nat :=
  base + f.g * 2 ^ 22 + f.pd * 2 ^ 17 + f.a * 2 ^ 12 + f.cond * 2 ^ 8 + f.i * 2 ^ 0
/-- The fields of a word of format SKW. -/
def fmtOfSKW (w : Nat) : FmtSKW :=
  ⟨bits w 22 4, bits w 17 5, bits w 12 5, bits w 8 4, bits w 32 32⟩
/-- The word whose fields are those of f, above the fixed bits. -/
def fmtEncSKW (base : Nat) (f : FmtSKW) : Nat :=
  base + f.g * 2 ^ 22 + f.pd * 2 ^ 17 + f.a * 2 ^ 12 + f.cond * 2 ^ 8 + f.i * 2 ^ 32
/-- The fields of a word of format SH. -/
def fmtOfSH (w : Nat) : FmtSH :=
  ⟨bits w 22 4, bits w 17 5, bits w 12 5, bits w 0 6⟩
/-- The word whose fields are those of f, above the fixed bits. -/
def fmtEncSH (base : Nat) (f : FmtSH) : Nat :=
  base + f.g * 2 ^ 22 + f.d * 2 ^ 17 + f.a * 2 ^ 12 + f.n * 2 ^ 0
/-- The fields of a word of format SF. -/
def fmtOfSF (w : Nat) : FmtSF :=
  ⟨bits w 22 4, bits w 17 5, bits w 12 5, bits w 7 5, bits w 5 2, bits w 4 1, bits w 3 1⟩
/-- The word whose fields are those of f, above the fixed bits. -/
def fmtEncSF (base : Nat) (f : FmtSF) : Nat :=
  base + f.g * 2 ^ 22 + f.d * 2 ^ 17 + f.a * 2 ^ 12 + f.b * 2 ^ 7 + f.t * 2 ^ 5 + f.fzi * 2 ^ 4 + f.fzo * 2 ^ 3
/-- The fields of a word of format SFW. -/
def fmtOfSFW (w : Nat) : FmtSFW :=
  ⟨bits w 22 4, bits w 17 5, bits w 12 5, bits w 7 5, bits w 5 2, bits w 4 1, bits w 3 1, bits w 59 5, bits w 56 3⟩
/-- The word whose fields are those of f, above the fixed bits. -/
def fmtEncSFW (base : Nat) (f : FmtSFW) : Nat :=
  base + f.g * 2 ^ 22 + f.d * 2 ^ 17 + f.a * 2 ^ 12 + f.b * 2 ^ 7 + f.t * 2 ^ 5 + f.fzi * 2 ^ 4 + f.fzo * 2 ^ 3 + f.sc * 2 ^ 59 + f.rmo * 2 ^ 56
/-- The fields of a word of format SV. -/
def fmtOfSV (w : Nat) : FmtSV :=
  ⟨bits w 22 4, bits w 17 5, bits w 12 5, bits w 8 4, bits w 4 4, bits w 3 1, bits w 2 1, bits w 1 1⟩
/-- The word whose fields are those of f, above the fixed bits. -/
def fmtEncSV (base : Nat) (f : FmtSV) : Nat :=
  base + f.g * 2 ^ 22 + f.d * 2 ^ 17 + f.a * 2 ^ 12 + f.df * 2 ^ 8 + f.sf * 2 ^ 4 + f.fzi * 2 ^ 3 + f.fzo * 2 ^ 2 + f.u * 2 ^ 1
/-- The fields of a word of format SVW. -/
def fmtOfSVW (w : Nat) : FmtSVW :=
  ⟨bits w 22 4, bits w 17 5, bits w 12 5, bits w 8 4, bits w 4 4, bits w 3 1, bits w 2 1, bits w 1 1, bits w 56 3, bits w 55 1⟩
/-- The word whose fields are those of f, above the fixed bits. -/
def fmtEncSVW (base : Nat) (f : FmtSVW) : Nat :=
  base + f.g * 2 ^ 22 + f.d * 2 ^ 17 + f.a * 2 ^ 12 + f.df * 2 ^ 8 + f.sf * 2 ^ 4 + f.fzi * 2 ^ 3 + f.fzo * 2 ^ 2 + f.u * 2 ^ 1 + f.rmo * 2 ^ 56 + f.sat * 2 ^ 55
/-- The fields of a word of format SX. -/
def fmtOfSX (w : Nat) : FmtSX :=
  ⟨bits w 22 4, bits w 17 5, bits w 5 12⟩
/-- The word whose fields are those of f, above the fixed bits. -/
def fmtEncSX (base : Nat) (f : FmtSX) : Nat :=
  base + f.g * 2 ^ 22 + f.r * 2 ^ 17 + f.csr * 2 ^ 5
/-- The fields of a word of format SM. -/
def fmtOfSM (w : Nat) : FmtSM :=
  ⟨bits w 22 4, bits w 17 5, bits w 14 3, bits w 13 1⟩
/-- The word whose fields are those of f, above the fixed bits. -/
def fmtEncSM (base : Nat) (f : FmtSM) : Nat :=
  base + f.g * 2 ^ 22 + f.s * 2 ^ 17 + f.m * 2 ^ 14 + f.d * 2 ^ 13
/-- The fields of a word of format MS. -/
def fmtOfMS (w : Nat) : FmtMS :=
  ⟨bits w 22 4, bits w 17 5, bits w 12 5, bits w 10 2, bits w 9 1, bits w 8 1, bits w 7 1, bits w 0 7⟩
/-- The word whose fields are those of f, above the fixed bits. -/
def fmtEncMS (base : Nat) (f : FmtMS) : Nat :=
  base + f.g * 2 ^ 22 + f.s * 2 ^ 17 + f.b * 2 ^ 12 + f.sz * 2 ^ 10 + f.x * 2 ^ 9 + f.pi * 2 ^ 8 + f.h * 2 ^ 7 + f.off * 2 ^ 0
/-- The fields of a word of format MSW. -/
def fmtOfMSW (w : Nat) : FmtMSW :=
  ⟨bits w 22 4, bits w 17 5, bits w 12 5, bits w 10 2, bits w 9 1, bits w 8 1, bits w 7 1, bits w 32 32⟩
/-- The word whose fields are those of f, above the fixed bits. -/
def fmtEncMSW (base : Nat) (f : FmtMSW) : Nat :=
  base + f.g * 2 ^ 22 + f.s * 2 ^ 17 + f.b * 2 ^ 12 + f.sz * 2 ^ 10 + f.x * 2 ^ 9 + f.pi * 2 ^ 8 + f.h * 2 ^ 7 + f.off * 2 ^ 32
/-- The fields of a word of format MT. -/
def fmtOfMT (w : Nat) : FmtMT :=
  ⟨bits w 22 4, bits w 17 5, bits w 12 5⟩
/-- The word whose fields are those of f, above the fixed bits. -/
def fmtEncMT (base : Nat) (f : FmtMT) : Nat :=
  base + f.g * 2 ^ 22 + f.b * 2 ^ 17 + f.l * 2 ^ 12
/-- The fields of a word of format MTW. -/
def fmtOfMTW (w : Nat) : FmtMTW :=
  ⟨bits w 22 4, bits w 17 5, bits w 32 32⟩
/-- The word whose fields are those of f, above the fixed bits. -/
def fmtEncMTW (base : Nat) (f : FmtMTW) : Nat :=
  base + f.g * 2 ^ 22 + f.b * 2 ^ 17 + f.len * 2 ^ 32
/-- The fields of a word of format MV. -/
def fmtOfMV (w : Nat) : FmtMV :=
  ⟨bits w 22 4, bits w 16 6, bits w 11 5, bits w 9 2, bits w 8 1, bits w 7 1, bits w 0 7⟩
/-- The word whose fields are those of f, above the fixed bits. -/
def fmtEncMV (base : Nat) (f : FmtMV) : Nat :=
  base + f.g * 2 ^ 22 + f.v * 2 ^ 16 + f.b * 2 ^ 11 + f.e * 2 ^ 9 + f.pi * 2 ^ 8 + f.h * 2 ^ 7 + f.off * 2 ^ 0
/-- The fields of a word of format MVW. -/
def fmtOfMVW (w : Nat) : FmtMVW :=
  ⟨bits w 22 4, bits w 16 6, bits w 11 5, bits w 9 2, bits w 8 1, bits w 7 1, bits w 32 32⟩
/-- The word whose fields are those of f, above the fixed bits. -/
def fmtEncMVW (base : Nat) (f : FmtMVW) : Nat :=
  base + f.g * 2 ^ 22 + f.v * 2 ^ 16 + f.b * 2 ^ 11 + f.e * 2 ^ 9 + f.pi * 2 ^ 8 + f.h * 2 ^ 7 + f.off * 2 ^ 32
/-- The fields of a word of format MX. -/
def fmtOfMX (w : Nat) : FmtMX :=
  ⟨bits w 22 4, bits w 16 6, bits w 10 6, bits w 5 5, bits w 3 2, bits w 0 3⟩
/-- The word whose fields are those of f, above the fixed bits. -/
def fmtEncMX (base : Nat) (f : FmtMX) : Nat :=
  base + f.g * 2 ^ 22 + f.v * 2 ^ 16 + f.ix * 2 ^ 10 + f.b * 2 ^ 5 + f.e * 2 ^ 3 + f.sh * 2 ^ 0
/-- The fields of a word of format VI. -/
def fmtOfVI (w : Nat) : FmtVI :=
  ⟨bits w 22 4, bits w 16 6, bits w 10 6, bits w 4 6, bits w 2 2, bits w 1 1, bits w 0 1⟩
/-- The word whose fields are those of f, above the fixed bits. -/
def fmtEncVI (base : Nat) (f : FmtVI) : Nat :=
  base + f.g * 2 ^ 22 + f.d * 2 ^ 16 + f.a * 2 ^ 10 + f.b * 2 ^ 4 + f.e * 2 ^ 2 + f.s * 2 ^ 1 + f.u * 2 ^ 0
/-- The fields of a word of format VIW. -/
def fmtOfVIW (w : Nat) : FmtVIW :=
  ⟨bits w 22 4, bits w 16 6, bits w 10 6, bits w 4 6, bits w 2 2, bits w 1 1, bits w 0 1, bits w 54 1, bits w 49 5⟩
/-- The word whose fields are those of f, above the fixed bits. -/
def fmtEncVIW (base : Nat) (f : FmtVIW) : Nat :=
  base + f.g * 2 ^ 22 + f.d * 2 ^ 16 + f.a * 2 ^ 10 + f.b * 2 ^ 4 + f.e * 2 ^ 2 + f.s * 2 ^ 1 + f.u * 2 ^ 0 + f.bs * 2 ^ 54 + f.sb * 2 ^ 49
/-- The fields of a word of format VC. -/
def fmtOfVC (w : Nat) : FmtVC :=
  ⟨bits w 22 4, bits w 17 5, bits w 11 6, bits w 5 6, bits w 2 3, bits w 1 1, bits w 0 1⟩
/-- The word whose fields are those of f, above the fixed bits. -/
def fmtEncVC (base : Nat) (f : FmtVC) : Nat :=
  base + f.g * 2 ^ 22 + f.pd * 2 ^ 17 + f.a * 2 ^ 11 + f.b * 2 ^ 5 + f.cond * 2 ^ 2 + f.f * 2 ^ 1 + f.fzi * 2 ^ 0
/-- The fields of a word of format VS. -/
def fmtOfVS (w : Nat) : FmtVS :=
  ⟨bits w 22 4, bits w 16 6, bits w 10 6, bits w 4 6, bits w 0 4⟩
/-- The word whose fields are those of f, above the fixed bits. -/
def fmtEncVS (base : Nat) (f : FmtVS) : Nat :=
  base + f.g * 2 ^ 22 + f.d * 2 ^ 16 + f.a * 2 ^ 10 + f.b * 2 ^ 4 + f.p * 2 ^ 0
/-- The fields of a word of format VSW. -/
def fmtOfVSW (w : Nat) : FmtVSW :=
  ⟨bits w 22 4, bits w 16 6, bits w 10 6, bits w 4 6, bits w 0 4, bits w 54 1, bits w 49 5⟩
/-- The word whose fields are those of f, above the fixed bits. -/
def fmtEncVSW (base : Nat) (f : FmtVSW) : Nat :=
  base + f.g * 2 ^ 22 + f.d * 2 ^ 16 + f.a * 2 ^ 10 + f.b * 2 ^ 4 + f.p * 2 ^ 0 + f.bs * 2 ^ 54 + f.sb * 2 ^ 49
/-- The fields of a word of format VV. -/
def fmtOfVV (w : Nat) : FmtVV :=
  ⟨bits w 22 4, bits w 16 6, bits w 10 6, bits w 7 3, bits w 4 3, bits w 2 2, bits w 1 1, bits w 0 1⟩
/-- The word whose fields are those of f, above the fixed bits. -/
def fmtEncVV (base : Nat) (f : FmtVV) : Nat :=
  base + f.g * 2 ^ 22 + f.d * 2 ^ 16 + f.a * 2 ^ 10 + f.df * 2 ^ 7 + f.sf * 2 ^ 4 + f.part * 2 ^ 2 + f.fzi * 2 ^ 1 + f.fzo * 2 ^ 0
/-- The fields of a word of format VVW. -/
def fmtOfVVW (w : Nat) : FmtVVW :=
  ⟨bits w 22 4, bits w 16 6, bits w 10 6, bits w 7 3, bits w 4 3, bits w 2 2, bits w 1 1, bits w 0 1, bits w 55 3, bits w 48 1, bits w 47 1⟩
/-- The word whose fields are those of f, above the fixed bits. -/
def fmtEncVVW (base : Nat) (f : FmtVVW) : Nat :=
  base + f.g * 2 ^ 22 + f.d * 2 ^ 16 + f.a * 2 ^ 10 + f.df * 2 ^ 7 + f.sf * 2 ^ 4 + f.part * 2 ^ 2 + f.fzi * 2 ^ 1 + f.fzo * 2 ^ 0 + f.rmo * 2 ^ 55 + f.u * 2 ^ 48 + f.sat * 2 ^ 47
/-- The fields of a word of format VP. -/
def fmtOfVP (w : Nat) : FmtVP :=
  ⟨bits w 22 4, bits w 16 6, bits w 10 6, bits w 4 6, bits w 2 2⟩
/-- The word whose fields are those of f, above the fixed bits. -/
def fmtEncVP (base : Nat) (f : FmtVP) : Nat :=
  base + f.g * 2 ^ 22 + f.d * 2 ^ 16 + f.a * 2 ^ 10 + f.x * 2 ^ 4 + f.e * 2 ^ 2
/-- The fields of a word of format VB. -/
def fmtOfVB (w : Nat) : FmtVB :=
  ⟨bits w 22 4, bits w 16 6, bits w 11 5, bits w 9 2⟩
/-- The word whose fields are those of f, above the fixed bits. -/
def fmtEncVB (base : Nat) (f : FmtVB) : Nat :=
  base + f.g * 2 ^ 22 + f.d * 2 ^ 16 + f.sa * 2 ^ 11 + f.e * 2 ^ 9
/-- The fields of a word of format VF. -/
def fmtOfVF (w : Nat) : FmtVF :=
  ⟨bits w 22 4, bits w 16 6, bits w 10 6, bits w 4 6, bits w 2 2, bits w 1 1, bits w 0 1⟩
/-- The word whose fields are those of f, above the fixed bits. -/
def fmtEncVF (base : Nat) (f : FmtVF) : Nat :=
  base + f.g * 2 ^ 22 + f.d * 2 ^ 16 + f.a * 2 ^ 10 + f.b * 2 ^ 4 + f.t * 2 ^ 2 + f.fzi * 2 ^ 1 + f.fzo * 2 ^ 0
/-- The fields of a word of format VFW. -/
def fmtOfVFW (w : Nat) : FmtVFW :=
  ⟨bits w 22 4, bits w 16 6, bits w 10 6, bits w 4 6, bits w 2 2, bits w 1 1, bits w 0 1, bits w 58 6, bits w 55 3, bits w 54 1, bits w 49 5⟩
/-- The word whose fields are those of f, above the fixed bits. -/
def fmtEncVFW (base : Nat) (f : FmtVFW) : Nat :=
  base + f.g * 2 ^ 22 + f.d * 2 ^ 16 + f.a * 2 ^ 10 + f.b * 2 ^ 4 + f.t * 2 ^ 2 + f.fzi * 2 ^ 1 + f.fzo * 2 ^ 0 + f.vc * 2 ^ 58 + f.rmo * 2 ^ 55 + f.bs * 2 ^ 54 + f.sb * 2 ^ 49
/-- The fields of a word of format VR. -/
def fmtOfVR (w : Nat) : FmtVR :=
  ⟨bits w 22 4, bits w 16 6, bits w 10 6, bits w 7 3, bits w 6 1, bits w 5 1, bits w 4 1⟩
/-- The word whose fields are those of f, above the fixed bits. -/
def fmtEncVR (base : Nat) (f : FmtVR) : Nat :=
  base + f.g * 2 ^ 22 + f.d * 2 ^ 16 + f.a * 2 ^ 10 + f.fm * 2 ^ 7 + f.x * 2 ^ 6 + f.fzi * 2 ^ 5 + f.fzo * 2 ^ 4
/-- The fields of a word of format VRW. -/
def fmtOfVRW (w : Nat) : FmtVRW :=
  ⟨bits w 22 4, bits w 16 6, bits w 10 6, bits w 7 3, bits w 6 1, bits w 5 1, bits w 4 1, bits w 55 3⟩
/-- The word whose fields are those of f, above the fixed bits. -/
def fmtEncVRW (base : Nat) (f : FmtVRW) : Nat :=
  base + f.g * 2 ^ 22 + f.d * 2 ^ 16 + f.a * 2 ^ 10 + f.fm * 2 ^ 7 + f.x * 2 ^ 6 + f.fzi * 2 ^ 5 + f.fzo * 2 ^ 4 + f.rmo * 2 ^ 55
/-- The fields of a word of format VL. -/
def fmtOfVL (w : Nat) : FmtVL :=
  ⟨bits w 22 4, bits w 17 5, bits w 11 6, bits w 5 6, bits w 4 1⟩
/-- The word whose fields are those of f, above the fixed bits. -/
def fmtEncVL (base : Nat) (f : FmtVL) : Nat :=
  base + f.g * 2 ^ 22 + f.s * 2 ^ 17 + f.v * 2 ^ 11 + f.lane * 2 ^ 5 + f.d * 2 ^ 4
/-- The fields of a word of format VN. -/
def fmtOfVN (w : Nat) : FmtVN :=
  ⟨bits w 22 4, bits w 17 5, bits w 12 5⟩
/-- The word whose fields are those of f, above the fixed bits. -/
def fmtEncVN (base : Nat) (f : FmtVN) : Nat :=
  base + f.g * 2 ^ 22 + f.d * 2 ^ 17 + f.pa * 2 ^ 12
/-- The fields of a word of format VM. -/
def fmtOfVM (w : Nat) : FmtVM :=
  ⟨bits w 22 4, bits w 16 6, bits w 10 6, bits w 4 6, bits w 2 2, bits w 1 1⟩
/-- The word whose fields are those of f, above the fixed bits. -/
def fmtEncVM (base : Nat) (f : FmtVM) : Nat :=
  base + f.g * 2 ^ 22 + f.d * 2 ^ 16 + f.a * 2 ^ 10 + f.x * 2 ^ 4 + f.t * 2 ^ 2 + f.fzi * 2 ^ 1
/-- The fields of a word of format VH. -/
def fmtOfVH (w : Nat) : FmtVH :=
  ⟨bits w 22 4, bits w 16 6, bits w 10 6, bits w 4 6⟩
/-- The word whose fields are those of f, above the fixed bits. -/
def fmtEncVH (base : Nat) (f : FmtVH) : Nat :=
  base + f.g * 2 ^ 22 + f.d * 2 ^ 16 + f.a * 2 ^ 10 + f.b * 2 ^ 4
/-- The fields of a word of format VHW. -/
def fmtOfVHW (w : Nat) : FmtVHW :=
  ⟨bits w 22 4, bits w 16 6, bits w 10 6, bits w 4 6, bits w 54 1, bits w 49 5⟩
/-- The word whose fields are those of f, above the fixed bits. -/
def fmtEncVHW (base : Nat) (f : FmtVHW) : Nat :=
  base + f.g * 2 ^ 22 + f.d * 2 ^ 16 + f.a * 2 ^ 10 + f.b * 2 ^ 4 + f.bs * 2 ^ 54 + f.sb * 2 ^ 49
/-- The fields of a word of format VO. -/
def fmtOfVO (w : Nat) : FmtVO :=
  ⟨bits w 22 4, bits w 17 5, bits w 12 5, bits w 10 2⟩
/-- The word whose fields are those of f, above the fixed bits. -/
def fmtEncVO (base : Nat) (f : FmtVO) : Nat :=
  base + f.g * 2 ^ 22 + f.pd * 2 ^ 17 + f.pa * 2 ^ 12 + f.mode * 2 ^ 10
/-- The fields of a word of format PL. -/
def fmtOfPL (w : Nat) : FmtPL :=
  ⟨bits w 22 4, bits w 17 5, bits w 12 5, bits w 7 5⟩
/-- The word whose fields are those of f, above the fixed bits. -/
def fmtEncPL (base : Nat) (f : FmtPL) : Nat :=
  base + f.g * 2 ^ 22 + f.pd * 2 ^ 17 + f.pa * 2 ^ 12 + f.pb * 2 ^ 7
/-- The fields of a word of format PU. -/
def fmtOfPU (w : Nat) : FmtPU :=
  ⟨bits w 22 4, bits w 17 5, bits w 12 5⟩
/-- The word whose fields are those of f, above the fixed bits. -/
def fmtEncPU (base : Nat) (f : FmtPU) : Nat :=
  base + f.g * 2 ^ 22 + f.pd * 2 ^ 17 + f.pa * 2 ^ 12
/-- The fields of a word of format PS. -/
def fmtOfPS (w : Nat) : FmtPS :=
  ⟨bits w 22 4, bits w 17 5, bits w 10 7⟩
/-- The word whose fields are those of f, above the fixed bits. -/
def fmtEncPS (base : Nat) (f : FmtPS) : Nat :=
  base + f.g * 2 ^ 22 + f.pd * 2 ^ 17 + f.n * 2 ^ 10
/-- The fields of a word of format PM. -/
def fmtOfPM (w : Nat) : FmtPM :=
  ⟨bits w 22 4, bits w 17 5, bits w 12 5, bits w 10 2⟩
/-- The word whose fields are those of f, above the fixed bits. -/
def fmtEncPM (base : Nat) (f : FmtPM) : Nat :=
  base + f.g * 2 ^ 22 + f.d * 2 ^ 17 + f.a * 2 ^ 12 + f.sel * 2 ^ 10
/-- The fields of a word of format XC. -/
def fmtOfXC (w : Nat) : FmtXC :=
  ⟨bits w 22 4, bits w 16 6⟩
/-- The word whose fields are those of f, above the fixed bits. -/
def fmtEncXC (base : Nat) (f : FmtXC) : Nat :=
  base + f.g * 2 ^ 22 + f.r * 2 ^ 16
/-- The fields of a word of format XP. -/
def fmtOfXP (w : Nat) : FmtXP :=
  ⟨bits w 22 4, bits w 17 5, bits w 12 5, bits w 2 10⟩
/-- The word whose fields are those of f, above the fixed bits. -/
def fmtEncXP (base : Nat) (f : FmtXP) : Nat :=
  base + f.g * 2 ^ 22 + f.a * 2 ^ 17 + f.b * 2 ^ 12 + f.idx * 2 ^ 2
/-- The fields of a word of format XZ. -/
def fmtOfXZ (w : Nat) : FmtXZ :=
  ⟨bits w 22 4, bits w 16 6, bits w 12 4, bits w 7 5, bits w 6 1, bits w 5 1⟩
/-- The word whose fields are those of f, above the fixed bits. -/
def fmtEncXZ (base : Nat) (f : FmtXZ) : Nat :=
  base + f.g * 2 ^ 22 + f.v * 2 ^ 16 + f.tile * 2 ^ 12 + f.row * 2 ^ 7 + f.h * 2 ^ 6 + f.fz * 2 ^ 5
/-- The fields of a word of format XS. -/
def fmtOfXS (w : Nat) : FmtXS :=
  ⟨bits w 22 4, bits w 17 5, bits w 13 4, bits w 12 1⟩
/-- The word whose fields are those of f, above the fixed bits. -/
def fmtEncXS (base : Nat) (f : FmtXS) : Nat :=
  base + f.g * 2 ^ 22 + f.d * 2 ^ 17 + f.tile * 2 ^ 13 + f.clr * 2 ^ 12
/-- The fields of a word of format EC. -/
def fmtOfEC (w : Nat) : FmtEC :=
  ⟨bits w 22 4, bits w 17 5, bits w 12 5, bits w 7 5, bits w 2 5, bits w 1 1, bits w 0 1⟩
/-- The word whose fields are those of f, above the fixed bits. -/
def fmtEncEC (base : Nat) (f : FmtEC) : Nat :=
  base + f.g * 2 ^ 22 + f.dst * 2 ^ 17 + f.src * 2 ^ 12 + f.len * 2 ^ 7 + f.bar * 2 ^ 2 + f.nb * 2 ^ 1 + f.dh * 2 ^ 0
/-- The fields of a word of format ECW. -/
def fmtOfECW (w : Nat) : FmtECW :=
  ⟨bits w 22 4, bits w 17 5, bits w 12 5, bits w 7 5, bits w 2 5, bits w 1 1, bits w 0 1, bits w 52 12, bits w 47 5, bits w 46 1, bits w 45 1, bits w 44 1, bits w 43 1, bits w 40 3, bits w 32 8⟩
/-- The word whose fields are those of f, above the fixed bits. -/
def fmtEncECW (base : Nat) (f : FmtECW) : Nat :=
  base + f.g * 2 ^ 22 + f.dst * 2 ^ 17 + f.src * 2 ^ 12 + f.len * 2 ^ 7 + f.bar * 2 ^ 2 + f.nb * 2 ^ 1 + f.dh * 2 ^ 0 + f.inc * 2 ^ 52 + f.ts * 2 ^ 47 + f.tag * 2 ^ 46 + f.ckpt * 2 ^ 45 + f.rel * 2 ^ 44 + f.acq * 2 ^ 43 + f.scope * 2 ^ 40 + f.opx * 2 ^ 32
/-- The fields of a word of format ESE. -/
def fmtOfESE (w : Nat) : FmtESE :=
  ⟨bits w 22 4, bits w 17 5, bits w 15 2, bits w 2 5, bits w 1 1⟩
/-- The word whose fields are those of f, above the fixed bits. -/
def fmtEncESE (base : Nat) (f : FmtESE) : Nat :=
  base + f.g * 2 ^ 22 + f.d * 2 ^ 17 + f.op * 2 ^ 15 + f.bar * 2 ^ 2 + f.nb * 2 ^ 1
/-- The fields of a word of format ESEW. -/
def fmtOfESEW (w : Nat) : FmtESEW :=
  ⟨bits w 22 4, bits w 17 5, bits w 15 2, bits w 2 5, bits w 1 1, bits w 52 12, bits w 44 1, bits w 43 1, bits w 40 3⟩
/-- The word whose fields are those of f, above the fixed bits. -/
def fmtEncESEW (base : Nat) (f : FmtESEW) : Nat :=
  base + f.g * 2 ^ 22 + f.d * 2 ^ 17 + f.op * 2 ^ 15 + f.bar * 2 ^ 2 + f.nb * 2 ^ 1 + f.inc * 2 ^ 52 + f.rel * 2 ^ 44 + f.acq * 2 ^ 43 + f.scope * 2 ^ 40
/-- The fields of a word of format EK. -/
def fmtOfEK (w : Nat) : FmtEK :=
  ⟨bits w 22 4, bits w 19 3, bits w 14 5⟩
/-- The word whose fields are those of f, above the fixed bits. -/
def fmtEncEK (base : Nat) (f : FmtEK) : Nat :=
  base + f.g * 2 ^ 22 + f.k * 2 ^ 19 + f.d * 2 ^ 14
/-- The fields of a word of format EK0. -/
def fmtOfEK0 (w : Nat) : FmtEK0 :=
  ⟨bits w 22 4, bits w 19 3⟩
/-- The word whose fields are those of f, above the fixed bits. -/
def fmtEncEK0 (base : Nat) (f : FmtEK0) : Nat :=
  base + f.g * 2 ^ 22 + f.k * 2 ^ 19
/-- The fields of a word of format EH. -/
def fmtOfEH (w : Nat) : FmtEH :=
  ⟨bits w 22 4, bits w 17 5⟩
/-- The word whose fields are those of f, above the fixed bits. -/
def fmtEncEH (base : Nat) (f : FmtEH) : Nat :=
  base + f.g * 2 ^ 22 + f.h * 2 ^ 17
/-- The fields of a word of format EG. -/
def fmtOfEG (w : Nat) : FmtEG :=
  ⟨bits w 22 4, bits w 17 5, bits w 12 5, bits w 7 5, bits w 2 5⟩
/-- The word whose fields are those of f, above the fixed bits. -/
def fmtEncEG (base : Nat) (f : FmtEG) : Nat :=
  base + f.g * 2 ^ 22 + f.dst * 2 ^ 17 + f.adr * 2 ^ 12 + f.hpc * 2 ^ 7 + f.ck * 2 ^ 2
/-- The fields of a word of format EGW. -/
def fmtOfEGW (w : Nat) : FmtEGW :=
  ⟨bits w 22 4, bits w 17 5, bits w 12 5, bits w 7 5, bits w 2 5, bits w 43 1, bits w 40 3⟩
/-- The word whose fields are those of f, above the fixed bits. -/
def fmtEncEGW (base : Nat) (f : FmtEGW) : Nat :=
  base + f.g * 2 ^ 22 + f.dst * 2 ^ 17 + f.adr * 2 ^ 12 + f.hpc * 2 ^ 7 + f.ck * 2 ^ 2 + f.acq * 2 ^ 43 + f.scope * 2 ^ 40
/-- The fields of a word of format EF. -/
def fmtOfEF (w : Nat) : FmtEF :=
  ⟨bits w 22 4, bits w 17 5, bits w 12 5, bits w 7 5, bits w 3 4, bits w 2 1⟩
/-- The word whose fields are those of f, above the fixed bits. -/
def fmtEncEF (base : Nat) (f : FmtEF) : Nat :=
  base + f.g * 2 ^ 22 + f.dst * 2 ^ 17 + f.adr * 2 ^ 12 + f.x * 2 ^ 7 + f.op * 2 ^ 3 + f.w * 2 ^ 2
/-- The fields of a word of format EFW. -/
def fmtOfEFW (w : Nat) : FmtEFW :=
  ⟨bits w 22 4, bits w 17 5, bits w 12 5, bits w 7 5, bits w 3 4, bits w 2 1, bits w 44 1, bits w 43 1, bits w 40 3, bits w 32 8⟩
/-- The word whose fields are those of f, above the fixed bits. -/
def fmtEncEFW (base : Nat) (f : FmtEFW) : Nat :=
  base + f.g * 2 ^ 22 + f.dst * 2 ^ 17 + f.adr * 2 ^ 12 + f.x * 2 ^ 7 + f.op * 2 ^ 3 + f.w * 2 ^ 2 + f.rel * 2 ^ 44 + f.acq * 2 ^ 43 + f.scope * 2 ^ 40 + f.opx * 2 ^ 32
/-- The fields of a word of format EA. -/
def fmtOfEA (w : Nat) : FmtEA :=
  ⟨bits w 22 4, bits w 17 5, bits w 12 5, bits w 11 1, bits w 2 5, bits w 1 1⟩
/-- The word whose fields are those of f, above the fixed bits. -/
def fmtEncEA (base : Nat) (f : FmtEA) : Nat :=
  base + f.g * 2 ^ 22 + f.dst * 2 ^ 17 + f.src * 2 ^ 12 + f.t * 2 ^ 11 + f.bar * 2 ^ 2 + f.nb * 2 ^ 1
/-- The fields of a word of format EAW. -/
def fmtOfEAW (w : Nat) : FmtEAW :=
  ⟨bits w 22 4, bits w 17 5, bits w 12 5, bits w 11 1, bits w 2 5, bits w 1 1, bits w 52 12, bits w 44 1, bits w 40 3⟩
/-- The word whose fields are those of f, above the fixed bits. -/
def fmtEncEAW (base : Nat) (f : FmtEAW) : Nat :=
  base + f.g * 2 ^ 22 + f.dst * 2 ^ 17 + f.src * 2 ^ 12 + f.t * 2 ^ 11 + f.bar * 2 ^ 2 + f.nb * 2 ^ 1 + f.inc * 2 ^ 52 + f.rel * 2 ^ 44 + f.scope * 2 ^ 40
/-- The fields of a word of format ER. -/
def fmtOfER (w : Nat) : FmtER :=
  ⟨bits w 22 4, bits w 17 5, bits w 9 8, bits w 4 5⟩
/-- The word whose fields are those of f, above the fixed bits. -/
def fmtEncER (base : Nat) (f : FmtER) : Nat :=
  base + f.g * 2 ^ 22 + f.src * 2 ^ 17 + f.win * 2 ^ 9 + f.rank * 2 ^ 4
/-- The fields of a word of format ERW. -/
def fmtOfERW (w : Nat) : FmtERW :=
  ⟨bits w 22 4, bits w 17 5, bits w 9 8, bits w 4 5, bits w 44 1, bits w 40 3⟩
/-- The word whose fields are those of f, above the fixed bits. -/
def fmtEncERW (base : Nat) (f : FmtERW) : Nat :=
  base + f.g * 2 ^ 22 + f.src * 2 ^ 17 + f.win * 2 ^ 9 + f.rank * 2 ^ 4 + f.rel * 2 ^ 44 + f.scope * 2 ^ 40
/-- The fields of a word of format EN. -/
def fmtOfEN (w : Nat) : FmtEN :=
  ⟨bits w 22 4, bits w 19 3⟩
/-- The word whose fields are those of f, above the fixed bits. -/
def fmtEncEN (base : Nat) (f : FmtEN) : Nat :=
  base + f.g * 2 ^ 22 + f.scope * 2 ^ 19
/-- The fields of a word of format EBA. -/
def fmtOfEBA (w : Nat) : FmtEBA :=
  ⟨bits w 22 4, bits w 17 5, bits w 5 12⟩
/-- The word whose fields are those of f, above the fixed bits. -/
def fmtEncEBA (base : Nat) (f : FmtEBA) : Nat :=
  base + f.g * 2 ^ 22 + f.b * 2 ^ 17 + f.inc * 2 ^ 5
/-- The fields of a word of format EBW. -/
def fmtOfEBW (w : Nat) : FmtEBW :=
  ⟨bits w 22 4, bits w 17 5, bits w 16 1⟩
/-- The word whose fields are those of f, above the fixed bits. -/
def fmtEncEBW (base : Nat) (f : FmtEBW) : Nat :=
  base + f.g * 2 ^ 22 + f.b * 2 ^ 17 + f.ph * 2 ^ 16
/-- The fields of a word of format EBC. -/
def fmtOfEBC (w : Nat) : FmtEBC :=
  ⟨bits w 22 4, bits w 17 5, bits w 0 17⟩
/-- The word whose fields are those of f, above the fixed bits. -/
def fmtEncEBC (base : Nat) (f : FmtEBC) : Nat :=
  base + f.g * 2 ^ 22 + f.b * 2 ^ 17 + f.thr * 2 ^ 0
/-- The fields of a word of format EBCW. -/
def fmtOfEBCW (w : Nat) : FmtEBCW :=
  ⟨bits w 22 4, bits w 17 5, bits w 32 32⟩
/-- The word whose fields are those of f, above the fixed bits. -/
def fmtEncEBCW (base : Nat) (f : FmtEBCW) : Nat :=
  base + f.g * 2 ^ 22 + f.b * 2 ^ 17 + f.thr * 2 ^ 32
/-- The fields of a word of format EBI. -/
def fmtOfEBI (w : Nat) : FmtEBI :=
  ⟨bits w 22 4, bits w 17 5, bits w 12 5⟩
/-- The word whose fields are those of f, above the fixed bits. -/
def fmtEncEBI (base : Nat) (f : FmtEBI) : Nat :=
  base + f.g * 2 ^ 22 + f.b * 2 ^ 17 + f.a * 2 ^ 12
/-- The fields of a word of format ET. -/
def fmtOfET (w : Nat) : FmtET :=
  ⟨bits w 22 4, bits w 17 5, bits w 12 5, bits w 7 5, bits w 2 5⟩
/-- The word whose fields are those of f, above the fixed bits. -/
def fmtEncET (base : Nat) (f : FmtET) : Nat :=
  base + f.g * 2 ^ 22 + f.d * 2 ^ 17 + f.b * 2 ^ 12 + f.thr * 2 ^ 7 + f.desc * 2 ^ 2
/-- The fields of a word of format ETC. -/
def fmtOfETC (w : Nat) : FmtETC :=
  ⟨bits w 22 4, bits w 17 5⟩
/-- The word whose fields are those of f, above the fixed bits. -/
def fmtEncETC (base : Nat) (f : FmtETC) : Nat :=
  base + f.g * 2 ^ 22 + f.a * 2 ^ 17
/-- The fields of a word of format EM. -/
def fmtOfEM (w : Nat) : FmtEM :=
  ⟨bits w 22 4, bits w 18 4, bits w 13 5⟩
/-- The word whose fields are those of f, above the fixed bits. -/
def fmtEncEM (base : Nat) (f : FmtEM) : Nat :=
  base + f.g * 2 ^ 22 + f.m * 2 ^ 18 + f.c * 2 ^ 13
/-- The fields of a word of format EP. -/
def fmtOfEP (w : Nat) : FmtEP :=
  ⟨bits w 22 4, bits w 17 5⟩
/-- The word whose fields are those of f, above the fixed bits. -/
def fmtEncEP (base : Nat) (f : FmtEP) : Nat :=
  base + f.g * 2 ^ 22 + f.a * 2 ^ 17
/-- The fields of a word of format EP0. -/
def fmtOfEP0 (w : Nat) : FmtEP0 :=
  ⟨bits w 22 4⟩
/-- The word whose fields are those of f, above the fixed bits. -/
def fmtEncEP0 (base : Nat) (f : FmtEP0) : Nat :=
  base + f.g * 2 ^ 22
/-- The fields of a word of format UW. -/
def fmtOfUW (w : Nat) : FmtUW :=
  ⟨bits w 52 6, bits w 32 20, bits w 29 3, bits w 9 20, bits w 5 4, bits w 4 1⟩
/-- The word whose fields are those of f, above the fixed bits. -/
def fmtEncUW (base : Nat) (f : FmtUW) : Nat :=
  base + f.sel * 2 ^ 52 + f.off * 2 ^ 32 + f.qs * 2 ^ 29 + f.soff * 2 ^ 9 + f.fm * 2 ^ 5 + f.fzi * 2 ^ 4
/-- The fields of a word of format UA. -/
def fmtOfUA (w : Nat) : FmtUA :=
  ⟨bits w 52 6, bits w 36 16, bits w 33 3, bits w 29 4, bits w 24 5, bits w 18 6, bits w 14 4, bits w 13 1, bits w 12 1⟩
/-- The word whose fields are those of f, above the fixed bits. -/
def fmtEncUA (base : Nat) (f : FmtUA) : Nat :=
  base + f.sel * 2 ^ 52 + f.off * 2 ^ 36 + f.qd * 2 ^ 33 + f.tile * 2 ^ 29 + f.row0 * 2 ^ 24 + f.nrows * 2 ^ 18 + f.fm * 2 ^ 14 + f.fzi * 2 ^ 13 + f.gath * 2 ^ 12
/-- The fields of a word of format UT. -/
def fmtOfUT (w : Nat) : FmtUT :=
  ⟨bits w 29 4⟩
/-- The word whose fields are those of f, above the fixed bits. -/
def fmtEncUT (base : Nat) (f : FmtUT) : Nat :=
  base + f.tile * 2 ^ 29
/-- The fields of a word of format UG. -/
def fmtOfUG (w : Nat) : FmtUG :=
  ⟨bits w 29 4, bits w 28 1, bits w 25 3, bits w 0 11⟩
/-- The word whose fields are those of f, above the fixed bits. -/
def fmtEncUG (base : Nat) (f : FmtUG) : Nat :=
  base + f.tile * 2 ^ 29 + f.gq * 2 ^ 28 + f.q * 2 ^ 25 + f.gexp * 2 ^ 0
/-- The fields of a word of format UC. -/
def fmtOfUC (w : Nat) : FmtUC :=
  ⟨bits w 52 6, bits w 36 16, bits w 33 3, bits w 29 4, bits w 24 5, bits w 18 6, bits w 14 4, bits w 13 1, bits w 12 1⟩
/-- The word whose fields are those of f, above the fixed bits. -/
def fmtEncUC (base : Nat) (f : FmtUC) : Nat :=
  base + f.sel * 2 ^ 52 + f.off * 2 ^ 36 + f.qd * 2 ^ 33 + f.tile * 2 ^ 29 + f.row0 * 2 ^ 24 + f.nrows * 2 ^ 18 + f.tgt * 2 ^ 14 + f.fzo * 2 ^ 13 + f.tag * 2 ^ 12
/-- The fields of a word of format UL. -/
def fmtOfUL (w : Nat) : FmtUL :=
  ⟨bits w 57 1, bits w 54 3, bits w 0 16⟩
/-- The word whose fields are those of f, above the fixed bits. -/
def fmtEncUL (base : Nat) (f : FmtUL) : Nat :=
  base + f.cq * 2 ^ 57 + f.q * 2 ^ 54 + f.cnt * 2 ^ 0
/-- The fields of a word of format UR. -/
def fmtOfUR (w : Nat) : FmtUR :=
  ⟨bits w 57 1, bits w 56 1, bits w 51 5, bits w 39 12⟩
/-- The word whose fields are those of f, above the fixed bits. -/
def fmtEncUR (base : Nat) (f : FmtUR) : Nat :=
  base + f.w * 2 ^ 57 + f.bq * 2 ^ 56 + f.bar * 2 ^ 51 + f.inc * 2 ^ 39
/-- The fields of a word of format UM. -/
def fmtOfUM (w : Nat) : FmtUM :=
  ⟨bits w 56 1, bits w 51 5, bits w 50 1⟩
/-- The word whose fields are those of f, above the fixed bits. -/
def fmtEncUM (base : Nat) (f : FmtUM) : Nat :=
  base + f.bq * 2 ^ 56 + f.bar * 2 ^ 51 + f.ph * 2 ^ 50
/-- The fields of a word of format UI. -/
def fmtOfUI (w : Nat) : FmtUI :=
  ⟨bits w 54 3, bits w 0 32⟩
/-- The word whose fields are those of f, above the fixed bits. -/
def fmtEncUI (base : Nat) (f : FmtUI) : Nat :=
  base + f.q * 2 ^ 54 + f.imm * 2 ^ 0

/-- The words of an instruction: its syllable in bits 31:0 and its extension in bits 63:32 (R97, R103 to R111), a
micro-operation's 64-bit word (R232), and the empty bundle's header (R93). An event has no words: 0. -/
def encode : Instr → Nat
  | .emptyBundle => 0
  | .nop f => fmtEncCN 0x0 f
  | .prep f => fmtEncCP 0x4000000 f
  | .prepr f => fmtEncCR 0x8000000 f
  | .trans f => fmtEncCT 0xC000000 f
  | .loopImm f => fmtEncCLI 0x10000400 f
  | .loopReg f => fmtEncCLR 0x10000000 f
  | .sync f => fmtEncCN 0x14000000 f
  | .syncj f => fmtEncCN 0x18000000 f
  | .syncl f => fmtEncCN 0x1C000000 f
  | .join f => fmtEncCJ 0x20000000 f
  | .joinW f => fmtEncCJ 0x24000000 f
  | .detach f => fmtEncCN 0x28000000 f
  | .smode f => fmtEncCM 0x2C000000 f
  | .spawn f => fmtEncCS 0x30000000 f
  | .suspend f => fmtEncCN 0x34000000 f
  | .yield f => fmtEncCN 0x38000000 f
  | .halt f => fmtEncCN 0x3C000000 f
  | .trap f => fmtEncCX 0x40000000 f
  | .tret f => fmtEncCN 0x44000000 f
  | .add f => fmtEncSR 0x0 f
  | .sub f => fmtEncSR 0x4000000 f
  | .mul f => fmtEncSR 0x8000000 f
  | .mulh f => fmtEncSRU 0xC000000 f
  | .div f => fmtEncSRU 0x10000000 f
  | .rem f => fmtEncSRU 0x14000000 f
  | .addi f => fmtEncSI 0x18000000 f
  | .addiWide f => fmtEncSIW 0x18000000 f
  | .movi f => fmtEncSL 0x1C000000 f
  | .moviWide f => fmtEncSLW 0x1C000000 f
  | .moviHi f => fmtEncSLH 0x1C010000 f
  | .and f => fmtEncSR 0x20000000 f
  | .or f => fmtEncSR 0x24000000 f
  | .xor f => fmtEncSR 0x28000000 f
  | .shl f => fmtEncSR 0x2C000000 f
  | .shr f => fmtEncSR 0x30000000 f
  | .sar f => fmtEncSR 0x34000000 f
  | .min f => fmtEncSR 0x38000000 f
  | .max f => fmtEncSR 0x3C000000 f
  | .umin f => fmtEncSR 0x40000000 f
  | .umax f => fmtEncSR 0x44000000 f
  | .clz f => fmtEncS1 0x48000000 f
  | .popc f => fmtEncS1 0x4C000000 f
  | .sel f => fmtEncSS 0x50000000 f
  | .cmp f => fmtEncSC 0x54000000 f
  | .cmpi f => fmtEncSK 0x58000000 f
  | .cmpiWide f => fmtEncSKW 0x58000000 f
  | .andi f => fmtEncSI 0x60000000 f
  | .andiWide f => fmtEncSIW 0x60000000 f
  | .ori f => fmtEncSI 0x64000000 f
  | .oriWide f => fmtEncSIW 0x64000000 f
  | .xori f => fmtEncSI 0x68000000 f
  | .xoriWide f => fmtEncSIW 0x68000000 f
  | .shli f => fmtEncSH 0x6C000000 f
  | .shri f => fmtEncSH 0x70000000 f
  | .sari f => fmtEncSH 0x74000000 f
  | .fadd f => fmtEncSF 0x80000000 f
  | .faddWide f => fmtEncSFW 0x80000000 f
  | .fmul f => fmtEncSF 0x84000000 f
  | .fmulWide f => fmtEncSFW 0x84000000 f
  | .ffma f => fmtEncSF 0x88000000 f
  | .ffmaWide f => fmtEncSFW 0x88000000 f
  | .fcvt f => fmtEncSV 0x8C000000 f
  | .fcvtWide f => fmtEncSVW 0x8C000000 f
  | .csrr f => fmtEncSX 0xA0000000 f
  | .csrw f => fmtEncSX 0xA4000000 f
  | .movm f => fmtEncSM 0xA8000000 f
  | .ld f => fmtEncMS 0x0 f
  | .ldWide f => fmtEncMSW 0x0 f
  | .st f => fmtEncMS 0x4000000 f
  | .stWide f => fmtEncMSW 0x4000000 f
  | .ldf f => fmtEncMS 0x8000000 f
  | .ldfWide f => fmtEncMSW 0x8000000 f
  | .lde f => fmtEncMS 0xC000000 f
  | .ldeWide f => fmtEncMSW 0xC000000 f
  | .ste f => fmtEncMS 0x10000000 f
  | .steWide f => fmtEncMSW 0x10000000 f
  | .tage f => fmtEncMT 0x14000000 f
  | .tageWide f => fmtEncMTW 0x14000000 f
  | .tagf f => fmtEncMT 0x18000000 f
  | .tagfWide f => fmtEncMTW 0x18000000 f
  | .vld f => fmtEncMV 0x20000000 f
  | .vldWide f => fmtEncMVW 0x20000000 f
  | .vst f => fmtEncMV 0x24000000 f
  | .vstWide f => fmtEncMVW 0x24000000 f
  | .vldx f => fmtEncMX 0x28000000 f
  | .vstx f => fmtEncMX 0x2C000000 f
  | .vadd f => fmtEncVI 0x0 f
  | .vaddWide f => fmtEncVIW 0x0 f
  | .vsub f => fmtEncVI 0x4000000 f
  | .vsubWide f => fmtEncVIW 0x4000000 f
  | .vmul f => fmtEncVI 0x8000000 f
  | .vmulWide f => fmtEncVIW 0x8000000 f
  | .vmin f => fmtEncVI 0xC000000 f
  | .vminWide f => fmtEncVIW 0xC000000 f
  | .vmax f => fmtEncVI 0x10000000 f
  | .vmaxWide f => fmtEncVIW 0x10000000 f
  | .vand f => fmtEncVI 0x14000000 f
  | .vandWide f => fmtEncVIW 0x14000000 f
  | .vor f => fmtEncVI 0x18000000 f
  | .vorWide f => fmtEncVIW 0x18000000 f
  | .vxor f => fmtEncVI 0x1C000000 f
  | .vxorWide f => fmtEncVIW 0x1C000000 f
  | .vshl f => fmtEncVI 0x20000000 f
  | .vshlWide f => fmtEncVIW 0x20000000 f
  | .vshr f => fmtEncVI 0x24000000 f
  | .vshrWide f => fmtEncVIW 0x24000000 f
  | .vsar f => fmtEncVI 0x28000000 f
  | .vsarWide f => fmtEncVIW 0x28000000 f
  | .vcmp f => fmtEncVC 0x2C000000 f
  | .vsel f => fmtEncVS 0x30000000 f
  | .vselWide f => fmtEncVSW 0x30000000 f
  | .vcvt f => fmtEncVV 0x34000000 f
  | .vcvtWide f => fmtEncVVW 0x34000000 f
  | .vperm f => fmtEncVP 0x38000000 f
  | .vbcast f => fmtEncVB 0x3C000000 f
  | .vaddF f => fmtEncVF 0x40000000 f
  | .vaddFWide f => fmtEncVFW 0x40000000 f
  | .vsubF f => fmtEncVF 0x44000000 f
  | .vsubFWide f => fmtEncVFW 0x44000000 f
  | .vmulF f => fmtEncVF 0x48000000 f
  | .vmulFWide f => fmtEncVFW 0x48000000 f
  | .vfma f => fmtEncVF 0x4C000000 f
  | .vfmaWide f => fmtEncVFW 0x4C000000 f
  | .vminF f => fmtEncVF 0x50000000 f
  | .vminFWide f => fmtEncVFW 0x50000000 f
  | .vmaxF f => fmtEncVF 0x54000000 f
  | .vmaxFWide f => fmtEncVFW 0x54000000 f
  | .vsum f => fmtEncVR 0x60000000 f
  | .vsumWide f => fmtEncVRW 0x60000000 f
  | .vmaxr f => fmtEncVR 0x64000000 f
  | .vmaxrWide f => fmtEncVRW 0x64000000 f
  | .vscan f => fmtEncVR 0x68000000 f
  | .vscanWide f => fmtEncVRW 0x68000000 f
  | .vlane f => fmtEncVL 0x6C000000 f
  | .vpopc f => fmtEncVN 0x70000000 f
  | .vcmpr f => fmtEncVM 0x74000000 f
  | .vhash f => fmtEncVH 0x78000000 f
  | .vhashWide f => fmtEncVHW 0x78000000 f
  | .vvote f => fmtEncVO 0x7C000000 f
  | .vexp2 f => fmtEncVF 0x80000000 f
  | .vexp2Wide f => fmtEncVFW 0x80000000 f
  | .vlog2 f => fmtEncVF 0x84000000 f
  | .vlog2Wide f => fmtEncVFW 0x84000000 f
  | .vrcp f => fmtEncVF 0x88000000 f
  | .vrcpWide f => fmtEncVFW 0x88000000 f
  | .vrsq f => fmtEncVF 0x8C000000 f
  | .vrsqWide f => fmtEncVFW 0x8C000000 f
  | .pand f => fmtEncPL 0xA0000000 f
  | .por f => fmtEncPL 0xA4000000 f
  | .pxor f => fmtEncPL 0xA8000000 f
  | .pnot f => fmtEncPU 0xAC000000 f
  | .pset f => fmtEncPS 0xB0000000 f
  | .pmov f => fmtEncPM 0xB4000000 f
  | .mxcall f => fmtEncXC 0x0 f
  | .mxprog f => fmtEncXP 0x4000000 f
  | .mxprogTab f => fmtEncXP 0x4000002 f
  | .zrd f => fmtEncXZ 0x8000000 f
  | .zwr f => fmtEncXZ 0xC000000 f
  | .mxstat f => fmtEncXS 0x10000000 f
  | .copy f => fmtEncEC 0x0 f
  | .copyWide f => fmtEncECW 0x0 f
  | .copy2d f => fmtEncEC 0x4000000 f
  | .copy2dWide f => fmtEncECW 0x4000000 f
  | .tmov f => fmtEncEC 0x8000000 f
  | .tmovWide f => fmtEncECW 0x8000000 f
  | .seop f => fmtEncESE 0xC000000 f
  | .seopWide f => fmtEncESEW 0xC000000 f
  | .copyUnseal f => fmtEncEC 0x10000000 f
  | .copyUnsealWide f => fmtEncECW 0x10000000 f
  | .strcfg f => fmtEncEK 0x20000000 f
  | .stron f => fmtEncEK0 0x24000000 f
  | .stroff f => fmtEncEK0 0x28000000 f
  | .bufrel f => fmtEncEH 0x2C000000 f
  | .rput f => fmtEncEC 0x40000000 f
  | .rputWide f => fmtEncECW 0x40000000 f
  | .rget f => fmtEncEG 0x44000000 f
  | .rgetWide f => fmtEncEGW 0x44000000 f
  | .rgetv f => fmtEncEC 0x48000000 f
  | .rgetvWide f => fmtEncECW 0x48000000 f
  | .rfop f => fmtEncEF 0x4C000000 f
  | .rfopWide f => fmtEncEFW 0x4C000000 f
  | .rfopIncw f => fmtEncEFW 0x4C000000 f
  | .rfopBadd f => fmtEncEFW 0x4C000000 f
  | .rfopCas f => fmtEncEFW 0x4C000000 f
  | .rvatom f => fmtEncEA 0x50000000 f
  | .rvatomWide f => fmtEncEAW 0x50000000 f
  | .rred f => fmtEncER 0x54000000 f
  | .rredWide f => fmtEncERW 0x54000000 f
  | .rmcast f => fmtEncEC 0x58000000 f
  | .rmcastWide f => fmtEncECW 0x58000000 f
  | .fence f => fmtEncEN 0x5C000000 f
  | .arrive f => fmtEncEBA 0x60000000 f
  | .waitb f => fmtEncEBW 0x64000000 f
  | .waitbC f => fmtEncEBC 0x68000000 f
  | .waitbCWide f => fmtEncEBCW 0x68000000 f
  | .waith f => fmtEncEH 0x6C000000 f
  | .barinit f => fmtEncEBI 0x70000000 f
  | .trigarm f => fmtEncET 0x74000000 f
  | .trigcancel f => fmtEncETC 0x78000000 f
  | .moncfgConfigure f => fmtEncEM 0x7C000000 f
  | .moncfgSnapshot f => fmtEncEM 0x7C000000 f
  | .moncfgSnapshotClear f => fmtEncEM 0x7C000000 f
  | .moncfgStop f => fmtEncEM 0x7C000000 f
  | .tlbinv f => fmtEncEP 0xE0000000 f
  | .tlbinvPart f => fmtEncEP0 0xE0008000 f
  | .tlbinvPkg f => fmtEncEP0 0xE0010000 f
  | .slotld f => fmtEncEP 0xE4000000 f
  | .buddyset f => fmtEncEP 0xE8000000 f
  | .mret => 0x0
  | .wld f => fmtEncUW 0x400000000000000 f
  | .wswap => 0x800000000000000
  | .ast f => fmtEncUA 0xC00000000000000 f
  | .zclr f => fmtEncUT 0x1000000000000000 f
  | .zgrid f => fmtEncUG 0x1400000000000000 f
  | .zcvt f => fmtEncUC 0x1800000000000000 f
  | .mloop f => fmtEncUL 0x1C00000000000000 f
  | .mend => 0x2000000000000000
  | .marrive f => fmtEncUR 0x2400000000000000 f
  | .mwait f => fmtEncUM 0x2800000000000000 f
  | .minc f => fmtEncUI 0x2C00000000000000 f
  | .chordMulticast => 0
  | .chordRestart => 0
  | .joinTimeout => 0
  | .chordJoinTimeout => 0
  | .transferMature => 0
  | .loopEnd => 0
  | .syncGenerationComplete => 0
  | .waitTimeout => 0
  | .tagWaitTimeout => 0
  | .takeRecord => 0
  | .arrivalOverflowPush => 0
  | .schedulerDispatch => 0
  | .batchPush => 0
  | .priorityAging => 0
  | .skipLimit => 0
  | .coreLeaveNode => 0
  | .engineNodeComplete => 0
  | .decrement => 0
  | .failureNotice => 0
  | .notifyRingWrite => 0
  | .notifyAck => 0
  | .corestartGo => 0
  | .coreMapWrite => 0
  | .preemptRequeue => 0
  | .preemptPark => 0
  | .preemptResume => 0
  | .preemptStop => 0
  | .drainTimeout => 0
  | .imageSave => 0
  | .imageRestore => 0
  | .bteRelease => 0
  | .handleFillClaim => 0
  | .bteHandleTimeout => 0
  | .bteCommandComplete => 0
  | .arriveApply => 0
  | .seCommandStart => 0
  | .seCommandComplete => 0
  | .streamEntryFetch => 0
  | .streamEntryWrite => 0
  | .pageWalk => 0
  | .fabricWriteAtHome => 0
  | .remoteBarrierIncrement => 0
  | .putAcknowledge => 0
  | .multicastMemberDelivery => 0
  | .rgetReadAtHome => 0
  | .rgetReply => 0
  | .rgetvComplete => 0
  | .combineRequest => 0
  | .rfopAtHome => 0
  | .combinedReplySplit => 0
  | .rfopReply => 0
  | .rvatomAtHome => 0
  | .cruPartialForward => 0
  | .contributionAtRoot => 0
  | .roundTimeout => 0
  | .roundEndMessage => 0
  | .peerTimeout => 0
  | .slotTableEffect => 0
  | .monitorPeriodicSample => 0
  | .uncorrectableError => 0
  | .packageReset => 0
  | .dieTableWrite => 0
  | .windowTableWrite => 0
  | .reductionWindowWrite => 0
  | .rankMapWrite => 0
  | .graphTableWrite => 0
  | .contextTableWrite => 0
  | .keyTableWrite => 0
  | .sweepRekey => 0
  | .deadPeerClear => 0
  | .ownershipWrite => 0
  | .pctlDefine => 0
  | .functionLevelReset => 0
  | .launch => 0
  | .heartbeat => 0
  | .heartbeatPeriodExpiry => 0
  | .graceExpiry => 0
  | .qnonceWrite => 0
  | .extendWrite => 0
  | .keyload => 0
  | .efqPop => 0
  | .monownWrite => 0
  | .islctlWrite => 0
  | .islandChangeDone => 0
  | .pgctlDrain => 0
  | .pgctlLoad => 0
  | .firmwareLoadDone => 0
  | .registerWrite => 0
  | .btePieceWrite => 0
  | .seRowOperation => 0
  | .rgetvPieceLanding => 0
  | .microopComplete => 0
  | .targetLinesReady => 0
  | .codeCopyComplete => 0
  | .reportWritten => 0

/-- The instructions of class C at opcode op, in the short or the wide form, with the fields of the word (R113). -/
def candidatesC (op w : Nat) : List Instr :=
  match op with
  | 0 => [.nop (fmtOfCN w)]
  | 1 => [.prep (fmtOfCP w)]
  | 2 => [.prepr (fmtOfCR w)]
  | 3 => [.trans (fmtOfCT w)]
  | 4 => [.loopImm (fmtOfCLI w), .loopReg (fmtOfCLR w)]
  | 5 => [.sync (fmtOfCN w)]
  | 6 => [.syncj (fmtOfCN w)]
  | 7 => [.syncl (fmtOfCN w)]
  | 8 => [.join (fmtOfCJ w)]
  | 9 => [.joinW (fmtOfCJ w)]
  | 10 => [.detach (fmtOfCN w)]
  | 11 => [.smode (fmtOfCM w)]
  | 12 => [.spawn (fmtOfCS w)]
  | 13 => [.suspend (fmtOfCN w)]
  | 14 => [.yield (fmtOfCN w)]
  | 15 => [.halt (fmtOfCN w)]
  | 16 => [.trap (fmtOfCX w)]
  | 17 => [.tret (fmtOfCN w)]
  | _ => []
/-- The instructions of class S at opcode op, in the short or the wide form, with the fields of the word (R114). -/
def candidatesS (op w : Nat) : List Instr :=
  match op with
  | 0 => [.add (fmtOfSR w)]
  | 1 => [.sub (fmtOfSR w)]
  | 2 => [.mul (fmtOfSR w)]
  | 3 => [.mulh (fmtOfSRU w)]
  | 4 => [.div (fmtOfSRU w)]
  | 5 => [.rem (fmtOfSRU w)]
  | 6 => [.addi (fmtOfSI w)]
  | 7 => [.movi (fmtOfSL w)]
  | 8 => [.and (fmtOfSR w)]
  | 9 => [.or (fmtOfSR w)]
  | 10 => [.xor (fmtOfSR w)]
  | 11 => [.shl (fmtOfSR w)]
  | 12 => [.shr (fmtOfSR w)]
  | 13 => [.sar (fmtOfSR w)]
  | 14 => [.min (fmtOfSR w)]
  | 15 => [.max (fmtOfSR w)]
  | 16 => [.umin (fmtOfSR w)]
  | 17 => [.umax (fmtOfSR w)]
  | 18 => [.clz (fmtOfS1 w)]
  | 19 => [.popc (fmtOfS1 w)]
  | 20 => [.sel (fmtOfSS w)]
  | 21 => [.cmp (fmtOfSC w)]
  | 22 => [.cmpi (fmtOfSK w)]
  | 24 => [.andi (fmtOfSI w)]
  | 25 => [.ori (fmtOfSI w)]
  | 26 => [.xori (fmtOfSI w)]
  | 27 => [.shli (fmtOfSH w)]
  | 28 => [.shri (fmtOfSH w)]
  | 29 => [.sari (fmtOfSH w)]
  | 32 => [.fadd (fmtOfSF w)]
  | 33 => [.fmul (fmtOfSF w)]
  | 34 => [.ffma (fmtOfSF w)]
  | 35 => [.fcvt (fmtOfSV w)]
  | 40 => [.csrr (fmtOfSX w)]
  | 41 => [.csrw (fmtOfSX w)]
  | 42 => [.movm (fmtOfSM w)]
  | _ => []
/-- The wide instructions of class S at opcode op. -/
def wideS (op w : Nat) : List Instr :=
  match op with
  | 6 => [.addiWide (fmtOfSIW w)]
  | 7 => [.moviWide (fmtOfSLW w), .moviHi (fmtOfSLH w)]
  | 22 => [.cmpiWide (fmtOfSKW w)]
  | 24 => [.andiWide (fmtOfSIW w)]
  | 25 => [.oriWide (fmtOfSIW w)]
  | 26 => [.xoriWide (fmtOfSIW w)]
  | 32 => [.faddWide (fmtOfSFW w)]
  | 33 => [.fmulWide (fmtOfSFW w)]
  | 34 => [.ffmaWide (fmtOfSFW w)]
  | 35 => [.fcvtWide (fmtOfSVW w)]
  | _ => []
/-- The instructions of class M at opcode op, in the short or the wide form, with the fields of the word (R115). -/
def candidatesM (op w : Nat) : List Instr :=
  match op with
  | 0 => [.ld (fmtOfMS w)]
  | 1 => [.st (fmtOfMS w)]
  | 2 => [.ldf (fmtOfMS w)]
  | 3 => [.lde (fmtOfMS w)]
  | 4 => [.ste (fmtOfMS w)]
  | 5 => [.tage (fmtOfMT w)]
  | 6 => [.tagf (fmtOfMT w)]
  | 8 => [.vld (fmtOfMV w)]
  | 9 => [.vst (fmtOfMV w)]
  | 10 => [.vldx (fmtOfMX w)]
  | 11 => [.vstx (fmtOfMX w)]
  | _ => []
/-- The wide instructions of class M at opcode op. -/
def wideM (op w : Nat) : List Instr :=
  match op with
  | 0 => [.ldWide (fmtOfMSW w)]
  | 1 => [.stWide (fmtOfMSW w)]
  | 2 => [.ldfWide (fmtOfMSW w)]
  | 3 => [.ldeWide (fmtOfMSW w)]
  | 4 => [.steWide (fmtOfMSW w)]
  | 5 => [.tageWide (fmtOfMTW w)]
  | 6 => [.tagfWide (fmtOfMTW w)]
  | 8 => [.vldWide (fmtOfMVW w)]
  | 9 => [.vstWide (fmtOfMVW w)]
  | _ => []
/-- The instructions of class V at opcode op, in the short or the wide form, with the fields of the word (R116). -/
def candidatesV (op w : Nat) : List Instr :=
  match op with
  | 0 => [.vadd (fmtOfVI w)]
  | 1 => [.vsub (fmtOfVI w)]
  | 2 => [.vmul (fmtOfVI w)]
  | 3 => [.vmin (fmtOfVI w)]
  | 4 => [.vmax (fmtOfVI w)]
  | 5 => [.vand (fmtOfVI w)]
  | 6 => [.vor (fmtOfVI w)]
  | 7 => [.vxor (fmtOfVI w)]
  | 8 => [.vshl (fmtOfVI w)]
  | 9 => [.vshr (fmtOfVI w)]
  | 10 => [.vsar (fmtOfVI w)]
  | 11 => [.vcmp (fmtOfVC w)]
  | 12 => [.vsel (fmtOfVS w)]
  | 13 => [.vcvt (fmtOfVV w)]
  | 14 => [.vperm (fmtOfVP w)]
  | 15 => [.vbcast (fmtOfVB w)]
  | 16 => [.vaddF (fmtOfVF w)]
  | 17 => [.vsubF (fmtOfVF w)]
  | 18 => [.vmulF (fmtOfVF w)]
  | 19 => [.vfma (fmtOfVF w)]
  | 20 => [.vminF (fmtOfVF w)]
  | 21 => [.vmaxF (fmtOfVF w)]
  | 24 => [.vsum (fmtOfVR w)]
  | 25 => [.vmaxr (fmtOfVR w)]
  | 26 => [.vscan (fmtOfVR w)]
  | 27 => [.vlane (fmtOfVL w)]
  | 28 => [.vpopc (fmtOfVN w)]
  | 29 => [.vcmpr (fmtOfVM w)]
  | 30 => [.vhash (fmtOfVH w)]
  | 31 => [.vvote (fmtOfVO w)]
  | 32 => [.vexp2 (fmtOfVF w)]
  | 33 => [.vlog2 (fmtOfVF w)]
  | 34 => [.vrcp (fmtOfVF w)]
  | 35 => [.vrsq (fmtOfVF w)]
  | 40 => [.pand (fmtOfPL w)]
  | 41 => [.por (fmtOfPL w)]
  | 42 => [.pxor (fmtOfPL w)]
  | 43 => [.pnot (fmtOfPU w)]
  | 44 => [.pset (fmtOfPS w)]
  | 45 => [.pmov (fmtOfPM w)]
  | _ => []
/-- The wide instructions of class V at opcode op. -/
def wideV (op w : Nat) : List Instr :=
  match op with
  | 0 => [.vaddWide (fmtOfVIW w)]
  | 1 => [.vsubWide (fmtOfVIW w)]
  | 2 => [.vmulWide (fmtOfVIW w)]
  | 3 => [.vminWide (fmtOfVIW w)]
  | 4 => [.vmaxWide (fmtOfVIW w)]
  | 5 => [.vandWide (fmtOfVIW w)]
  | 6 => [.vorWide (fmtOfVIW w)]
  | 7 => [.vxorWide (fmtOfVIW w)]
  | 8 => [.vshlWide (fmtOfVIW w)]
  | 9 => [.vshrWide (fmtOfVIW w)]
  | 10 => [.vsarWide (fmtOfVIW w)]
  | 12 => [.vselWide (fmtOfVSW w)]
  | 13 => [.vcvtWide (fmtOfVVW w)]
  | 16 => [.vaddFWide (fmtOfVFW w)]
  | 17 => [.vsubFWide (fmtOfVFW w)]
  | 18 => [.vmulFWide (fmtOfVFW w)]
  | 19 => [.vfmaWide (fmtOfVFW w)]
  | 20 => [.vminFWide (fmtOfVFW w)]
  | 21 => [.vmaxFWide (fmtOfVFW w)]
  | 24 => [.vsumWide (fmtOfVRW w)]
  | 25 => [.vmaxrWide (fmtOfVRW w)]
  | 26 => [.vscanWide (fmtOfVRW w)]
  | 30 => [.vhashWide (fmtOfVHW w)]
  | 32 => [.vexp2Wide (fmtOfVFW w)]
  | 33 => [.vlog2Wide (fmtOfVFW w)]
  | 34 => [.vrcpWide (fmtOfVFW w)]
  | 35 => [.vrsqWide (fmtOfVFW w)]
  | _ => []
/-- The instructions of class X at opcode op, in the short or the wide form, with the fields of the word (R117). -/
def candidatesX (op w : Nat) : List Instr :=
  match op with
  | 0 => [.mxcall (fmtOfXC w)]
  | 1 => [.mxprog (fmtOfXP w), .mxprogTab (fmtOfXP w)]
  | 2 => [.zrd (fmtOfXZ w)]
  | 3 => [.zwr (fmtOfXZ w)]
  | 4 => [.mxstat (fmtOfXS w)]
  | _ => []
/-- The instructions of class E at opcode op, in the short or the wide form, with the fields of the word (R118). -/
def candidatesE (op w : Nat) : List Instr :=
  match op with
  | 0 => [.copy (fmtOfEC w)]
  | 1 => [.copy2d (fmtOfEC w)]
  | 2 => [.tmov (fmtOfEC w)]
  | 3 => [.seop (fmtOfESE w)]
  | 4 => [.copyUnseal (fmtOfEC w)]
  | 8 => [.strcfg (fmtOfEK w)]
  | 9 => [.stron (fmtOfEK0 w)]
  | 10 => [.stroff (fmtOfEK0 w)]
  | 11 => [.bufrel (fmtOfEH w)]
  | 16 => [.rput (fmtOfEC w)]
  | 17 => [.rget (fmtOfEG w)]
  | 18 => [.rgetv (fmtOfEC w)]
  | 19 => [.rfop (fmtOfEF w)]
  | 20 => [.rvatom (fmtOfEA w)]
  | 21 => [.rred (fmtOfER w)]
  | 22 => [.rmcast (fmtOfEC w)]
  | 23 => [.fence (fmtOfEN w)]
  | 24 => [.arrive (fmtOfEBA w)]
  | 25 => [.waitb (fmtOfEBW w)]
  | 26 => [.waitbC (fmtOfEBC w)]
  | 27 => [.waith (fmtOfEH w)]
  | 28 => [.barinit (fmtOfEBI w)]
  | 29 => [.trigarm (fmtOfET w)]
  | 30 => [.trigcancel (fmtOfETC w)]
  | 31 => [.moncfgConfigure (fmtOfEM w), .moncfgSnapshot (fmtOfEM w), .moncfgSnapshotClear (fmtOfEM w), .moncfgStop (fmtOfEM w)]
  | 56 => [.tlbinv (fmtOfEP w), .tlbinvPart (fmtOfEP0 w), .tlbinvPkg (fmtOfEP0 w)]
  | 57 => [.slotld (fmtOfEP w)]
  | 58 => [.buddyset (fmtOfEP w)]
  | _ => []
/-- The wide instructions of class E at opcode op. -/
def wideE (op w : Nat) : List Instr :=
  match op with
  | 0 => [.copyWide (fmtOfECW w)]
  | 1 => [.copy2dWide (fmtOfECW w)]
  | 2 => [.tmovWide (fmtOfECW w)]
  | 3 => [.seopWide (fmtOfESEW w)]
  | 4 => [.copyUnsealWide (fmtOfECW w)]
  | 16 => [.rputWide (fmtOfECW w)]
  | 17 => [.rgetWide (fmtOfEGW w)]
  | 18 => [.rgetvWide (fmtOfECW w)]
  | 19 => [.rfopWide (fmtOfEFW w), .rfopIncw (fmtOfEFW w), .rfopBadd (fmtOfEFW w), .rfopCas (fmtOfEFW w)]
  | 20 => [.rvatomWide (fmtOfEAW w)]
  | 21 => [.rredWide (fmtOfERW w)]
  | 22 => [.rmcastWide (fmtOfECW w)]
  | 26 => [.waitbCWide (fmtOfEBCW w)]
  | _ => []

/-- The instructions a syllable of a class may be, short or wide. -/
def candidates (c : Cls) (wide : Bool) (op w : Nat) : List Instr :=
  match c, wide with
  | .C, false => candidatesC op w
  | .S, false => candidatesS op w
  | .M, false => candidatesM op w
  | .V, false => candidatesV op w
  | .X, false => candidatesX op w
  | .E, false => candidatesE op w
  | .S, true => wideS op w
  | .M, true => wideM op w
  | .V, true => wideV op w
  | .E, true => wideE op w
  | .C, true => []
  | .X, true => []

/-- The first instruction of the list whose fields are accepted and whose words are w (so no reserved bit is set). -/
def firstAccepted (w : Nat) : List Instr → Option Instr
  | [] => none
  | i :: l => if i.wf && encode i == w then some i else firstAccepted w l

/-- Decode a syllable word (bits 31:0 of w), wide with its extension in bits 63:32, in a class (R97, R98, R101). WIDE on slot 6
is always an illegal encoding (R117); WIDE on an unassigned opcode of another class meets two bullets of R98, and the
opcode's is taken (DESIGN CHOICE, log entry 100). -/
def decodeSyl (c : Cls) (wide : Bool) (w : Nat) : Except DecodeError Instr :=
  let op := bits w 26 6
  match firstAccepted w (candidates c wide op w) with
  | some i => .ok i
  | none =>
    if (wide && c == .X) || !(candidates c false op w).isEmpty then .error .illegalEncoding else .error .illegalInstruction

/-- The micro-operation of a code, with the fields of the word (R232). -/
def candidatesMicro (op w : Nat) : List Instr :=
  match op with
  | 0 => [.mret]
  | 1 => [.wld (fmtOfUW w)]
  | 2 => [.wswap]
  | 3 => [.ast (fmtOfUA w)]
  | 4 => [.zclr (fmtOfUT w)]
  | 5 => [.zgrid (fmtOfUG w)]
  | 6 => [.zcvt (fmtOfUC w)]
  | 7 => [.mloop (fmtOfUL w)]
  | 8 => [.mend]
  | 9 => [.marrive (fmtOfUR w)]
  | 10 => [.mwait (fmtOfUM w)]
  | 11 => [.minc (fmtOfUI w)]
  | _ => []

/-- Decode a 64-bit micro-operation word; `none` where R229 check 3 or 4 fails. -/
def decodeMicro (w : Nat) : Option Instr := firstAccepted w (candidatesMicro (bits w 58 6) w)

/-- The class of a slot (R91). -/
def slotClass : Nat → Cls
  | 0 => .C
  | 1 => .S
  | 2 => .S
  | 3 => .M
  | 4 => .V
  | 5 => .V
  | 6 => .X
  | _ => .E

/-- A class's first slot. -/
def classSlot : Cls → Nat
  | .C => 0
  | .S => 1
  | .M => 3
  | .V => 4
  | .X => 6
  | .E => 7

/-- The little-endian number of a list of bytes (R1). -/
def leNat : List Nat → Nat
  | [] => 0
  | b :: l => b % 256 + 256 * leNat l

/-- The n low bytes of a number, lowest address first (R1). -/
def natBytes : Nat → Nat → List Nat
  | 0, _ => []
  | n + 1, x => x % 256 :: natBytes n (x / 256)

/-- The classes in which a table word is tried, in turn: the word does not say its class (log entry 9). -/
def tableClasses : List Cls := [.C, .X, .E, .S, .M, .V]

/-- The first class that accepts the word, short, with the instruction. -/
def tableDecode (w : Nat) : List Cls → Option (Cls × Instr)
  | [] => none
  | c :: l => match decodeSyl c false w with
    | .ok i => some (c, i)
    | .error _ => tableDecode w l

/-- The instruction the decoder reads from a table row's word: 16 bits are a header (only 0x0000 is an instruction of
its own, R93), 32 bits a short syllable, laid out little-endian and read back. -/
def decodeTableWord (nbits w : Nat) : Option Instr :=
  let x := leNat (natBytes (nbits / 8) w)
  if nbits = 16 then (if x = 0 then some .emptyBundle else none)
  else (tableDecode x tableClasses).map (·.2)

end Sys2Proof
end

