-- ==== Sys2Proof/Machine/State.lean ====
section
/-! DEFINITION. The state of a network of K8 packages (R7, R14, R15, R17), as plain data, and the state after reset.
Numbers name units: a core is pkg * 512 + die * 128 + cluster * 8 + logical core, a cluster pkg * 64 + die * 16 + 4y + x,
a die pkg * 4 + die, a pseudo-channel pkg * 512 + 64n + c. A table (`Tab`) lists the entries that differ from their
reset value, in rising order of their index. -/

namespace Sys2Proof.Machine

/-- A table indexed by number: what is not listed holds the reset value of its kind. -/
abbrev Tab (α : Type) := List (Nat × α)

/-- Every byte of every memory (R192). An address is (kind + 8 * unit) * 2 ^ 56 + offset, with kind 1 the SPM of a
core, 2 the CMEM of a cluster, 3 the DMEM of a die, 4 a pseudo-channel of HBM and 7 the host memory behind a package. -/
structure Memory where
  cells : List Host.Cell
  deriving DecidableEq, Repr

/-- A predicate register: 64 lane bits and the uniform bit U (R127). -/
structure PVal where
  bits : BitVec 64
  u : Bool
  deriving DecidableEq, Repr

/-- A loop register (R126, R136, R180). -/
structure LoopReg where
  ls : Nat
  le : Nat
  lc : Nat
  active : Bool
  deriving DecidableEq, Repr

/-- A target register (R126, R135, R176): state 0 empty, 1 lines in flight, 2 ready; the fetched lines by address. -/
structure TReg where
  target : Nat
  state : Nat
  readyAt : Nat
  lines : List (Nat × BitVec 512)
  deriving DecidableEq, Repr

/-- A pending transfer (R177): its target, how many bundles remain, whether it links, the number of the TRANS bundle,
and the lines its target register had fetched. -/
structure Pending where
  target : Nat
  rem : Nat
  link : Bool
  order : Nat
  lines : List (Nat × BitVec 512)
  deriving DecidableEq, Repr

/-- What a result in flight writes: a scalar, predicate, vector or matrix-parameter register, a push to a bound stream,
or nothing but its flags. -/
inductive RegName where
  | s (n : Nat)
  | p (n : Nat)
  | v (n : Nat)
  | m (n : Nat)
  | push (k : Nat)
  | flagsOnly
  deriving DecidableEq, Repr

/-- A result in flight (R25, R270): value, lanes written, flags due with it (R70), the bundle boundaries (in the exposed
modes) or cycles (in STRAND mode) still to pass before it is visible, its slot, the number of its bundle, the barrier its
retirement arrives on, and, of a push to a write stream, its operation's number and those it follows (R259). -/
structure Result where
  reg : RegName
  val : VecWord
  mask : BitVec 64
  flags : BitVec 5
  rem : Nat
  slot : Nat
  order : Nat
  arrive : Option Nat
  push : Option (Nat × List Nat)
  deriving DecidableEq, Repr

/-- The results that became visible at the last boundary of an exposed mode, what their registers held before, the FPFLAGS
bits they set, and WCOLL before: a context that traps or is stopped at that boundary has them in flight with a remaining
count of 1 (R374, R381). A push, and an arrival of a suffix, stay with their result until they are made: `Turn.land`. -/
structure Recent where
  results : List Result
  regs : List (RegName × VecWord)
  flags : BitVec 5
  wcoll : Bool
  deriving DecidableEq, Repr

/-- What trap entry captures (R374). -/
structure Capture where
  results : List Result
  pend : List Pending
  l0 : LoopReg
  l1 : LoopReg
  deriving DecidableEq, Repr

/-- The control registers of a context (R69, R70, R129, R132, R133, R372). -/
structure CtxCsr where
  rm : BitVec 2
  flags : BitVec 5
  ppl : Bool
  tcoll : Bool
  wcoll : Bool
  group : Nat
  pri : Nat
  tpc : Nat
  tcause : Nat
  tval : Word
  deriving DecidableEq, Repr

/-- A wait in progress (R137, R373): what waits, the cause code of its timeout, TVAL and LOC of it, the core's live
cycle at which it began, and the limit then in force. -/
structure Wait where
  key : Nat
  code : Nat
  tval : Word
  loc : Nat
  start : Nat
  limit : Nat
  deriving DecidableEq, Repr

/-- Where a context stands: active; ended and draining its results (R188); whether it has issued; when it became ready
and last issued (R50); the number of bundles issued; the waits of its next bundle; the JOIN it waits at (R37); the cycle in
which it took a record that its own core pushed in the cycle before (R252, R359). -/
structure CtxRun where
  active : Bool
  ended : Bool
  hasIssued : Bool
  readySince : Nat
  lastIssue : Nat
  issued : Nat
  waits : List Wait
  join : Option Nat
  tookAt : Nat
  deriving DecidableEq, Repr

/-- The engine operations the context has issued that are still outstanding, and those every later one waits for
(R259 to R261). -/
structure CtxDep where
  ops : List Nat
  fence : List Nat
  deriving DecidableEq, Repr

/-- A context (R28, R126). -/
structure Ctx where
  s : Tab Word
  p : Tab PVal
  l0 : LoopReg
  l1 : LoopReg
  tb : Tab TReg
  pend : List Pending
  pc : Nat
  csr : CtxCsr
  run : CtxRun
  inflight : List Result
  cap : Option Capture
  recent : Option Recent
  dep : CtxDep
  deriving DecidableEq, Repr

/-- The identity and mode of a core (R129, R130): mode 0 ATTACHED, 1 DETACHED, 2 STRAND; whether a node or a host start
holds it, and the die whose scheduler placed it. -/
structure CoreIdent where
  mode : Nat
  pl : Bool
  lcore : Nat
  lcluster : Nat
  node : Nat
  part : Nat
  placed : Bool
  started : Bool
  home : Nat
  deriving DecidableEq, Repr

/-- The per-core control registers (R129, R134, R137). -/
structure CoreCsr where
  barbase : Nat
  tvec : Nat
  taglimit : Nat
  joinlimit : Nat
  waitlimit : Nat
  deriving DecidableEq, Repr

/-- A bundle in a decode queue (R32): its address, its line, the first cycle it may issue, its number, and the leader
that decided its address (R33, R36). -/
structure QBundle where
  addr : Nat
  line : BitVec 512
  readyAt : Nat
  num : Nat
  lead : Option Nat
  deriving DecidableEq, Repr

/-- What an attached core's TRANS or LOOP came to (R34): the bundle's number, the transfer it created with its lines,
the loop a LOOP executed on with what it left there, and where a count of zero goes. -/
structure Note where
  num : Nat
  target : Option (Nat × List (Nat × BitVec 512))
  loop : Option (Nat × LoopReg)
  skip : Option Nat
  deriving DecidableEq, Repr

/-- What the core fetches from (R24, R32): the decode queue, the fetch buffer's lines, oldest first, the number of
the last attached bundle it issued, whether it has just re-attached (R38), and its notes, oldest first. -/
structure CoreFetch where
  queue : List QBundle
  lines : List (Nat × BitVec 512)
  lastNum : Nat
  fresh : Bool
  notes : List Note
  deriving DecidableEq, Repr

/-- The operation a trigger fires (R361). -/
structure TrigOp where
  kind : Nat
  bar : Nat
  nb : Bool
  inc : Nat
  tag : Bool
  ckpt : Bool
  rel : Bool
  acq : Bool
  scope : Nat
  opx : Nat
  dst : Word
  src : Word
  len : Word
  deriving DecidableEq, Repr

/-- An armed trigger (R360, R364), with the operations its fired operation follows, its operation number, and the cycle
from which it fires once its condition is met (0: not met). -/
structure Trigger where
  bar : Nat
  thr : Nat
  phase : Bool
  op : TrigOp
  ctx : Nat
  after : List Nat
  opId : Nat
  metAt : Nat
  deriving DecidableEq, Repr

/-- An arrival of an RGET (R51). -/
structure Arrival where
  pc : Nat
  off : Nat
  cookie : Word
  deriving DecidableEq, Repr

/-- A stream descriptor's walk (R288). -/
structure Walk where
  base : Nat
  c0 : Nat
  c1 : Nat
  c2 : Nat
  s0 : Int
  s1 : Int
  s2 : Int
  esz : Nat
  write : Bool
  deriving DecidableEq, Repr

/-- A pushed entry of a write stream that is not yet written (R291), with the operations it follows (R259). -/
structure StreamEntry where
  idx : Nat
  data : VecWord
  opId : Nat
  after : List Nat
  deriving DecidableEq, Repr

/-- A byte of SPM that a store of an operation's own bundle wrote (R100, R218): its offset, what it held before, what was
stored, and the number that its writes had then been given (`State.watch`). The operation does not see that store. -/
structure Hidden where
  off : Nat
  old : Byte
  new : Byte
  at_ : Nat
  deriving DecidableEq, Repr

/-- A stream engine (R288 to R292): configured, bound, descriptor offset, position in entries, entries fetched ahead,
entries pushed and unwritten, the status bits, entries moved, when the next fetch may land, the operations its
reads follow, the operation its reads count as, and what its reads do not see (R218). -/
structure Stream where
  bound : Bool
  desc : Nat
  walk : Option Walk
  pos : Nat
  fetched : List VecWord
  unwritten : List StreamEntry
  mis : Bool
  ovr : Bool
  exh : Bool
  readyAt : Nat
  after : List Nat
  opId : Nat
  hide : List Hidden
  deriving DecidableEq, Repr

/-- One weight latch (R224): VALID, format, the 128 mantissas of each column, and for each column the scale pair and
the invalid bit of its four blocks. -/
structure Latch where
  valid : Bool
  fm : Nat
  cols : List (List Int)
  scales : List (List (Nat × Int × Bool))
  deriving DecidableEq, Repr

/-- A call of the matrix queue (R227, R230, R247): routine, SEQ, q0 to q7, owned tiles, the routine's words as they
stood at the MXCALL, the index of the next micro-operation, loop counters, the fault barrier, its operation number, the
operations it follows, the engine cycle from which it may start, and the bytes that a store of its bundle wrote, which it
does not see (R239). -/
structure Call where
  rout : Nat
  seq : Nat
  q : Tab Word
  owned : List Nat
  words : List Word
  idx : Nat
  loops : List (Nat × Nat)
  fbar : Nat
  opId : Nat
  after : List Nat
  startAt : Nat
  hide : List Hidden
  deriving DecidableEq, Repr

/-- A WLD, AST or ZCVT in progress (R233 to R235, R238), its operands resolved as R231 says: its code, its call's SEQ,
tile, first row, rows, next row, the engine cycle of its dispatch, the address of its first byte, the range that it may
touch, row stride, scale stride, scale address, index list, format or target, FZI or FZO, and GATH or TAG; the rows that a
gathered AST has read ahead (R238), and the 64-byte granules of index list and scale array that it has read, by their number
in SPM (R239). -/
structure Uop where
  kind : Nat
  seq : Nat
  tile : Nat
  row0 : Nat
  rows : Nat
  row : Nat
  at_ : Nat
  base : Nat
  lo : Nat
  hi : Nat
  str : Nat
  sstr : Nat
  scl : Nat
  idxo : Nat
  fm : Nat
  fz : Bool
  mark : Bool
  ahead : Nat
  grans : List (Nat × BitVec 512)
  deriving DecidableEq, Repr

/-- A row's contributions on their way through the array (R223, R238): its call's SEQ, the engine cycle in which they
are added, tile, row, and for each column the four contributions, `none` for an invalid block. -/
structure RowFlow where
  seq : Nat
  due : Nat
  tile : Nat
  row : Nat
  adds : List (List (Option Int))
  deriving DecidableEq, Repr

/-- The matrix engine (R223 to R247): its calls, oldest first, its latches, NEXT, FCODE and FSEQ, what is in progress,
the wait of its next micro-operation, the cycles it has run, the credit of its island (R2), the cycles of the network in
which its island was not halted (R410), and the cycle of the core's last M-slot access with the SPM words it touches, for
which the engine waits where they need one bank (R216, R238). -/
structure Matrix where
  calls : List Call
  active : Latch
  shadow : Latch
  next : Nat
  fcode : Nat
  fseq : Nat
  uops : List Uop
  flows : List RowFlow
  waits : List Wait
  clock : Nat
  credit : Nat
  live : Nat
  slotAt : Nat
  slotWords : List Nat
  deriving DecidableEq, Repr

/-- An accumulator element (R82). -/
structure AccEl where
  a : Int
  inv : Bool
  deriving DecidableEq, Repr

/-- The accumulator store (R195): the 128 elements of each tile row by 32 * tile + row, G and OVF by tile. -/
structure Acc where
  rows : Tab (List AccEl)
  g : Tab Int
  ovf : Tab Bool
  deriving DecidableEq, Repr

/-- The microprogram store and routine table (R192, R241); what is not listed holds the reset contents. -/
structure Prog where
  words : Tab Word
  table : Tab Word
  deriving DecidableEq, Repr

/-- Sync membership (R41, R42): member, pending SYNCJ, the TIME of the arrival, the TIME the SYNC bundle issues. -/
structure SyncState where
  member : Bool
  pendJ : Bool
  arrived : Option Nat
  go : Option Nat
  deriving DecidableEq, Repr

/-- An arrival of the core's own that is due (R95, R355, R356): from which cycle, barrier, increment, the operations it
follows, its operation number (0 for none), the slot it belongs to at its bundle boundary (8: an engine's), and for a suffix
arrival of an engine operation the context that issued it (R188). -/
structure PendArrive where
  due : Nat
  bar : Nat
  inc : Nat
  after : List Nat
  opId : Nat
  slot : Nat
  ctx : Option Nat
  deriving DecidableEq, Repr

/-- A BARINIT that was issued (R359): the cycle of its issue, its context, barrier, its object's address and word 0, whether it is made, and
what the object's 16 bytes held before: M-slot accesses that another context issues in the next cycle precede it. -/
structure BarInit where
  at_ : Nat
  ctx : Nat
  bar : Nat
  addr : Nat
  word : Word
  old : Option Nat
  deriving DecidableEq, Repr

/-- Running state of a core: frozen by a trap of its cluster (R377), a trap of its own being handled attached, stopped
for pre-emption (R381) or for good (R206), island cycles in which it is still to issue nothing (R213, R216, R242, R339),
cycles in which it was not frozen (R377), the issue credit of a slowed island (R2), and DETAIL of a host-started core's
double trap that is still to be recorded (R376). -/
structure CoreStat where
  frozen : Bool
  handler : Bool
  stopped : Bool
  dead : Bool
  stall : Nat
  live : Nat
  credit : Nat
  dtrap : Option Nat
  deriving DecidableEq, Repr

/-- What is left of a TAGE or TAGF that runs for several cycles (R213). -/
structure TagRun where
  full : Bool
  off : Nat
  words : Nat
  deriving DecidableEq, Repr

/-- A SLOTLD while its table is read and checked (R339): island cycles left, cluster, address of STATUS, what STATUS will be,
and the table. -/
structure SlotRun where
  left : Nat
  cluster : Nat
  at_ : Nat
  status : Nat
  table : List (BitVec 32)
  deriving DecidableEq, Repr

/-- A core (R14, R126). `snap` is a monitor snapshot due in the next cycle: monitor, SPM offset, then clear (R367). An
arrival in `overflow` keeps the number of its RGET, whose reply is held until a record is free (R48). -/
structure Core where
  ctxs : Tab Ctx
  v : Tab VecWord
  m : Tab Word
  ident : CoreIdent
  csr : CoreCsr
  fetch : CoreFetch
  trig : Tab Trigger
  arrq : List Arrival
  streams : Tab Stream
  mx : Matrix
  acc : Acc
  prog : Prog
  fab : List Nat
  overflow : List (Arrival × Nat)
  sync : SyncState
  arrives : List PendArrive
  inits : List BarInit
  tagRun : Option TagRun
  slotRun : Option SlotRun
  snap : Option (Nat × Nat × Bool)
  stat : CoreStat
  deriving DecidableEq, Repr

/-- Why a Chord does not multicast: nothing, a LOOP the leader has not issued (R34), a hold at JOIN.W k since a count
of live cycles of the leader (R40). -/
inductive ChordWait where
  | none
  | loop
  | joinW (k : Nat) (leader : Nat) (start : Nat) (limit : Nat)
  deriving DecidableEq, Repr

/-- A Chord (R32 to R40): running or idle, its next address, whether that is decided, the number and address of the
last bundle multicast, the leader that decided the next address (R33), its loop copies, the transfers whose boundary it has yet to reach (TRANS bundle's number and due
number), its wait, its copy of fetched lines, whether it is frozen or stopped, whether it was restarted and has yet to
multicast (R39), its node with the die whose scheduler placed it, and the JOIN it multicast last with the cycle (R38). -/
structure Chord where
  on : Bool
  pc : Nat
  decided : Bool
  num : Nat
  last : Nat
  lead : Option Nat
  l0 : LoopReg
  l1 : LoopReg
  trans : List (Nat × Nat)
  wait : ChordWait
  lines : List (Nat × BitVec 512)
  frozen : Bool
  stopped : Bool
  restarted : Bool
  node : Nat
  home : Nat
  joined : Option (Nat × Nat)
  deriving DecidableEq, Repr

/-- How a copy-class command walks its bytes (R219, R278, R283): rows of a length, with a stride on each side. -/
structure Shape where
  rows : Nat
  rowb : Nat
  dstr : Int
  sstr : Int
  deriving DecidableEq, Repr

/-- Who issued an engine operation (R204, R250): the core (none for a node's list), the context, the cluster and die
it runs from, partition and node; and the bytes of the core's SPM that a store of the same bundle writes, which the
operation does not see (R218). `dies` holds the dies that the logical
dies of its addresses named when it began: a later write of the die table does not change it (R322). -/
structure Issuer where
  core : Option Nat
  ctx : Nat
  cluster : Nat
  die : Nat
  part : Nat
  node : Nat
  hide : List Hidden
  dies : List (Nat × Nat)
  deriving DecidableEq, Repr

/-- A copy-class command (R274 to R283, R395): kind 0 COPY, 1 COPY2D, 2 TMOV, 3 COPY.UNSEAL; phase 0 in the buffer,
1 waiting for its handle (R276), 2 moving pieces, 3 with a packet dropped (R398); `chunk` is the key slot and nonce of a chunk that verified (R395),
`waited` the cycles of its wait in which its island was not halted (R410), and `sentAt` the cycle in which the packet of its
next piece came to the Apex port without going on (R319; 0: none did). -/
structure Cmd where
  opId : Nat
  by_ : Issuer
  kind : Nat
  dst : Nat
  src : Nat
  shape : Shape
  time : Nat
  bar : Option Nat
  inc : Nat
  tag : Bool
  ckpt : Bool
  handle : Option Nat
  after : List Nat
  enterAt : Nat
  phase : Nat
  row : Nat
  off : Nat
  relAt : Nat
  limit : Nat
  chunk : Option (Nat × List Nat)
  waited : Nat
  sentAt : Nat
  deriving DecidableEq, Repr

/-- A BTE (R274 to R276): commands on their way in, the time-sorted buffer in entry order, and the eight slots. -/
structure Bte where
  coming : List Cmd
  buffer : List Cmd
  slots : Tab Cmd
  deriving DecidableEq, Repr

/-- A wait entry of a combining buffer (R306): the requester of X, the requester of Y, X's operand, the combined request
that carries the entry, and the buffer that holds it. -/
structure CombEntry where
  x : Nat
  y : Nat
  a : Nat
  carrier : Nat
  buf : Nat
  deriving DecidableEq, Repr

/-- A cluster (R10, R32, R274, R304, R337). `slotsNext` is a loaded slot table with the cycle its load completes. -/
structure Cluster where
  coreMap : Word
  chord : Chord
  bte : Bte
  slots : Tab (BitVec 32)
  slotsNext : Option (Nat × List (BitVec 32))
  comb : List CombEntry
  deriving DecidableEq, Repr

/-- A continuation record (R45). -/
structure Record where
  pri : Nat
  group : Nat
  node : Nat
  pc : Nat
  s1 : Word
  s2 : Word
  s3 : Word
  s4 : Word
  s5 : Word
  s6 : Word
  s7 : Word
  deriving DecidableEq, Repr

/-- A pool record with its push number, the core that may not take it before a cycle (R46), and the core that pushed it
with the cycle. -/
structure PoolRec where
  r : Record
  order : Nat
  notCore : Nat
  until_ : Nat
  by_ : Option (Nat × Nat)
  deriving DecidableEq, Repr

/-- A task-dependency-table entry (R342), with the SEQ of its launch (R401) and its partition. -/
structure NodeEnt where
  state : Nat
  count : Nat
  err : Bool
  epri : Nat
  rtime : Nat
  disc : Nat
  rej : Nat
  engerr : Nat
  seq : Nat
  part : Nat
  deriving DecidableEq, Repr

/-- A dispatched node: its cores in order of q (R380), the clusters it holds, when it was dispatched, whether its code is being copied,
the records of its batch with the number pushed, its operations and the entries of its list started, whether it fails, the sync line, whether its ring entry is sent, its descriptor as dispatched, the places of the cores that have left, the commands of its list that a pre-emption held back, and the cycle in which it was stopped for good (R206). -/
structure Placed where
  cores : List Nat
  clusters : List Nat
  at_ : Nat
  copying : Bool
  batch : List Nat
  batchPos : Nat
  ops : List Nat
  listPos : Nat
  bad : Bool
  line : Option Nat
  ring : Bool
  words : List Word
  gone : List Nat
  held : List Cmd
  stopAt : Nat
  deriving DecidableEq, Repr

/-- A decrement or failure notice on its way (R343). -/
structure Notice where
  fromDie : Nat
  fromNode : Nat
  part : Nat
  idx : Nat
  fail : Bool
  deriving DecidableEq, Repr

/-- CORESTART and PREEMPT of a die scheduler (R131, R379, R381): phase 0 none, 1 stopping, 2 draining; `runOp`, `runBase`
and `runNode` are what the operation in progress was started with. -/
structure SchedRegs where
  csRefused : Bool
  csRun : Option Nat
  csCore : Nat
  csPc : Nat
  go : Bool
  done : Bool
  fail : Bool
  refused : Bool
  op : Nat
  ctxbase : Nat
  node : Nat
  t0 : Nat
  phase : Nat
  drainlimit : Nat
  runOp : Nat
  runBase : Nat
  runNode : Nat
  deriving DecidableEq, Repr

/-- A saved context image (R383 to R385): its header and tag, by which the bytes in memory name it, and what a restore
of it puts back. `spm` holds the saved bytes by offset and `tags` the EMPTY words. -/
structure Image where
  header : List Nat
  tag : List Nat
  core : Core
  spm : List Host.Cell
  tags : List Nat
  cmds : List Cmd
  chord : Chord
  deriving DecidableEq, Repr

/-- A die scheduler (R52 to R59, R340 to R343, R348, R349, R379). `skipped` is the cycle since which a ready node is
skipped (0: over its limit, R55), `saved` the first context-table entry and the placement of a node that was pre-empted,
`ctxown` the partition a context-table entry was written for (R400). -/
structure Sched where
  store : Tab Word
  graphs : Tab Word
  tdt : Tab NodeEnt
  skipped : Tab Nat
  placed : Tab Placed
  pool : List PoolRec
  poolNext : Nat
  notices : Tab Notice
  regs : SchedRegs
  ctxtab : Tab Word
  images : List Image
  saved : Tab (Nat × Placed)
  partner : Tab Word
  ctxown : Tab Nat
  deriving DecidableEq, Repr

/-- An engine fault record (R386). -/
structure EfRec where
  w0 : Word
  w1 : Word
  w2 : Word
  w3 : Word
  deriving DecidableEq, Repr

/-- A monitor (R366, R367): the configuration word in force (0 when stopped) and its record. -/
structure Mon where
  cfg : Word
  samples : Nat
  sum : Nat
  min_ : Nat
  max_ : Nat
  bins : Tab Nat
  deriving DecidableEq, Repr

/-- A stack-engine command (R284 to R287): whether it has started, and how many rows, outputs or elements each of the die's
two stack engines has done its part of. -/
structure SeCmd where
  opId : Nat
  by_ : Issuer
  op : Nat
  table : Nat
  other : Nat
  idx : Nat
  rowb : Nat
  count : Nat
  group : Nat
  iw : Nat
  fm : Nat
  fm2 : Nat
  status : Nat
  bar : Option Nat
  inc : Nat
  after : List Nat
  running : Bool
  done0 : Nat
  done1 : Nat
  flags : BitVec 5
  deriving DecidableEq, Repr

/-- A key-table entry (R346) of a die. -/
structure KeyEnt where
  sweep : Bool
  cur : Nat
  nxt : Nat
  ptr : Nat
  deriving DecidableEq, Repr

/-- A translation the TLB holds (R335): partition, page base, size in bits, page address, permissions. -/
structure TlbEnt where
  part : Nat
  va : Nat
  size : Nat
  pa : Nat
  r : Bool
  w : Bool
  deriving DecidableEq, Repr

/-- A compute die. -/
structure Die where
  sched : Sched
  efq : List EfRec
  efOver : Nat
  mons : Tab Mon
  monown : Word
  se : List SeCmd
  keytab : Tab KeyEnt
  ptroot : Tab Word
  tlb : List TlbEnt
  keyslots : Tab (BitVec 512)
  deriving DecidableEq, Repr

/-- TBLSTAT (R323). -/
structure TblStat where
  refused : Bool
  count : Nat
  index : Nat
  code : Nat
  deriving DecidableEq, Repr

/-- Partition control and heartbeat (R388, R396, R397): `rst` is RST, `beatAt` the cycle from which PERIOD counts. -/
structure PartCtl where
  v : Bool
  prot : Bool
  state : Nat
  period : Nat
  grace : Nat
  lastCtr : Nat
  beatAt : Nat
  quietAt : Nat
  rst : Bool
  deriving DecidableEq, Repr

/-- Measurement, report and key state of a partition (R393, R394). -/
structure PartSec where
  mr : Tab (BitVec 256)
  qaddr : Word
  nonce : BitVec 256
  report : Bool
  heldExtends : List (Nat × List Nat)
  digest : BitVec 256
  ecdh : Nat
  keystat : Nat
  model : Tab (BitVec 256)
  fabric : Option (BitVec 256)
  ks : Option (BitVec 256)
  hbkey : Option (BitVec 256)
  deriving DecidableEq, Repr

/-- Counters and the notification ring of a partition (R368, R369, R401, R402). -/
structure PartCnt where
  rdig : Nat
  rdcnt : Nat
  fim : Nat
  lastfail : Nat
  fevents : Nat
  nrbase : Word
  tail : Nat
  head : Nat
  nrvec : Word
  launchSeq : Nat
  launchCode : Nat
  deriving DecidableEq, Repr

/-- A partition of a package. -/
structure Part where
  ctl : PartCtl
  sec : PartSec
  cnt : PartCnt
  tbl : TblStat
  deriving DecidableEq, Repr

/-- A reduction-window entry (R328): words 0 to 3, LATE, ROUND, and writes of them held while a round is open (R329). -/
structure RedWin where
  w0 : Word
  w1 : Word
  w2 : Word
  w3 : Word
  late : Nat
  round : Nat
  heldLate : Option Nat
  heldRound : Option Nat
  deriving DecidableEq, Repr

/-- A contribution (R311): rank, round stamp, its raw elements, and the operation that made it. -/
structure Contrib where
  rank : Nat
  round : Nat
  elems : List Nat
  opId : Nat
  deriving DecidableEq, Repr

/-- A round at its root (R312): its number, when it opened, what it accepted, what waits for the next one, and the last
round finalised whose status record has not yet taken effect (R316). -/
structure Round where
  isOpen : Bool
  num : Nat
  closing : Option Nat
  openedAt : Nat
  present : List Contrib
  waiting : List Contrib
  deriving DecidableEq, Repr

/-- A port group (R411): the bits of PGCTL, and the address of the image that the load in progress reads. -/
structure PortGroup where
  drain : Bool
  load : Bool
  busy : Bool
  fail : Bool
  fwaddr : Nat
  image : Nat
  deriving DecidableEq, Repr

/-- An island (R409), with the cycle at which its last change began. -/
structure Island where
  busy : Bool
  refused : Bool
  vcode : Nat
  frac : Nat
  nextV : Nat
  nextF : Nat
  since : Nat
  deriving DecidableEq, Repr

/-- A sync domain of a placed node (R41, R42): its line, node, whether a generation is open, and the latest removal. -/
structure Domain where
  node : Nat
  isOpen : Bool
  removed : Nat
  deriving DecidableEq, Repr

/-- The tables of the Apex die (R321). -/
structure Apex where
  dies : Tab Word
  windows : Tab (BitVec 256)
  redwins : Tab RedWin
  rankmap : Tab Nat
  groups : Tab Word
  members : Tab Nat
  dead : Tab Word
  peerLimit : Nat
  rounds : Tab Round
  roundEnds : Tab Nat
  cru : List CombEntry
  deriving DecidableEq, Repr

/-- Ownership of a package's resources (R387). -/
structure Owners where
  qown : Word
  qvalid : Nat
  channels : Tab (BitVec 8)
  ports : Tab (BitVec 8)
  deriving DecidableEq, Repr

/-- A package (R7): the cycle at which its TIME was 0, its tables, and how many firmware images it has accepted (R411). -/
structure Pkg where
  resetAt : Nat
  firmware : Nat
  apex : Apex
  own : Owners
  parts : Tab Part
  islands : Tab Island
  groups : Tab PortGroup
  domains : Tab Domain
  packets : Tab Nat
  deriving DecidableEq, Repr

/-- One home that receives the data of an RPUT, of a member of an RMCAST or of a round's multicast (R297, R299, R316):
target memory (space + 8 * unit), offset there, package, the barrier incremented on delivery (core and index), the pieces
not yet written, whether the increment is made, and whether its packets were dropped (R398). -/
structure Deliver where
  mem : Nat
  off : Nat
  pkg : Nat
  bar : Option (Nat × Nat)
  left : List (Nat × Nat)
  counted : Bool
  lost : Bool
  deriving DecidableEq, Repr

/-- A fabric operation from issue to completion (R293 to R311). Kind 0 RPUT, 1 RGET, 2 RGETV, 3 RFOP, 4 RVATOM,
5 RRED, 6 RMCAST, 7 a combined request, 8 a round's result (R315, R316). `stage`: 0 waiting for its fence, 1 on its
way, 2 its effect at the home made, 3 merged into a combined request, 4 dropped (R398), 5 in a partial or, of a round, its
status record on its way, 6 past its partial or, of a round, its multicast on its way, 7 held: a contribution in its
root's wait buffer (R312), or a reply whose arrival finds no room (R48). Of a request that may combine, `hop` counts the
buffers of its path (R304) that it has passed, `inBuf` is 0 between buffers, 1 in one it has just entered, 2 waiting in
it, `entered` and `port` are the cycle and input port of the entry (R308). `src` and `dst` are SPM offsets of the issuing core, `mem` and `off` the home, `pkg` its package,
`win`, `rank` and `round` those of a contribution, `at_` the cycle it left and `born` that of its issue. -/
structure Fop where
  kind : Nat
  by_ : Issuer
  src : Nat
  dst : Nat
  len : Nat
  bar : Option Nat
  inc : Nat
  tag : Bool
  rel : Bool
  acq : Bool
  scope : Nat
  fop : Nat
  wide : Bool
  x : Nat
  b : Nat
  hpc : Option Nat
  cookie : Word
  after : List Nat
  stage : Nat
  mem : Nat
  off : Nat
  pkg : Nat
  dlv : List Deliver
  left : List (Nat × Nat)
  data : List Nat
  val : Nat
  win : Nat
  rank : Nat
  round : Nat
  at_ : Nat
  born : Nat
  hop : Nat
  inBuf : Nat
  entered : Nat
  port : Nat
  deriving DecidableEq, Repr

/-- What the engines share: the next operation number, the operations not complete, the fabric operations, and the
pushes and arrivals in flight. -/
structure Net where
  nextOp : Nat
  live : List Nat
  fops : Tab Fop
  deriving DecidableEq, Repr

/-- An effect that takes place at the bundle boundary (R100): bytes into memory, a CSR write (slot, number, value), a
handle's state (R281) with the barrier it frees. -/
inductive Eff where
  | bytes (addr : Nat) (n : Nat) (val : Nat)
  | csr (slot : Nat) (num : Nat) (val : Word)
  | handleFull (h : Nat)
  | handleFree (h : Nat)
  deriving DecidableEq, Repr

/-- A fault a slot found (R100, R371): slot (8 header, 9 suffix), cause code, TVAL. -/
structure SlotFault where
  loc : Nat
  code : Nat
  tval : Word
  deriving DecidableEq, Repr

/-- What a slot waits for (R373): key, timeout code, TVAL, slot, and the limit that bounds it (none for a hold). -/
structure SlotWait where
  key : Nat
  code : Nat
  tval : Word
  loc : Nat
  limit : Option Nat
  deriving DecidableEq, Repr

/-- What the control slot asks of the boundary. -/
inductive Ctl where
  | none
  | skip (target : Nat)
  | detach
  | mode (m : Nat)
  | halt
  | suspend (yields : Bool)
  | trap (code : Nat)
  | tret
  | join (k : Nat)
  deriving DecidableEq, Repr

/-- The bundle being issued: core, context, slot being executed, its address, the address in sequence after it, the
memory as visible at issue (R100), faults and waits found, effects due at the boundary, streams popped, what the control
slot asks, extra stall cycles, whether the bundle arrived at SYNC only, its suffix, the engine operation of slot 7, the
loop a LOOP executed on, whether its boundary is still to be completed, the ranges its stores wrote, and the number of the
first operation that it may issue. -/
structure Issue where
  core : Nat
  ctx : Nat
  slot : Nat
  addr : Nat
  next : Nat
  mem : Memory
  faults : List SlotFault
  waits : List SlotWait
  defer : List Eff
  ctl : Ctl
  stall : Nat
  syncs : Bool
  suffix : List (Nat × Nat)
  engine : Option Nat
  loop : Option Nat
  open_ : Bool
  stored : List (Nat × Nat)
  ops : Nat
  deriving DecidableEq, Repr

/-- One turn of the cycle: a core's attempt to issue; what its results of the boundary do beside their registers, which is a
push or an arrival (R95, R217); or a device event with its operands. -/
inductive Turn where
  | core (c : Nat)
  | land (c : Nat)
  | event (i : Instr) (args : List Nat)
  deriving DecidableEq, Repr

/-- The model's own clock: cycles since the network's reset, the counter of free values, the turns left in this cycle,
the host's actions, one entry a cycle, the operands of the event now taking place (the opcode table gives an event
no fields), and whether an access of it has met a line or a unit that makes it wait (R392, R410). -/
structure Clock where
  cycle : Nat
  ctr : Nat
  agenda : List Turn
  hostIn : List (Option (Instr × List Nat))
  args : List Nat
  met : Bool
  deriving DecidableEq, Repr

/-- The state of the network. `watch` counts the writes of the bytes that a bundle stored to while it issued an operation
(R218, R256): a write that came after that store is seen. -/
structure State where
  clk : Clock
  mem : Memory
  tags : List Nat
  cores : Tab Core
  clusters : Tab Cluster
  dies : Tab Die
  pkgs : Tab Pkg
  net : Net
  iss : Issue
  watch : Tab Nat
  deriving DecidableEq, Repr

/-- Why the machine stops with a fault. -/
inductive Fault where
  /-- A turn names a core, cluster, die or package the network does not have. Raised by `step` only; no step makes such
  a turn, so it is safe. -/
  | noSuchUnit
  deriving DecidableEq, Repr

/-- Why the machine has no meaning for an instruction. -/
inductive Refusal where
  /-- An instruction whose meaning is not written yet, by its mnemonic. Raised by `exec`; safe. -/
  | notModelled (mnemonic : String)
  deriving DecidableEq, Repr

/-- p registers at reset: 0 with U = 1 (R126). -/
def PVal.reset : PVal := ⟨0, true⟩
/-- An inactive loop with all fields 0 (R126). -/
def LoopReg.reset : LoopReg := ⟨0, 0, 0, false⟩
/-- An empty target register (R126). -/
def TReg.reset : TReg := ⟨0, 0, 0, []⟩
/-- The control registers of a context at reset (R129). -/
def CtxCsr.reset : CtxCsr := ⟨0, 0, false, false, false, 0, 0, 0, 0, 0⟩
/-- A dormant context. -/
def CtxRun.reset : CtxRun := ⟨false, false, false, 0, 0, 0, [], none, 0⟩
/-- A context at reset (R126, R129). -/
def Ctx.reset : Ctx :=
  ⟨[], [], LoopReg.reset, LoopReg.reset, [], [], 0, CtxCsr.reset, CtxRun.reset, [], none, none, ⟨[], []⟩⟩
/-- A core leaves reset DETACHED at level P, in no node (R129, R130). -/
def CoreIdent.reset : CoreIdent := ⟨1, true, 0, 0, 0, 0, false, false, 0⟩
/-- The per-core registers at reset (R129, R134). -/
def CoreCsr.reset : CoreCsr := ⟨0x7FE, 0, 0x100000, 0x10000, 0x1000000⟩
/-- An invalid latch (R224). -/
def Latch.reset : Latch := ⟨false, 0, [], []⟩
/-- The matrix engine at reset (R224, R246). -/
def Matrix.reset : Matrix := ⟨[], Latch.reset, Latch.reset, 0, 0, 0, [], [], [], 0, 0, 0, 0, []⟩
/-- A core at reset (R126, R129, R192). -/
def Core.reset : Core :=
  ⟨[], [], [], CoreIdent.reset, CoreCsr.reset, ⟨[], [], 0, false, []⟩, [], [], [], Matrix.reset, ⟨[], [], []⟩, ⟨[], []⟩, [], [],
   ⟨false, false, none, none⟩, [], [], none, none, none, ⟨false, false, false, false, 0, 0, 0, none⟩⟩
/-- An idle Chord (R33). -/
def Chord.reset : Chord := ⟨false, 0, false, 0, 0, none, LoopReg.reset, LoopReg.reset, [], .none, [], false, false, false, 0, 0, none⟩
/-- A cluster at reset; the fused core map is that of a cluster with no failed core (R10; log entry 5). -/
def Cluster.reset : Cluster := ⟨0x76543210, Chord.reset, ⟨[], [], []⟩, [], none, []⟩
/-- The scheduler's registers at reset (R131, R379). -/
def SchedRegs.reset : SchedRegs :=
  ⟨false, none, 0, 0, false, false, false, false, 0, 0, 0, 0, 0, 0x100000, 0, 0, 0⟩
/-- An idle node (R342). -/
def NodeEnt.reset : NodeEnt := ⟨0, 0, false, 0, 0, 0, 0, 0, 0, 0⟩
/-- A die at reset (R321, R365). -/
def Die.reset : Die :=
  ⟨⟨[], [], [], [], [], [], 0, [], SchedRegs.reset, [], [], [], [], []⟩, [], 0, [], 0, [], [], [], [], []⟩
/-- A cleared monitor record (R367), which a stopped monitor holds at reset (log entry 6). -/
def Mon.reset : Mon := ⟨0, 0, 0, 2 ^ 64 - 1, 0, []⟩
/-- A partition that is not defined (R388). -/
def Part.reset : Part :=
  ⟨⟨false, false, 0, 0, 0, 0, 0, 0, false⟩, ⟨[], 0, 0, false, [], 0, 0, 0, [], none, none, none⟩,
   ⟨0, 0, 0, 0, 0, 0, 0, 0, 0, 0, 0⟩, ⟨false, 0, 0, 0⟩⟩
/-- A reduction window at reset (R321). -/
def RedWin.reset : RedWin := ⟨0, 0, 0, 0, 0, 0, none, none⟩
/-- No round (R312). -/
def Round.reset : Round := ⟨false, 0, none, 0, [], []⟩
/-- An island at reset (R409): FRAC 64; VCODE is fused (log entry 5). -/
def Island.reset : Island := ⟨false, false, 0, 64, 0, 64, 0⟩
/-- A port group at reset (R411). -/
def PortGroup.reset : PortGroup := ⟨false, false, false, false, 0, 0⟩
/-- A package at reset, with TIME 0 at cycle `c` (R318, R321, R352). -/
def Pkg.reset (c : Nat) : Pkg :=
  ⟨c, 0, ⟨[], [], [], [], [], [], [], 0x400000, [], [], []⟩, ⟨0, 0, [], []⟩, [], [], [], [], []⟩
/-- A stream engine that is unconfigured and unbound (R58). -/
def Stream.reset : Stream := ⟨false, 0, none, 0, [], [], false, false, false, 0, [], 0, []⟩
/-- No bundle is being issued. -/
def Issue.reset : Issue := ⟨0, 0, 0, 0, 0, ⟨[]⟩, [], [], [], .none, 0, false, [], none, none, false, [], 0⟩

/-- The network right after reset (R130, R192, R193, R270, R321, R351): every core idle, every table empty, every
memory byte 0, every tag FULL. -/
def State.reset : State :=
  ⟨⟨0, 0, [], [], [], false⟩, ⟨[]⟩, [], [], [], [], [], ⟨1, [], []⟩, Issue.reset, []⟩

end Sys2Proof.Machine
end

