-- ==== Sys2Proof/Machine/Ops.lean ====
section
/-! DEFINITION. The named operations over tables, memory, tags and registers; faults and waits of a slot; results in
flight (R25, R139); taking a trap and returning from one (R374 to R378). -/

namespace Sys2Proof.Machine

/-! ### Tables -/

/-- The entry at index k, or d where none is listed. -/
def Tab.get {α : Type} (d : α) : Tab α → Nat → α
  | [], _ => d
  | (i, v) :: l, k => if i = k then v else Tab.get d l k
/-- The entry at index k, if one is listed. -/
def Tab.find {α : Type} : Tab α → Nat → Option α
  | [], _ => none
  | (i, v) :: l, k => if i = k then some v else Tab.find l k
/-- List v at index k. -/
def Tab.set {α : Type} : Tab α → Nat → α → Tab α
  | [], k, v => [(k, v)]
  | (i, w) :: l, k, v => if i = k then (k, v) :: l else if k < i then (k, v) :: (i, w) :: l else (i, w) :: Tab.set l k v
/-- List nothing at index k. -/
def Tab.del {α : Type} : Tab α → Nat → Tab α
  | [], _ => []
  | (i, w) :: l, k => if i = k then Tab.del l k else (i, w) :: Tab.del l k
/-- Replace the entry at index k by f of it. -/
def Tab.upd {α : Type} (d : α) (t : Tab α) (k : Nat) (f : α → α) : Tab α := Tab.set t k (f (Tab.get d t k))

/-! ### Memory -/

/-- The counts of watched bytes after a write of n bytes at a place (R256). -/
def rewrote (w : Tab Nat) (a n : Nat) : Tab Nat := w.map fun e => if a ≤ e.1 ∧ e.1 < a + n then (e.1, e.2 + 1) else e
/-- The reset contents of a byte nothing has written: 0 (R193; HBM and host memory, log entry 1). -/
def unlisted : Byte := 0
/-- The byte at an address. -/
def cellsRead : List Host.Cell → Nat → Byte
  | [], _ => unlisted
  | (i, b) :: l, a => if i = a then b else if a < i then unlisted else cellsRead l a
/-- The cells after one byte is written: in rising order of address, no entry equal to what an unlisted address reads as. -/
def cellsWrite : List Host.Cell → Nat → Byte → List Host.Cell
  | [], a, b => if b = unlisted then [] else [(a, b)]
  | (i, c) :: l, a, b =>
    if i = a then (if b = unlisted then l else (a, b) :: l)
    else if a < i then (if b = unlisted then (i, c) :: l else (a, b) :: (i, c) :: l)
    else (i, c) :: cellsWrite l a b
/-- The cells rise from an address on, and none holds the unlisted value. -/
def cellsWf : Nat → List Host.Cell → Bool
  | _, [] => true
  | n, (i, b) :: l => decide (n ≤ i) && b != unlisted && cellsWf (i + 1) l
/-- The memory is in its canonical form. -/
def Memory.wf (m : Memory) : Bool := cellsWf 0 m.cells
/-- Read one byte. -/
def Memory.read (m : Memory) (a : Nat) : Byte := cellsRead m.cells a
/-- Write one byte. -/
def Memory.write (m : Memory) (a : Nat) (b : Byte) : Memory := ⟨cellsWrite m.cells a b⟩
/-- The little-endian number in n bytes at a (R1). -/
def Memory.readN (m : Memory) (a : Nat) : Nat → Nat
  | 0 => 0
  | n + 1 => (m.read a).toNat + 256 * Memory.readN m (a + 1) n
/-- Write the n low bytes of v at a, little-endian (R1). -/
def Memory.writeN (m : Memory) (a : Nat) : Nat → Nat → Memory
  | 0, _ => m
  | n + 1, v => Memory.writeN (m.write a (BitVec.ofNat 8 v)) (a + 1) n (v / 256)
/-- The bytes at a, lowest address first. -/
def Memory.bytes (m : Memory) (a : Nat) : Nat → List Nat
  | 0 => []
  | n + 1 => (m.read a).toNat :: Memory.bytes m (a + 1) n
/-- Write a list of bytes at a. -/
def Memory.writeBytes (m : Memory) (a : Nat) : List Nat → Memory
  | [] => m
  | b :: l => Memory.writeBytes (m.write a (BitVec.ofNat 8 b)) (a + 1) l
/-- Write the lanes of a 2,048-bit value whose mask bits are set, 4 bytes each, from lane i on. -/
def Memory.writeLanes (m : Memory) (a : Nat) (v : VecWord) (mask : BitVec 64) : Nat → Memory
  | 0 => m
  | n + 1 =>
    let m' := Memory.writeLanes m a v mask n
    if mask.getLsbD n then m'.writeN (a + 4 * n) 4 (v.toNat / 2 ^ (32 * n) % 2 ^ 32) else m'
/-- Forget every byte of a range: it reads as at reset (R193, R334). -/
def Memory.zero (m : Memory) (a n : Nat) : Memory := ⟨m.cells.filter (fun c => decide (c.1 < a) || decide (a + n ≤ c.1))⟩

/-- The address of an offset in a unit's memory of a kind. -/
def unitAddr (kind unit off : Nat) : Nat := 2 ^ 56 * (kind + 8 * unit) + off
/-- The address of an offset in a core's SPM. -/
def spmAddr (core off : Nat) : Nat := unitAddr 1 core off
/-- The address of an offset in a cluster's CMEM. -/
def cmemAddr (cl off : Nat) : Nat := unitAddr 2 cl off

/-! ### Units -/

/-- Packages that a supported network can have (R17). -/
def packages : Nat := 1089
/-- A core's cluster. -/
def clusterOf (core : Nat) : Nat := core / 8
/-- A core's die. -/
def dieOf (core : Nat) : Nat := core / 128
/-- A core's package. -/
def pkgOf (core : Nat) : Nat := core / 512

/-- The core. -/
def State.core (s : State) (c : Nat) : Core := Tab.get Core.reset s.cores c
/-- Change a core. -/
def State.modCore (s : State) (c : Nat) (f : Core → Core) : State := { s with cores := Tab.upd Core.reset s.cores c f }
/-- A context of a core. -/
def Core.ctx (k : Core) (x : Nat) : Ctx := Tab.get Ctx.reset k.ctxs x
/-- The context. -/
def State.ctx (s : State) (c x : Nat) : Ctx := (s.core c).ctx x
/-- Change a context. -/
def State.modCtx (s : State) (c x : Nat) (f : Ctx → Ctx) : State :=
  s.modCore c fun k => { k with ctxs := Tab.upd Ctx.reset k.ctxs x f }
/-- The cluster. -/
def State.cluster (s : State) (c : Nat) : Cluster := Tab.get Cluster.reset s.clusters c
/-- Change a cluster. -/
def State.modCluster (s : State) (c : Nat) (f : Cluster → Cluster) : State :=
  { s with clusters := Tab.upd Cluster.reset s.clusters c f }
/-- The die. -/
def State.die (s : State) (d : Nat) : Die := Tab.get Die.reset s.dies d
/-- Change a die. -/
def State.modDie (s : State) (d : Nat) (f : Die → Die) : State := { s with dies := Tab.upd Die.reset s.dies d f }
/-- Change a die's scheduler. -/
def State.modSched (s : State) (d : Nat) (f : Sched → Sched) : State := s.modDie d fun k => { k with sched := f k.sched }
/-- The package. -/
def State.pkg (s : State) (p : Nat) : Pkg := Tab.get (Pkg.reset 0) s.pkgs p
/-- Change a package. -/
def State.modPkg (s : State) (p : Nat) (f : Pkg → Pkg) : State := { s with pkgs := Tab.upd (Pkg.reset 0) s.pkgs p f }
/-- A package's partition. -/
def State.part (s : State) (p n : Nat) : Part := Tab.get Part.reset (s.pkg p).parts n
/-- Change a partition. -/
def State.modPart (s : State) (p n : Nat) (f : Part → Part) : State :=
  s.modPkg p fun k => { k with parts := Tab.upd Part.reset k.parts n f }
/-- A package's Apex tables. -/
def State.modApex (s : State) (p : Nat) (f : Apex → Apex) : State := s.modPkg p fun k => { k with apex := f k.apex }
/-- TIME of a package (R352). -/
def State.time (s : State) (p : Nat) : Nat := (s.clk.cycle - (s.pkg p).resetAt) % 2 ^ 64
/-- The next free value's argument, and the state after it is drawn. -/
def State.draw (s : State) : Nat × State := (s.clk.ctr, { s with clk := { s.clk with ctr := s.clk.ctr + 1 } })
/-- The core is in a protected partition (R388). -/
def State.protectedPart (s : State) (p n : Nat) : Bool := (s.part p n).ctl.prot && (s.part p n).ctl.v
/-- The physical number of a logical core (R8, R10). -/
def State.physCore (s : State) (c : Nat) : Nat :=
  c / 128 % 4 * 1024 + c / 8 % 16 * 64 + bits (s.cluster (clusterOf c)).coreMap.toNat (c % 8 * 4) 4
/-- Operand n of the event taking place. -/
def State.arg (s : State) (n : Nat) : Nat := s.clk.args.getD n 0
/-- A new operation number. -/
def State.newOp (s : State) : Nat × State :=
  (s.net.nextOp, { s with net := { s.net with nextOp := s.net.nextOp + 1, live := s.net.nextOp :: s.net.live } })
/-- An operation is complete. -/
def State.endOp (s : State) (i : Nat) : State := { s with net := { s.net with live := s.net.live.filter (· != i) } }
/-- The operations of a list are complete. -/
def State.done (s : State) (l : List Nat) : Bool := l.all fun i => !s.net.live.contains i
/-- Change the bundle being issued. -/
def State.modIss (s : State) (f : Issue → Issue) : State := { s with iss := f s.iss }

/-! ### Tags (R194) -/

/-- The number of the 8-byte word that holds an SPM offset. -/
def tagKey (core off : Nat) : Nat := core * 131072 + off / 8
/-- The tag of the word is FULL. -/
def State.tagFull (s : State) (core off : Nat) : Bool := !s.tags.contains (tagKey core off)
/-- A rising list with k added. -/
def insertKey : List Nat → Nat → List Nat
  | [], k => [k]
  | a :: l, k => if a = k then a :: l else if k < a then k :: a :: l else a :: insertKey l k
/-- Set the tag of the word FULL or EMPTY. -/
def State.setTag (s : State) (core off : Nat) (full : Bool) : State :=
  { s with tags := if full then s.tags.filter (· != tagKey core off) else insertKey s.tags (tagKey core off) }
/-- Set the tags of n words from an offset on. -/
def State.setTags (s : State) (core off : Nat) (full : Bool) : Nat → State
  | 0 => s
  | n + 1 => (s.setTags core off full n).setTag core (off + 8 * n) full
/-- Set FULL the tag of every word that holds one of n bytes. -/
def State.fillTags (s : State) (core off n : Nat) : State :=
  if n = 0 then s else s.setTags core (off / 8 * 8) true ((off + n - 1) / 8 - off / 8 + 1)

/-! ### Registers (R126, R127) -/

/-- A scalar register as visible now; s0 reads 0. -/
def Ctx.readS (k : Ctx) (n : Nat) : Word := if n = 0 then 0 else Tab.get 0 k.s n
/-- A predicate register as visible now; p0 is all ones with U = 1. -/
def Ctx.readP (k : Ctx) (n : Nat) : PVal := if n = 0 then ⟨BitVec.allOnes 64, true⟩ else Tab.get PVal.reset k.p n
/-- U of the 64 bits written (R127). -/
def uniform (b : BitVec 64) : Bool := b == 0 || b == BitVec.allOnes 64
/-- Write a scalar register; a write to s0 is discarded. -/
def Ctx.writeS (k : Ctx) (n : Nat) (v : Word) : Ctx := if n = 0 then k else { k with s := Tab.set k.s n v }
/-- Write a predicate register; a write to p0 is discarded. -/
def Ctx.writeP (k : Ctx) (n : Nat) (b : BitVec 64) : Ctx :=
  if n = 0 then k else { k with p := Tab.set k.p n ⟨b, uniform b⟩ }
/-- A scalar register of the issuing context. -/
def State.readS (s : State) (n : Nat) : Word := (s.ctx s.iss.core s.iss.ctx).readS n
/-- A predicate register of the issuing context. -/
def State.readP (s : State) (n : Nat) : PVal := (s.ctx s.iss.core s.iss.ctx).readP n
/-- A matrix parameter register of the issuing core. -/
def State.readM (s : State) (n : Nat) : Word := Tab.get 0 (s.core s.iss.core).m n
/-- A vector register's own contents. -/
def State.readVReg (s : State) (n : Nat) : VecWord := Tab.get 0 (s.core s.iss.core).v n

/-- Lane i of a vector value. -/
def lane (v : VecWord) (i : Nat) : BitVec 32 := BitVec.ofNat 32 (v.toNat / 2 ^ (32 * i))
/-- The value whose lanes, from lane 0, are those of the list. -/
def ofLanes : List (BitVec 32) → Nat
  | [] => 0
  | b :: l => b.toNat + 2 ^ 32 * ofLanes l
/-- A vector with the lanes of `new` where the mask bit is set, and of `old` elsewhere (R157). -/
def mergeLanes (old new : VecWord) (mask : BitVec 64) : VecWord :=
  if mask = BitVec.allOnes 64 then new else
  BitVec.ofNat 2048 (ofLanes ((List.range 64).map fun i => if mask.getLsbD i then lane new i else lane old i))

/-! ### Faults, waits and results of a slot -/

/-- The slot being executed faults (R100, R371). -/
def State.fault (s : State) (code : Nat) (tval : Word) : State :=
  s.modIss fun k => { k with faults := ⟨k.slot, code, tval⟩ :: k.faults }
/-- WORD and LOC of R101 for the instruction in the slot being executed. -/
def State.wordTval (s : State) (i : Instr) : Word := BitVec.ofNat 64 (encode i % 2 ^ 32 * 2 ^ 32 + s.iss.slot)
/-- The slot being executed waits, at most the limit; the timeout's code and TVAL (R137, R373). -/
def State.await (s : State) (key code : Nat) (tval : Word) (limit : Option Nat) : State :=
  s.modIss fun k => { k with waits := ⟨key * 16 + k.slot, code, tval, k.slot, limit⟩ :: k.waits }
/-- WAITLIMIT of a core; 0 acts as 1 (R137). -/
def State.waitLimit (s : State) (c : Nat) : Nat := max 1 (s.core c).csr.waitlimit
/-- Cause codes (R371). -/
def illegalEncoding : Nat := 0x01
def illegalInstruction : Nat := 0x02
def privilegeViolation : Nat := 0x03
def illegalInContext : Nat := 0x04
def predicateNotUniform : Nat := 0x05
def addressRange : Nat := 0x06
def misaligned : Nat := 0x07
def addressSpaceFault : Nat := 0x08
def windowFault : Nat := 0x09
def deadPeer : Nat := 0x0A
def accumulatorBusy : Nat := 0x0B
def bufferStateFault : Nat := 0x0C
def tagWaitTimeout : Nat := 0x0D
def joinTimeout : Nat := 0x0E
def waitTimeout : Nat := 0x0F
def engineFaultCause : Nat := 0x10
def microprogramFault : Nat := 0x11
def softwareTrap : Nat := 0x20
/-- The priority of a cause (R371): 1 is the highest. -/
def causePriority (code : Nat) : Nat :=
  if code ≤ 12 then code else if code ≤ 15 then 13 else if code = 16 then 14 else 15

/-- A result of the slot being executed goes in flight (R25, R138). -/
def State.pushResult (s : State) (reg : RegName) (val : VecWord) (mask : BitVec 64) (flags : BitVec 5) (lat : Nat) :
    State :=
  s.modCtx s.iss.core s.iss.ctx fun k =>
    { k with inflight := k.inflight ++ [⟨reg, val, mask, flags, lat, s.iss.slot, k.run.issued, none, none⟩] }
/-- The results in flight of earlier bundles: those of the bundle in progress are left out. -/
def Ctx.earlier (k : Ctx) : List Result := k.inflight.filter fun r => r.order != k.run.issued
/-- A scalar result. -/
def State.pushS (s : State) (n : Nat) (v : Word) (flags : BitVec 5) (lat : Nat) : State :=
  s.pushResult (.s n) (v.setWidth 2048) (BitVec.allOnes 64) flags lat
/-- A predicate result. -/
def State.pushP (s : State) (n : Nat) (v : BitVec 64) (flags : BitVec 5) (lat : Nat) : State :=
  s.pushResult (.p n) (v.setWidth 2048) (BitVec.allOnes 64) flags lat

/-- Write one result into the registers; a stream push takes no register (R128). -/
def applyReg (k : Core) (x : Nat) (r : Result) : Core :=
  match r.reg with
  | .s n => { k with ctxs := Tab.upd Ctx.reset k.ctxs x fun c => c.writeS n (r.val.setWidth 64) }
  | .p n => { k with ctxs := Tab.upd Ctx.reset k.ctxs x fun c => c.writeP n (r.val.setWidth 64) }
  | .v n => { k with v := Tab.upd 0 k.v n fun old => mergeLanes old r.val r.mask }
  | .m n => { k with m := Tab.set k.m n (r.val.setWidth 64) }
  | .push _ => k
  | .flagsOnly => k
/-- The register is one that a result really writes (s0 and p0 discard). -/
def writesReg : RegName → Bool
  | .s n => n != 0
  | .p n => n != 0
  | .v _ => true
  | .m _ => true
  | .push _ => false
  | .flagsOnly => false
/-- Two results of the list write one register (R139). -/
def collides : List Result → Bool
  | [] => false
  | r :: l => (writesReg r.reg && l.any (fun q => q.reg == r.reg)) || collides l
/-- Results in order of the bundle's issue, then slot (R139): the list is built so. -/
def resultBefore (a b : Result) : Bool := a.order < b.order || (a.order == b.order && a.slot ≤ b.slot)
/-- Insert by order and slot. -/
def insertResult (r : Result) : List Result → List Result
  | [] => [r]
  | q :: l => if resultBefore q r then q :: insertResult r l else r :: q :: l
/-- Sort by order and slot. -/
def sortResults (l : List Result) : List Result := l.foldl (fun acc r => insertResult r acc) []
/-- OR flags into FPFLAGS (R70). -/
def Ctx.orFlags (k : Ctx) (f : BitVec 5) : Ctx := { k with csr := { k.csr with flags := k.csr.flags ||| f } }
/-- The arrivals of matured results, as due arrivals of the core at their bundle boundary (R95, R355). -/
def resultArrivals (now : Nat) (l : List Result) : List PendArrive :=
  l.filterMap fun r => r.arrive.map fun b => ⟨now, b, 1, [], 0, r.slot, none⟩
/-- Results become visible in their registers, with their flags: the later bundle wins, then the higher slot; WCOLL in the
exposed modes (R139). -/
def State.mature (s : State) (c x : Nat) (l : List Result) (exposed : Bool) : State :=
  let l := sortResults l
  let s := s.modCore c fun k => l.foldl (fun k r => applyReg k x r) k
  let s := s.modCtx c x fun k => l.foldl (fun k r => k.orFlags r.flags) k
  if exposed && collides l then s.modCtx c x fun k => { k with csr := { k.csr with wcoll := true } } else s
/-- The arrivals of results that have become visible are due (R95). -/
def State.dueArrivals (s : State) (c : Nat) (l : List Result) : State :=
  s.modCore c fun k => { k with arrives := k.arrives ++ resultArrivals s.clk.cycle (sortResults l) }
/-- One boundary passes for every result of the context in flight. -/
def countDown (l : List Result) : List Result := l.map fun r => { r with rem := r.rem - 1 }
/-! ### Engine faults (R273, R386) and node errors (R342) -/

/-- The word 0 of an engine fault record (R386). -/
def efWord (unit code node core bar : Nat) : Word :=
  BitVec.ofNat 64 (unit * 2 ^ 56 + code * 2 ^ 48 + node % 2 ^ 16 * 2 ^ 32 + core % 2 ^ 12 * 2 ^ 20 + bar % 32 * 2 ^ 15)
/-- Record an engine error in a die's fault queue, or count it in OVERFLOW (R273). -/
def State.engineFault (s : State) (die unit code node core bar addr detail : Nat) : State :=
  let t := s.time (die / 4)
  s.modDie die fun k =>
    if k.efq.length < 256 then
      { k with efq := k.efq ++ [⟨efWord unit code node core bar, BitVec.ofNat 64 t, BitVec.ofNat 64 addr, BitVec.ofNat 64 detail⟩] }
    else { k with efOver := min (2 ^ 32 - 1) (k.efOver + 1) }
/-- Change a node's entry in the task dependency table of a die. -/
def State.modNode (s : State) (die idx : Nat) (f : NodeEnt → NodeEnt) : State :=
  s.modSched die fun k => { k with tdt := Tab.upd NodeEnt.reset k.tdt idx f }
/-- A node's entry. -/
def State.nodeEnt (s : State) (die idx : Nat) : NodeEnt := Tab.get NodeEnt.reset (s.die die).sched.tdt idx
/-- Count an engine error of a node (R342). -/
def State.countError (s : State) (die node : Nat) : State :=
  s.modNode die (node % 4096) fun k => { k with engerr := min (2 ^ 32 - 1) (k.engerr + 1), err := true }
/-- An engine error of an operation a core issued: recorded, and counted for the core's node. -/
def State.coreFault (s : State) (die unit code core bar addr detail : Nat) : State :=
  let k := (s.core core).ident
  let s := s.engineFault die unit code k.node (s.physCore core) bar addr detail
  if k.placed then s.countError k.home k.node else s

/-! ### Stopping cores -/

/-- The context does nothing more; the plaintext lines of its target registers are discarded (R196). -/
def Ctx.stop (k : Ctx) : Ctx :=
  { k with run := { k.run with active := false, ended := false, waits := [], join := none }, pend := [], inflight := [],
           tb := [], cap := none, recent := none }
/-- Every context of the core is inactive, its calls are discarded, its queue and lines are gone (R196, R206). -/
def Core.kill (k : Core) : Core :=
  { k with ctxs := k.ctxs.map (fun e => (e.1, e.2.stop)), fetch := ⟨[], [], k.fetch.lastNum, false, []⟩, trig := [],
           arrq := k.arrq ++ k.overflow.map (·.1), overflow := [], fab := k.fab.filter (fun i => !k.overflow.any (·.2 == i)),
           arrives := [], mx := { k.mx with calls := [], uops := [], flows := [] },
           stat := { k.stat with dead := true, handler := false, stall := 0, stopped := false } }
/-- The operation numbers of a core's discarded calls. -/
def Core.callOps (k : Core) : List Nat := k.mx.calls.map (·.opId)
/-- The operation numbers of the pushes in a list of results. -/
def pushOps (l : List Result) : List Nat := l.filterMap fun r => r.push.map (·.1)
/-- A result does more than write its register: it pushes to a stream, or arrives on a barrier (R95, R217). -/
def Result.lands (r : Result) : Bool := r.push.isSome || r.arrive.isSome
/-- The results of the last boundary whose pushes and arrivals are still to be made. -/
def Ctx.unlanded (k : Ctx) : List Result := (k.recent.elim [] (·.results)).filter (·.lands)
/-- The operation numbers of the pushes that a core has in flight. -/
def Core.pushOps (k : Core) : List Nat := k.ctxs.flatMap fun t => Machine.pushOps (t.2.unlanded ++ t.2.inflight)
/-- The operation numbers of the RGETs whose arrivals wait for a record (R48). -/
def Core.heldOps (k : Core) : List Nat := k.overflow.map (·.2)
/-- The core stops for good: its unreleased commands leave the BTE buffer unissued (R206, R376). -/
def State.killCore (s : State) (c : Nat) : State :=
  let cl := clusterOf c
  let b := (s.cluster cl).bte
  let mine := fun (x : Cmd) => x.by_.core == some c
  let k := s.core c
  let gone := ((b.coming ++ b.buffer).filter mine).map (·.opId) ++ k.callOps ++ k.trig.map (·.2.opId)
    ++ k.arrives.map (·.opId) ++ k.streams.map (·.2.opId) ++ k.pushOps ++ k.heldOps
  let s := s.modCluster cl fun k =>
    { k with bte := { k.bte with coming := k.bte.coming.filter (fun x => !mine x), buffer := k.bte.buffer.filter (fun x => !mine x) } }
  let s := gone.foldl (fun s i => s.endOp i) s
  let s := { s with net := { s.net with fops := s.net.fops.filter fun e => !k.heldOps.contains e.1 } }
  s.modCore c Core.kill
/-- The scheduler stops a node without an image: commands that a pre-emption held back are gone (R275); it will complete in STATE 5 once its cores have nothing outstanding
(R206, R376). -/
def State.stopNode (s : State) (die idx : Nat) : State :=
  match Tab.find (s.die die).sched.placed idx with
  | none => s
  | some p =>
    if p.bad then s else
    let now := s.clk.cycle
    let s := s.modSched die fun k => { k with placed := Tab.set k.placed idx { p with bad := true, stopAt := now, held := [] } }
    let s := p.held.foldl (fun (s : State) m => s.endOp m.opId) s
    let mine := fun (c : Nat) =>
      let k := (s.core c).ident
      k.placed && k.home == die && k.node % 4096 == idx
    let s := (p.cores.filter mine).foldl (fun s c => s.killCore c) s
    p.clusters.foldl (fun s c => s.modCluster c fun k => { k with chord := { k.chord with on := false, wait := .none, lines := [], trans := [] } }) s

/-! ### Traps (R374 to R378) -/

/-- A double trap (R376): the scheduler stops the node without an image and records an engine fault of code 15, with CORE
0 (R386); a host-started core stops alone, and its fault is recorded once it is idle again. -/
def State.doubleTrap (s : State) (c loc code : Nat) : State :=
  let k := (s.core c).ident
  if k.placed then
    let s := s.engineFault k.home 5 15 k.node 0 0 0 (loc * 256 + code)
    (s.countError k.home k.node).stopNode k.home (k.node % 4096)
  else
    (s.killCore c).modCore c fun k => { k with stat := { k.stat with dtrap := some (loc * 256 + code) } }

/-- What a register holds again. -/
def Core.putReg (k : Core) (x : Nat) (r : RegName × VecWord) : Core :=
  applyReg k x ⟨r.1, r.2, BitVec.allOnes 64, 0, 0, 0, 0, none, none⟩
/-- In the exposed modes the results that became visible at this boundary are in flight again, with a remaining count of 1:
no bundle has read them yet (R374, R381). Their registers, flags and WCOLL are as they stood before. -/
def State.reflight (s : State) (c x : Nat) : State :=
  match (s.ctx c x).recent with
  | none => s
  | some r =>
    if (s.core c).ident.mode = 2 then s
    else
      let s := s.modCore c fun k => r.regs.foldl (fun k e => k.putReg x e) k
      s.modCtx c x fun t =>
        { t with inflight := r.results ++ t.inflight, recent := none,
                 csr := { t.csr with flags := t.csr.flags &&& ~~~r.flags, wcoll := r.wcoll } }
/-- Results as captured (R374): those of a STRAND context count the bundle at TPC as one cycle more. -/
def captured (mode : Nat) (l : List Result) : List Result :=
  if mode = 2 then l.map fun r => { r with rem := r.rem + 1 } else l
/-- The context enters its handler at TVEC (R374): TPC, TCAUSE, TVAL, TSTAT.PPL and MODE.PL written, the results that no
issued bundle has read, pending transfers and loops captured. A trap of context 0 withdraws its SYNC (R43); one of a scalar context leaves
context 0 as it is (R377). -/
def State.enterHandler (s : State) (c x loc code : Nat) (tval : Word) (tpc : Nat) : State :=
  let k := s.core c
  let s := (s.reflight c x).modCtx c x fun t =>
    { t with
      csr := { t.csr with tpc := tpc % 2 ^ 24, tcause := loc * 256 + code, tval := tval, ppl := k.ident.pl }
      cap := some ⟨captured k.ident.mode t.inflight, t.pend, t.l0, t.l1⟩
      inflight := []
      recent := none
      pend := []
      l0 := { t.l0 with active := false }
      l1 := { t.l1 with active := false }
      pc := k.csr.tvec
      run := { t.run with waits := [], join := none } }
  s.modCore c fun k =>
    { k with ident := { k.ident with pl := true }
             stat := { k.stat with handler := k.ident.mode == 0 }
             sync := if x = 0 then { k.sync with arrived := none, go := none } else k.sync }

/-- Taking an exception (R374, R376): a context that holds a capture double-traps, any other enters its handler. -/
def State.takeTrap (s : State) (c x loc code : Nat) (tval : Word) (tpc : Nat) : State :=
  if (s.ctx c x).cap.isSome then s.doubleTrap c loc code else s.enterHandler c x loc code tval tpc

/-- Returning from an exception, steps 3 to 6 of R378: the level, the loops, the pending transfers, the bundle at TPC and
the captured results come back. The next bundle is at TPC as it stands, be it odd (DEDUCED, log entry 91). Without
a capture the loops and pending transfers stay (DEDUCED, log entry 90). -/
def State.returnTrap (s : State) (c x : Nat) : State :=
  let t := s.ctx c x
  let s := s.modCore c fun k =>
    { k with ident := { k.ident with pl := t.csr.ppl }, stat := { k.stat with handler := false } }
  s.modCtx c x fun t =>
    match t.cap with
    | none => { t with pc := t.csr.tpc }
    | some g =>
      { t with pc := t.csr.tpc, cap := none, pend := g.pend, l0 := g.l0, l1 := g.l1, inflight := g.results ++ t.inflight }

end Sys2Proof.Machine
end

