-- ==== Sys2Proof/Machine/Flags.lean ====
section
/-! DEFINITION. Number formats, rounding and the flag computations of spec/03_arithmetic.md: one rounding of the exact
result (R67), tininess after rounding and overflow (R71), flushing (R72), NaNs (R73), zeros and compares (R74),
conversions (R75), the four functions of R162. Flags are NV, DZ, OF, UF, NX in the places of R70. -/

namespace Sys2Proof.Machine

/-- NV of R70. -/
def flagNV : BitVec 5 := 16
/-- DZ of R70. -/
def flagDZ : BitVec 5 := 8
/-- OF of R70. -/
def flagOF : BitVec 5 := 4
/-- UF of R70. -/
def flagUF : BitVec 5 := 2
/-- NX of R70. -/
def flagNX : BitVec 5 := 1

/-- A floating-point format (R64): exponent and fraction widths; E4M3 has no infinity (R65). -/
structure FpFmt where
  ew : Nat
  fw : Nat
  e4m3 : Bool
  deriving DecidableEq, Repr

/-- binary32 (R64). -/
def fp32 : FpFmt := ⟨8, 23, false⟩
/-- BF16 (R64). -/
def fpBf16 : FpFmt := ⟨8, 7, false⟩
/-- binary16 (R64). -/
def fp16 : FpFmt := ⟨5, 10, false⟩
/-- E4M3 (R64, R65). -/
def fpE4m3 : FpFmt := ⟨4, 3, true⟩
/-- E5M2 (R64). -/
def fpE5m2 : FpFmt := ⟨5, 2, false⟩
/-- The format of a T code (R102). -/
def fpOfT (t : Nat) : FpFmt := if t = 0 then fp32 else if t = 1 then fpBf16 else fp16
/-- The format of a floating-point FMT code (R102). -/
def fpOfFmt (k : Nat) : FpFmt :=
  if k = 1 then fp32 else if k = 2 then fpBf16 else if k = 3 then fp16 else if k = 4 then fpE4m3 else fpE5m2
/-- Width in bits. -/
def FpFmt.width (f : FpFmt) : Nat := 1 + f.ew + f.fw
/-- Exponent bias (R64). -/
def FpFmt.bias (f : FpFmt) : Nat := 2 ^ (f.ew - 1) - 1
/-- The exponent of the smallest normal value. -/
def FpFmt.emin (f : FpFmt) : Int := 1 - f.bias
/-- The largest finite encoding, without sign. -/
def FpFmt.maxFinite (f : FpFmt) : Nat := if f.e4m3 then 0x7E else (2 ^ f.ew - 1) * 2 ^ f.fw - 1
/-- The encoding of +infinity (not E4M3). -/
def FpFmt.infBits (f : FpFmt) : Nat := (2 ^ f.ew - 1) * 2 ^ f.fw
/-- The canonical NaN (R64, R73). -/
def FpFmt.nanBits (f : FpFmt) : Nat := if f.e4m3 then 0x7F else f.infBits + 2 ^ (f.fw - 1)
/-- The sign bit's weight. -/
def FpFmt.signBit (f : FpFmt) : Nat := 2 ^ (f.ew + f.fw)

/-- What an encoding denotes: a NaN, signalling or quiet; an infinity; or (-1)^neg * m * 2^e. -/
inductive FpVal where
  | nan (signalling : Bool)
  | inf (neg : Bool)
  | fin (neg : Bool) (m : Nat) (e : Int)
  deriving DecidableEq, Repr

/-- The value of an encoding (R64, R65), subnormals read as zero when fzi (R72). -/
def FpFmt.value (f : FpFmt) (fzi : Bool) (x : Nat) : FpVal :=
  let x := x % 2 ^ f.width
  let neg := decide (f.signBit ≤ x)
  let ex := x / 2 ^ f.fw % 2 ^ f.ew
  let fr := x % 2 ^ f.fw
  if f.e4m3 && ex == 15 && fr == 7 then .nan false
  else if !f.e4m3 && ex == 2 ^ f.ew - 1 then
    if fr = 0 then .inf neg else .nan (decide (fr < 2 ^ (f.fw - 1)))
  else if ex = 0 then .fin neg (if fzi then 0 else fr) (f.emin - f.fw)
  else .fin neg (2 ^ f.fw + fr) ((ex : Int) - f.bias - f.fw)

/-- The encoding is a subnormal. -/
def FpFmt.subnormal (f : FpFmt) (x : Nat) : Bool := x / 2 ^ f.fw % 2 ^ f.ew == 0 && x % 2 ^ f.fw != 0

/-- Number of bits of a natural number. -/
def bitLen (n : Nat) : Nat := if n = 0 then 0 else Nat.log2 n + 1

/-- m * 2^k as a whole part and whether something is lost; k may be negative. -/
def shiftExact (m : Nat) (k : Int) : Nat × Nat × Nat :=
  if 0 ≤ k then (m * 2 ^ k.toNat, 0, 1) else (m / 2 ^ (-k).toNat, m % 2 ^ (-k).toNat, 2 ^ (-k).toNat)

/-- Round the magnitude m * 2^k (and a bit more when sticky) to a whole number in a mode (R67); the second part says
whether it is inexact. -/
def roundMag (mode : Nat) (neg : Bool) (m : Nat) (k : Int) (sticky : Bool) : Nat × Bool :=
  let r := shiftExact m k
  let inexact := r.2.1 != 0 || sticky
  let up :=
    if mode = 0 then decide (r.2.2 < 2 * r.2.1) || (2 * r.2.1 == r.2.2 && (sticky || r.1 % 2 == 1))
    else if mode = 1 then false
    else if mode = 2 then inexact && !neg
    else inexact && neg
  (if up then r.1 + 1 else r.1, inexact)

/-- RoundToFormat (R67, R71, R72, R85): the encoding and the flags OF, UF, NX, from the exact value
(-1)^neg * m * 2^e, a bit more in magnitude when sticky. -/
def FpFmt.round (f : FpFmt) (mode : Nat) (fzo neg : Bool) (m : Nat) (e : Int) (sticky : Bool) : Nat × BitVec 5 :=
  let sg := if neg then f.signBit else 0
  if m = 0 then (sg, 0) else
  let top : Int := e + (bitLen m : Int) - 1
  let qu : Int := top - f.fw
  let ru := roundMag mode neg m (e - qu) sticky
  let tiny := decide (bitLen ru.1 + qu ≤ f.emin)
  if tiny && fzo then (sg, flagUF ||| flagNX) else
  let q : Int := max qu (f.emin - f.fw)
  let r := roundMag mode neg m (e - q) sticky
  -- the encoding: a normal's field counts from the smallest normal's quantum
  let enc : Int := r.1 + (q - (f.emin - f.fw)) * 2 ^ f.fw
  if decide ((f.maxFinite : Int) < enc) then
    let toInf := mode == 0 || (mode == 2 && !neg) || (mode == 3 && neg)
    (sg + (if f.e4m3 then f.maxFinite else if toInf then f.infBits else f.maxFinite), flagOF ||| flagNX)
  else
    (sg + enc.toNat, if r.2 then (if tiny then flagUF ||| flagNX else flagNX) else 0)

/-- A signed exact sum of two dyadics. -/
def addDyadic (n1 : Bool) (m1 : Nat) (e1 : Int) (n2 : Bool) (m2 : Nat) (e2 : Int) : Int × Int :=
  let e := min e1 e2
  let a : Int := m1 * 2 ^ (e1 - e).toNat
  let b : Int := m2 * 2 ^ (e2 - e).toNat
  ((if n1 then -a else a) + (if n2 then -b else b), e)

/-- NV of a signalling operand (R73). -/
def FpVal.nv : FpVal → BitVec 5
  | .nan true => flagNV
  | _ => 0
/-- The operand is a NaN. -/
def FpVal.isNan : FpVal → Bool
  | .nan _ => true
  | _ => false
/-- The other sign. -/
def FpVal.negate : FpVal → FpVal
  | .nan b => .nan b
  | .inf n => .inf !n
  | .fin n m e => .fin (!n) m e

/-- Round the sum of two finite values (R74: an exact zero is +0, or -0 in RDN, unless both have one sign). -/
def FpFmt.roundSum (f : FpFmt) (mode : Nat) (fzo n1 : Bool) (m1 : Nat) (e1 : Int) (n2 : Bool) (m2 : Nat) (e2 : Int) :
    Nat × BitVec 5 :=
  let s := addDyadic n1 m1 e1 n2 m2 e2
  if s.1 = 0 then ((if (if n1 == n2 then n1 else mode == 3) then f.signBit else 0), 0)
  else f.round mode fzo (decide (s.1 < 0)) s.1.natAbs s.2 false

/-- The signed infinity of a format. -/
def FpFmt.infOf (f : FpFmt) (neg : Bool) : Nat := f.infBits + (if neg then f.signBit else 0)

/-- a + b (R73, R74). -/
def FpFmt.add (f : FpFmt) (mode : Nat) (fzo : Bool) (a b : FpVal) : Nat × BitVec 5 :=
  let nv := a.nv ||| b.nv
  match a, b with
  | .nan _, _ => (f.nanBits, nv)
  | _, .nan _ => (f.nanBits, nv)
  | .inf x, .inf y => if x == y then (f.infOf x, 0) else (f.nanBits, flagNV)
  | .inf x, .fin _ _ _ => (f.infOf x, 0)
  | .fin _ _ _, .inf y => (f.infOf y, 0)
  | .fin n1 m1 e1, .fin n2 m2 e2 => f.roundSum mode fzo n1 m1 e1 n2 m2 e2

/-- a * b (R73, R74). -/
def FpFmt.mul (f : FpFmt) (mode : Nat) (fzo : Bool) (a b : FpVal) : Nat × BitVec 5 :=
  let nv := a.nv ||| b.nv
  match a, b with
  | .nan _, _ => (f.nanBits, nv)
  | _, .nan _ => (f.nanBits, nv)
  | .inf x, .inf y => (f.infOf (x != y), 0)
  | .inf x, .fin n m _ => if m = 0 then (f.nanBits, flagNV) else (f.infOf (x != n), 0)
  | .fin n m _, .inf y => if m = 0 then (f.nanBits, flagNV) else (f.infOf (n != y), 0)
  | .fin n1 m1 e1, .fin n2 m2 e2 => f.round mode fzo (n1 != n2) (m1 * m2) (e1 + e2) false

/-- a * b + c, rounded once (R67, R73: 0 times infinity is invalid whatever the addend). -/
def FpFmt.fma (f : FpFmt) (mode : Nat) (fzo : Bool) (a b c : FpVal) : Nat × BitVec 5 :=
  let nv := a.nv ||| b.nv ||| c.nv
  match a, b with
  | .nan _, _ => (f.nanBits, nv)
  | _, .nan _ => (f.nanBits, nv)
  | .inf x, .inf y => addInf (x != y) nv
  | .inf x, .fin n m _ => if m = 0 then (f.nanBits, flagNV) else addInf (x != n) nv
  | .fin n m _, .inf y => if m = 0 then (f.nanBits, flagNV) else addInf (n != y) nv
  | .fin n1 m1 e1, .fin n2 m2 e2 =>
    match c with
    | .nan _ => (f.nanBits, nv)
    | .inf z => (f.infOf z, 0)
    | .fin n3 m3 e3 => f.roundSum mode fzo (n1 != n2) (m1 * m2) (e1 + e2) n3 m3 e3
where
  /-- An infinite product plus the addend. -/
  addInf (p : Bool) (nv : BitVec 5) : Nat × BitVec 5 :=
    match c with
    | .nan _ => (f.nanBits, nv)
    | .inf z => if z == p then (f.infOf p, 0) else (f.nanBits, flagNV)
    | .fin _ _ _ => (f.infOf p, 0)

/-- Compare: `none` when unordered, else whether less, equal (0), or greater; -0 equals +0 (R74). -/
def fpCompare (a b : FpVal) : Option Int :=
  match a, b with
  | .nan _, _ => none
  | _, .nan _ => none
  | .inf x, .inf y => some (if x == y then 0 else if x then -1 else 1)
  | .inf x, .fin _ _ _ => some (if x then -1 else 1)
  | .fin _ _ _, .inf y => some (if y then 1 else -1)
  | .fin n1 m1 e1, .fin n2 m2 e2 => some (addDyadic n1 m1 e1 (!n2) m2 e2).1

/-- Sign of a value that is not a NaN. -/
def FpVal.neg : FpVal → Bool
  | .nan _ => false
  | .inf n => n
  | .fin n _ _ => n

/-- The encoding of a value that the format represents, with the flush of FZO (R72). -/
def FpFmt.encodeExact (f : FpFmt) (fzo : Bool) : FpVal → Nat × BitVec 5
  | .nan _ => (f.nanBits, 0)
  | .inf n => (f.infOf n, 0)
  | .fin n m e => f.round 0 fzo n m e false

/-- Minimum (`isMin`) or maximum: -0 below +0, the canonical NaN for a NaN (R74, R161). -/
def FpFmt.minMax (f : FpFmt) (isMin fzo : Bool) (a b : FpVal) : Nat × BitVec 5 :=
  match fpCompare a b with
  | none => (f.nanBits, a.nv ||| b.nv)
  | some c =>
    let aFirst := if c = 0 then (if isMin then a.neg else !a.neg) else if isMin then decide (c < 0) else decide (0 < c)
    f.encodeExact fzo (if aFirst then a else b)

/-- FP to FP (R75). -/
def FpFmt.convert (f : FpFmt) (mode : Nat) (fzo : Bool) (a : FpVal) : Nat × BitVec 5 :=
  match a with
  | .nan sg => (f.nanBits, if sg then flagNV else 0)
  | .inf n => if f.e4m3 then (f.maxFinite + (if n then f.signBit else 0), flagNV) else (f.infOf n, 0)
  | .fin n m e => f.round mode fzo n m e false

/-- An integer to FP (R75). -/
def FpFmt.ofInt (f : FpFmt) (mode : Nat) (fzo : Bool) (v : Int) : Nat × BitVec 5 :=
  f.round mode fzo (decide (v < 0)) v.natAbs 0 false

/-- FP to an integer of n bits, clamped (R75, R151). -/
def fpToInt (n : Nat) (unsigned : Bool) (mode : Nat) (a : FpVal) : Int × BitVec 5 :=
  let lo : Int := if unsigned then 0 else -(2 ^ (n - 1) : Int)
  let hi : Int := if unsigned then 2 ^ n - 1 else 2 ^ (n - 1) - 1
  match a with
  | .nan _ => (0, flagNV)
  | .inf neg => (if neg then lo else hi, flagNV)
  | .fin neg m e =>
    let r := roundMag mode neg m e false
    let v : Int := if neg then -(r.1 : Int) else r.1
    if v < lo then (lo, flagNV) else if hi < v then (hi, flagNV) else (v, if r.2 then flagNX else 0)

/-- RoundRNE of v * 2^k (R6). -/
def roundRNE (v : Int) (k : Int) : Int :=
  let r := (roundMag 0 false v.natAbs k false).1
  if v < 0 then -(r : Int) else r

/-! ### The functions of R162 -/

/-- Whole square root of n by bits from bit b downward. -/
def isqrtFrom (n : Nat) : Nat → Nat → Nat
  | 0, r => r
  | b + 1, r => let c := r + 2 ^ b; isqrtFrom n b (if c * c ≤ n then c else r)

/-- 1 / a (R162). -/
def FpFmt.recip (f : FpFmt) (mode : Nat) (fzo : Bool) (a : FpVal) : Nat × BitVec 5 :=
  match a with
  | .nan sg => (f.nanBits, if sg then flagNV else 0)
  | .inf n => ((if n then f.signBit else 0), 0)
  | .fin n m e =>
    if m = 0 then (f.infOf n, flagDZ)
    else
      let k := bitLen m + 64
      f.round mode fzo n (2 ^ k / m) (-e - k) (2 ^ k % m != 0)

/-- 1 / sqrt a (R162). -/
def FpFmt.rsqrt (f : FpFmt) (mode : Nat) (fzo : Bool) (a : FpVal) : Nat × BitVec 5 :=
  match a with
  | .nan sg => (f.nanBits, if sg then flagNV else 0)
  | .inf n => if n then (f.nanBits, flagNV) else (0, 0)
  | .fin n m e =>
    if m = 0 then (f.infOf n, flagDZ)
    else if n then (f.nanBits, flagNV)
    else
      -- a = m' * 2^e' with e' even; 1/sqrt a = sqrt (2^(2k) / m') * 2^(-k - e'/2)
      let odd := e % 2 != 0
      let m := if odd then 2 * m else m
      let e := if odd then e - 1 else e
      let k := bitLen m + 40
      let v := 2 ^ (2 * k) / m
      let r := isqrtFrom v (k + 2) 0
      f.round mode fzo false r (-(k : Int) - e / 2) (r * r * m != 2 ^ (2 * k))

/-- The natural logarithm of 2 as a fixed-point number of 256 fraction bits. -/
def ln2Fixed : Nat := 0xB17217F7D1CF79ABC9E3B39803F2F6AF40F343267298B62D8A0D175B8BAAFA2B

/-- 1 + x + x^2/2! + ... in fixed point of 256 fraction bits: term t is x^(k-1)/(k-1)!. -/
def expSeries (x : Nat) : Nat → Nat → Nat → Nat → Nat
  | 0, _, _, acc => acc
  | n + 1, k, t, acc => let t' := t * x / 2 ^ 256 / k; expSeries x n (k + 1) t' (acc + t')

/-- 2^a (R162), from 256 fraction bits of the exact value (log entry 11). -/
def FpFmt.exp2 (f : FpFmt) (mode : Nat) (fzo : Bool) (a : FpVal) : Nat × BitVec 5 :=
  match a with
  | .nan sg => (f.nanBits, if sg then flagNV else 0)
  | .inf n => if n then (0, 0) else (f.infBits, 0)
  | .fin n m e =>
    if m = 0 then f.round mode fzo false 1 0 false
    else
      -- |a| at or above 2^10 is far out of every format's range
      if 10 ≤ e + (bitLen m : Int) - 1 then
        (if n then f.round mode fzo false 1 (-2000) true else f.round mode fzo false 1 2000 true)
      else
        let v : Int := m * 2 ^ (e + 256).toNat
        let v : Int := if n then -v else v
        let whole := v / 2 ^ 256
        let frac := (v % 2 ^ 256).toNat
        if frac = 0 then f.round mode fzo false 1 whole false
        else f.round mode fzo false (expSeries (frac * ln2Fixed / 2 ^ 256) 60 1 (2 ^ 256) (2 ^ 256)) (whole - 256) true

/-- Fraction bits of log2 y by squaring, for y in [1, 2) with 400 fraction bits. -/
def log2Bits : Nat → Nat → Nat → Nat
  | 0, _, acc => acc
  | n + 1, y, acc =>
    let y2 := y * y / 2 ^ 400
    if 2 ^ 401 ≤ y2 then log2Bits n (y2 / 2) (2 * acc + 1) else log2Bits n y2 (2 * acc)

/-- log2 a (R162), from 160 fraction bits of the exact value (log entry 11). -/
def FpFmt.log2 (f : FpFmt) (mode : Nat) (fzo : Bool) (a : FpVal) : Nat × BitVec 5 :=
  match a with
  | .nan sg => (f.nanBits, if sg then flagNV else 0)
  | .inf n => if n then (f.nanBits, flagNV) else (f.infBits, 0)
  | .fin n m e =>
    if m = 0 then (f.infOf true, flagDZ)
    else if n then (f.nanBits, flagNV)
    else
      let l := bitLen m
      let whole : Int := e + l - 1
      if m = 2 ^ (l - 1) then f.ofInt mode fzo whole
      else
        let y := m * 2 ^ (400 - (l - 1))
        let v : Int := whole * 2 ^ 160 + (log2Bits 160 y 0 : Nat)
        -- the exact value lies strictly above v; in magnitude a negative one lies below |v|
        if 0 ≤ v then f.round mode fzo false v.natAbs (-160) true
        else f.round mode fzo true (v.natAbs - 1) (-160) true

end Sys2Proof.Machine
end

