-- ==== Sys2Proof/Machine/Operands.lean ====
section
/-! DEFINITION. Operand forms: guards (R99, R156), sign extension, the registers an instruction reads and writes
(for the interlock of R26 and the references of R28 and R119), stream-bound registers (R128, R291), SPM addresses
(R207), and engine addresses (R202). -/

namespace Sys2Proof.Machine

/-- SX of an n-bit field (R6). -/
def sx (n x : Nat) : Word := (BitVec.ofNat n x).signExtend 64
/-- The signed value of an n-bit field. -/
def sInt (n x : Nat) : Int := (BitVec.ofNat n x).toInt
/-- The guard's lane 0 (R99). -/
def State.guard0 (s : State) (g : Nat) : Bool := (s.readP g).bits.getLsbD 0
/-- The guard as a lane mask (R99). -/
def State.guardMask (s : State) (g : Nat) : BitVec 64 := (s.readP g).bits
/-- An instruction guarded by lane 0: nothing where the guard is false (R175). -/
def State.guarded (s : State) (g : Nat) (k : State → State) : State := if s.guard0 g then k s else s
/-- An instruction guarded by a lane mask: nothing where every bit is 0 (R156). -/
def State.masked (s : State) (g : Nat) (k : BitVec 64 → State → State) : State :=
  if s.guardMask g = 0 then s else k (s.guardMask g) s

/-- Operand b of a wide vector form (R159). -/
def bsReads (b bs sb : Nat) : List RegName := if bs = 0 then [.v b] else [.s sb]
/-- The destination operand of COPY and TMOV, unless it is a handle (R110). -/
def dhReads (dh dst : Nat) : List RegName := if dh = 0 then [.s dst] else []
/-- The base of an M-slot access, unless it is a handle (R106). -/
def baseReads (h b : Nat) : List RegName := if h = 0 then [.s b] else []
/-- The post-incremented base (R106). -/
def baseWrites (pi b : Nat) : List RegName := if pi = 0 then [] else [.s b]
/-- The first register when the selector is 0, the second otherwise. -/
def sel2 (d : Nat) (a b : RegName) : List RegName := if d = 0 then [a] else [b]
/-- The register the selector 0, 1 or 2 names. -/
def sel3 (d : Nat) (a b c : RegName) : List RegName := if d = 0 then [a] else if d = 1 then [b] else [c]

/-- The guard field of a syllable (R97). -/
def guardOf : Instr → Nat
  | .emptyBundle => 0
  | .nop f => f.g
  | .prep f => f.g
  | .prepr f => f.g
  | .trans f => f.g
  | .loopImm f => f.g
  | .loopReg f => f.g
  | .sync f => f.g
  | .syncj f => f.g
  | .syncl f => f.g
  | .join f => f.g
  | .joinW f => f.g
  | .detach f => f.g
  | .smode f => f.g
  | .spawn f => f.g
  | .suspend f => f.g
  | .yield f => f.g
  | .halt f => f.g
  | .trap f => f.g
  | .tret f => f.g
  | .add f => f.g
  | .sub f => f.g
  | .mul f => f.g
  | .mulh f => f.g
  | .div f => f.g
  | .rem f => f.g
  | .addi f => f.g
  | .addiWide f => f.g
  | .movi f => f.g
  | .moviWide f => f.g
  | .moviHi f => f.g
  | .and f => f.g
  | .or f => f.g
  | .xor f => f.g
  | .shl f => f.g
  | .shr f => f.g
  | .sar f => f.g
  | .min f => f.g
  | .max f => f.g
  | .umin f => f.g
  | .umax f => f.g
  | .clz f => f.g
  | .popc f => f.g
  | .sel f => f.g
  | .cmp f => f.g
  | .cmpi f => f.g
  | .cmpiWide f => f.g
  | .andi f => f.g
  | .andiWide f => f.g
  | .ori f => f.g
  | .oriWide f => f.g
  | .xori f => f.g
  | .xoriWide f => f.g
  | .shli f => f.g
  | .shri f => f.g
  | .sari f => f.g
  | .fadd f => f.g
  | .faddWide f => f.g
  | .fmul f => f.g
  | .fmulWide f => f.g
  | .ffma f => f.g
  | .ffmaWide f => f.g
  | .fcvt f => f.g
  | .fcvtWide f => f.g
  | .csrr f => f.g
  | .csrw f => f.g
  | .movm f => f.g
  | .ld f => f.g
  | .ldWide f => f.g
  | .st f => f.g
  | .stWide f => f.g
  | .ldf f => f.g
  | .ldfWide f => f.g
  | .lde f => f.g
  | .ldeWide f => f.g
  | .ste f => f.g
  | .steWide f => f.g
  | .tage f => f.g
  | .tageWide f => f.g
  | .tagf f => f.g
  | .tagfWide f => f.g
  | .vld f => f.g
  | .vldWide f => f.g
  | .vst f => f.g
  | .vstWide f => f.g
  | .vldx f => f.g
  | .vstx f => f.g
  | .vadd f => f.g
  | .vaddWide f => f.g
  | .vsub f => f.g
  | .vsubWide f => f.g
  | .vmul f => f.g
  | .vmulWide f => f.g
  | .vmin f => f.g
  | .vminWide f => f.g
  | .vmax f => f.g
  | .vmaxWide f => f.g
  | .vand f => f.g
  | .vandWide f => f.g
  | .vor f => f.g
  | .vorWide f => f.g
  | .vxor f => f.g
  | .vxorWide f => f.g
  | .vshl f => f.g
  | .vshlWide f => f.g
  | .vshr f => f.g
  | .vshrWide f => f.g
  | .vsar f => f.g
  | .vsarWide f => f.g
  | .vcmp f => f.g
  | .vsel f => f.g
  | .vselWide f => f.g
  | .vcvt f => f.g
  | .vcvtWide f => f.g
  | .vperm f => f.g
  | .vbcast f => f.g
  | .vaddF f => f.g
  | .vaddFWide f => f.g
  | .vsubF f => f.g
  | .vsubFWide f => f.g
  | .vmulF f => f.g
  | .vmulFWide f => f.g
  | .vfma f => f.g
  | .vfmaWide f => f.g
  | .vminF f => f.g
  | .vminFWide f => f.g
  | .vmaxF f => f.g
  | .vmaxFWide f => f.g
  | .vsum f => f.g
  | .vsumWide f => f.g
  | .vmaxr f => f.g
  | .vmaxrWide f => f.g
  | .vscan f => f.g
  | .vscanWide f => f.g
  | .vlane f => f.g
  | .vpopc f => f.g
  | .vcmpr f => f.g
  | .vhash f => f.g
  | .vhashWide f => f.g
  | .vvote f => f.g
  | .vexp2 f => f.g
  | .vexp2Wide f => f.g
  | .vlog2 f => f.g
  | .vlog2Wide f => f.g
  | .vrcp f => f.g
  | .vrcpWide f => f.g
  | .vrsq f => f.g
  | .vrsqWide f => f.g
  | .pand f => f.g
  | .por f => f.g
  | .pxor f => f.g
  | .pnot f => f.g
  | .pset f => f.g
  | .pmov f => f.g
  | .mxcall f => f.g
  | .mxprog f => f.g
  | .mxprogTab f => f.g
  | .zrd f => f.g
  | .zwr f => f.g
  | .mxstat f => f.g
  | .copy f => f.g
  | .copyWide f => f.g
  | .copy2d f => f.g
  | .copy2dWide f => f.g
  | .tmov f => f.g
  | .tmovWide f => f.g
  | .seop f => f.g
  | .seopWide f => f.g
  | .copyUnseal f => f.g
  | .copyUnsealWide f => f.g
  | .strcfg f => f.g
  | .stron f => f.g
  | .stroff f => f.g
  | .bufrel f => f.g
  | .rput f => f.g
  | .rputWide f => f.g
  | .rget f => f.g
  | .rgetWide f => f.g
  | .rgetv f => f.g
  | .rgetvWide f => f.g
  | .rfop f => f.g
  | .rfopWide f => f.g
  | .rfopIncw f => f.g
  | .rfopBadd f => f.g
  | .rfopCas f => f.g
  | .rvatom f => f.g
  | .rvatomWide f => f.g
  | .rred f => f.g
  | .rredWide f => f.g
  | .rmcast f => f.g
  | .rmcastWide f => f.g
  | .fence f => f.g
  | .arrive f => f.g
  | .waitb f => f.g
  | .waitbC f => f.g
  | .waitbCWide f => f.g
  | .waith f => f.g
  | .barinit f => f.g
  | .trigarm f => f.g
  | .trigcancel f => f.g
  | .moncfgConfigure f => f.g
  | .moncfgSnapshot f => f.g
  | .moncfgSnapshotClear f => f.g
  | .moncfgStop f => f.g
  | .tlbinv f => f.g
  | .tlbinvPart f => f.g
  | .tlbinvPkg f => f.g
  | .slotld f => f.g
  | .buddyset f => f.g
  | .mret => 0
  | .wld _ => 0
  | .wswap => 0
  | .ast _ => 0
  | .zclr _ => 0
  | .zgrid _ => 0
  | .zcvt _ => 0
  | .mloop _ => 0
  | .mend => 0
  | .marrive _ => 0
  | .mwait _ => 0
  | .minc _ => 0
  | .chordMulticast => 0
  | .chordRestart => 0
  | .joinTimeout => 0
  | .chordJoinTimeout => 0
  | .transferMature => 0
  | .loopEnd => 0
  | .syncGenerationComplete => 0
  | .waitTimeout => 0
  | .tagWaitTimeout => 0
  | .takeRecord => 0
  | .arrivalOverflowPush => 0
  | .schedulerDispatch => 0
  | .batchPush => 0
  | .priorityAging => 0
  | .skipLimit => 0
  | .coreLeaveNode => 0
  | .engineNodeComplete => 0
  | .decrement => 0
  | .failureNotice => 0
  | .notifyRingWrite => 0
  | .notifyAck => 0
  | .corestartGo => 0
  | .coreMapWrite => 0
  | .preemptRequeue => 0
  | .preemptPark => 0
  | .preemptResume => 0
  | .preemptStop => 0
  | .drainTimeout => 0
  | .imageSave => 0
  | .imageRestore => 0
  | .bteRelease => 0
  | .handleFillClaim => 0
  | .bteHandleTimeout => 0
  | .bteCommandComplete => 0
  | .arriveApply => 0
  | .seCommandStart => 0
  | .seCommandComplete => 0
  | .streamEntryFetch => 0
  | .streamEntryWrite => 0
  | .pageWalk => 0
  | .fabricWriteAtHome => 0
  | .remoteBarrierIncrement => 0
  | .putAcknowledge => 0
  | .multicastMemberDelivery => 0
  | .rgetReadAtHome => 0
  | .rgetReply => 0
  | .rgetvComplete => 0
  | .combineRequest => 0
  | .rfopAtHome => 0
  | .combinedReplySplit => 0
  | .rfopReply => 0
  | .rvatomAtHome => 0
  | .cruPartialForward => 0
  | .contributionAtRoot => 0
  | .roundTimeout => 0
  | .roundEndMessage => 0
  | .peerTimeout => 0
  | .slotTableEffect => 0
  | .monitorPeriodicSample => 0
  | .uncorrectableError => 0
  | .packageReset => 0
  | .dieTableWrite => 0
  | .windowTableWrite => 0
  | .reductionWindowWrite => 0
  | .rankMapWrite => 0
  | .graphTableWrite => 0
  | .contextTableWrite => 0
  | .keyTableWrite => 0
  | .sweepRekey => 0
  | .deadPeerClear => 0
  | .ownershipWrite => 0
  | .pctlDefine => 0
  | .functionLevelReset => 0
  | .launch => 0
  | .heartbeat => 0
  | .heartbeatPeriodExpiry => 0
  | .graceExpiry => 0
  | .qnonceWrite => 0
  | .extendWrite => 0
  | .keyload => 0
  | .efqPop => 0
  | .monownWrite => 0
  | .islctlWrite => 0
  | .islandChangeDone => 0
  | .pgctlDrain => 0
  | .pgctlLoad => 0
  | .firmwareLoadDone => 0
  | .registerWrite => 0
  | .btePieceWrite => 0
  | .seRowOperation => 0
  | .rgetvPieceLanding => 0
  | .microopComplete => 0
  | .targetLinesReady => 0
  | .codeCopyComplete => 0
  | .reportWritten => 0

/-- The registers a syllable reads, its guard apart. -/
def regReads : Instr → List RegName
  | .emptyBundle => []
  | .nop _ => []
  | .prep _ => []
  | .prepr f => [.s f.sa]
  | .trans f => [.p f.p]
  | .loopImm _ => []
  | .loopReg f => [.s f.s]
  | .sync _ => []
  | .syncj _ => []
  | .syncl _ => []
  | .join _ => []
  | .joinW _ => []
  | .detach _ => []
  | .smode _ => []
  | .spawn f => [.s f.s] ++ [1,2,3,4,5,6,7].map RegName.s
  | .suspend _ => []
  | .yield _ => []
  | .halt _ => []
  | .trap _ => []
  | .tret _ => []
  | .add f => [.s f.a, .s f.b]
  | .sub f => [.s f.a, .s f.b]
  | .mul f => [.s f.a, .s f.b]
  | .mulh f => [.s f.a, .s f.b]
  | .div f => [.s f.a, .s f.b]
  | .rem f => [.s f.a, .s f.b]
  | .addi f => [.s f.a]
  | .addiWide f => [.s f.a]
  | .movi _ => []
  | .moviWide _ => []
  | .moviHi f => [.s f.d]
  | .and f => [.s f.a, .s f.b]
  | .or f => [.s f.a, .s f.b]
  | .xor f => [.s f.a, .s f.b]
  | .shl f => [.s f.a, .s f.b]
  | .shr f => [.s f.a, .s f.b]
  | .sar f => [.s f.a, .s f.b]
  | .min f => [.s f.a, .s f.b]
  | .max f => [.s f.a, .s f.b]
  | .umin f => [.s f.a, .s f.b]
  | .umax f => [.s f.a, .s f.b]
  | .clz f => [.s f.a]
  | .popc f => [.s f.a]
  | .sel f => [.s f.a, .s f.b, .p f.p]
  | .cmp f => [.s f.a, .s f.b]
  | .cmpi f => [.s f.a]
  | .cmpiWide f => [.s f.a]
  | .andi f => [.s f.a]
  | .andiWide f => [.s f.a]
  | .ori f => [.s f.a]
  | .oriWide f => [.s f.a]
  | .xori f => [.s f.a]
  | .xoriWide f => [.s f.a]
  | .shli f => [.s f.a]
  | .shri f => [.s f.a]
  | .sari f => [.s f.a]
  | .fadd f => [.s f.a, .s f.b]
  | .faddWide f => [.s f.a, .s f.b]
  | .fmul f => [.s f.a, .s f.b]
  | .fmulWide f => [.s f.a, .s f.b]
  | .ffma f => [.s f.a, .s f.b, .s f.d]
  | .ffmaWide f => [.s f.a, .s f.b, .s f.sc]
  | .fcvt f => [.s f.a]
  | .fcvtWide f => [.s f.a]
  | .csrr _ => []
  | .csrw f => [.s f.r]
  | .movm f => sel2 f.d (.s f.s) (.m f.m)
  | .ld f => baseReads f.h f.b
  | .ldWide f => baseReads f.h f.b
  | .st f => [.s f.s] ++ baseReads f.h f.b
  | .stWide f => [.s f.s] ++ baseReads f.h f.b
  | .ldf f => baseReads f.h f.b
  | .ldfWide f => baseReads f.h f.b
  | .lde f => baseReads f.h f.b
  | .ldeWide f => baseReads f.h f.b
  | .ste f => [.s f.s] ++ baseReads f.h f.b
  | .steWide f => [.s f.s] ++ baseReads f.h f.b
  | .tage f => [.s f.b, .s f.l]
  | .tageWide f => [.s f.b]
  | .tagf f => [.s f.b, .s f.l]
  | .tagfWide f => [.s f.b]
  | .vld f => baseReads f.h f.b
  | .vldWide f => baseReads f.h f.b
  | .vst f => [.v f.v] ++ baseReads f.h f.b
  | .vstWide f => [.v f.v] ++ baseReads f.h f.b
  | .vldx f => [.v f.ix, .s f.b]
  | .vstx f => [.v f.v, .v f.ix, .s f.b]
  | .vadd f => [.v f.a, .v f.b]
  | .vaddWide f => [.v f.a] ++ bsReads f.b f.bs f.sb
  | .vsub f => [.v f.a, .v f.b]
  | .vsubWide f => [.v f.a] ++ bsReads f.b f.bs f.sb
  | .vmul f => [.v f.a, .v f.b]
  | .vmulWide f => [.v f.a] ++ bsReads f.b f.bs f.sb
  | .vmin f => [.v f.a, .v f.b]
  | .vminWide f => [.v f.a] ++ bsReads f.b f.bs f.sb
  | .vmax f => [.v f.a, .v f.b]
  | .vmaxWide f => [.v f.a] ++ bsReads f.b f.bs f.sb
  | .vand f => [.v f.a, .v f.b]
  | .vandWide f => [.v f.a] ++ bsReads f.b f.bs f.sb
  | .vor f => [.v f.a, .v f.b]
  | .vorWide f => [.v f.a] ++ bsReads f.b f.bs f.sb
  | .vxor f => [.v f.a, .v f.b]
  | .vxorWide f => [.v f.a] ++ bsReads f.b f.bs f.sb
  | .vshl f => [.v f.a, .v f.b]
  | .vshlWide f => [.v f.a] ++ bsReads f.b f.bs f.sb
  | .vshr f => [.v f.a, .v f.b]
  | .vshrWide f => [.v f.a] ++ bsReads f.b f.bs f.sb
  | .vsar f => [.v f.a, .v f.b]
  | .vsarWide f => [.v f.a] ++ bsReads f.b f.bs f.sb
  | .vcmp f => [.v f.a, .v f.b]
  | .vsel f => [.v f.a, .v f.b, .p f.p]
  | .vselWide f => [.v f.a, .p f.p] ++ bsReads f.b f.bs f.sb
  | .vcvt f => [.v f.a]
  | .vcvtWide f => [.v f.a]
  | .vperm f => [.v f.a, .v f.x]
  | .vbcast f => [.s f.sa]
  | .vaddF f => [.v f.a, .v f.b]
  | .vaddFWide f => [.v f.a] ++ bsReads f.b f.bs f.sb
  | .vsubF f => [.v f.a, .v f.b]
  | .vsubFWide f => [.v f.a] ++ bsReads f.b f.bs f.sb
  | .vmulF f => [.v f.a, .v f.b]
  | .vmulFWide f => [.v f.a] ++ bsReads f.b f.bs f.sb
  | .vfma f => [.v f.a, .v f.b, .v f.d]
  | .vfmaWide f => [.v f.a, .v f.vc] ++ bsReads f.b f.bs f.sb
  | .vminF f => [.v f.a, .v f.b]
  | .vminFWide f => [.v f.a] ++ bsReads f.b f.bs f.sb
  | .vmaxF f => [.v f.a, .v f.b]
  | .vmaxFWide f => [.v f.a] ++ bsReads f.b f.bs f.sb
  | .vsum f => [.v f.a]
  | .vsumWide f => [.v f.a]
  | .vmaxr f => [.v f.a]
  | .vmaxrWide f => [.v f.a]
  | .vscan f => [.v f.a]
  | .vscanWide f => [.v f.a]
  | .vlane f => sel2 f.d (.v f.v) (.s f.s)
  | .vpopc f => [.p f.pa]
  | .vcmpr f => [.v f.a]
  | .vhash f => [.v f.a, .v f.b]
  | .vhashWide f => [.v f.a] ++ bsReads f.b f.bs f.sb
  | .vvote f => [.p f.pa]
  | .vexp2 f => [.v f.a]
  | .vexp2Wide f => [.v f.a]
  | .vlog2 f => [.v f.a]
  | .vlog2Wide f => [.v f.a]
  | .vrcp f => [.v f.a]
  | .vrcpWide f => [.v f.a]
  | .vrsq f => [.v f.a]
  | .vrsqWide f => [.v f.a]
  | .pand f => [.p f.pa, .p f.pb]
  | .por f => [.p f.pa, .p f.pb]
  | .pxor f => [.p f.pa, .p f.pb]
  | .pnot f => [.p f.pa]
  | .pset _ => []
  | .pmov f => sel3 f.sel (.p f.a) (.s f.a) (.p f.a)
  | .mxcall _ => (List.range 8).map RegName.m
  | .mxprog f => [.s f.a, .s f.b]
  | .mxprogTab f => [.s f.a, .s f.b]
  | .zrd _ => []
  | .zwr f => [.v f.v]
  | .mxstat _ => []
  | .copy f => [.s f.src, .s f.len] ++ dhReads f.dh f.dst
  | .copyWide f => [.s f.src, .s f.len, .s f.ts] ++ dhReads f.dh f.dst
  | .copy2d f => [.s f.src, .s f.len] ++ dhReads f.dh f.dst
  | .copy2dWide f => [.s f.src, .s f.len, .s f.ts] ++ dhReads f.dh f.dst
  | .tmov f => [.s f.src, .s f.len] ++ dhReads f.dh f.dst
  | .tmovWide f => [.s f.src, .s f.len, .s f.ts] ++ dhReads f.dh f.dst
  | .seop f => [.s f.d]
  | .seopWide f => [.s f.d]
  | .copyUnseal f => [.s f.src, .s f.len] ++ dhReads f.dh f.dst
  | .copyUnsealWide f => [.s f.src, .s f.len, .s f.ts] ++ dhReads f.dh f.dst
  | .strcfg f => [.s f.d]
  | .stron _ => []
  | .stroff _ => []
  | .bufrel _ => []
  | .rput f => [.s f.src, .s f.len] ++ dhReads f.dh f.dst
  | .rputWide f => [.s f.src, .s f.len, .s f.ts] ++ dhReads f.dh f.dst
  | .rget f => [.s f.dst, .s f.adr, .s f.hpc, .s f.ck]
  | .rgetWide f => [.s f.dst, .s f.adr, .s f.hpc, .s f.ck]
  | .rgetv f => [.s f.src, .s f.len] ++ dhReads f.dh f.dst
  | .rgetvWide f => [.s f.src, .s f.len, .s f.ts] ++ dhReads f.dh f.dst
  | .rfop f => [.s f.dst, .s f.adr, .s f.x]
  | .rfopWide f => [.s f.dst, .s f.adr, .s f.x]
  | .rfopIncw f => [.s f.dst, .s f.adr, .s f.x] ++ [.s (f.opx % 32)]
  | .rfopBadd f => [.s f.dst, .s f.adr, .s f.x] ++ [.s (f.opx % 32)]
  | .rfopCas f => [.s f.dst, .s f.adr, .s f.x] ++ [.s (f.opx % 32)]
  | .rvatom f => [.s f.dst, .s f.src]
  | .rvatomWide f => [.s f.dst, .s f.src]
  | .rred f => [.s f.src, .s f.rank]
  | .rredWide f => [.s f.src, .s f.rank]
  | .rmcast f => [.s f.src, .s f.len] ++ dhReads f.dh f.dst
  | .rmcastWide f => [.s f.src, .s f.len, .s f.ts] ++ dhReads f.dh f.dst
  | .fence _ => []
  | .arrive _ => []
  | .waitb _ => []
  | .waitbC _ => []
  | .waitbCWide _ => []
  | .waith _ => []
  | .barinit f => [.s f.a]
  | .trigarm f => [.s f.thr, .s f.desc]
  | .trigcancel f => [.s f.a]
  | .moncfgConfigure f => [.s f.c]
  | .moncfgSnapshot f => [.s f.c]
  | .moncfgSnapshotClear f => [.s f.c]
  | .moncfgStop f => [.s f.c]
  | .tlbinv f => [.s f.a]
  | .tlbinvPart _ => []
  | .tlbinvPkg _ => []
  | .slotld f => [.s f.a]
  | .buddyset f => [.s f.a]
  | .mret => []
  | .wld _ => []
  | .wswap => []
  | .ast _ => []
  | .zclr _ => []
  | .zgrid _ => []
  | .zcvt _ => []
  | .mloop _ => []
  | .mend => []
  | .marrive _ => []
  | .mwait _ => []
  | .minc _ => []
  | .chordMulticast => []
  | .chordRestart => []
  | .joinTimeout => []
  | .chordJoinTimeout => []
  | .transferMature => []
  | .loopEnd => []
  | .syncGenerationComplete => []
  | .waitTimeout => []
  | .tagWaitTimeout => []
  | .takeRecord => []
  | .arrivalOverflowPush => []
  | .schedulerDispatch => []
  | .batchPush => []
  | .priorityAging => []
  | .skipLimit => []
  | .coreLeaveNode => []
  | .engineNodeComplete => []
  | .decrement => []
  | .failureNotice => []
  | .notifyRingWrite => []
  | .notifyAck => []
  | .corestartGo => []
  | .coreMapWrite => []
  | .preemptRequeue => []
  | .preemptPark => []
  | .preemptResume => []
  | .preemptStop => []
  | .drainTimeout => []
  | .imageSave => []
  | .imageRestore => []
  | .bteRelease => []
  | .handleFillClaim => []
  | .bteHandleTimeout => []
  | .bteCommandComplete => []
  | .arriveApply => []
  | .seCommandStart => []
  | .seCommandComplete => []
  | .streamEntryFetch => []
  | .streamEntryWrite => []
  | .pageWalk => []
  | .fabricWriteAtHome => []
  | .remoteBarrierIncrement => []
  | .putAcknowledge => []
  | .multicastMemberDelivery => []
  | .rgetReadAtHome => []
  | .rgetReply => []
  | .rgetvComplete => []
  | .combineRequest => []
  | .rfopAtHome => []
  | .combinedReplySplit => []
  | .rfopReply => []
  | .rvatomAtHome => []
  | .cruPartialForward => []
  | .contributionAtRoot => []
  | .roundTimeout => []
  | .roundEndMessage => []
  | .peerTimeout => []
  | .slotTableEffect => []
  | .monitorPeriodicSample => []
  | .uncorrectableError => []
  | .packageReset => []
  | .dieTableWrite => []
  | .windowTableWrite => []
  | .reductionWindowWrite => []
  | .rankMapWrite => []
  | .graphTableWrite => []
  | .contextTableWrite => []
  | .keyTableWrite => []
  | .sweepRekey => []
  | .deadPeerClear => []
  | .ownershipWrite => []
  | .pctlDefine => []
  | .functionLevelReset => []
  | .launch => []
  | .heartbeat => []
  | .heartbeatPeriodExpiry => []
  | .graceExpiry => []
  | .qnonceWrite => []
  | .extendWrite => []
  | .keyload => []
  | .efqPop => []
  | .monownWrite => []
  | .islctlWrite => []
  | .islandChangeDone => []
  | .pgctlDrain => []
  | .pgctlLoad => []
  | .firmwareLoadDone => []
  | .registerWrite => []
  | .btePieceWrite => []
  | .seRowOperation => []
  | .rgetvPieceLanding => []
  | .microopComplete => []
  | .targetLinesReady => []
  | .codeCopyComplete => []
  | .reportWritten => []

/-- The registers a syllable writes. -/
def regWrites : Instr → List RegName
  | .emptyBundle => []
  | .nop _ => []
  | .prep _ => []
  | .prepr _ => []
  | .trans _ => []
  | .loopImm _ => []
  | .loopReg _ => []
  | .sync _ => []
  | .syncj _ => []
  | .syncl _ => []
  | .join _ => []
  | .joinW _ => []
  | .detach _ => []
  | .smode _ => []
  | .spawn _ => []
  | .suspend _ => []
  | .yield _ => []
  | .halt _ => []
  | .trap _ => []
  | .tret _ => []
  | .add f => [.s f.d]
  | .sub f => [.s f.d]
  | .mul f => [.s f.d]
  | .mulh f => [.s f.d]
  | .div f => [.s f.d]
  | .rem f => [.s f.d]
  | .addi f => [.s f.d]
  | .addiWide f => [.s f.d]
  | .movi f => [.s f.d]
  | .moviWide f => [.s f.d]
  | .moviHi f => [.s f.d]
  | .and f => [.s f.d]
  | .or f => [.s f.d]
  | .xor f => [.s f.d]
  | .shl f => [.s f.d]
  | .shr f => [.s f.d]
  | .sar f => [.s f.d]
  | .min f => [.s f.d]
  | .max f => [.s f.d]
  | .umin f => [.s f.d]
  | .umax f => [.s f.d]
  | .clz f => [.s f.d]
  | .popc f => [.s f.d]
  | .sel f => [.s f.d]
  | .cmp f => [.p f.pd]
  | .cmpi f => [.p f.pd]
  | .cmpiWide f => [.p f.pd]
  | .andi f => [.s f.d]
  | .andiWide f => [.s f.d]
  | .ori f => [.s f.d]
  | .oriWide f => [.s f.d]
  | .xori f => [.s f.d]
  | .xoriWide f => [.s f.d]
  | .shli f => [.s f.d]
  | .shri f => [.s f.d]
  | .sari f => [.s f.d]
  | .fadd f => [.s f.d]
  | .faddWide f => [.s f.d]
  | .fmul f => [.s f.d]
  | .fmulWide f => [.s f.d]
  | .ffma f => [.s f.d]
  | .ffmaWide f => [.s f.d]
  | .fcvt f => [.s f.d]
  | .fcvtWide f => [.s f.d]
  | .csrr f => [.s f.r]
  | .csrw _ => []
  | .movm f => sel2 f.d (.m f.m) (.s f.s)
  | .ld f => [.s f.s] ++ baseWrites f.pi f.b
  | .ldWide f => [.s f.s] ++ baseWrites f.pi f.b
  | .st f => baseWrites f.pi f.b
  | .stWide f => baseWrites f.pi f.b
  | .ldf f => [.s f.s] ++ baseWrites f.pi f.b
  | .ldfWide f => [.s f.s] ++ baseWrites f.pi f.b
  | .lde f => [.s f.s] ++ baseWrites f.pi f.b
  | .ldeWide f => [.s f.s] ++ baseWrites f.pi f.b
  | .ste f => baseWrites f.pi f.b
  | .steWide f => baseWrites f.pi f.b
  | .tage _ => []
  | .tageWide _ => []
  | .tagf _ => []
  | .tagfWide _ => []
  | .vld f => [.v f.v] ++ baseWrites f.pi f.b
  | .vldWide f => [.v f.v] ++ baseWrites f.pi f.b
  | .vst f => baseWrites f.pi f.b
  | .vstWide f => baseWrites f.pi f.b
  | .vldx f => [.v f.v]
  | .vstx _ => []
  | .vadd f => [.v f.d]
  | .vaddWide f => [.v f.d]
  | .vsub f => [.v f.d]
  | .vsubWide f => [.v f.d]
  | .vmul f => [.v f.d]
  | .vmulWide f => [.v f.d]
  | .vmin f => [.v f.d]
  | .vminWide f => [.v f.d]
  | .vmax f => [.v f.d]
  | .vmaxWide f => [.v f.d]
  | .vand f => [.v f.d]
  | .vandWide f => [.v f.d]
  | .vor f => [.v f.d]
  | .vorWide f => [.v f.d]
  | .vxor f => [.v f.d]
  | .vxorWide f => [.v f.d]
  | .vshl f => [.v f.d]
  | .vshlWide f => [.v f.d]
  | .vshr f => [.v f.d]
  | .vshrWide f => [.v f.d]
  | .vsar f => [.v f.d]
  | .vsarWide f => [.v f.d]
  | .vcmp f => [.p f.pd]
  | .vsel f => [.v f.d]
  | .vselWide f => [.v f.d]
  | .vcvt f => [.v f.d]
  | .vcvtWide f => [.v f.d]
  | .vperm f => [.v f.d]
  | .vbcast f => [.v f.d]
  | .vaddF f => [.v f.d]
  | .vaddFWide f => [.v f.d]
  | .vsubF f => [.v f.d]
  | .vsubFWide f => [.v f.d]
  | .vmulF f => [.v f.d]
  | .vmulFWide f => [.v f.d]
  | .vfma f => [.v f.d]
  | .vfmaWide f => [.v f.d]
  | .vminF f => [.v f.d]
  | .vminFWide f => [.v f.d]
  | .vmaxF f => [.v f.d]
  | .vmaxFWide f => [.v f.d]
  | .vsum f => [.v f.d]
  | .vsumWide f => [.v f.d]
  | .vmaxr f => [.v f.d]
  | .vmaxrWide f => [.v f.d]
  | .vscan f => [.v f.d]
  | .vscanWide f => [.v f.d]
  | .vlane f => sel2 f.d (.s f.s) (.v f.v)
  | .vpopc f => [.s f.d]
  | .vcmpr f => [.v f.d, .v f.x]
  | .vhash f => [.v f.d]
  | .vhashWide f => [.v f.d]
  | .vvote f => [.p f.pd]
  | .vexp2 f => [.v f.d]
  | .vexp2Wide f => [.v f.d]
  | .vlog2 f => [.v f.d]
  | .vlog2Wide f => [.v f.d]
  | .vrcp f => [.v f.d]
  | .vrcpWide f => [.v f.d]
  | .vrsq f => [.v f.d]
  | .vrsqWide f => [.v f.d]
  | .pand f => [.p f.pd]
  | .por f => [.p f.pd]
  | .pxor f => [.p f.pd]
  | .pnot f => [.p f.pd]
  | .pset f => [.p f.pd]
  | .pmov f => sel3 f.sel (.p f.d) (.p f.d) (.s f.d)
  | .mxcall _ => []
  | .mxprog _ => []
  | .mxprogTab _ => []
  | .zrd f => [.v f.v]
  | .zwr _ => []
  | .mxstat f => [.s f.d]
  | .copy _ => []
  | .copyWide _ => []
  | .copy2d _ => []
  | .copy2dWide _ => []
  | .tmov _ => []
  | .tmovWide _ => []
  | .seop _ => []
  | .seopWide _ => []
  | .copyUnseal _ => []
  | .copyUnsealWide _ => []
  | .strcfg _ => []
  | .stron _ => []
  | .stroff _ => []
  | .bufrel _ => []
  | .rput _ => []
  | .rputWide _ => []
  | .rget _ => []
  | .rgetWide _ => []
  | .rgetv _ => []
  | .rgetvWide _ => []
  | .rfop _ => []
  | .rfopWide _ => []
  | .rfopIncw _ => []
  | .rfopBadd _ => []
  | .rfopCas _ => []
  | .rvatom _ => []
  | .rvatomWide _ => []
  | .rred _ => []
  | .rredWide _ => []
  | .rmcast _ => []
  | .rmcastWide _ => []
  | .fence _ => []
  | .arrive _ => []
  | .waitb _ => []
  | .waitbC _ => []
  | .waitbCWide _ => []
  | .waith _ => []
  | .barinit _ => []
  | .trigarm f => [.s f.d]
  | .trigcancel _ => []
  | .moncfgConfigure _ => []
  | .moncfgSnapshot _ => []
  | .moncfgSnapshotClear _ => []
  | .moncfgStop _ => []
  | .tlbinv _ => []
  | .tlbinvPart _ => []
  | .tlbinvPkg _ => []
  | .slotld _ => []
  | .buddyset f => [.s f.a]
  | .mret => []
  | .wld _ => []
  | .wswap => []
  | .ast _ => []
  | .zclr _ => []
  | .zgrid _ => []
  | .zcvt _ => []
  | .mloop _ => []
  | .mend => []
  | .marrive _ => []
  | .mwait _ => []
  | .minc _ => []
  | .chordMulticast => []
  | .chordRestart => []
  | .joinTimeout => []
  | .chordJoinTimeout => []
  | .transferMature => []
  | .loopEnd => []
  | .syncGenerationComplete => []
  | .waitTimeout => []
  | .tagWaitTimeout => []
  | .takeRecord => []
  | .arrivalOverflowPush => []
  | .schedulerDispatch => []
  | .batchPush => []
  | .priorityAging => []
  | .skipLimit => []
  | .coreLeaveNode => []
  | .engineNodeComplete => []
  | .decrement => []
  | .failureNotice => []
  | .notifyRingWrite => []
  | .notifyAck => []
  | .corestartGo => []
  | .coreMapWrite => []
  | .preemptRequeue => []
  | .preemptPark => []
  | .preemptResume => []
  | .preemptStop => []
  | .drainTimeout => []
  | .imageSave => []
  | .imageRestore => []
  | .bteRelease => []
  | .handleFillClaim => []
  | .bteHandleTimeout => []
  | .bteCommandComplete => []
  | .arriveApply => []
  | .seCommandStart => []
  | .seCommandComplete => []
  | .streamEntryFetch => []
  | .streamEntryWrite => []
  | .pageWalk => []
  | .fabricWriteAtHome => []
  | .remoteBarrierIncrement => []
  | .putAcknowledge => []
  | .multicastMemberDelivery => []
  | .rgetReadAtHome => []
  | .rgetReply => []
  | .rgetvComplete => []
  | .combineRequest => []
  | .rfopAtHome => []
  | .combinedReplySplit => []
  | .rfopReply => []
  | .rvatomAtHome => []
  | .cruPartialForward => []
  | .contributionAtRoot => []
  | .roundTimeout => []
  | .roundEndMessage => []
  | .peerTimeout => []
  | .slotTableEffect => []
  | .monitorPeriodicSample => []
  | .uncorrectableError => []
  | .packageReset => []
  | .dieTableWrite => []
  | .windowTableWrite => []
  | .reductionWindowWrite => []
  | .rankMapWrite => []
  | .graphTableWrite => []
  | .contextTableWrite => []
  | .keyTableWrite => []
  | .sweepRekey => []
  | .deadPeerClear => []
  | .ownershipWrite => []
  | .pctlDefine => []
  | .functionLevelReset => []
  | .launch => []
  | .heartbeat => []
  | .heartbeatPeriodExpiry => []
  | .graceExpiry => []
  | .qnonceWrite => []
  | .extendWrite => []
  | .keyload => []
  | .efqPop => []
  | .monownWrite => []
  | .islctlWrite => []
  | .islandChangeDone => []
  | .pgctlDrain => []
  | .pgctlLoad => []
  | .firmwareLoadDone => []
  | .registerWrite => []
  | .btePieceWrite => []
  | .seRowOperation => []
  | .rgetvPieceLanding => []
  | .microopComplete => []
  | .targetLinesReady => []
  | .codeCopyComplete => []
  | .reportWritten => []

/-- A register only context 0 has (R28, R119): v, m, and p8 to p31. -/
def ctx0Only : RegName → Bool
  | .v _ => true
  | .m _ => true
  | .p n => decide (8 ≤ n)
  | .s _ => false
  | .push _ => false
  | .flagsOnly => false

/-! ### Streams (R288 to R292) -/

/-- Number of elements of the walk (R288). -/
def Walk.count (w : Walk) : Nat := w.c0 * w.c1 * w.c2
/-- Element size in bytes. -/
def Walk.size (w : Walk) : Nat := 2 ^ w.esz
/-- Entries of 256 bytes. -/
def Walk.entries (w : Walk) : Nat := (w.count * w.size + 255) / 256
/-- The address of element n (R288). -/
def Walk.addr (w : Walk) (n : Nat) : Int :=
  w.base + (n % w.c0 : Nat) * w.s0 + (n / w.c0 % w.c1 : Nat) * w.s1 + (n / w.c0 / w.c1 : Nat) * w.s2
/-- The stream engine k of a core. -/
def Core.stream (k : Core) (n : Nat) : Stream := Tab.get Stream.reset k.streams n
/-- Change a stream engine. -/
def State.modStream (s : State) (c n : Nat) (f : Stream → Stream) : State :=
  s.modCore c fun k => { k with streams := Tab.upd Stream.reset k.streams n f }
/-- The register names a bound stream (R128). -/
def Core.bound (k : Core) (n : Nat) : Bool := decide (56 ≤ n) && (k.stream (n - 56)).bound
/-- Entries of the stream's walk; an unconfigured stream is empty (R290). -/
def Stream.entries (t : Stream) : Nat := match t.walk with
  | none => 0
  | some w => w.entries
/-- The stream writes memory. -/
def Stream.writes (t : Stream) : Bool := match t.walk with
  | none => false
  | some w => w.write
/-- One pop (R291): the entry and the state after; waits while none is fetched and the walk has not ended. -/
def State.pop (s : State) (n : Nat) : State × VecWord :=
  let t := (s.core s.iss.core).stream n
  if t.writes then (s.modStream s.iss.core n fun t => { t with mis := true }, 0)
  else match t.fetched with
    | e :: l => (s.modStream s.iss.core n fun t => { t with fetched := l, pos := t.pos + 1 }, e)
    | [] =>
      if t.entries ≤ t.pos then (s.modStream s.iss.core n fun t => { t with exh := true }, 0)
      else (s.await (32 + n) waitTimeout 0 (some (s.waitLimit s.iss.core)), 0)
/-- The vector operands of one syllable: a bound register is popped once, however many fields name it (R158). -/
def State.vecOperands (s : State) : List Nat → State × List (Nat × VecWord)
  | [] => (s, [])
  | n :: l =>
    let r := State.vecOperands s l
    if (Tab.find r.2 n).isSome then r
    else if (s.core s.iss.core).bound n then
      let p := r.1.pop (n - 56)
      (p.1, (n, p.2) :: r.2)
    else (r.1, (n, s.readVReg n) :: r.2)
/-- The value of an operand field among those read. -/
def vecVal (l : List (Nat × VecWord)) (n : Nat) : VecWord := Tab.get 0 l n
/-- A push of the slot being executed goes in flight (R217, R291): it has its place among the context's operations from its
issue on (R259). -/
def State.pushStream (s : State) (k : Nat) (v : VecWord) (mask : BitVec 64) (flags : BitVec 5) (lat : Nat) : State :=
  let x := s.iss.ctx
  let after := (s.ctx s.iss.core x).dep.fence
  let o := s.newOp
  o.2.modCtx s.iss.core x fun q =>
    { q with inflight := q.inflight ++ [⟨.push k, v, mask, flags, lat, s.iss.slot, q.run.issued, none, some (o.1, after)⟩]
             dep := { q.dep with ops := o.1 :: q.dep.ops } }
/-- A vector result: into the register, or pushed to the stream bound to its name (R128); a push waits at issue while 8
entries remain unwritten, and one that finds them so as it becomes visible waits there (R291; log entry 102). -/
def State.pushV (s : State) (n : Nat) (v : VecWord) (mask : BitVec 64) (flags : BitVec 5) (lat : Nat) : State :=
  let k := s.core s.iss.core
  if k.bound n then
    let t := k.stream (n - 56)
    let s := if t.writes && decide (8 ≤ t.unwritten.length) then
        s.await (40 + (n - 56)) waitTimeout 0 (some (s.waitLimit s.iss.core)) else s
    s.pushStream (n - 56) v mask flags lat
  else s.pushResult (.v n) v mask flags lat
/-- The operation of a push that lands: its own, or a new one for a push that a restored image holds without (R382). -/
def State.pushOp (s : State) (r : Result) : Nat × State :=
  let i := (r.push.getD (0, [])).1
  if i = 0 then s.newOp else (i, s)
/-- A pushed result reaches its stream (R291): disabled lanes come from the register's kept contents (R217); what lies
beyond the walk is discarded with OVR; a push to a read stream is discarded with MIS. -/
def State.streamPush (s : State) (c n : Nat) (r : Result) : State :=
  let k := s.core c
  let t := k.stream n
  let x := s.pushOp r
  let s := x.2
  if !t.writes then (s.modStream c n fun t => { t with mis := true }).endOp x.1
  else if t.entries ≤ t.pos then (s.modStream c n fun t => { t with ovr := true }).endOp x.1
  else
    let data := mergeLanes (Tab.get 0 k.v (56 + n)) r.val r.mask
    let e : StreamEntry := ⟨t.pos, data, x.1, t.after ++ (r.push.getD (0, [])).2⟩
    let s := s.modStream c n fun t => { t with unwritten := t.unwritten ++ [e], pos := t.pos + 1 }
    s.modStream c n fun t => match t.walk with
      | none => t
      | some w => if w.count * w.size < 256 * t.pos then { t with ovr := true } else t
/-- The stream that a result is pushed to. -/
def RegName.stream? : RegName → Option Nat
  | .push n => some n
  | .s _ => none
  | .p _ => none
  | .v _ => none
  | .m _ => none
  | .flagsOnly => none
/-- The stream has room for another entry after n more: its buffer holds eight (R270, R291); what goes beyond the walk takes
none. -/
def Stream.room (t : Stream) (n : Nat) : Bool :=
  !t.writes || decide (t.entries ≤ t.pos + n) || decide (t.unwritten.length + n < 8)
/-- A result's push finds room in its stream after those of a list. -/
def Core.roomFor (k : Core) (l : List Result) (r : Result) : Bool :=
  r.reg.stream?.elim true fun n => (k.stream n).room (l.countP fun q => q.reg == r.reg)
/-- A result's push reaches its stream. -/
def State.pushResultOut (s : State) (c : Nat) (r : Result) : State := r.reg.stream?.elim s fun n => s.streamPush c n r
/-- Results of STRAND mode become visible, those pushed reach their streams, and arrivals are due (R26, R95, R217). -/
def State.visible (s : State) (c x : Nat) (l : List Result) : State :=
  let s := (s.mature c x l false).dueArrivals c l
  (sortResults l).foldl (fun s r => s.pushResultOut c r) s

/-- What a register of a context holds. -/
def Core.regVal (k : Core) (x : Nat) : RegName → VecWord
  | .s n => ((k.ctx x).readS n).setWidth 2048
  | .p n => (((k.ctx x).readP n).bits).setWidth 2048
  | .v n => Tab.get 0 k.v n
  | .m n => (Tab.get 0 k.m n).setWidth 2048
  | .push _ => 0
  | .flagsOnly => 0
/-- What becomes visible at a boundary, with what its registers and WCOLL held before and the FPFLAGS bits it sets. -/
def Core.recentOf (k : Core) (x : Nat) (l : List Result) : Recent :=
  ⟨l, (l.filter fun r => writesReg r.reg).map fun r => (r.reg, k.regVal x r.reg),
   (l.map (·.flags)).foldl (· ||| ·) 0 &&& ~~~(k.ctx x).csr.flags, (k.ctx x).csr.wcoll⟩
/-- What becomes visible at one boundary in two parts: what stood before is what stood before the first. -/
def Recent.join (a b : Recent) : Recent := ⟨a.results ++ b.results, b.regs ++ a.regs, a.flags ||| b.flags, a.wcoll⟩
/-- In an exposed mode the results of a context whose count is 0 become visible; their pushes and arrivals come at
`Turn.land`, unless the next bundle traps (R374). -/
def State.matureNow (s : State) (c x : Nat) : State :=
  let t := s.ctx c x
  let due := t.inflight.filter fun r => r.rem == 0
  let new := (s.core c).recentOf x due
  let was := if due.isEmpty then t.recent else some (t.recent.elim new fun r => r.join new)
  (s.modCtx c x fun k => { k with inflight := t.inflight.filter fun r => r.rem != 0, recent := was }).mature c x due true
/-- A boundary of the exposed modes (R25): every result one nearer, those at 0 visible. -/
def State.tickExposed (s : State) (c x : Nat) : State :=
  (s.modCtx c x fun k => { k with inflight := countDown k.inflight, recent := none }).matureNow c x
/-- What remains to be undone of a boundary once a result's push or arrival is made. -/
def Recent.landed (q : Recent) (r : Result) : Recent :=
  if r.push.isSome then { q with results := q.results.filter (· != r), flags := q.flags &&& ~~~r.flags }
  else { q with results := q.results.map fun e => if e = r then { e with arrive := none } else e }
/-- A result's push and arrival are made, where its stream has room. -/
def State.landOne (s : State) (c x : Nat) (r : Result) : State :=
  if (s.core c).roomFor [] r then
    (((s.modCtx c x fun k => { k with recent := k.recent.map fun q => q.landed r }).dueArrivals c [r]).pushResultOut c r)
  else s
/-- The pushes and arrivals of the last boundary are made, in the order of R139 (R95, R217); a push that finds its stream
full, and its arrival, are put off (R291). -/
def State.landAll (s : State) (c x : Nat) : State :=
  (sortResults (s.ctx c x).unlanded).foldl (fun s r => s.landOne c x r) s
/-- In STRAND mode a due result waits for earlier writes of its register, and a push for room in its stream (R26, R291): split
into due and kept. -/
def strandDue (k : Core) : List Result → List Result × List Result
  | l => l.foldl (fun acc r =>
      if r.rem == 0 && k.roomFor acc.1 r && !(acc.2.any fun q => q.reg == r.reg) then (acc.1 ++ [r], acc.2)
      else (acc.1, acc.2 ++ [r])) ([], [])
/-- A cycle of STRAND mode (R26): every result one cycle nearer, those due visible in program order. -/
def State.tickStrand (s : State) (c x : Nat) : State :=
  let d := strandDue (s.core c) (countDown (s.ctx c x).inflight)
  (s.modCtx c x fun k => { k with inflight := d.2 }).visible c x d.1

/-! ### Engine addresses (R202) -/

/-- The space code. -/
def spaceOf (a : Nat) : Nat := a / 2 ^ 60 % 16
/-- The low 48 bits. -/
def off48 (a : Nat) : Nat := a % 2 ^ 48
/-- The window id of an FW address. -/
def windowOf (a : Nat) : Nat := a / 2 ^ 48 % 1024

end Sys2Proof.Machine
end

