-- ==== Sys2Proof/Machine/Csr.lean ====
section
/-! DEFINITION. The control and status registers (R69, R70, R129 to R137): what a read gives, what a write does at the
bundle boundary, and CORE_MAP (R10, R11, R20). -/

namespace Sys2Proof.Machine

/-- A tile is named by a queued call (R230). -/
def Matrix.owns (m : Matrix) (t : Nat) : Bool := m.calls.any fun c => c.owned.contains t
/-- Weighted sum of the flags of a list of bits, bit 0 first. -/
def bitsNat : List Bool → Nat
  | [] => 0
  | b :: l => (if b then 1 else 0) + 2 * bitsNat l
/-- The MXSTAT summary word (R246). -/
def Core.mxSummary (k : Core) : Word :=
  let m := k.mx
  BitVec.ofNat 64 (m.fseq * 2 ^ 40 + m.fcode * 2 ^ 36 + bitsNat ((List.range 12).map m.owns) * 2 ^ 24 + m.next * 2 ^ 16
    + (m.calls.head?.elim 0 (·.rout)) * 2 ^ 10 + (if m.active.valid then 128 else 0) + (if m.shadow.valid then 64 else 0)
    + m.calls.length * 8)
/-- LOOPn (R136). -/
def LoopReg.word (l : LoopReg) : Word := BitVec.ofNat 64 ((if l.active then 2 ^ 63 else 0) + l.le * 2 ^ 24 + l.ls)
/-- TSTAT (R133). -/
def CtxCsr.tstat (c : CtxCsr) : Word :=
  BitVec.ofNat 64 ((if c.ppl then 128 else 0) + (if c.tcoll then 2 else 0) + (if c.wcoll then 1 else 0))
/-- TBSTAT (R135). -/
def Ctx.tbstat (k : Ctx) : Nat := ((List.range 8).map fun n => (Tab.get TReg.reset k.tb n).state * 4 ^ n).foldl (· + ·) 0
/-- CHORD_DRIFT (R32, R135): the bundles multicast and not yet issued; the one being issued has issued (log entry 22). -/
def Core.driftWord (k : Core) : Nat :=
  if k.ident.mode = 0 then 32 + (k.fetch.queue.length - (if k.stat.handler then 0 else 1)) else 0

/-- The register's value (R129). -/
def csrValue (s : State) (c x n : Nat) : Word :=
  let k := s.core c
  let t := k.ctx x
  match n with
  | 0x000 => BitVec.ofNat 64 (s.time (pkgOf c))
  | 0x001 => BitVec.ofNat 64 (k.ident.mode + (if k.ident.pl then 256 else 0))
  | 0x002 => BitVec.ofNat 64 (x + t.csr.group * 256 + t.csr.pri * 65536)
  | 0x003 => BitVec.ofNat 64 k.ident.lcore
  | 0x004 => BitVec.ofNat 64 k.ident.lcluster
  | 0x005 => BitVec.ofNat 64 k.ident.node
  | 0x006 => BitVec.ofNat 64 k.ident.part
  | 0x010 => t.csr.rm.setWidth 64
  | 0x011 => t.csr.flags.setWidth 64
  | 0x018 => t.csr.tstat
  | 0x020 => BitVec.ofNat 64 (k.csr.barbase * 512)
  | 0x028 => BitVec.ofNat 64 k.driftWord
  | 0x029 => BitVec.ofNat 64 t.tbstat
  | 0x02A => k.mxSummary
  | 0x02B => BitVec.ofNat 64 (bitsNat ((List.range 8).map fun n => (k.stream n).bound))
  | 0x030 => t.l0.word
  | 0x031 => BitVec.ofNat 64 t.l0.lc
  | 0x032 => t.l1.word
  | 0x033 => BitVec.ofNat 64 t.l1.lc
  | 0x800 => BitVec.ofNat 64 (s.physCore c)
  | 0x801 => BitVec.ofNat 64 k.csr.tvec
  | 0x802 => BitVec.ofNat 64 t.csr.tpc
  | 0x803 => BitVec.ofNat 64 t.csr.tcause
  | 0x804 => t.csr.tval
  | 0x810 => BitVec.ofNat 64 k.csr.taglimit
  | 0x811 => BitVec.ofNat 64 k.csr.joinlimit
  | 0x812 => BitVec.ofNat 64 k.csr.waitlimit
  | 0x820 => (s.cluster (clusterOf c)).coreMap
  | _ => 0
/-- What CSRR returns: a P-view register reads 0 at level U (R5, R129). -/
def csrRead (s : State) (c x n : Nat) : Word :=
  if 0x800 ≤ n ∧ !(s.core c).ident.pl then 0 else csrValue s c x n

/-- The eight LMAP fields (R10). -/
def lmap (v : Nat) : List Nat := (List.range 8).map fun i => bits v (4 * i) 4
/-- A list without repeats. -/
def distinct : List Nat → Bool
  | [] => true
  | a :: l => !l.contains a && distinct l
/-- The written LMAP and FAILED fields are acceptable (R11). -/
def coreMapOk (v : Nat) : Bool :=
  distinct (lmap v) && (lmap v).all (fun p => decide (p ≤ 8) && bits v (32 + p) 1 == 0)
/-- The logical cores of a cluster. -/
def coresOf (cl : Nat) : List Nat := (List.range 8).map fun i => cl * 8 + i
/-- A core and its SPM, tags and accumulators enter their reset state (R20, R193). -/
def State.resetCore (s : State) (c : Nat) : State :=
  let s := { s with mem := s.mem.zero (spmAddr c 0) (2 ^ 20), tags := s.tags.filter fun t => t / 131072 != c }
  s.modCore c fun _ => Core.reset
/-- A write to CORE_MAP (R11, R20): refused while a core of the cluster belongs to a placed node, or for a bad map; a
moved logical core enters its reset state. -/
def State.writeCoreMap (s : State) (cl : Nat) (v : Nat) : State :=
  let old := (s.cluster cl).coreMap.toNat
  if (coresOf cl).any (fun c => (s.core c).ident.placed) || !coreMapOk v then
    s.modCluster cl fun k => { k with coreMap := BitVec.ofNat 64 (old % 2 ^ 62 + bits old 63 1 * 2 ^ 63 + 2 ^ 62) }
  else
    let s := s.modCluster cl fun k =>
      { k with coreMap := BitVec.ofNat 64 (bits old 63 1 * 2 ^ 63 + v % 2 ^ 41) }
    ((List.range 8).filter fun i => bits old (4 * i) 4 != bits v (4 * i) 4).foldl (fun s i => s.resetCore (cl * 8 + i)) s

/-- A CSR write takes effect (R3, R4, R129 to R137). TPC keeps bit 0 as written: R129 gives it bits 23:0, and no rule
speaks of an odd TPC (DEDUCED, log entry 91). -/
def State.writeCsr (s : State) (c x n : Nat) (v : Word) : State :=
  let w := v.toNat
  let ctx (f : CtxCsr → CtxCsr) : State := s.modCtx c x fun k => { k with csr := f k.csr }
  let core (f : CoreCsr → CoreCsr) : State := s.modCore c fun k => { k with csr := f k.csr }
  match n with
  | 0x002 => ctx fun k => { k with group := bits w 8 8, pri := bits w 16 1 }
  | 0x010 => ctx fun k => { k with rm := v.setWidth 2 }
  | 0x011 => ctx fun k => { k with flags := v.setWidth 5 }
  | 0x018 => ctx fun k => { k with wcoll := k.wcoll && bits w 0 1 == 0, tcoll := k.tcoll && bits w 1 1 == 0 }
  | 0x020 => core fun k => { k with barbase := bits w 9 11 }
  | 0x801 => core fun k => { k with tvec := bits w 1 23 * 2 }
  | 0x802 => ctx fun k => { k with tpc := bits w 0 24 }
  | 0x803 => ctx fun k => { k with tcause := bits w 0 12 }
  | 0x804 => ctx fun k => { k with tval := v }
  | 0x810 => core fun k => { k with taglimit := bits w 0 32 }
  | 0x811 => core fun k => { k with joinlimit := bits w 0 32 }
  | 0x812 => core fun k => { k with waitlimit := bits w 0 32 }
  | 0x820 => s.writeCoreMap (clusterOf c) w
  | _ => s

/-- The index after the MEND that matches an MLOOP: n MENDs are still to be found. -/
def afterMend : Nat → Nat → List Word → Nat
  | _, i, [] => i
  | n, i, w :: l =>
    if bits w.toNat 58 6 = 7 then afterMend (n + 1) (i + 1) l
    else if bits w.toNat 58 6 = 8 then (if n = 0 then i + 1 else afterMend (n - 1) (i + 1) l)
    else afterMend n (i + 1) l
/-- A routine comes to a MARRIVE (code 9, R226) from an index on, with its loops and registers as they stand then: followed as
the sequencer runs it (R236), for at most so many micro-operations; one that has come to none by then may still (log entry
103). -/
def arrivesFrom (words : List Word) : Nat → Nat → List (Nat × Nat) → (Tab Word) → Bool
  | 0, _, _, _ => true
  | n + 1, i, loops, q =>
    let w := (words.getD i 0).toNat
    let reg := fun (r : Nat) => Tab.get 0 q r
    if words.length ≤ i then false
    else match bits w 58 6 with
      | 0 => false
      | 9 => true
      | 7 =>
        let count := if bits w 57 1 = 1 then (reg (bits w 54 3)).toNat % 2 ^ 32 else w % 2 ^ 16
        if count = 0 then arrivesFrom words n (afterMend 0 (i + 1) (words.drop (i + 1))) loops q
        else arrivesFrom words n (i + 1) ((i + 1, count) :: loops) q
      | 8 => match loops with
        | [] => arrivesFrom words n (i + 1) [] q
        | (b, m) :: l => if 1 < m then arrivesFrom words n b ((b, m - 1) :: l) q else arrivesFrom words n (i + 1) l q
      | 11 => arrivesFrom words n (i + 1) loops (Tab.set q (bits w 54 3) (reg (bits w 54 3) + sx 32 (w % 2 ^ 32)))
      | _ => arrivesFrom words n (i + 1) loops q
/-- The call has a MARRIVE still to come (R134). -/
def Call.mayArrive (k : Call) : Bool :=
  k.words.any (fun w => bits w.toNat 58 6 == 9) && arrivesFrom k.words 4096 k.idx k.loops k.q
/-- A fabric operation's arrivals, on the barrier of its core or of a home that it is delivered to, are outstanding. -/
def Fop.arrives (f : Fop) : Bool := f.bar.isSome || f.dlv.any fun d => d.bar.isSome && !d.counted
/-- A barrier arrival of an operation this core issued is outstanding, or a trigger is armed (R134). -/
def State.arrivalsOutstanding (s : State) (c : Nat) : Bool :=
  let k := s.core c
  let b := (s.cluster (clusterOf c)).bte
  !k.trig.isEmpty || !k.arrives.isEmpty || k.mx.calls.any Call.mayArrive
    || k.ctxs.any (fun t => (t.2.unlanded ++ t.2.inflight).any fun r => r.arrive.isSome)
    || s.net.fops.any (fun e => e.2.by_.core == some c && e.2.arrives)
    || (b.coming ++ b.buffer ++ b.slots.map (·.2)).any (fun m => m.by_.core == some c && m.bar.isSome)
    || (s.die (dieOf c)).se.any (fun m => m.by_.core == some c && m.bar.isSome)

end Sys2Proof.Machine
end

