-- ==== Sys2Proof/Machine/Scalar.lean ====
section
/-! DEFINITION. The scalar instructions (spec/06_scalar.md): class S. A result goes in flight with the latency of R138. -/

namespace Sys2Proof.Machine

/-- What every meaning answers. -/
abbrev Out := Host.Outcome State Fault Refusal

/-- A guarded scalar operation that writes register d with a latency (R138, R141). -/
def scalarOp (s : State) (g d lat : Nat) (v : State → Word) : Out :=
  .next (s.guarded g fun s => s.pushS d (v s) 0 lat)
/-- A guarded operation of format SR on both operands. -/
def scalarBin (s : State) (f : FmtSR) (lat : Nat) (op : Word → Word → Word) : Out :=
  scalarOp s f.g f.d lat fun s => op (s.readS f.a) (s.readS f.b)
/-- A guarded operation with an immediate. -/
def scalarImm (s : State) (g d a : Nat) (imm : Word) (op : Word → Word → Word) : Out :=
  scalarOp s g d 1 fun s => op (s.readS a) imm

/-- Signed 128-bit product's upper half (R142). -/
def mulhSigned (a b : Word) : Word := BitVec.ofInt 64 (a.toInt * b.toInt / 2 ^ 64)
/-- Unsigned 128-bit product's upper half (R142). -/
def mulhUnsigned (a b : Word) : Word := BitVec.ofNat 64 (a.toNat * b.toNat / 2 ^ 64)
/-- The quotient by R62: all ones for a divisor of 0; signed quotients truncate towards zero. -/
def divide (unsigned : Bool) (a b : Word) : Word :=
  if b = 0 then BitVec.allOnes 64
  else if unsigned then BitVec.ofNat 64 (a.toNat / b.toNat)
  else BitVec.ofInt 64 (Int.tdiv a.toInt b.toInt)
/-- The remainder by R62: the dividend for a divisor of 0, the sign of the dividend otherwise. -/
def remainder (unsigned : Bool) (a b : Word) : Word :=
  if b = 0 then a
  else if unsigned then BitVec.ofNat 64 (a.toNat % b.toNat)
  else BitVec.ofInt 64 (Int.tmod a.toInt b.toInt)
/-- The shift count: bits 5:0 (R63). -/
def shiftCount (b : Word) : Nat := b.toNat % 64
/-- Number of leading zeros (R142). -/
def clz (a : Word) : Word := BitVec.ofNat 64 (64 - bitLen a.toNat)
/-- Number of one bits (R142). -/
def popc (a : BitVec 64) : Word := BitVec.ofNat 64 ((List.range 64).countP fun i => a.getLsbD i)

/-- ADD (R142). -/
def execAdd (f : FmtSR) (s : State) : Out := scalarBin s f 1 fun a b => a + b
/-- SUB (R142). -/
def execSub (f : FmtSR) (s : State) : Out := scalarBin s f 1 fun a b => a - b
/-- MUL (R142). -/
def execMul (f : FmtSR) (s : State) : Out := scalarBin s f 3 fun a b => a * b
/-- MULH (R142). -/
def execMulh (f : FmtSRU) (s : State) : Out :=
  scalarOp s f.g f.d 3 fun s =>
    if f.u = 0 then mulhSigned (s.readS f.a) (s.readS f.b) else mulhUnsigned (s.readS f.a) (s.readS f.b)
/-- DIV (R142, R62). -/
def execDiv (f : FmtSRU) (s : State) : Out :=
  scalarOp s f.g f.d 16 fun s => divide (f.u != 0) (s.readS f.a) (s.readS f.b)
/-- REM (R142, R62). -/
def execRem (f : FmtSRU) (s : State) : Out :=
  scalarOp s f.g f.d 16 fun s => remainder (f.u != 0) (s.readS f.a) (s.readS f.b)
/-- AND (R142). -/
def execAnd (f : FmtSR) (s : State) : Out := scalarBin s f 1 fun a b => a &&& b
/-- OR (R142). -/
def execOr (f : FmtSR) (s : State) : Out := scalarBin s f 1 fun a b => a ||| b
/-- XOR (R142). -/
def execXor (f : FmtSR) (s : State) : Out := scalarBin s f 1 fun a b => a ^^^ b
/-- SHL (R142, R63). -/
def execShl (f : FmtSR) (s : State) : Out := scalarBin s f 1 fun a b => a <<< shiftCount b
/-- SHR (R142, R63). -/
def execShr (f : FmtSR) (s : State) : Out := scalarBin s f 1 fun a b => a >>> shiftCount b
/-- SAR (R142, R63). -/
def execSar (f : FmtSR) (s : State) : Out := scalarBin s f 1 fun a b => a.sshiftRight (shiftCount b)
/-- MIN (R142): both read as I64. -/
def execMin (f : FmtSR) (s : State) : Out := scalarBin s f 1 fun a b => if a.toInt ≤ b.toInt then a else b
/-- MAX (R142). -/
def execMax (f : FmtSR) (s : State) : Out := scalarBin s f 1 fun a b => if a.toInt ≤ b.toInt then b else a
/-- UMIN (R142): both read as U64. -/
def execUmin (f : FmtSR) (s : State) : Out := scalarBin s f 1 fun a b => if a.toNat ≤ b.toNat then a else b
/-- UMAX (R142). -/
def execUmax (f : FmtSR) (s : State) : Out := scalarBin s f 1 fun a b => if a.toNat ≤ b.toNat then b else a
/-- CLZ (R142). -/
def execClz (f : FmtS1) (s : State) : Out := scalarOp s f.g f.d 1 fun s => clz (s.readS f.a)
/-- POPC (R142). -/
def execPopc (f : FmtS1) (s : State) : Out := scalarOp s f.g f.d 1 fun s => popc (s.readS f.a)

/-- ADDI (R143). -/
def execAddi (f : FmtSI) (s : State) : Out := scalarImm s f.g f.d f.a (sx 12 f.i) fun a b => a + b
/-- ADDI, wide (R143). -/
def execAddiWide (f : FmtSIW) (s : State) : Out := scalarImm s f.g f.d f.a (sx 32 f.i) fun a b => a + b
/-- ANDI (R143). -/
def execAndi (f : FmtSI) (s : State) : Out := scalarImm s f.g f.d f.a (sx 12 f.i) fun a b => a &&& b
/-- ANDI, wide (R143). -/
def execAndiWide (f : FmtSIW) (s : State) : Out := scalarImm s f.g f.d f.a (sx 32 f.i) fun a b => a &&& b
/-- ORI (R143). -/
def execOri (f : FmtSI) (s : State) : Out := scalarImm s f.g f.d f.a (sx 12 f.i) fun a b => a ||| b
/-- ORI, wide (R143). -/
def execOriWide (f : FmtSIW) (s : State) : Out := scalarImm s f.g f.d f.a (sx 32 f.i) fun a b => a ||| b
/-- XORI (R143). -/
def execXori (f : FmtSI) (s : State) : Out := scalarImm s f.g f.d f.a (sx 12 f.i) fun a b => a ^^^ b
/-- XORI, wide (R143). -/
def execXoriWide (f : FmtSIW) (s : State) : Out := scalarImm s f.g f.d f.a (sx 32 f.i) fun a b => a ^^^ b
/-- SHLI (R144). -/
def execShli (f : FmtSH) (s : State) : Out := scalarOp s f.g f.d 1 fun s => s.readS f.a <<< f.n
/-- SHRI (R144). -/
def execShri (f : FmtSH) (s : State) : Out := scalarOp s f.g f.d 1 fun s => s.readS f.a >>> f.n
/-- SARI (R144). -/
def execSari (f : FmtSH) (s : State) : Out := scalarOp s f.g f.d 1 fun s => (s.readS f.a).sshiftRight f.n
/-- MOVI (R145). -/
def execMovi (f : FmtSL) (s : State) : Out := scalarOp s f.g f.d 1 fun _ => sx 17 f.i
/-- MOVI, wide with H = 0 or 1 (R145). -/
def execMoviWide (f : FmtSLW) (s : State) : Out :=
  scalarOp s f.g f.d 1 fun _ => if f.h = 0 then sx 32 f.i else BitVec.ofNat 64 (f.i % 2 ^ 32)
/-- MOVI with H = 2 (R145): the upper word is written, the lower kept as read at issue. -/
def execMoviHi (f : FmtSLH) (s : State) : Out :=
  scalarOp s f.g f.d 1 fun s => BitVec.ofNat 64 (f.i % 2 ^ 32 * 2 ^ 32 + (s.readS f.d).toNat % 2 ^ 32)
/-- SEL (R147). -/
def execSel (f : FmtSS) (s : State) : Out :=
  scalarOp s f.g f.d 1 fun s => if (s.readP f.p).bits.getLsbD 0 then s.readS f.a else s.readS f.b

/-- An integer condition (R148). -/
def condInt (cond : Nat) (a b : Word) : Bool :=
  match cond with
  | 0 => a == b
  | 1 => a != b
  | 2 => decide (a.toInt < b.toInt)
  | 3 => decide (b.toInt ≤ a.toInt)
  | 4 => decide (a.toNat < b.toNat)
  | 5 => decide (b.toNat ≤ a.toNat)
  | 6 => decide (b.toInt < a.toInt)
  | 7 => decide (a.toInt ≤ b.toInt)
  | 8 => decide (b.toNat < a.toNat)
  | 9 => decide (a.toNat ≤ b.toNat)
  | _ => false
/-- A floating-point condition (R148, R74). -/
def condFp (cond : Nat) (a b : FpVal) : Bool :=
  match fpCompare a b with
  | none => cond == 1 || cond == 10
  | some c =>
    match cond with
    | 0 => c == 0
    | 1 => c != 0
    | 2 => decide (c < 0)
    | 3 => decide (0 ≤ c)
    | 6 => decide (0 < c)
    | 7 => decide (c ≤ 0)
    | _ => false
/-- One bit in all 64. -/
def allBits (b : Bool) : BitVec 64 := if b then BitVec.allOnes 64 else 0
/-- CMP (R148, R149). -/
def execCmp (f : FmtSC) (s : State) : Out :=
  .next (s.guarded f.g fun s =>
    let a := s.readS f.a
    let b := s.readS f.b
    if f.f = 0 then s.pushP f.pd (allBits (condInt f.cond a b)) 0 1
    else
      let x := fp32.value (f.fzi != 0) (a.toNat % 2 ^ 32)
      let y := fp32.value (f.fzi != 0) (b.toNat % 2 ^ 32)
      s.pushP f.pd (allBits (condFp f.cond x y)) (x.nv ||| y.nv) 1)
/-- CMPI (R148). -/
def execCmpi (f : FmtSK) (s : State) : Out :=
  .next (s.guarded f.g fun s => s.pushP f.pd (allBits (condInt f.cond (s.readS f.a) (sx 8 f.i))) 0 1)
/-- CMPI, wide (R148). -/
def execCmpiWide (f : FmtSKW) (s : State) : Out :=
  .next (s.guarded f.g fun s => s.pushP f.pd (allBits (condInt f.cond (s.readS f.a) (sx 32 f.i))) 0 1)

/-- The rounding mode: the override when it is not 0, else FPCTL.RM (R68, R102). -/
def State.roundMode (s : State) (rmo : Nat) : Nat :=
  if rmo = 0 then (s.ctx s.iss.core s.iss.ctx).csr.rm.toNat else rmo - 4
/-- A scalar operand in a floating-point type (R150). -/
def State.fpS (s : State) (t fzi n : Nat) : FpVal := (fpOfT t).value (fzi != 0) (s.readS n).toNat
/-- A scalar floating-point result (R150). -/
def State.pushFp (s : State) (d : Nat) (r : Nat × BitVec 5) : State := s.pushS d (BitVec.ofNat 64 r.1) r.2 4
/-- FADD (R150). -/
def execFadd (f : FmtSF) (s : State) : Out :=
  .next (s.guarded f.g fun s =>
    s.pushFp f.d ((fpOfT f.t).add (s.roundMode 0) (f.fzo != 0) (s.fpS f.t f.fzi f.a) (s.fpS f.t f.fzi f.b)))
/-- FADD, wide (R150). -/
def execFaddWide (f : FmtSFW) (s : State) : Out :=
  .next (s.guarded f.g fun s =>
    s.pushFp f.d ((fpOfT f.t).add (s.roundMode f.rmo) (f.fzo != 0) (s.fpS f.t f.fzi f.a) (s.fpS f.t f.fzi f.b)))
/-- FMUL (R150). -/
def execFmul (f : FmtSF) (s : State) : Out :=
  .next (s.guarded f.g fun s =>
    s.pushFp f.d ((fpOfT f.t).mul (s.roundMode 0) (f.fzo != 0) (s.fpS f.t f.fzi f.a) (s.fpS f.t f.fzi f.b)))
/-- FMUL, wide (R150). -/
def execFmulWide (f : FmtSFW) (s : State) : Out :=
  .next (s.guarded f.g fun s =>
    s.pushFp f.d ((fpOfT f.t).mul (s.roundMode f.rmo) (f.fzo != 0) (s.fpS f.t f.fzi f.a) (s.fpS f.t f.fzi f.b)))
/-- FFMA, short: the addend is sd as read at issue (R150). -/
def execFfma (f : FmtSF) (s : State) : Out :=
  .next (s.guarded f.g fun s =>
    s.pushFp f.d ((fpOfT f.t).fma (s.roundMode 0) (f.fzo != 0) (s.fpS f.t f.fzi f.a) (s.fpS f.t f.fzi f.b)
      (s.fpS f.t f.fzi f.d)))
/-- FFMA, wide: the addend is sc (R150). -/
def execFfmaWide (f : FmtSFW) (s : State) : Out :=
  .next (s.guarded f.g fun s =>
    s.pushFp f.d ((fpOfT f.t).fma (s.roundMode f.rmo) (f.fzo != 0) (s.fpS f.t f.fzi f.a) (s.fpS f.t f.fzi f.b)
      (s.fpS f.t f.fzi f.sc)))

/-- The integer in the low n bits, signed or not. -/
def readInt (n : Nat) (unsigned : Bool) (x : Nat) : Int :=
  if unsigned then (x % 2 ^ n : Nat) else (BitVec.ofNat n x).toInt
/-- Clamp to the range of n bits. -/
def clampInt (n : Nat) (unsigned : Bool) (v : Int) : Int :=
  let lo : Int := if unsigned then 0 else -(2 ^ (n - 1) : Int)
  let hi : Int := if unsigned then 2 ^ n - 1 else 2 ^ (n - 1) - 1
  max lo (min hi v)
/-- One element from format sf to format df (R75, R151, R165): its low bits and flags. -/
def convertElem (df sf : Nat) (mode : Nat) (fzi fzo u sat : Bool) (x : Nat) : Nat × BitVec 5 :=
  let n := fmtBits df
  if fmtInt sf then
    let v := readInt (fmtBits sf) u x
    if fmtInt df then ((BitVec.ofInt n (if sat then clampInt n u v else v)).toNat, 0)
    else (fpOfFmt df).ofInt mode fzo v
  else
    let a := (fpOfFmt sf).value fzi x
    if fmtInt df then
      let r := fpToInt n u mode a
      ((BitVec.ofInt n r.1).toNat, r.2)
    else (fpOfFmt df).convert mode fzo a
/-- Where a scalar conversion's result stands (R151): integers are extended to 64 bits by U, others zero above. -/
def placeConverted (df : Nat) (u : Bool) (v : Nat) : Word :=
  if fmtInt df && !u then sx (fmtBits df) v else BitVec.ofNat 64 v
/-- FCVT (R151). -/
def execFcvt (f : FmtSV) (s : State) : Out :=
  .next (s.guarded f.g fun s =>
    let r := convertElem f.df f.sf (s.roundMode 0) (f.fzi != 0) (f.fzo != 0) (f.u != 0) false (s.readS f.a).toNat
    s.pushS f.d (placeConverted f.df (f.u != 0) r.1) r.2 4)
/-- FCVT, wide (R151). -/
def execFcvtWide (f : FmtSVW) (s : State) : Out :=
  .next (s.guarded f.g fun s =>
    let r := convertElem f.df f.sf (s.roundMode f.rmo) (f.fzi != 0) (f.fzo != 0) (f.u != 0) (f.sat != 0)
      (s.readS f.a).toNat
    s.pushS f.d (placeConverted f.df (f.u != 0) r.1) r.2 4)

/-- The CSRs a scalar context may not read (R129). -/
def ctx0Csr (n : Nat) : Bool := n == 0x028 || n == 0x02A || n == 0x02B
/-- CSRR (R129, R152): the value at issue, visible after 2 bundles. -/
def execCsrr (f : FmtSX) (s : State) : Out :=
  .next (s.guarded f.g fun s => s.pushS f.r (csrRead s s.iss.core s.iss.ctx f.csr) 0 2)
/-- CSRW (R129, R134, R152): in force from the next bundle; a P-view register at level U raises PrivilegeViolation;
BARBASE is checked and held. -/
def execCsrw (f : FmtSX) (s : State) : Out :=
  .next (s.guarded f.g fun s =>
    let v := s.readS f.r
    if decide (0x800 ≤ f.csr) && !(s.core s.iss.core).ident.pl then
      s.fault privilegeViolation (s.wordTval (.csrw f))
    else if f.csr == 0x020 && bits v.toNat 9 11 == 0x7FF then s.fault addressRange v
    else
      let s := if f.csr == 0x020 && s.arrivalsOutstanding s.iss.core then
          s.await 1 waitTimeout 0 (some (s.waitLimit s.iss.core)) else s
      s.modIss fun k => { k with defer := k.defer ++ [.csr k.slot f.csr v] })
/-- MOVM (R154). -/
def execMovm (f : FmtSM) (s : State) : Out :=
  .next (s.guarded f.g fun s =>
    if f.d = 0 then s.pushResult (.m f.m) ((s.readS f.s).setWidth 2048) (BitVec.allOnes 64) 0 1
    else s.pushS f.s (s.readM f.m) 0 1)

end Sys2Proof.Machine
end

