-- ==== Sys2Proof/Machine/Vector.lean ====
section
/-! DEFINITION. The vector and predicate instructions (spec/07_vector.md): class V. A guard is a lane mask (R156); a
result writes its enabled lanes (R157). -/

namespace Sys2Proof.Machine

/-- Element e of width w (R66, R155). -/
def elemOf (w : Nat) (v : VecWord) (e : Nat) : Nat := v.toNat / 2 ^ (w * e) % 2 ^ w
/-- The number whose elements of width w are those of the list, element 0 lowest. -/
def packElems (w : Nat) : List Nat → Nat
  | [] => 0
  | x :: l => x % 2 ^ w + 2 ^ w * packElems w l
/-- The vector with the elements of the list. -/
def ofElems (w : Nat) (l : List Nat) : VecWord := BitVec.ofNat 2048 (packElems w l)
/-- Element e of width w lies in an enabled lane (R155). -/
def elemOn (w : Nat) (mask : BitVec 64) (e : Nat) : Bool := mask.getLsbD (e * w / 32)
/-- Width of an E code (R102). -/
def eWidth (e : Nat) : Nat := 8 * 2 ^ e
/-- A value and flags for every enabled element; 0 elsewhere. -/
def mapElems (w : Nat) (mask : BitVec 64) (f : Nat → Nat × BitVec 5) : VecWord × BitVec 5 :=
  let l := (List.range (2048 / w)).map fun e => if elemOn w mask e then f e else (0, 0)
  (ofElems w (l.map (·.1)), l.foldl (fun acc r => acc ||| r.2) 0)
/-- Every element the low w bits of a scalar (R159, R168). -/
def broadcast (w : Nat) (x : Word) : VecWord := ofElems w (List.replicate (2048 / w) (x.toNat % 2 ^ w))

/-- An element-wise operation: operands read once each (R158), enabled elements computed, enabled lanes written. -/
def vecOp (s : State) (g d lat w : Nat) (regs : List Nat) (f : State → (Nat → VecWord) → Nat → Nat × BitVec 5) : Out :=
  .next (s.masked g fun m s =>
    let r := s.vecOperands regs
    let v := mapElems w m (f r.1 (vecVal r.2))
    r.1.pushV d v.1 m v.2 lat)
/-- Operand b of a wide form: a register, or the broadcast scalar (R159). -/
def operandB (s : State) (w b bs sb : Nat) (v : Nat → VecWord) : VecWord :=
  if bs = 0 then v b else broadcast w (s.readS sb)
/-- The v registers of operands a and b. -/
def regsAB (a b bs : Nat) : List Nat := if bs = 0 then [a, b] else [a]

/-- An integer operation of format VI on elements of n bits (R160). -/
def vecInt (s : State) (f : FmtVI) (op : Nat → Nat → Nat → Nat) : Out :=
  let n := eWidth f.e
  vecOp s f.g f.d 2 n [f.a, f.b] fun _ v e => (op n (elemOf n (v f.a) e) (elemOf n (v f.b) e), 0)
/-- The same, wide (R159). -/
def vecIntW (s : State) (f : FmtVIW) (op : Nat → Nat → Nat → Nat) : Out :=
  let n := eWidth f.e
  vecOp s f.g f.d 2 n (regsAB f.a f.b f.bs) fun s v e =>
    (op n (elemOf n (v f.a) e) (elemOf n (operandB s n f.b f.bs f.sb v) e), 0)
/-- Wrap or clamp an exact result, operands read by U (R160). -/
def satOp (sat u : Nat) (op : Int → Int → Int) (n x y : Nat) : Nat :=
  let r := op (readInt n (u != 0) x) (readInt n (u != 0) y)
  (BitVec.ofInt n (if sat = 0 then r else clampInt n (u != 0) r)).toNat
/-- The smaller or larger element, read by U (R160). -/
def minMaxOp (isMin : Bool) (u n x y : Nat) : Nat :=
  if (decide (readInt n (u != 0) x ≤ readInt n (u != 0) y)) == isMin then x else y
/-- Shift left (R63). -/
def shlOp (n x y : Nat) : Nat := x * 2 ^ (y % n) % 2 ^ n
/-- Logical shift right (R63). -/
def shrOp (n x y : Nat) : Nat := x / 2 ^ (y % n)
/-- Arithmetic shift right (R63). -/
def sarOp (n x y : Nat) : Nat := (BitVec.ofInt n ((BitVec.ofNat n x).toInt / 2 ^ (y % n))).toNat

/-- VADD (R160). -/
def execVadd (f : FmtVI) (s : State) : Out := vecInt s f (satOp f.s f.u (· + ·))
/-- VADD, wide. -/
def execVaddWide (f : FmtVIW) (s : State) : Out := vecIntW s f (satOp f.s f.u (· + ·))
/-- VSUB (R160). -/
def execVsub (f : FmtVI) (s : State) : Out := vecInt s f (satOp f.s f.u (· - ·))
/-- VSUB, wide. -/
def execVsubWide (f : FmtVIW) (s : State) : Out := vecIntW s f (satOp f.s f.u (· - ·))
/-- VMUL (R160). -/
def execVmul (f : FmtVI) (s : State) : Out := vecInt s f (satOp f.s f.u (· * ·))
/-- VMUL, wide. -/
def execVmulWide (f : FmtVIW) (s : State) : Out := vecIntW s f (satOp f.s f.u (· * ·))
/-- VMIN (R160). -/
def execVmin (f : FmtVI) (s : State) : Out := vecInt s f (minMaxOp true f.u)
/-- VMIN, wide. -/
def execVminWide (f : FmtVIW) (s : State) : Out := vecIntW s f (minMaxOp true f.u)
/-- VMAX (R160). -/
def execVmax (f : FmtVI) (s : State) : Out := vecInt s f (minMaxOp false f.u)
/-- VMAX, wide. -/
def execVmaxWide (f : FmtVIW) (s : State) : Out := vecIntW s f (minMaxOp false f.u)
/-- VAND (R160). -/
def execVand (f : FmtVI) (s : State) : Out := vecInt s f fun _ x y => x &&& y
/-- VAND, wide. -/
def execVandWide (f : FmtVIW) (s : State) : Out := vecIntW s f fun _ x y => x &&& y
/-- VOR (R160). -/
def execVor (f : FmtVI) (s : State) : Out := vecInt s f fun _ x y => x ||| y
/-- VOR, wide. -/
def execVorWide (f : FmtVIW) (s : State) : Out := vecIntW s f fun _ x y => x ||| y
/-- VXOR (R160). -/
def execVxor (f : FmtVI) (s : State) : Out := vecInt s f fun _ x y => x ^^^ y
/-- VXOR, wide. -/
def execVxorWide (f : FmtVIW) (s : State) : Out := vecIntW s f fun _ x y => x ^^^ y
/-- VSHL (R160). -/
def execVshl (f : FmtVI) (s : State) : Out := vecInt s f shlOp
/-- VSHL, wide. -/
def execVshlWide (f : FmtVIW) (s : State) : Out := vecIntW s f shlOp
/-- VSHR (R160). -/
def execVshr (f : FmtVI) (s : State) : Out := vecInt s f shrOp
/-- VSHR, wide. -/
def execVshrWide (f : FmtVIW) (s : State) : Out := vecIntW s f shrOp
/-- VSAR (R160). -/
def execVsar (f : FmtVI) (s : State) : Out := vecInt s f sarOp
/-- VSAR, wide. -/
def execVsarWide (f : FmtVIW) (s : State) : Out := vecIntW s f sarOp

/-- A floating-point operation on operands a and b of format VF (R161). -/
def vecFp (s : State) (f : FmtVF) (op : FpFmt → Nat → Bool → FpVal → FpVal → Nat × BitVec 5) : Out :=
  let t := fpOfT f.t
  vecOp s f.g f.d 4 t.width [f.a, f.b] fun s v e =>
    op t (s.roundMode 0) (f.fzo != 0) (t.value (f.fzi != 0) (elemOf t.width (v f.a) e))
      (t.value (f.fzi != 0) (elemOf t.width (v f.b) e))
/-- The same, wide (R159, R161). -/
def vecFpW (s : State) (f : FmtVFW) (op : FpFmt → Nat → Bool → FpVal → FpVal → Nat × BitVec 5) : Out :=
  let t := fpOfT f.t
  vecOp s f.g f.d 4 t.width (regsAB f.a f.b f.bs) fun s v e =>
    op t (s.roundMode f.rmo) (f.fzo != 0) (t.value (f.fzi != 0) (elemOf t.width (v f.a) e))
      (t.value (f.fzi != 0) (elemOf t.width (operandB s t.width f.b f.bs f.sb v) e))
/-- a - b: a plus b with its sign changed; a NaN stays as it is (R161). -/
def fpSub (t : FpFmt) (mode : Nat) (fzo : Bool) (a b : FpVal) : Nat × BitVec 5 := t.add mode fzo a b.negate

/-- VADD on a floating-point type (R161). -/
def execVaddF (f : FmtVF) (s : State) : Out := vecFp s f FpFmt.add
/-- Wide. -/
def execVaddFWide (f : FmtVFW) (s : State) : Out := vecFpW s f FpFmt.add
/-- VSUB on a floating-point type (R161). -/
def execVsubF (f : FmtVF) (s : State) : Out := vecFp s f fpSub
/-- Wide. -/
def execVsubFWide (f : FmtVFW) (s : State) : Out := vecFpW s f fpSub
/-- VMUL on a floating-point type (R161). -/
def execVmulF (f : FmtVF) (s : State) : Out := vecFp s f FpFmt.mul
/-- Wide. -/
def execVmulFWide (f : FmtVFW) (s : State) : Out := vecFpW s f FpFmt.mul
/-- VMIN on a floating-point type (R161, R74). -/
def execVminF (f : FmtVF) (s : State) : Out := vecFp s f fun t _ fzo a b => t.minMax true fzo a b
/-- Wide. -/
def execVminFWide (f : FmtVFW) (s : State) : Out := vecFpW s f fun t _ fzo a b => t.minMax true fzo a b
/-- VMAX on a floating-point type (R161, R74). -/
def execVmaxF (f : FmtVF) (s : State) : Out := vecFp s f fun t _ fzo a b => t.minMax false fzo a b
/-- Wide. -/
def execVmaxFWide (f : FmtVFW) (s : State) : Out := vecFpW s f fun t _ fzo a b => t.minMax false fzo a b
/-- VFMA, short: the addend is vd as read at issue (R161). -/
def execVfma (f : FmtVF) (s : State) : Out :=
  let t := fpOfT f.t
  let val := fun (x : VecWord) e => t.value (f.fzi != 0) (elemOf t.width x e)
  vecOp s f.g f.d 4 t.width [f.a, f.b, f.d] fun s v e =>
    t.fma (s.roundMode 0) (f.fzo != 0) (val (v f.a) e) (val (v f.b) e) (val (v f.d) e)
/-- VFMA, wide: the addend is vc (R161). -/
def execVfmaWide (f : FmtVFW) (s : State) : Out :=
  let t := fpOfT f.t
  let val := fun (x : VecWord) e => t.value (f.fzi != 0) (elemOf t.width x e)
  vecOp s f.g f.d 4 t.width (f.vc :: regsAB f.a f.b f.bs) fun s v e =>
    t.fma (s.roundMode f.rmo) (f.fzo != 0) (val (v f.a) e) (val (operandB s t.width f.b f.bs f.sb v) e) (val (v f.vc) e)

/-- A unary function of R162. -/
def vecFn (s : State) (g d a t fzi fzo rmo : Nat) (op : FpFmt → Nat → Bool → FpVal → Nat × BitVec 5) : Out :=
  let k := fpOfT t
  vecOp s g d 12 k.width [a] fun s v e => op k (s.roundMode rmo) (fzo != 0) (k.value (fzi != 0) (elemOf k.width (v a) e))
/-- VEXP2 (R162). -/
def execVexp2 (f : FmtVF) (s : State) : Out := vecFn s f.g f.d f.a f.t f.fzi f.fzo 0 FpFmt.exp2
/-- Wide. -/
def execVexp2Wide (f : FmtVFW) (s : State) : Out := vecFn s f.g f.d f.a f.t f.fzi f.fzo f.rmo FpFmt.exp2
/-- VLOG2 (R162). -/
def execVlog2 (f : FmtVF) (s : State) : Out := vecFn s f.g f.d f.a f.t f.fzi f.fzo 0 FpFmt.log2
/-- Wide. -/
def execVlog2Wide (f : FmtVFW) (s : State) : Out := vecFn s f.g f.d f.a f.t f.fzi f.fzo f.rmo FpFmt.log2
/-- VRCP (R162). -/
def execVrcp (f : FmtVF) (s : State) : Out := vecFn s f.g f.d f.a f.t f.fzi f.fzo 0 FpFmt.recip
/-- Wide. -/
def execVrcpWide (f : FmtVFW) (s : State) : Out := vecFn s f.g f.d f.a f.t f.fzi f.fzo f.rmo FpFmt.recip
/-- VRSQ (R162). -/
def execVrsq (f : FmtVF) (s : State) : Out := vecFn s f.g f.d f.a f.t f.fzi f.fzo 0 FpFmt.rsqrt
/-- Wide. -/
def execVrsqWide (f : FmtVFW) (s : State) : Out := vecFn s f.g f.d f.a f.t f.fzi f.fzo f.rmo FpFmt.rsqrt

/-- The bits of a list, bit 0 first. -/
def ofBits (l : List Bool) : BitVec 64 := BitVec.ofNat 64 (bitsNat l)
/-- A condition of VCMP on integers (R163, R148). -/
def vcondInt (c : Nat) (a b : BitVec 32) : Bool := condInt c (a.signExtend 64) (b.signExtend 64)
/-- A condition of VCMP on FP32 (R163). -/
def vcondFp (c : Nat) (a b : FpVal) : Bool := condFp (if c = 6 then 10 else c) a b
/-- VCMP (R163): masked lanes write 0. -/
def execVcmp (f : FmtVC) (s : State) : Out :=
  .next (s.masked f.g fun m s =>
    let r := s.vecOperands [f.a, f.b]
    let x := fun i => lane (vecVal r.2 f.a) i
    let y := fun i => lane (vecVal r.2 f.b) i
    let fx := fun (b : BitVec 32) => fp32.value (f.fzi != 0) b.toNat
    let bit := fun i => m.getLsbD i &&
      (if f.f = 0 then vcondInt f.cond (x i) (y i) else vcondFp f.cond (fx (x i)) (fx (y i)))
    let nv := fun i => f.f != 0 && m.getLsbD i && ((fx (x i)).nv ||| (fx (y i)).nv) != 0
    r.1.pushP f.pd (ofBits ((List.range 64).map bit)) (if (List.range 64).any nv then flagNV else 0) 2)
/-- VSEL (R164): whole lanes by the selector. -/
def execVsel (f : FmtVS) (s : State) : Out :=
  vecOp s f.g f.d 2 32 [f.a, f.b] fun s v e =>
    ((if (s.readP f.p).bits.getLsbD e then elemOf 32 (v f.a) e else elemOf 32 (v f.b) e), 0)
/-- VSEL, wide (R159, R164). -/
def execVselWide (f : FmtVSW) (s : State) : Out :=
  vecOp s f.g f.d 2 32 (regsAB f.a f.b f.bs) fun s v e =>
    ((if (s.readP f.p).bits.getLsbD e then elemOf 32 (v f.a) e else elemOf 32 (operandB s 32 f.b f.bs f.sb v) e), 0)

/-- The lanes a narrowing conversion writes (R165). -/
def partLanes (ws wd part : Nat) : BitVec 64 :=
  if wd < ws then
    let n := 2048 / ws * wd / 32
    ofBits ((List.range 64).map fun i => decide (part * n ≤ i) && decide (i < (part + 1) * n))
  else BitVec.allOnes 64
/-- VCVT (R165). -/
def vecConvert (s : State) (g d a df sf part : Nat) (fzi fzo : Nat) (rmo : Nat) (u sat : Bool) : Out :=
  .next (s.masked g fun m s =>
    let ws := fmtBits sf
    let wd := fmtBits df
    let r := s.vecOperands [a]
    let m := m &&& partLanes ws wd part
    let src := fun e => if ws < wd then part * (2048 / wd) + e else if wd < ws then e - part * (2048 / ws) else e
    let v := mapElems wd m fun e =>
      convertElem df sf (r.1.roundMode rmo) (fzi != 0) (fzo != 0) u sat (elemOf ws (vecVal r.2 a) (src e))
    r.1.pushV d v.1 m v.2 4)
/-- VCVT, short (R165). -/
def execVcvt (f : FmtVV) (s : State) : Out := vecConvert s f.g f.d f.a f.df f.sf f.part f.fzi f.fzo 0 false false
/-- VCVT, wide (R165). -/
def execVcvtWide (f : FmtVVW) (s : State) : Out :=
  vecConvert s f.g f.d f.a f.df f.sf f.part f.fzi f.fzo f.rmo (f.u != 0) (f.sat != 0)

/-- An element as FZI reads it: a subnormal is a zero of its sign (R72, R166). -/
def redIn (fm : Nat) (fzi : Bool) (x : Nat) : Nat :=
  let f := fpOfFmt fm
  if fzi && !fmtInt fm && decide (x / 2 ^ f.fw % 2 ^ f.ew = 0) then x / 2 ^ (f.width - 1) * 2 ^ (f.width - 1) else x
/-- One step of a reduction: sum, maximum or minimum in the element format (R88, R166). FZI flushes the elements read (redIn),
not the intermediate values that a step hands to the next (DEDUCED, log entry 23). -/
def redStep (kind fm mode : Nat) (fzo : Bool) (x y : Nat) : Nat × BitVec 5 :=
  let n := fmtBits fm
  if fmtInt fm then
    let a := readInt n false x
    let b := readInt n false y
    ((BitVec.ofInt n (if kind = 0 then a + b else if kind = 1 then max a b else min a b)).toNat, 0)
  else
    let a := (fpOfFmt fm).value false x
    let b := (fpOfFmt fm).value false y
    if kind = 0 then (fpOfFmt fm).add mode fzo a b else (fpOfFmt fm).minMax (kind == 2) fzo a b
/-- An element that a reduction delivers (R73): a NaN is the canonical one, also where it met only absent elements. -/
def redDeliver (fm x : Nat) : Nat :=
  if fmtInt fm then x
  else if ((fpOfFmt fm).value false x).isNan then (fpOfFmt fm).nanBits else x
/-- The flags of reading a present element: NV of a signalling NaN (R73). -/
def redSignal (fm x : Nat) : BitVec 5 := if fmtInt fm then 0 else ((fpOfFmt fm).value false x).nv
/-- Combine (R88): an absent element gives the present one unchanged; FZO and FZI act on no such step (log entry 23). -/
def redCombine (step : Nat → Nat → Nat × BitVec 5) : Option Nat × BitVec 5 → Option Nat × BitVec 5 →
    Option Nat × BitVec 5
  | (none, f), (y, g) => (y, f ||| g)
  | (some x, f), (none, g) => (some x, f ||| g)
  | (some x, f), (some y, g) => let r := step x y; (some r.1, f ||| g ||| r.2)
/-- The tree of R88: element i with element i + n/2, then half as many, for so many levels. -/
def redTree (step : Nat → Nat → Nat × BitVec 5) : Nat → List (Option Nat × BitVec 5) → List (Option Nat × BitVec 5)
  | 0, l => l
  | n + 1, l => let h := l.length / 2; redTree step n (List.zipWith (redCombine step) (l.take h) (l.drop h))
/-- The result of an empty reduction (R88). -/
def redEmpty (kind fm : Nat) : Nat :=
  let n := fmtBits fm
  if kind = 0 then 0
  else if fmtInt fm then (if kind = 1 then 2 ^ (n - 1) else 2 ^ (n - 1) - 1)
  else (fpOfFmt fm).infOf (kind == 1)
/-- The present elements of a reduction, none where the guard bit is 0. -/
def redElems (fm : Nat) (fzi : Bool) (m : BitVec 64) (v : VecWord) : List (Option Nat × BitVec 5) :=
  let w := fmtBits fm
  (List.range (2048 / w)).map fun e =>
    let x := redIn fm fzi (elemOf w v e)
    if elemOn w m e then (some x, redSignal fm x) else (none, 0)
/-- A whole-result vector instruction (R156): with an all-zero mask no operand is read, and nothing is pushed. -/
def wholeResult (s : State) (g d a lat : Nat) (f : State → BitVec 64 → VecWord → VecWord × BitVec 5) : Out :=
  let m := s.guardMask g
  if m = 0 then
    if (s.core s.iss.core).bound d then .next s
    else let v := f s 0 0; .next (s.pushV d v.1 (BitVec.allOnes 64) v.2 lat)
  else
    let r := s.vecOperands [a]
    let v := f r.1 m (vecVal r.2 a)
    .next (r.1.pushV d v.1 (BitVec.allOnes 64) v.2 lat)
/-- VSUM and VMAXR (R166): kind 0 sum, 1 maximum, 2 minimum. Integer sums are of 32 bits. -/
def vecReduce (s : State) (g d a fm kind fzi fzo rmo : Nat) : Out :=
  wholeResult s g d a 6 fun s m v =>
    let w := fmtBits fm
    let wide := fmtInt fm && kind == 0
    let l := redElems fm (fzi != 0) m v
    let l := if wide then l.map fun x => (x.1.map fun y => (BitVec.ofInt 32 (readInt w false y)).toNat, x.2) else l
    let r := redTree (redStep kind (if wide then 0 else fm) (s.roundMode rmo) (fzo != 0)) (Nat.log2 l.length) l
    match r with
    | (some x, fl) :: _ => (BitVec.ofNat 2048 (redDeliver fm x), fl)
    | _ => (BitVec.ofNat 2048 (redEmpty kind fm), 0)
/-- VSUM (R166). -/
def execVsum (f : FmtVR) (s : State) : Out := vecReduce s f.g f.d f.a f.fm 0 f.fzi f.fzo 0
/-- Wide. -/
def execVsumWide (f : FmtVRW) (s : State) : Out := vecReduce s f.g f.d f.a f.fm 0 f.fzi f.fzo f.rmo
/-- VMAXR (R166). -/
def execVmaxr (f : FmtVR) (s : State) : Out := vecReduce s f.g f.d f.a f.fm (1 + f.x) f.fzi f.fzo 0
/-- Wide. -/
def execVmaxrWide (f : FmtVRW) (s : State) : Out := vecReduce s f.g f.d f.a f.fm (1 + f.x) f.fzi f.fzo f.rmo
/-- Inclusive prefixes, in order, with the flags so far (R166). -/
def scanFrom (step : Nat → Nat → Nat × BitVec 5) : Option Nat × BitVec 5 → List (Option Nat × BitVec 5) →
    List (Option Nat × BitVec 5)
  | _, [] => []
  | y, x :: l => let z := redCombine step y x; z :: scanFrom step z l
/-- VSCAN (R166). An exclusive scan raises the flags of the step it does
not show too (DEDUCED, log entry 23). -/
def vecScan (s : State) (g d a fm excl fzi fzo rmo : Nat) : Out :=
  wholeResult s g d a 6 fun s m v =>
    let w := fmtBits fm
    let ys := scanFrom (redStep 0 fm (s.roundMode rmo) (fzo != 0)) (none, 0) (redElems fm (fzi != 0) m v)
    let fl := (ys.getLast?.map (·.2)).getD 0
    let out := ys.map fun y => redDeliver fm (y.1.getD 0)
    (ofElems w (if excl = 0 then out else 0 :: out.dropLast), fl)
/-- VSCAN (R166). -/
def execVscan (f : FmtVR) (s : State) : Out := vecScan s f.g f.d f.a f.fm f.x f.fzi f.fzo 0
/-- Wide. -/
def execVscanWide (f : FmtVRW) (s : State) : Out := vecScan s f.g f.d f.a f.fm f.x f.fzi f.fzo f.rmo

/-- VPERM (R167). -/
def execVperm (f : FmtVP) (s : State) : Out :=
  let w := eWidth f.e
  vecOp s f.g f.d 2 w [f.a, f.x] fun _ v j => (elemOf w (v f.a) (elemOf w (v f.x) j % (2048 / w)), 0)
/-- VBCAST (R168). -/
def execVbcast (f : FmtVB) (s : State) : Out :=
  let w := eWidth f.e
  vecOp s f.g f.d 2 w [] fun s _ _ => ((s.readS f.sa).toNat % 2 ^ w, 0)
/-- VLANE (R169). -/
def execVlane (f : FmtVL) (s : State) : Out :=
  .next (s.masked f.g fun m s =>
    if f.d = 0 then
      let r := s.vecOperands [f.v]
      if m.getLsbD f.lane then r.1.pushS f.s ((lane (vecVal r.2 f.v) f.lane).setWidth 64) 0 2 else r.1
    else
      let v := BitVec.ofNat 2048 ((s.readS f.s).toNat % 2 ^ 32 * 2 ^ (32 * f.lane))
      s.pushV f.v v (m &&& BitVec.ofNat 64 (2 ^ f.lane)) 0 2)

/-- An element's rank in VCMPR (R170): absent below all, numbers by magnitude, NaN above all. -/
def cmprRank (t : FpFmt) (fzi : Bool) (x : Option Nat) : Nat :=
  match x with
  | none => 0
  | some b =>
    let mag := b % t.signBit
    match t.value false b with
    | .nan _ => 2 ^ 40
    | .inf _ => 1 + mag
    | .fin _ _ _ => 1 + (if fzi && t.subnormal b then 0 else mag)
/-- What VCMPR writes of an element (R170). -/
def cmprWrite (t : FpFmt) (fzi : Bool) (x : Option Nat) : Nat :=
  match x with
  | none => 0
  | some b =>
    match t.value false b with
    | .nan _ => t.nanBits
    | .inf _ => b
    | .fin _ _ _ => if fzi && t.subnormal b then b / t.signBit * t.signBit else b
/-- The indices of the two kept of four, in rising order (R170): equal ranks keep the lower index. -/
def cmprKeep (r : Nat → Nat) : Nat × Nat :=
  let beaten := fun i => (List.range 4).countP fun j => decide (r i < r j) || (r i == r j && decide (j < i))
  match (List.range 4).filter fun i => decide (beaten i < 2) with
  | i :: j :: _ => (i, j)
  | _ => (0, 1)
/-- VCMPR (R170). -/
def execVcmpr (f : FmtVM) (s : State) : Out :=
  let m := s.guardMask f.g
  let t := fpOfT f.t
  let w := t.width
  let r := if m = 0 then (s, []) else s.vecOperands [f.a]
  let el := fun e => if elemOn w m e then some (elemOf w (vecVal r.2 f.a) e) else none
  let keep := (List.range (2048 / w / 4)).map fun g => (g, cmprKeep fun i => cmprRank t (f.fzi != 0) (el (4 * g + i)))
  let vals := (keep.map fun k =>
    [cmprWrite t (f.fzi != 0) (el (4 * k.1 + k.2.1)), cmprWrite t (f.fzi != 0) (el (4 * k.1 + k.2.2))]).flatten
  let idx := keep.map fun k => k.2.1 + 4 * k.2.2
  let nv := (List.range (2048 / w)).any fun e => match el e with
    | none => false
    | some b => (t.value false b).nv != 0
  let put := fun (s : State) (d : Nat) (v : VecWord) (fl : BitVec 5) =>
    if decide (m = 0) && (s.core s.iss.core).bound d then s else s.pushV d v (BitVec.allOnes 64) fl 4
  .next (put (put r.1 f.d (ofElems w vals) (if nv then flagNV else 0)) f.x (ofElems 8 idx) 0)

/-- The hash of R171. -/
def hash32 (c k : Nat) : Nat :=
  let y := c ^^^ k
  let y := y * 0x2C1B3C6D % 2 ^ 32
  let y := y ^^^ (y / 2 ^ 12)
  let y := y * 0x297A2D39 % 2 ^ 32
  y ^^^ (y / 2 ^ 15)
/-- VHASH (R171). -/
def execVhash (f : FmtVH) (s : State) : Out :=
  vecOp s f.g f.d 3 32 [f.a, f.b] fun _ v e => (hash32 (elemOf 32 (v f.a) e) (elemOf 32 (v f.b) e), 0)
/-- VHASH, wide (R159, R171). -/
def execVhashWide (f : FmtVHW) (s : State) : Out :=
  vecOp s f.g f.d 3 32 (regsAB f.a f.b f.bs) fun s v e =>
    (hash32 (elemOf 32 (v f.a) e) (elemOf 32 (operandB s 32 f.b f.bs f.sb v) e), 0)

/-- VVOTE (R172). -/
def execVvote (f : FmtVO) (s : State) : Out :=
  let g := s.guardMask f.g
  let p := if g = 0 then 0 else (s.readP f.pa).bits
  .next (s.pushP f.pd (allBits (if f.mode = 0 then p &&& g != 0 else (p ||| ~~~g) == BitVec.allOnes 64)) 0 1)
/-- A lane-wise predicate operation: masked lanes are written 0 (R156, R173). -/
def predOp (s : State) (g d : Nat) (v : State → BitVec 64) : Out :=
  .next (s.masked g fun m s => s.pushP d (v s &&& m) 0 1)
/-- PAND (R173). -/
def execPand (f : FmtPL) (s : State) : Out := predOp s f.g f.pd fun s => (s.readP f.pa).bits &&& (s.readP f.pb).bits
/-- POR (R173). -/
def execPor (f : FmtPL) (s : State) : Out := predOp s f.g f.pd fun s => (s.readP f.pa).bits ||| (s.readP f.pb).bits
/-- PXOR (R173). -/
def execPxor (f : FmtPL) (s : State) : Out := predOp s f.g f.pd fun s => (s.readP f.pa).bits ^^^ (s.readP f.pb).bits
/-- PNOT (R173). -/
def execPnot (f : FmtPU) (s : State) : Out := predOp s f.g f.pd fun s => ~~~(s.readP f.pa).bits
/-- PSET (R173). -/
def execPset (f : FmtPS) (s : State) : Out := predOp s f.g f.pd fun _ => BitVec.ofNat 64 (2 ^ f.n - 1)
/-- PMOV (R173): to a predicate, or to an s register as a whole result. -/
def execPmov (f : FmtPM) (s : State) : Out :=
  if f.sel = 0 then predOp s f.g f.d fun s => (s.readP f.a).bits
  else if f.sel = 1 then predOp s f.g f.d fun s => s.readS f.a
  else .next (s.pushS f.d ((s.readP f.a).bits &&& s.guardMask f.g) 0 1)
/-- VPOPC (R174). -/
def execVpopc (f : FmtVN) (s : State) : Out :=
  .next (s.pushS f.d (popc ((s.readP f.pa).bits &&& s.guardMask f.g)) 0 1)

end Sys2Proof.Machine
end

