-- ==== Sys2Proof/Machine/MemInstr.lean ====
section
/-! DEFINITION. The scratchpad accesses and tag instructions (spec/10_memory_instr.md): class M. Slots 6 and 7 read the
scratchpad as it stood at issue, so a store of slot 3 changes the memory at once (R100). -/

namespace Sys2Proof.Machine

/-! ### Handles (R344) -/

/-- Where the buffer-table entry of a handle lies. -/
def State.handleAddr (s : State) (c h : Nat) : Nat := spmAddr c ((s.core c).csr.barbase * 512 + 0x200 + 8 * h)
/-- The buffer-table entry of a handle, in a memory. -/
def State.handleWord (s : State) (m : Memory) (c h : Nat) : Nat := m.readN (s.handleAddr c h) 8
/-- STATE: 0 FREE, 1 FILLING, 2 FULL, 3 DRAINING. -/
def hState (w : Nat) : Nat := w / 2 ^ 62 % 4
/-- BASE. -/
def hBase (w : Nat) : Nat := w % 2 ^ 20
/-- LEN. -/
def hLen (w : Nat) : Nat := bits w 20 21
/-- A reserved bit of the entry is set. -/
def hBad (w : Nat) : Bool := bits w 41 15 != 0

/-- A handle's STATE changes (R280, R281). -/
def State.setHandle (s : State) (c h st : Nat) : State :=
  let w := s.handleWord s.mem c h
  let a := s.handleAddr c h
  { s with mem := s.mem.writeN a 8 (st * 2 ^ 62 + w % 2 ^ 62), watch := rewrote s.watch a 8 }

/-! ### Forming the offset (R207, R208) -/

/-- The range and alignment checks of the bytes lo to hi - 1 from the offset a; the offset when they pass. -/
def State.checkSpm (s : State) (a lo hi : Int) (align : Nat) : State × Option Int :=
  if lo < hi ∧ (a + lo < 0 ∨ 2 ^ 20 < a + hi) then (s.fault addressRange (BitVec.ofInt 64 a), none)
  else if a % (align : Int) ≠ 0 then (s.fault misaligned (BitVec.ofInt 64 a), none)
  else (s, some a)
/-- The SPM offset of an access to bytes lo to hi - 1 from its address (R207 to R209): a handle's BASE plus the offset
once its state is FULL or DRAINING, the base for a post-increment, else base plus offset. -/
def State.formAddr (s : State) (h pi b : Nat) (off lo hi : Int) (align : Nat) : State × Option Int :=
  if h = 0 then
    let base : Int := if b = 0 then 0 else (s.readS b).toNat
    s.checkSpm (if pi = 0 ∨ b = 0 then base + off else base) lo hi align
  else
    let w := s.handleWord s.iss.mem s.iss.core b
    if hBad w then (s.fault addressRange (BitVec.ofInt 64 (hBase w + off)), none)
    else if lo < hi ∧ (hLen w : Int) < off + hi then (s.fault addressRange (BitVec.ofInt 64 off), none)
    else
      let r := s.checkSpm (hBase w + off) lo hi align
      match r.2 with
      | none => r
      | some a =>
        if hState w ≤ 1 then (r.1.await 3 waitTimeout (BitVec.ofNat 64 b) (some (s.waitLimit s.iss.core)), none)
        else if hState w = 2 then (r.1.modIss fun k => { k with defer := k.defer ++ [.handleFull b] }, some a)
        else (r.1, some a)
/-- The post-increment's update of its base register (R207). -/
def State.postInc (s : State) (pi b : Nat) (off : Int) : State :=
  if pi = 0 then s else s.pushS b (BitVec.ofInt 64 ((s.readS b).toNat + off)) 0 1
/-- The offset of a short scalar access. -/
def offS (sz off : Nat) : Int := sInt 7 off * 2 ^ sz
/-- The offset of a short vector access. -/
def offV (off : Nat) : Int := sInt 7 off * 32
/-- The offset of a wide access. -/
def offW (off : Nat) : Int := sInt 32 off

/-! ### Scalar accesses (R210, R211) -/

/-- What a scalar access does to the tag of its word: nothing, or waits for FULL, with or without emptying it. -/
inductive TagUse where
  | ignore
  | full
  | take
  deriving DecidableEq, Repr

/-- The access waits for the tag of its word (R208, R211). -/
def State.awaitTag (s : State) (a : Nat) : State :=
  s.await 2 tagWaitTimeout (BitVec.ofNat 64 (a / 8 * 8)) (some (max 1 (s.core s.iss.core).csr.taglimit))
/-- A load of 2^sz bytes into register d (R210). -/
def scalarLoad (s : State) (g d b sz x pi h : Nat) (off : Int) (t : TagUse) : Out :=
  .next (s.guarded g fun s =>
    let c := s.iss.core
    let r := s.formAddr h pi b off 0 (2 ^ sz) (2 ^ sz)
    match r.2.map Int.toNat with
    | none => r.1
    | some a =>
      if t ≠ .ignore ∧ !s.tagFull c a then r.1.awaitTag a
      else
        let v := s.iss.mem.readN (spmAddr c a) (2 ^ sz)
        let s := r.1.pushS d (if x = 0 then BitVec.ofNat 64 v else sx (8 * 2 ^ sz) v) 0 4
        let s := s.postInc pi b off
        if t = .take then s.setTag c a false else s)
/-- The bundle's store wrote n bytes at an address. -/
def State.noteStore (s : State) (a n : Nat) : State := s.modIss fun k => { k with stored := k.stored ++ [(a, n)] }
/-- A store of the low 2^sz bytes of register d, waiting for EMPTY where asked (R210). -/
def scalarStore (s : State) (g d b sz pi h : Nat) (off : Int) (waitEmpty : Bool) : Out :=
  .next (s.guarded g fun s =>
    let c := s.iss.core
    let r := s.formAddr h pi b off 0 (2 ^ sz) (2 ^ sz)
    match r.2.map Int.toNat with
    | none => r.1
    | some a =>
      if waitEmpty && s.tagFull c a then r.1.awaitTag a
      else
        let s := { r.1 with mem := r.1.mem.writeN (spmAddr c a) (2 ^ sz) (s.readS d).toNat }
        ((s.noteStore (spmAddr c a) (2 ^ sz)).setTag c a true).postInc pi b off)

/-- LD (R210). -/
def execLd (f : FmtMS) (s : State) : Out := scalarLoad s f.g f.s f.b f.sz f.x f.pi f.h (offS f.sz f.off) .ignore
/-- LD, wide. -/
def execLdWide (f : FmtMSW) (s : State) : Out := scalarLoad s f.g f.s f.b f.sz f.x f.pi f.h (offW f.off) .ignore
/-- ST (R210). -/
def execSt (f : FmtMS) (s : State) : Out := scalarStore s f.g f.s f.b f.sz f.pi f.h (offS f.sz f.off) false
/-- ST, wide. -/
def execStWide (f : FmtMSW) (s : State) : Out := scalarStore s f.g f.s f.b f.sz f.pi f.h (offW f.off) false
/-- LDF (R211). -/
def execLdf (f : FmtMS) (s : State) : Out := scalarLoad s f.g f.s f.b f.sz f.x f.pi f.h (offS f.sz f.off) .full
/-- LDF, wide. -/
def execLdfWide (f : FmtMSW) (s : State) : Out := scalarLoad s f.g f.s f.b f.sz f.x f.pi f.h (offW f.off) .full
/-- LDE (R211). -/
def execLde (f : FmtMS) (s : State) : Out := scalarLoad s f.g f.s f.b f.sz f.x f.pi f.h (offS f.sz f.off) .take
/-- LDE, wide. -/
def execLdeWide (f : FmtMSW) (s : State) : Out := scalarLoad s f.g f.s f.b f.sz f.x f.pi f.h (offW f.off) .take
/-- STE (R211). -/
def execSte (f : FmtMS) (s : State) : Out := scalarStore s f.g f.s f.b f.sz f.pi f.h (offS f.sz f.off) true
/-- STE, wide. -/
def execSteWide (f : FmtMSW) (s : State) : Out := scalarStore s f.g f.s f.b f.sz f.pi f.h (offW f.off) true

/-! ### Range tag operations (R213) -/

/-- The next 512 words of a range, or what is left of it. -/
def State.tagStep (s : State) (c : Nat) (r : TagRun) : State :=
  let n := min 512 r.words
  let s := s.setTags c r.off r.full n
  s.modCore c fun k =>
    { k with tagRun := if r.words ≤ 512 then none else some ⟨r.full, r.off + 8 * n, r.words - n⟩ }
/-- TAGE or TAGF over `len` bytes from register b (R213). -/
def rangeTag (s : State) (g b : Nat) (len : State → Nat) (full : Bool) : Out :=
  .next (s.guarded g fun s =>
    let base := (s.readS b).toNat
    let n := len s
    if 2 ^ 20 < n then s.fault addressRange (BitVec.ofNat 64 n)
    else if 2 ^ 20 < base + n then s.fault addressRange (BitVec.ofNat 64 base)
    else if base % 8 ≠ 0 then s.fault misaligned (BitVec.ofNat 64 base)
    else if n % 8 ≠ 0 then s.fault misaligned (BitVec.ofNat 64 n)
    else
      let s := s.tagStep s.iss.core ⟨full, base, n / 8⟩
      s.modIss fun k => { k with stall := max k.stall ((n + 4095) / 4096 - 1) })
/-- TAGE (R213). -/
def execTage (f : FmtMT) (s : State) : Out := rangeTag s f.g f.b (fun s => (s.readS f.l).toNat) false
/-- TAGE, wide. -/
def execTageWide (f : FmtMTW) (s : State) : Out := rangeTag s f.g f.b (fun _ => f.len) false
/-- TAGF (R213). -/
def execTagf (f : FmtMT) (s : State) : Out := rangeTag s f.g f.b (fun s => (s.readS f.l).toNat) true
/-- TAGF, wide. -/
def execTagfWide (f : FmtMTW) (s : State) : Out := rangeTag s f.g f.b (fun _ => f.len) true

/-! ### Vector accesses (R214 to R217) -/

/-- The lowest lane whose mask bit is set, from lane i on. -/
def firstLane (m : BitVec 64) : Nat → Nat → Nat
  | 0, i => i
  | n + 1, i => if m.getLsbD i then i else firstLane m n (i + 1)
/-- One more than the highest lane whose mask bit is set. -/
def endLane (m : BitVec 64) : Nat → Nat
  | 0 => 0
  | n + 1 => if m.getLsbD n then n + 1 else endLane m n
/-- The offset of a vector access; only enabled lanes are checked (R208, R214). -/
def State.formVec (s : State) (h pi b : Nat) (off : Int) (m : BitVec 64) : State × Option Int :=
  s.formAddr h pi b off (4 * firstLane m 64 0 : Nat) (4 * endLane m 64 : Nat) 32
/-- The address of an SPM offset that may lie below 0 where only higher lanes are enabled. -/
def spmAt (core : Nat) (a : Int) : Nat := ((spmAddr core 0 : Nat) + a).toNat
/-- The 256 bytes at an SPM offset, as the issuing bundle sees them. -/
def State.readSpmVec (s : State) (a : Int) : VecWord := BitVec.ofNat 2048 (s.iss.mem.readN (spmAt s.iss.core a) 256)
/-- Set FULL the tags of the words that hold an enabled lane of the n lowest lanes. -/
def State.fillLanes (s : State) (c : Nat) (a : Int) (m : BitVec 64) : Nat → State
  | 0 => s
  | n + 1 =>
    let s := s.fillLanes c a m n
    if m.getLsbD n then s.setTag c (a + (4 * n : Nat)).toNat true else s
/-- VLD of a form (R214). -/
def vecLoad (s : State) (g v b pi h : Nat) (off : Int) : Out :=
  .next (s.masked g fun m s =>
    let r := s.formVec h pi b off m
    match r.2 with
    | none => r.1
    | some a => (r.1.pushV v (s.readSpmVec a) m 0 6).postInc pi b off)
/-- The bytes of the enabled lanes of a vector store are noted (R218). -/
def State.noteLanes (s : State) (a : Nat) (m : BitVec 64) : State :=
  ((List.range 64).filter m.getLsbD).foldl (fun s i => s.noteStore (a + 4 * i) 4) s
/-- VST of a form (R214). -/
def vecStore (s : State) (g v b pi h : Nat) (off : Int) : Out :=
  .next (s.masked g fun m s =>
    let r := s.formVec h pi b off m
    match r.2 with
    | none => r.1
    | some a =>
      let o := r.1.vecOperands [v]
      let s := { o.1 with mem := o.1.mem.writeLanes (spmAt s.iss.core a) (vecVal o.2 v) m 64 }
      ((s.noteLanes (spmAt s.iss.core a) m).fillLanes s.iss.core a m 64).postInc pi b off)
/-- VLD (R214). -/
def execVld (f : FmtMV) (s : State) : Out := vecLoad s f.g f.v f.b f.pi f.h (offV f.off)
/-- VLD, wide. -/
def execVldWide (f : FmtMVW) (s : State) : Out := vecLoad s f.g f.v f.b f.pi f.h (offW f.off)
/-- VST (R214). -/
def execVst (f : FmtMV) (s : State) : Out := vecStore s f.g f.v f.b f.pi f.h (offV f.off)
/-- VST, wide. -/
def execVstWide (f : FmtMVW) (s : State) : Out := vecStore s f.g f.v f.b f.pi f.h (offW f.off)

/-- The enabled elements of a gather or scatter with their addresses (R215). -/
def indexAddrs (w sh base : Nat) (m : BitVec 64) (ix : VecWord) : List (Nat × Nat) :=
  ((List.range (2048 / w)).filter (elemOn w m)).map fun e => (e, base + elemOf w ix e * 2 ^ sh)
/-- The range and alignment checks over every enabled element, lowest first (R208). -/
def State.checkElems (s : State) (n : Nat) (l : List (Nat × Nat)) : State × Bool :=
  match l.find? (fun e => decide (2 ^ 20 < e.2 + n)) with
  | some e => (s.fault addressRange (BitVec.ofNat 64 e.2), false)
  | none =>
    match l.find? (fun e => e.2 % n != 0) with
    | some e => (s.fault misaligned (BitVec.ofNat 64 e.2), false)
    | none => (s, true)
/-- A list without its repeats. -/
def dedup : List Nat → List Nat
  | [] => []
  | a :: l => if l.contains a then dedup l else a :: dedup l
/-- The passes a gather or scatter takes (R216). -/
def passes (l : List (Nat × Nat)) : Nat :=
  let ws := dedup (l.map fun e => e.2 / 8)
  (List.range 32).foldl (fun acc b => max acc (ws.countP fun w => w % 32 == b)) 0
/-- VLDX (R215). -/
def execVldx (f : FmtMX) (s : State) : Out :=
  .next (s.masked f.g fun m s =>
    let w := eWidth f.e
    let o := s.vecOperands [f.ix]
    let l := indexAddrs w f.sh (s.readS f.b).toNat m (vecVal o.2 f.ix)
    let r := o.1.checkElems (w / 8) l
    if r.2 then
      let v := ofElems w ((List.range (2048 / w)).map fun e =>
        if elemOn w m e then s.iss.mem.readN (spmAddr s.iss.core (Tab.get 0 l e)) (w / 8) else 0)
      (r.1.pushV f.v v m 0 6).modIss fun k => { k with stall := max k.stall (passes l - 1) }
    else r.1)
/-- VSTX (R215). -/
def execVstx (f : FmtMX) (s : State) : Out :=
  .next (s.masked f.g fun m s =>
    let w := eWidth f.e
    let o := s.vecOperands [f.v, f.ix]
    let l := indexAddrs w f.sh (s.readS f.b).toNat m (vecVal o.2 f.ix)
    let r := o.1.checkElems (w / 8) l
    if r.2 then
      let v := vecVal o.2 f.v
      let s := l.foldl (fun (s : State) e =>
        ({ s with mem := s.mem.writeN (spmAddr s.iss.core e.2) (w / 8) (elemOf w v e.1) } : State).noteStore
          (spmAddr s.iss.core e.2) (w / 8)) r.1
      let s := l.foldl (fun (s : State) e => s.setTag s.iss.core e.2 true) s
      s.modIss fun k => { k with stall := max k.stall (passes l - 1) }
    else r.1)

/-! ### Banks (R216) -/

/-- The 8-byte words that a scalar access touches. -/
def State.scalarWords (s : State) (g h pi b sz : Nat) (off : Int) : List Nat :=
  if !s.guard0 g then [] else ((s.formAddr h pi b off 0 (2 ^ sz) (2 ^ sz)).2.map fun a => a.toNat / 8).toList
/-- The words of the 256 bytes that a vector access touches: each bank once. -/
def State.vectorWords (s : State) (g h pi b : Nat) (off : Int) : List Nat :=
  if s.guardMask g = 0 then [] else
  ((s.formVec h pi b off (s.guardMask g)).2.map fun a => (List.range 32).map ((a + 2 ^ 20).toNat / 8 + ·)).getD []
/-- The distinct words of a gather or scatter; `l` are the vector registers it reads, its index among them. -/
def State.indexWords (s : State) (f : FmtMX) (l : List Nat) : List Nat :=
  if s.guardMask f.g = 0 then [] else
  dedup ((indexAddrs (eWidth f.e) f.sh (s.readS f.b).toNat (s.guardMask f.g) (vecVal (s.vecOperands l).2 f.ix)).map (·.2 / 8))
/-- The SPM words that the M-slot access of an instruction touches, in the state in which its bundle is attempted. -/
def State.slotWords (s : State) : Instr → List Nat
  | .ld f => s.scalarWords f.g f.h f.pi f.b f.sz (offS f.sz f.off)
  | .ldWide f => s.scalarWords f.g f.h f.pi f.b f.sz (offW f.off)
  | .st f => s.scalarWords f.g f.h f.pi f.b f.sz (offS f.sz f.off)
  | .stWide f => s.scalarWords f.g f.h f.pi f.b f.sz (offW f.off)
  | .ldf f => s.scalarWords f.g f.h f.pi f.b f.sz (offS f.sz f.off)
  | .ldfWide f => s.scalarWords f.g f.h f.pi f.b f.sz (offW f.off)
  | .lde f => s.scalarWords f.g f.h f.pi f.b f.sz (offS f.sz f.off)
  | .ldeWide f => s.scalarWords f.g f.h f.pi f.b f.sz (offW f.off)
  | .ste f => s.scalarWords f.g f.h f.pi f.b f.sz (offS f.sz f.off)
  | .steWide f => s.scalarWords f.g f.h f.pi f.b f.sz (offW f.off)
  | .vld f => s.vectorWords f.g f.h f.pi f.b (offV f.off)
  | .vldWide f => s.vectorWords f.g f.h f.pi f.b (offW f.off)
  | .vst f => s.vectorWords f.g f.h f.pi f.b (offV f.off)
  | .vstWide f => s.vectorWords f.g f.h f.pi f.b (offW f.off)
  | .vldx f => s.indexWords f [f.ix]
  | .vstx f => s.indexWords f [f.v, f.ix]
  | _ => []
/-- The bank of a word is in use, a number of cycles after the access to these words began: each pass takes one word of a
bank. -/
def bankInUse (l : List Nat) (after w : Nat) : Bool := decide (after < l.countP fun q => q % 32 == w % 32)

end Sys2Proof.Machine
end

