-- ==== Sys2Proof/Machine/Access.lean ====
section
/-! DEFINITION. How an engine reaches memory: ownership (R387), ciphertext and the keys in force (R389, R391),
interleaving (R198), page walks and the TLB (R331 to R335), fabric windows (R326), engine addresses and their checks at
issue (R202 to R204). -/

namespace Sys2Proof.Machine

/-! ### Ownership (R22, R387) -/

/-- The quarter of its die that a cluster lies in. -/
def quarterOf (cl : Nat) : Nat := 2 * (cl % 16 / 4 / 2) + cl % 4 / 2
/-- The partition that owns quarter die q of a package, if it is assigned. -/
def Owners.quarter (o : Owners) (q : Nat) : Option Nat :=
  if bits o.qvalid q 1 = 1 then some (bits o.qown.toNat (4 * q) 4) else none
/-- The partition owns the cluster. -/
def State.ownsCluster (s : State) (part cl : Nat) : Bool :=
  (s.pkg (cl / 64)).own.quarter (cl % 64 / 16 * 4 + quarterOf cl) == some part
/-- The partition owns the DMEM quarter that holds an offset of a die's DMEM. -/
def State.ownsDmem (s : State) (part die off : Nat) : Bool :=
  (s.pkg (die / 4)).own.quarter (die % 4 * 4 + off / 2 ^ 24) == some part
/-- An 8-bit owner entry names the partition. -/
def ownEntry (e : BitVec 8) (part : Nat) : Bool := decide (128 ≤ e.toNat) && e.toNat % 16 == part
/-- The pseudo-channels of a partition on a die, in increasing number (R198). -/
def State.channels (s : State) (die part : Nat) : List Nat :=
  ((List.range 128).map (die % 4 * 128 + ·)).filter fun c => ownEntry (Tab.get 0 (s.pkg (die / 4)).own.channels c) part
/-- The place of a partition physical address (R198), where the partition has it. -/
def placePa (chans : List Nat) (pkg pa : Nat) : Option Nat :=
  if pa < 2 ^ 30 * chans.length then
    some (unitAddr 4 (pkg * 512 + chans.getD (pa / 256 % chans.length) 0) (pa / 256 / chans.length * 256 + pa % 256))
  else none

/-! ### Islands (R19, R409, R410) -/

/-- FRAC of an island of a package: nominal is 64, and units of an island that is changing do not run (R409). -/
def State.frac (s : State) (p n : Nat) : Nat :=
  let k := Tab.get Island.reset (s.pkg p).islands n
  if k.busy then 0 else k.frac
/-- The unit's island runs (R410). -/
def State.islandOn (s : State) (pkg i : Nat) : Bool := s.frac pkg i != 0
/-- The island of a core's scalar and vector units runs. -/
def State.coreOn (s : State) (c : Nat) : Bool := s.islandOn (pkgOf c) (2 * (c % 512))
/-- The island of a cluster runs. -/
def State.clusterOn (s : State) (cl : Nat) : Bool := s.islandOn (cl / 64) (1024 + cl % 64)
/-- The island of a die's fabric runs. -/
def State.dieOn (s : State) (d : Nat) : Bool := s.islandOn (d / 4) (1088 + d % 4)
/-- The island of stack 2d + k, with its stack engine, runs (R7, R19). -/
def State.stackOn (s : State) (d k : Nat) : Bool := s.islandOn (d / 4) (1092 + 2 * (d % 4) + k)

/-! ### Ciphertext (R389, R391) -/

/-- The kind of memory a place lies in. -/
def placeKind (a : Nat) : Nat := a / 2 ^ 56 % 8
/-- The unit a place lies in. -/
def placeUnit (a : Nat) : Nat := a / 2 ^ 59
/-- The offset of a place in its unit. -/
def placeOff (a : Nat) : Nat := a % 2 ^ 56
/-- The island of the unit that holds a place runs: a cluster, a die's fabric, or a stack (R19). -/
def State.placeOn (s : State) (a : Nat) : Bool :=
  let u := placeUnit a
  match placeKind a with
  | 1 => s.clusterOn (u / 8)
  | 2 => s.clusterOn u
  | 3 => s.dieOn u
  | 4 => s.stackOn (u / 512 * 4 + u % 512 / 128) (u / 64 % 2)
  | _ => true
/-- The die a place of CMEM, DMEM or HBM belongs to. -/
def placeDie (a : Nat) : Nat :=
  let u := placeUnit a
  if placeKind a = 1 then u / 128 else if placeKind a = 2 then u / 16 else if placeKind a = 3 then u
  else u / 512 * 4 + u % 512 / 128
/-- How many entries of a list stand before the first equal to x. -/
def indexIn (x : Nat) : List Nat → Nat
  | [] => 0
  | a :: l => if a = x then 0 else indexIn x l + 1
/-- The clusters of a die that a partition owns, in increasing index. -/
def State.sweepClusters (s : State) (die part : Nat) : List Nat :=
  ((List.range 16).map (die * 16 + ·)).filter (s.ownsCluster part)
/-- The DMEM quarters of a die that a partition owns. -/
def State.sweepQuarters (s : State) (die part : Nat) : List Nat :=
  (List.range 4).filter fun k => s.ownsDmem part die (2 ^ 24 * k)
/-- The position of a place's line in the sweep order (R391). -/
def State.sweepPos (s : State) (part a : Nat) : Nat :=
  let d := placeDie a
  let cs := s.sweepClusters d part
  let qs := s.sweepQuarters d part
  let o := placeOff a
  if placeKind a = 2 then 2 ^ 18 * indexIn (placeUnit a) cs + o / 64
  else if placeKind a = 3 then 2 ^ 18 * (cs.length + indexIn (o / 2 ^ 24) qs) + o % 2 ^ 24 / 64
  else 2 ^ 18 * (cs.length + qs.length) + 2 ^ 24 * indexIn (placeUnit a % 512) (s.channels d part) + o / 64
/-- The lines of a partition on a die. -/
def State.sweepLines (s : State) (die part : Nat) : Nat :=
  2 ^ 18 * ((s.sweepClusters die part).length + (s.sweepQuarters die part).length) + 2 ^ 24 * (s.channels die part).length
/-- The place of the line at a position of the sweep order. -/
def State.sweepPlace (s : State) (die part pos : Nat) : Nat :=
  let cs := s.sweepClusters die part
  let qs := s.sweepQuarters die part
  let i := pos / 2 ^ 18
  if i < cs.length then unitAddr 2 (cs.getD i 0) (pos % 2 ^ 18 * 64)
  else if i < cs.length + qs.length then
    unitAddr 3 die (2 ^ 24 * qs.getD (i - cs.length) 0 + pos % 2 ^ 18 * 64)
  else
    let p := pos - 2 ^ 18 * (cs.length + qs.length)
    unitAddr 4 (die / 4 * 512 + (s.channels die part).getD (p / 2 ^ 24) 0) (p % 2 ^ 24 * 64)
/-- A partition's entry in the key table of a die (R346): slots 0 at reset. -/
def Die.key (d : Die) (part : Nat) : KeyEnt := Tab.get ⟨false, 0, 0, 0⟩ d.keytab part
/-- The key in force for a place (R391). -/
def State.lineKey (s : State) (part a : Nat) : BitVec 512 :=
  let d := s.die (placeDie a)
  let k := d.key part
  Tab.get 0 d.keyslots (if k.sweep && decide (s.sweepPos part a < k.ptr) then k.nxt else k.cur)
/-- The tweak of a place (R389). -/
def lineTweak (part a : Nat) : Nat :=
  let u := placeUnit a
  let unit := if placeKind a = 2 then u % 64 else if placeKind a = 3 then u % 4 else u % 512
  2 ^ 124 * part + 2 ^ 120 * placeKind a + 2 ^ 104 * unit + placeOff a / 64
/-- Bytes of the place are stored as ciphertext of the partition. -/
def State.crypts (s : State) (part a : Nat) : Bool :=
  let k := placeKind a
  decide (2 ≤ k) && decide (k ≤ 4) && s.protectedPart (placeDie a / 4) part
/-- Change a partition's key-table entry. -/
def State.modKey (s : State) (die part : Nat) (f : KeyEnt → KeyEnt) : State :=
  s.modDie die fun k => { k with keytab := Tab.upd ⟨false, 0, 0, 0⟩ k.keytab part f }
/-- The key of a slot of a die is erased. -/
def State.eraseSlot (s : State) (die slot : Nat) : State :=
  s.modDie die fun k => { k with keyslots := Tab.del k.keyslots slot }
/-- One line goes from the current key to the next one (R391). -/
def State.rekeyLine (s : State) (die part ptr : Nat) : State :=
  let a := s.sweepPlace die part ptr
  let k := (s.die die).key part
  if s.crypts part a then
    let slot := fun (n : Nat) => Tab.get 0 (s.die die).keyslots n
    let plain := xtsLine false (slot k.cur) (lineTweak part a) (s.mem.bytes a 64)
    { s with mem := s.mem.writeBytes a (xtsLine true (slot k.nxt) (lineTweak part a) plain) }
  else s
/-- The sweep rekeys the line at PTR (R391); after the last one the next key is the current one, and the old one is
erased. -/
def State.sweepStep (s : State) (die part : Nat) : State :=
  let k := (s.die die).key part
  let n := s.sweepLines die part
  if !k.sweep then s
  else
    let s := if k.ptr < n then s.rekeyLine die part k.ptr else s
    if k.ptr + 1 < n then s.modKey die part fun e => { e with ptr := k.ptr + 1 }
    else (s.modKey die part fun _ => ⟨false, k.nxt, k.nxt, k.ptr + 1⟩).eraseSlot die k.cur
/-- An access to a place waits: its line stands at PTR of a sweep (R392), or the unit that holds it is halted and holds
requests (R410). -/
def State.waitsAt (s : State) (part a : Nat) : Bool :=
  let k := (s.die (placeDie a)).key part
  !s.placeOn a || (s.crypts part a && k.sweep && s.sweepPos part a == k.ptr)
/-- An access of the event in progress waits, if the condition holds. -/
def State.meetIf (s : State) (b : Bool) : State := if b then { s with clk := { s.clk with met := true } } else s
/-- An access of the event in progress reaches a place. -/
def State.touch (s : State) (part a : Nat) : State := s.meetIf (s.waitsAt part a)
/-- What an event does where none of its accesses waits; one that has met such a line or unit has not begun, and is tried
again in a later cycle (R392, R410; log entry 45). -/
def State.unmet (s : State) (f : State → State) : State :=
  let t := f { s with clk := { s.clk with met := false } }
  if t.clk.met then s else t
/-- The plaintext of n bytes within one 64-byte line. -/
def State.readPlain (s : State) (part a n : Nat) : List Nat :=
  if s.crypts part a then
    ((xtsLine false (s.lineKey part a) (lineTweak part a) (s.mem.bytes (a / 64 * 64) 64)).drop (a % 64)).take n
  else s.mem.bytes a n
/-- Write bytes within one 64-byte line. -/
def State.writePlain (s : State) (part a : Nat) (l : List Nat) : State :=
  let s := s.touch part a
  if s.crypts part a then
    let key := s.lineKey part a
    let old := xtsLine false key (lineTweak part a) (s.mem.bytes (a / 64 * 64) 64)
    let new := old.take (a % 64) ++ l ++ old.drop (a % 64 + l.length)
    { s with mem := s.mem.writeBytes (a / 64 * 64) (xtsLine true key (lineTweak part a) new) }
  else { s with mem := s.mem.writeBytes a l, watch := rewrote s.watch a l.length }
/-- The pieces of n bytes from an offset that end at 64-byte boundaries: distance from the start, and length (R278). -/
def piecesOf : Nat → Nat → Nat → Nat → List (Nat × Nat)
  | 0, _, _, _ => []
  | fuel + 1, a, done, n =>
    if n = 0 then []
    else
      let k := min n (64 - a % 64)
      (done, k) :: piecesOf fuel (a + k) (done + k) (n - k)
/-- The pieces of n bytes at a. -/
def pieces (a n : Nat) : List (Nat × Nat) := piecesOf (n / 64 + 2) a 0 n

/-! ### Page walks and the TLB (R331 to R335) -/

/-- The partition physical table entry at pa. -/
def State.readPte (s : State) (die part pa : Nat) : Option (Nat × Nat) :=
  (placePa (s.channels die part) (die / 4) pa).map fun a => (a, leNum (s.readPlain part a 8))
/-- The place of the first entry a walk reads, where the root is valid. -/
def State.rootPte (s : State) (die part va : Nat) : Option Nat :=
  let root := (Tab.get 0 (s.die die).ptroot part).toNat
  if bits root 63 1 = 0 then none
  else placePa (s.channels die part) (die / 4) (2 ^ 21 * bits root 21 16 + 8 * (va / 2 ^ 30 % 2 ^ 18))
/-- An entry is valid, for the partition, without reserved bits (R333). -/
def pteOk (part e : Nat) : Bool := bits e 63 1 == 1 && bits e 55 4 == part && bits e 37 18 == 0 && bits e 0 12 == 0
/-- ADDR of an entry. -/
def pteAddr (e : Nat) : Nat := 2 ^ 12 * bits e 12 25
/-- The leaf of a walk (R333): where the entry lies, the entry, and log2 of its page size; none where the walk fails. -/
def State.walkLeaf (s : State) (die part va : Nat) : Option (Nat × Nat × Nat) :=
  let root := (Tab.get 0 (s.die die).ptroot part).toNat
  if bits root 63 1 = 0 then none
  else match s.readPte die part (2 ^ 21 * bits root 21 16 + 8 * (va / 2 ^ 30 % 2 ^ 18)) with
    | none => none
    | some (a, e) =>
      if !pteOk part e then none
      else if bits e 62 1 = 1 then (if pteAddr e % 2 ^ 30 = 0 then some (a, e, 30) else none)
      else if bits e 59 3 ≠ 0 then none
      else match s.readPte die part (pteAddr e + 8 * (va / 2 ^ 21 % 512)) with
        | none => none
        | some (a, e) =>
          if pteOk part e && bits e 62 1 == 1 && pteAddr e % 2 ^ 21 == 0 then some (a, e, 21) else none
/-- The partition physical address of a place of HBM among the partition's channels. -/
def paOf (chans : List Nat) (pkg a : Nat) : Option Nat :=
  let c := placeUnit a % 512
  if placeKind a = 4 ∧ placeUnit a / 512 = pkg ∧ chans.contains c then
    some ((placeOff a / 256 * chans.length + indexIn c chans) * 256 + placeOff a % 256)
  else none
/-- Zero line n of a page from pa, as plaintext. -/
def State.zeroLine (s : State) (chans : List Nat) (die part pa n : Nat) : State :=
  match placePa chans (die / 4) (pa + 64 * n) with
  | none => s
  | some a => s.writePlain part a (List.replicate 64 0)
/-- Zero n lines of a page from pa, as plaintext (R334). -/
def State.zeroLines (s : State) (chans : List Nat) (die part pa : Nat) : Nat → State
  | 0 => s
  | n + 1 => (s.zeroLines chans die part pa n).zeroLine chans die part pa n
/-- Zero a page (R334). -/
def State.zeroPage (s : State) (die part pa size : Nat) : State :=
  let chans := s.channels die part
  if s.protectedPart (die / 4) part then s.zeroLines chans die part pa (2 ^ size / 64)
  else { s with mem := ⟨s.mem.cells.filter fun c => match paOf chans (die / 4) c.1 with
      | none => true
      | some q => decide (q < pa) || decide (pa + 2 ^ size ≤ q)⟩ }
/-- A translation enters the TLB (R335), which keeps the latest 65,536. -/
def State.enterTlb (s : State) (die : Nat) (t : TlbEnt) : State :=
  s.modDie die fun d => { d with tlb := (t :: d.tlb).take 65536 }
/-- A page walk (R333, R334): zeroes a Z page, writes the entry back, enters the translation. Code 1 where the walk
fails, 2 where R or W is lacking. -/
def State.walk (s : State) (die part va : Nat) (r w : Bool) : State × Except Nat TlbEnt :=
  let s := (s.rootPte die part va).elim s fun a => s.touch part a
  match s.walkLeaf die part va with
  | none => (s, .error 1)
  | some (a, e, size) =>
    let s := s.touch part a
    if (r && bits e 61 1 == 0) || (w && bits e 60 1 == 0) then (s, .error 2)
    else
      let s := if bits e 59 1 = 1 then
          (s.zeroPage die part (pteAddr e) size).writePlain part a (leBytes 8 (e - 2 ^ 59))
        else s
      let t : TlbEnt := ⟨part, va / 2 ^ size * 2 ^ size, size, pteAddr e, bits e 61 1 == 1, bits e 60 1 == 1⟩
      (s.enterTlb die t, .ok t)
/-- The place of a virtual address of a partition on a die (R197, R335). -/
def State.translate (s : State) (die part va : Nat) (r w : Bool) : State × Except Nat Nat :=
  let fin := fun (x : State × Except Nat TlbEnt) => match x.2 with
    | .error c => (x.1, .error c)
    | .ok t => match placePa (x.1.channels die part) (die / 4) (t.pa + va % 2 ^ t.size) with
      | none => (x.1, .error 1)
      | some a => (x.1, .ok a)
  match (s.die die).tlb.find? (fun t => t.part == part && va / 2 ^ t.size * 2 ^ t.size == t.va) with
  | some t => if (r && !t.r) || (w && !t.w) then (s, .error 2) else fin (s, .ok t)
  | none => fin (s.walk die part va r w)

/-! ### Die table and windows (R324, R326) -/

/-- The die a logical die of a partition names, by the table of a package. -/
def State.logicalDie (s : State) (pkg part l : Nat) : Option Nat :=
  let e := (Tab.get 0 (s.pkg pkg).apex.dies (part * 4096 + l)).toNat
  if bits e 63 1 = 1 then some (bits e 2 11 * 4 + bits e 0 2) else none
/-- The die that a logical die names for an operation: as it began, where it has begun (R322). -/
def State.issuerDie (s : State) (b : Issuer) (l : Nat) : Option Nat :=
  match b.dies.find? fun e => e.1 == l with
  | some e => some e.2
  | none => s.logicalDie (b.die / 4) b.part l
/-- A window entry. -/
def State.windowEnt (s : State) (pkg part w : Nat) : Nat := (Tab.get 0 (s.pkg pkg).apex.windows (part * 1024 + w)).toNat
/-- Word i of an entry of several words. -/
def entWord (e i : Nat) : Nat := bits e (64 * i) 64
/-- What a window maps an offset to: target memory (space + 8 * unit), the offset there, and the die; an entry with V = 0 is
unused (R327). -/
def State.windowHome (s : State) (pkg part w off : Nat) : Option (Nat × Nat × Nat) :=
  let e := s.windowEnt pkg part w
  if bits e 63 1 = 0 then none
  else (s.logicalDie pkg part (bits e 0 12)).map fun d =>
    let sp := bits e 52 4
    let unit := if sp = 1 then (d * 16 + bits e 47 4) * 8 + bits e 44 3 else if sp = 2 then d * 16 + bits e 47 4 else d
    (sp + 8 * unit, entWord e 1 + off, d)
/-- The barrier core of a window (R326, R327). -/
def State.windowBarrier (s : State) (pkg part w : Nat) : Option Nat :=
  let e := s.windowEnt pkg part w
  if bits e 63 1 = 1 ∧ bits e (192 + 7) 1 = 1 then
    (s.logicalDie pkg part (bits e 0 12)).map fun d => (d * 16 + bits e (192 + 3) 4) * 8 + bits e 192 3
  else none
/-- The dead-peer bit of package p in the bitmap of package q; its own bit is ignored (R319, R350). -/
def State.peerDead (s : State) (q p : Nat) : Bool :=
  q != p && (Tab.get 0 (s.pkg q).apex.dead (p / 64)).getLsbD (p % 64)

/-! ### Reaching a place -/

/-- The die whose scheduler runs the issuer's node: nodes of different dies may share an id (R45, R341). -/
def State.homeOf (s : State) (b : Issuer) : Nat := b.core.elim b.die fun c => (s.core c).ident.home
/-- A write to the SPM of a stopped core from outside its node is refused with code 9 (R381). -/
def State.stoppedFor (s : State) (b : Issuer) (a : Nat) : Bool :=
  let k := s.core (placeUnit a)
  placeKind a == 1 && k.stat.stopped && !(k.ident.part == b.part && k.ident.node == b.node && k.ident.home == s.homeOf b)
/-- The place of an offset in a target memory (space + 8 * unit) for a partition: ownership (code 2) and translation. -/
def State.homePlace (s : State) (part mem off : Nat) (r w : Bool) : State × Except Nat Nat :=
  let sp := mem % 8
  let unit := mem / 8
  if sp = 4 then s.translate unit part (off % 2 ^ 48) r w
  else if sp = 3 && !s.ownsDmem part unit off then (s, .error 2)
  else (s, .ok (unitAddr sp unit off))
/-- The place an engine address reaches for the agent that issued the operation (R202); the error code where it fails. -/
def State.locate (s : State) (b : Issuer) (a : Nat) (r w : Bool) : State × Except Nat Nat :=
  let off := off48 a
  let x : State × Except Nat Nat := match spaceOf a with
    | 0 => match b.core with
      | some c => (s, .ok (spmAddr c (off % 2 ^ 20)))
      | none => (s, .error 1)
    | 1 => (s, .ok (spmAddr (b.cluster * 8 + a / 2 ^ 56 % 8) (off % 2 ^ 20)))
    | 2 => (s, .ok (cmemAddr b.cluster (off % 2 ^ 24)))
    | 3 => s.homePlace b.part (3 + 8 * b.die) (off % 2 ^ 26) r w
    | 4 => s.translate b.die b.part off r w
    | 5 => match s.issuerDie b (a / 2 ^ 48 % 4096) with
      | some d => s.translate d b.part off r w
      | none => (s, .error 1)
    | 6 => match s.windowHome (b.die / 4) b.part (windowOf a) off with
      | some h => s.homePlace b.part h.1 h.2.1 r w
      | none => (s, .error 1)
    | _ =>
      let d := s.draw
      if Config.hostRefuses d.1 then (d.2, .error 2) else (d.2, .ok (unitAddr 7 (b.die / 4) (a % 2 ^ 56)))
  match x.2 with
  | .ok p => if w && s.stoppedFor b p then (x.1, .error 9) else x
  | .error _ => x
/-- The memory as an operation sees it: a store of its own bundle is not seen, and what was written after it is (R100, R218,
R256). -/
def Issuer.sees (b : Issuer) (w : Tab Nat) (m : Memory) : Memory :=
  match b.core with
  | none => m
  | some c => b.hide.foldl (fun m e =>
      let a := spmAddr c e.off
      if m.read a = e.new ∧ Tab.get 0 w a = e.at_ then m.write a e.old else m) m
/-- Read n bytes at an engine address, line by line. -/
def State.engRead (s : State) (b : Issuer) (a n : Nat) : State × Except Nat (List Nat) :=
  (pieces a n).foldl (fun acc p => match acc.2 with
    | .error c => (acc.1, .error c)
    | .ok l =>
      let x := acc.1.locate b (a + p.1) true false
      match x.2 with
      | .error c => (x.1, .error c)
      | .ok q => (x.1.touch b.part q,
        .ok (l ++ ({ x.1 with mem := b.sees x.1.watch x.1.mem } : State).readPlain b.part q p.2))) (s, .ok [])
/-- Write one piece at an engine address; with `tag`, the SPM words written become FULL (R194). -/
def State.engWrite (s : State) (b : Issuer) (a : Nat) (l : List Nat) (tag : Bool) : State × Except Nat Unit :=
  let x := s.locate b a false true
  match x.2 with
  | .error c => (x.1, .error c)
  | .ok q =>
    let s := x.1.writePlain b.part q l
    (if tag && placeKind q == 1 then s.fillTags (placeUnit q) (placeOff q) l.length else s, .ok ())
/-- Write bytes at an engine address, line by line; stops at the first piece that fails. -/
def State.engWriteAll (s : State) (b : Issuer) (a : Nat) (l : List Nat) (tag : Bool) : State × Except Nat Unit :=
  (pieces a l.length).foldl (fun acc p => match acc.2 with
    | .error c => (acc.1, .error c)
    | .ok () => acc.1.engWrite b (a + p.1) ((l.drop p.1).take p.2) tag) (s, .ok ())
/-- Who issues for a context of a core. -/
def State.issuerOf (s : State) (c x : Nat) : Issuer :=
  ⟨some c, x, clusterOf c, dieOf c, (s.core c).ident.part, (s.core c).ident.node, [], []⟩
/-- The bytes that the stores of the bundle in progress write, with what they held. -/
def State.storedBytes (s : State) : List Hidden :=
  (s.iss.stored.flatMap fun r => (List.range r.2).map fun i =>
    let a := r.1 + i
    (⟨a - spmAddr s.iss.core 0, s.iss.mem.read a, s.mem.read a, Tab.get 0 s.watch a + 1⟩ : Hidden)).filter fun e => e.old != e.new
/-- Who issues the bundle in progress. -/
def State.issuer (s : State) : Issuer := { s.issuerOf s.iss.core s.iss.ctx with hide := s.storedBytes }

/-! ### Checks at issue (R203, R204) -/

/-- An address of an operation with the bytes it covers, from lo to hi - 1 relative to it, the spaces it may name, and
the window permission it needs (a bit of word 0). -/
structure AddrUse where
  addr : Nat
  lo : Int
  hi : Int
  spaces : List Nat
  perm : Nat
  deriving DecidableEq, Repr

/-- Bits of an address's offset in its space. -/
def spaceBits (sp : Nat) : Nat :=
  if sp ≤ 1 then 20 else if sp = 2 then 24 else if sp = 3 then 26 else if sp = 7 then 56 else 48
/-- The offset of an address in its space. -/
def spaceOff (a : Nat) : Nat := a % 2 ^ spaceBits (spaceOf a)
/-- A bit that must be 0 is set (R202). -/
def mbzSet (a : Nat) : Bool :=
  match spaceOf a with
  | 0 => bits a 20 40 != 0
  | 1 => bits a 59 1 != 0 || bits a 20 36 != 0
  | 2 => bits a 24 36 != 0
  | 3 => bits a 26 34 != 0
  | 4 => bits a 48 12 != 0
  | 6 => bits a 58 2 != 0
  | 7 => bits a 56 4 != 0
  | _ => false
/-- The address as a TVAL. -/
def AddrUse.tval (u : AddrUse) : Word := BitVec.ofNat 64 u.addr
/-- The window checks of R200. -/
def State.windowBad (s : State) (pkg part : Nat) (u : AddrUse) : Bool :=
  let e := s.windowEnt pkg part (windowOf u.addr)
  bits e 63 1 == 0 || (s.logicalDie pkg part (bits e 0 12)).isNone
    || decide ((entWord e 2 : Int) < off48 u.addr + u.hi) || bits e u.perm 1 == 0
/-- The target package of an address in space 5 or 6. -/
def State.targetPkg (s : State) (pkg part : Nat) (a : Nat) : Option Nat :=
  if spaceOf a = 5 then (s.logicalDie pkg part (a / 2 ^ 48 % 4096)).map (· / 4)
  else if spaceOf a = 6 then (s.windowHome pkg part (windowOf a) 0).map (·.2.2 / 4)
  else none
/-- One row of R203 for one address: the fault, if it is raised. -/
def State.addrCheck (s : State) (pkg part : Nat) (u : AddrUse) : Nat → Option (Nat × Word)
  | 0 => if 8 ≤ spaceOf u.addr then some (addressSpaceFault, u.tval) else none
  | 1 => if u.spaces.contains (spaceOf u.addr) then none else some (addressSpaceFault, u.tval)
  | 2 => if spaceOf u.addr = 5 ∧ (s.logicalDie pkg part (u.addr / 2 ^ 48 % 4096)).isNone then
      some (addressSpaceFault, u.tval) else none
  | 3 => if mbzSet u.addr then some (addressRange, u.tval) else none
  | 4 => if u.lo < u.hi ∧ (spaceOff u.addr + u.lo < 0 ∨ (2 ^ spaceBits (spaceOf u.addr) : Int) < spaceOff u.addr + u.hi)
      then some (addressRange, u.tval) else none
  | 5 => if spaceOf u.addr = 6 ∧ s.windowBad pkg part u then
      some (windowFault, BitVec.ofNat 64 (windowOf u.addr)) else none
  | _ => match s.targetPkg pkg part u.addr with
    | some p => if s.peerDead pkg p then some (deadPeer, BitVec.ofNat 64 p) else none
    | none => none
/-- The first answer of a list of checks. -/
def firstSome {α : Type} : List (Option α) → Option α
  | [] => none
  | some a :: _ => some a
  | none :: l => firstSome l
/-- The checks of R203, row by row over all addresses of the operation. -/
def State.addrChecks (s : State) (pkg part : Nat) (l : List AddrUse) : Option (Nat × Word) :=
  firstSome ((List.range 7).flatMap fun i => l.map fun u => s.addrCheck pkg part u i)
/-- An address over n bytes, with no window. -/
def plainUse (a n : Nat) (spaces : List Nat) : AddrUse := ⟨a, 0, n, spaces, 0⟩
/-- Spaces a COPY accepts (R204). -/
def copySpaces : List Nat := [0, 1, 2, 3, 4, 5, 7]

end Sys2Proof.Machine
end

