-- ==== Sys2Proof/Machine/Start.lean ====
section
/-! DEFINITION. Starting engine operations: their order (R259 to R261), the checks at issue and the commands they make
(R274, R277, R293 to R301), barrier arrivals (R354) and the triggers they fire (R360, R364). -/

namespace Sys2Proof.Machine

/-! ### Order of operations -/

/-- The operation is not complete, or an armed trigger of the core may yet fire it. -/
def State.mayRun (s : State) (c i : Nat) : Bool := s.net.live.contains i || (s.core c).trig.any fun e => e.2.opId == i
/-- The operations that a new one of the context follows: those in force by a fence or an acquire, and with a release
every earlier one (R259 to R261). One that no trigger has fired yet is not covered (R416; log entry 31). -/
def State.depsFor (s : State) (c x : Nat) (rel : Bool) : List Nat :=
  let d := (s.ctx c x).dep
  (if rel then d.fence ++ d.ops else d.fence).filter s.net.live.contains
/-- The operations that a trigger's operation may have to follow: of them, those that have started by its firing (R416). -/
def State.armDeps (s : State) (c x : Nat) (rel : Bool) : List Nat :=
  let d := (s.ctx c x).dep
  (if rel then d.fence ++ d.ops else d.fence).filter fun i => s.mayRun c i && decide (i < s.iss.ops)
/-- The operation takes its place in the context; with an acquire, later ones follow it. -/
def State.placeOp (s : State) (c x : Nat) (acq : Bool) (i : Nat) : State :=
  let may := s.mayRun c
  s.modCtx c x fun k => { k with dep := ⟨i :: k.dep.ops.filter may, if acq then i :: k.dep.fence else k.dep.fence⟩ }
/-- A new operation of a context, with its number. -/
def State.ctxOp (s : State) (c x : Nat) (acq : Bool) : Nat × State :=
  let o := s.newOp
  (o.1, o.2.placeOp c x acq o.1)
/-- The number of an operation that a trigger is to fire: it has its place at once and starts at the firing (R364). -/
def State.armOp (s : State) (c x : Nat) (acq : Bool) : Nat × State :=
  let i := s.net.nextOp
  (i, ({ s with net := { s.net with nextOp := i + 1 } } : State).placeOp c x acq i)
/-- A fence: every later operation of the context follows every earlier one (R259). -/
def State.fenceCtx (s : State) (c x : Nat) : State :=
  let may := s.mayRun c
  s.modCtx c x fun k => { k with dep := { k.dep with fence := (k.dep.fence ++ k.dep.ops).filter may } }

/-! ### Barrier objects (R353, R354) -/

/-- The address of a core's barrier object. -/
def State.barAddr (s : State) (c b : Nat) : Nat := spmAddr c ((s.core c).csr.barbase * 512 + 16 * b)
/-- Word 0 of a core's barrier object, in a memory. -/
def State.barWord (s : State) (m : Memory) (c b : Nat) : Nat := m.readN (s.barAddr c b) 8
/-- ERR, MODE, PHASE and T of word 0. -/
def bErr (w : Nat) : Bool := bits w 26 1 == 1
def bMode (w : Nat) : Bool := bits w 25 1 == 1
def bPhase (w : Nat) : Bool := bits w 24 1 == 1
def bTarget (w : Nat) : Nat := w % 2 ^ 24
/-- COUNT of word 0. -/
def bCount (w : Nat) : Nat := w / 2 ^ 32 % 2 ^ 32
/-- Set ERR in word 0. -/
def setErr (w : Nat) : Nat := if bErr w then w else w + 2 ^ 26
/-- Flip PHASE in word 0. -/
def flipPhase (w : Nat) : Nat := if bPhase w then w - 2 ^ 24 else w + 2 ^ 24
/-- SHAREj of word 0. -/
def bShare (w j : Nat) : Nat := bits w (32 + 4 * j) 4
/-- Byte j of word 1. -/
def bDel (w j : Nat) : Nat := bits w (8 * j) 8
/-- Arrive(b, i) on the two words of the object (R354); whether the triggers are evaluated. -/
def arriveWords (w0 w1 inc : Nat) : Nat × Nat × Bool :=
  if bits w0 27 5 ≠ 0 then (setErr w0, w1, false)
  else if !bMode w0 then
    let c := bCount w0 + inc
    let w := if c ≥ 2 ^ 32 then setErr w0 else w0
    let c := min c (2 ^ 32 - 1)
    let w := if bTarget w0 ≤ c then flipPhase w else w
    let c := if bTarget w0 ≤ c then c - bTarget w0 else c
    (w % 2 ^ 32 + c * 2 ^ 32, w1, true)
  else
    let p := inc / 512 % 8
    let d := (List.range 8).map fun j => if j = p then min 255 (bDel w1 j + inc % 512) else bDel w1 j
    let named := (List.range 8).filter fun j => bShare w0 j != 0
    let full := !named.isEmpty && named.all fun j => decide (bShare w0 j ≤ d.getD j 0)
    let d' := if full then (List.range 8).map fun j => d.getD j 0 - bShare w0 j else d
    (if full then flipPhase w0 else w0, leNum d', true)
/-- An engine error sets ERR on the operation's barrier (R273, R355). -/
def State.barrierErr (s : State) (c b : Nat) : State :=
  let a := s.barAddr c b
  { s with mem := s.mem.writeN a 8 (setErr (s.barWord s.mem c b)), watch := rewrote s.watch a 8 }

/-! ### Checks at issue of the operations a trigger can fire -/

/-- Barrier and increment of an operation. -/
def TrigOp.barrier (o : TrigOp) : Option Nat := if o.nb then none else some o.bar
/-- The checks of COPY (R277); `h` is the word of the buffer-table entry of a handle destination. -/
def State.copyCheck (s : State) (c : Nat) (o : TrigOp) (h : Option Nat) : Option (Nat × Word) :=
  let part := (s.core c).ident.part
  let dst := match h with
    | none => o.dst.toNat
    | some e => hBase e
  let n := o.len.toNat
  let spm := decide (spaceOf dst ≤ 1)
  match s.addrChecks (pkgOf c) part [plainUse dst n copySpaces, plainUse o.src.toNat n copySpaces] with
  | some f => some f
  | none =>
    if s.protectedPart (pkgOf c) part && spaceOf dst == 7 then some (addressSpaceFault, BitVec.ofNat 64 dst)
    else if 2 ^ 32 ≤ n then some (addressRange, o.len)
    else if (h.map fun e => decide (hLen e < n)) = some true then some (addressRange, o.len)
    else if o.tag && spm && dst % 8 != 0 then some (misaligned, BitVec.ofNat 64 dst)
    else if o.tag && spm && n % 8 != 0 then some (misaligned, o.len)
    else if o.ckpt && spaceOf dst != 4 then some (addressSpaceFault, BitVec.ofNat 64 dst)
    else none
/-- The remote barrier of an RPUT's OPX (R297). -/
def remoteBar (opx : Nat) : Option Nat := if bits opx 7 1 = 1 then some (opx % 32) else none
/-- The checks of RPUT (R294, R297, R327). -/
def State.rputCheck (s : State) (c : Nat) (o : TrigOp) : Option (Nat × Word) :=
  let part := (s.core c).ident.part
  let n := o.len.toNat
  match s.addrChecks (pkgOf c) part [⟨o.dst.toNat, 0, n, [6], 61⟩, plainUse o.src.toNat n [0]] with
  | some f => some f
  | none =>
    if 2 ^ 20 < n then some (addressRange, o.len)
    else if (remoteBar o.opx).isSome && (s.windowBarrier (pkgOf c) part (windowOf o.dst.toNat)).isNone then
      some (windowFault, BitVec.ofNat 64 (windowOf o.dst.toNat))
    else none
/-- The checks of RGETV (R294, R301). -/
def State.rgetvCheck (s : State) (c : Nat) (o : TrigOp) : Option (Nat × Word) :=
  let n := o.len.toNat
  match s.addrChecks (pkgOf c) (s.core c).ident.part [plainUse o.dst.toNat n [0], ⟨o.src.toNat, 0, n, [6], 62⟩] with
  | some f => some f
  | none =>
    if n = 0 ∨ 256 < n then some (addressRange, o.len)
    else if o.tag && (o.dst.toNat % 8 != 0 || n % 8 != 0) then some (misaligned, o.dst)
    else none
/-- The member entries of a multicast group of a package: index, RB, BAR, WIN (R298). -/
def State.groupMembers (s : State) (pkg g : Nat) : List (Nat × Bool × Nat × Nat) :=
  let a := (s.pkg pkg).apex
  let e := (Tab.get 0 a.groups g).toNat
  (List.range (bits e 46 13)).map fun i =>
    let m := Tab.get 0 a.members ((bits e 0 16 + i) % 65536)
    (i, bits m 15 1 == 1, bits m 10 5, bits m 0 10)
/-- A member's window is invalid, lacks write permission, does not hold the range, or lacks the barrier core it needs. -/
def State.memberBad (s : State) (pkg part off n : Nat) (m : Nat × Bool × Nat × Nat) : Bool :=
  s.windowBad pkg part ⟨6 * 2 ^ 60 + m.2.2.2 * 2 ^ 48 + off, 0, n, [6], 61⟩
    || (m.2.1 && (s.windowBarrier pkg part m.2.2.2).isNone)
/-- The member's target package has its dead-peer bit set (R299): the member is skipped. -/
def State.memberDead (s : State) (pkg part : Nat) (m : Nat × Bool × Nat × Nat) : Bool :=
  (s.windowHome pkg part m.2.2.2 0).elim false fun h => s.peerDead pkg (h.2.2 / 4)
/-- The group's entry is valid and of the partition. -/
def State.groupOk (s : State) (pkg part g : Nat) : Bool :=
  let e := (Tab.get 0 (s.pkg pkg).apex.groups g).toNat
  bits e 63 1 == 1 && bits e 59 4 == part
/-- The checks of RMCAST (R294, R299). -/
def State.rmcastCheck (s : State) (c : Nat) (o : TrigOp) : Option (Nat × Word) :=
  let part := (s.core c).ident.part
  let pkg := pkgOf c
  let n := o.len.toNat
  let g := o.opx
  let uses : List AddrUse := [⟨o.dst.toNat, 0, n, [6], 61⟩, plainUse o.src.toNat n [0]]
  match firstSome ((List.range 5).flatMap fun i => uses.map fun u => s.addrCheck pkg part u i) with
  | some f => some f
  | none =>
    if windowOf o.dst.toNat ≠ 0 then some (addressRange, o.dst)
    else if !s.groupOk pkg part g then some (windowFault, BitVec.ofNat 64 (g * 65536))
    else match (s.groupMembers pkg g).find? (fun m =>
        !s.memberDead pkg part m && s.memberBad pkg part (off48 o.dst.toNat) n m) with
      | some m => some (windowFault, BitVec.ofNat 64 (g * 65536 + m.1))
      | none => if 2 ^ 20 < n then some (addressRange, o.len) else none
/-- The checks of the operation a trigger names (R362). -/
def State.trigCheck (s : State) (c : Nat) (o : TrigOp) : Option (Nat × Word) :=
  match o.kind with
  | 0 => s.copyCheck c o none
  | 1 => s.rputCheck c o
  | 2 => s.rmcastCheck c o
  | 3 => s.rgetvCheck c o
  | _ => none

/-! ### Commands and fabric operations -/

/-- The place in CMEM's cluster of a copy-class command: its one row of bytes. -/
def rowShape (n : Nat) : Shape := ⟨1, n, 0, 0⟩
/-- The dies that the logical dies of an operation's addresses name as it begins (R322). -/
def State.bindDies (s : State) (b : Issuer) (l : List Nat) : Issuer :=
  { b with dies := b.dies ++ (l.filter fun a => spaceOf a == 5).filterMap fun a =>
      (s.logicalDie (b.die / 4) b.part (a / 2 ^ 48 % 4096)).map fun d => (a / 2 ^ 48 % 4096, d) }
/-- A command on its way into the time-sorted buffer (R274). -/
def State.addCmd (s : State) (m : Cmd) : State :=
  let m := { m with by_ := s.bindDies m.by_ [m.dst, m.src] }
  s.modCluster m.by_.cluster fun k => { k with bte := { k.bte with coming := k.bte.coming ++ [m] } }
/-- Commands the buffer of a cluster holds or expects. -/
def State.bteLoad (s : State) (cl : Nat) : Nat :=
  let b := (s.cluster cl).bte
  b.coming.length + b.buffer.length
/-- The copy of an operation word, entering the buffer at a cycle. -/
def State.startCopy (s : State) (b : Issuer) (o : TrigOp) (h : Option (Nat × Nat)) (time enterAt opId : Nat)
    (after : List Nat) : State :=
  s.addCmd { opId := opId, by_ := b, kind := 0,
             dst := (match h with
               | none => o.dst.toNat
               | some e => hBase e.2),
             src := o.src.toNat, shape := rowShape o.len.toNat, time := time, bar := o.barrier, inc := o.inc,
             tag := o.tag, ckpt := o.ckpt, handle := h.map (·.1), after := after, enterAt := enterAt, phase := 0,
             row := 0, off := 0, relAt := 0, limit := 0, chunk := none, waited := 0, sentAt := 0 }
/-- A fabric operation enters the request queue of its core (R293). -/
def State.addFop (s : State) (opId : Nat) (f : Fop) : State :=
  let s := { s with net := { s.net with fops := Tab.set s.net.fops opId { f with born := s.clk.cycle } } }
  match f.by_.core with
  | some c => s.modCore c fun k => { k with fab := k.fab ++ [opId] }
  | none => s
/-- A fabric operation with nothing filled in but what every kind has. -/
def blankFop (kind : Nat) (b : Issuer) (after : List Nat) : Fop :=
  { kind := kind, by_ := b, src := 0, dst := 0, len := 0, bar := none, inc := 0, tag := false, rel := false, acq := false,
    scope := 0, fop := 0, wide := false, x := 0, b := 0, hpc := none, cookie := 0, after := after, stage := 0, mem := 0,
    off := 0, pkg := 0, dlv := [], left := [], data := [], val := 0, win := 0, rank := 0, round := 0, at_ := 0, born := 0,
    hop := 0, inBuf := 0, entered := 0, port := 0 }
/-- The delivery of n bytes to a window at an offset (R297). -/
def State.delivery (s : State) (pkg part w off n : Nat) (bar : Option Nat) : List Deliver :=
  match s.windowHome pkg part w off with
  | none => []
  | some h =>
    let bc := match bar with
      | none => none
      | some k => (s.windowBarrier pkg part w).map fun c => (c, k)
    [⟨h.1, h.2.1, h.2.2 / 4, bc, pieces h.2.1 n, false, false⟩]
/-- RPUT (R297). -/
def State.startRput (s : State) (b : Issuer) (o : TrigOp) (opId : Nat) (after : List Nat) : State :=
  let a := o.dst.toNat
  let dlv := s.delivery (b.die / 4) b.part (windowOf a) (off48 a) o.len.toNat (remoteBar o.opx)
  s.addFop opId { blankFop 0 b after with
    src := o.src.toNat % 2 ^ 20, len := o.len.toNat, bar := o.barrier, inc := o.inc, rel := o.rel, scope := o.scope,
    dlv := dlv, pkg := (dlv.head?.elim 0 (·.pkg)) }
/-- RMCAST (R299): members on dead packages are skipped. -/
def State.startRmcast (s : State) (b : Issuer) (o : TrigOp) (opId : Nat) (after : List Nat) : State :=
  let pkg := b.die / 4
  let dlv := (s.groupMembers pkg o.opx).flatMap fun m =>
    s.delivery pkg b.part m.2.2.2 (off48 o.dst.toNat) o.len.toNat (if m.2.1 then some m.2.2.1 else none)
  s.addFop opId { blankFop 6 b after with
    src := o.src.toNat % 2 ^ 20, len := o.len.toNat, bar := o.barrier, inc := o.inc, rel := o.rel, scope := o.scope,
    dlv := dlv.filter fun d => !s.peerDead pkg d.pkg, pkg := pkg }
/-- RGETV (R301). -/
def State.startRgetv (s : State) (b : Issuer) (o : TrigOp) (opId : Nat) (after : List Nat) : State :=
  let a := o.src.toNat
  let h := (s.windowHome (b.die / 4) b.part (windowOf a) (off48 a)).getD (0, 0, 0)
  s.addFop opId { blankFop 2 b after with
    dst := o.dst.toNat % 2 ^ 20, len := o.len.toNat, bar := o.barrier, inc := o.inc, tag := o.tag, acq := o.acq,
    scope := o.scope, mem := h.1, off := h.2.1, pkg := h.2.2 / 4,
    left := pieces (o.dst.toNat % 2 ^ 20) o.len.toNat }

/-! ### Triggers (R360, R364) -/

/-- The condition of a trigger, on word 0 of its barrier. -/
def Trigger.met (t : Trigger) (w : Nat) : Bool :=
  bPhase w != t.phase || (!bMode w && decide (t.thr ≤ bCount w))
/-- An arrival of the core's own that is due. -/
def State.addArrive (s : State) (c : Nat) (a : PendArrive) : State :=
  s.modCore c fun k => { k with arrives := k.arrives ++ [a] }
/-- Firing trigger i of a core (R364): it leaves the list, and its operation is live. A copy that finds the BTE's buffer full
fires in the first cycle with room (R274); a fabric operation waits in the request queue for an entry (R364). A table
check that fails completes the operation with an engine error. Of earlier operations it follows those that have started
by then (R416). -/
def State.fireTrigger (s : State) (c i : Nat) (t : Trigger) : State :=
  let b := { s.issuerOf c t.ctx with node := (s.core c).ident.node }
  let gone := s.modCore c fun k => { k with trig := Tab.del k.trig i }
  let gone := { gone with net := { gone.net with live := t.opId :: gone.net.live } }
  let after := t.after.filter s.net.live.contains
  if t.op.kind = 4 then gone.addArrive c ⟨s.clk.cycle + 1, t.op.bar, t.op.inc, after, t.opId, 8, none⟩
  else match s.trigCheck c t.op with
    | some _ =>
      let g := gone.coreFault (dieOf c) 6 13 c (if t.op.nb then 0 else t.op.bar) t.op.dst.toNat 0
      (if t.op.nb then g else g.barrierErr c t.op.bar).endOp t.opId
    | none =>
      if t.op.kind = 0 then
        if s.bteLoad (clusterOf c) < 128 then gone.startCopy b t.op none 0 (s.clk.cycle + 1) t.opId after
        else s.modCore c fun k => { k with trig := Tab.set k.trig i { t with metAt := s.clk.cycle + 1 } }
      else if t.op.kind = 1 then gone.startRput b t.op t.opId after
      else if t.op.kind = 2 then gone.startRmcast b t.op t.opId after
      else gone.startRgetv b t.op t.opId after
/-- EvaluateTriggers(b) (R354, R360): in increasing index order. -/
def State.evalTriggers (s : State) (c b : Nat) : State :=
  let w := s.barWord s.mem c b
  if (s.core c).stat.stopped then s else
  ((s.core c).trig.filter fun e => e.2.bar == b && e.2.metAt == 0 && e.2.met w).foldl
    (fun s e => s.fireTrigger c e.1 e.2) s
/-- Triggers whose condition was met at their arming fire in the cycle after it; copies that found no room fire with it. -/
def State.fireMet (s : State) (c : Nat) : State :=
  if (s.core c).stat.stopped then s else
  ((s.core c).trig.filter fun e => e.2.metAt != 0 && decide (e.2.metAt ≤ s.clk.cycle)).foldl
    (fun s e => s.fireTrigger c e.1 e.2) s
/-- Arrive(b, inc) on a core's barrier object (R354). -/
def State.arrive (s : State) (c b inc : Nat) : State :=
  let a := s.barAddr c b
  let r := arriveWords (s.mem.readN a 8) (s.mem.readN (a + 8) 8) inc
  let s := { s with mem := (s.mem.writeN a 8 r.1).writeN (a + 8) 8 r.2.1, watch := rewrote s.watch a 16 }
  if r.2.2 then s.evalTriggers c b else s
/-- The operation's barrier arrival on its issuing core, and its end. -/
def State.finishOp (s : State) (b : Issuer) (bar : Option Nat) (inc opId : Nat) : State :=
  let s := match b.core, bar with
    | some c, some k => s.arrive c k inc
    | some _, none => s
    | none, some _ => s
    | none, none => s
  s.endOp opId
/-- The operation completes with an engine error: a record, ERR on its barrier, and its end (R273, R295). -/
def State.failOp (s : State) (b : Issuer) (unit code : Nat) (bar : Option Nat) (addr opId : Nat) : State :=
  let s := match b.core with
    | some c => s.coreFault b.die unit code c (bar.getD 0) addr 0
    | none => (s.engineFault b.die unit code b.node 0 0 addr 0).countError b.die b.node
  let s := match b.core, bar with
    | some c, some k => s.barrierErr c k
    | some _, none => s
    | none, some _ => s
    | none, none => s
  s.endOp opId
/-- BARINIT takes effect on the object at an address (R359). -/
def State.barinit (s : State) (c b a : Nat) (v : Nat) : State :=
  let lo := v % 2 ^ 26 / 2 ^ 25 * 2 ^ 25 + v % 2 ^ 24
  let w := if bits v 25 1 = 0 then lo else v / 2 ^ 32 * 2 ^ 32 + lo
  let s := { s with mem := (s.mem.writeN a 8 w).writeN (a + 8) 8 0, watch := rewrote s.watch a 16 }
  let gone := ((s.core c).trig.filter fun e => e.2.bar == b).map (·.2.opId)
  let s := gone.foldl (fun s i => s.endOp i) s
  s.modCore c fun k => { k with trig := k.trig.filter fun e => e.2.bar != b }
/-- Insert by slot, behind those of the same slot. -/
def insertArrive (a : PendArrive) : List PendArrive → List PendArrive
  | [] => [a]
  | b :: l => if b.slot ≤ a.slot then b :: insertArrive a l else a :: b :: l
/-- In the order in which the arrivals of a cycle are applied (R355): those of bundle boundaries by slot, then the engines'. -/
def sortArrives (l : List PendArrive) : List PendArrive := l.foldl (fun acc a => insertArrive a acc) []
/-- The BARINITs that the core issued in the cycle before are made as a cycle begins (R359): after every arrival applied
before it, and before those of this one. What the objects held is kept for the accesses of other contexts, which precede
them. -/
def State.makeInits (s : State) (c : Nat) : State :=
  let l := (s.core c).inits.filter fun i => i.old.isNone
  let s' := l.foldl (fun s i => s.barinit c i.bar i.addr i.word.toNat) s
  s'.modCore c fun k => { k with inits := l.map fun i => { i with old := some (s.mem.readN i.addr 16) } }
/-- The arrivals of a core that are due and whose fences are met are applied, in order (R355, R356); then the triggers that
were met at their arming fire. -/
def State.applyArrivals (s : State) (c : Nat) : State :=
  let l := (s.core c).arrives
  let ready := fun (a : PendArrive) => decide (a.due ≤ s.clk.cycle) && s.done a.after
  let s' := s.modCore c fun k => { k with arrives := l.filter fun a => !ready a }
  ((sortArrives (l.filter ready)).foldl (fun s a => (s.arrive c a.bar a.inc).endOp a.opId) s').fireMet c

end Sys2Proof.Machine
end

