-- ==== Sys2Proof/Machine/Barrier.lean ====
section
/-! DEFINITION. Barrier, trigger and monitor instructions (spec/16_counters.md), and monitor samples (R367). -/

namespace Sys2Proof.Machine

/-! ### Monitors (R365 to R367) -/

/-- The partition that owns a monitor of a die. -/
def Die.monOwner (d : Die) (m : Nat) : Nat := bits d.monown.toNat (4 * m) 4
/-- One sample (R367). -/
def Mon.sample (m : Mon) (v : Nat) : Mon :=
  let u := v / 2 ^ bits m.cfg.toNat 40 4
  let k := if u = 0 then 0 else min 15 (Nat.log2 u + 1)
  { m with samples := min (2 ^ 64 - 1) (m.samples + 1), sum := min (2 ^ 64 - 1) (m.sum + v), min_ := min m.min_ v,
           max_ := max m.max_ v, bins := Tab.upd 0 m.bins k fun b => min (2 ^ 32 - 1) (b + 1) }
/-- A monitor of the die counts a source of a partition's unit; `cl` is the cluster of a per-cluster source. -/
def Die.monCounts (d : Die) (m part src : Nat) (cl : Option Nat) : Bool :=
  let w := (Tab.get Mon.reset d.mons m).cfg.toNat
  d.monOwner m == part && bits w 56 6 == src && w != 0 &&
    (match cl with
      | none => true
      | some i => bits w 55 1 == 1 || bits w 44 4 == i % 16)
/-- An event of a source is sampled by every monitor of the die that counts it. -/
def State.sample (s : State) (die part src : Nat) (cl : Option Nat) (v : Nat) : State :=
  (List.range 16).foldl (fun s m =>
    if (s.die die).monCounts m part src cl then
      s.modDie die fun d => { d with mons := Tab.upd Mon.reset d.mons m fun k => k.sample v }
    else s) s
/-- The 104-byte snapshot record (R367). -/
def Mon.record (m : Mon) : List Nat :=
  leBytes 8 m.cfg.toNat ++ leBytes 8 m.samples ++ leBytes 8 m.sum ++ leBytes 8 m.min_ ++ leBytes 8 m.max_
    ++ (List.range 16).flatMap fun k => leBytes 4 (Tab.get 0 m.bins k)
/-- A snapshot that a core asked for is written (R367). -/
def State.snapshot (s : State) (c : Nat) : State :=
  match (s.core c).snap with
  | none => s
  | some (m, off, clear) =>
    let k := Tab.get Mon.reset (s.die (dieOf c)).mons m
    let s := { s with mem := s.mem.writeBytes (spmAddr c off) k.record, watch := rewrote s.watch (spmAddr c off) 104 }
    let s := s.modCore c fun k => { k with snap := none }
    if clear then s.modDie (dieOf c) fun d => { d with mons := Tab.set d.mons m { Mon.reset with cfg := k.cfg } } else s
/-- Reserved bits of a configuration word are set, or OP 0 names a source that is not listed or a die-wide source
without ALL (R366). -/
def monBad (w : Nat) : Bool :=
  bits w 48 7 != 0 || bits w 20 20 != 0
    || (bits w 62 2 == 0 && (decide (11 < bits w 56 6) || (bits w 55 1 == 0 && decide (7 ≤ bits w 56 6))))
/-- MONCFG (R366): bits 63:62 of sC say what it does. -/
def monCfg (f : FmtEM) (s : State) : Out :=
  .next (s.guarded f.g fun s =>
    let c := s.iss.core
    let v := s.readS f.c
    let w := v.toNat
    let op := bits w 62 2
    let off := w % 2 ^ 20
    if (s.die (dieOf c)).monOwner f.m ≠ (s.core c).ident.part then s.fault privilegeViolation (BitVec.ofNat 64 f.m)
    else if monBad w then s.fault addressRange v
    else if (op = 1 ∨ op = 2) ∧ 2 ^ 20 < off + 104 then s.fault addressRange (BitVec.ofNat 64 off)
    else if (op = 1 ∨ op = 2) ∧ off % 8 ≠ 0 then s.fault misaligned (BitVec.ofNat 64 off)
    else if op = 0 then
      let cfg := BitVec.ofNat 64 (w % 2 ^ 62 / 2 ^ 20 * 2 ^ 20)
      s.modDie (dieOf c) fun d => { d with mons := Tab.set d.mons f.m { Mon.reset with cfg := cfg } }
    else if op = 3 then
      s.modDie (dieOf c) fun d => { d with mons := Tab.upd Mon.reset d.mons f.m fun k => { k with cfg := 0 } }
    else s.modCore c fun k => { k with snap := some (f.m, off, op == 2) })
/-- MONCFG, read as configuring (R366). -/
def execMoncfgConfigure (f : FmtEM) (s : State) : Out := monCfg f s
/-- MONCFG, read as a snapshot (R366): the same word. -/
def execMoncfgSnapshot (f : FmtEM) (s : State) : Out := monCfg f s
/-- MONCFG, read as a snapshot and clear (R366): the same word. -/
def execMoncfgSnapshotClear (f : FmtEM) (s : State) : Out := monCfg f s
/-- MONCFG, read as a stop (R366): the same word. -/
def execMoncfgStop (f : FmtEM) (s : State) : Out := monCfg f s

/-! ### Arriving and waiting (R356 to R359) -/

/-- The E slot's operation has a number, for an arrive suffix that names slot 7. -/
def State.markEngine (s : State) (opId : Nat) : State := s.modIss fun k => { k with engine := some opId }
/-- ARRIVE (R356). -/
def execArrive (f : FmtEBA) (s : State) : Out :=
  .next (s.guarded f.g fun s =>
    let deps := s.depsFor s.iss.core s.iss.ctx false
    let o := s.ctxOp s.iss.core s.iss.ctx false
    (o.2.addArrive s.iss.core ⟨s.clk.cycle + 1, f.b, f.inc, deps, o.1, 8, none⟩).markEngine o.1)
/-- A barrier wait (R357): ERR faults; the bundle waits until the test passes. -/
def waitBar (s : State) (g b : Nat) (test : Nat → Nat → Bool) : Out :=
  .next (s.guarded g fun s =>
    let a := s.barAddr s.iss.core b
    let w := s.iss.mem.readN a 8
    if bErr w then s.fault engineFaultCause (BitVec.ofNat 64 b)
    else if test w (s.iss.mem.readN (a + 8) 8) then s
    else s.await 8 waitTimeout (BitVec.ofNat 64 b) (some (s.waitLimit s.iss.core)))
/-- WAITB (R357). -/
def execWaitb (f : FmtEBW) (s : State) : Out := waitBar s f.g f.b fun w _ => bPhase w == (f.ph == 1)
/-- What WAITB.C compares: COUNT, or the sum of the deliveries. -/
def waitCount (w d : Nat) : Nat :=
  if bMode w then ((List.range 8).map (bDel d)).foldl (· + ·) 0 else bCount w
/-- WAITB.C (R357). -/
def execWaitbC (f : FmtEBC) (s : State) : Out := waitBar s f.g f.b fun w d => decide (f.thr ≤ waitCount w d)
/-- WAITB.C, wide (R357). -/
def execWaitbCWide (f : FmtEBCW) (s : State) : Out := waitBar s f.g f.b fun w d => decide (f.thr ≤ waitCount w d)
/-- WAITH (R358). -/
def execWaith (f : FmtEH) (s : State) : Out :=
  .next (s.guarded f.g fun s =>
    let w := s.handleWord s.iss.mem s.iss.core f.h
    if hBad w then s.fault addressRange (BitVec.ofNat 64 ((s.core s.iss.core).csr.barbase * 512 + 0x200 + 8 * f.h))
    else if hState w ≤ 1 then s.await 3 waitTimeout (BitVec.ofNat 64 f.h) (some (s.waitLimit s.iss.core))
    else if hState w = 2 then s.modIss fun k => { k with defer := k.defer ++ [.handleFull f.h] }
    else s)
/-- BARINIT (R359): sA is read at issue; the object, where BARBASE then has it (R152), is written as the cycle after issue
begins (log entry 87). -/
def execBarinit (f : FmtEBI) (s : State) : Out :=
  .next (s.guarded f.g fun s =>
    let i : BarInit := ⟨s.clk.cycle, s.iss.ctx, f.b, s.barAddr s.iss.core f.b, s.readS f.a, none⟩
    s.modCore s.iss.core fun k => { k with inits := k.inits ++ [i] })

/-! ### Triggers (R361 to R363) -/

/-- The operation a descriptor at an SPM offset describes (R361). -/
def trigOpAt (m : Memory) (a : Nat) : TrigOp :=
  let w := m.readN a 8
  { kind := bits w 60 4, bar := bits w 55 5, nb := bits w 54 1 == 1, inc := bits w 42 12, tag := bits w 41 1 == 1,
    ckpt := bits w 40 1 == 1, rel := bits w 39 1 == 1, acq := bits w 38 1 == 1, scope := bits w 35 3,
    opx := bits w 27 8, dst := BitVec.ofNat 64 (m.readN (a + 8) 8), src := BitVec.ofNat 64 (m.readN (a + 16) 8),
    len := BitVec.ofNat 64 (m.readN (a + 24) 8) }
/-- A truth value as a field. -/
def bitOf (b : Bool) : Nat := if b then 1 else 0
/-- The fields R361 accepts for each kind. -/
def trigOpOk (o : TrigOp) (reserved : Nat) : Bool :=
  reserved == 0 && decide (o.kind ≤ 4) && (!o.nb || (o.bar == 0 && o.inc == 0))
    && scopeOk (bitOf o.rel) (bitOf o.acq) o.scope
    && (match o.kind with
      | 0 => o.opx == 0
      | 1 => !o.tag && !o.ckpt && !o.acq && rbOk o.opx
      | 2 => !o.tag && !o.ckpt && !o.acq
      | 3 => !o.ckpt && !o.rel && o.opx == 0
      | _ => !o.nb && !o.tag && !o.ckpt && !o.rel && !o.acq && o.opx == 0 && o.dst == 0 && o.src == 0 && o.len == 0)
/-- The lowest index that is free. -/
def freeIndex : Nat → Nat → Tab Trigger → Nat
  | 0, i, _ => i
  | n + 1, i, t => if (Tab.find t i).isNone then i else freeIndex n (i + 1) t
/-- TRIGARM (R362). -/
def execTrigarm (f : FmtET) (s : State) : Out :=
  .next (s.guarded f.g fun s =>
    let c := s.iss.core
    let thr := s.readS f.thr
    let off := (s.readS f.desc).toNat
    let a := spmAddr c off
    let o := trigOpAt s.iss.mem a
    if 2 ^ 32 ≤ thr.toNat then s.fault addressRange thr
    else if 2 ^ 20 < off + 32 then s.fault addressRange (BitVec.ofNat 64 off)
    else if off % 8 ≠ 0 then s.fault misaligned (BitVec.ofNat 64 off)
    else if !trigOpOk o (s.iss.mem.readN a 8 % 2 ^ 27) then s.fault addressRange (BitVec.ofNat 64 off)
    else match s.trigCheck c o with
      | some e => s.fault e.1 e.2
      | none =>
        if 64 ≤ (s.core c).trig.length then s.await 7 waitTimeout 0 (some (s.waitLimit c))
        else
          let i := freeIndex 64 0 (s.core c).trig
          let w := s.barWord s.mem c f.b
          let deps := s.armDeps c s.iss.ctx o.rel
          let q := s.armOp c s.iss.ctx o.acq
          let t : Trigger := ⟨f.b, thr.toNat, bPhase w, o, s.iss.ctx, deps, q.1, 0⟩
          let t := if t.met w then { t with metAt := s.clk.cycle + 1 } else t
          (q.2.modCore c fun k => { k with trig := Tab.set k.trig i t }).pushS f.d (BitVec.ofNat 64 i) 0 1)
/-- TRIGCANCEL (R363). -/
def execTrigcancel (f : FmtETC) (s : State) : Out :=
  .next (s.guarded f.g fun s =>
    let v := s.readS f.a
    if 64 ≤ v.toNat then s.fault addressRange v
    else match Tab.find (s.core s.iss.core).trig v.toNat with
      | none => s
      | some t => (s.modCore s.iss.core fun k => { k with trig := Tab.del k.trig v.toNat }).endOp t.opId)

end Sys2Proof.Machine
end

