-- ==== Sys2Proof/Machine/Engine.lean ====
section
/-! DEFINITION. The engine and fabric instructions as they issue (spec/13_queues.md, spec/14_fabric.md, and the P-mode
instructions of spec/15_tables.md): class E. -/

namespace Sys2Proof.Machine

/-- A truth value from a one-bit field. -/
def flag (n : Nat) : Bool := n != 0
/-- The increment of a short form (R111). -/
def shortInc (nb : Nat) : Nat := if nb = 0 then 1 else 0
/-- The operands of a short copy-like form, read at issue. -/
def State.ecOp (s : State) (f : FmtEC) : TrigOp :=
  { kind := 0, bar := f.bar, nb := flag f.nb, inc := shortInc f.nb, tag := false, ckpt := false, rel := false,
    acq := false, scope := 0, opx := 0, dst := s.readS f.dst, src := s.readS f.src, len := s.readS f.len }
/-- The operands of a wide copy-like form, read at issue. -/
def State.ecwOp (s : State) (f : FmtECW) : TrigOp :=
  { kind := 0, bar := f.bar, nb := flag f.nb, inc := f.inc, tag := flag f.tag, ckpt := flag f.ckpt, rel := flag f.rel,
    acq := flag f.acq, scope := f.scope, opx := f.opx, dst := s.readS f.dst, src := s.readS f.src, len := s.readS f.len }
/-- The slot waits for room in a queue (R271). -/
def State.queueFull (s : State) (key : Nat) : State := s.await key waitTimeout 0 (some (s.waitLimit s.iss.core))
/-- Start an engine operation of the issuing context: its number and the operations it follows. -/
def State.startOp (s : State) (rel acq : Bool) (k : State → Nat → List Nat → State) : State :=
  let deps := s.depsFor s.iss.core s.iss.ctx rel
  let o := s.ctxOp s.iss.core s.iss.ctx acq
  (k o.2 o.1 deps).markEngine o.1
/-- A copy-class command issues, unless the buffer is full (R274). -/
def State.issueCmd (s : State) (rel acq : Bool) (k : State → Nat → List Nat → State) : State :=
  if 128 ≤ s.bteLoad (clusterOf s.iss.core) then s.queueFull 4 else s.startOp rel acq k
/-- A fabric operation issues, unless the request queue is full (R293). -/
def State.issueFab (s : State) (rel acq : Bool) (k : State → Nat → List Nat → State) : State :=
  if 256 ≤ (s.core s.iss.core).fab.length then s.queueFull 6 else s.startOp rel acq k

/-! ### Copies (R277, R282, R283) -/

/-- The buffer-table entry of a handle destination: its SPM offset and word. -/
def State.handleDst (s : State) (dh n : Nat) : Option (Nat × Nat) :=
  if dh = 0 then none
  else some ((s.core s.iss.core).csr.barbase * 512 + 0x200 + 8 * n, s.handleWord s.iss.mem s.iss.core n)
/-- COPY of a form (R277). -/
def copyOp (s : State) (o : TrigOp) (h : Option (Nat × Nat)) (time : Nat) : State :=
  match s.copyCheck s.iss.core o (h.map (·.2)) with
  | some e => s.fault e.1 e.2
  | none => s.issueCmd o.rel o.acq fun s i after => s.startCopy s.issuer o h time (s.clk.cycle + 1) i after
/-- COPY (R277). -/
def execCopy (f : FmtEC) (s : State) : Out :=
  .next (s.guarded f.g fun s => copyOp s (s.ecOp f) (s.handleDst f.dh f.dst) 0)
/-- COPY, wide. -/
def execCopyWide (f : FmtECW) (s : State) : Out :=
  .next (s.guarded f.g fun s => copyOp s (s.ecwOp f) (s.handleDst f.dh f.dst) (s.readS f.ts).toNat)

/-- The extent of rows of n bytes at a stride: lowest first byte, one past the highest last byte (R283). -/
def rowExtent (rows n : Nat) (stride : Int) : Int × Int :=
  if rows = 0 ∨ n = 0 then (0, 0)
  else
    let d := ((rows - 1 : Nat) : Int) * stride
    (min 0 d, max 0 d + n)
/-- A command of rows, from an operation word. -/
def rowCmd (s : State) (kind : Nat) (o : TrigOp) (dst : Nat) (sh : Shape) (h : Option Nat) (time i : Nat)
    (after : List Nat) : Cmd :=
  { opId := i, by_ := s.issuer, kind := kind, dst := dst, src := o.src.toNat, shape := sh, time := time,
    bar := o.barrier, inc := o.inc, tag := o.tag, ckpt := o.ckpt, handle := h, after := after,
    enterAt := s.clk.cycle + 1, phase := 0, row := 0, off := 0, relAt := 0, limit := 0, chunk := none, waited := 0, sentAt := 0 }
/-- COPY2D of a form (R283). -/
def copy2dOp (s : State) (o : TrigOp) (time : Nat) : State :=
  let c := s.iss.core
  let part := (s.core c).ident.part
  let off := o.len.toNat
  let m := s.iss.mem
  let a := spmAddr c off
  if 2 ^ 20 < off + 32 then s.fault addressRange o.len
  else if off % 8 ≠ 0 then s.fault misaligned o.len
  else if m.readN (a + 24) 8 ≠ 0 then s.fault addressRange (BitVec.ofNat 64 (off + 24))
  else
    let rows := m.readN a 4
    let rowb := m.readN (a + 4) 4
    let dstr := sInt 64 (m.readN (a + 8) 8)
    let sstr := sInt 64 (m.readN (a + 16) 8)
    let d := rowExtent rows rowb dstr
    let e := rowExtent rows rowb sstr
    let dst := o.dst.toNat
    match s.addrChecks (pkgOf c) part [⟨dst, d.1, d.2, copySpaces, 0⟩, ⟨o.src.toNat, e.1, e.2, copySpaces, 0⟩] with
    | some f => s.fault f.1 f.2
    | none =>
      let spm := o.tag && decide (spaceOf dst ≤ 1)
      if s.protectedPart (pkgOf c) part && spaceOf dst == 7 then s.fault addressSpaceFault o.dst
      else if spm && dst % 8 != 0 then s.fault misaligned o.dst
      else if spm && rowb % 8 != 0 then s.fault misaligned (BitVec.ofNat 64 rowb)
      else if spm && dstr % 8 != 0 then s.fault misaligned (BitVec.ofInt 64 dstr)
      else s.issueCmd o.rel o.acq fun s i after => s.addCmd (rowCmd s 1 o dst ⟨rows, rowb, dstr, sstr⟩ none time i after)
/-- COPY2D (R282). -/
def execCopy2d (f : FmtEC) (s : State) : Out := .next (s.guarded f.g fun s => copy2dOp s (s.ecOp f) 0)
/-- COPY2D, wide. -/
def execCopy2dWide (f : FmtECW) (s : State) : Out :=
  .next (s.guarded f.g fun s => copy2dOp s (s.ecwOp f) (s.readS f.ts).toNat)

/-- The extent of ROWS lines of a tile at a pitch (R220): up to byte 64 × (pitch × (ROWS − 1) + ROWLN), rows of no line
included. -/
def tileExtent (rows rowln pitch : Nat) : Int × Int := if rows = 0 then (0, 0) else (0, 64 * (pitch * (rows - 1) + rowln : Nat))
/-- TMOV of a form (R219, R220). Of two misaligned addresses TVAL holds the destination (DEDUCED,
log entry 72). -/
def tmovOp (s : State) (o : TrigOp) (h : Option (Nat × Nat)) (time : Nat) : State :=
  let c := s.iss.core
  let w := o.len.toNat
  let rowln := bits w 0 16
  let rows := bits w 16 16
  let sp := bits w 32 16
  let dp := bits w 48 16
  let n := 64 * rowln
  let sh : Shape := ⟨rows, n, 64 * (if dp = 0 then rowln else dp : Nat), 64 * (if sp = 0 then rowln else sp : Nat)⟩
  let d := tileExtent rows rowln (if dp = 0 then rowln else dp)
  let e := tileExtent rows rowln (if sp = 0 then rowln else sp)
  let dst := match h with
    | none => o.dst.toNat
    | some x => hBase x.2
  let sps := [0, 2, 3]
  match s.addrChecks (pkgOf c) (s.core c).ident.part [⟨dst, d.1, d.2, sps, 0⟩, ⟨o.src.toNat, e.1, e.2, sps, 0⟩] with
  | some f => s.fault f.1 f.2
  | none =>
    if (dp ≠ 0 ∧ dp < rowln) ∨ (sp ≠ 0 ∧ sp < rowln) then s.fault addressRange o.len
    else if h.isNone ∧ dst % 64 ≠ 0 then s.fault misaligned (BitVec.ofNat 64 dst)
    else if o.src.toNat % 64 ≠ 0 then s.fault misaligned o.src
    else if dst % 64 ≠ 0 then s.fault misaligned (BitVec.ofNat 64 dst)
    else if (h.map fun x => decide ((hLen x.2 : Int) < d.2)) = some true then s.fault addressRange o.len
    else s.issueCmd o.rel o.acq fun s i after => s.addCmd (rowCmd s 2 o dst sh (h.map (·.1)) time i after)
/-- TMOV (R219). -/
def execTmov (f : FmtEC) (s : State) : Out :=
  .next (s.guarded f.g fun s => tmovOp s (s.ecOp f) (s.handleDst f.dh f.dst) 0)
/-- TMOV, wide. -/
def execTmovWide (f : FmtECW) (s : State) : Out :=
  .next (s.guarded f.g fun s => tmovOp s (s.ecwOp f) (s.handleDst f.dh f.dst) (s.readS f.ts).toNat)

/-- COPY.UNSEAL of a form (R395), its checks in the order of the rule: `bad` is DH = 1 or CKPT = 1. -/
def unsealOp (s : State) (i : Instr) (bad : Bool) (o : TrigOp) (time : Nat) : State :=
  let c := s.iss.core
  let part := (s.core c).ident.part
  let p := o.len.toNat
  match s.addrChecks (pkgOf c) part [plainUse o.dst.toNat p [2, 3, 4], plainUse o.src.toNat (p + 48) [4, 7]] with
  | some f => s.fault f.1 f.2
  | none =>
    if !s.protectedPart (pkgOf c) part then s.fault addressSpaceFault o.dst
    else if bad then s.fault illegalEncoding (s.wordTval i)
    else if p = 0 ∨ 2 ^ 16 < p then s.fault addressRange o.len
    else if o.dst.toNat % 64 ≠ 0 then s.fault misaligned o.dst
    else s.issueCmd o.rel o.acq fun s i after => s.addCmd (rowCmd s 3 o o.dst.toNat (rowShape p) none time i after)
/-- COPY.UNSEAL with its guard: under a false one DH = 1 and CKPT = 1 are refused as any encoding is (R98; log entry 101). -/
def unsealForm (s : State) (i : Instr) (g : Nat) (bad : Bool) (k : State → State) : Out :=
  if bad && !s.guard0 g then .next (s.fault illegalEncoding (s.wordTval i)) else .next (s.guarded g k)
/-- COPY.UNSEAL (R395). -/
def execCopyUnseal (f : FmtEC) (s : State) : Out :=
  unsealForm s (.copyUnseal f) f.g (f.dh != 0) fun s => unsealOp s (.copyUnseal f) (f.dh != 0) (s.ecOp f) 0
/-- COPY.UNSEAL, wide. -/
def execCopyUnsealWide (f : FmtECW) (s : State) : Out :=
  let bad := f.dh != 0 || flag f.ckpt
  unsealForm s (.copyUnsealWide f) f.g bad fun s => unsealOp s (.copyUnsealWide f) bad (s.ecwOp f) (s.readS f.ts).toNat

/-! ### Stack-engine commands (R284, R285) -/

/-- Bytes of an element of a format. -/
def fmtBytes (k : Nat) : Nat := fmtBits k / 8
/-- Bytes of an output row of ROWSUM (R286). -/
def rowsumRow (rowb fm fm2 : Nat) : Nat := rowb * fmtBytes fm2 / fmtBytes fm
/-- The offset in its descriptor of the word of a field R285 does not accept: formats, GROUP, ROWB in turn. -/
def seFieldBad (op fm fm2 group rowb : Nat) : Option Nat :=
  let small := decide (fm ≤ 2)
  let fmOk := if op = 0 then true
    else if op = 1 then small
    else if op = 2 then small && (if fm = 0 then fm2 == 0 else fm2 == 1 || fm2 == 2)
    else decide (fm ≤ 7) && decide (fm2 ≤ 7) && fm != fm2
  if !fmOk then some 32
  else if (op = 2 ∧ group = 0) ∨ (op ≠ 2 ∧ group ≠ 0) then some 32
  else if rowb = 0 ∨ (op ≠ 0 ∧ rowb % fmtBytes fm ≠ 0) then some 24
  else none
/-- SEOP of a form (R284, R285). -/
def seopOp (s : State) (d op : Nat) (bar : Option Nat) (inc : Nat) (rel acq : Bool) : State :=
  let c := s.iss.core
  let off := (s.readS d).toNat
  let m := s.iss.mem
  let w := fun i => m.readN (spmAddr c off + 8 * i) 8
  let bad := fun (i : Nat) => s.fault addressRange (BitVec.ofNat 64 (off + 8 * i))
  if 2 ^ 20 < off + 64 then s.fault addressRange (s.readS d)
  else if off % 8 ≠ 0 then s.fault misaligned (s.readS d)
  else if bits (w 3) 48 16 ≠ 0 then bad 3
  else if bits (w 4) 32 32 ≠ 0 ∨ bits (w 4) 9 7 ≠ 0 then bad 4
  else if w 5 ≠ 0 then bad 5
  else if w 6 ≠ 0 then bad 6
  else
    let rowb := bits (w 3) 32 16
    let count := bits (w 3) 0 32
    let group := bits (w 4) 16 16
    let iw := bits (w 4) 8 1
    let fm2 := bits (w 4) 4 4
    let fm := bits (w 4) 0 4
    let ix := if iw = 0 then 4 else 8
    let other := if op = 3 then count * fmtBytes fm2 else if op = 2 then count * rowsumRow rowb fm fm2 else count * rowb
    let idx := if op = 3 then 0 else if op = 2 then count * group * ix else count * ix
    let table := if op = 3 then count * fmtBytes fm else 0
    let sps := [0, 1, 2, 3, 4]
    match s.addrChecks (pkgOf c) (s.core c).ident.part
        [plainUse (w 0) table [4], plainUse (w 1) other sps, plainUse (w 2) idx sps] with
    | some f => s.fault f.1 f.2
    | none => match seFieldBad op fm fm2 group rowb with
      | some k => s.fault addressRange (BitVec.ofNat 64 (off + k))
      | none =>
        if 64 ≤ (s.die (dieOf c)).se.length then s.queueFull 5
        else s.startOp rel acq fun s i after =>
          s.modDie (dieOf c) fun k =>
            { k with se := k.se ++ [⟨i, s.issuer, op, w 0, w 1, w 2, rowb, count, group, iw, fm, fm2, off + 56, bar, inc,
                                     after, false, 0, 0, 0⟩] }
/-- SEOP (R284). -/
def execSeop (f : FmtESE) (s : State) : Out :=
  .next (s.guarded f.g fun s =>
    seopOp s f.d f.op (if f.nb = 0 then some f.bar else none) (shortInc f.nb) false false)
/-- SEOP, wide. -/
def execSeopWide (f : FmtESEW) (s : State) : Out :=
  .next (s.guarded f.g fun s =>
    seopOp s f.d f.op (if f.nb = 0 then some f.bar else none) f.inc (flag f.rel) (flag f.acq))

/-! ### Streams (R288 to R290) -/

/-- The STATUS word STROFF writes (R290). -/
def Stream.status (t : Stream) : Nat :=
  bitOf t.mis * 2 ^ 34 + bitOf t.ovr * 2 ^ 33 + bitOf t.exh * 2 ^ 32 + t.pos % 2 ^ 32
/-- STROFF of a bound stream (R290): a write stream holds until its entries are written; fetched entries are dropped. -/
def State.strOff (s : State) (k : Nat) : State :=
  let c := s.iss.core
  let t := (s.core c).stream k
  if !t.bound then s
  else
    let s := if t.writes && !t.unwritten.isEmpty then s.queueFull 9 else s
    let s := (s.endOp t.opId).modStream c k fun t => { t with bound := false, fetched := [], opId := 0 }
    match t.walk with
    | none => s
    | some _ => s.modIss fun i => { i with defer := i.defer ++ [.bytes (spmAddr c (t.desc + 56)) 8 t.status] }
/-- The extent of a walk, from its base (R289). -/
def walkExtent (w : Walk) : Int × Int :=
  if w.count = 0 then (0, 0)
  else
    let d := fun (n : Nat) (st : Int) => ((n - 1 : Nat) : Int) * st
    (min 0 (d w.c0 w.s0) + min 0 (d w.c1 w.s1) + min 0 (d w.c2 w.s2),
     max 0 (d w.c0 w.s0) + max 0 (d w.c1 w.s1) + max 0 (d w.c2 w.s2) + w.size)
/-- The walk a descriptor describes (R288). -/
def walkAt (m : Memory) (a : Nat) : Walk :=
  let w := fun i => m.readN (a + 8 * i) 8
  ⟨w 0, bits (w 1) 0 32, bits (w 1) 32 32, bits (w 2) 0 32, sInt 64 (w 3), sInt 64 (w 4), sInt 64 (w 5), bits (w 6) 1 2,
   bits (w 6) 0 1 == 1⟩
/-- STRCFG (R289). -/
def execStrcfg (f : FmtEK) (s : State) : Out :=
  .next (s.guarded f.g fun s =>
    let c := s.iss.core
    let part := (s.core c).ident.part
    let v := s.readS f.d
    let off := v.toNat
    let a := spmAddr c off
    let m := s.iss.mem
    let w := walkAt m a
    let e := walkExtent w
    let sz : Int := w.size
    if 2 ^ 20 < off + 64 then s.fault addressRange v
    else if off % 8 ≠ 0 then s.fault misaligned v
    else if m.readN (a + 16) 8 / 2 ^ 32 ≠ 0 then s.fault addressRange (BitVec.ofNat 64 (off + 16))
    else if m.readN (a + 48) 8 / 8 ≠ 0 then s.fault addressRange (BitVec.ofNat 64 (off + 48))
    else match s.addrChecks (pkgOf c) part [⟨w.base, e.1, e.2, [0, 1, 2, 3], 0⟩] with
      | some x => s.fault x.1 x.2
      | none =>
        if (w.base : Int) % sz ≠ 0 then s.fault misaligned (BitVec.ofNat 64 w.base)
        else if w.s0 % sz ≠ 0 then s.fault misaligned (BitVec.ofInt 64 w.s0)
        else if w.s1 % sz ≠ 0 then s.fault misaligned (BitVec.ofInt 64 w.s1)
        else if w.s2 % sz ≠ 0 then s.fault misaligned (BitVec.ofInt 64 w.s2)
        else if s.protectedPart (pkgOf c) part && w.write && decide (2 ≤ spaceOf w.base)
            && !(w.s0 == sz && w.c0 * w.size % 64 == 0 && w.base % 64 == 0 && w.s1 % 64 == 0 && w.s2 % 64 == 0) then
          s.fault misaligned (BitVec.ofNat 64 w.base)
        else
          (s.strOff f.k).modStream c f.k fun _ => { Stream.reset with desc := off, walk := some w })
/-- The first entry of a read stream is available no earlier than so many cycles after STRON (R291). -/
def streamDelay (base : Nat) : Nat := if spaceOf base ≤ 1 then 4 else if spaceOf base = 2 then 20 else 60
/-- STRON (R290). -/
def execStron (f : FmtEK0) (s : State) : Out :=
  .next (s.guarded f.g fun s =>
    let c := s.iss.core
    let t := (s.core c).stream f.k
    if t.bound then s
    else
      let deps := s.depsFor c s.iss.ctx false
      let delay := t.walk.elim 0 fun w => streamDelay w.base
      let bind := fun (s : State) (i : Nat) => s.modStream c f.k fun t =>
        { t with
          bound := true
          fetched := []
          after := deps
          opId := i
          readyAt := s.clk.cycle + delay - 1
          hide := s.storedBytes }
      if t.writes || decide (t.entries ≤ t.pos) then bind s 0
      else
        let o := s.ctxOp c s.iss.ctx false
        bind o.2 o.1)
/-- STROFF (R290). -/
def execStroff (f : FmtEK0) (s : State) : Out := .next (s.guarded f.g fun s => s.strOff f.k)
/-- BUFREL (R281). -/
def execBufrel (f : FmtEH) (s : State) : Out :=
  .next (s.guarded f.g fun s =>
    if hState (s.handleWord s.iss.mem s.iss.core f.h) ≠ 3 then s.fault bufferStateFault (BitVec.ofNat 64 f.h)
    else s.modIss fun k => { k with defer := k.defer ++ [.handleFree f.h] })

/-! ### Fabric operations (R297 to R311) -/

/-- RPUT of a form (R297). -/
def rputOp (s : State) (o : TrigOp) : State :=
  match s.rputCheck s.iss.core o with
  | some e => s.fault e.1 e.2
  | none => s.issueFab o.rel o.acq fun s i after => s.startRput s.issuer o i after
/-- RPUT (R297). -/
def execRput (f : FmtEC) (s : State) : Out := .next (s.guarded f.g fun s => rputOp s (s.ecOp f))
/-- RPUT, wide. -/
def execRputWide (f : FmtECW) (s : State) : Out := .next (s.guarded f.g fun s => rputOp s (s.ecwOp f))
/-- RMCAST of a form (R299). -/
def rmcastOp (s : State) (o : TrigOp) : State :=
  match s.rmcastCheck s.iss.core o with
  | some e => s.fault e.1 e.2
  | none => s.issueFab o.rel o.acq fun s i after => s.startRmcast s.issuer o i after
/-- RMCAST (R299). -/
def execRmcast (f : FmtEC) (s : State) : Out := .next (s.guarded f.g fun s => rmcastOp s (s.ecOp f))
/-- RMCAST, wide. -/
def execRmcastWide (f : FmtECW) (s : State) : Out := .next (s.guarded f.g fun s => rmcastOp s (s.ecwOp f))
/-- RGETV of a form (R301). -/
def rgetvOp (s : State) (o : TrigOp) : State :=
  match s.rgetvCheck s.iss.core o with
  | some e => s.fault e.1 e.2
  | none => s.issueFab o.rel o.acq fun s i after => s.startRgetv s.issuer o i after
/-- RGETV (R301). -/
def execRgetv (f : FmtEC) (s : State) : Out := .next (s.guarded f.g fun s => rgetvOp s (s.ecOp f))
/-- RGETV, wide. -/
def execRgetvWide (f : FmtECW) (s : State) : Out := .next (s.guarded f.g fun s => rgetvOp s (s.ecwOp f))

/-- The home of a window address, for a word operation. -/
def State.wordHome (s : State) (a : Nat) : Nat × Nat × Nat :=
  let c := s.iss.core
  (s.windowHome (pkgOf c) (s.core c).ident.part (windowOf a) (off48 a)).getD (0, 0, 0)
/-- RGET of a form (R300). -/
def rgetOp (s : State) (dst adr hpc ck : Nat) (acq : Bool) (scope : Nat) : State :=
  let c := s.iss.core
  let d := (s.readS dst).toNat
  let a := (s.readS adr).toNat
  let pc := s.readS hpc
  let s1 := match s.addrChecks (pkgOf c) (s.core c).ident.part [plainUse d 8 [0], ⟨a, 0, 8, [6], 62⟩] with
    | some e => s.fault e.1 e.2
    | none =>
      if a % 8 ≠ 0 then s.fault misaligned (BitVec.ofNat 64 a)
      else if d % 8 ≠ 0 then s.fault misaligned (BitVec.ofNat 64 d)
      else s
  let s2 := if 2 ^ 24 ≤ pc.toNat then s1.fault addressRange pc
    else if pc.toNat % 2 ≠ 0 then s1.fault misaligned pc else s1
  if s2.iss.faults.length ≠ s.iss.faults.length then s2
  else s.issueFab false acq fun s i after =>
    let h := s.wordHome a
    s.addFop i { blankFop 1 s.issuer after with
      dst := d, acq := acq, scope := scope, hpc := if hpc = 0 then none else some pc.toNat, cookie := s.readS ck,
      mem := h.1, off := h.2.1, pkg := h.2.2 / 4 }
/-- RGET (R300). -/
def execRget (f : FmtEG) (s : State) : Out := .next (s.guarded f.g fun s => rgetOp s f.dst f.adr f.hpc f.ck false 0)
/-- RGET, wide. -/
def execRgetWide (f : FmtEGW) (s : State) : Out :=
  .next (s.guarded f.g fun s => rgetOp s f.dst f.adr f.hpc f.ck (flag f.acq) f.scope)
/-- RFOP of a form (R302). -/
def rfopOp (s : State) (dst adr x op w : Nat) (rel acq : Bool) (scope : Nat) (b : Nat) : State :=
  let c := s.iss.core
  let d := (s.readS dst).toNat
  let a := (s.readS adr).toNat
  let n : Nat := if w = 0 then 8 else 4
  match s.addrChecks (pkgOf c) (s.core c).ident.part
      [plainUse d (if op = 10 then 16 else 8) [0], ⟨a, 0, n, [6], 60⟩] with
  | some e => s.fault e.1 e.2
  | none =>
    if a % n ≠ 0 then s.fault misaligned (BitVec.ofNat 64 a)
    else if d % 8 ≠ 0 then s.fault misaligned (BitVec.ofNat 64 d)
    else s.issueFab rel acq fun s i after =>
      let h := s.wordHome a
      s.addFop i { blankFop 3 s.issuer after with
        dst := d, rel := rel, acq := acq, scope := scope, fop := op, wide := w == 0,
        x := (s.readS x).toNat % 2 ^ (8 * n), b := (s.readS b).toNat % 2 ^ (8 * n),
        mem := h.1, off := h.2.1, pkg := h.2.2 / 4 }
/-- RFOP, short (R302). -/
def execRfop (f : FmtEF) (s : State) : Out :=
  .next (s.guarded f.g fun s => rfopOp s f.dst f.adr f.x f.op f.w false false 0 0)
/-- RFOP, wide, of a wide form. -/
def rfopWide (f : FmtEFW) (s : State) : Out :=
  .next (s.guarded f.g fun s => rfopOp s f.dst f.adr f.x f.op f.w (flag f.rel) (flag f.acq) f.scope f.opx)
/-- RFOP, wide (R302). -/
def execRfopWide (f : FmtEFW) (s : State) : Out := rfopWide f s
/-- RFOP.INCW (R302). -/
def execRfopIncw (f : FmtEFW) (s : State) : Out := rfopWide f s
/-- RFOP.BADD (R302). -/
def execRfopBadd (f : FmtEFW) (s : State) : Out := rfopWide f s
/-- RFOP.CAS (R302). -/
def execRfopCas (f : FmtEFW) (s : State) : Out := rfopWide f s
/-- RVATOM of a form (R309). -/
def rvatomOp (s : State) (dst src t : Nat) (bar : Option Nat) (inc : Nat) (rel : Bool) (scope : Nat) : State :=
  let c := s.iss.core
  let d := (s.readS dst).toNat
  let a := (s.readS src).toNat
  match s.addrChecks (pkgOf c) (s.core c).ident.part [⟨d, 0, 128, [6], 59⟩, plainUse a 128 [0]] with
  | some e => s.fault e.1 e.2
  | none =>
    if d % 128 ≠ 0 then s.fault misaligned (BitVec.ofNat 64 d)
    else if a % 128 ≠ 0 then s.fault misaligned (BitVec.ofNat 64 a)
    else s.issueFab rel false fun s i after =>
      let h := s.wordHome d
      let n := if t = 0 then 4 else 2
      s.addFop i { blankFop 4 s.issuer after with
        src := a, bar := bar, inc := inc, rel := rel, scope := scope, wide := t == 0, mem := h.1, off := h.2.1,
        pkg := h.2.2 / 4, left := (List.range (128 / n)).map fun e => (n * e, n) }
/-- RVATOM (R309). -/
def execRvatom (f : FmtEA) (s : State) : Out :=
  .next (s.guarded f.g fun s =>
    rvatomOp s f.dst f.src f.t (if f.nb = 0 then some f.bar else none) (shortInc f.nb) false 0)
/-- RVATOM, wide. -/
def execRvatomWide (f : FmtEAW) (s : State) : Out :=
  .next (s.guarded f.g fun s =>
    rvatomOp s f.dst f.src f.t (if f.nb = 0 then some f.bar else none) f.inc (flag f.rel) f.scope)

/-- A reduction window's entry of a package. -/
def State.redWin (s : State) (pkg w : Nat) : RedWin := Tab.get RedWin.reset (s.pkg pkg).apex.redwins w
/-- V, PART, N of a reduction window (R328). -/
def RedWin.valid (r : RedWin) : Bool := bits r.w0.toNat 63 1 == 1
def RedWin.part (r : RedWin) : Nat := bits r.w0.toNat 59 4
def RedWin.n (r : RedWin) : Nat := bits r.w0.toNat 44 13
/-- CFMT, OUT, LEN of a reduction window. -/
def RedWin.cfmt (r : RedWin) : Nat := bits r.w0.toNat 40 2
def RedWin.out (r : RedWin) : Nat := bits r.w0.toNat 38 2
def RedWin.len (r : RedWin) : Nat := bits r.w0.toNat 9 9
/-- Bytes of an element of CFMT or OUT. -/
def redBytes (k : Nat) : Nat := if k = 1 then 2 else 4
/-- The package that holds the logical die of a window's HOME (R310). -/
def State.rootPkg (s : State) (pkg : Nat) (r : RedWin) : Nat :=
  (s.windowHome pkg r.part (windowOf r.w2.toNat) 0).elim pkg (·.2.2 / 4)
/-- RRED of a form (R311): the contribution is read at issue. -/
def rredOp (s : State) (src win rank : Nat) (rel : Bool) (scope : Nat) : State :=
  let c := s.iss.core
  let pkg := pkgOf c
  let part := (s.core c).ident.part
  let r := s.redWin pkg win
  let k := (s.readS rank).toNat
  let a := (s.readS src).toNat
  let n := r.len * redBytes r.cfmt
  let root := s.rootPkg pkg r
  if !r.valid || r.part != part || decide (r.n ≤ k) then s.fault windowFault (BitVec.ofNat 64 win)
  else match s.addrChecks pkg part [plainUse a n [0]] with
    | some e => s.fault e.1 e.2
    | none =>
      if a % 8 ≠ 0 then s.fault misaligned (BitVec.ofNat 64 a)
      else if s.peerDead pkg root then s.fault deadPeer (BitVec.ofNat 64 root)
      else s.issueFab rel false fun s i after =>
        s.addFop i { blankFop 5 s.issuer after with
          rel := rel, scope := scope, pkg := root, win := win, rank := k, round := r.round,
          data := (List.range r.len).map fun e => s.iss.mem.readN (spmAddr c (a + redBytes r.cfmt * e)) (redBytes r.cfmt) }
/-- RRED (R311). -/
def execRred (f : FmtER) (s : State) : Out := .next (s.guarded f.g fun s => rredOp s f.src f.win f.rank false 0)
/-- RRED, wide. -/
def execRredWide (f : FmtERW) (s : State) : Out :=
  .next (s.guarded f.g fun s => rredOp s f.src f.win f.rank (flag f.rel) f.scope)
/-- FENCE (R259). -/
def execFence (f : FmtEN) (s : State) : Out := .next (s.guarded f.g fun s => s.fenceCtx s.iss.core s.iss.ctx)

/-! ### P-mode instructions (R336, R339, R347) -/

/-- A P-mode instruction: at level U it raises PrivilegeViolation (R5). -/
def pMode (s : State) (i : Instr) (g : Nat) (k : State → State) : Out :=
  .next (s.guarded g fun s =>
    if (s.core s.iss.core).ident.pl then k s else s.fault privilegeViolation (s.wordTval i))
/-- Remove TLB entries of a die. -/
def State.tlbDrop (s : State) (d : Nat) (p : TlbEnt → Bool) : State :=
  s.modDie d fun k => { k with tlb := k.tlb.filter fun t => !p t }
/-- TLBINV on some dies (R336): issue holds, within WAITLIMIT, while the fabric of one of them is halted and holds the request
(R410). An access is translated and takes effect at once here, so none that used a removed entry is still to take effect. -/
def State.tlbRemove (s : State) (ds : List Nat) (p : TlbEnt → Bool) : State :=
  if ds.all s.dieOn then ds.foldl (fun s d => s.tlbDrop d p) s
  else s.await 18 waitTimeout 0 (some (s.waitLimit s.iss.core))
/-- TLBINV of one page (R336). -/
def execTlbinv (f : FmtEP) (s : State) : Out :=
  pMode s (.tlbinv f) f.g fun s =>
    let v := (s.readS f.a).toNat
    let part := (s.core s.iss.core).ident.part
    if 2 ^ 48 ≤ v then s.fault addressRange (s.readS f.a)
    else s.tlbRemove [dieOf s.iss.core] fun t => t.part == part && v / 2 ^ 21 * 2 ^ 21 / 2 ^ t.size * 2 ^ t.size == t.va
/-- TLBINV of the partition (R336). -/
def execTlbinvPart (f : FmtEP0) (s : State) : Out :=
  pMode s (.tlbinvPart f) f.g fun s =>
    s.tlbRemove [dieOf s.iss.core] fun t => t.part == (s.core s.iss.core).ident.part
/-- TLBINV of the partition on all four dies (R336). -/
def execTlbinvPkg (f : FmtEP0) (s : State) : Out :=
  pMode s (.tlbinvPkg f) f.g fun s =>
    s.tlbRemove ((List.range 4).map (pkgOf s.iss.core * 4 + ·)) fun t => t.part == (s.core s.iss.core).ident.part

/-- A slot-table entry satisfies R337; `edge` says that the router has a die-edge port (y = 3). -/
def slotEntryOk (edge : Bool) (e : BitVec 32) : Bool :=
  let w := e.toNat
  let p := fun i => bits w (4 * i) 4
  let on := (List.range 6).filter fun i => decide (8 ≤ p i)
  bits w 24 8 == 0 && (List.range 6).all (fun i => decide (p i % 8 ≤ 5)) && on.all (fun i => p i % 8 != i)
    && distinct (on.map fun i => p i % 8) && (edge || p 5 == 0)
/-- A slot table of 256 entries is accepted by the router of a cluster (R337). -/
def slotTableOk (cl : Nat) (l : List (BitVec 32)) : Bool := l.all (slotEntryOk (cl % 16 / 4 == 3))
/-- The 1 KiB table at an address. -/
def slotTableAt (m : Memory) (a : Nat) : List (BitVec 32) :=
  (List.range 256).map fun i => BitVec.ofNat 32 (m.readN (a + 4 * i) 4)
/-- The cluster holds a placed node of another partition. -/
def State.lockedByOther (s : State) (cl part : Nat) : Bool :=
  (coresOf cl).any fun c =>
    let k := (s.core c).ident
    k.placed && k.mode != 2 && k.part != part
/-- SLOTLD (R339). -/
def execSlotld (f : FmtEP) (s : State) : Out :=
  pMode s (.slotld f) f.g fun s =>
    let c := s.iss.core
    let v := s.readS f.a
    let off := v.toNat
    let a := spmAddr c off
    let w := s.iss.mem.readN a 8
    let img := w % 2 ^ 20
    let cl := dieOf c * 16 + bits w 20 4
    let part := (s.core c).ident.part
    if 2 ^ 20 < off + 16 then s.fault addressRange v
    else if off % 8 ≠ 0 then s.fault misaligned v
    else if w / 2 ^ 24 ≠ 0 then s.fault addressRange v
    else
      let t := slotTableAt s.iss.mem (spmAddr c img)
      let st := if img % 8 ≠ 0 ∨ 2 ^ 20 < img + 1024 ∨ !slotTableOk cl t then 1
        else if !s.ownsCluster part cl then 2 else if s.lockedByOther cl part then 3 else 0
      (s.modCore c fun k => { k with slotRun := some ⟨256, cl, a + 8, st, t⟩ }).modIss fun k => { k with stall := max k.stall 256 }
/-- A SLOTLD completes (R339): STATUS is written, and a table that was accepted is loaded. -/
def State.slotEnd (s : State) (c : Nat) (r : SlotRun) : State :=
  let s := s.modCore c fun k => { k with slotRun := none }
  let s := { s with mem := s.mem.writeN r.at_ 8 r.status, watch := rewrote s.watch r.at_ 8 }
  if r.status = 0 then s.modCluster r.cluster fun k => { k with slotsNext := some (s.clk.cycle, r.table) } else s
/-- One island cycle of a SLOTLD passes (R2, R339). -/
def State.slotStep (s : State) (c : Nat) (r : SlotRun) : State :=
  if r.left ≤ 1 then s.slotEnd c r else s.modCore c fun k => { k with slotRun := some { r with left := r.left - 1 } }
/-- The FDOM that a valid die-table entry declares (R324). -/
def dieFdom (e : Word) : Nat := bits e.toNat 32 16
/-- A valid entry of the partition names the die with this FDOM. -/
def State.dieInDomain (s : State) (pkg part die fdom : Nat) : Bool :=
  (List.range 4096).any fun l =>
    let e := Tab.get 0 (s.pkg pkg).apex.dies (part * 4096 + l)
    s.logicalDie pkg part l == some die && dieFdom e == fdom
/-- BUDDYSET (R347): it writes a register, so that its arrival is at that result's visibility (DEDUCED, log entry 93). -/
def execBuddyset (f : FmtEP) (s : State) : Out :=
  pMode s (.buddyset f) f.g fun s =>
    let c := s.iss.core
    let v := s.readS f.a
    let l := v.toNat
    let part := (s.core c).ident.part
    if 4096 ≤ l then s.fault addressRange v
    else
      let e := Tab.get 0 (s.pkg (pkgOf c)).apex.dies (part * 4096 + l)
      let st := match s.logicalDie (pkgOf c) part l with
        | none => 1
        | some d => if d = dieOf c then 3
          else if s.dieInDomain (pkgOf c) part (dieOf c) (dieFdom e) then 2 else 0
      let s := if st = 0 then s.modSched (dieOf c) fun k =>
          { k with partner := Tab.set k.partner part (BitVec.ofNat 64 (2 ^ 63 + l)) } else s
      s.pushS f.a (BitVec.ofNat 64 st) 0 2

end Sys2Proof.Machine
end

