-- ==== Sys2Proof/Machine/Control.lean ====
section
/-! DEFINITION. Fetching bundles (R91 to R93, R196), continuation records (R45 to R48) and the control instructions
(spec/08_control.md): class C. What a control instruction asks of the bundle's boundary is left in the issue record. -/

namespace Sys2Proof.Machine

/-! ### Bundles in CMEM (R91 to R93) -/

/-- The plaintext of the line that holds an offset of a cluster's CMEM (R196). -/
def State.codeLine (s : State) (part cl a : Nat) : BitVec 512 :=
  BitVec.ofNat 512 (leNum (s.readPlain part (cmemAddr cl (a % 2 ^ 24 / 64 * 64)) 64))
/-- A fetch of the line waits: it is being rekeyed, or its cluster is halted (R392, R410). -/
def State.lineWaits (s : State) (part cl a : Nat) : Bool := s.waitsAt part (cmemAddr cl (a % 2 ^ 24 / 64 * 64))
/-- The n bytes of a line from an offset on, as a number. -/
def lineBytes (l : BitVec 512) (off n : Nat) : Nat := l.toNat / 2 ^ (8 * off) % 2 ^ (8 * n)
/-- The header at an address within its line. -/
def headerAt (l : BitVec 512) (a : Nat) : Nat := lineBytes l (a % 64) 2
/-- Number of set bits among the n low ones. -/
def countBits : Nat → Nat → Nat
  | 0, _ => 0
  | n + 1, x => x % 2 + countBits n (x / 2)
/-- PRES, WIDE and SFX of a header (R91). -/
def hPres (h : Nat) : Nat := h % 256
def hWide (h : Nat) : Nat := h / 256 % 128
def hSfx (h : Nat) : Nat := h / 2 ^ 15 % 2
/-- The length of a bundle (R92, R93). -/
def bundleLen (h : Nat) : Nat := 2 + 4 * countBits 8 (hPres h) + 4 * countBits 7 (hWide h) + 4 * hSfx h
/-- The line-skip marker (R93). -/
def skipMarker : Nat := 0x7F00
/-- The core issues the Chord's bundles: attached, and in no handler (R375). -/
def Core.inStream (k : Core) : Bool := k.ident.mode == 0 && !k.stat.handler
/-- The line of an offset among kept lines, or else as CMEM holds it (R196). -/
def State.lineOf (s : State) (lines : List (Nat × BitVec 512)) (part cl a : Nat) : BitVec 512 :=
  let q := a % 2 ^ 24 / 64 * 64
  match lines.find? fun e => e.1 == q with
  | some e => e.2
  | none => s.codeLine part cl q
/-- An address with line-skip markers followed (R93), by kept lines or CMEM. -/
def State.pastMarkers (s : State) (lines : List (Nat × BitVec 512)) (part cl : Nat) : Nat → Nat → Nat
  | 0, a => a % 2 ^ 24
  | n + 1, a =>
    if headerAt (s.lineOf lines part cl a) a = skipMarker then State.pastMarkers s lines part cl n ((a / 64 + 1) * 64)
    else a % 2 ^ 24
/-- The lines of CMEM: no run of markers is longer. -/
def allLines : Nat := 262144
/-- The address that sequential fetch takes after the bundle at an address, past any marker (R92). At a line-skip marker its header
bits give the length (DEDUCED, log entry 76). -/
def State.seqAfter (s : State) (lines : List (Nat × BitVec 512)) (part cl a : Nat) : Nat :=
  s.pastMarkers lines part cl allLines (a + bundleLen (headerAt (s.lineOf lines part cl a) a))
/-- The lines a core fetches from: its Chord's in the Chord's stream, else its fetch buffer. -/
def State.linesOf (s : State) (c : Nat) : List (Nat × BitVec 512) :=
  if (s.core c).inStream then (s.cluster (clusterOf c)).chord.lines else (s.core c).fetch.lines
/-- The line an address lies in, as the core sees it. -/
def State.peekLine (s : State) (c a : Nat) : BitVec 512 :=
  s.lineOf (s.linesOf c) (s.core c).ident.part (clusterOf c) a
/-- An address with line-skip markers followed, as the core sees it. -/
def State.resolve (s : State) (c a : Nat) : Nat :=
  s.pastMarkers (s.linesOf c) (s.core c).ident.part (clusterOf c) allLines a
/-- The address in sequence after a bundle, as the core sees it. -/
def State.seqNext (s : State) (c a : Nat) : Nat := s.seqAfter (s.linesOf c) (s.core c).ident.part (clusterOf c) a
/-- Kept lines with some new ones in place of older copies; at most 32, the oldest dropped first (log entry 12). -/
def keepLines (old new : List (Nat × BitVec 512)) : List (Nat × BitVec 512) :=
  let l := old.filter (fun e => !new.any (fun n => n.1 == e.1)) ++ new
  l.drop (l.length - 32)

/-! ### Continuation records (R45 to R48) -/

/-- The records in a die's pool. -/
def State.poolSize (s : State) (d : Nat) : Nat := (s.die d).sched.pool.length
/-- Push a record; a core may be barred from it until a cycle (R46). -/
def State.pushRecord (s : State) (d : Nat) (r : Record) (notCore until_ : Nat) (by_ : Option Nat) : State :=
  s.modSched d fun k =>
    { k with pool := k.pool ++ [⟨r, k.poolNext, notCore, until_, by_.map fun c => (c, s.clk.cycle)⟩], poolNext := k.poolNext + 1 }
/-- The record a context forms with a PC and a priority (R46): s1 to s7 as visible. -/
def State.formRecord (s : State) (c x pc pri : Nat) : Record :=
  let k := s.ctx c x
  ⟨pri, k.csr.group, (s.core c).ident.node, pc % 2 ^ 24, k.readS 1, k.readS 2, k.readS 3, k.readS 4, k.readS 5, k.readS 6,
   k.readS 7⟩
/-- A push waits while the pool has 1,024 free records or fewer (R48). -/
def State.poolHold (s : State) : State :=
  if s.poolSize (dieOf s.iss.core) + 1024 < 65536 then s
  else s.await 14 waitTimeout 0 (some (s.waitLimit s.iss.core))

/-! ### The control slot -/

/-- What the control slot asks of the boundary. -/
def State.ask (s : State) (c : Ctl) : State := s.modIss fun k => { k with ctl := c }
/-- The mode of the issuing core. -/
def State.mode (s : State) : Nat := (s.core s.iss.core).ident.mode
/-- IllegalInContext for the instruction. -/
def State.inContext (s : State) (i : Instr) : State := s.fault illegalInContext (s.wordTval i)
/-- A handler entered from ATTACHED mode is running (R375). -/
def State.inHandler (s : State) : Bool := (s.core s.iss.core).stat.handler
/-- The instruction raises IllegalInContext whatever its guard where `always` holds, and under a true guard where
`guarded` does (R98, R131, R375). -/
def refusedIn (s : State) (i : Instr) (g : Nat) (always guarded : Bool) (k : State → State) : Out :=
  if always then .next (s.inContext i)
  else .next (s.guarded g fun s => if guarded then s.inContext i else k s)

/-- EMPTY_BUNDLE (R93): issues once and does nothing. -/
def execEmptyBundle (s : State) : Out := .next s
/-- NOP (R191). -/
def execNop (f : FmtCN) (s : State) : Out := .next (s.guarded f.g fun s => s)

/-- Put a target into a target register and start the fetch of its lines (R176). -/
def State.setTarget (s : State) (tb a : Nat) : State :=
  s.modCtx s.iss.core s.iss.ctx fun k => { k with tb := Tab.set k.tb tb ⟨a, 1, s.clk.cycle + 4, []⟩ }
/-- PREP (R176); a target outside CMEM is not accepted, whatever the guard (R98, R103). -/
def execPrep (f : FmtCP) (s : State) : Out :=
  let t : Int := s.iss.addr + 2 * sInt 19 f.off
  if t < 0 ∨ 2 ^ 24 - 2 < t then .next (s.fault illegalEncoding (s.wordTval (.prep f)))
  else .next (s.guarded f.g fun s => s.setTarget f.tb t.toNat)
/-- PREPR (R176). -/
def execPrepr (f : FmtCR) (s : State) : Out :=
  .next (s.guarded f.g fun s =>
    let v := s.readS f.sa
    if 2 ^ 24 ≤ v.toNat then s.fault addressRange v
    else if v.toNat % 2 = 1 then s.fault misaligned v
    else s.setTarget f.tb v.toNat)
/-- TRANS (R177). -/
def execTrans (f : FmtCT) (s : State) : Out :=
  .next (s.guarded f.g fun s =>
    let p := s.readP f.p
    let k := s.ctx s.iss.core s.iss.ctx
    let t := Tab.get TReg.reset k.tb f.tb
    if !p.u then s.fault predicateNotUniform (BitVec.ofNat 64 f.p)
    else if t.state = 1 then s.await 13 waitTimeout 0 none
    else if !p.bits.getLsbD 0 then s
    else if t.state = 0 then s.fault addressRange (BitVec.ofNat 64 f.tb)
    else s.modCtx s.iss.core s.iss.ctx fun k =>
      { k with pend := k.pend ++ [⟨t.target, f.d, flag f.lk, k.run.issued, t.lines⟩] })
/-- A LOOP changes a loop register of the issuing context. -/
def State.modLoop (s : State) (l : Nat) (f : LoopReg → LoopReg) : State :=
  (s.modCtx s.iss.core s.iss.ctx fun k => if l = 0 then { k with l0 := f k.l0 } else { k with l1 := f k.l1 }).modIss
    fun k => { k with loop := some l }
/-- LOOP (R180): an end before the body is not accepted, whatever the guard; a count of 0 skips the body. -/
def loopOp (s : State) (i : Instr) (g l fin : Nat) (count : State → Nat) : Out :=
  let le := s.iss.addr + 2 * fin
  if le < s.iss.next then .next (s.fault illegalEncoding (s.wordTval i))
  else .next (s.guarded g fun s =>
    let n := count s
    if n = 0 then (s.modLoop l fun r => { r with active := false }).ask (.skip (s.seqNext s.iss.core le))
    else s.modLoop l fun _ => ⟨s.iss.next, le % 2 ^ 24, n, true⟩)
/-- LOOP with an immediate count (R180). -/
def execLoopImm (f : FmtCLI) (s : State) : Out := loopOp s (.loopImm f) f.g f.l f.fin fun _ => f.cnt
/-- LOOP with a count register (R180). -/
def execLoopReg (f : FmtCLR) (s : State) : Out :=
  loopOp s (.loopReg f) f.g f.l f.fin fun s => (s.readS f.s).toNat % 2 ^ 32

/-! ### SYNC (R41 to R43, R185) -/

/-- The sync line of the issuing core's node, with its package. -/
def State.syncLine (s : State) (c : Nat) : Option (Nat × Nat) :=
  let k := (s.core c).ident
  match Tab.find (s.die k.home).sched.placed (k.node % 4096) with
  | none => none
  | some p => p.line.map fun l => (k.home / 4, l)
/-- Change a sync domain. -/
def State.modDomain (s : State) (p l : Nat) (f : Domain → Domain) : State :=
  s.modPkg p fun k => { k with domains := Tab.upd ⟨0, false, 0⟩ k.domains l f }
/-- A generation of the core's domain is open. -/
def State.syncOpen (s : State) (c : Nat) : Bool :=
  match s.syncLine c with
  | none => false
  | some (p, l) => (Tab.get ⟨0, false, 0⟩ (s.pkg p).domains l).isOpen
/-- The core leaves its sync domain: the removal counts for the resume tick (R42). A core that is not a member keeps its
pending SYNCJ (DEDUCED, log entry 89). -/
def State.leaveSync (s : State) (c : Nat) : State :=
  if (s.core c).sync.member then
    let s := s.modCore c fun k => { k with sync := { k.sync with member := false } }
    match s.syncLine c with
    | none => s
    | some (p, l) => s.modDomain p l fun d => { d with removed := s.time p }
  else s
/-- SYNC (R42, R185): a member waits for the generation's common TIME. -/
def execSync (f : FmtCN) (s : State) : Out :=
  refusedIn s (.sync f) f.g (s.iss.ctx != 0) s.inHandler fun s =>
    let c := s.iss.core
    let k := (s.core c).sync
    if (s.core c).ident.started || (!k.member && !k.pendJ) then s
    else if k.go.any fun t => decide (t ≤ s.time (pkgOf c)) then
      s.modCore c fun q => { q with sync := { q.sync with arrived := none, go := none } }
    else (s.modIss fun i => { i with syncs := true }).await 11 waitTimeout 0 (some (s.waitLimit c))
/-- SYNCJ (R41). -/
def execSyncj (f : FmtCN) (s : State) : Out :=
  refusedIn s (.syncj f) f.g (s.iss.ctx != 0) s.inHandler fun s =>
    let c := s.iss.core
    if (s.core c).ident.started || (s.core c).sync.member then s
    else if s.syncOpen c then s.modCore c fun q => { q with sync := { q.sync with pendJ := true } }
    else s.modCore c fun q => { q with sync := { q.sync with member := true } }
/-- SYNCL (R41). A pending SYNCJ stays pending (log entry 89). -/
def execSyncl (f : FmtCN) (s : State) : Out :=
  refusedIn s (.syncl f) f.g (s.iss.ctx != 0) s.inHandler fun s =>
    if (s.core s.iss.core).ident.started then s else s.leaveSync s.iss.core

/-! ### Modes (R29 to R31, R182 to R184) -/

/-- JOIN (R37, R183): a detached core waits; an attached core does nothing. -/
def joinOp (s : State) (i : Instr) (g k : Nat) : Out :=
  refusedIn s i g (s.mode == 2) (s.inHandler || (s.core s.iss.core).ident.started) fun s =>
    if s.mode = 1 then s.ask (.join k) else s
/-- JOIN (R183). -/
def execJoin (f : FmtCJ) (s : State) : Out := joinOp s (.join f) f.g f.k
/-- JOIN.W (R183): on a core it acts as JOIN. -/
def execJoinW (f : FmtCJ) (s : State) : Out := joinOp s (.joinW f) f.g f.k
/-- DETACH (R31, R182). -/
def execDetach (f : FmtCN) (s : State) : Out :=
  refusedIn s (.detach f) f.g (s.mode == 2) (s.inHandler || (s.core s.iss.core).ident.started) fun s =>
    if s.mode = 0 then s.ask .detach else s
/-- No other context of the core is active. -/
def Core.othersDormant (k : Core) : Bool := k.ctxs.all fun t => t.1 == 0 || !t.2.run.active
/-- SMODE (R30, R184): holds until context 0's results are visible and, for DETACHED, the other contexts are dormant. -/
def execSmode (f : FmtCM) (s : State) : Out :=
  refusedIn s (.smode f) f.g (s.mode == 0 || s.iss.ctx != 0) s.inHandler fun s =>
    let c := s.iss.core
    if f.mode = s.mode then s
    else if !(s.ctx c 0).earlier.isEmpty || (f.mode == 1 && !(s.core c).othersDormant) then
      s.await 12 waitTimeout 0 (some (s.waitLimit c))
    else s.ask (.mode f.mode)

/-! ### Strands and traps (R186 to R190) -/

/-- SPAWN (R186). -/
def execSpawn (f : FmtCS) (s : State) : Out :=
  .next (s.guarded f.g fun s =>
    let v := s.readS f.s
    if 2 ^ 24 ≤ v.toNat then s.fault addressRange v
    else if v.toNat % 2 = 1 then s.fault misaligned v
    else
      let s := s.poolHold
      s.pushRecord (dieOf s.iss.core) (s.formRecord s.iss.core s.iss.ctx v.toNat f.pri) 0 0 (some s.iss.core))
/-- SUSPEND and YIELD (R187): refused in context 0; hold until the context's results are visible and the pool has room. -/
def parkOp (s : State) (i : Instr) (g : Nat) (yields : Bool) : Out :=
  refusedIn s i g (s.iss.ctx == 0) false fun s =>
    let s := if (s.ctx s.iss.core s.iss.ctx).earlier.isEmpty then s else s.await 17 waitTimeout 0 none
    s.poolHold.ask (.suspend yields)
/-- SUSPEND (R187). -/
def execSuspend (f : FmtCN) (s : State) : Out := parkOp s (.suspend f) f.g false
/-- YIELD (R187). -/
def execYield (f : FmtCN) (s : State) : Out := parkOp s (.yield f) f.g true
/-- HALT (R188); in context 0 the core leaves its sync domain at issue (R41). -/
def execHalt (f : FmtCN) (s : State) : Out :=
  .next (s.guarded f.g fun s => (if s.iss.ctx = 0 then s.leaveSync s.iss.core else s).ask .halt)
/-- TRAP (R189). -/
def execTrap (f : FmtCX) (s : State) : Out := .next (s.guarded f.g fun s => s.ask (.trap f.code))
/-- TRET (R190, R378): at level U a privilege violation; else it holds until the handler's results are visible. -/
def execTret (f : FmtCN) (s : State) : Out :=
  .next (s.guarded f.g fun s =>
    if !(s.core s.iss.core).ident.pl then s.fault privilegeViolation (s.wordTval (.tret f))
    else if (s.ctx s.iss.core s.iss.ctx).earlier.isEmpty then s.ask .tret
    else s.await 15 waitTimeout 0 none)

end Sys2Proof.Machine
end

