-- ==== Sys2Proof/Machine/Boundary.lean ====
section
/-! DEFINITION. The boundary of a bundle (R178 to R184), dissent (R35), what ends a wait (R137, R373), sync generations
(R42), and the taking of records and arrivals (R47 to R51). -/

namespace Sys2Proof.Machine

/-! ### The Chord's stream -/

/-- A core of a placed node that follows its Chord (R33): attached, and not halted. -/
def Core.attached (k : Core) : Bool := k.ident.placed && k.ident.mode == 0 && (k.ctx 0).run.active
/-- The attached cores of a cluster, lowest logical core first. -/
def State.attachedCores (s : State) (cl : Nat) : List Nat := (coresOf cl).filter fun c => (s.core c).attached
/-- The leader (R33). -/
def State.leader (s : State) (cl : Nat) : Option Nat := (s.attachedCores cl).head?
/-- With no core attached the Chord is idle, unless it has just restarted (R33, R39). -/
def State.idleChord (s : State) (cl : Nat) : State :=
  if (s.attachedCores cl).isEmpty && !(s.cluster cl).chord.restarted then
    s.modCluster cl fun k => { k with chord := { k.chord with on := false, wait := .none, trans := [] } }
  else s
/-- A core's decode queue is discarded. -/
def State.dropQueue (s : State) (c : Nat) : State :=
  s.modCore c fun k => { k with fetch := { k.fetch with queue := [], notes := [], fresh := false } }
/-- A core leaves ATTACHED mode (R35, R182): its queue is discarded and it goes on DETACHED. -/
def State.leaveStream (s : State) (c : Nat) : State :=
  ((s.dropQueue c).modCore c fun k => { k with ident := { k.ident with mode := 1 } }).idleChord (clusterOf c)
/-- An attached core compares its next address with the one the Chord chose (R35): where they differ it dissents. The
leader that decided the address never dissents, and goes on at it (R36). -/
def State.compare (s : State) (c chosen : Nat) (lead : Option Nat) : State :=
  let k := s.core c
  if k.attached && k.inStream && !k.fetch.fresh && s.resolve c (k.ctx 0).pc != chosen then
    if lead = some c then s.modCtx c 0 fun t => { t with pc := chosen } else s.leaveStream c
  else s
/-- The comparison at a boundary: with the next bundle of the core's queue, or, where the core has issued all that was
multicast, with the address the Chord has chosen, if it has. -/
def State.compareHead (s : State) (c : Nat) : State :=
  match (s.core c).fetch.queue.head? with
  | none =>
    let h := (s.cluster (clusterOf c)).chord
    if h.decided then s.compare c h.pc h.lead else s
  | some b => s.compare c b.addr b.lead

/-- The core is one of the node that a Chord serves (R33, R39). -/
def Chord.serves (h : Chord) (k : Core) : Bool := k.ident.placed && k.ident.node == h.node && k.ident.home == h.home
/-- A Chord goes on for a core that has just re-attached, where the last core that followed it left in the same cycle
(R38). -/
def State.turnOn (s : State) (c : Nat) : State := s.modCluster (clusterOf c) fun k => { k with chord := { k.chord with on := true } }
/-- A detached core that waits at a JOIN re-attaches (R38): its pending transfers are cancelled, with TCOLL; its first
bundle is the one multicast next. -/
def State.reattach (s : State) (c num : Nat) : State :=
  let s := s.modCore c fun k =>
    { k with ident := { k.ident with mode := 0 }
             fetch := { k.fetch with queue := [], notes := [], lastNum := num, fresh := true } }
  s.modCtx c 0 fun t =>
    { t with pend := [], csr := { t.csr with tcoll := t.csr.tcoll || !t.pend.isEmpty }
             run := { t.run with join := none, waits := [] } }

/-! ### The end of a bundle -/

/-- The pending transfer that is due at this boundary: the earliest-issued whose count is 0 (R178). -/
def duePending (l : List Pending) : Option Pending := l.find? fun p => p.rem == 0
/-- The counts of captured results after SMODE in a handler: those of a STRAND capture stand one higher (log entry 62), so
that each result matures with the same bundle after TRET (R378). -/
def recount (mode : Nat) (l : List Result) : List Result :=
  l.map fun r => { r with rem := (if mode = 2 then r.rem + 1 else r.rem - 1) }
/-- The context's next bundle is known: results come one boundary nearer (R25), the mode changes, a software trap is
taken, and an attached core compares its path with the Chord's (R35, R182, R184, R189). -/
def State.settle (s : State) (next : Nat) : State :=
  let c := s.iss.core
  let x := s.iss.ctx
  let ctl := s.iss.ctl
  let s := s.modIss fun k => { k with open_ := false }
  let s := match ctl with
    | .mode m => (s.modCore c fun k => { k with ident := { k.ident with mode := m } }).modCtx c 0 fun t =>
        { t with cap := t.cap.map fun (g : Capture) => { g with results := recount m g.results } }
    | .detach => s.leaveStream c
    | .none => s
    | .skip _ => s
    | .halt => s
    | .suspend _ => s
    | .trap _ => s
    | .tret => s
    | .join _ => s
  let s := if (s.core c).ident.mode = 2 then s else s.tickExposed c x
  let s := s.modCtx c x fun k => { k with pc := next % 2 ^ 24 }
  match ctl with
  | .trap code =>
    let s := if (s.core c).ident.mode = 2 then s.tickStrand c x else s
    s.takeTrap c x 0 softwareTrap (BitVec.ofNat 64 code) (s.resolve c next)
  | .none => s.compareHead c
  | .skip _ => s.compareHead c
  | .detach => s
  | .mode _ => s
  | .halt => s
  | .suspend _ => s
  | .tret => s
  | .join _ => s

/-- The link of a transfer that matures (R179): a result of the TRANS bundle's slot 0 in the exposed modes; in STRAND mode
it follows every write issued before, those of the bundle just issued included. -/
def State.linkResult (s : State) (c x : Nat) (p : Pending) (back : Nat) : State :=
  let strand := (s.core c).ident.mode == 2
  s.modCtx c x fun k =>
    { k with inflight := k.inflight ++ [⟨.s 31, BitVec.ofNat 2048 back, BitVec.allOnes 64, 0, 1, if strand then 9 else 0,
                                         if strand then k.run.issued - 1 else p.order, none, none⟩] }
/-- A transfer matures (R178, R179): the others are cancelled, with TCOLL; the lines its target register fetched come
into use (R196); the next bundle is its target. -/
def State.matureTransfer (s : State) (c x : Nat) (p : Pending) : State :=
  let cancelled := decide (1 < (s.ctx c x).pend.length)
  let s := s.modCtx c x fun k => { k with pend := [], csr := { k.csr with tcoll := k.csr.tcoll || cancelled } }
  let s := s.modCore c fun k => { k with fetch := { k.fetch with lines := keepLines k.fetch.lines p.lines } }
  let s := if p.link then s.linkResult c x p s.iss.next else s
  s.settle p.target
/-- The boundary of context x of core c is open. -/
def State.atBoundary (s : State) (c x : Nat) : Bool := s.iss.open_ && s.iss.core == c && s.iss.ctx == x
/-- TRANSFER_MATURE (R178). -/
def execTransferMature (s : State) : Out :=
  let core := s.arg 0
  let ctx := s.arg 1
  .next (if s.atBoundary core ctx then
      match duePending (s.ctx core ctx).pend with
      | some p => s.matureTransfer core ctx p
      | none => s
    else s)

/-- A loop ends at its LE (R181): the loop after, and where it loops back to. -/
def LoopReg.finish (l : LoopReg) (a : Nat) : LoopReg × Option Nat :=
  if l.active && l.le == a then
    if 1 < l.lc then ({ l with lc := l.lc - 1 }, some l.ls) else ({ l with lc := 0, active := false }, none)
  else (l, none)
/-- Both loops at the bundle at a (R181): l1 first, and l0 unless l1 loops back. -/
def finishLoops (l0 l1 : LoopReg) (a : Nat) : LoopReg × LoopReg × Option Nat :=
  let r1 := l1.finish a
  match r1.2 with
  | some t => (l0, r1.1, some t)
  | none =>
    let r0 := l0.finish a
    (r0.1, r1.1, r0.2)
/-- Some active loop has its end at a. -/
def Ctx.loopEndsAt (k : Ctx) (a : Nat) : Bool := (k.l0.active && k.l0.le == a) || (k.l1.active && k.l1.le == a)
/-- LOOP_END (R181). -/
def execLoopEnd (s : State) : Out :=
  let core := s.arg 0
  let ctx := s.arg 1
  .next (if s.atBoundary core ctx && (duePending (s.ctx core ctx).pend).isNone
      && (s.ctx core ctx).loopEndsAt s.iss.addr then
      let k := s.ctx core ctx
      let r := finishLoops k.l0 k.l1 s.iss.addr
      (s.modCtx core ctx fun k => { k with l0 := r.1, l1 := r.2.1 }).settle (r.2.2.getD s.iss.next)
    else s)

/-! ### Limits (R137, R373) -/

/-- The wait has lasted more live cycles of its core than its limit. -/
def Wait.exceeded (w : Wait) (live : Nat) : Bool := decide (w.limit < live - w.start)
/-- The wait of the lowest slot. -/
def lowestWait : List Wait → Option Wait
  | [] => none
  | w :: l => match lowestWait l with
    | none => some w
    | some v => if w.loc ≤ v.loc then some w else some v
/-- The exceeded wait of the context with a timeout code; of several, the lowest slot's (R100). -/
def State.overdue (s : State) (c x code : Nat) : Option Wait :=
  lowestWait ((s.ctx c x).run.waits.filter fun w => w.code == code && w.exceeded (s.core c).stat.live)
/-- A wait traps: nothing it waited on changes (R373). -/
def State.timeoutTrap (s : State) (c x : Nat) (w : Wait) : State :=
  s.takeTrap c x w.loc w.code w.tval (s.resolve c (s.ctx c x).pc)
/-- WAIT_TIMEOUT (R137, R271, R373): unless a tag wait is overdue too. -/
def execWaitTimeout (s : State) : Out :=
  let core := s.arg 0
  let ctx := s.arg 1
  .next (match s.overdue core ctx tagWaitTimeout, s.overdue core ctx waitTimeout with
    | none, some w => s.timeoutTrap core ctx w
    | none, none => s
    | some _, _ => s)
/-- TAG_WAIT_TIMEOUT (R137, R373). -/
def execTagWaitTimeout (s : State) : Out :=
  let core := s.arg 0
  let ctx := s.arg 1
  .next (match s.overdue core ctx tagWaitTimeout with
    | some w => s.timeoutTrap core ctx w
    | none => s)
/-- JOIN_TIMEOUT (R40): the core stays DETACHED and TPC names its JOIN bundle. -/
def execJoinTimeout (s : State) : Out :=
  let core := s.arg 0
  .next (match (s.ctx core 0).run.join, s.overdue core 0 joinTimeout with
    | some _, some w => s.timeoutTrap core 0 w
    | some _, none => s
    | none, _ => s)

/-! ### Sync generations (R41, R42) -/

/-- The placed cores of the node that owns a sync line. -/
def State.domainCores (s : State) (p l : Nat) : List Nat :=
  ((List.range 4).flatMap fun d =>
    ((s.die (p * 4 + d)).sched.placed.filter fun e => e.2.line == some l).flatMap fun e => e.2.cores)
/-- SYNC_GENERATION_COMPLETE (R42): no member is left that has not arrived; the SYNC bundles issue 8 ticks after the
latest arrival or removal, and pending SYNCJ cores become members. -/
def execSyncGenerationComplete (s : State) : Out :=
  let pkg := s.arg 0
  let dom := s.arg 1
  .next (
    let cores := s.domainCores pkg dom
    let members := cores.filter fun c => (s.core c).sync.member
    let d := Tab.get ⟨0, false, 0⟩ (s.pkg pkg).domains dom
    if d.isOpen && members.all fun c => (s.core c).sync.arrived.isSome then
      let t := (members.foldl (fun t c => max t ((s.core c).sync.arrived.getD 0)) d.removed) + 8
      let s := members.foldl (fun (s : State) c =>
        s.modCore c fun k => { k with sync := { k.sync with arrived := none, go := some t } }) s
      let joining := cores.filter fun c => (s.core c).sync.pendJ
      let s := joining.foldl (fun (s : State) c =>
        s.modCore c fun k => { k with sync := { k.sync with member := true, pendJ := false } }) s
      s.modDomain pkg dom fun d => { d with isOpen := joining.any fun c => (s.core c).sync.arrived.isSome }
    else s)
/-- A SYNC bundle that waits for nothing else arrives (R42); a member's arrival opens the generation. -/
def State.arriveSync (s : State) (c : Nat) : State :=
  let k := (s.core c).sync
  if k.go.isSome || k.arrived.isSome then s
  else
    let s := s.modCore c fun q => { q with sync := { q.sync with arrived := some (s.time (pkgOf c)) } }
    match s.syncLine c with
    | none => s
    | some (p, l) => if k.member then s.modDomain p l fun d => { d with isOpen := true } else s

/-! ### Records and arrivals (R47 to R51) -/

/-- A dormant context starts (R47, R51): s1 to s7, group and priority as given, the rest of its registers cleared. It is the
same context: its last issue (R50) and its outstanding operations (R259) stay its own, and so does a capture that a
handler did not release (DEDUCED, log entry 90). -/
def Ctx.start (k : Ctx) (pc : Nat) (regs : List Word) (group pri cycle : Nat) : Ctx :=
  { k with s := (List.range 7).foldl (fun t i => Tab.set t (i + 1) (regs.getD i 0)) [],
           p := k.p.filter fun e => decide (8 ≤ e.1), l0 := LoopReg.reset, l1 := LoopReg.reset, tb := [], pend := [], pc := pc % 2 ^ 24,
           csr := { k.csr with group := group, pri := pri }
           run := { CtxRun.reset with active := true, readySince := cycle, issued := k.run.issued,
                                      hasIssued := k.run.hasIssued, lastIssue := k.run.lastIssue } }
/-- A scalar context that may take a record or an arrival (R49, R188): dormant, with no result in flight, and no arrival of
its bundles' suffixes still to be made. -/
def Core.dormant (k : Core) (x : Nat) : Bool :=
  !(k.ctx x).run.active && (k.ctx x).inflight.isEmpty && !k.arrives.any fun a => a.ctx == some x
/-- Context 0 is held at an SMODE (R30). -/
def Core.smodeHeld (k : Core) : Bool := (k.ctx 0).run.waits.any fun w => w.key / 16 == 12
/-- The core's dormant contexts may take (R30, R49). -/
def Core.takes (k : Core) : Bool := k.ident.mode == 2 && !k.smodeHeld && !k.stat.stopped && !k.stat.dead
/-- The oldest record of a priority that the core may take (R49). -/
def findRecord (l : List PoolRec) (node pri c now : Nat) : Option PoolRec :=
  l.find? fun e => e.r.node == node && e.r.pri == pri && !(e.notCore == c && decide (now < e.until_))
/-- One dormant context takes the head of the arrival queue, else a record (R49). -/
def State.takeOne (s : State) (c x : Nat) : State :=
  let k := s.core c
  if !k.dormant x then s
  else match k.arrq with
    | a :: l =>
      let s := s.modCore c fun k => { k with arrq := l }
      s.modCtx c x fun k => k.start a.pc [BitVec.ofNat 64 a.off, a.cookie] 0 0 s.clk.cycle
    | [] =>
      let pool := (s.die (dieOf c)).sched.pool
      match firstSome [findRecord pool k.ident.node 1 c s.clk.cycle, findRecord pool k.ident.node 0 c s.clk.cycle] with
      | none => s
      | some e =>
        let s := s.modSched (dieOf c) fun q => { q with pool := q.pool.filter fun f => f.order != e.order }
        let now := s.clk.cycle
        s.modCtx c x fun k =>
          let t := k.start e.r.pc [e.r.s1, e.r.s2, e.r.s3, e.r.s4, e.r.s5, e.r.s6, e.r.s7] e.r.group e.r.pri now
          { t with run := { t.run with tookAt := if e.by_ = some (c, now - 1) then now else 0 } }
/-- TAKE_RECORD (R49): the dormant contexts of a core take in increasing number. -/
def execTakeRecord (s : State) : Out :=
  let core := s.arg 0
  .next (if (s.core core).takes then (List.range 15).foldl (fun s i => s.takeOne core (i + 1)) s else s)
/-- A fabric operation by its number. -/
def State.fop (s : State) (op : Nat) : Option Fop := Tab.find s.net.fops op
/-- Change a fabric operation. -/
def State.setFop (s : State) (op : Nat) (f : Fop) : State := { s with net := { s.net with fops := Tab.set s.net.fops op f } }
/-- The operation leaves the fabric and the request queue of its core (R293). -/
def State.dropFop (s : State) (op : Nat) (b : Issuer) : State :=
  let s := { s with net := { s.net with fops := Tab.del s.net.fops op } }
  match b.core with
  | some c => s.modCore c fun k => { k with fab := k.fab.filter (· != op) }
  | none => s
/-- A completed operation is sampled (R367), and leaves. -/
def State.closeFop (s : State) (op : Nat) (f : Fop) : State :=
  let s := match f.by_.core with
    | some c => s.sample (dieOf c) f.by_.part 3 (some f.by_.cluster) (s.clk.cycle - f.born)
    | none => s
  s.dropFop op f.by_
/-- An operation is complete with no barrier arrival, and leaves (R295). -/
def State.endFop (s : State) (op : Nat) (f : Fop) : State := (s.endOp op).closeFop op f
/-- An arrival formed by RGET `op` reaches its core (R51): a dormant context starts, else the arrival queue, else the
fabric interface; then its reply is held, and the RGET stays outstanding, until the arrival is a record (R48). Its GROUP
and PRI are 0 (DEDUCED, log entry 109). -/
def State.arrival (s : State) (c op : Nat) (f : Fop) (a : Arrival) : State :=
  let k := s.core c
  match (if k.takes then ((List.range 15).map (· + 1)).find? k.dormant else none) with
  | some x => (s.modCtx c x fun k => k.start a.pc [BitVec.ofNat 64 a.off, a.cookie] 0 0 s.clk.cycle).endFop op f
  | none =>
    if k.arrq.length < 64 then (s.modCore c fun k => { k with arrq := k.arrq ++ [a] }).endFop op f
    else (s.modCore c fun k => { k with overflow := k.overflow ++ [(a, op)] }).setFop op { f with stage := 7 }
/-- ARRIVAL_OVERFLOW_PUSH (R48, R51): an arrival that found the queue full becomes a record once the pool has room. -/
def execArrivalOverflowPush (s : State) : Out :=
  let core := s.arg 0
  .next (
    let d := dieOf core
    match (s.core core).overflow with
    | [] => s
    | (a, op) :: l =>
      if s.poolSize d < 65536 then
        let s := s.modCore core fun k => { k with overflow := l }
        let s := s.pushRecord d ⟨0, 0, (s.core core).ident.node, a.pc, BitVec.ofNat 64 a.off, a.cookie, 0, 0, 0, 0, 0⟩ 0 0 none
        (s.fop op).elim s (s.endFop op)
      else s)

/-- TARGET_LINES_READY (R176): from the fourth cycle after the PREP, the two lines are there. -/
def execTargetLinesReady (s : State) : Out :=
  let core := s.arg 0
  let ctx := s.arg 1
  let tb := s.arg 2
  .next (
    let k := s.core core
    let t := Tab.get TReg.reset (s.ctx core ctx).tb tb
    let waits := fun (i : Nat) => s.lineWaits k.ident.part (clusterOf core) (t.target + 64 * i)
    if t.state = 1 ∧ t.readyAt ≤ s.clk.cycle ∧ !waits 0 ∧ !waits 1 then
      let line := fun (i : Nat) =>
        let q := (t.target / 64 + i) * 64 % 2 ^ 24
        (q, s.codeLine k.ident.part (clusterOf core) q)
      s.modCtx core ctx fun k => { k with tb := Tab.set k.tb tb { t with state := 2, lines := [line 0, line 1] } }
    else s)

end Sys2Proof.Machine
end

