-- ==== Sys2Proof/Machine/Code.lean ====
section
/-! DEFINITION. Decoding the bundle at an address of a line: header, slots and suffix (R91 to R98). -/

namespace Sys2Proof.Machine

/-- Put an event with its operands next. -/
def State.nextEvent (s : State) (i : Instr) (args : List Nat) : State :=
  { s with clk := { s.clk with agenda := .event i args :: s.clk.agenda } }
/-- Put a turn next. -/
def State.nextTurn (s : State) (t : Turn) : State := { s with clk := { s.clk with agenda := t :: s.clk.agenda } }
/-! ### Decoding a bundle (R91 to R98) -/

/-- A bundle as read from its line: the decode faults of its slots, the instructions of the others, and the used entries
of its suffix as slot and barrier. -/
structure Bundle where
  faults : List SlotFault
  slots : List (Nat × Instr)
  suffix : List (Nat × Nat)
  deriving DecidableEq, Repr

/-- The header faults of R94. -/
def headerBad (h a : Nat) : Bool :=
  h != 0 && (hPres h == 0 || (List.range 7).any (fun i => bits (hWide h) i 1 == 1 && bits (hPres h) (i + 1) 1 == 0)
    || decide (58 < bundleLen h) || decide (64 < a % 64 + bundleLen h))
/-- The four entries of a suffix: slot and barrier (R95). -/
def suffixEntries (w : Nat) : List (Nat × Nat) := (List.range 4).map fun i => (bits w (8 * i + 5) 3, bits w (8 * i) 5)
/-- The suffix faults of R96. -/
def suffixBad (h : Nat) (l : List (Nat × Nat)) : Bool :=
  l.any (fun e => e.1 == 0 && e.2 != 0) || l.any (fun e => e.1 != 0 && bits (hPres h) e.1 1 == 0)
    || !distinct ((l.filter fun e => e.1 != 0).map (·.1))
/-- The fault of a word at a location (R101). -/
def wordFault (code w loc : Nat) : SlotFault := ⟨loc, code, BitVec.ofNat 64 (w * 2 ^ 32 + loc)⟩
/-- Whether slot i is present and wide. -/
def slotPresent (h i : Nat) : Bool := bits (hPres h) i 1 == 1
def slotWide (h i : Nat) : Bool := decide (0 < i) && bits (hWide h) (i - 1) 1 == 1
/-- Bytes of slot i's syllable. -/
def slotBytes (h i : Nat) : Nat := if slotPresent h i then (if slotWide h i then 8 else 4) else 0
/-- Offset of slot i's syllable from the header (R92). -/
def slotOffset (h i : Nat) : Nat := 2 + ((List.range i).map (slotBytes h)).foldl (· + ·) 0
/-- One slot of the bundle at a in its line. -/
def decodeSlot (l : BitVec 512) (a h i : Nat) : Except SlotFault Instr :=
  let w := lineBytes l (a % 64 + slotOffset h i) (slotBytes h i)
  match decodeSyl (slotClass i) (slotWide h i) w with
  | .ok x => .ok x
  | .error .illegalInstruction => .error (wordFault illegalInstruction (w % 2 ^ 32) i)
  | .error .illegalEncoding => .error (wordFault illegalEncoding (w % 2 ^ 32) i)
/-- The bundle at an address of a line; a header or suffix fault stands alone (R94, R96, R100). -/
def decodeBundle (l : BitVec 512) (a : Nat) : Except SlotFault Bundle :=
  let h := headerAt l a
  if h = 0 then .ok ⟨[], [(0, .emptyBundle)], []⟩
  else if headerBad h a then .error (wordFault illegalEncoding h 8)
  else
    let w := if hSfx h = 1 then lineBytes l (a % 64 + slotOffset h 8) 4 else 0
    let e := suffixEntries w
    if suffixBad h e then .error (wordFault illegalEncoding w 9)
    else
      let d := ((List.range 8).filter (slotPresent h)).map fun i => (i, decodeSlot l a h i)
      .ok ⟨d.filterMap fun x => match x.2 with
            | .ok _ => none
            | .error f => some f,
           d.filterMap fun x => match x.2 with
            | .ok i => some (x.1, i)
            | .error _ => none,
           e.filter fun x => x.1 != 0⟩

end Sys2Proof.Machine
end

