-- ==== Sys2Proof/Machine/Chord.lean ====
section
/-! DEFINITION. The Chord of a cluster (R32 to R40): deciding its next bundle, holding it at JOIN.W, multicasting it, and
starting again. -/

namespace Sys2Proof.Machine

/-- Change a cluster's Chord. -/
def State.modChord (s : State) (cl : Nat) (f : Chord → Chord) : State :=
  s.modCluster cl fun k => { k with chord := f k.chord }
/-- A placed core in DETACHED mode. -/
def Core.detached (k : Core) : Bool := k.ident.placed && k.ident.mode == 1
/-- The detached cores of the node that a cluster's Chord serves: those that left it, though placed again, are not counted
(R39). -/
def State.detachedCores (s : State) (cl : Nat) : List Nat :=
  (coresOf cl).filter fun c => (s.core c).detached && (s.cluster cl).chord.serves (s.core c)
/-- Those of them that wait at a JOIN (R37). -/
def State.waitingCores (s : State) (cl : Nat) : List Nat :=
  (s.detachedCores cl).filter fun c => (s.ctx c 0).run.join.isSome
/-- The cores of a cluster for which an idle Chord restarts (R39): the detached ones that wait at a JOIN. -/
def State.restartCores (s : State) (cl : Nat) : List Nat :=
  (coresOf cl).filter fun c => (s.core c).detached && (s.ctx c 0).run.join.isSome
/-- The partition of the cores that a Chord serves. -/
def State.chordPart (s : State) (cl : Nat) : Nat :=
  ((s.attachedCores cl ++ s.waitingCores cl).head?).elim 0 fun c => (s.core c).ident.part
/-- An address that the Chord would take next, past any marker (R93). -/
def State.chordResolve (s : State) (cl a : Nat) : Nat :=
  s.pastMarkers (s.cluster cl).chord.lines (s.chordPart cl) cl allLines a
/-- The Chord's next bundle is at an address, as the leader of this decision point decided (R33, R34). -/
def State.chordGo (s : State) (cl a : Nat) : State :=
  let q := s.chordResolve cl a
  let l := s.leader cl
  s.modChord cl fun h => { h with pc := q, decided := true, lead := l }
/-- The leader's note of a bundle. -/
def noteFor (l : List Note) (n : Nat) : Option Note := l.find? fun e => e.num == n
/-- The Chord waits for the leader to issue a LOOP. -/
def ChordWait.atLoop : ChordWait → Bool
  | .none => false
  | .loop => true
  | .joinW _ _ _ _ => false
/-- The Chord copies the loop that a LOOP executed on (R34). -/
def Chord.copyLoop (h : Chord) (n : Option Note) : Chord :=
  match n.bind (·.loop) with
  | none => h
  | some (l, r) => if l = 0 then { h with l0 := r } else { h with l1 := r }
/-- The earliest of the due transfers that the leader has taken. -/
def dueTaken (notes : List Note) (due : List (Nat × Nat)) : Option (Nat × List (Nat × BitVec 512)) :=
  firstSome (due.map fun d => (noteFor notes d.1).bind (·.target))
/-- The Chord decides the bundle after its last (R34), if the leader has issued what it waits for. -/
def State.chordDecide (s : State) (cl : Nat) : State :=
  let h := (s.cluster cl).chord
  match s.leader cl with
  | none => s
  | some c =>
    let f := (s.core c).fetch
    let due := h.trans.filter fun d => d.2 == h.num
    if h.decided || (h.wait.atLoop && decide (f.lastNum < h.num)) || due.any (fun d => decide (f.lastNum < d.1)) then s
    else
      let note := if h.wait.atLoop then noteFor f.notes h.num else none
      let h' := h.copyLoop note
      let s := s.modChord cl fun _ => { h' with wait := .none }
      match dueTaken f.notes due with
      | some (t, lines) =>
        (s.modChord cl fun h => { h with trans := [], lines := keepLines h.lines lines }).chordGo cl t
      | none =>
        let s := s.modChord cl fun h => { h with trans := h.trans.filter fun d => d.2 != h.num }
        match note.bind (·.skip) with
        | some t => s.chordGo cl t
        | none =>
          let r := finishLoops h'.l0 h'.l1 h.last
          let s := s.modChord cl fun h => { h with l0 := r.1, l1 := r.2.1 }
          s.chordGo cl (r.2.2.getD (s.seqAfter h.lines (s.chordPart cl) cl h.last))

/-- The control slot's instruction of the bundle at an address of a line. -/
def controlSlot (l : BitVec 512) (a : Nat) : Option Instr :=
  match decodeBundle l a with
  | .error _ => none
  | .ok b => Tab.find b.slots 0
/-- The JOIN that a bundle holds, and whether it is a JOIN.W. -/
def joinOf : Option Instr → Option (Nat × Bool)
  | some (.join f) => some (f.k, false)
  | some (.joinW f) => some (f.k, true)
  | _ => none
/-- How many bundles a TRANS delays (R177). -/
def transOf : Option Instr → Option Nat
  | some (.trans f) => some f.d
  | _ => none
/-- The bundle holds a LOOP. -/
def isLoop : Option Instr → Bool
  | some (.loopImm _) => true
  | some (.loopReg _) => true
  | _ => false
/-- Some detached core of the cluster does not wait at JOIN k (R39). -/
def State.joinHeld (s : State) (cl k : Nat) : Bool :=
  (s.detachedCores cl).any fun c => (s.ctx c 0).run.join != some k
/-- An attached core meets the Chord's next address (R35, R38): a core that has issued all before it compares, and one that
has just re-attached goes on from it. -/
def State.meet (s : State) (c a : Nat) (lead : Option Nat) : State :=
  let f := (s.core c).fetch
  if !f.queue.isEmpty then s
  else if f.fresh then s.modCtx c 0 fun k => { k with pc := a }
  else s.compare c a lead
/-- Every attached core meets the address that the Chord has decided: the dissenters detach at once, also while JOIN.W
holds the bundle (R35, R39). -/
def State.meetAll (s : State) (cl : Nat) : State :=
  let h := (s.cluster cl).chord
  (s.attachedCores cl).foldl (fun s c => s.meet c h.pc h.lead) s
/-- The bundle at the Chord's next address goes into every attached core's queue, and waiting cores re-attach (R32,
R38). -/
def State.multicast (s : State) (cl : Nat) (l : BitVec 512) (i : Option Instr) : State :=
  let h := (s.cluster cl).chord
  let a := h.pc
  let n := h.num + 1
  let s := (s.attachedCores cl).foldl (fun (s : State) c => s.modCore c fun k =>
    { k with fetch := { k.fetch with queue := k.fetch.queue ++ [⟨a, l, s.clk.cycle + 2, n, h.lead⟩] } }) s
  let again := match joinOf i with
    | some (k, _) => (s.waitingCores cl).filter fun c => (s.ctx c 0).run.join == some k
    | none => []
  let s := again.foldl (fun s c => s.reattach c n) s
  let s := s.modChord cl fun h =>
    { h with num := n, last := a, decided := false, restarted := false,
             wait := if isLoop i then .loop else .none,
             joined := (joinOf i).map fun j => (j.1, s.clk.cycle),
             trans := h.trans ++ ((transOf i).map fun d => (n, n + d)).toList,
             lines := keepLines h.lines [(a / 64 * 64, l)] }
  s.idleChord cl
/-- The hold of a JOIN.W (R39, R40): its limit is the leader's, counted afresh for a new leader. -/
def State.holdJoin (s : State) (cl k : Nat) : State :=
  match s.leader cl with
  | none => s
  | some c =>
    let live := (s.core c).stat.live
    let fresh := s.modChord cl fun h => { h with wait := .joinW k c live (max 1 (s.core c).csr.joinlimit) }
    match (s.cluster cl).chord.wait with
    | .joinW k' c' start limit =>
      if k' = k ∧ c' = c then
        if limit < live - start ∧ (s.core c).fetch.queue.isEmpty then s.nextEvent .chordJoinTimeout [cl] else s
      else fresh
    | .none => fresh
    | .loop => fresh
/-- The Chord may work in this cycle (R377). -/
def State.chordReady (s : State) (cl : Nat) : Bool :=
  let h := (s.cluster cl).chord
  h.on && !h.frozen && !h.stopped
/-- Every attached core has room in its queue: with the drift of one at 16 the Chord multicasts nothing (R32). -/
def State.drifts (s : State) (cl : Nat) : Bool := (s.attachedCores cl).all fun c => decide ((s.core c).fetch.queue.length < 16)
/-- CHORD_MULTICAST (R32): the Chord decides its next bundle if it can, at which the dissenters leave, and multicasts it unless
a queue is full or JOIN.W holds it (R35, R39). -/
def execChordMulticast (s : State) : Out :=
  let cl := s.arg 0
  .next (
    if !s.chordReady cl then s
    else if (s.cluster cl).chord.restarted && (s.waitingCores cl).isEmpty then
      s.modChord cl fun h => { h with on := false, restarted := false, wait := .none, trans := [] }
    else
      let s := s.chordDecide cl
      let s := if (s.cluster cl).chord.decided then s.meetAll cl else s
      let h := (s.cluster cl).chord
      let kept := h.lines.any fun e => e.1 == h.pc % 2 ^ 24 / 64 * 64
      if !h.decided || !h.on || (!kept && s.lineWaits (s.chordPart cl) cl h.pc) then s
      else
        let l := s.lineOf h.lines (s.chordPart cl) cl h.pc
        let i := controlSlot l h.pc
        match joinOf i with
        | some (k, true) => if s.joinHeld cl k then s.holdJoin cl k else if s.drifts cl then s.multicast cl l i else s
        | some (_, false) => if s.drifts cl then s.multicast cl l i else s
        | none => if s.drifts cl then s.multicast cl l i else s)
/-- CHORD_RESTART (R39): an idle Chord takes the JOIN bundle of the waiting core with the lowest logical number, and that
core's loops; it serves that core's node. -/
def execChordRestart (s : State) : Out :=
  let cl := s.arg 0
  .next (
    let h := (s.cluster cl).chord
    match (s.restartCores cl).head? with
    | none => s
    | some c =>
      if h.on || h.frozen || h.stopped || !(s.attachedCores cl).isEmpty then s
      else
        let k := s.ctx c 0
        let i := (s.core c).ident
        let a := s.resolve c k.pc
        s.modChord cl fun h =>
          { h with node := i.node, home := i.home, lines := if h.serves (s.core c) then h.lines else []
                   on := true, pc := a, decided := true, lead := none, l0 := k.l0, l1 := k.l1, trans := [], wait := .none,
                   restarted := true })
/-- The detached cores that a JOIN.W k still lacks, as a mask of logical core numbers (R40). -/
def State.joinMissing (s : State) (cl k : Nat) : Nat :=
  ((s.detachedCores cl).filter fun c => (s.ctx c 0).run.join != some k).foldl (fun m c => m + 2 ^ (c % 8)) 0
/-- CHORD_JOIN_TIMEOUT (R40): the leader traps at the held bundle, and the hold is counted afresh afterwards. -/
def execChordJoinTimeout (s : State) : Out :=
  let cl := s.arg 0
  .next (
    let h := (s.cluster cl).chord
    match h.wait with
    | .joinW k c start limit =>
      if h.on && s.leader cl == some c && decide (limit < (s.core c).stat.live - start) && (s.core c).fetch.queue.isEmpty then
        let s := s.modChord cl fun h => { h with wait := .none }
        s.takeTrap c 0 0 joinTimeout (BitVec.ofNat 64 (s.joinMissing cl k)) h.pc
      else s
    | .none => s
    | .loop => s)

end Sys2Proof.Machine
end

