-- ==== Sys2Proof/Machine/Bte.lean ====
section
/-! DEFINITION. The block-transfer engines at work (R274 to R283, R395), arrivals that are due (R355, R356), the stack
engines (R284 to R287), the stream engines (R288 to R292) and page walks (R333). -/

namespace Sys2Proof.Machine

/-! ### Crossing from die to die (R319, R390) -/

/-- The dies an engine address leads to from a die: its own, or a peer's in space 5. -/
def State.farDie (s : State) (b : Issuer) (a : Nat) : Nat :=
  if spaceOf a = 5 then (s.issuerDie b (a / 2 ^ 48 % 4096)).getD b.die else b.die
/-- A die counts a packet (R390). -/
def State.countPacket (s : State) (die : Nat) : State :=
  s.modPkg (die / 4) fun k => { k with packets := Tab.upd 0 k.packets (die % 4) fun n => (n + 1) % 2 ^ 64 }
/-- The nonce of a die's next packet (R390; log entry 107): its packet counter, then its package and die numbers. -/
def State.packetNonce (s : State) (die : Nat) : List Nat :=
  leBytes 8 (Tab.get 0 (s.pkg (die / 4)).packets (die % 4)) ++ leBytes 4 die
/-- The 32 bytes of a 256-bit key. -/
def keyBytes (k : BitVec 256) : List Nat := leBytes 32 k.toNat
/-- A payload of a partition that crosses from a die to a package as the other end has it (R390; log entry 107): under the
partition's fabric key at the sender, opened under that at the receiver, none where the tag fails. An ordinary partition's
goes in plaintext, and so does, within a package, that of a protected partition with no fabric key. -/
def State.carry (s : State) (part src q : Nat) (cross : Bool) (l : List Nat) : State × Option (List Nat) :=
  let p := src / 4
  if !cross || !(s.protectedPart p part || s.protectedPart q part) then (s, some l)
  else
    let theirs := (s.part q part).sec.fabric
    match (s.part p part).sec.fabric with
    | none => (s, if p = q ∧ theirs = none then some l else none)
    | some k =>
      let n := s.packetNonce src
      let h := Config.packetHeader src q
      let e := gcmEnc (keyBytes k) n h l
      (s.countPacket src, theirs.bind fun k => gcmDec (keyBytes k) n h e.1 e.2)
/-- The partition is RESETTING in a package (R398): what comes for it waits there to be dropped. -/
def State.resets (s : State) (part pkg : Nat) : Bool := (s.part pkg part).ctl.state == 3
/-- The package of a supported network answers (R17). -/
def answers (pkg : Nat) : Bool := decide (pkg < packages)

/-- The port group of a package that leads to another (R411). -/
def State.groupDrains (s : State) (p q : Nat) : Bool :=
  p != q && (Tab.get PortGroup.reset (s.pkg p).groups (Config.portGroup p q)).drain

/-! ### A command's pieces (R278, R283) -/

/-- Rows remain to be moved. -/
def Cmd.more (m : Cmd) : Bool := decide (m.row < m.shape.rows) && m.shape.rowb != 0
/-- The destination of the next piece. -/
def Cmd.dstAt (m : Cmd) : Nat := ((m.dst : Int) + m.row * m.shape.dstr).toNat + m.off
/-- The source of the next piece. -/
def Cmd.srcAt (m : Cmd) : Nat :=
  ((m.src : Int) + m.row * m.shape.sstr).toNat + m.off + (if m.kind = 3 then 32 else 0)
/-- The length of the next piece: it ends at a destination line's end. -/
def Cmd.pieceLen (m : Cmd) : Nat := min (m.shape.rowb - m.off) (64 - m.dstAt % 64)
/-- The next piece has been moved. -/
def Cmd.advance (m : Cmd) : Cmd :=
  if m.off + m.pieceLen < m.shape.rowb then { m with off := m.off + m.pieceLen, sentAt := 0 }
  else { m with row := m.row + 1, off := 0, sentAt := 0 }
/-- Change the commands of a cluster's slots. -/
def State.modSlots (s : State) (cl : Nat) (f : Tab Cmd → Tab Cmd) : State :=
  s.modCluster cl fun k => { k with bte := { k.bte with slots := f k.bte.slots } }
/-- The command in a slot. -/
def State.bteSlot (s : State) (cl i : Nat) : Option Cmd := Tab.find (s.cluster cl).bte.slots i
/-- A copy is sampled as it completes, with an error or without (R366). -/
def State.sampleCmd (s : State) (cl : Nat) (m : Cmd) : State :=
  s.sample (cl / 16) m.by_.part (if m.ckpt then 2 else 1) (some cl) (s.clk.cycle - m.relAt)
/-- A command completes with an engine error (R273, R278): its handle stays FILLING. -/
def State.failCmd (s : State) (cl i : Nat) (m : Cmd) (code addr : Nat) : State :=
  ((s.failOp m.by_ 1 code m.bar addr m.opId).sampleCmd cl m).modSlots cl fun t => Tab.del t i

/-! ### Starting a command -/

/-- The space 5 address of a CKPT destination in the partner's LM (R279). -/
def State.partnerDst (s : State) (m : Cmd) : Option Nat :=
  let e := (Tab.get 0 (s.die m.by_.die).sched.partner m.by_.part).toNat
  if bits e 63 1 = 1 then some (5 * 2 ^ 60 + e % 2 ^ 12 * 2 ^ 48 + off48 m.dst) else none
/-- The model key in a slot of a partition. -/
def State.modelKey (s : State) (pkg part slot : Nat) : Option (List Nat) :=
  (Tab.find (s.part pkg part).sec.model slot).map keyBytes
/-- A sealed chunk verifies (R395): its key slot and nonce. -/
def State.chunkOk (s : State) (m : Cmd) (l : List Nat) : Option (Nat × List Nat) :=
  let w := leNum (l.take 8)
  let p := m.shape.rowb
  if bits w 36 28 ≠ 0 ∨ bits w 0 32 ≠ p ∨ leNum ((l.drop 28).take 4) ≠ 0 then none
  else match s.modelKey (m.by_.die / 4) m.by_.part (bits w 32 4) with
    | none => none
    | some k =>
      let iv := (l.drop 16).take 12
      if (gcmDec k iv (l.take 32) ((l.drop 32).take p) ((l.drop (32 + p)).take 16)).isSome then some (bits w 32 4, iv)
      else none
/-- A command starts to move in a slot (R278, R279, R395). -/
def State.beginMove (s : State) (cl i : Nat) (m : Cmd) : State :=
  let put := fun (s : State) (m : Cmd) => s.modSlots cl fun t => Tab.set t i { m with phase := 2 }
  if m.ckpt then
    match s.partnerDst m with
    | none => s.failCmd cl i m 7 m.dst
    | some d => put s { m with dst := d, by_ := s.bindDies m.by_ [d] }
  else if m.kind = 3 then
    let r := s.engRead m.by_ m.src (m.shape.rowb + 48)
    match r.2 with
    | .error c => r.1.failCmd cl i m c m.src
    | .ok l => match s.chunkOk m l with
      | none => r.1.failCmd cl i m 2 m.src
      | some x => put r.1 { m with chunk := some x }
  else put s m

/-- The command may be released (R275, R381). -/
def State.eligible (s : State) (cl : Nat) (m : Cmd) : Bool :=
  decide (m.time ≤ s.time (cl / 64)) && s.done m.after
    && (match m.by_.core with
      | some c => !(s.core c).stat.stopped
      | none => true)
/-- The first command with the smallest issue time of a list. -/
def earliestCmd : List Cmd → Option Cmd
  | [] => none
  | m :: l => match earliestCmd l with
    | none => some m
    | some n => if m.time ≤ n.time then some m else some n
/-- The lowest free slot of the eight. -/
def freeSlot (t : Tab Cmd) : Option Nat := (List.range 8).find? fun i => (Tab.find t i).isNone
/-- Commands whose cycle has come enter the time-sorted buffer (R274). -/
def State.enterBuffer (s : State) (cl : Nat) : State :=
  let now := s.clk.cycle
  s.modCluster cl fun k =>
    { k with bte := { k.bte with buffer := k.bte.buffer ++ k.bte.coming.filter fun m => decide (m.enterAt ≤ now),
                                 coming := k.bte.coming.filter fun m => !decide (m.enterAt ≤ now) } }
/-- The bound of a command's wait for its handle (R276). -/
def State.cmdLimit (s : State) (m : Cmd) : Nat := m.by_.core.elim 0x1000000 s.waitLimit
/-- BTE_RELEASE (R274, R275). -/
def execBteRelease (s : State) : Out :=
  let cl := s.arg 0
  .next (s.unmet fun s =>
    let s := s.enterBuffer cl
    let b := (s.cluster cl).bte
    match freeSlot b.slots, earliestCmd (b.buffer.filter (s.eligible cl)) with
    | some i, some m =>
      let n := { m with relAt := s.clk.cycle, limit := s.cmdLimit m, phase := 1, waited := 0 }
      let s := s.modCluster cl fun k =>
        { k with bte := { k.bte with buffer := k.bte.buffer.filter fun x => x.opId != m.opId, slots := Tab.set k.bte.slots i n } }
      if m.handle.isSome then s else s.beginMove cl i n
    | some _, none => s
    | none, _ => s)

/-! ### Handles (R276, R280) -/

/-- The address of the buffer-table entry of a command's handle. -/
def Cmd.handleAt (m : Cmd) : Option Nat :=
  match m.by_.core, m.handle with
  | some c, some o => some (spmAddr c o)
  | some _, none => none
  | none, _ => none
/-- Change STATE of the entry at an address. -/
def State.entryState (s : State) (a st : Nat) : State :=
  { s with mem := s.mem.writeN a 8 (st * 2 ^ 62 + s.mem.readN a 8 % 2 ^ 62), watch := rewrote s.watch a 8 }
/-- HANDLE_FILL_CLAIM (R280): a waiting fill claims its handle; a reserved bit in the entry fails it (R344). -/
def execHandleFillClaim (s : State) : Out :=
  let cl := s.arg 0
  let slot := s.arg 1
  .next (s.unmet fun s => match s.bteSlot cl slot with
    | none => s
    | some m => match m.handleAt with
      | none => s
      | some a =>
        let w := s.mem.readN a 8
        if m.phase ≠ 1 then s
        else if hBad w then s.failCmd cl slot m 5 (placeOff a)
        else if hState w = 0 then (s.entryState a 1).beginMove cl slot m
        else s)
/-- BTE_HANDLE_TIMEOUT (R276): one more cycle of the wait; one over the limit fails the command. -/
def execBteHandleTimeout (s : State) : Out :=
  let cl := s.arg 0
  let slot := s.arg 1
  .next (match s.bteSlot cl slot with
    | none => s
    | some m =>
      if m.phase ≠ 1 then s
      else if m.limit < m.waited + 1 then s.failCmd cl slot m 6 m.dst
      else s.modCluster cl fun k =>
        { k with bte := { k.bte with slots := Tab.set k.bte.slots slot { m with waited := m.waited + 1 } } })

/-! ### Moving and completing -/

/-- The bytes of a piece as read: those of an unsealed chunk are decrypted (R395), if their key is not erased meanwhile. -/
def State.pieceBytes (s : State) (m : Cmd) (l : List Nat) : Option (List Nat) :=
  match m.chunk with
  | none => some l
  | some (k, iv) => (s.modelKey (m.by_.die / 4) m.by_.part k).map fun key =>
    gctr (aesKeys key) iv (2 + m.off / 16) (chunks 16 (l.length / 16 + 1) l)
/-- Another package holds a partition's packets back or answers none: it is no package of the network (R17), the partition is
RESETTING there (R398), or a port group between the two drains (R411). -/
def State.holdsBack (s : State) (part p q : Nat) : Bool :=
  !answers q || s.resets part q || s.groupDrains p q || s.groupDrains q p
/-- A command's next piece waits for another package, from the time it stands there (R319). -/
def State.sendPiece (s : State) (cl i : Nat) (m : Cmd) : State :=
  if m.sentAt = 0 then s.modSlots cl fun t => Tab.set t i { m with sentAt := s.clk.cycle } else s
/-- One piece moves from source to destination (R278), through the issuing die (R390); an error stops the command. -/
def State.movePiece (s : State) (cl i : Nat) (m : Cmd) : State :=
  let b := m.by_
  let n := m.pieceLen
  let from_ := s.farDie b m.srcAt
  let to_ := s.farDie b m.dstAt
  let far := fun d => s.peerDead (b.die / 4) (d / 4)
  if far from_ then s.failCmd cl i m 4 m.srcAt
  else if far to_ then s.failCmd cl i m 4 m.dstAt
  else if s.holdsBack b.part (b.die / 4) (from_ / 4) || s.holdsBack b.part (b.die / 4) (to_ / 4) then s.sendPiece cl i m
  else
    let r := s.engRead b m.srcAt n
    match r.2 with
    | .error c => r.1.failCmd cl i m c m.srcAt
    | .ok l =>
      let x := r.1.carry b.part from_ (b.die / 4) (from_ != b.die) l
      match x.2.bind (x.1.pieceBytes m) with
      | none => x.1.failCmd cl i m 2 m.srcAt
      | some l =>
        let y := x.1.carry b.part b.die (to_ / 4) (to_ != b.die) l
        match y.2 with
        | none => y.1.failCmd cl i m 2 m.dstAt
        | some l =>
          let w := y.1.engWrite b m.dstAt l m.tag
          match w.2 with
          | .error c => w.1.failCmd cl i m c m.dstAt
          | .ok () => w.1.modSlots cl fun t => Tab.set t i m.advance
/-- BTE_PIECE_WRITE (R278, R283). -/
def execBtePieceWrite (s : State) : Out :=
  let cl := s.arg 0
  let slot := s.arg 1
  .next (s.unmet fun s => match s.bteSlot cl slot with
    | none => s
    | some m => if m.phase = 2 ∧ m.more then s.movePiece cl slot m else s)
/-- BTE_COMMAND_COMPLETE (R278, R280): the handle becomes FULL, the barrier is incremented, and the command leaves its
slot. -/
def execBteCommandComplete (s : State) : Out :=
  let cl := s.arg 0
  let slot := s.arg 1
  .next (match s.bteSlot cl slot with
    | none => s
    | some m =>
      if m.phase ≠ 2 ∨ m.more then s
      else
        let s := match m.handleAt with
          | some a => s.entryState a 2
          | none => s
        ((s.finishOp m.by_ m.bar m.inc m.opId).sampleCmd cl m).modSlots cl fun t => Tab.del t slot)
/-- ARRIVE_APPLY (R355, R356). -/
def execArriveApply (s : State) : Out :=
  let core := s.arg 0
  .next (s.applyArrivals core)

/-! ### Stack engines (R284 to R287) -/

/-- One of a list, as an open choice gives it (log entry 15). -/
def pick {α : Type} (d : Nat) (l : List α) : Option α := l[Config.choice d % max 1 l.length]?
/-- Change a command of a die's stack-engine queue. -/
def State.modSe (s : State) (d op : Nat) (f : SeCmd → SeCmd) : State :=
  s.modDie d fun k => { k with se := k.se.map fun m => if m.opId = op then f m else m }
/-- A command leaves the queue of a die. -/
def State.seDrop (s : State) (d op : Nat) : State := s.modDie d fun k => { k with se := k.se.filter fun m => m.opId != op }
/-- SE_COMMAND_START (R284): commands start in queue order, each once its fence is met; those that have started are in
progress together (R254). -/
def execSeCommandStart (s : State) : Out :=
  let die := s.arg 0
  .next (match (s.die die).se.find? fun m => !m.running with
    | none => s
    | some m => if s.done m.after then s.modSe die m.opId fun m => { m with running := true } else s)
/-- What stack engine k of the die has done of the command. -/
def SeCmd.doneBy (m : SeCmd) (k : Nat) : Nat := if k = 0 then m.done0 else m.done1
/-- Stack engine k has done one more. -/
def SeCmd.step (m : SeCmd) (k : Nat) (f : BitVec 5) : SeCmd :=
  { m with done0 := if k = 0 then m.done0 + 1 else m.done0, done1 := if k = 0 then m.done1 else m.done1 + 1,
           flags := m.flags ||| f }
/-- Rows, outputs or elements that both engines have completed. -/
def SeCmd.done (m : SeCmd) : Nat := min m.done0 m.done1
/-- The table address lies in a pseudo-channel of stack engine k's own stack (R7, R284); one that does not translate is
left to engine 0, which finds the error. -/
def State.seMine (s : State) (m : SeCmd) (k a : Nat) : Bool :=
  match (s.locate m.by_ a true false).2 with
  | .error _ => k == 0
  | .ok q => placeUnit q / 64 % 2 == k
/-- The i-th index of a command's list. -/
def State.seIndex (s : State) (m : SeCmd) (i : Nat) : State × Except Nat Nat :=
  let n := if m.iw = 0 then 4 else 8
  let r := s.engRead m.by_ (m.idx + n * i) n
  (r.1, r.2.map leNum)
/-- The engine address of table row x; code 1 where it lies beyond the space. -/
def SeCmd.row (m : SeCmd) (x : Nat) : Except Nat Nat :=
  if off48 m.table + x * m.rowb + m.rowb ≤ 2 ^ 48 then .ok (m.table + x * m.rowb) else .error 1
/-- Table row x, read; with its address. -/
def State.seRow (s : State) (m : SeCmd) (i : Nat) : State × Except (Nat × Nat) (Nat × List Nat) :=
  let x := s.seIndex m i
  match x.2 with
  | .error c => (x.1, .error (c, m.idx))
  | .ok k => match m.row k with
    | .error c => (x.1, .error (c, m.table))
    | .ok a =>
      let r := x.1.engRead m.by_ a m.rowb
      match r.2 with
      | .error c => (r.1, .error (c, a))
      | .ok l => (r.1, .ok (a, l))
/-- The elements of n bytes of a string. -/
def tensorElems (n : Nat) (l : List Nat) : List Nat := (chunks n l.length l).map leNum
/-- The string of elements of n bytes. -/
def bytesOf (n : Nat) (l : List Nat) : List Nat := l.flatMap (leBytes n)
/-- An element as the stack engine adds it (R286): FP32 for the floating formats. -/
def seWiden (fm x : Nat) : Nat := if fm = 2 then x * 2 ^ 16 else x
/-- Add of R286, with its flags. -/
def seAdd (fm a b : Nat) : Nat × BitVec 5 :=
  if fm = 0 then ((a + b) % 2 ^ 32, 0) else fp32.add 0 false (fp32.value false a) (fp32.value false b)
/-- An FP32 or integer value rounded to a format. -/
def seOut (fm fm2 x : Nat) : Nat × BitVec 5 :=
  if fm = 0 then (x, 0) else (fpOfFmt fm2).convert 0 false (fp32.value false x)
/-- Add two rows element by element and round to their format. -/
def seAddRows (fm : Nat) (a b : List Nat) : List (Nat × BitVec 5) :=
  List.zipWith (fun x y =>
    let r := seAdd fm (seWiden fm x) (seWiden fm y)
    let o := if fm = 2 then seOut fm fm r.1 else (r.1, 0)
    (o.1, r.2 ||| o.2)) a b
/-- One output row of ROWSUM: each element summed over rows, kept at FP32, rounded once. -/
def seSumRows (fm fm2 : Nat) : List (List Nat) → List (Nat × BitVec 5)
  | [] => []
  | r :: l =>
    let y := l.foldl (fun (acc : List (Nat × BitVec 5)) row =>
      List.zipWith (fun (x : Nat × BitVec 5) e =>
        let q := seAdd fm x.1 (seWiden fm e)
        (q.1, x.2 ||| q.2)) acc row) (r.map fun e => (seWiden fm e, 0))
    y.map fun x =>
      let o := seOut fm fm2 x.1
      (o.1, x.2 ||| o.2)
/-- The OR of the flags of a list. -/
def orAll (l : List (Nat × BitVec 5)) : BitVec 5 := l.foldl (fun a x => a ||| x.2) 0
/-- The rows of one ROWSUM output, read in order. -/
def State.seGroup (s : State) (m : SeCmd) (first : Nat) : Nat → State × Except (Nat × Nat) (List (List Nat))
  | 0 => (s, .ok [])
  | n + 1 =>
    let r := State.seGroup s m first n
    match r.2 with
    | .error c => (r.1, .error c)
    | .ok l =>
      let x := r.1.seRow m (first + n)
      match x.2 with
      | .error c => (x.1, .error c)
      | .ok row => (x.1, .ok (l ++ [tensorElems (fmtBytes m.fm) row.2]))
/-- Elements of n bytes are written one by one at an address, those whose number is listed. -/
def State.sePut (s : State) (m : SeCmd) (a n : Nat) (own vals : List Nat) : State × Except (Nat × Nat) Unit :=
  own.foldl (fun acc e => match acc.2 with
    | .error c => (acc.1, .error c)
    | .ok () =>
      let w := acc.1.engWriteAll m.by_ (a + n * e) (leBytes n (vals.getD e 0)) false
      (w.1, match w.2 with
        | .error c => Except.error (c, a + n * e)
        | .ok () => Except.ok ())) (s, .ok ())
/-- The elements of a table row of n bytes each that engine k carries out. -/
def State.seOwn (s : State) (m : SeCmd) (k a n count : Nat) : List Nat :=
  (List.range count).filter fun e => s.seMine m k (a + n * e)
/-- Engine k's part of GATHER's row i: the pieces of the table row in its own stack. -/
def State.seGather (s : State) (m : SeCmd) (k i : Nat) : State × Except (Nat × Nat) (BitVec 5) :=
  let x := s.seIndex m i
  match x.2 with
  | .error c => (x.1, .error (c, m.idx))
  | .ok r => match m.row r with
    | .error c => (x.1, .error (c, m.table))
    | .ok a =>
      ((pieces a m.rowb).filter fun p => x.1.seMine m k (a + p.1)).foldl (fun acc p => match acc.2 with
        | .error c => (acc.1, .error c)
        | .ok f =>
          let d := acc.1.engRead m.by_ (a + p.1) p.2
          match d.2 with
          | .error c => (d.1, .error (c, a + p.1))
          | .ok l =>
            let o := m.other + i * m.rowb + p.1
            let w := d.1.engWriteAll m.by_ o l false
            (w.1, match w.2 with
              | .error c => .error (c, o)
              | .ok () => .ok f)) (x.1, .ok 0)
/-- Engine k's part of SCATADD's row i: the elements of the table row in its own stack. -/
def State.seScatter (s : State) (m : SeCmd) (k i : Nat) : State × Except (Nat × Nat) (BitVec 5) :=
  let r := s.seRow m i
  match r.2 with
  | .error c => (r.1, .error c)
  | .ok x =>
    let n := fmtBytes m.fm
    let own := r.1.seOwn m k x.1 n (m.rowb / n)
    let o := r.1.engRead m.by_ (m.other + i * m.rowb) m.rowb
    match o.2 with
    | .error c => (o.1, .error (c, m.other + i * m.rowb))
    | .ok l =>
      let y := seAddRows m.fm (tensorElems n x.2) (tensorElems n l)
      let w := o.1.sePut m x.1 n own (y.map (·.1))
      (w.1, w.2.map fun _ => orAll (own.map fun e => y.getD e (0, 0)))
/-- Engine k's part of ROWSUM's output i: the elements whose first table row holds them in its own stack. -/
def State.seRowsum (s : State) (m : SeCmd) (k i : Nat) : State × Except (Nat × Nat) (BitVec 5) :=
  let n := fmtBytes m.fm
  let x := s.seIndex m (i * m.group)
  match x.2.bind fun r => (m.row r) with
  | .error c => (x.1, .error (c, m.table))
  | .ok a =>
    let own := x.1.seOwn m k a n (m.rowb / n)
    if own.isEmpty then (x.1, .ok 0)
    else
      let r := x.1.seGroup m (i * m.group) m.group
      match r.2 with
      | .error c => (r.1, .error c)
      | .ok rows =>
        let y := seSumRows m.fm m.fm2 rows
        let w := r.1.sePut m (m.other + i * rowsumRow m.rowb m.fm m.fm2) (fmtBytes m.fm2) own (y.map (·.1))
        (w.1, w.2.map fun _ => orAll (own.map fun e => y.getD e (0, 0)))
/-- Engine k's part of CONVERT's element i. -/
def State.seConvert (s : State) (m : SeCmd) (k i : Nat) : State × Except (Nat × Nat) (BitVec 5) :=
  let n := fmtBytes m.fm
  let a := m.table + i * n
  if !s.seMine m k a then (s, .ok 0)
  else
    let r := s.engRead m.by_ a n
    match r.2 with
    | .error c => (r.1, .error (c, a))
    | .ok l =>
      let y := convertElem m.fm2 m.fm 0 false false false false (leNum l)
      let w := r.1.sePut m (m.other + i * fmtBytes m.fm2) (fmtBytes m.fm2) [0] [y.1]
      (w.1, w.2.map fun _ => y.2)
/-- Engine k's part of its next row, output or element of a command (R284, R286): the state, and the flags or the error
with its address. -/
def State.seOne (s : State) (m : SeCmd) (k : Nat) : State × Except (Nat × Nat) (BitVec 5) :=
  let i := m.doneBy k
  match m.op with
  | 0 => s.seGather m k i
  | 1 => s.seScatter m k i
  | 2 => s.seRowsum m k i
  | _ => s.seConvert m k i
/-- The status word of R287. -/
def SeCmd.statusWord (m : SeCmd) (err : Bool) : Nat := m.done * 2 ^ 32 + (if err then 256 else 0) + m.flags.toNat
/-- The stack engine writes the status word: in the issuing core's SPM, or back in the descriptor of a list (R341). -/
def State.seStatus (s : State) (m : SeCmd) (err : Bool) : State :=
  match m.by_.core with
  | some c =>
    let a := spmAddr c m.status
    { s with mem := s.mem.writeN a 8 (m.statusWord err), watch := rewrote s.watch a 8 }
  | none => (s.engWriteAll m.by_ m.status (leBytes 8 (m.statusWord err)) false).1
/-- The reads that make out number j of a command's list and its table row: address and length, none for a row that cannot be
read. -/
def State.rowReads (s : State) (m : SeCmd) (j : Nat) : List (Option (Nat × Nat)) :=
  let n := if m.iw = 0 then 4 else 8
  [some (m.idx + n * j, n), ((s.seIndex m j).2.bind m.row).toOption.map fun a => (a, m.rowb)]
/-- The reads that row, output or element i of a command makes, in order. -/
def State.seReads (s : State) (m : SeCmd) (i : Nat) : List (Option (Nat × Nat)) :=
  match m.op with
  | 0 => s.rowReads m i
  | 1 => s.rowReads m i ++ [some (m.other + i * m.rowb, m.rowb)]
  | 2 => (List.range m.group).flatMap fun j => s.rowReads m (i * m.group + j)
  | _ => [some (m.table + i * fmtBytes m.fm, fmtBytes m.fm)]
/-- A read is made: each of its lines has a place. -/
def State.seReadable (s : State) (m : SeCmd) (e : Option (Nat × Nat)) : Bool :=
  e.elim false fun r => (pieces r.1 r.2).all fun p => (s.locate m.by_ (r.1 + p.1) true false).2.toBool
/-- A read has a line in stack k of its die. -/
def State.seReadAt (s : State) (m : SeCmd) (k : Nat) (e : Option (Nat × Nat)) : Bool :=
  e.elim false fun r => (pieces r.1 r.2).any fun p => match (s.locate m.by_ (r.1 + p.1) true false).2 with
    | .ok q => placeKind q == 4 && placeUnit q / 64 % 2 == k
    | .error _ => false
/-- How many reads of HBM at stack engine k row, output or element i of a command makes, up to the first that fails (R366; log
entry 71). -/
def State.stackReads (s : State) (m : SeCmd) (k i : Nat) : Nat :=
  (((s.seReads m i).takeWhile (s.seReadable m)).filter (s.seReadAt m k)).length
/-- So many reads of HBM are sampled (R366, R367), each of a free duration. -/
def State.sampleReads (s : State) (die part : Nat) : Nat → State
  | 0 => s
  | n + 1 =>
    let d := (State.sampleReads s die part n).draw
    d.2.sample die part 10 none (Config.choice d.1)
/-- The commands that stack engine k may go on with: started, with a part of them still to be done. -/
def Die.seOpen (d : Die) (k : Nat) : List SeCmd := d.se.filter fun m => m.running && decide (m.doneBy k < m.count)
/-- SE_ROW_OPERATION (R284, R286, R287): stack engine k of the die does its part of one row or element of a command in
progress; an error completes the command. -/
def execSeRowOperation (s : State) : Out :=
  let die := s.arg 0
  let k := s.arg 1 % 2
  .next (s.unmet fun s =>
    let c := s.draw
    match pick c.1 ((s.die die).seOpen k) with
    | none => s
    | some m =>
      let r := c.2.seOne m k
      let t := r.1.sampleReads die m.by_.part (s.stackReads m k (m.doneBy k))
      match r.2 with
      | .ok f => t.modSe die m.opId fun m => m.step k f
      | .error (c, a) => ((t.seStatus m true).failOp m.by_ 2 c m.bar a m.opId).seDrop die m.opId)
/-- SE_COMMAND_COMPLETE (R284, R287): both parts are done: the status word, then one arrival. -/
def execSeCommandComplete (s : State) : Out :=
  let die := s.arg 0
  .next (s.unmet fun s => match (s.die die).se.find? fun m => m.running && decide (m.count ≤ m.done) with
    | none => s
    | some m => ((s.seStatus m false).finishOp m.by_ m.bar m.inc m.opId).seDrop die m.opId)

/-! ### Stream engines (R288, R291, R292) -/

/-- The bytes of elements n to n + k - 1 of a walk. -/
def State.walkRead (s : State) (b : Issuer) (w : Walk) (n : Nat) : Nat → State × Except (Nat × Nat) (List Nat)
  | 0 => (s, .ok [])
  | k + 1 =>
    let r := State.walkRead s b w n k
    match r.2 with
    | .error c => (r.1, .error c)
    | .ok l =>
      let a := (w.addr (n + k)).toNat
      let x := r.1.engRead b a w.size
      match x.2 with
      | .error c => (x.1, .error (c, a))
      | .ok y => (x.1, .ok (l ++ y))
/-- A read stream may fetch an entry. -/
def State.mayFetch (s : State) (t : Stream) : Bool :=
  t.bound && !t.writes && decide (t.fetched.length < 8) && decide (t.pos + t.fetched.length < t.entries)
    && decide (t.readyAt ≤ s.clk.cycle) && s.done t.after
/-- An engine error of a stream (log entry 27): it names no barrier. -/
def State.streamFault (s : State) (core code addr : Nat) : State := s.coreFault (dieOf core) 1 code core 0 addr 0
/-- The next entry of a read stream has come (R291): with the last one, its reads are over. -/
def State.landEntry (s : State) (core k v : Nat) : State :=
  let t := (s.core core).stream k
  let s' := s.modStream core k fun t =>
    { t with fetched := t.fetched ++ [BitVec.ofNat 2048 v], readyAt := s.clk.cycle + 1 }
  if t.pos + t.fetched.length + 1 = t.entries then s'.endOp t.opId else s'
/-- STREAM_ENTRY_FETCH (R288, R291): the next 256 bytes, padded with zeros; a failing entry holds zeros. -/
def execStreamEntryFetch (s : State) : Out :=
  let core := s.arg 0
  let k := s.arg 1
  .next (s.unmet fun s =>
    let t := (s.core core).stream k
    match t.walk with
    | none => s
    | some w =>
      if !s.mayFetch t || (s.core core).stat.stopped then s
      else
        let q := t.pos + t.fetched.length
        let per := 256 / w.size
        let r := s.walkRead { s.issuerOf core 0 with hide := t.hide } w (q * per) (min per (w.count - q * per))
        let x := match r.2 with
          | .ok l => (r.1, leNum l)
          | .error (c, a) => (r.1.streamFault core c a, 0)
        x.1.landEntry core k x.2)
/-- Write the elements of an entry that lie below N. -/
def State.walkWrite (s : State) (b : Issuer) (w : Walk) (n : Nat) (v : VecWord) : Nat → State × Except (Nat × Nat) Unit
  | 0 => (s, .ok ())
  | k + 1 =>
    let r := State.walkWrite s b w n v k
    match r.2 with
    | .error c => (r.1, .error c)
    | .ok () =>
      let a := (w.addr (n + k)).toNat
      let y := r.1.engWrite b a (leBytes w.size (v.toNat / 2 ^ (8 * w.size * k))) false
      (y.1, match y.2 with
        | .error c => .error (c, a)
        | .ok () => .ok ())
/-- STREAM_ENTRY_WRITE (R288, R292): one of the entries whose fence is met, in no promised order. -/
def execStreamEntryWrite (s : State) : Out :=
  let core := s.arg 0
  let k := s.arg 1
  .next (s.unmet fun s =>
    let t := (s.core core).stream k
    let ready := t.unwritten.filter fun e => s.done e.after
    let d := s.draw
    match t.walk, ready[Config.choice d.1 % max 1 ready.length]? with
    | some w, some e =>
      if (s.core core).stat.stopped then s
      else
        let per := 256 / w.size
        let r := d.2.walkWrite (d.2.issuerOf core 0) w (e.idx * per) e.data (min per (w.count - e.idx * per))
        let s := match r.2 with
          | .ok () => r.1
          | .error (c, a) => r.1.streamFault core c a
        (s.modStream core k fun t => { t with unwritten := t.unwritten.filter fun x => x.opId != e.opId }).endOp e.opId
    | some _, none => s
    | none, _ => s)
/-- PAGE_WALK (R333 to R335): a walk for a partition on a die; what it finds enters the TLB. -/
def execPageWalk (s : State) : Out :=
  let die := s.arg 0
  let part := s.arg 1
  let va := s.arg 2
  .next (s.unmet fun s => (s.walk die part va false false).1)

end Sys2Proof.Machine
end

