-- ==== Sys2Proof/Machine/Fabric.lean ====
section
/-! DEFINITION. Fabric operations from their departure to their completion (R293 to R309) and dead peers (R318 to R320),
with failure events (R369). -/

namespace Sys2Proof.Machine

/-! ### Fabric operations in flight -/

/-- An operation completes with an engine error (R295). -/
def State.failFop (s : State) (op : Nat) (f : Fop) (code addr : Nat) : State :=
  (s.failOp f.by_ 3 code f.bar addr op).closeFop op f
/-- The issuing package. -/
def Fop.from_ (f : Fop) : Nat := f.by_.die / 4
/-- The home as a die number, in its package. -/
def homeDie (mem : Nat) : Nat :=
  let sp := mem % 8
  let u := mem / 8
  if sp = 1 then u / 128 else if sp = 2 then u / 16 else u
/-- The place of an offset in a home for the partition of an operation; a stopped core refuses writes (R381). The access waits
where the home's die or unit is halted, or its line is being rekeyed (R392, R410). -/
def State.homeAt (s : State) (f : Fop) (mem off : Nat) (r w : Bool) : State × Except Nat Nat :=
  let x := (s.meetIf (!s.dieOn (homeDie mem))).homePlace f.by_.part mem off r w
  match x.2 with
  | .ok p => (x.1.touch f.by_.part p, if w && s.stoppedFor f.by_ p then .error 9 else x.2)
  | .error _ => x
/-- An operation's payload goes to a package, as it arrives there (R390); a round's comes from the Apex die. -/
def State.carryOut (s : State) (f : Fop) (pkg dst : Nat) (l : List Nat) : State × Option (List Nat) :=
  s.carry f.by_.part f.by_.die pkg (f.kind == 8 || f.by_.die != dst) l
/-- A reply's payload comes back from a home, as it arrives (R390). -/
def State.carryBack (s : State) (f : Fop) (src : Nat) (l : List Nat) : State × Option (List Nat) :=
  s.carry f.by_.part src f.from_ (f.by_.die != src) l
/-- Read n bytes at a home, line by line. -/
def State.homeRead (s : State) (f : Fop) (mem off n : Nat) : State × Except Nat (List Nat) :=
  (pieces off n).foldl (fun acc p => match acc.2 with
    | .error c => (acc.1, .error c)
    | .ok l =>
      let x := acc.1.homeAt f mem (off + p.1) true false
      match x.2 with
      | .error c => (x.1, .error c)
      | .ok q => (x.1, .ok (l ++ x.1.readPlain f.by_.part q p.2))) (s, .ok [])
/-- A change of n bytes within one line of a home, made as one unit: what stood there before. -/
def State.homeModify (s : State) (f : Fop) (mem off n : Nat) (g : Nat → Nat) : State × Except Nat Nat :=
  let x := s.homeAt f mem off true true
  match x.2 with
  | .error c => (x.1, .error c)
  | .ok q =>
    let old := leNum (x.1.readPlain f.by_.part q n)
    (x.1.writePlain f.by_.part q (leBytes n (g old)), .ok old)

/-! ### Departure (R260, R319, R411) -/

/-- The operation holds one of the 256 entries of its core's request queue (R293, R364). -/
def State.hasEntry (s : State) (op : Nat) (b : Issuer) : Bool :=
  b.core.elim true fun c => ((s.core c).fab.take 256).contains op
/-- The request may combine (R305). -/
def Fop.combines (f : Fop) : Bool := (f.kind == 3 || f.kind == 7) && decide (f.fop ≤ 8)
/-- The operation first meets buffers of its own package, or joins a partial there (R304, R310): it leaves by the Apex port
later. -/
def State.leavesLater (s : State) (f : Fop) : Bool :=
  f.combines || (f.kind == 5 && (Tab.get RedWin.reset (s.pkg f.from_).apex.redwins f.win).w0.toNat / 2 ^ 34 % 4 != 0)
/-- A fabric operation leaves once its fence is met: RPUT and RMCAST read their source (R296, R299). One with packets for a
port group that drains waits at its ingress (R411). -/
def State.departFop (s : State) (op : Nat) (f : Fop) : State :=
  if f.stage ≠ 0 ∨ !s.done f.after ∨ !s.hasEntry op f.by_ then s
  else if (f.pkg :: f.dlv.map (·.pkg)).any (s.groupDrains f.from_) then
    (if f.at_ = 0 then s.setFop op { f with at_ := s.clk.cycle } else s)
  else
    let data := match f.by_.core with
      | some c => if f.kind = 0 ∨ f.kind = 6 then (f.by_.sees s.watch s.mem).bytes (spmAddr c f.src) f.len else f.data
      | none => f.data
    s.setFop op { f with stage := 1, at_ := if f.at_ = 0 ∧ !s.leavesLater f then s.clk.cycle else f.at_, data := data }
/-- The CRU of an Apex die that a word's requests meet (R304). -/
def Fop.cru (f : Fop) : Nat := (f.pkg + homeDie f.mem % 4 + f.off / 8) % 32
/-- A CRU of a package as a buffer's number; the router of cluster cl is buffer cl. -/
def cruBuf (pkg n : Nat) : Nat := 2 ^ 20 + 32 * pkg + n
/-- The routers from a request's cluster south to the die edge (R9). -/
def Fop.southward (f : Fop) : List Nat := (List.range (4 - f.by_.cluster % 16 / 4)).map fun i => f.by_.cluster + 4 * i
/-- The packages whose Apex dies a request crosses (R17): its own, one between, and the home's. -/
def Fop.apexes (f : Fop) : List Nat :=
  let v := Config.via f.from_ f.pkg
  if f.pkg = f.from_ then [f.from_]
  else if v = f.from_ ∨ v = f.pkg ∨ packages ≤ v then [f.from_, f.pkg] else [f.from_, v, f.pkg]
/-- The routers of the home's die from its edge north to the cluster of a home in SPM or CMEM (R9). -/
def Fop.northward (f : Fop) : List Nat :=
  let cl := if f.mem % 8 = 1 then f.mem / 8 / 8 else f.mem / 8
  if f.mem % 8 = 1 ∨ f.mem % 8 = 2 then ((List.range (4 - cl % 16 / 4)).map fun i => cl + 4 * i).reverse else []
/-- The combining buffers on a request's path (R9, R304): the routers from its cluster south to the die edge, CRU H of each
Apex die, and the routers of the home's die (log entry 97). -/
def Fop.path (f : Fop) : List Nat := f.southward ++ f.apexes.map (fun p => cruBuf p f.cru) ++ f.northward
/-- The wait entries of a buffer. -/
def State.combAt (s : State) (buf : Nat) : List CombEntry :=
  if buf < 2 ^ 20 then (s.cluster buf).comb
  else (s.pkg ((buf - 2 ^ 20) / 32)).apex.cru.filter fun e => e.buf == buf
/-- The wait entries of a request's path change. -/
def State.modComb (s : State) (f : Fop) (g : List CombEntry → List CombEntry) : State :=
  f.path.foldl (fun s b =>
    if b < 2 ^ 20 then s.modCluster b fun k => { k with comb := g k.comb }
    else s.modApex ((b - 2 ^ 20) / 32) fun a => { a with cru := g a.cru }) s
/-- The wait entry that a combined request carries (R306). -/
def State.entryOf (s : State) (op : Nat) (f : Fop) : Option CombEntry :=
  (f.path.flatMap s.combAt).find? fun e => e.carrier == op
/-- The wait entry of a combined request is free, and the request is gone. -/
def State.freeEntry (s : State) (op : Nat) (f : Fop) : State :=
  ((s.modComb f fun l => l.filter fun e => e.carrier != op).endOp op).dropFop op f.by_
/-- A combined request's or an operation's error reaches everyone it carries (R295, R306). -/
def State.failCarried (s : State) (code addr : Nat) : Nat → Nat → State
  | 0, _ => s
  | n + 1, op => match s.fop op with
    | none => s
    | some f =>
      if f.kind ≠ 7 then s.failFop op f code addr
      else match s.entryOf op f with
        | none => s.freeEntry op f
        | some e => State.failCarried (State.failCarried (s.freeEntry op f) code addr n e.x) code addr n e.y
/-- Requests that one request can carry. -/
def carriedMax : Nat := 4096
/-- A request leaves its package by the Apex port, with every requester that it carries (R319). -/
def State.markSent (s : State) : Nat → Nat → State
  | 0, _ => s
  | n + 1, op => match s.fop op with
    | none => s
    | some f =>
      if f.kind ≠ 7 then (if f.at_ = 0 then s.setFop op { f with at_ := s.clk.cycle } else s)
      else match s.entryOf op f with
        | none => s
        | some e => State.markSent (State.markSent s n e.x) n e.y

/-! ### Puts and multicasts (R297, R299) -/

/-- Replace the i-th delivery. -/
def setNth {α : Type} : List α → Nat → α → List α
  | [], _, _ => []
  | _ :: l, 0, x => x :: l
  | a :: l, n + 1, x => a :: setNth l n x
/-- The deliveries of an operation that satisfy a test, by index. -/
def Fop.which (f : Fop) (p : Deliver → Bool) : List (Nat × Deliver) :=
  ((List.range f.dlv.length).zip f.dlv).filter fun e => p e.2
/-- A delivery fails: a put completes with the error; of a round's result the delivery is left out and the error is
recorded on the home's die (R295; log entry 28). -/
def State.deliverFail (s : State) (op : Nat) (f : Fop) (i : Nat) (d : Deliver) (code addr : Nat) : State :=
  if f.kind = 8 then
    (s.engineFault (homeDie d.mem) 3 code 0 0 0 addr 0).setFop op
      { f with dlv := setNth f.dlv i { d with left := [], counted := true } }
  else s.failFop op f code addr
/-- One piece of a delivery is written at its home, the pieces in any order. -/
def State.deliverPiece (s : State) (op : Nat) (f : Fop) (i : Nat) (d : Deliver) : State :=
  let c := s.draw
  match pick c.1 d.left with
  | none => s
  | some p =>
    if !answers d.pkg then s
    else
      let l := c.2.carryOut f d.pkg (homeDie d.mem) ((f.data.drop p.1).take p.2)
      match l.2 with
      | none => l.1.deliverFail op f i d 2 (d.off + p.1)
      | some l2 =>
        let x := l.1.homeAt f d.mem (d.off + p.1) false true
        match x.2 with
        | .error e => x.1.deliverFail op f i d e (d.off + p.1)
        | .ok q =>
          let s := x.1.writePlain f.by_.part q l2
          s.setFop op { f with dlv := setNth f.dlv i { d with left := d.left.filter (· != p) } }
/-- A round-end message to the package comes before any multicast write of the round (R316). -/
def State.memberReady (s : State) (f : Fop) (d : Deliver) : Bool :=
  f.kind != 8 || f.stage != 6 || (Tab.find (s.pkg d.pkg).apex.roundEnds f.win).isNone
/-- A piece of some member is delivered. -/
def State.deliverSome (s : State) (op : Nat) (f : Fop) : State :=
  let c := s.draw
  match pick c.1 (f.which fun d => !d.left.isEmpty && !d.lost && s.memberReady f d) with
  | none => s
  | some e => c.2.deliverPiece op f e.1 e.2
/-- An operation on its way. -/
def State.travelling (s : State) (op : Nat) (k : Fop → State) : State :=
  match s.fop op with
  | none => s
  | some f => if f.stage = 0 ∨ f.stage = 3 ∨ f.stage = 4 ∨ f.stage = 7 then s else k f
/-- What an operation on its way does to memory, unless one of its accesses waits (R392, R410). -/
def State.reaching (s : State) (op : Nat) (k : State → Fop → State) : State := s.unmet fun s => s.travelling op (k s)
/-- FABRIC_WRITE_AT_HOME (R297, R315): a piece of a put, or of a round's result or record, is written at its home. -/
def execFabricWriteAtHome (s : State) : Out :=
  let op := s.arg 0
  .next (s.reaching op fun s f =>
    if f.kind = 0 ∨ (f.kind = 8 ∧ f.stage ≠ 6) then s.deliverSome op f else s)
/-- MULTICAST_MEMBER_DELIVERY (R299, R316): a piece is written into a member window. -/
def execMulticastMemberDelivery (s : State) : Out :=
  let op := s.arg 0
  .next (s.reaching op fun s f => if f.kind = 6 ∨ (f.kind = 8 ∧ f.stage = 6) then s.deliverSome op f else s)
/-- A delivery has only its remote arrival to make: every write of the operation has taken effect (R253), of a round's
result every write to this member (R316); and it goes to a package that answers. -/
def State.mayCount (s : State) (f : Fop) (d : Deliver) : Bool :=
  (if f.kind = 6 then f.dlv.all fun e => e.left.isEmpty || e.lost else d.left.isEmpty)
    && !d.counted && !d.lost && answers d.pkg && s.memberReady f d
/-- REMOTE_BARRIER_INCREMENT (R297, R299): after every piece, the barrier core's object; a stopped core refuses (R381). -/
def execRemoteBarrierIncrement (s : State) : Out :=
  let op := s.arg 0
  .next (s.travelling op fun f =>
    match (f.which (s.mayCount f)).head? with
    | none => s
    | some (i, d) =>
      let done := s.setFop op { f with dlv := setNth f.dlv i { d with counted := true } }
      match d.bar with
      | none => done
      | some (c, k) =>
        if s.stoppedFor f.by_ (spmAddr c 0) then
          s.deliverFail op f i d 9 ((s.core c).csr.barbase * 512 + 16 * k)
        else done.arrive c k 1)
/-- PUT_ACKNOWLEDGE (R295): every write and remote arrival has been made; the operation completes. -/
def execPutAcknowledge (s : State) : Out :=
  let op := s.arg 0
  .next (s.travelling op fun f =>
    let puts := (f.kind == 0 || f.kind == 6) && f.dlv.all fun d => d.left.isEmpty && d.counted
    let atoms := f.kind == 4 && f.left.isEmpty
    if puts || atoms then (s.finishOp f.by_ f.bar f.inc op).closeFop op f else s)

/-! ### Reads (R300, R301) -/

/-- RGET_READ_AT_HOME (R300): one indivisible read of 8 bytes. -/
def execRgetReadAtHome (s : State) : Out :=
  let op := s.arg 0
  .next (s.reaching op fun s f =>
    if f.kind ≠ 1 ∨ f.stage ≠ 1 ∨ !answers f.pkg then s
    else
      let r := s.homeRead f f.mem f.off 8
      match r.2 with
      | .error c => r.1.failFop op f c f.off
      | .ok l =>
        let x := r.1.carryBack f (homeDie f.mem) l
        match x.2 with
        | none => x.1.failFop op f 2 f.off
        | some l => x.1.setFop op { f with stage := 2, val := leNum l })
/-- A word lands in SPM with its tag FULL (R212, R300, R303). -/
def State.landWord (s : State) (c off v : Nat) : State :=
  { s with mem := s.mem.writeN (spmAddr c off) 8 v, watch := rewrote s.watch (spmAddr c off) 8 }.setTag c off true
/-- RGET_REPLY (R300, R51): the word lands, and an arrival is formed where a handler is named. -/
def execRgetReply (s : State) : Out :=
  let op := s.arg 0
  .next (s.travelling op fun f =>
    match f.by_.core with
    | none => s
    | some c =>
      if f.kind ≠ 1 ∨ f.stage ≠ 2 then s
      else
        let s := s.landWord c f.dst f.val
        match f.hpc with
          | none => s.endFop op f
          | some pc => s.arrival c op f ⟨pc, f.dst, f.cookie⟩)
/-- A piece of an RGETV lands in SPM (R301). -/
def State.landPiece (s : State) (c : Nat) (f : Fop) (p : Nat × Nat) (l : List Nat) : State :=
  let a := spmAddr c (f.dst + p.1)
  let s := { s with mem := s.mem.writeBytes a l, watch := rewrote s.watch a l.length }
  if f.tag then s.fillTags c (f.dst + p.1) p.2 else s
/-- RGETV_PIECE_LANDING (R301): one piece is read at its home and lands, in any order. -/
def execRgetvPieceLanding (s : State) : Out :=
  let op := s.arg 0
  .next (s.reaching op fun s f =>
    let d := s.draw
    match f.by_.core, pick d.1 f.left with
    | some c, some p =>
      if f.kind ≠ 2 ∨ !answers f.pkg then s
      else
        let r := d.2.homeRead f f.mem (f.off + p.1) p.2
        match r.2 with
        | .error e => r.1.failFop op f e (f.off + p.1)
        | .ok l =>
          let x := r.1.carryBack f (homeDie f.mem) l
          match x.2 with
          | none => x.1.failFop op f 2 (f.off + p.1)
          | some l => (x.1.landPiece c f p l).setFop op { f with left := f.left.filter (· != p) }
    | some _, none => s
    | none, _ => s)
/-- RGETV_COMPLETE (R301). -/
def execRgetvComplete (s : State) : Out :=
  let op := s.arg 0
  .next (s.travelling op fun f =>
    if f.kind = 2 ∧ f.left.isEmpty then (s.finishOp f.by_ f.bar f.inc op).closeFop op f else s)

/-! ### Fetch-and-operate and combining (R302 to R308) -/

/-- The larger or smaller of two words of n bits (R302): signed and largest as the flags say. -/
def fetchMax (n : Nat) (signed largest : Bool) (a b : Nat) : Nat :=
  let v := fun x => if signed then sInt n x else (x : Int)
  if (if largest then decide (v b ≤ v a) else decide (v a ≤ v b)) then a else b
/-- The combining operation of codes 0 to 7 on words of n bits (R302, R306, R307). -/
def fetchBase (op n a b : Nat) : Nat :=
  match op with
  | 0 => (a + b) % 2 ^ n
  | 1 => a &&& b
  | 2 => a ||| b
  | 3 => a ^^^ b
  | 4 => fetchMax n true true a b
  | 5 => fetchMax n true false a b
  | 6 => fetchMax n false true a b
  | _ => fetchMax n false false a b
/-- The new home word (R302). -/
def fetchNew (op n m x b : Nat) : Nat :=
  if op ≤ 7 then fetchBase op n m x
  else if op = 8 then x
  else if op = 9 then (if b ≤ m then 0 else m + 1)
  else if op = 10 then (if m + x < 2 ^ n ∧ m + x ≤ b then m + x else m)
  else if m = b then x else m
/-- BADD's status (R302). -/
def baddOk (n m x b : Nat) : Bool := decide (m + x < 2 ^ n) && decide (m + x ≤ b)
/-- The operand of X∘Y (R306). -/
def fetchJoin (op n a y : Nat) : Nat := if op = 8 then y else fetchBase op n a y
/-- The value for Y of a reply v (R307). -/
def fetchSplit (op n v a : Nat) : Nat := if op = 8 then a else fetchBase op n v a
/-- The width of a fetch-op. -/
def Fop.width (f : Fop) : Nat := if f.wide then 64 else 32
/-- The buffer that a request meets next, or waits in. -/
def Fop.buf (f : Fop) : Option Nat := f.path[f.hop]?
/-- The wait entries a buffer has (R304). -/
def bufRoom (buf : Nat) : Nat := if buf < 2 ^ 20 then 64 else 2048
/-- The input port by which a request enters the next buffer of its path (R308): a router's local port, then the north
ports; a CRU's die link, or the Apex port from another package; a home die's edge, then the south ports. -/
def Fop.inPort (f : Fop) : Nat :=
  let n := f.southward.length
  let l := f.apexes
  if f.hop = 0 then 4 else if f.hop < n then 0
  else if f.hop = n then 64 + f.by_.die % 4
  else if f.hop < n + l.length then Config.apexPort (l.getD (f.hop - n) 0) (l.getD (f.hop - n - 1) 0) % 64
  else if f.hop = n + l.length then 5 else 2
/-- Two requests may combine where they meet (R305): one word, operation, width and partition, and equal order bits. -/
def meets (f g : Fop) : Bool :=
  g.combines && f.mem == g.mem && f.off == g.off && f.pkg == g.pkg && f.fop == g.fop && f.wide == g.wide
    && f.by_.part == g.by_.part && f.rel == g.rel && f.acq == g.acq && f.scope == g.scope && f.buf == g.buf
/-- A request stands before another in a buffer (R306, R308): by cycle of entry, then input port, then number. -/
def fopBefore (a b : Nat × Fop) : Bool :=
  decide (a.2.entered < b.2.entered) || (a.2.entered == b.2.entered
    && (decide (a.2.port < b.2.port) || (a.2.port == b.2.port && decide (a.1 ≤ b.1))))
/-- Insert in the order of a buffer. -/
def insertFop (a : Nat × Fop) : List (Nat × Fop) → List (Nat × Fop)
  | [] => [a]
  | b :: l => if fopBefore b a then b :: insertFop a l else a :: b :: l
/-- In the order of a buffer. -/
def sortFops (l : List (Nat × Fop)) : List (Nat × Fop) := l.foldl (fun acc a => insertFop a acc) []
/-- The request that carries X and Y (R306): it keeps X's place. -/
def joined (f g : Fop) : Fop :=
  { f with kind := 7, by_ := { f.by_ with core := none }, x := fetchJoin f.fop f.width f.x g.x, bar := none }
/-- X waits and Y combines with it (R306). -/
def State.combine (s : State) (x : Nat) (f : Fop) (y : Nat) (g : Fop) (buf : Nat) : State :=
  let o := s.newOp
  let e : CombEntry := ⟨x, y, f.x, o.1, buf⟩
  let s := if buf < 2 ^ 20 then o.2.modCluster buf fun k => { k with comb := k.comb ++ [e] }
    else o.2.modApex ((buf - 2 ^ 20) / 32) fun a => { a with cru := a.cru ++ [e] }
  ((s.setFop x { f with stage := 3 }).setFop y { g with stage := 3 }).setFop o.1 (joined f g)
/-- A request that has entered a buffer combines with the first one that waits there, if the buffer has a free wait entry,
and waits itself otherwise (R305, R306). -/
def State.joinBuffer (s : State) (op : Nat) (f : Fop) (buf : Nat) : State :=
  let l := sortFops (s.net.fops.filter fun e => e.2.stage == 1 && e.2.inBuf == 2 && meets f e.2)
  match l.head? with
  | none => s.setFop op { f with inBuf := 2 }
  | some (x, g) =>
    if (s.combAt buf).length < bufRoom buf then s.combine x g op f buf else s.setFop op { f with inBuf := 2 }
/-- The requests that entered a buffer in earlier cycles are taken in, by cycle, then input port (R308). -/
def State.settleBuffer (s : State) (buf : Nat) : State :=
  (sortFops (s.net.fops.filter fun e => e.2.stage == 1 && e.2.inBuf == 1 && e.2.combines && e.2.buf == some buf
      && decide (e.2.entered < s.clk.cycle))).foldl (fun s e => s.joinBuffer e.1 e.2 buf) s
/-- COMBINE_REQUEST (R304 to R306, R308): a request enters the next buffer of its path, is taken in there with what
entered beside it, or leaves it. -/
def execCombineRequest (s : State) : Out :=
  let op := s.arg 0
  .next (s.travelling op fun f =>
    match f.buf with
    | none => s
    | some b =>
      if !f.combines || f.stage != 1 then s
      else if f.inBuf = 0 then s.setFop op { f with inBuf := 1, entered := s.clk.cycle, port := f.inPort }
      else if f.inBuf = 1 then s.settleBuffer b
      else
        let t := s.setFop op { f with inBuf := 0, hop := f.hop + 1 }
        if f.hop = f.southward.length then t.markSent carriedMax op else t)
/-- The request is at its home: past the buffers, or one that does not combine. -/
def Fop.atHome (f : Fop) : Bool := f.stage == 1 && (!f.combines || f.buf.isNone)
/-- RFOP_AT_HOME (R302): one indivisible read-modify-write with the operand as it arrived, and the reply of what stood there
(R390). -/
def execRfopAtHome (s : State) : Out :=
  let op := s.arg 0
  .next (s.reaching op fun s f =>
    if (f.kind ≠ 3 ∧ f.kind ≠ 7) ∨ !f.atHome ∨ !answers f.pkg then s
    else
      let n := f.width / 8
      let q := s.carryOut f f.pkg (homeDie f.mem) (leBytes n f.x ++ leBytes n f.b)
      match q.2 with
      | none => q.1.failCarried 2 f.off carriedMax op
      | some l =>
        let r := q.1.homeModify f f.mem f.off n fun m => fetchNew f.fop f.width m (leNum (l.take n)) (leNum (l.drop n))
        match r.2 with
        | .error c => r.1.failCarried c f.off carriedMax op
        | .ok m =>
          let y := r.1.carryBack f (homeDie f.mem) (leBytes n m)
          match y.2 with
          | none => y.1.failCarried 2 f.off carriedMax op
          | some l => y.1.setFop op { f with stage := 2, val := leNum l })
/-- COMBINED_REPLY_SPLIT (R307): both requesters of a combined request have their values, and the entry is free. -/
def execCombinedReplySplit (s : State) : Out :=
  let op := s.arg 0
  .next (s.travelling op fun f =>
    if f.kind ≠ 7 ∨ f.stage ≠ 2 then s
    else
      let give := fun (s : State) (i v : Nat) => match s.fop i with
        | none => s
        | some g => s.setFop i { g with stage := 2, val := v }
      let t := s.freeEntry op f
      match s.entryOf op f with
      | none => t
      | some e => give (give t e.x f.val) e.y (fetchSplit f.fop f.width f.val e.a))
/-- RFOP_REPLY (R303): the result lands with its tag FULL, after BADD's status. -/
def execRfopReply (s : State) : Out :=
  let op := s.arg 0
  .next (s.travelling op fun f =>
    match f.by_.core with
    | none => s
    | some c =>
      if f.kind ≠ 3 ∨ f.stage ≠ 2 then s
      else
        let s := if f.fop = 10 then s.landWord c (f.dst + 8) (if baddOk f.width f.val f.x f.b then 1 else 0) else s
        (s.landWord c f.dst f.val).endFop op f)

/-! ### Vector atomics (R309) -/

/-- One element added at FP32; a BF16 element is rounded twice. -/
def atomAdd (single : Bool) (h x : Nat) : Nat :=
  if single then (fp32.add 0 false (fp32.value false h) (fp32.value false x)).1
  else
    let s := (fp32.add 0 false (fpBf16.value false h) (fpBf16.value false x)).1
    (fpBf16.convert 0 false (fp32.value false s)).1
/-- RVATOM_AT_HOME (R309): one element, in any order. -/
def execRvatomAtHome (s : State) : Out :=
  let op := s.arg 0
  .next (s.reaching op fun s f =>
    let d := s.draw
    match f.by_.core, pick d.1 f.left with
    | some c, some p =>
      if f.kind ≠ 4 ∨ !answers f.pkg then s
      else
        let x := d.2.carryOut f f.pkg (homeDie f.mem) ((f.by_.sees s.watch s.mem).bytes (spmAddr c (f.src + p.1)) p.2)
        match x.2 with
        | none => x.1.failFop op f 2 (f.off + p.1)
        | some l =>
          let r := x.1.homeModify f f.mem (f.off + p.1) p.2 fun h => atomAdd f.wide h (leNum l)
          match r.2 with
          | .error e => r.1.failFop op f e (f.off + p.1)
          | .ok _ => r.1.setFop op { f with left := f.left.filter (· != p) }
    | some _, none => s
    | none, _ => s)

/-! ### Failure events and dead peers (R319, R369) -/

/-- The replies of an operation are held by a draining port group (R411). -/
def State.heldByDrain (s : State) (f : Fop) : Bool :=
  (f.pkg :: f.dlv.map (·.pkg)).any fun q => s.groupDrains q f.from_ || (f.kind == 8 && s.groupDrains f.from_ q)

/-- A failure event of a partition of a package (R369). -/
def State.failureEvent (s : State) (pkg part : Nat) : State :=
  let t := s.time pkg
  s.modPart pkg part fun k =>
    let c := k.cnt
    let i := (t + 2 ^ 64 - c.lastfail) % 2 ^ 64
    { k with cnt := { c with fim := if c.fevents = 0 then i else (7 * c.fim + i) / 8
                             lastfail := t
                             fevents := min (2 ^ 32 - 1) (c.fevents + 1) } }
/-- The package stands in the die table of a partition. -/
def State.inDieTable (s : State) (pkg part q : Nat) : Bool :=
  (s.pkg pkg).apex.dies.any fun e =>
    e.1 / 4096 == part && bits e.2.toNat 63 1 == 1 && bits e.2.toNat 2 11 == q
/-- The operation is outstanding to a package (R319): a reply that has come and is held is outstanding to none. -/
def Fop.outstandingTo (f : Fop) (q : Nat) : Bool :=
  (f.stage != 0 || f.at_ != 0) && (f.kind != 1 || f.stage != 7)
    && (if f.kind = 6 ∨ f.kind = 8 then f.dlv.any fun d => d.pkg == q && !(d.left.isEmpty && d.counted) else f.pkg == q)
/-- LIMIT of PEERTIMEOUT (R318): 0 acts as 1. -/
def State.peerLimit (s : State) (p : Nat) : Nat := max 1 (s.pkg p).apex.peerLimit
/-- The packages other than its own to which an operation is overdue, of the operations of a package. -/
def State.overduePeers (s : State) (p : Nat) (f : Fop) : List Nat :=
  if f.from_ ≠ p ∨ f.at_ = 0 ∨ f.kind = 7 ∨ s.clk.cycle - f.at_ ≤ s.peerLimit p then []
  else ((if f.kind = 6 ∨ f.kind = 8 then f.dlv.map (·.pkg) else [f.pkg]).filter fun q => q != p && f.outstandingTo q)
/-- A copy-class command whose next piece needs another package. -/
def State.cmdNeeds (s : State) (m : Cmd) (q : Nat) : Bool :=
  decide (2 ≤ m.phase) && m.more && (s.farDie m.by_ m.srcAt / 4 == q || s.farDie m.by_ m.dstAt / 4 == q)
/-- Some requester that a combined request carries is still outstanding. -/
def State.carries (s : State) : Nat → Nat → Bool
  | 0, _ => false
  | n + 1, op => match s.fop op with
    | none => false
    | some f => if f.kind ≠ 7 then true else match s.entryOf op f with
      | none => false
      | some e => State.carries s n e.x || State.carries s n e.y
/-- Combined requests that carry no one any more are gone, with their wait entries; the reply of one that carries another
package's requester still serves that one (R307, R319). -/
def State.dropCarriers (s : State) : State :=
  ((s.net.fops.filter fun e => e.2.kind == 7 && !s.carries carriedMax e.1)).foldl (fun s e => s.freeEntry e.1 e.2) s
/-- The deliveries of a round's result to a package fail (R295, R319): they are left out and recorded. -/
def State.dropMembers (s : State) (op q : Nat) (f : Fop) : State :=
  let hit := fun (d : Deliver) => d.pkg == q && !(d.left.isEmpty && d.counted)
  let s := (f.dlv.filter hit).foldl (fun (s : State) d => s.engineFault f.by_.die 3 4 0 0 0 d.off 0) s
  s.setFop op { f with dlv := f.dlv.map fun d => if hit d then { d with left := [], counted := true } else d }
/-- Every operation of package p outstanding to package q completes with code 4 (R319): fabric operations and copies. -/
def State.failTo (s : State) (p q : Nat) : State :=
  let l := s.net.fops.filter fun e => e.2.from_ == p && e.2.kind != 7 && e.2.outstandingTo q
  let s := (l.foldl (fun s e => match s.fop e.1 with
    | some f => if f.kind = 8 then s.dropMembers e.1 q f else s.failFop e.1 f 4 f.off
    | none => s) s).dropCarriers
  ((List.range 64).map (p * 64 + ·)).foldl (fun s cl =>
    ((s.cluster cl).bte.slots.filter fun e => s.cmdNeeds e.2 q).foldl
      (fun s e => s.failCmd cl e.1 e.2 4 e.2.dstAt) s) s
/-- The dead-peer bit of package q is set in package p: its outstanding operations fail, and it is a failure event of
every partition whose die table names q (R319, R369). -/
def State.peerDies (s : State) (p q : Nat) : State :=
  let known := s.peerDead p q
  let s := s.modApex p fun a => { a with dead := Tab.upd 0 a.dead (q / 64) fun w => w ||| BitVec.ofNat 64 (2 ^ (q % 64)) }
  let s := s.failTo p q
  if known then s
  else ((List.range 16).filter fun n => s.inDieTable p n q).foldl (fun s n => s.failureEvent p n) s
/-- The package that a copy of an operation number waits for without an answer (R17, R319). -/
def State.overdueCmd (s : State) (p op : Nat) : List Nat :=
  (((List.range 64).map (p * 64 + ·)).flatMap fun cl => (s.cluster cl).bte.slots).flatMap fun e =>
    let m := e.2
    if m.opId ≠ op ∨ m.phase < 2 ∨ !m.more ∨ m.sentAt = 0 ∨ s.clk.cycle - m.sentAt ≤ s.peerLimit p then []
    else [s.farDie m.by_ m.srcAt / 4, s.farDie m.by_ m.dstAt / 4].filter fun q =>
      q != p && (m.phase == 3 || s.holdsBack m.by_.part p q)
/-- PEER_TIMEOUT (R319): an overdue request of a package sets the bit of every package it is overdue to. -/
def execPeerTimeout (s : State) : Out :=
  let pkg := s.arg 0
  let op := s.arg 1
  .next (
    let l := match s.fop op with
      | some f => s.overduePeers pkg f
      | none => s.overdueCmd pkg op
    l.eraseDups.foldl (fun s q => s.peerDies pkg q) s)

end Sys2Proof.Machine
end

