-- ==== Sys2Proof/Machine/Matrix.lean ====
section
/-! DEFINITION. The matrix engine (spec/11_matrix.md): the arithmetic of the array and the accumulator (R76 to R87), the
micro-operations and their timing (R231 to R240), and the class X instructions. -/

namespace Sys2Proof.Machine

/-! ### Blocks and contributions (R76 to R83) -/

/-- Bytes of a row of 128 elements of a format (R225). -/
def rowBytes (fm : Nat) : Nat := if fm = 1 then 64 else if fm = 2 then 256 else 128
/-- The format has a scale array (R225). -/
def scaled (fm : Nat) : Bool := decide (fm ≤ 1)
/-- The signed value of an n-bit element. -/
def elemInt (n x : Nat) : Int := (BitVec.ofNat n x).toInt
/-- The 32 elements of a block of BI8 or BI4, from its bytes (R76). -/
def blockInts (fm : Nat) (l : List Nat) : List Int :=
  if fm = 0 then l.map (elemInt 8) else l.flatMap fun b => [elemInt 4 (b % 16), elemInt 4 (b / 16)]
/-- The scale pair and invalid bit of a scale word (R77, R78). -/
def scalePair (w : Nat) : Nat × Int × Bool :=
  let e := bits w 8 8
  if e = 255 ∨ w % 16 ≠ 0 then (0, 0, true)
  else if e = 0 then (0, 0, false)
  else (16 + bits w 4 4, (e : Int) - 131, false)
/-- An element of an aligned format as sign, mantissa and effective exponent (R79). -/
def alignParts (f : FpFmt) (fzi : Bool) (x : Nat) : Bool × Nat × Nat :=
  let e := x / 2 ^ f.fw % 2 ^ f.ew
  let fr := x % 2 ^ f.fw
  let neg := decide (f.signBit ≤ x)
  if e = 0 then (neg, if fzi then 0 else fr, 1) else (neg, 2 ^ f.fw + fr, e)
/-- The element is a NaN or an infinity. -/
def alignBad (f : FpFmt) (x : Nat) : Bool := match f.value false x with
  | .nan _ => true
  | .inf _ => true
  | .fin _ _ _ => false
/-- Alignment of a block (R78, R79): the mantissas and the scale pair. -/
def alignBlock (f : FpFmt) (fzi : Bool) (l : List Nat) : List Int × Nat × Int × Bool :=
  let p := l.map (alignParts f fzi)
  let emax := p.foldl (fun m q => if q.2.1 = 0 then m else max m q.2.2) 1
  let mant := p.map fun q =>
    let v := roundRNE q.2.1 ((q.2.2 : Int) - emax)
    if q.1 then -v else v
  (mant, 16, (emax : Int) - f.bias - f.fw - 4, l.any (alignBad f))
/-- Little-endian elements of n bytes. -/
def elemsOf (n : Nat) : Nat → List Nat → List Nat
  | 0, _ => []
  | k + 1, l => leNum (l.take n) :: elemsOf n k (l.drop n)
/-- BlockIn (R233): block j of a row or column whose bytes and scale words are given. -/
def blockIn (fm : Nat) (fzi : Bool) (row scales : List Nat) (j : Nat) : List Int × Nat × Int × Bool :=
  let n := rowBytes fm / 4
  let l := (row.drop (n * j)).take n
  if scaled fm then (blockInts fm l, scalePair (leNum ((scales.drop (2 * j)).take 2)))
  else if fm = 2 then alignBlock fpBf16 fzi (elemsOf 2 32 l)
  else alignBlock fpE4m3 fzi l
/-- The mantissas and the scale pairs of a row or column. -/
def vectorIn (fm : Nat) (fzi : Bool) (row scales : List Nat) : List Int × List (Nat × Int × Bool) :=
  let b := (List.range 4).map (blockIn fm fzi row scales)
  (b.flatMap (·.1), b.map (·.2))
/-- A sum of products (R81). -/
def dot (a b : List Int) : Int := (List.zipWith (· * ·) a b).foldl (· + ·) 0
/-- The four contributions of a row to one column (R83, R234). -/
def columnAdds (g : Int) (act : List Int × List (Nat × Int × Bool)) (col : List Int) (sc : List (Nat × Int × Bool)) :
    List (Option Int) :=
  (List.range 4).map fun j =>
    let a := act.2.getD j (0, 0, true)
    let w := sc.getD j (0, 0, true)
    if a.2.2 || w.2.2 then none
    else
      let v := dot ((act.1.drop (32 * j)).take 32) ((col.drop (32 * j)).take 32)
      some (roundRNE (v * a.1 * w.1) (a.2.1 + w.2.1 - g))

/-! ### The accumulator store (R82 to R87) -/

/-- Clamp to 128 bits; whether it clamps. -/
def clamp128 (v : Int) : Int × Bool :=
  if 2 ^ 127 ≤ v then (2 ^ 127 - 1, true) else if v < -(2 ^ 127) then (-(2 ^ 127), true) else (v, false)
/-- The elements of a tile row. -/
def Acc.row (a : Acc) (t r : Nat) : List AccEl := Tab.get (List.replicate 128 ⟨0, false⟩) a.rows (32 * t + r)
/-- G and OVF of a tile. -/
def Acc.grid (a : Acc) (t : Nat) : Int := Tab.get 0 a.g t
def Acc.over (a : Acc) (t : Nat) : Bool := Tab.get false a.ovf t
/-- Put a row's elements, and set OVF where one clamped. -/
def Acc.putRow (a : Acc) (t r : Nat) (l : List AccEl) (clamped : Bool) : Acc :=
  { a with rows := Tab.set a.rows (32 * t + r) l, ovf := if clamped then Tab.set a.ovf t true else a.ovf }
/-- Contribute (R83): one contribution to an element. -/
def contribute (x : AccEl × Bool) (c : Option Int) : AccEl × Bool :=
  match c with
  | none => ({ x.1 with inv := true }, x.2)
  | some t =>
    let r := clamp128 (x.1.a + t)
    ({ x.1 with a := r.1 }, x.2 || r.2)
/-- A row's contributions are added. -/
def Acc.add (a : Acc) (f : RowFlow) : Acc :=
  let l := List.zipWith (fun e c => c.foldl contribute (e, false)) (a.row f.tile f.row) f.adds
  a.putRow f.tile f.row (l.map (·.1)) (l.any (·.2))
/-- AccFromF32 (R85): the element, and whether it clamped. -/
def accFromF32 (v : Nat) (g : Int) (fzi : Bool) : AccEl × Bool :=
  match fp32.value fzi v with
  | .nan _ => (⟨0, true⟩, false)
  | .inf _ => (⟨0, true⟩, false)
  | .fin n m e =>
    let r := clamp128 (roundRNE (if n then -(m : Int) else m) (e - g))
    (⟨r.1, false⟩, r.2)
/-- An element converted to a format in RNE (R85, R86). -/
def fpFromAcc (f : FpFmt) (e : AccEl) (g : Int) (fzo : Bool) : Nat × BitVec 5 :=
  if e.inv then (f.nanBits, 0) else f.round 0 fzo (decide (e.a < 0)) e.a.natAbs g false
/-- A quotient rounded to the nearest whole number, ties to even; whether it is inexact. -/
def divRNE (n d : Nat) : Nat × Bool :=
  let q := n / d
  let r := n % d
  (if d < 2 * r ∨ (2 * r = d ∧ q % 2 = 1) then q + 1 else q, r != 0)
/-- n * 2^k over d * 2^-k, with no negative power. -/
def scaleRatio (n d : Nat) (k : Int) : Nat × Nat := if 0 ≤ k then (n * 2 ^ k.toNat, d) else (n, d * 2 ^ (-k).toNat)
/-- Sixteenths of the fraction of the smallest scale of exponent e not below a / 127 (R87). -/
def scaleNeed (a : Nat) (g : Int) (e : Nat) : Nat :=
  let r := scaleRatio a 127 (g + 131 - e)
  (r.1 + r.2 - 1) / r.2
/-- The smallest exponent from e on, of the next n, that has a scale not below a / 127. -/
def scaleExp (a : Nat) (g : Int) : Nat → Nat → Nat
  | 0, e => e
  | n + 1, e => if scaleNeed a g e ≤ 31 then e else scaleExp a g n (e + 1)
/-- Conversion of a block to BI8 (R87): the scale word, the elements and the flags. -/
def toBi8 (l : List AccEl) (g : Int) : Nat × List Nat × BitVec 5 :=
  let a := l.foldl (fun m e => max m e.a.natAbs) 0
  if l.any (·.inv) then (0xFF00, l.map fun _ => 0, 0)
  else if a = 0 then (0, l.map fun _ => 0, 0)
  else
    let e0 : Int := max 1 (131 + g + bitLen a - 14)
    let e := scaleExp a g 8 e0.toNat
    let big := decide (254 < e)
    let e' := if big then 254 else e
    let m := if big then 31 else max 16 (scaleNeed a g e)
    let parts := l.map fun x =>
      let r := scaleRatio x.a.natAbs m (g + 131 - e')
      let q := divRNE r.1 r.2
      let v := min 127 q.1
      ((BitVec.ofInt 8 (if x.a < 0 then -(v : Int) else v)).toNat,
        if q.2 && q.1 == 0 then flagUF ||| flagNX else if q.2 then flagNX else 0)
    (e' * 256 + (m - 16) * 16, parts.map (·.1), parts.foldl (fun f p => f ||| p.2) (if big then flagOF ||| flagNX else 0))
/-- Convert (R86, R87): the bytes of an output row, its scale bytes, and the flags. -/
def convertRow (l : List AccEl) (g : Int) (tgt : Nat) (fzo : Bool) : List Nat × List Nat × BitVec 5 :=
  if tgt = 2 then
    let b := (List.range 4).map fun j => toBi8 ((l.drop (32 * j)).take 32) g
    (b.flatMap (·.2.1), b.flatMap (fun x => leBytes 2 x.1), b.foldl (fun f x => f ||| x.2.2) 0)
  else
    let p := l.map fun e => fpFromAcc (if tgt = 0 then fp32 else fpBf16) e g fzo
    (p.flatMap (fun x => leBytes (if tgt = 0 then 4 else 2) x.1), [], p.foldl (fun f x => f ||| x.2) 0)

/-! ### The microprogram store (R241, R243) -/

/-- The vendor routines (R243), with FZI = 0 and FZO = 0. -/
def vendorRoutine : Nat → List Instr
  | 0 => [.marrive ⟨1, 1, 0, 1⟩, .mret]
  | 1 => [.wld ⟨0, 0, 1, 0, 15, 0⟩, .marrive ⟨0, 1, 0, 1⟩, .mret]
  | 2 => [.wld ⟨0, 0, 1, 0, 15, 0⟩, .wswap, .marrive ⟨0, 1, 0, 1⟩, .mret]
  | 3 => [.ast ⟨2, 0, 3, 12, 0, 0, 15, 0, 0⟩, .marrive ⟨0, 1, 0, 1⟩, .mret]
  | 4 => [.ast ⟨2, 0, 3, 12, 0, 0, 15, 0, 1⟩, .marrive ⟨0, 1, 0, 1⟩, .mret]
  | 5 => [.zclr ⟨12⟩, .zgrid ⟨12, 1, 5, 0⟩, .mret]
  | 6 => [.zcvt ⟨4, 0, 3, 12, 0, 0, 15, 0, 0⟩, .marrive ⟨1, 1, 0, 1⟩, .mret]
  | 7 => [.wld ⟨0, 0, 1, 0, 15, 0⟩, .wswap, .ast ⟨2, 0, 3, 12, 0, 0, 15, 0, 0⟩, .marrive ⟨0, 1, 0, 1⟩, .mret]
  | _ => []
/-- A word of the store at reset: routine r stands at word 16r (log entry 4). -/
def vendorWord (n : Nat) : Word :=
  BitVec.ofNat 64 (((vendorRoutine (n / 16)).map encode).getD (n % 16) 0)
/-- An entry of the routine table at reset: V = 1 and FBQ = 1 for entries 0 to 7 (R241). -/
def vendorEntry (n : Nat) : Word :=
  if n < 8 then BitVec.ofNat 64 (2 ^ 32 + 2 ^ 27 + (vendorRoutine n).length * 2 ^ 11 + 16 * n) else 0
/-- A word of the store. -/
def Prog.word (p : Prog) (n : Nat) : Word := Tab.get (vendorWord n) p.words n
/-- An entry of the table. -/
def Prog.entry (p : Prog) (n : Nat) : Word := Tab.get (vendorEntry n) p.table n
/-- The bits of a routine-table entry that can be written (R241). -/
def entryBits (v : Nat) : Nat := bits v 32 1 * 2 ^ 32 + bits v 11 17 * 2 ^ 11 + v % 2 ^ 10

/-! ### Calls (R227 to R231) -/

/-- A call register. -/
def Call.reg (k : Call) (n : Nat) : Word := Tab.get 0 k.q n
/-- The tile a TILE field names (R231). -/
def tileOf (q6 : Nat) (t : Nat) : Nat := if t < 12 then t else bits q6 (4 * (t - 12)) 4
/-- ROW0 and NROWS (R231). -/
def rowsOf (q7 row0 nrows : Nat) : Nat × Nat := if nrows = 0 then (bits q7 27 5, bits q7 21 6) else (row0, nrows)
/-- A format field, with the selector of q7 that begins at a bit (R231). -/
def fmOf (q7 f lo : Nat) : Nat := if f = 15 then bits q7 lo 4 else f
/-- The barrier of a MARRIVE or MWAIT (R231). -/
def barOf (q7 bq bar : Nat) : Nat := if bq = 1 then bits q7 16 5 else bar
/-- The tiles a micro-operation names (R230). -/
def tilesNamed (q6 : Nat) : Instr → List Nat
  | .ast f => [tileOf q6 f.tile]
  | .zclr f => [tileOf q6 f.tile]
  | .zgrid f => [tileOf q6 f.tile]
  | .zcvt f => [tileOf q6 f.tile]
  | _ => []
/-- The indirect values that q6 and q7 supply to a micro-operation are accepted (R231). -/
def indirectOk (q6 q7 : Nat) (i : Instr) : Bool :=
  let rows := fun (n : Nat) => n != 0 || (decide (1 ≤ bits q7 21 6) && decide (bits q7 27 5 + bits q7 21 6 ≤ 32))
  (tilesNamed q6 i).all (fun t => decide (t ≤ 11)) && (match i with
    | .wld f => decide (fmOf q7 f.fm 0 ≤ 3)
    | .ast f => rows f.nrows && decide (fmOf q7 f.fm 4 ≤ 3)
    | .zcvt f => rows f.nrows && decide (fmOf q7 f.tgt 8 ≤ 2)
    | _ => true)
/-- Check 3 of R229: the code is assigned and the reserved bits are 0. -/
def wordFormed (w : Nat) : Bool := (candidatesMicro (bits w 58 6) w).any fun i => encode i == w
/-- Check 4 of R229: every field is accepted; a MINC of q6 or q7 is left to check 7 (log entry 21). -/
def wordAccepted (q6 q7 w : Nat) : Bool := (candidatesMicro (bits w 58 6) w).any fun i =>
  match i with
  | .minc _ => true
  | _ => i.wf && indirectOk q6 q7 i
/-- MINC of q6 or q7. -/
def wordMincsHigh (w : Nat) : Bool := bits w 58 6 == 11 && decide (6 ≤ bits w 54 3)
/-- MLOOP and MEND pair up, nested no deeper than 4 (R229). -/
def loopsOk : Nat → List Nat → Bool
  | d, [] => d == 0
  | d, w :: l =>
    if bits w 58 6 = 7 then decide (d < 4) && loopsOk (d + 1) l
    else if bits w 58 6 = 8 then decide (0 < d) && loopsOk (d - 1) l
    else loopsOk d l
/-- The words of a routine. -/
def Prog.routine (p : Prog) (r : Nat) : List Nat :=
  let e := (p.entry r).toNat
  (List.range (bits e 11 11)).map fun i => (p.word (e % 2 ^ 10 + i)).toNat
/-- The first check of R229 that fails, with the store index of the word it names. -/
def Prog.check (p : Prog) (r q6 q7 : Nat) : Option (Nat × Nat) :=
  let e := (p.entry r).toNat
  let start := e % 2 ^ 10
  let len := bits e 11 11
  let ws := p.routine r
  let first := fun (f : Nat → Bool) => ws.findIdx? f
  let at_ := fun (c : Nat) (i : Option Nat) => i.map fun n => (c, start + n)
  if bits e 32 1 = 0 then some (1, start)
  else if len = 0 ∨ 1024 < start + len then some (2, start)
  else firstSome [
    at_ 3 (first fun w => !wordFormed w), at_ 4 (first fun w => !wordAccepted q6 q7 w),
    if loopsOk 0 ws then none else some (5, start),
    if ws.getLastD 1 = 0 then none else some (6, start + len - 1),
    at_ 7 (first wordMincsHigh)]
/-- The owned set of a routine (R230). -/
def ownedSet (q6 : Nat) (ws : List Nat) : List Nat :=
  (List.range 12).filter fun t => ws.any fun w =>
    match decodeMicro w with
    | some i => (tilesNamed q6 i).contains t
    | none => false
/-- Change the matrix engine of a core. -/
def State.modMx (s : State) (c : Nat) (f : Matrix → Matrix) : State := s.modCore c fun k => { k with mx := f k.mx }
/-- Change the accumulator store of a core. -/
def State.modAcc (s : State) (c : Nat) (f : Acc → Acc) : State := s.modCore c fun k => { k with acc := f k.acc }
/-- MXCALL (R227, R229). -/
def execMxcall (f : FmtXC) (s : State) : Out :=
  .next (s.guarded f.g fun s =>
    let c := s.iss.core
    let k := s.core c
    let q6 := (s.readM 6).toNat
    let q7 := (s.readM 7).toNat
    match k.prog.check f.r q6 q7 with
    | some (n, w) => s.fault microprogramFault (BitVec.ofNat 64 (n * 2 ^ 16 + f.r * 2 ^ 10 + w))
    | none =>
      if 4 ≤ k.mx.calls.length then s.await 10 waitTimeout 0 (some (s.waitLimit c))
      else
        let deps := s.depsFor c s.iss.ctx false
        let o := s.ctxOp c s.iss.ctx false
        let e := (k.prog.entry f.r).toNat
        let ws := k.prog.routine f.r
        let call : Call := {
          rout := f.r, seq := k.mx.next, q := (List.range 8).map (fun i => (i, s.readM i)), owned := ownedSet q6 ws,
          words := ws.map (BitVec.ofNat 64), idx := 0, loops := [],
          fbar := if bits e 27 1 = 1 then bits q7 16 5 else bits e 22 5, opId := o.1, after := deps,
          startAt := if k.mx.calls.isEmpty then k.mx.clock + 2 else 0, hide := s.storedBytes }
        o.2.modMx c fun m => { m with calls := m.calls ++ [call], next := (m.next + 1) % 256 })

/-! ### Measurement (R393, R412) -/

/-- MRi := SHA-256(MRi || data); held while a report is being formed (R393). -/
def State.extendMr (s : State) (pkg part i : Nat) (data : List Nat) : State :=
  s.modPart pkg part fun p =>
    if p.sec.report then { p with sec := { p.sec with heldExtends := p.sec.heldExtends ++ [(i, data)] } }
    else
      let v := BitVec.ofNat 256 (leNum (sha256 (leBytes 32 (Tab.get 0 p.sec.mr i).toNat ++ data)))
      { p with sec := { p.sec with mr := Tab.set p.sec.mr i v } }
/-- What MR0 is extended with (R393): the firmware image and a core's microprogram words 0 to 127 (log
entry 24). -/
def State.firmwareData (s : State) (pkg c : Nat) : List Nat :=
  (Config.firmwareImage pkg (s.pkg pkg).firmware).map (·.toNat)
    ++ (List.range 128).flatMap fun i => leBytes 8 ((s.core c).prog.word i).toNat

/-! ### MXPROG (R242) -/

/-- MXPROG with TGT 0 or 1: `top` entries in all, of which the vendor's are the first `low`. -/
def mxprogOp (s : State) (i : Instr) (f : FmtXP) (top low : Nat) (put : Prog → Nat → Word → Prog) : Out :=
  .next (s.guarded f.g fun s =>
    let c := s.iss.core
    let a := s.readS f.a
    let b := s.readS f.b
    let n := b.toNat % 2 ^ 11
    let vendor := decide (f.idx < low) && n != 0
    if vendor && !(s.core c).ident.pl then s.fault privilegeViolation (s.wordTval i)
    else if 2 ^ 11 ≤ b.toNat then s.fault addressRange b
    else if top < f.idx + n then s.fault addressRange b
    else if 2 ^ 20 < a.toNat + 8 * n then s.fault addressRange a
    else if a.toNat % 8 ≠ 0 then s.fault misaligned a
    else if !(s.core c).mx.calls.isEmpty then s.await 10 waitTimeout 0 (some (s.waitLimit c))
    else
      let p := (List.range n).foldl (fun p j =>
        put p (f.idx + j) (BitVec.ofNat 64 (s.iss.mem.readN (spmAddr c (a.toNat + 8 * j)) 8))) (s.core c).prog
      let s := s.modCore c fun k => { k with prog := p }
      let s := s.modIss fun k => { k with stall := max k.stall ((n + 7) / 8 - 1) }
      if vendor then s.extendMr (pkgOf c) (s.core c).ident.part 0 (s.firmwareData (pkgOf c) c) else s)
/-- MXPROG to store words. -/
def execMxprog (f : FmtXP) (s : State) : Out :=
  mxprogOp s (.mxprog f) f 1024 128 fun p n v => { p with words := Tab.set p.words n v }
/-- MXPROG to routine-table entries; reserved bits are discarded (R241). -/
def execMxprogTab (f : FmtXP) (s : State) : Out :=
  mxprogOp s (.mxprogTab f) f 64 8 fun p n v =>
    { p with table := Tab.set p.table n (BitVec.ofNat 64 (entryBits v.toNat)) }

/-! ### Tiles and registers (R230, R244 to R246) -/

/-- AccumulatorBusy for a tile, 15 naming the summary, and the oldest call that it names (R230). -/
def State.accBusy (s : State) (t : Nat) (k : Option Call) : State :=
  match k with
  | none => s
  | some k => s.fault accumulatorBusy (BitVec.ofNat 64 (k.seq * 2 ^ 16 + k.rout * 2 ^ 8 + t))
/-- The oldest queued call that owns a tile. -/
def Matrix.owner (m : Matrix) (t : Nat) : Option Call := m.calls.find? fun k => k.owned.contains t
/-- ZRD (R244). -/
def execZrd (f : FmtXZ) (s : State) : Out :=
  .next (s.masked f.g fun m s =>
    let k := s.core s.iss.core
    match k.mx.owner f.tile with
    | some o => s.accBusy f.tile (some o)
    | none =>
      let l := (k.acc.row f.tile f.row).drop (64 * f.h)
      let r := mapElems 32 m fun i => fpFromAcc fp32 (l.getD i ⟨0, false⟩) (k.acc.grid f.tile) (f.fz == 1)
      s.pushV f.v r.1 m r.2 8)
/-- The row after a write of half h: each enabled lane converted; whether one clamped. -/
def zwrRow (l : List AccEl) (h : Nat) (v : VecWord) (m : BitVec 64) (g : Int) (fzi : Bool) : List AccEl × Bool :=
  let r := (List.range 128).map fun i =>
    if i / 64 = h ∧ m.getLsbD (i % 64) then accFromF32 (lane v (i % 64)).toNat g fzi
    else (l.getD i ⟨0, false⟩, false)
  (r.map (·.1), r.any (·.2))
/-- ZWR (R244). -/
def execZwr (f : FmtXZ) (s : State) : Out :=
  .next (s.masked f.g fun m s =>
    let k := s.core s.iss.core
    match k.mx.owner f.tile with
    | some o => s.accBusy f.tile (some o)
    | none =>
      let x := s.vecOperands [f.v]
      let r := zwrRow (k.acc.row f.tile f.row) f.h (vecVal x.2 f.v) m (k.acc.grid f.tile) (f.fz == 1)
      x.1.modAcc s.iss.core fun a => a.putRow f.tile f.row r.1 r.2)
/-- The status word of a tile (R246). -/
def Core.tileStatus (k : Core) (t : Nat) : Word :=
  let inv := (List.range 32).any fun r => (k.acc.row t r).any (·.inv)
  BitVec.ofNat 64 ((if k.mx.owns t then 2 ^ 13 else 0) + (if inv then 2 ^ 12 else 0) + (if k.acc.over t then 2 ^ 11 else 0)
    + (BitVec.ofInt 11 (k.acc.grid t)).toNat)
/-- MXSTAT (R245). -/
def execMxstat (f : FmtXS) (s : State) : Out :=
  .next (s.guarded f.g fun s =>
    let c := s.iss.core
    let k := s.core c
    let busy := if f.tile = 15 then k.mx.calls.head? else k.mx.owner f.tile
    if f.clr = 1 ∧ busy.isSome then s.accBusy f.tile busy
    else
      let v := if f.tile = 15 then k.mxSummary else k.tileStatus f.tile
      let s := if f.clr = 0 then s
        else if f.tile = 15 then s.modMx c fun m => { m with fcode := 0, fseq := 0 }
        else s.modAcc c fun a => { a with ovf := Tab.set a.ovf f.tile false }
      s.pushS f.d v 0 2)

/-! ### Running a call (R228, R236, R238, R240) -/

/-- The call whose micro-operations are all dispatched. -/
def Call.ended (k : Call) : Bool := decide (k.words.length ≤ k.idx)
/-- The call that the sequencer dispatches from. -/
def Matrix.running (m : Matrix) : Option Call := m.calls.find? fun k => !k.ended
/-- Nothing is in progress. -/
def Matrix.quiet (m : Matrix) : Bool := m.uops.isEmpty && m.flows.isEmpty
/-- Change a call. -/
def State.modCall (s : State) (c seq : Nat) (f : Call → Call) : State :=
  s.modMx c fun m => { m with calls := m.calls.map fun k => if k.seq = seq then f k else k }
/-- The next micro-operation of the call is at an index; no wait is in progress. -/
def State.mxGoto (s : State) (c seq n : Nat) : State :=
  (s.modCall c seq fun k => { k with idx := n }).modMx c fun m => { m with waits := [] }
/-- The micro-operation is dispatched. -/
def State.mxNext (s : State) (c : Nat) (k : Call) : State := s.mxGoto c k.seq (k.idx + 1)
/-- The next micro-operation of the call is its MRET. -/
def Call.atRet (k : Call) : Bool := !k.ended && bits (k.words.getD k.idx 0).toNat 58 6 == 0
/-- The call may dispatch: the operations it follows are complete and its start has come (R238, R259). -/
def State.started (s : State) (c : Nat) (k : Call) : Bool := s.done k.after && decide (k.startAt ≤ (s.core c).mx.clock)
/-- Every micro-operation of the call before its MRET has completed (R230). -/
def State.callDone (s : State) (c : Nat) (k : Call) : Bool :=
  let m := (s.core c).mx
  (k.ended || (k.atRet && s.started c k)) && !m.uops.any (fun u => u.seq == k.seq) && !m.flows.any fun u => u.seq == k.seq
/-- Calls whose micro-operations before MRET have completed leave the queue (R230): those that are at their end, and the one
that the sequencer runs. -/
def State.releaseCalls (s : State) (c : Nat) : State :=
  let m := (s.core c).mx
  let fin := fun (k : Call) => s.callDone c k && (k.ended || m.running.any fun r => r.seq == k.seq)
  let s' := s.modMx c fun m => { m with calls := m.calls.filter fun k => !fin k }
  (m.calls.filter fin).foldl (fun s k => s.endOp k.opId) s'
/-- RuntimeFault (R240): the call and those after it are discarded with what they have in progress, their fault barriers get
ERR, the fault is recorded with its FCODE, its SEQ and the failing address, 0 where the failure is not of an address (log
entry 25). -/
def State.mxFault (s : State) (c seq code addr : Nat) : State :=
  let m := (s.core c).mx
  let i := (m.calls.findIdx? fun k => k.seq == seq).getD m.calls.length
  let gone := m.calls.drop i
  let s := s.modMx c fun m =>
    { m with calls := m.calls.take i, uops := [], fcode := code, fseq := seq, waits := [] }
  let s := gone.foldl (fun s k => (s.barrierErr c k.fbar).endOp k.opId) s
  s.coreFault (dieOf c) 4 8 c (gone.head?.elim 0 (·.fbar)) addr (code * 256 + seq)
/-- A WLD that fails leaves the shadow latch invalid (R233): the call's next micro-operation is one (code 1). -/
def State.dropShadow (s : State) (c : Nat) (k : Call) : State :=
  if bits (k.words.getD k.idx 0).toNat 58 6 = 1 then s.modMx c fun m => { m with shadow := { m.shadow with valid := false } } else s
/-- A micro-operation fails as it starts: once everything before it is complete (R228). -/
def State.mxFail (s : State) (c : Nat) (k : Call) (code : Nat) : State :=
  if (s.core c).mx.quiet then (s.dropShadow c k).mxFault c k.seq code 0 else s
/-- A micro-operation waits, at most WAITLIMIT cycles in which its island is not halted; then it fails with the code (R237,
R240, R410). -/
def State.mxHold (s : State) (c : Nat) (k : Call) (code : Nat) : State :=
  match (s.core c).mx.waits with
  | [] => s.modMx c fun m => { m with waits := [⟨code, code, 0, 0, m.live, s.waitLimit c⟩] }
  | w :: _ => if w.exceeded (s.core c).mx.live then s.mxFail c k code else s
/-- A micro-operation of the core being served acts on the running call. -/
def microOp (s : State) (f : Nat → Call → State) : Out :=
  .next (match (s.core s.iss.core).mx.running with
    | none => s
    | some k => f s.iss.core k)

/-- MRET (R236, R230). -/
def execMret (s : State) : Out :=
  microOp s fun c k => (s.mxGoto c k.seq k.words.length).releaseCalls c
/-- A base plus a signed offset, over 64 bits. -/
def add64 (a : Nat) (off : Int) : Nat := (((a : Int) + off) % 2 ^ 64).toNat
/-- The base of a SEL and its range, which a handle's LEN ends; a handle waits and becomes DRAINING as the micro-operation
starts (R231, R209). -/
def State.withBase (s : State) (c : Nat) (k : Call) (sel : Nat) (f : State → Nat → Nat → Nat → State) : State :=
  if sel < 32 then f s (k.reg (sel % 8)).toNat 0 (2 ^ 20)
  else
    let h := sel % 32
    let w := s.handleWord s.mem c h
    if hBad w then s.mxFail c k 1
    else if hState w ≤ 1 then s.mxHold c k 4
    else f (if hState w = 2 then s.setHandle c h 3 else s) (hBase w) 0 (min (2 ^ 20) (hBase w + hLen w))
/-- The range and alignment failure of n bytes at an address, with the address (R240). -/
def rangeBad (a n lo hi align code : Nat) : Option (Nat × Nat) :=
  if a < lo ∨ hi < a + n then some (code, a) else if a % align ≠ 0 then some (2, a) else none
/-- A micro-operation of a kind in progress. -/
def Matrix.busy (m : Matrix) (kind : Nat) : Bool := m.uops.any fun u => u.kind == kind
/-- Contributions to a tile are still to be added. -/
def Matrix.adding (m : Matrix) (t : Nat) : Bool :=
  m.uops.any (fun u => u.kind == 3 && u.tile == t) || m.flows.any fun u => u.tile == t
/-- A ZCVT of a tile is still to read a row. -/
def Matrix.reading (m : Matrix) (t : Nat) : Bool := m.uops.any fun u => u.kind == 6 && u.tile == t
/-- Start what takes time. -/
def State.startUop (s : State) (c : Nat) (k : Call) (u : Uop) : State :=
  (s.modMx c fun m => { m with uops := m.uops ++ [{ u with seq := k.seq, at_ := m.clock }] }).mxNext c k
/-- Cycles of a WLD by format (R238): it reads 128 bytes of the tile in each. -/
def wldCycles (fm : Nat) : Nat := if fm = 1 then 64 else if fm = 2 then 256 else 128
/-- WLD (R233): the shadow latch is invalid until it is complete. -/
def execWld (f : FmtUW) (s : State) : Out :=
  microOp s fun c k =>
    if (s.core c).mx.busy 1 then s
    else s.withBase c k f.sel fun s base lo hi =>
      let fm := fmOf (k.reg 7).toNat f.fm 0
      let u : Uop := {
        kind := 1, seq := 0, tile := 0, row0 := 0, rows := wldCycles fm, row := 0, at_ := 0,
        base := add64 base (sInt 20 f.off), lo := lo, hi := hi, str := 0, sstr := 0,
        scl := add64 (k.reg f.qs).toNat (sInt 20 f.soff), idxo := 0, fm := fm, fz := f.fzi == 1,
        mark := false, ahead := 0, grans := [] }
      (s.modMx c fun m => { m with shadow := { m.shadow with valid := false } }).startUop c k u
/-- WSWAP (R233): after the preceding WLD and the last row of every earlier AST. -/
def execWswap (s : State) : Out :=
  microOp s fun c k =>
    let m := (s.core c).mx
    if m.busy 1 || m.busy 3 then s
    else (s.modMx c fun m => { m with active := m.shadow, shadow := m.active }).mxNext c k
/-- The strides of a descriptor register (R226). -/
def descStr (d : Word) : Nat := bits d.toNat 20 12
def descSstr (d : Word) : Nat := bits d.toNat 52 12
def descIdxo (d : Word) : Nat := bits d.toNat 32 20
def descScl (d : Word) : Nat := d.toNat % 2 ^ 20
/-- AST (R234): its rows enter one a cycle. -/
def execAst (f : FmtUA) (s : State) : Out :=
  microOp s fun c k =>
    let m := (s.core c).mx
    let q6 := (k.reg 6).toNat
    let q7 := (k.reg 7).toNat
    let t := tileOf q6 f.tile
    if m.busy 3 || m.reading t then s
    else if !m.active.valid then s.mxFail c k 3
    else s.withBase c k f.sel fun s base lo hi =>
      let d := k.reg f.qd
      let r := rowsOf q7 f.row0 f.nrows
      s.startUop c k {
        kind := 3, seq := 0, tile := t, row0 := r.1, rows := r.2, row := 0, at_ := 0,
        base := add64 base (64 * sInt 16 f.off), lo := lo, hi := hi, str := descStr d, sstr := descSstr d,
        scl := descScl d, idxo := descIdxo d, fm := fmOf q7 f.fm 4, fz := f.fzi == 1, mark := f.gath == 1, ahead := 0, grans := [] }
/-- ZCLR (R235). -/
def execZclr (f : FmtUT) (s : State) : Out :=
  microOp s fun c k =>
    let m := (s.core c).mx
    let t := tileOf (k.reg 6).toNat f.tile
    if m.adding t || m.reading t then s
    else (s.modAcc c fun a => { a with rows := a.rows.filter (fun e => e.1 / 32 != t), ovf := Tab.set a.ovf t false }).mxNext c k
/-- ZGRID (R235). -/
def execZgrid (f : FmtUG) (s : State) : Out :=
  microOp s fun c k =>
    let m := (s.core c).mx
    let t := tileOf (k.reg 6).toNat f.tile
    let g := sInt 11 (if f.gq = 1 then (k.reg f.q).toNat else f.gexp)
    if m.adding t || m.reading t then s
    else (s.modAcc c fun a => { a with g := Tab.set a.g t g }).mxNext c k
/-- Bytes of a ZCVT output row (R225). -/
def outBytes (tgt : Nat) : Nat := if tgt = 0 then 512 else if tgt = 1 then 256 else 128
/-- The bytes of SPM that a ZCVT still writes, as offsets and lengths (R235). -/
def Uop.outs (u : Uop) : List (Nat × Nat) :=
  (List.range (u.rows - u.row)).flatMap fun i =>
    let j := u.row + i
    (add64 u.base (64 * u.str * j), outBytes u.fm) :: if u.fm = 2 then [(u.scl + 8 * u.sstr * j, 8)] else []
/-- Two ranges share a byte. -/
def sharesByte (a b : Nat × Nat) : Bool := decide (a.1 < b.1 + b.2) && decide (b.1 < a.1 + a.2)
/-- A ZCVT in progress is still to write a byte that the micro-operation writes: their order would show (R228). -/
def Matrix.writing (m : Matrix) (u : Uop) : Bool :=
  m.uops.any fun v => v.kind == 6 && v.outs.any fun a => u.outs.any (sharesByte a)
/-- ZCVT (R235): its rows are written one after the other. -/
def execZcvt (f : FmtUC) (s : State) : Out :=
  microOp s fun c k =>
    let m := (s.core c).mx
    let q6 := (k.reg 6).toNat
    let q7 := (k.reg 7).toNat
    let t := tileOf q6 f.tile
    let d := k.reg f.qd
    let r := rowsOf q7 f.row0 f.nrows
    let tgt := fmOf q7 f.tgt 8
    let u : Uop := {
      kind := 6, seq := 0, tile := t, row0 := r.1, rows := r.2, row := 0, at_ := 0,
      base := add64 (k.reg (f.sel % 8)).toNat (64 * sInt 16 f.off), lo := 0, hi := 2 ^ 20,
      str := if descStr d = 0 then outBytes tgt / 64 else descStr d, sstr := max 1 (descSstr d),
      scl := descScl d, idxo := 0, fm := tgt, fz := f.fzo == 1, mark := f.tag == 1, ahead := 0, grans := [] }
    if m.adding t || m.writing u then s else s.startUop c k u
/-- MLOOP (R236). -/
def execMloop (f : FmtUL) (s : State) : Out :=
  microOp s fun c k =>
    let n := if f.cq = 1 then (k.reg f.q).toNat % 2 ^ 32 else f.cnt
    if n = 0 then s.mxGoto c k.seq (afterMend 0 (k.idx + 1) (k.words.drop (k.idx + 1)))
    else (s.modCall c k.seq fun k => { k with loops := (k.idx + 1, n) :: k.loops }).mxNext c k
/-- MEND (R236). -/
def execMend (s : State) : Out :=
  microOp s fun c k => match k.loops with
    | [] => s.mxNext c k
    | (b, n) :: l =>
      if 1 < n then (s.modCall c k.seq fun k => { k with loops := (b, n - 1) :: l }).mxGoto c k.seq b
      else (s.modCall c k.seq fun k => { k with loops := l }).mxNext c k
/-- MARRIVE (R237): with W = 0 once the reads of earlier micro-operations are made, with W = 1 once they are complete;
one with W = 1 right before the MRET releases the call first (R230). -/
def execMarrive (f : FmtUR) (s : State) : Out :=
  microOp s fun c k =>
    let m := (s.core c).mx
    let b := barOf (k.reg 7).toNat f.bq f.bar
    if f.w = 0 then
      if m.busy 1 || m.busy 3 then s else (s.mxNext c k).arrive c b f.inc
    else if !m.quiet then s
    else
      let last := k.words.getD (k.idx + 1) 1 == 0
      let s := if last then (s.mxGoto c k.seq k.words.length).releaseCalls c else s.mxNext c k
      s.arrive c b f.inc
/-- MWAIT (R237). -/
def execMwait (f : FmtUM) (s : State) : Out :=
  microOp s fun c k =>
    let w := s.barWord s.mem c (barOf (k.reg 7).toNat f.bq f.bar)
    if bErr w then s.mxFail c k 6
    else if bPhase w == (f.ph == 1) then s.mxNext c k
    else s.mxHold c k 5
/-- MINC (R236). -/
def execMinc (f : FmtUI) (s : State) : Out :=
  microOp s fun c k =>
    (s.modCall c k.seq fun k => { k with q := Tab.set k.q f.q (k.reg f.q + sx 32 f.imm) }).mxNext c k

/-! ### What takes time (R238) -/

/-- Cycles from dispatch to the completion of a micro-operation's next row. -/
def Uop.cycles (u : Uop) : Nat :=
  if u.kind = 1 ∨ u.kind = 3 then u.row + 1
  else (if u.fm = 0 then 2 else 1) * (u.row + 1)
/-- The memory as the call with a SEQ sees it: without the stores of its own bundle (R218, R239). -/
def State.callMem (s : State) (c seq : Nat) : Memory :=
  match (s.core c).mx.calls.find? fun k => k.seq == seq with
  | none => s.mem
  | some k => ({ s.issuerOf c 0 with hide := k.hide } : Issuer).sees s.watch s.mem
/-- n bytes of an index list or a scale array, which do not leave their 64-byte granule: as the micro-operation has read the
granule, or as SPM holds it now (R239; log entry 104). -/
def State.granRead (s : State) (c : Nat) (u : Uop) (a n : Nat) : Nat :=
  match Tab.find u.grans (a / 64) with
  | some g => lineBytes g (a % 64) n
  | none => (s.callMem c u.seq).readN (spmAddr c a) n
/-- The granules that hold some addresses are the micro-operation's from now on (R239). -/
def State.keepGrans (s : State) (c : Nat) (u : Uop) (l : List Nat) : Uop :=
  l.foldl (fun u a =>
    if (Tab.find u.grans (a / 64)).isSome then u
    else { u with grans := (a / 64, BitVec.ofNat 512 ((s.callMem c u.seq).readN (spmAddr c (a / 64 * 64)) 64)) :: u.grans }) u
/-- The index of an AST row, from the list of a gathered one (R234). -/
def State.rowIndex (s : State) (c : Nat) (u : Uop) (i : Nat) : Nat :=
  if u.mark then s.granRead c u (u.idxo + 2 * i) 2 else i
/-- The micro-operation as it stands once row i of an AST has entered: the granules it has read are kept (R239). -/
def State.rowRead (s : State) (c : Nat) (u : Uop) (i : Nat) : Uop :=
  if u.kind = 3 then
    s.keepGrans c u ((if u.mark then [u.idxo + 2 * i] else [])
      ++ if scaled u.fm then [u.scl + 8 * u.sstr * s.rowIndex c u i] else [])
  else u
/-- The failure of row i of an AST or ZCVT, or of what a WLD reads in its cycle i, with the address (R240; the order of the
checks is log entry 25). -/
def State.rowBad (s : State) (c : Nat) (u : Uop) (i : Nat) : Option (Nat × Nat) :=
  if u.kind = 1 then
    firstSome [rangeBad (u.base + 128 * i) 128 u.lo u.hi 64 1,
      if scaled u.fm then rangeBad (u.scl + 8 * (128 * i / rowBytes u.fm)) (8 * (128 / rowBytes u.fm)) 0 (2 ^ 20) 8 1 else none]
  else if u.kind = 3 then
    let x := s.rowIndex c u i
    firstSome [
      if u.mark then rangeBad (u.idxo + 2 * i) 2 0 (2 ^ 20) 2 1 else none,
      if u.mark ∧ 2 ^ 20 ≤ 64 * u.str * x then some (7, add64 u.base (64 * u.str * x)) else none,
      rangeBad (add64 u.base (64 * u.str * x)) (rowBytes u.fm) u.lo u.hi 64 1,
      if scaled u.fm then rangeBad (u.scl + 8 * u.sstr * x) 8 0 (2 ^ 20) 8 7 else none]
  else if u.kind = 6 then
    firstSome [
      rangeBad (add64 u.base (64 * u.str * i)) (outBytes u.fm) u.lo u.hi 64 1,
      if u.fm = 2 then rangeBad (u.scl + 8 * u.sstr * i) 8 0 (2 ^ 20) 8 7 else none]
  else none
/-- A row that is still to come fails: nothing after it may start (R228). -/
def State.doomed (s : State) (c : Nat) (u : Uop) : Bool :=
  (List.range (u.rows - u.row)).any fun i => (s.rowBad c u (u.row + i)).isSome
/-- The weights and scales of a WLD, as SPM holds them. -/
def State.loadWeights (s : State) (c : Nat) (u : Uop) : Latch :=
  let m := s.callMem c u.seq
  let v := (List.range 128).map fun n =>
    vectorIn u.fm u.fz (m.bytes (spmAddr c (u.base + n * rowBytes u.fm)) (rowBytes u.fm))
      (if scaled u.fm then m.bytes (spmAddr c (u.scl + 8 * n)) 8 else [])
  ⟨true, u.fm, v.map (·.1), v.map (·.2)⟩
/-- Row i of an AST enters the array (R234): its contributions, added 136 cycles after it enters. -/
def State.enterRow (s : State) (c : Nat) (u : Uop) (i : Nat) : State :=
  let k := s.core c
  let x := s.rowIndex c u i
  let m := s.callMem c u.seq
  let act := vectorIn u.fm u.fz (m.bytes (spmAddr c (add64 u.base (64 * u.str * x))) (rowBytes u.fm))
    (if scaled u.fm then leBytes 8 (s.granRead c u (u.scl + 8 * u.sstr * x) 8) else [])
  let g := k.acc.grid u.tile
  let adds := List.zipWith (columnAdds g act) k.mx.active.cols k.mx.active.scales
  s.modMx c fun m => { m with flows := m.flows ++ [⟨u.seq, m.clock + 135, u.tile, u.row0 + i, adds⟩] }
/-- Row i of a ZCVT is written (R235). -/
def State.writeRow (s : State) (c : Nat) (u : Uop) (i : Nat) : State :=
  let k := s.core c
  let r := convertRow (k.acc.row u.tile (u.row0 + i)) (k.acc.grid u.tile) u.fm u.fz
  let a := add64 u.base (64 * u.str * i)
  let b := u.scl + 8 * u.sstr * i
  let w := rewrote (rewrote s.watch (spmAddr c a) r.1.length) (spmAddr c b) r.2.1.length
  let s := { s with mem := (s.mem.writeBytes (spmAddr c a) r.1).writeBytes (spmAddr c b) r.2.1, watch := w }
  let s := if u.mark then (s.fillTags c a r.1.length).fillTags c b r.2.1.length else s
  s.modCtx c 0 fun k => { k.orFlags r.2.2 with recent := k.recent.map fun q => { q with flags := q.flags &&& ~~~r.2.2 } }
/-- Replace the micro-operation in progress at a place. -/
def State.putUop (s : State) (c i : Nat) (u : Uop) : State :=
  s.modMx c fun m => { m with uops := if u.row < u.rows then m.uops.set i u else m.uops.eraseIdx i }
/-- The 8-byte words of n bytes at an offset. -/
def wordsAt (a n : Nat) : List Nat := (List.range ((n + 7) / 8)).map (a / 8 + ·)
/-- The SPM words that step i of a micro-operation needs: 128 bytes of a WLD's tile, a row of an AST or of a ZCVT, the scale
words that go with them, and the word of a gathered row's index. -/
def State.uopWords (s : State) (c : Nat) (u : Uop) (i : Nat) : List Nat :=
  if u.kind = 1 then
    wordsAt (u.base + 128 * i) 128
      ++ (if scaled u.fm then wordsAt (u.scl + 8 * (128 * i / rowBytes u.fm)) (8 * (128 / rowBytes u.fm)) else [])
  else if u.kind = 3 then
    let x := s.rowIndex c u i
    (if u.mark then wordsAt (u.idxo + 2 * i) 2 else []) ++ wordsAt (add64 u.base (64 * u.str * x)) (rowBytes u.fm) ++ (if scaled u.fm then wordsAt (u.scl + 8 * u.sstr * x) 8 else [])
  else
    wordsAt (add64 u.base (64 * u.str * i)) (outBytes u.fm) ++ (if u.fm = 2 then wordsAt (u.scl + 8 * u.sstr * i) 8 else [])
/-- The step needs a bank that the core's M slot uses in this cycle: it waits one cycle (R238). -/
def State.bankWaits (s : State) (c : Nat) (u : Uop) (i : Nat) : Bool :=
  let m := (s.core c).mx
  (s.uopWords c u i).any (bankInUse m.slotWords (s.clk.cycle - m.slotAt))
/-- How many rows of a gathered AST are in its operand latch after so many more reads in this cycle: up to 8, a free choice
(R238; log entry 95), and none that waits for a bank. -/
def State.readAhead (s : State) (c : Nat) (u : Uop) : Nat → Nat → Nat
  | 0, a => a
  | n + 1, a =>
    if 8 ≤ a ∨ u.rows ≤ u.row + a ∨ s.bankWaits c u (u.row + a) ∨ Config.delayed (s.clk.ctr + n) then a else s.readAhead c u n (a + 1)
/-- The micro-operation u in progress at a place makes its next step. -/
def State.stepRow (s : State) (c i : Nat) (u : Uop) : State :=
  let t := s.putUop c i { s.rowRead c u u.row with row := u.row + 1, ahead := u.ahead - 1 }
  if u.kind = 1 then (if u.row + 1 < u.rows then t else t.modMx c fun m => { m with shadow := t.loadWeights c u })
  else if u.kind = 3 then t.enterRow c u u.row
  else t.writeRow c u u.row
/-- The micro-operation in progress at a place goes one step further if its time has come, unless one before it is to fail
(R240): that one faults once all before it is complete. A wait on a bank puts off all that is left of it. -/
def State.stepUop (s : State) (c i : Nat) : State :=
  let m := (s.core c).mx
  match m.uops[i]? with
  | none => s
  | some u =>
    if m.clock < u.at_ + u.cycles || (m.uops.take i).any (s.doomed c) then s
    else match s.rowBad c u u.row with
      | some e => if m.flows.isEmpty && i == 0 then s.mxFault c u.seq e.1 e.2 else s
      | none =>
        let ahead := if u.kind = 3 && u.mark then s.readAhead c u 8 u.ahead else 0
        let late := ahead == 0 && s.bankWaits c u u.row
        let s := { s with clk := { s.clk with ctr := s.clk.ctr + 8 } }
        if late then s.modMx c fun m => { m with uops := m.uops.set i { u with at_ := u.at_ + 1 } }
        else s.stepRow c i { u with ahead := ahead }
/-- Contributions whose cycle has passed are added (R238). -/
def State.addFlows (s : State) (c : Nat) : State :=
  let m := (s.core c).mx
  let s := s.modAcc c fun a => (m.flows.filter fun f => decide (f.due < m.clock)).foldl Acc.add a
  s.modMx c fun m => { m with flows := m.flows.filter fun f => decide (m.clock ≤ f.due) }
/-- The engine has something to do. -/
def Matrix.awake (m : Matrix) : Bool := !m.calls.isEmpty || !m.quiet
/-- The next micro-operation is dispatched, if its call may start and no row before it is to fail (R228, R238). -/
def State.mxDispatch (s : State) (c : Nat) : State :=
  let m := (s.core c).mx
  match m.running with
  | none => s
  | some k =>
    if s.started c k && !m.uops.any (s.doomed c) then
      match decodeMicro (k.words.getD k.idx 0).toNat with
      | none => s
      | some i =>
        (s.modIss fun q => { q with core := c }).nextEvent i []
    else s
/-- One cycle of the array island (R238). A call that is done with its MRET still to come is released in this cycle (R230),
which is the MRET's own. -/
def State.mxTick (s : State) (c : Nat) : State :=
  let s := s.modMx c fun m => { m with clock := m.clock + 1 }
  let s := s.addFlows c
  let s := (List.range (s.core c).mx.uops.length).reverse.foldl (fun s i => s.stepUop c i) s
  let early := (s.core c).mx.running.elim false fun k => s.callDone c k
  let s := s.releaseCalls c
  if early then s else s.mxDispatch c
/-- A pre-empted engine makes the step it is in (R247): an AST the row that is entering, a ZCVT the row that is being written;
a WLD is abandoned, and so is a row that fails. -/
def State.lastStep (s : State) (c i : Nat) : State :=
  let m := (s.core c).mx
  match m.uops[i]? with
  | none => s
  | some u =>
    let began := m.clock + (if u.kind = 6 ∧ u.fm = 0 then 2 else 1)
    if u.kind = 1 || decide (began < u.at_ + u.cycles) || (s.rowBad c u u.row).isSome then s else s.stepRow c i u
/-- A ZCVT writes all the rows it has left. -/
def State.finishUop (s : State) (c i : Nat) : Nat → State
  | 0 => s
  | n + 1 => match ((s.core c).mx.uops)[i]? with
    | none => s
    | some u => if u.kind = 6 && (s.rowBad c u u.row).isNone then State.finishUop (s.stepRow c i u) c i n else s
/-- Micro-operations of a call beyond the three that its record in an image holds: the earliest ZCVTs (log entry 105). -/
def Matrix.beyondThree (m : Matrix) : List Nat :=
  (List.range m.uops.length).filter fun i => match m.uops[i]? with
    | none => false
    | some u => u.kind == 6 && decide (3 < ((m.uops.drop i).countP fun v => v.seq == u.seq))
/-- The matrix engine of a core stops at its K steps (R247): rows that have entered are added. -/
def State.stopMatrix (s : State) (c : Nat) : State :=
  let s := (List.range (s.core c).mx.uops.length).reverse.foldl (fun s i => s.lastStep c i) s
  let s := (s.core c).mx.beyondThree.reverse.foldl (fun s i =>
    s.finishUop c i (((s.core c).mx.uops)[i]?.elim 0 fun u => u.rows - u.row)) s
  let s := s.modAcc c fun a => (s.core c).mx.flows.foldl Acc.add a
  s.modMx c fun m => { m with flows := [], waits := [] }
/-- MICROOP_COMPLETE (R238): a cycle of a core's matrix engine, by the clock of its array island (R2, R19). -/
def execMicroopComplete (s : State) : Out :=
  let core := s.arg 0
  .next (
    let k := s.core core
    if !k.mx.awake || k.stat.stopped || k.stat.dead then s
    else
      let f := k.mx.credit + s.frac (pkgOf core) (2 * (core % 512) + 1)
      let runs := s.frac (pkgOf core) (2 * (core % 512) + 1) != 0
      let s := s.modMx core fun m => { m with credit := f % 64, live := if runs then m.live + 1 else m.live }
      if 64 ≤ f then s.mxTick core else s)

end Sys2Proof.Machine
end

