-- ==== Sys2Proof/Machine/Reduce.lean ====
section
/-! DEFINITION. In-fabric reduction (R89, R90, R310 to R316, R328 to R330, R368, R370): the combining of contributions,
the rounds at their roots, the status record, the digest and the round-end messages. -/

namespace Sys2Proof.Machine

/-! ### A window's fields (R328) -/

/-- FMT, OP, MODE, RADIX. -/
def RedWin.fmt (r : RedWin) : Nat := bits r.w0.toNat 42 2
def RedWin.op (r : RedWin) : Nat := bits r.w0.toNat 36 2
def RedWin.mode (r : RedWin) : Nat := bits r.w0.toNat 34 2
def RedWin.radix (r : RedWin) : Nat := bits r.w0.toNat 29 5
/-- W, the grid exponent. -/
def RedWin.grid (r : RedWin) : Int := sInt 11 (bits r.w0.toNat 18 11)
/-- TIMEOUT, GROUP, MOFF. -/
def RedWin.timeout (r : RedWin) : Nat := bits r.w1.toNat 0 32
def RedWin.group (r : RedWin) : Nat := bits r.w3.toNat 56 8
def RedWin.moff (r : RedWin) : Nat := bits r.w3.toNat 0 48
/-- The leaf position of a rank (R330). -/
def State.leafOf (s : State) (pkg : Nat) (r : RedWin) (rank : Nat) : Nat :=
  if bits r.w0.toNat 57 1 = 1 then rank
  else Tab.get 0 (s.pkg pkg).apex.rankmap (bits r.w1.toNat 32 16 + rank) % 4096
/-- Change a reduction window of a package. -/
def State.modRedWin (s : State) (pkg w : Nat) (f : RedWin → RedWin) : State :=
  s.modApex pkg fun a => { a with redwins := Tab.upd RedWin.reset a.redwins w f }
/-- The round at a root. -/
def State.round (s : State) (pkg w : Nat) : Round := Tab.get Round.reset (s.pkg pkg).apex.rounds w
/-- Change the round at a root. -/
def State.setRound (s : State) (pkg w : Nat) (r : Round) : State :=
  s.modApex pkg fun a => { a with rounds := Tab.set a.rounds w r }

/-! ### Combining contributions (R88, R89, R313) -/

/-- One step on two elements, with its flags. -/
def combineEl (fmt op : Nat) (a b : Nat) : Nat × BitVec 5 :=
  if fmt = 2 then
    (if op = 0 then (a + b) % 2 ^ 32
     else if (sInt 32 b ≤ sInt 32 a) = (op = 1) then a else b, 0)
  else if op = 0 then fp32.add 0 false (fp32.value false a) (fp32.value false b)
  else fp32.minMax (op == 2) false (fp32.value false a) (fp32.value false b)
/-- One step on two vectors of elements; an absent one passes its sibling (R88). -/
def combineVec (fmt op : Nat) (a b : Option (List Nat) × BitVec 5) : Option (List Nat) × BitVec 5 :=
  match a.1, b.1 with
  | some x, some y =>
    let l := List.zipWith (combineEl fmt op) x y
    (some (l.map (·.1)), a.2 ||| b.2 ||| orAll l)
  | some x, none => (some x, a.2 ||| b.2)
  | none, y => (y, a.2 ||| b.2)
/-- One level of the ordered tree. -/
def combineLevel (fmt op : Nat) : List (Option (List Nat) × BitVec 5) → List (Option (List Nat) × BitVec 5)
  | a :: b :: l => combineVec fmt op a b :: combineLevel fmt op l
  | l => l
/-- The ordered tree, level by level. -/
def combineTree (fmt op : Nat) : Nat → List (Option (List Nat) × BitVec 5) → List (Option (List Nat) × BitVec 5)
  | 0, l => l
  | n + 1, l => combineTree fmt op n (combineLevel fmt op l)
/-- Some tree over the leaves (R313): the two that are combined next are an open choice (log entry 17). -/
def combineSome (fmt op : Nat) : Nat → Nat → List (Option (List Nat) × BitVec 5) → List (Option (List Nat) × BitVec 5)
  | 0, _, l => l
  | n + 1, d, l =>
    if l.length ≤ 1 then l
    else
      let i := Config.choice d % l.length
      let a := l.getD i (none, 0)
      let r := l.eraseIdx i
      let j := Config.choice (d + 1) % r.length
      combineSome fmt op n (d + 2) (combineVec fmt op a (r.getD j (none, 0)) :: r.eraseIdx j)
/-- Clamp to 128-bit two's complement (R6, R89). -/
def clampSum (v : Int) : Int × Bool :=
  if v < -2 ^ 127 then (-2 ^ 127, true) else if 2 ^ 127 - 1 < v then (2 ^ 127 - 1, true) else (v, false)
/-- An FP32 element on the grid: none for a NaN or an infinity (R89). -/
def gridQ (w : Int) (x : Nat) : Option (Int × Bool) :=
  match fp32.value false x with
  | .nan _ => none
  | .inf _ => none
  | .fin neg m e => some (clampSum (roundRNE (if neg then -(m : Int) else m) (e - w)))
/-- One step of an EXACT128 round (R89): SatAdd128, or the signed maximum or minimum; and whether a sum clamped so far. -/
def exactStep (op : Nat) (x : Int × Bool) (y : Int) : Int × Bool :=
  if op = 0 then
    let t := clampSum (x.1 + y)
    (t.1, x.2 || t.2)
  else (if op = 1 then max x.1 y else min x.1 y, x.2)
/-- The combination of the values of one element, step by step in the order of the list (R89). -/
def exactCombine (op : Nat) : List Int → Int × Bool
  | [] => (0, false)
  | a :: l => l.foldl (exactStep op) (a, false)
/-- One element of an EXACT128 round: its final encoding, flags, and whether an entry or a sum clamped. A NaN or infinite
contribution makes the result NaN, and raises no flag, be it signalling; the clamps of the others, on entry or in their sums,
are reported all the same (R89; log entry 26). -/
def exactEl (op out : Nat) (w : Int) (xs : List Nat) : Nat × BitVec 5 × Bool :=
  let f := if out = 1 then fpBf16 else fp32
  let q := xs.map (gridQ w)
  let l := q.filterMap id
  let t := exactCombine op (l.map (·.1))
  if q.any (·.isNone) then (f.nanBits, 0, l.any (·.2) || t.2)
  else
    let r := f.round 0 false (decide (t.1 < 0)) t.1.natAbs w false
    (r.1, r.2, l.any (·.2) || t.2)
/-- Contributions in increasing rank: the fixed order in which an EXACT128 round's steps are taken, so that its result
depends only on the set present (R90; log entry 26). -/
def insertRank (c : Contrib) : List Contrib → List Contrib
  | [] => [c]
  | d :: l => if d.rank ≤ c.rank then d :: insertRank c l else c :: d :: l
/-- A list of contributions in increasing rank. -/
def byRank (l : List Contrib) : List Contrib := l.foldl (fun acc c => insertRank c acc) []
/-- A delivered FP32 element (R73): a NaN is the canonical one. -/
def canon32 (x : Nat) : Nat := if (fp32.value false x).isNan then fp32.nanBits else x
/-- NV of a signalling NaN among the elements of the contributions (R73). -/
def signalFlag (l : List (List Nat)) : BitVec 5 :=
  if l.any (fun xs => xs.any fun x => (fp32.value false x).nv != 0) then 16 else 0
/-- The n-th elements of the contributions. -/
def column (l : List (List Nat)) (i : Nat) : List Nat := l.map fun x => x.getD i 0
/-- The elements of a contribution as the reduction takes them: BF16 widened to FP32. -/
def entryElems (r : RedWin) (c : Contrib) : List Nat :=
  (List.range r.len).map fun i => c.elems.getD i 0 * (if r.cfmt = 1 then 2 ^ 16 else 1)
/-- ceil(log2 n). -/
def clog2 (n : Nat) : Nat := if n ≤ 1 then 0 else Nat.log2 (n - 1) + 1
/-- The result of a round (R313): its elements in OUT, the flags, and CLAMP; `d` is where its open choices begin. -/
def State.reduceRound (s : State) (pkg : Nat) (r : RedWin) (l : List Contrib) (d : Nat) : List Nat × BitVec 5 × Bool :=
  if r.fmt = 3 then
    let xs := (byRank l).map (entryElems r)
    let y := (List.range r.len).map fun i => exactEl r.op r.out r.grid (column xs i)
    (y.map (·.1), (y.map (·.2.1)).foldl (· ||| ·) 0, y.any (·.2.2))
  else
    let y : List (Option (List Nat) × BitVec 5) :=
      if r.mode = 0 then
        let n := clog2 r.n
        combineTree r.fmt r.op n ((List.range (2 ^ n)).map fun p =>
          ((l.find? fun c => s.leafOf pkg r c.rank == p).map (entryElems r), 0))
      else combineSome r.fmt r.op l.length d (l.map fun c => (some (entryElems r c), 0))
    let v := (y.headD (none, 0)).1.getD []
    let v := if r.fmt = 2 then v else v.map canon32
    let fl := (y.headD (none, 0)).2 ||| (if r.fmt = 2 then 0 else signalFlag (l.map (entryElems r)))
    if r.fmt ≠ 2 ∧ r.out = 1 then
      let o := v.map fun x => fpBf16.convert 0 false (fp32.value false x)
      (o.map (·.1), fl ||| orAll o, false)
    else (v, fl, false)

/-! ### Finalising a round (R314 to R316, R368) -/

/-- The status record of R315. -/
def statusRecord (r : RedWin) (num : Nat) (l : List Contrib) (timedOut clamp : Bool) (fl : BitVec 5) : List Nat :=
  let w0 := num * 2 ^ 32 + l.length * 2 ^ 19 + (if timedOut then 256 else 0) + (if clamp then 128 else 0) + fl.toNat
  let miss := fun (i : Nat) => ((List.range 64).filter fun b =>
    decide (64 * i + b < r.n) && !l.any fun c => c.rank == 64 * i + b).foldl (fun m b => m + 2 ^ b) 0
  leBytes 8 w0 ++ leBytes 8 r.late ++ (List.range ((r.n + 63) / 64)).flatMap fun i => leBytes 8 (miss i)
/-- The update of the reduction digest (R368). -/
def digestWord (w : Nat) (res : List Nat) (num present : Nat) : Nat :=
  let data := (chunks 4 res.length res).map leNum ++ [num % 2 ^ 32, present]
  let h := fun (l : Nat) => data.foldl (fun h d => hash32 d h) (w ^^^ (l * 2 ^ 31))
  h 1 * 2 ^ 32 + h 0
/-- The digest counts a round of a window at its root. -/
def State.digest (s : State) (pkg part w : Nat) (res : List Nat) (num present : Nat) : State :=
  s.modPart pkg part fun k =>
    { k with cnt := { k.cnt with rdig := (k.cnt.rdig + digestWord w res num present) % 2 ^ 64
                                 rdcnt := (k.cnt.rdcnt + 1) % 2 ^ 32 } }
/-- The delivery of a round's result to its HOME. -/
def State.homeDelivery (s : State) (pkg part a n : Nat) : List Deliver :=
  (s.delivery pkg part (windowOf a) (off48 a) n none).map fun d => { d with counted := true }
/-- The issuer of a round's messages. -/
def rootIssuer (pkg part : Nat) : Issuer := ⟨none, 0, pkg * 64, pkg * 4, part, 0, [], []⟩
/-- Bytes of a result. -/
def RedWin.resultBytes (r : RedWin) : Nat := r.len * redBytes r.out
/-- The result and its status record set out for the home (R315). -/
def State.sendResult (s : State) (pkg w : Nat) (r : RedWin) (num : Nat) (res rec_ : List Nat) (present : Nat) : State :=
  let o := s.newOp
  let b := rootIssuer pkg r.part
  let f : Fop := { blankFop 8 b [] with
    stage := 1, len := res.length, data := res ++ rec_, win := w, round := num, off := r.w2.toNat, x := r.moff,
    fop := r.group, val := present, wide := r.mode != 1, pkg := pkg, at_ := s.clk.cycle,
    dlv := s.homeDelivery pkg r.part r.w2.toNat res.length }
  o.2.setFop o.1 f
/-- The stamp num is one the root has already finalised, given its window's ROUND; ROUND wraps. -/
def staleRound (num cur : Nat) : Bool := decide (2 ^ 31 ≤ (num + 2 ^ 32 - cur) % 2 ^ 32)
/-- A discarded contribution is counted (R312, R370). -/
def State.countLate (s : State) (pkg w : Nat) : State :=
  s.modRedWin pkg w fun r => { r with late := min (2 ^ 32 - 1) (r.late + 1) }
/-- The round finalises (R314): the result is computed, the round closes, and a write of LATE that was held takes effect
(R329); ROUND waits for the status record (R316). -/
def State.finalise (s : State) (pkg w : Nat) (timedOut : Bool) : State :=
  let r := s.redWin pkg w
  let q := s.round pkg w
  let d := s.clk.ctr
  let s := { s with clk := { s.clk with ctr := d + 2 * q.present.length } }
  let y := s.reduceRound pkg r q.present d
  let res := bytesOf (redBytes r.out) y.1
  let rec_ := statusRecord r q.num q.present timedOut y.2.2 y.2.1
  let s := s.sendResult pkg w r q.num res rec_ q.present.length
  let s := s.modRedWin pkg w fun r =>
    { r with late := r.heldLate.getD r.late, heldLate := none }
  s.setRound pkg w { q with isOpen := false, num := (q.num + 1) % 2 ^ 32, present := [], closing := some q.num }
/-- The first round that the root has not finalised: the window's ROUND, or the one after a round whose status record is
still on its way. -/
def State.nextRound (s : State) (pkg w : Nat) : Nat := match (s.round pkg w).closing with
  | none => (s.redWin pkg w).round
  | some n => (n + 1) % 2 ^ 32
/-- The contribution stands in the root's wait buffer until an open round has finalised (R312). -/
def State.mustWait (s : State) (pkg w : Nat) (c : Contrib) : Bool :=
  let q := s.round pkg w
  q.isOpen && c.round != q.num && !staleRound c.round q.num
/-- One contribution of round `num` reaches the root, with the window valid there (R312). -/
def State.acceptOne (s : State) (pkg w : Nat) (c : Contrib) : State :=
  let q := s.round pkg w
  if !q.isOpen then
    if staleRound c.round (s.nextRound pkg w) then s.countLate pkg w
    else s.setRound pkg w { q with isOpen := true, num := c.round, openedAt := s.clk.cycle, present := [c] }
  else if c.round = q.num then
    if q.present.any fun e => e.rank == c.rank then s.countLate pkg w
    else s.setRound pkg w { q with present := q.present ++ [c] }
  else if staleRound c.round q.num then s.countLate pkg w
  else s.setRound pkg w { q with waiting := q.waiting ++ [c] }
/-- The round is complete: every rank is present (R314). -/
def State.roundFull (s : State) (pkg w : Nat) : Bool :=
  (s.round pkg w).isOpen && decide ((s.redWin pkg w).n ≤ (s.round pkg w).present.length)
/-- The root has taken or discarded the contribution: the RRED completes (R295). -/
def State.closeRred (s : State) (op : Nat) : State := (s.fop op).elim s (s.endFop op)
/-- A contribution that waited at the root reaches it again: where it waits no more, its RRED completes. -/
def State.acceptWaiting (s : State) (pkg w : Nat) (c : Contrib) : State :=
  let t := s.acceptOne pkg w c
  if s.mustWait pkg w c then t else t.closeRred c.opId
/-- Full rounds finalise, and what waited for the next round reaches the root in its turn (R312). -/
def State.settleRounds (s : State) (pkg w : Nat) : Nat → State
  | 0 => s
  | n + 1 =>
    if s.roundFull pkg w then State.settleRounds (s.finalise pkg w false) pkg w n
    else match (s.round pkg w).isOpen, (s.round pkg w).waiting with
      | false, c :: l =>
        let s := s.setRound pkg w { s.round pkg w with waiting := l }
        State.settleRounds (s.acceptWaiting pkg w c) pkg w n
      | _, _ =>
        let q := s.round pkg w
        match q.waiting.find? fun c => q.isOpen && c.round == q.num with
        | none => s
        | some c =>
          let s := s.setRound pkg w { q with waiting := q.waiting.filter (· != c) }
          State.settleRounds (s.acceptWaiting pkg w c) pkg w n
/-- Rounds and waiting contributions that one arrival can settle. -/
def settleMax : Nat := 16384
/-- Contribution of an operation. -/
def Fop.contrib (op : Nat) (f : Fop) : Contrib := ⟨f.rank, f.round, f.data, op⟩
/-- The contribution is past its own package's CRU: an ordered round gathers nothing there (R310). -/
def State.atRoot (s : State) (f : Fop) : Bool :=
  f.stage == 6 || (f.stage == 1 && (s.redWin f.from_ f.win).mode == 0)
/-- An operation's contribution as it arrives at the root (R390). -/
def State.carryContrib (s : State) (op : Nat) (f : Fop) : State × Option Contrib :=
  let x := s.carry f.by_.part f.by_.die f.pkg true (f.data.flatMap (leBytes 4))
  (x.1, x.2.map fun l => { f.contrib op with elems := tensorElems 4 l })
/-- CONTRIBUTION_AT_ROOT (R295, R312, R314): accepted or discarded, and the RRED completes; or held in the wait buffer, and
it completes later. A window that is not valid there, of another
partition or without the rank completes the RRED with code 2. -/
def execContributionAtRoot (s : State) : Out :=
  let op := s.arg 0
  .next (s.travelling op fun f =>
    if f.kind ≠ 5 ∨ !s.atRoot f ∨ !answers f.pkg then s
    else
      let r := s.redWin f.pkg f.win
      if !r.valid || r.part != f.by_.part || decide (r.n ≤ f.rank) then s.failFop op f 2 f.win
      else
        let x := s.carryContrib op f
        match x.2 with
        | none => x.1.failFop op f 2 f.win
        | some c =>
          if s.mustWait f.pkg f.win c then (x.1.acceptOne f.pkg f.win c).setFop op { f with stage := 7 }
          else ((x.1.acceptOne f.pkg f.win c).closeRred op).settleRounds f.pkg f.win settleMax)

/-! ### Partials (R310, R314) -/

/-- The contributions of a package to a window that stand at a stage. -/
def State.gathered (s : State) (pkg w stage : Nat) : List (Nat × Fop) :=
  s.net.fops.filter fun e => e.2.kind == 5 && e.2.from_ == pkg && e.2.win == w && e.2.stage == stage
/-- Contributions go on to a stage: into a partial, or on from it through the Apex port (R319). -/
def State.advanceAll (s : State) (l : List (Nat × Fop)) (stage : Nat) : State :=
  l.foldl (fun s e => s.setFop e.1 { e.2 with stage := stage, at_ := if stage = 6 ∧ e.2.at_ = 0 then s.clk.cycle else e.2.at_ }) s
/-- CRU_PARTIAL_FORWARD (R310): the contributions that have reached their package's CRU join its partial, which goes on
once RADIX inputs are gathered, or earlier (log entry 14). -/
def execCruPartialForward (s : State) : Out :=
  let pkg := s.arg 0
  let win := s.arg 1
  .next (
    if (s.redWin pkg win).mode = 0 then s
    else
      let s := s.advanceAll (s.gathered pkg win 1) 5
      let l := s.gathered pkg win 5
      let d := s.draw
      if l.isEmpty then s
      else if (s.redWin pkg win).radix ≤ l.length ∨ !Config.delayed d.1 then d.2.advanceAll l 6
      else d.2)
/-- The contributions to a round that have joined a partial are with the root at the flush (R314). -/
def State.flushPartials (s : State) (pkg w num : Nat) : State :=
  (s.net.fops.filter fun e => e.2.kind == 5 && e.2.pkg == pkg && e.2.win == w && e.2.round == num
      && (e.2.stage == 5 || e.2.stage == 6) && e.2.by_.part == (s.redWin pkg w).part
      && decide (e.2.rank < (s.redWin pkg w).n)).foldl
    (fun s e =>
      let x := s.carryContrib e.1 e.2
      match x.2 with
      | none => x.1.failFop e.1 e.2 2 w
      | some c => (x.1.acceptOne pkg w c).closeRred e.1) s
/-- ROUND_TIMEOUT (R314): TIMEOUT cycles after the round opened. -/
def execRoundTimeout (s : State) : Out :=
  let pkg := s.arg 0
  let win := s.arg 1
  .next (
    let r := s.redWin pkg win
    let q := s.round pkg win
    if q.isOpen && r.timeout != 0 && decide (r.timeout ≤ s.clk.cycle - q.openedAt) then
      ((s.flushPartials pkg win q.num).finalise pkg win true).settleRounds pkg win settleMax
    else s)

/-! ### After the result (R315, R316) -/

/-- The packages other than the root's that hold a copy of the window. -/
def State.copyHolders (s : State) (pkg w part : Nat) : List Nat :=
  ((s.pkgs.map (·.1)).filter fun p => p != pkg && (s.redWin p w).valid && (s.redWin p w).part == part)
/-- The members of the multicast of a round's result that live (R299, R316): those on dead packages are skipped. -/
def State.liveMembers (s : State) (pkg part g : Nat) : List (Nat × Bool × Nat × Nat) :=
  (s.groupMembers pkg g).filter fun m => !s.memberDead pkg part m
/-- Live members whose window refuses the result, as it would RMCAST's data (R299, R316; log entry 28). -/
def State.badMembers (s : State) (pkg part g off n : Nat) : List (Nat × Bool × Nat × Nat) :=
  (s.liveMembers pkg part g).filter (s.memberBad pkg part off n)
/-- The deliveries of the multicast of a round's result (R299, R316). -/
def State.roundMembers (s : State) (pkg part g off n : Nat) : List Deliver :=
  (((s.liveMembers pkg part g).filter fun m => !s.memberBad pkg part off n m).flatMap fun m =>
    s.delivery pkg part m.2.2.2 off n (if m.2.1 then some m.2.2.1 else none)).filter fun d => answers d.pkg
/-- The status record of a round has taken effect: the root package's own ROUND is the next, and then a write of it that was
held takes effect (R316, R329). -/
def State.endRound (s : State) (pkg w num : Nat) : State :=
  let q := s.round pkg w
  let s := s.modRedWin pkg w fun r => { r with round := r.heldRound.getD ((num + 1) % 2 ^ 32), heldRound := none }
  if q.closing = some num then s.setRound pkg w { q with closing := none } else s
/-- A round's message goes on (R315, R316): the status record after the result; then the digest, the round-end messages
and the multicast, which a group that is not the window's suppresses with ERR; and then it ends. -/
def State.roundNext (s : State) (op : Nat) (f : Fop) : State :=
  let pkg := f.from_
  let part := f.by_.part
  let n := f.len
  if f.stage = 1 then
    let m := f.data.length - n
    let dlv := f.dlv.map fun d =>
      let o := d.off + 64 * ((n + 63) / 64)
      { d with off := o, left := pieces o m }
    s.setFop op { f with stage := 5, data := f.data.drop n ++ f.data.take n, dlv := dlv, at_ := s.clk.cycle }
  else if f.stage = 5 then
    let res := f.data.drop (f.data.length - n)
    let s := if f.wide then s.digest pkg part f.win res f.round f.val else s
    let next := (f.round + 1) % 2 ^ 32
    let s := (s.copyHolders pkg f.win part).foldl (fun (s : State) p =>
      s.modApex p fun a => { a with roundEnds := Tab.set a.roundEnds f.win next }) s
    let s := s.endRound pkg f.win f.round
    if s.groupOk pkg part f.fop then
      let s := (s.badMembers pkg part f.fop f.x n).foldl (fun (s : State) m =>
        s.engineFault f.by_.die 3 2 0 0 0 (6 * 2 ^ 60 + m.2.2.2 * 2 ^ 48 + f.x) 0) s
      s.setFop op { f with stage := 6, data := res, dlv := s.roundMembers pkg part f.fop f.x n, at_ := s.clk.cycle }
    else
      ((s.modRedWin pkg f.win fun r => { r with w0 := r.w0 ||| BitVec.ofNat 64 (2 ^ 58) }).endOp op).dropFop op f.by_
  else (s.endOp op).dropFop op f.by_
/-- The messages of a window's rounds at a root all of whose deliveries are made. -/
def State.roundDone (s : State) (pkg w : Nat) : List (Nat × Fop) :=
  s.net.fops.filter fun e => e.2.kind == 8 && e.2.from_ == pkg && e.2.win == w
    && e.2.dlv.all fun d => d.left.isEmpty && d.counted
/-- ROUND_END_MESSAGE (R315, R316): a package that has received the message sets ROUND; a root whose deliveries are made
goes on to what follows them. The message waits while its port group drains (R411). -/
def execRoundEndMessage (s : State) : Out :=
  let pkg := s.arg 0
  let win := s.arg 1
  .next (
    let s := match Tab.find (s.pkg pkg).apex.roundEnds win with
      | none => s
      | some n => if s.groupDrains (s.rootPkg pkg (s.redWin pkg win)) pkg then s else (s.modRedWin pkg win fun r => { r with round := n }).modApex pkg fun a =>
        { a with roundEnds := Tab.del a.roundEnds win }
    match (s.roundDone pkg win).head? with
    | none => s
    | some e => s.roundNext e.1 e.2)

end Sys2Proof.Machine
end

