-- ==== Sys2Proof/Machine/Sched.lean ====
section
/-! DEFINITION. The die schedulers: dispatch and placement (R44, R52 to R58, R413, R417), record batches (R57), leaving
and completion (R59, R343), list nodes (R266, R341), the notification ring (R401), host starts (R131) and CORE_MAP
(R11). -/

namespace Sys2Proof.Machine

/-! ### Graphs and descriptors (R340, R341) -/

/-- A valid graph-table entry holds a node index (R340). -/
def graphHolds (e : Word) (idx : Nat) : Bool :=
  bits e.toNat 63 1 == 1 && decide (bits e.toNat 32 12 ≤ idx) && decide (idx < bits e.toNat 32 12 + bits e.toNat 12 13)
/-- The partition of the valid graph of a die that holds an index. -/
def State.graphPart (s : State) (die idx : Nat) : Option Nat :=
  ((s.die die).sched.graphs.find? fun e => graphHolds e.2 idx).map fun e => bits e.2.toNat 59 4
/-- The 16 words of a node descriptor. -/
def State.descWords (s : State) (die idx : Nat) : List Word :=
  (List.range 16).map fun w => Tab.get 0 (s.die die).sched.store (idx * 16 + w)
/-- Word i of a descriptor. -/
def wd (l : List Word) (i : Nat) : Nat := (l.getD i 0).toNat
/-- KIND and PRI of a descriptor. -/
def nodeKind (l : List Word) : Nat := bits (wd l 0) 61 3
def nodePri (l : List Word) : Nat := bits (wd l 0) 58 3
/-- The successors a descriptor names: die of the package, and index. -/
def nodeSuccs (l : List Word) : List (Nat × Nat) :=
  (List.range (min 8 (bits (wd l 0) 42 4))).map fun i =>
    let e := bits (wd l (1 + i / 4)) (16 * (i % 4)) 16
    (e / 2 ^ 14, e % 4096)
/-- The node id of a node of a die (R341). -/
def State.nodeId (s : State) (die idx : Nat) : Nat := (s.nodeEnt die idx).part * 4096 + idx

/-! ### Becoming ready, completing (R54, R59, R343) -/

/-- The node becomes ready at this TIME (R54, R55). -/
def State.readyNode (s : State) (die idx : Nat) : State :=
  let t := s.time (die / 4) % 2 ^ 44
  let pri := nodePri (s.descWords die idx)
  let s := s.modSched die fun k => { k with skipped := Tab.del k.skipped idx }
  s.modNode die idx fun e => { e with state := 2, rtime := t, epri := pri }
/-- A number that no entry of a table has. -/
def Tab.fresh {α : Type} (t : Tab α) : Nat := t.foldl (fun n e => max n (e.1 + 1)) 0
/-- A notice sets out to a die; on its own die it is applied in this cycle (R54, R343). -/
def State.sendNotice (s : State) (dst : Nat) (n : Notice) : State :=
  let i := Tab.fresh (s.die dst).sched.notices
  let s := s.modSched dst fun k => { k with notices := Tab.set k.notices i n }
  if dst = n.fromDie then s.nextEvent (if n.fail then .failureNotice else .decrement) [dst, i] else s
/-- A node's decrements or failure notices set out (R343). -/
def State.signal (s : State) (die idx : Nat) (words : List Word) (fail : Bool) : State :=
  let part := (s.nodeEnt die idx).part
  (nodeSuccs words).foldl (fun s t => s.sendNotice (die / 4 * 4 + t.1) ⟨die, idx, part, t.2, fail⟩) s
/-- A notice reaches its die and leaves the table. -/
def State.takeNotice (s : State) (die i : Nat) (f : Notice → State → State) : State :=
  match Tab.find (s.die die).sched.notices i with
  | none => s
  | some n =>
    let s := s.modSched die fun k => { k with notices := Tab.del k.notices i }
    if s.graphPart die n.idx = some n.part then f n s
    else s.modNode n.fromDie n.fromNode fun e => { e with err := true }
/-- DECREMENT (R54, R343). -/
def execDecrement (s : State) : Out :=
  let die := s.arg 0
  let idx := s.arg 1
  .next (s.takeNotice die idx fun n s =>
    let e := s.nodeEnt die n.idx
    if e.state ≠ 1 then s.modNode die n.idx fun e => { e with err := true }
    else
      let s := s.modNode die n.idx fun e => { e with count := e.count - 1 }
      if e.count ≤ 1 then s.readyNode die n.idx else s)
/-- FAILURE_NOTICE (R343): a waiting node fails in its turn. -/
def execFailureNotice (s : State) : Out :=
  let die := s.arg 0
  let idx := s.arg 1
  .next (s.takeNotice die idx fun n s =>
    if (s.nodeEnt die n.idx).state ≠ 1 then s
    else (s.modNode die n.idx fun e => { e with state := 5, err := true }).signal die n.idx (s.descWords die n.idx) true)

/-- Routers of a node are open again (R338). -/
def State.openRouters (s : State) (cls : List Nat) : State :=
  cls.foldl (fun s c => s.modCluster c fun k => { k with slots := [], slotsNext := none }) s
/-- The records of a node that a pool holds. -/
def Sched.recordsOf (k : Sched) (node : Nat) : Nat := (k.pool.filter fun e => e.r.node == node).length
/-- A node completes (R59, R342, R343): in STATE 5 where it was stopped or failed, and where engine errors were counted for it
(log entry 35), else in STATE 4. Records left with its id are discarded and counted; it is sampled (R366, R367), and in
STATE 5 it is a failure event of its partition (R369). -/
def State.completeNode (s : State) (die idx : Nat) (words : List Word) (bad : Bool) : State :=
  let e := s.nodeEnt die idx
  let bad := bad || e.engerr != 0
  let node := s.nodeId die idx
  let p := Tab.find (s.die die).sched.placed idx
  let since := (p <|> (Tab.find (s.die die).sched.saved idx).map (·.2)).elim s.clk.cycle (·.at_)
  let pkg := die / 4
  let left := ((List.range 4).map fun d => (s.die (pkg * 4 + d)).sched.recordsOf node).foldl (· + ·) 0
  let s := (List.range 4).foldl (fun s d => s.modSched (pkg * 4 + d) fun k =>
    { k with pool := k.pool.filter fun r => r.r.node != node }) s
  let s := s.sample die e.part 9 none (s.clk.cycle - since)
  let s := match p with
    | none => s
    | some p =>
      let s := match p.line with
        | some l => s.modPkg pkg fun k => { k with domains := Tab.del k.domains l }
        | none => s
      if nodeKind p.words = 0 then s.openRouters p.clusters else s
  let s := s.modSched die fun k =>
    { k with placed := Tab.del k.placed idx, skipped := Tab.del k.skipped idx, saved := Tab.del k.saved idx }
  let s := s.modNode die idx fun e =>
    { e with state := if bad then 5 else 4, err := e.err || bad, disc := min 65535 (e.disc + left) }
  let s := if bad then s.failureEvent pkg e.part else s
  s.signal die idx words bad
/-- An engine error of the scheduler for a node (R273, R342, R386). -/
def State.schedFault (s : State) (die idx code addr : Nat) : State :=
  let node := s.nodeId die idx
  (s.engineFault die 5 code node 0 0 addr 0).countError die node
/-- A node that is dispatched and cannot run completes with an engine error (R52, R53, R57, R417). -/
def State.failDispatch (s : State) (die idx : Nat) (words : List Word) (code addr : Nat) : State :=
  (s.schedFault die idx code addr).completeNode die idx words true

/-! ### The checks at dispatch (R53, R341, R417) -/

/-- An address passes the issue checks of R203 over n bytes, in some spaces. -/
def State.addrOk (s : State) (pkg part a n : Nat) (spaces : List Nat) : Bool :=
  (s.addrChecks pkg part [plainUse a n spaces]).isNone
/-- Reserved fields of a descriptor are 0 (R341). -/
def descReserved (l : List Word) : Bool :=
  let k := nodeKind l
  let place := fun (b : Nat) => b == 0
  bits (wd l 0) 0 42 == 0
    && (List.range 8).all (fun i => bits (wd l (1 + i / 4)) (16 * (i % 4) + 12) 2 == 0)
    && (List.range 4).all (fun t => bits (wd l (4 + 2 * t)) 32 30 == 0)
    && (if k = 0 then place (bits (wd l 11) 24 34) && place (bits (wd l 12) 56 8) && place (bits (wd l 12) 24 8) && place (wd l 15)
        else if k = 1 then place (bits (wd l 11) 40 24) && place (bits (wd l 11) 24 8) && place (bits (wd l 12) 56 8)
          && place (bits (wd l 12) 24 8)
        else if k = 4 then place (wd l 12) && place (wd l 13) && place (wd l 14) && place (wd l 15)
        else place (wd l 13) && place (wd l 14) && place (wd l 15))
/-- Code length, code offset and entry PC of a descriptor. -/
def codeLen (l : List Word) : Nat := bits (wd l 12) 32 24
def codeOff (l : List Word) : Nat := bits (wd l 12) 0 24
def entryPc (l : List Word) : Nat := bits (wd l 11) 0 24
/-- Cores a STRAND descriptor asks for. -/
def strandCores (l : List Word) : Nat := bits (wd l 11) 32 8 + 1
/-- Clusters a LOCK descriptor asks for: w, h and n. -/
def lockW (l : List Word) : Nat := bits (wd l 11) 62 2 + 1
def lockH (l : List Word) : Nat := bits (wd l 11) 60 2 + 1
def lockN (l : List Word) : Nat := bits (wd l 11) 58 2 + 1
/-- The cluster exposes no core (R12). -/
def State.degraded (s : State) (cl : Nat) : Bool := (s.cluster cl).coreMap.getLsbD 63
/-- The exposed cores of a partition on a die, in increasing physical number (R57). -/
def State.exposed (s : State) (die part : Nat) : List Nat :=
  ((List.range 16).map (die * 16 + ·)).flatMap fun cl =>
    if s.ownsCluster part cl && !s.degraded cl then
      (List.range 9).filterMap fun ph => (coresOf cl).find? fun c => s.physCore c % 64 == ph
    else []
/-- The scheduler's checks of a descriptor (R417): the failing address, where there is one to name, for code 5. -/
def State.dispatchBad (s : State) (die part : Nat) (l : List Word) : Option Nat :=
  let k := nodeKind l
  let pkg := die / 4
  let tile := (List.range 4).find? fun t =>
    bits (wd l (4 + 2 * t)) 62 2 != 0 && !s.addrOk pkg part (wd l (3 + 2 * t)) (bits (wd l (4 + 2 * t)) 0 32) [3, 4, 5, 7]
  if 5 ≤ k ∨ !descReserved l ∨ 8 < bits (wd l 0) 42 4 then some 0
  else match tile with
    | some t => some (wd l (3 + 2 * t))
    | none =>
      if k ≤ 1 ∧ codeLen l ≠ 0 ∧ (codeLen l % 2 = 1 ∨ entryPc l % 2 = 1 ∨ codeOff l % 2 = 1 ∨ 2 ^ 24 < codeOff l + codeLen l) then
        some 0
      else if k ≤ 1 ∧ codeLen l ≠ 0 ∧ !s.addrOk pkg part (wd l 13) (codeLen l) [3, 4] then some (wd l 13)
      else if k = 1 ∧ wd l 15 ≠ 0 ∧ !s.addrOk pkg part (wd l 14) (64 * wd l 15) [3, 4] then some (wd l 14)
      else if k = 1 ∧ (128 < strandCores l ∨ (s.exposed die part).length < strandCores l) then some 0
      else none

/-! ### Placement (R44, R55 to R58) -/

/-- No placed or started core stands in the cluster. -/
def State.clusterIdle (s : State) (cl : Nat) : Bool :=
  (coresOf cl).all fun c => !(s.core c).ident.placed && !(s.core c).ident.started
/-- A LOCK node of a partition may be placed on the cluster (R56). -/
def State.lockable (s : State) (part cl : Nat) : Bool := s.clusterIdle cl && s.ownsCluster part cl && !s.degraded cl
/-- The clusters of a rectangle at an offset on some dies, in the order of logical die, row and column. -/
def rectangle (dies : List Nat) (w h ox oy : Nat) : List Nat :=
  dies.flatMap fun d => (List.range h).flatMap fun y => (List.range w).map fun x => d * 16 + 4 * (oy + y) + ox + x
/-- First fit of a LOCK node among some dies (R56). -/
def State.lockFit (s : State) (part : Nat) (l : List Word) (dies : List Nat) : Option (List Nat) :=
  let w := lockW l
  let h := lockH l
  firstSome ((List.range 16).map fun o =>
    if 4 < o % 4 + w ∨ 4 < o / 4 + h then none
    else
      let ok := dies.filter fun d => (rectangle [d] w h (o % 4) (o / 4)).all (s.lockable part)
      if lockN l ≤ ok.length then some (rectangle (ok.take (lockN l)) w h (o % 4) (o / 4)) else none)
/-- The core is free for a STRAND node (R57, R131). -/
def State.coreFree (s : State) (c : Nat) : Bool :=
  !(s.core c).ident.placed && (coresOf (clusterOf c)).all fun d => !(s.core d).ident.started
/-- First fit of n cores of a STRAND node (R57). -/
def State.strandFit (s : State) (die part n : Nat) : Option (List Nat) :=
  let l := (s.exposed die part).filter s.coreFree
  if n ≤ l.length then some (l.take n) else none
/-- A free sync line of a package (R44). -/
def State.freeLine (s : State) (pkg : Nat) : Option Nat :=
  let used := (List.range 4).flatMap fun d => (s.die (pkg * 4 + d)).sched.placed.filterMap fun e => e.2.line
  (List.range 64).find? fun l => !used.contains l
/-- LCLUSTER of place i of a LOCK node. -/
def lclusterAt (l : List Word) (i : Nat) : Nat :=
  let w := lockW l
  let h := lockH l
  i / 8 % w + 4 * (i / 8 / w % h) + 16 * (i / 8 / w / h)
/-- The node-local index q of place i (R380). -/
def placeQ (l : List Word) (i : Nat) : Nat :=
  if nodeKind l = 0 then
    let c := lclusterAt l i
    128 * (c / 16) + 8 * (4 * (c / 4 % 4) + c % 4) + i % 8
  else i
/-- A core with the state of R58, its contexts idle: SPM, tags, ACC, the microprogram and the limits stay. -/
def Core.fresh (k : Core) (i : CoreIdent) (tvec : Nat) : Core :=
  { Core.reset with
    ident := i
    csr := ⟨0x7FE, tvec / 2 * 2 % 2 ^ 24, k.csr.taglimit, k.csr.joinlimit, k.csr.waitlimit⟩
    mx := { Matrix.reset with clock := k.mx.clock, credit := k.mx.credit }
    acc := k.acc
    prog := k.prog
    stat := { Core.reset.stat with credit := k.stat.credit } }
/-- Context 0 of the core starts at an address. -/
def Core.startAt (k : Core) (pc cycle : Nat) : Core :=
  { k with ctxs := [(0, { Ctx.reset with pc := pc, run := { CtxRun.reset with active := true, readySince := cycle } })] }
/-- The cores of a placement are claimed for a node of a die (R56, R58); the places listed in `gone` stay free. -/
def State.claimCores (s : State) (die idx : Nat) (l : List Word) (cores gone : List Nat) : State :=
  let node := s.nodeId die idx
  let part := (s.nodeEnt die idx).part
  let places := (List.range cores.length).filter fun i => !gone.contains i
  places.foldl (fun s i =>
    let c := cores.getD i 0
    let lc := if nodeKind l = 0 then lclusterAt l i else 0
    s.modCore c fun k => { k.fresh ⟨1, false, c % 8, lc, node, part, true, false, die⟩ (codeOff l) with
      sync := ⟨true, false, none, none⟩ }) s
/-- The node runs: its placement is recorded (R342). -/
def State.enterPlaced (s : State) (die idx : Nat) (p : Placed) : State :=
  let s := s.modSched die fun k => { k with placed := Tab.set k.placed idx p, skipped := Tab.del k.skipped idx }
  s.modNode die idx fun e => { e with state := 3 }
/-- A placement with nothing done. -/
def State.newPlaced (s : State) (l : List Word) (cores clusters : List Nat) (copying : Bool) (line : Option Nat) : Placed :=
  { cores := cores, clusters := clusters, at_ := s.clk.cycle, copying := copying, batch := [], batchPos := 0, ops := [],
    listPos := 0, bad := false, line := line, ring := false, words := l, gone := [], held := [], stopAt := 0 }
/-- The placement of a ready node that fits now: cores and clusters (R56, R57). A node that resumes goes onto the same
dies (R382). -/
def State.fit (s : State) (die idx : Nat) (l : List Word) (noDies : List Nat) : Option (List Nat × List Nat) :=
  let part := (s.nodeEnt die idx).part
  let before := (Tab.find (s.die die).sched.saved idx).map (·.2)
  if nodeKind l = 0 then
    let dies := match before with
      | some p => ((List.range 4).map (die / 4 * 4 + ·)).filter fun d => p.clusters.any fun c => c / 16 == d
      | none => (List.range 4).map (die / 4 * 4 + ·)
    (s.lockFit part l (dies.filter fun d => !noDies.contains d)).map fun cls => (cls.flatMap coresOf, cls)
  else
    (s.strandFit die part (strandCores l - (before.map (·.gone.length)).getD 0)).map fun cs =>
      (cs, (List.range 16).filterMap fun i => if cs.any fun c => clusterOf c == die * 16 + i then some (die * 16 + i) else none)
/-- The cores of a resumed STRAND node, with its empty places filled by any number. -/
def spreadCores (n : Nat) (gone cores : List Nat) : List Nat :=
  ((List.range n).foldl (fun (acc : List Nat × List Nat) i =>
    if gone.contains i then (acc.1 ++ [0], acc.2) else (acc.1 ++ [acc.2.headD 0], acc.2.drop 1)) ([], cores)).1
/-- A LOCK or STRAND node is placed, if it fits and a sync line is free (R44, R56, R57). -/
def State.placeCores (s : State) (die idx : Nat) (l : List Word) (noDies : List Nat) : Option State :=
  match s.fit die idx l noDies, s.freeLine (die / 4) with
  | some (cores, clusters), some line =>
    let before := (Tab.find (s.die die).sched.saved idx).map (·.2)
    let gone := (before.map (·.gone)).getD []
    let cores := if nodeKind l = 1 ∧ before.isSome then spreadCores (strandCores l) gone cores else cores
    let p := s.newPlaced l cores clusters true (some line)
    let p := match before with
      | some b => { p with batch := b.batch, batchPos := b.batchPos, gone := gone }
      | none => p
    let s := s.modPkg (die / 4) fun k => { k with domains := Tab.set k.domains line ⟨s.nodeId die idx, false, 0⟩ }
    some ((s.claimCores die idx l cores gone).enterPlaced die idx p)
  | some _, none => none
  | none, _ => none
/-- The clusters of a partition on a die. -/
def State.partClusters (s : State) (die part : Nat) : List Nat :=
  ((List.range 16).map (die * 16 + ·)).filter (s.ownsCluster part)
/-- A list or HOST node starts, if its units have room (R55, R401): a resumed one goes on where it was stopped. It needs no sync line
(DEDUCED, log entry 108). -/
def State.placeList (s : State) (die idx : Nat) (l : List Word) : Option State :=
  let part := (s.nodeEnt die idx).part
  let room := if nodeKind l = 2 then (s.partClusters die part).any fun c => decide (s.bteLoad c < 128)
    else nodeKind l == 4 || decide ((s.die die).se.length < 64)
  if !room then none
  else
    let p := s.newPlaced l [] [] false none
    let now := s.clk.cycle
    match Tab.find (s.die die).sched.saved idx with
    | none => some (s.enterPlaced die idx p)
    | some (_, b) =>
      let s := b.held.foldl (fun s m => s.addCmd { m with enterAt := now + 1 }) s
      let s := s.modSched die fun k => { k with saved := Tab.del k.saved idx }
      some (s.enterPlaced die idx { p with listPos := b.listPos, ops := b.ops })

/-! ### Dispatch (R55) -/

/-- The partition's state lets its nodes be dispatched (R397). -/
def State.running (s : State) (pkg part : Nat) : Bool := (s.part pkg part).ctl.state == 0
/-- The order of R55: highest effective priority, earliest ready time, lowest index. -/
def dispatchBefore (a b : Nat × NodeEnt) : Bool :=
  decide (b.2.epri < a.2.epri) || (a.2.epri == b.2.epri &&
    (decide (a.2.rtime < b.2.rtime) || (a.2.rtime == b.2.rtime && decide (a.1 ≤ b.1))))
/-- Insert by the order of R55. -/
def insertNode (x : Nat × NodeEnt) : List (Nat × NodeEnt) → List (Nat × NodeEnt)
  | [] => [x]
  | y :: l => if dispatchBefore y x then y :: insertNode x l else x :: y :: l
/-- The nodes ready on a die, in the order of R55. -/
def State.readyList (s : State) (die : Nat) : List Nat :=
  (((s.die die).sched.tdt.filter fun e => e.2.state == 2 && s.running (die / 4) e.2.part).foldl
    (fun l x => insertNode x l) []).map (·.1)
/-- The descriptor a ready node runs by: as dispatched before, for one that resumes. -/
def State.wordsFor (s : State) (die idx : Nat) : List Word :=
  match Tab.find (s.die die).sched.saved idx with
  | some (_, p) => p.words
  | none => s.descWords die idx
/-- The kinds and partitions of nodes over their limit that stand ahead (R55). -/
abbrev Blocking := List (Nat × Nat)
/-- A node's units are kept for a node ahead of it (R55): the BTEs and the stack engines are the die's, whichever the
partition. -/
def barred (b : Blocking) (kind part : Nat) : Bool :=
  b.any fun e =>
    (e.1 == kind && (e.2 == part || kind == 2 || kind == 3)) || (e.1 == 0 && kind == 1 && e.2 == part)
/-- The dies a LOCK node may not use (R55): the dispatching die, kept for a STRAND node ahead. -/
def keptDies (b : Blocking) (die part : Nat) : List Nat := if b.any fun e => e.1 == 1 && e.2 == part then [die] else []
/-- One ready node is considered: dispatched, completed with an error, or skipped. The checks are made in
each cycle in which the node is considered (DEDUCED, log entry 108). -/
def State.consider (s : State) (die : Nat) (b : Blocking) (idx : Nat) : State × Blocking :=
  let l := s.wordsFor die idx
  let part := (s.nodeEnt die idx).part
  match s.dispatchBad die part l with
  | some a => (s.failDispatch die idx l 5 a, b)
  | none =>
    let k := nodeKind l
    let t := if barred b k part then none
      else if k ≤ 1 then s.placeCores die idx l (keptDies b die part) else s.placeList die idx l
    match t with
    | some t => (t, b)
    | none =>
      let since := (Tab.find (s.die die).sched.skipped idx).getD s.clk.cycle
      (s.modSched die fun q => { q with skipped := Tab.set q.skipped idx since }, if since = 0 then (k, part) :: b else b)
/-- SCHEDULER_DISPATCH (R55). -/
def execSchedulerDispatch (s : State) : Out :=
  let die := s.arg 0
  .next ((s.readyList die).foldl (fun (x : State × Blocking) i => x.1.consider die x.2 i) (s, [])).1
/-- PRIORITY_AGING (R55): the effective priority of each ready node. -/
def execPriorityAging (s : State) : Out :=
  let die := s.arg 0
  .next (
    let t := s.time (die / 4) % 2 ^ 44
    ((s.die die).sched.tdt.filter fun e => e.2.state == 2).foldl (fun (s : State) e =>
      let pri := nodePri (s.wordsFor die e.1)
      s.modNode die e.1 fun n => { n with epri := min 7 (pri + (t + 2 ^ 44 - n.rtime) % 2 ^ 44 / 2 ^ 20) }) s)
/-- SKIP_LIMIT (R55): a node skipped for 2^22 cycles is over its limit. -/
def execSkipLimit (s : State) : Out :=
  let die := s.arg 0
  .next (
    let now := s.clk.cycle
    s.modSched die fun k =>
      { k with skipped := k.skipped.map fun e => if 2 ^ 22 ≤ now - e.2 then (e.1, 0) else e })

/-! ### The code copy ends and the cores start (R56 to R58, R338, R413) -/

/-- The issuer of a scheduler's own accesses for a node. -/
def State.nodeIssuer (s : State) (die idx : Nat) : Issuer :=
  ⟨none, 0, die * 16, die, (s.nodeEnt die idx).part, s.nodeId die idx, [], []⟩
/-- Bytes go into a cluster's CMEM, line by line. -/
def State.writeCode (s : State) (part cl off : Nat) (l : List Nat) : State :=
  (pieces off l.length).foldl (fun s p => s.writePlain part (cmemAddr cl (off + p.1)) ((l.drop p.1).take p.2)) s
/-- The entries of a table of a cluster, if the router accepts it (R337). -/
def slotTable (cl : Nat) (l : List Nat) : Option (List (BitVec 32)) :=
  let es := ((chunks 4 256 l).map leNum).map (BitVec.ofNat 32)
  if slotTableOk cl es then some es else none
/-- A node's slot image goes into its routers (R338): none where it fails. The table in force stays until the new one takes
effect. -/
def State.loadSlots (s : State) (l : List Nat) (cls : List Nat) : Option State :=
  let ts := (List.range cls.length).map fun i => (cls.getD i 0, slotTable (cls.getD i 0) ((l.drop (1024 * i)).take 1024))
  if ts.all fun t => t.2.isSome then
    some (ts.foldl (fun (s : State) t => s.modCluster t.1 fun k => { k with slotsNext := some (s.clk.cycle, t.2.getD []) }) s)
  else none
/-- The code image of a node is copied into its clusters (R56, R341). -/
def State.copyCode (s : State) (b : Issuer) (p : Placed) : State × Except (Nat × Nat) Unit :=
  if codeLen p.words = 0 then (s, .ok ())
  else
    let r := s.engRead b (wd p.words 13) (codeLen p.words)
    match r.2 with
    | .error c => (r.1, .error (c, wd p.words 13))
    | .ok l => (p.clusters.foldl (fun s c => s.writeCode b.part c (codeOff p.words) l) r.1, .ok ())
/-- The slot image of a LOCK node is read and loaded (R338); a node with none leaves its routers open. -/
def State.copySlots (s : State) (b : Issuer) (p : Placed) : State × Except (Nat × Nat) Unit :=
  let a := wd p.words 14
  let n := 1024 * p.clusters.length
  if nodeKind p.words ≠ 0 then (s, .ok ())
  else if a = 0 then (s.openRouters p.clusters, .ok ())
  else if !s.addrOk (b.die / 4) b.part a n [3, 4] then (s, .error (5, a))
  else
    let r := s.engRead b a n
    match r.2 with
    | .error c => (r.1, .error (c, a))
    | .ok l => match r.1.loadSlots l p.clusters with
      | some t => (t, .ok ())
      | none => (r.1, .error (5, a))
/-- The record batch of a STRAND node is read (R57, R417). -/
def State.readBatch (s : State) (b : Issuer) (p : Placed) : State × Except (Nat × Nat) (List Nat) :=
  if nodeKind p.words ≠ 1 ∨ wd p.words 15 = 0 then (s, .ok [])
  else
    let r := s.engRead b (wd p.words 14) (64 * wd p.words 15)
    match r.2 with
    | .error c => (r.1, .error (c, wd p.words 14))
    | .ok l => (r.1, .ok ((chunks 64 (wd p.words 15) l).map leNum))
/-- The cores of a placement leave it as they were before: idle (R59). -/
def State.freeCores (s : State) (p : Placed) : State :=
  ((List.range p.cores.length).filter fun i => !p.gone.contains i).foldl (fun (s : State) i =>
    s.modCore (p.cores.getD i 0) fun k => { k with ident := CoreIdent.reset, sync := Core.reset.sync }) s
/-- Every core of the node starts (R56 to R58). -/
def State.startCores (s : State) (p : Placed) : State :=
  let now := s.clk.cycle
  let pc := entryPc p.words
  let mode := if nodeKind p.words = 0 then 0 else 2
  let s := p.cores.foldl (fun (s : State) c =>
    s.modCore c fun k => { k.startAt pc now with ident := { k.ident with mode := mode } }) s
  if mode = 0 then
    p.clusters.foldl (fun (s : State) cl =>
      let k := (s.core (cl * 8)).ident
      s.modChord cl fun _ => { Chord.reset with on := true, pc := pc, decided := true, node := k.node, home := k.home }) s
  else s
/-- CODE_COPY_COMPLETE (R56, R57, R338, R417): the copies end and the cores start, or the node completes with an engine
error. The cores of a node that resumes wait for their images (R382). -/
def execCodeCopyComplete (s : State) : Out :=
  let die := s.arg 0
  let node := s.arg 1
  .next (s.unmet fun s => match Tab.find (s.die die).sched.placed node with
    | none => s
    | some p =>
      let b := s.nodeIssuer die node
      let fails := fun (s : State) (e : Nat × Nat) => (s.freeCores p).failDispatch die node p.words e.1 e.2
      if !p.copying || p.ring then s
      else if p.bad then (s.freeCores p).completeNode die node p.words true
      else
        let resumes := (Tab.find (s.die die).sched.saved node).isSome
        let c := s.copyCode b p
        match c.2 with
        | .error e => fails c.1 e
        | .ok () =>
          let c := c.1.copySlots b p
          match c.2 with
          | .error e => fails c.1 e
          | .ok () =>
            if resumes then c.1.modSched die fun k => { k with placed := Tab.set k.placed node { p with ring := true } }
            else
              let c := c.1.readBatch b p
              match c.2 with
              | .error e => fails c.1 e
              | .ok l =>
                (c.1.startCores p).modSched die fun k =>
                  { k with placed := Tab.set k.placed node { p with copying := false, batch := l } })

/-- One record of a batch (R57): pushed, or reported and counted. -/
def State.pushBatch (s : State) (die node at_ r : Nat) : State :=
  let w := r % 2 ^ 64
  let f := fun (i : Nat) => BitVec.ofNat 64 (r / 2 ^ (64 * i))
  if bits w 57 7 ≠ 0 ∨ bits w 24 8 ≠ 0 ∨ w % 2 = 1 then
    (s.schedFault die node 5 at_).modNode die node fun e => { e with rej := min 65535 (e.rej + 1) }
  else s.pushRecord die ⟨bits w 56 1, bits w 48 8, s.nodeId die node, bits w 0 24, f 1, f 2, f 3, f 4, f 5, f 6, f 7⟩ 0 0 none
/-- The records of a batch from number i on are pushed while the pool has more than 1,024 free records. -/
def State.pushRoom (s : State) (die node base : Nat) : List Nat → Nat → State × Nat
  | [], i => (s, i)
  | r :: l, i =>
    if s.poolSize die + 1024 < 65536 then (s.pushBatch die node (base + 64 * i) r).pushRoom die node base l (i + 1) else (s, i)
/-- BATCH_PUSH (R57): in batch order, under the reserve of R48. -/
def execBatchPush (s : State) : Out :=
  let die := s.arg 0
  let node := s.arg 1
  .next (match Tab.find (s.die die).sched.placed node with
    | none => s
    | some p =>
      if p.copying || p.bad then s
      else
        let r := s.pushRoom die node (wd p.words 14) (p.batch.drop p.batchPos) p.batchPos
        r.1.modSched die fun k => { k with placed := Tab.set k.placed node { p with batchPos := r.2 } })

/-! ### Leaving (R59, R131) -/

/-- The core has an engine operation or a fabric request outstanding. -/
def State.outstanding (s : State) (c : Nat) : Bool :=
  let k := s.core c
  let b := (s.cluster (clusterOf c)).bte
  let mine := fun (m : Cmd) => m.by_.core == some c
  !k.fab.isEmpty || !k.mx.calls.isEmpty || !k.mx.uops.isEmpty || !k.mx.flows.isEmpty
    || b.coming.any mine || b.buffer.any mine || b.slots.any (fun e => mine e.2)
    || (s.die (dieOf c)).se.any (fun m => m.by_.core == some c) || k.streams.any (fun t => !t.2.unwritten.isEmpty)
/-- Context 0 has issued HALT and nothing of the core is in progress (R59). -/
def State.quiet (s : State) (c : Nat) : Bool :=
  let k := s.core c
  (k.stat.dead || ((k.ctx 0).run.ended && k.ctxs.all (fun t => !t.2.run.active && t.2.inflight.isEmpty) && k.arrives.isEmpty))
    && !s.outstanding c
/-- The core may leave the pool's records and arrivals behind (R59). -/
def State.drained (s : State) (c : Nat) : Bool :=
  let k := s.core c
  k.ident.mode != 2 || k.stat.dead
    || (k.arrq.isEmpty && k.overflow.isEmpty && (s.die (dieOf c)).sched.recordsOf k.ident.node == 0)
/-- What the core still holds ends with it: triggers and streams. -/
def State.endCoreOps (s : State) (c : Nat) : State :=
  let k := s.core c
  (k.trig.map (·.2.opId) ++ k.streams.map (·.2.opId)).foldl (fun s i => s.endOp i) s
/-- The core is idle again: its registers keep their values until it is placed the next time (R58). -/
def Core.vacate (k : Core) : Core :=
  { k with
    ident := CoreIdent.reset
    ctxs := k.ctxs.map fun (e : Nat × Ctx) => (e.1, e.2.stop)
    fetch := Core.reset.fetch
    trig := []
    arrq := []
    overflow := []
    streams := []
    fab := []
    arrives := []
    inits := []
    mx := { k.mx with calls := [], uops := [], flows := [] }
    sync := Core.reset.sync
    tagRun := none
    snap := none
    stat := { Core.reset.stat with credit := k.stat.credit } }
/-- A core of a node is idle again. -/
def State.freeCore (s : State) (c : Nat) : State := s.modCore c Core.vacate
/-- A core that a host start held returns to its idle reset state (R131). -/
def State.idleCore (s : State) (c : Nat) : State := s.modCore c fun k => k.fresh CoreIdent.reset 0
/-- A core leaves its node; with the last one the node completes (R59). -/
def State.leaveNode (s : State) (c idx i : Nat) (p : Placed) : State :=
  let k := s.core c
  let die := k.ident.home
  let disc := k.arrq.length + k.overflow.length
  let s := ((s.leaveSync c).endCoreOps c).modNode die idx fun e => { e with disc := min 65535 (e.disc + disc) }
  let s := (s.freeCore c).idleChord (clusterOf c)
  let p := { p with gone := i :: p.gone }
  let s := s.modSched die fun q => { q with placed := Tab.set q.placed idx p }
  if p.gone.length < p.cores.length then s
  else
    let s := p.clusters.foldl (fun (s : State) cl => if nodeKind p.words = 0 then s.modChord cl fun _ => Chord.reset else s) s
    s.completeNode die idx p.words p.bad
/-- A host start ends (R131): the core returns to its idle reset state and RUN to 0; the fault of a double trap that stopped
it is then recorded (R376). -/
def State.endStart (s : State) (c : Nat) : State :=
  let die := dieOf c
  let s' := ((s.endCoreOps c).idleCore c).modSched die fun q => { q with regs := { q.regs with csRun := none } }
  (s.core c).stat.dtrap.elim s' (s'.engineFault die 5 15 0 0 0 0)
/-- CORE_LEAVE_NODE (R59), or the end of a host start (R131, R376). -/
def execCoreLeaveNode (s : State) : Out :=
  let core := s.arg 0
  .next (
    let k := s.core core
    if k.stat.stopped || !s.quiet core then s
    else if k.ident.started then (if s.drained core then s.endStart core else s)
    else if !k.ident.placed then s
    else
      let idx := k.ident.node % 4096
      match Tab.find (s.die k.ident.home).sched.placed idx with
      | none => s
      | some p =>
        if p.copying || (!p.bad && decide (p.batchPos < p.batch.length)) || !s.drained core then s
        else s.leaveNode core idx (indexIn core p.cores) p)

/-! ### XFER and STACK nodes (R266, R341) -/

/-- The list node fails at an entry: nothing further of it is issued. -/
def State.badEntry (s : State) (die idx code addr : Nat) (p : Placed) : State :=
  (s.schedFault die idx code addr).modSched die fun k => { k with placed := Tab.set k.placed idx { p with bad := true } }
/-- One entry of a list has been issued. -/
def State.listNext (s : State) (die idx op : Nat) (p : Placed) : State :=
  s.modSched die fun k => { k with placed := Tab.set k.placed idx { p with listPos := p.listPos + 1, ops := op :: p.ops } }
/-- The code of an address that R203 refuses: 4 for a dead peer, else 5. -/
def refusalCode (f : Nat × Word) : Nat := if f.1 = deadPeer then 4 else 5
/-- A copy-list entry goes to a BTE of the die (R341). -/
def State.listCopy (s : State) (b : Issuer) (idx a : Nat) (p : Placed) (l : List Nat) : State :=
  let w := fun (i : Nat) => leNum ((l.drop (8 * i)).take 8)
  let n := w 2
  let cls := s.partClusters b.die b.part
  let free := (List.range cls.length).map fun i => cls.getD ((p.listPos + i) % cls.length) 0
  match s.addrChecks (b.die / 4) b.part [plainUse (w 0) n [3, 4, 5, 7], plainUse (w 1) n [3, 4, 5, 7]] with
  | some f => s.badEntry b.die idx (refusalCode f) a p
  | none =>
    if 4 ≤ w 3 ∨ 2 ^ 32 ≤ n ∨ (bits (w 3) 1 1 = 1 ∧ spaceOf (w 0) ≠ 4)
        ∨ (s.protectedPart (b.die / 4) b.part ∧ spaceOf (w 0) = 7) then s.badEntry b.die idx 5 a p
    else match free.find? fun c => decide (s.bteLoad c < 128) with
      | none => s
      | some cl =>
        let o := s.newOp
        let m : Cmd := { opId := o.1, by_ := { b with cluster := cl }, kind := 0, dst := w 0, src := w 1, shape := rowShape n,
                         time := 0, bar := none, inc := 0, tag := bits (w 3) 0 1 == 1, ckpt := bits (w 3) 1 1 == 1,
                         handle := none, after := [], enterAt := s.clk.cycle + 1, phase := 0, row := 0, off := 0,
                         relAt := 0, limit := 0, chunk := none, waited := 0, sentAt := 0 }
        (o.2.addCmd m).listNext b.die idx o.1 p
/-- An operation-list entry goes into the stack-engine queue (R341): its descriptor is checked as R285 states. -/
def State.listStack (s : State) (b : Issuer) (idx a : Nat) (p : Placed) (l : List Nat) : State :=
  let e := fun (i : Nat) => leNum ((l.drop (8 * i)).take 8)
  let op := e 0 % 4
  let pkg := b.die / 4
  if 4 ≤ e 0 ∨ !s.addrOk pkg b.part (e 1) 64 [3, 4] then s.badEntry b.die idx 5 a p
  else if 64 ≤ (s.die b.die).se.length then s
  else
    let r := s.engRead b (e 1) 64
    match r.2 with
    | .error c => r.1.badEntry b.die idx c (e 1) p
    | .ok d =>
      let w := fun (i : Nat) => leNum ((d.drop (8 * i)).take 8)
      let rowb := bits (w 3) 32 16
      let count := bits (w 3) 0 32
      let group := bits (w 4) 16 16
      let iw := bits (w 4) 8 1
      let fm2 := bits (w 4) 4 4
      let fm := bits (w 4) 0 4
      let ix := if iw = 0 then 4 else 8
      let other := if op = 3 then count * fmtBytes fm2 else if op = 2 then count * rowsumRow rowb fm fm2 else count * rowb
      let lst := if op = 3 then 0 else if op = 2 then count * group * ix else count * ix
      let table := if op = 3 then count * fmtBytes fm else 0
      let res := bits (w 3) 48 16 != 0 || bits (w 4) 32 32 != 0 || bits (w 4) 9 7 != 0 || w 5 != 0 || w 6 != 0
      let fine := s.addrOk pkg b.part (w 0) table [4] && s.addrOk pkg b.part (w 1) other [3, 4]
        && (op == 3 || s.addrOk pkg b.part (w 2) lst [3, 4])
      if res || !fine || (seFieldBad op fm fm2 group rowb).isSome then r.1.badEntry b.die idx 5 (e 1) p
      else
        let o := r.1.newOp
        let m : SeCmd := ⟨o.1, b, op, w 0, w 1, w 2, rowb, count, group, iw, fm, fm2, e 1 + 56, none, 0, [], false, 0, 0, 0⟩
        (o.2.modDie b.die fun k => { k with se := k.se ++ [m] }).listNext b.die idx o.1 p
/-- The next entry of a node's list is read and issued. -/
def State.issueEntry (s : State) (die idx : Nat) (p : Placed) : State :=
  let b := s.nodeIssuer die idx
  let xfer := nodeKind p.words == 2
  let n := if xfer then 32 else 16
  let a := wd p.words 11 + n * p.listPos
  if !s.addrOk (die / 4) b.part a n [3, 4, 5, 7] then s.badEntry die idx 5 a p
  else
    let r := s.engRead b a n
    match r.2 with
    | .error c => r.1.badEntry die idx c a p
    | .ok l => if xfer then r.1.listCopy b idx a p l else r.1.listStack b idx a p l
/-- ENGINE_NODE_COMPLETE (R266, R341): a list node issues its next entry, and completes when all it listed has; one that a pre-emption
has stopped does neither (R381). -/
def execEngineNodeComplete (s : State) : Out :=
  let die := s.arg 0
  let node := s.arg 1
  .next (s.unmet fun s => match Tab.find (s.die die).sched.placed node with
    | none => s
    | some p =>
      let r := (s.die die).sched.regs
      if nodeKind p.words ≠ 2 ∧ nodeKind p.words ≠ 3 then s
      else if r.phase = 2 ∧ r.runNode = node ∧ !p.bad then s
      else if !p.bad && decide (p.listPos < wd p.words 12) then s.issueEntry die node p
      else if s.done p.ops then s.completeNode die node p.words (p.bad || (s.nodeEnt die node).engerr != 0)
      else s)

/-! ### HOST nodes (R401) -/

/-- The number of entries in a partition's ring that the host has not consumed. -/
def PartCnt.ringUsed (c : PartCnt) : Nat := (c.tail + 2 ^ 32 - c.head) % 2 ^ 32
/-- Some HOST node of the partition waits for the host to acknowledge its entry. -/
def State.ringBusy (s : State) (pkg part : Nat) : Bool :=
  (List.range 4).any fun d => (s.die (pkg * 4 + d)).sched.placed.any fun e =>
    e.2.ring && nodeKind e.2.words == 4 && (s.nodeEnt (pkg * 4 + d) e.1).part == part
/-- NOTIFY_RING_WRITE (R401): one entry at a time; a node that was stopped for good writes none and completes in STATE 5 (R206,
R397); a ring that is not valid, or a refusal of the host, fails the node. -/
def execNotifyRingWrite (s : State) : Out :=
  let die := s.arg 0
  let node := s.arg 1
  .next (match Tab.find (s.die die).sched.placed node with
    | none => s
    | some p =>
      let e := s.nodeEnt die node
      let pkg := die / 4
      let c := (s.part pkg e.part).cnt
      let base := c.nrbase.toNat
      let size := 2 ^ bits base 0 4
      let a := bits base 12 44 * 2 ^ 12 + 16 * (c.tail % size)
      if nodeKind p.words ≠ 4 ∨ p.ring then s
      else if p.bad then s.completeNode die node p.words true
      else if bits base 63 1 = 0 then s.failDispatch die node p.words 2 0
      else if s.ringBusy pkg e.part || decide (size ≤ c.ringUsed) then s
      else
        let d := s.draw
        if Config.hostRefuses d.1 then d.2.failDispatch die node p.words 2 (7 * 2 ^ 60 + a)
        else
          let w1 := e.seq * 2 ^ 32 + die % 4 * 2 ^ 16 + s.nodeId die node
          let s := d.2
          let s := { s with mem := (s.mem.writeN (unitAddr 7 pkg a) 8 (wd p.words 11)).writeN (unitAddr 7 pkg (a + 8)) 8 w1 }
          s.modSched die fun k => { k with placed := Tab.set k.placed node { p with ring := true } })
/-- NOTIFY_ACK (R401): the host acknowledges the write; TAIL advances and the node completes. -/
def execNotifyAck (s : State) : Out :=
  let die := s.arg 0
  let node := s.arg 1
  .next (match Tab.find (s.die die).sched.placed node with
    | none => s
    | some p =>
      if nodeKind p.words = 4 ∧ p.ring then
        let part := (s.nodeEnt die node).part
        let s := s.modPart (die / 4) part fun k => { k with cnt := { k.cnt with tail := (k.cnt.tail + 1) % 2 ^ 32 } }
        s.completeNode die node p.words p.bad
      else s)

/-! ### Host starts and CORE_MAP (R11, R131) -/

/-- The hypervisor's window (R400). -/
def hypervisor : Nat := 16
/-- The window exists (R400): the hypervisor's, or that of a partition the package defines. -/
def State.hasWindow (s : State) (pkg who : Nat) : Bool := who == hypervisor || (decide (who < 16) && (s.part pkg who).ctl.v)
/-- Change the registers of a die scheduler. -/
def State.modRegs (s : State) (die : Nat) (f : SchedRegs → SchedRegs) : State :=
  s.modSched die fun k => { k with regs := f k.regs }
/-- The core of a physical number that a die exposes. -/
def State.exposedCore (s : State) (die n : Nat) : Option Nat :=
  ((List.range 128).map (die * 128 + ·)).find? fun c => s.physCore c == n && !s.degraded (clusterOf c)
/-- SCHEDSTAT of a die (R12, R343): its clusters that are not DEGRADED and its ready nodes. -/
def State.schedstat (s : State) (die : Nat) : Word :=
  let usable := ((List.range 16).filter fun i => !s.degraded (die * 16 + i)).length
  let ready := ((s.die die).sched.tdt.filter fun e => e.2.state == 2).length
  BitVec.ofNat 64 (usable * 2 ^ 16 + ready)
/-- A host start of a core (R131). -/
def State.startCore (s : State) (die c part pc val : Nat) : State :=
  let s := s.modRegs die fun r => { r with csRefused := false, csRun := some c, csCore := bits val 36 12, csPc := pc }
  let now := s.clk.cycle
  s.modCore c fun k => (k.fresh ⟨1, true, 0, 0, 0, part, false, true, die⟩ pc).startAt pc now
/-- CORESTART_GO (R131): from the hypervisor's window alone (R400). -/
def execCorestartGo (s : State) : Out :=
  let who := s.arg 0
  let die := s.arg 1
  let val := s.arg 2
  .next (
    let r := (s.die die).sched.regs
    let pc := bits val 0 24
    let refuse := s.modRegs die fun r => { r with csRefused := true }
    if who ≠ hypervisor ∨ packages * 4 ≤ die then s
    else match s.exposedCore die (bits val 36 12) with
      | none => refuse
      | some c =>
        let cl := clusterOf c
        match (s.pkg (die / 4)).own.quarter (cl % 64 / 16 * 4 + quarterOf cl) with
        | none => refuse
        | some part =>
          if r.csRun.isSome || pc % 2 == 1 || (coresOf cl).any (fun d => (s.core d).ident.placed) then refuse
          else s.startCore die c part pc val)
/-- The window of a partition reaches a cluster of its own; the hypervisor's reaches all (R400). -/
def State.reachesCluster (s : State) (who cl : Nat) : Bool :=
  s.hasWindow (cl / 64) who && (who == hypervisor || s.ownsCluster who cl)
/-- CORE_MAP_WRITE (R11, R20). -/
def execCoreMapWrite (s : State) : Out :=
  let who := s.arg 0
  let cl := s.arg 1
  let val := s.arg 2
  .next (if s.reachesCluster who cl && decide (cl < packages * 64) then s.writeCoreMap cl val else s)

end Sys2Proof.Machine
end

