-- ==== Sys2Proof/Machine/ImageData.lean ====
section
/-! DEFINITION. The payload of a context image (R384): how a core's state is laid out in it, and how it is read back
(R382, R385). -/

namespace Sys2Proof.Machine

/-! ### The payload (R384) -/

/-- Exactly n bytes: a string cut or filled up with zeros. -/
def padTo (n : Nat) (l : List Nat) : List Nat := (l ++ List.replicate (n - l.length) 0).take n
/-- A 64-bit word as bytes. -/
def word8 (n : Nat) : List Nat := leBytes 8 n
/-- A pending transfer in 32 bits: bits 31:28 hold its issue order among those pending. -/
def pendWord (i : Nat) (p : Pending) : Nat :=
  p.target % 2 ^ 24 + p.rem % 4 * 2 ^ 24 + (if p.link then 2 ^ 26 else 0) + 2 ^ 27 + i % 16 * 2 ^ 28
/-- A target register in a context block. -/
def TReg.word (t : TReg) : Nat := if t.state = 0 then 0 else 2 ^ 63 + t.target % 2 ^ 24
/-- A context block, 512 bytes. -/
def State.ctxBlock (s : State) (c x : Nat) : List Nat :=
  let k := s.ctx c x
  let csr := fun n => word8 (csrValue s c x n).toNat
  padTo 512 ((List.range 32).flatMap (fun n => word8 (k.readS n).toNat)
    ++ (List.range 8).flatMap (fun n => word8 (k.readP n).bits.toNat)
    ++ word8 (bitsNat ((List.range 32).map fun n => (k.readP n).u))
    ++ [0x030, 0x031, 0x032, 0x033].flatMap csr
    ++ (List.range 8).flatMap (fun n => word8 (Tab.get TReg.reset k.tb n).word)
    ++ [0x010, 0x011, 0x018, 0x002, 0x802, 0x803, 0x804].flatMap csr
    ++ word8 (k.pc % 2 ^ 24) ++ word8 ((if k.run.active then 1 else 0) + (if k.cap.isSome then 2 else 0))
    ++ (List.range k.pend.length).flatMap fun i => leBytes 4 ((k.pend[i]?).elim 0 (pendWord i)))
/-- A stream engine in the core block, 32 bytes: the last eight tell which entries are unwritten, by their distance from the
position. -/
def Stream.block (t : Stream) : List Nat :=
  word8 t.desc ++ word8 t.pos
    ++ word8 ((if t.bound then 1 else 0) + (if t.walk.isSome then 2 else 0) + (if t.mis then 4 else 0) + (if t.ovr then 8 else 0)
        + (if t.exh then 16 else 0))
    ++ (List.range 8).map fun i => (t.unwritten[i]?).elim 0 fun e => (t.pos - e.idx) % 256
/-- JOIN and sync state of a core, with whether its context 0 has halted. -/
def Core.joinWord (k : Core) : Nat :=
  ((k.ctx 0).run.join.elim 0 fun j => 16 + j) + (if k.sync.member then 32 else 0) + (if k.sync.pendJ then 64 else 0)
    + (if (k.ctx 0).run.ended then 128 else 0)
/-- The core block, 1 KiB. -/
def State.coreBlock (s : State) (c : Nat) : List Nat :=
  let k := s.core c
  padTo 1024 ((List.range 24).flatMap (fun n => word8 ((k.ctx 0).readP (n + 8)).bits.toNat)
    ++ (List.range 8).flatMap (fun n => word8 (Tab.get 0 k.m n).toNat)
    ++ word8 (csrValue s c 0 0x001).toNat ++ word8 (csrValue s c 0 0x020).toNat ++ word8 k.joinWord
    ++ word8 (csrValue s c 0 0x02B).toNat ++ (List.range 8).flatMap fun n => (k.stream n).block)
/-- The registers section. -/
def State.regSection (s : State) (c : Nat) : List Nat :=
  (List.range 16).flatMap (s.ctxBlock c) ++ s.coreBlock c
    ++ (List.range 64).flatMap fun n => leBytes 256 (Tab.get 0 (s.core c).v n).toNat
/-- Kind and number of a register in a replay entry. -/
def RegName.code : RegName → Nat
  | .s n => n
  | .p n => 256 + n
  | .v n => 512 + n
  | .m n => 768 + n
  | .push k => 1024 + k
  | .flagsOnly => 1280
/-- The remaining count of a captured result (R374): in the exposed modes the bundle at which it becomes visible counts. -/
def Result.remaining (r : Result) (mode : Nat) : Nat := if mode = 2 then r.rem else r.rem + 1
/-- A replay entry, 288 bytes: a 32-byte header, then the value. -/
def replayEntry (mode x : Nat) (handler : Bool) (r : Result) : List Nat :=
  word8 (1 + (if handler then 2 else 0) + x * 16 + r.reg.code * 2 ^ 16 + r.slot * 2 ^ 32 + r.flags.toNat * 2 ^ 40
      + r.remaining mode * 2 ^ 48)
    ++ word8 r.mask.toNat ++ word8 (r.order % 2 ^ 32) ++ word8 (r.arrive.elim 0 fun b => 32 + b) ++ leBytes 256 r.val.toNat
/-- The entry that goes with a handler's capture: its loops and pending transfers, under a kind of its own (1536). -/
def captureEntry (x : Nat) (g : Capture) : List Nat :=
  padTo 288 (word8 (1 + 2 + x * 16 + 1536 * 2 ^ 16) ++ List.replicate 24 0
    ++ [g.l0, g.l1].flatMap (fun l => word8 l.word.toNat ++ word8 l.lc)
    ++ (List.range g.pend.length).flatMap fun i => leBytes 4 ((g.pend[i]?).elim 0 (pendWord i)))
/-- The replay section: results captured at the stop, then those of handlers. -/
def Core.replaySection (k : Core) : List Nat :=
  padTo 36864 (k.ctxs.flatMap (fun e => e.2.inflight.flatMap (replayEntry k.ident.mode e.1 false))
    ++ k.ctxs.flatMap fun e => e.2.cap.elim [] fun g =>
      g.results.flatMap (replayEntry k.ident.mode e.1 true) ++ captureEntry e.1 g)
/-- A core's number within its cluster, plus 1; 0 for none. -/
def leadCode (l : Option Nat) : Nat := l.elim 0 fun c => c % 8 + 1
/-- What a core's TRANS came to, and when the Chord reaches its boundary (R34): distances count from the Chord's number. -/
def transWord (k : Core) (h : Chord) (d : Nat × Nat) : Nat :=
  2 ^ 63 + (h.num - d.1) % 2 ^ 16 + (d.2 - d.1) % 16 * 2 ^ 16
    + (k.fetch.notes.find? fun n => n.num == d.1).elim 0 fun n => 2 ^ 32 + n.target.elim 0 fun t => 2 ^ 33 + t.1 % 2 ^ 24 * 2 ^ 34
/-- What a core's LOOP came to, while the Chord waits for it (R34): the loop it executed on, and where a count of zero goes. -/
def loopWord (n : Note) : Nat :=
  1 + (n.loop.elim 0 fun l => 4 + 2 * l.1) + (n.skip.elim 0 fun a => 8 + a % 2 ^ 24 * 2 ^ 8)
/-- The Chord part of the queues section, 256 bytes. -/
def chordImage (k : Core) (h : Chord) : List Nat :=
  let j := match h.wait with
    | .none => 0
    | .loop => 1
    | .joinW n _ _ _ => 2 + 16 * n
  let b := fun (x : Bool) (n : Nat) => if x then 2 ^ n else 0
  padTo 256 ((List.range 16).flatMap (fun i => word8 ((k.fetch.queue[i]?).elim (2 ^ 63) fun q =>
      q.addr + (h.num - q.num) % 2 ^ 8 * 2 ^ 24 + leadCode q.lead * 2 ^ 32))
    ++ word8 (h.pc % 2 ^ 24 + b h.on 24 + b h.decided 25 + b h.restarted 26 + b k.fetch.fresh 27 + leadCode h.lead * 2 ^ 28)
    ++ [h.l0, h.l1].flatMap (fun l => word8 l.word.toNat ++ word8 l.lc) ++ word8 j
    ++ word8 (h.last % 2 ^ 24 + (h.num - k.fetch.lastNum) % 2 ^ 16 * 2 ^ 24)
    ++ (List.range 4).flatMap (fun i => word8 ((h.trans[i]?).elim 0 (transWord k h)))
    ++ word8 ((k.fetch.notes.find? fun n => n.num == h.num && (n.loop.isSome || n.skip.isSome)).elim 0 loopWord))
/-- Insert a trigger in the order of arming. -/
def insertArmed (e : Nat × Trigger) : Tab Trigger → Tab Trigger
  | [] => [e]
  | d :: l => if d.2.opId ≤ e.2.opId then d :: insertArmed e l else e :: d :: l
/-- How many fences of its context stand before a trigger among those armed, as far as they order it behind another: a released
operation follows every earlier one, and all follow an acquiring one, without a fence (R259, R416). -/
def epochAfter (before : List (Nat × Trigger × Nat)) (t : Trigger) : Nat :=
  ((before.filter fun d => d.2.1.ctx == t.ctx && !t.op.rel && !d.2.1.op.acq && t.after.contains d.2.1.opId).map (·.2.2 + 1)).foldl max
    (((before.filter fun d => d.2.1.ctx == t.ctx).head?).elim 0 (·.2.2))
/-- The triggers in the order of arming, each with its index and epoch. -/
def armedOrder (l : Tab Trigger) : List (Nat × Trigger × Nat) :=
  ((l.foldl (fun acc e => insertArmed e acc) []).foldl (fun acc e => (e.1, e.2, epochAfter acc e.2) :: acc) []).reverse
/-- What an image holds of a trigger's place among those armed (R416; log entry 106): its number in the order of arming, its
epoch, and whether a fence after it orders what its context issues next. -/
def Core.trigPlace (k : Core) (i : Nat) : Nat :=
  let l := armedOrder k.trig
  let n := (l.findIdx? fun e => e.1 == i).getD 0
  match l[n]? with
  | none => 0
  | some e => n * 2 ^ 50 + e.2.2 * 2 ^ 56 + (if (k.ctx e.2.1.ctx).dep.fence.contains e.2.1.opId then 2 ^ 45 else 0)
/-- A trigger, 40 bytes: its context, barrier, threshold, phase and place, then its operation as in R361. -/
def trigBytes (t : Trigger) (place : Nat) : List Nat :=
  let o := t.op
  let b := fun (x : Bool) (n : Nat) => if x then 2 ^ n else 0
  word8 (2 ^ 63 + place + t.ctx * 2 ^ 46 + t.bar * 2 ^ 40 + b t.phase 32 + t.thr % 2 ^ 32)
    ++ word8 (o.kind * 2 ^ 60 + o.bar * 2 ^ 55 + b o.nb 54 + o.inc * 2 ^ 42 + b o.tag 41 + b o.ckpt 40 + b o.rel 39 + b o.acq 38
        + o.scope * 2 ^ 35 + o.opx * 2 ^ 27) ++ word8 o.dst.toNat ++ word8 o.src.toNat ++ word8 o.len.toNat
/-- A command that was not released, 48 bytes. -/
def cmdBytes (m : Cmd) : List Nat :=
  word8 m.dst ++ word8 m.src ++ word8 (m.shape.rowb + m.shape.rows * 2 ^ 32) ++ word8 m.time
    ++ word8 (m.kind + (m.bar.elim 0 fun b => 32 + b) * 16 + m.by_.ctx * 2 ^ 10 + m.inc * 2 ^ 16 + (if m.tag then 2 ^ 32 else 0)
        + (if m.ckpt then 2 ^ 33 else 0) + (m.handle.elim 0 fun o => 2 ^ 20 + o) * 2 ^ 36)
    ++ leBytes 4 (m.shape.dstr % 2 ^ 32).toNat ++ leBytes 4 (m.shape.sstr % 2 ^ 32).toNat
/-- The queues section. -/
def Core.queueSection (k : Core) (h : Chord) (cmds : List Cmd) : List Nat :=
  chordImage k h
    ++ (List.range 64).flatMap (fun i => padTo 40 ((Tab.find k.trig i).elim [] fun t => trigBytes t (k.trigPlace i)))
    ++ (List.range 128).flatMap (fun i => padTo 48 ((cmds[i]?).elim [] cmdBytes))
    ++ (List.range 64).flatMap (fun i => padTo 24 ((k.arrq[i]?).elim [] fun a => word8 (2 ^ 63 + a.pc) ++ word8 a.off ++ word8 a.cookie.toNat))
    ++ (List.range 8).flatMap fun n => padTo 2048 ((k.stream n).unwritten.flatMap fun e => leBytes 256 e.data.toNat)
/-- Bytes of SPM that an image saves from offset 0 (R383). -/
def saveBytes (sz : Nat) : Nat := (if sz = 0 then 64 else sz) * 16384
/-- Tag bits of n words from an offset, as bytes. -/
def State.tagBytes (s : State) (c off n : Nat) : List Nat :=
  leBytes (n / 8) (bitsNat ((List.range n).map fun i => s.tagFull c (off + 8 * i)))
/-- The SPM section. -/
def State.spmSection (s : State) (c d : Nat) : List Nat :=
  let b := (s.core c).csr.barbase * 512
  s.mem.bytes (spmAddr c 0) d ++ s.tagBytes c 0 (d / 8) ++ s.mem.bytes (spmAddr c b) 768 ++ padTo 64 (s.tagBytes c b 96)
/-- A latch, 34,880 bytes. -/
def Latch.bytes (l : Latch) : List Nat :=
  padTo 34880 ((List.range 128).flatMap (fun i => (List.range 128).flatMap fun j =>
      leBytes 2 (((l.cols.getD i []).getD j 0) % 2 ^ 16).toNat)
    ++ (List.range 128).flatMap (fun i => (List.range 4).flatMap fun j =>
      let e := (l.scales.getD i []).getD j (0, 0, false)
      leBytes 1 e.1 ++ leBytes 2 (e.2.1 % 2 ^ 16).toNat ++ [if e.2.2 then 1 else 0])
    ++ [l.fm, if l.valid then 1 else 0])
/-- A micro-operation in progress within a call record, 48 bytes. -/
def Uop.bytes (u : Uop) : List Nat :=
  word8 (u.kind + u.tile * 16 + u.row0 * 2 ^ 8 + u.rows % 2 ^ 8 * 2 ^ 16 + u.row * 2 ^ 24 + u.fm * 2 ^ 32 + (if u.fz then 2 ^ 40 else 0)
      + (if u.mark then 2 ^ 41 else 0))
    ++ word8 u.base ++ word8 (u.lo % 2 ^ 32 + u.hi % 2 ^ 32 * 2 ^ 32) ++ word8 (u.str % 2 ^ 32 + u.sstr % 2 ^ 32 * 2 ^ 32)
    ++ word8 u.scl ++ word8 u.idxo
/-- A call record, 256 bytes. -/
def callBytes (m : Matrix) (k : Call) : List Nat :=
  padTo 256 (word8 (k.rout + k.seq * 2 ^ 8 + k.idx * 2 ^ 16 + bitsNat ((List.range 12).map k.owned.contains) * 2 ^ 32
      + k.fbar * 2 ^ 48 + 2 ^ 63)
    ++ (List.range 8).flatMap (fun i => word8 (k.reg i).toNat)
    ++ (List.range 4).flatMap (fun i => word8 ((k.loops[i]?).elim 0 fun e => 2 ^ 63 + e.1 * 2 ^ 32 + e.2))
    ++ (List.range 3).flatMap fun i => padTo 48 (((m.uops.filter fun u => u.seq == k.seq)[i]?).elim [] Uop.bytes))
/-- The ACC section. -/
def Core.accSection (k : Core) : List Nat :=
  let a := k.acc
  let rows := (List.range 12).flatMap fun t => (List.range 32).map fun r => a.row t r
  rows.flatMap (fun l => l.flatMap fun e => leBytes 16 (e.a % 2 ^ 128).toNat)
    ++ rows.flatMap (fun l => leBytes 16 (bitsNat (l.map (·.inv))))
    ++ padTo 128 ((List.range 12).flatMap fun t => word8 ((a.grid t % 2 ^ 11).toNat + (if a.over t then 2 ^ 11 else 0)))
    ++ k.mx.active.bytes ++ k.mx.shadow.bytes
    ++ (List.range 4).flatMap fun i => padTo 256 ((k.mx.calls[i]?).elim [] (callBytes k.mx))
/-- The plaintext of a core's image. -/
def State.payload (s : State) (c d : Nat) (cmds : List Cmd) : List Nat :=
  let k := s.core c
  s.regSection c ++ k.replaySection ++ k.queueSection (s.cluster (clusterOf c)).chord cmds ++ s.spmSection c d ++ k.accSection
/-- The header words of R383 but for TIME. -/
def headerWords (ctr ctxid part time node q mode sz : Nat) : List Nat :=
  let d := saveBytes sz
  [ctr * 2 ^ 32 + ctxid * 2 ^ 16 + part * 2 ^ 12 + 1, time, 36864 * 2 ^ 32 + 25600, (d + d / 64 + 832) * 2 ^ 32 + 26880, 863488,
   node * 2 ^ 48 + q * 2 ^ 32 + mode * 2 ^ 24 + sz * 2 ^ 16, 0, 0]

/-! ### Reading a payload (R382, R385)

What the layout has no place for is not in an image: the numbers of operations, which a restore gives anew, the order among
operations, and what a target register, a queue or a stream had fetched (log entry 18). -/

/-- The number that n bytes at an offset hold. -/
def numAt (l : List Nat) (o n : Nat) : Nat := leNum ((l.drop o).take n)
/-- The 64-bit word at an offset. -/
def wordAt (l : List Nat) (o : Nat) : Nat := numAt l o 8
/-- A loop register from its two words. -/
def LoopReg.read (w lc : Nat) : LoopReg := ⟨bits w 0 24, bits w 24 24, lc % 2 ^ 32, bits w 63 1 == 1⟩
/-- A target register, whose lines are fetched again. -/
def TReg.read (w : Nat) : TReg := if bits w 63 1 = 1 then ⟨w % 2 ^ 24, 2, 0, []⟩ else TReg.reset
/-- The pending transfers at an offset. -/
def pendAt (l : List Nat) (o : Nat) : List Pending :=
  (List.range 4).flatMap fun i =>
    let w := numAt l (o + 4 * i) 4
    if bits w 27 1 = 1 then [⟨w % 2 ^ 24, bits w 24 2, bits w 26 1 == 1, bits w 28 4, []⟩] else []
/-- The control registers of a context from its block. -/
def CtxCsr.read (w : Nat → Nat) : CtxCsr :=
  { rm := BitVec.ofNat 2 (w 0x1A8), flags := BitVec.ofNat 5 (w 0x1B0), ppl := bits (w 0x1B8) 7 1 == 1, tcoll := bits (w 0x1B8) 1 1 == 1
    wcoll := bits (w 0x1B8) 0 1 == 1, group := bits (w 0x1C0) 8 8, pri := bits (w 0x1C0) 16 1, tpc := bits (w 0x1C8) 0 24
    tcause := bits (w 0x1D0) 0 12, tval := BitVec.ofNat 64 (w 0x1D8) }
/-- The register of a replay entry's code. -/
def RegName.ofCode (n : Nat) : RegName :=
  match n / 256 with
  | 0 => .s (n % 256)
  | 1 => .p (n % 256)
  | 2 => .v (n % 256)
  | 3 => .m (n % 256)
  | 4 => .push (n % 256)
  | _ => .flagsOnly
/-- A replay entry: its context, whether a handler's capture holds it, the result; none where it is unused or no result's. -/
def readReplay (mode : Nat) (l : List Nat) : Option (Nat × Bool × Result) :=
  let w := wordAt l 0
  let a := wordAt l 24
  let n := bits w 48 16
  let r := RegName.ofCode (bits w 16 16)
  if w % 2 = 0 ∨ bits w 16 16 = 1536 then none
  else some (bits w 4 4, bits w 1 1 == 1,
    { reg := r, val := BitVec.ofNat 2048 (numAt l 32 256), mask := BitVec.ofNat 64 (wordAt l 8), flags := BitVec.ofNat 5 (bits w 40 5)
      rem := if mode = 2 then n else n - 1, slot := bits w 32 8, order := wordAt l 16
      arrive := if a < 32 then none else some (a % 32)
      push := match r with
        | .push _ => some (0, [])
        | .s _ => none
        | .p _ => none
        | .v _ => none
        | .m _ => none
        | .flagsOnly => none })
/-- The entries of the replay section. -/
def replayEntries (l : List Nat) : List (List Nat) := (List.range 128).map fun i => (l.drop (25600 + 288 * i)).take 288
/-- What a handler of context x holds. -/
def readCapture (l : List Nat) (rs : List (Nat × Bool × Result)) (x : Nat) : Capture :=
  let e := ((replayEntries l).find? fun e => wordAt e 0 == 1 + 2 + x * 16 + 1536 * 2 ^ 16).getD []
  ⟨(rs.filter fun r => r.1 == x && r.2.1).map (·.2.2), pendAt e 64, LoopReg.read (wordAt e 32) (wordAt e 40),
   LoopReg.read (wordAt e 48) (wordAt e 56)⟩
/-- A context from its block: what it issues next comes after all that the image holds. -/
def readCtx (l : List Nat) (rs : List (Nat × Bool × Result)) (x : Nat) : Ctx :=
  let w := fun (o : Nat) => wordAt l (512 * x + o)
  let j := wordAt l (8192 + 0x110)
  { Ctx.reset with
    s := (List.range 31).map fun n => (n + 1, BitVec.ofNat 64 (w (8 * (n + 1))))
    p := (List.range (if x = 0 then 31 else 7)).map fun i =>
      let n := i + 1
      (n, ⟨BitVec.ofNat 64 (if n < 8 then w (0x100 + 8 * n) else wordAt l (8192 + 8 * (n - 8))), (w 0x140).testBit n⟩)
    l0 := LoopReg.read (w 0x148) (w 0x150)
    l1 := LoopReg.read (w 0x158) (w 0x160)
    tb := (List.range 8).map fun n => (n, TReg.read (w (0x168 + 8 * n)))
    pend := pendAt l (512 * x + 0x1F0)
    pc := bits (w 0x1E0) 0 24
    csr := CtxCsr.read w
    run := { CtxRun.reset with
      active := bits (w 0x1E8) 0 1 == 1
      ended := x == 0 && bits j 7 1 == 1
      issued := 2 ^ 32
      join := if x = 0 ∧ bits j 4 1 = 1 then some (bits j 0 4) else none }
    inflight := (rs.filter fun r => r.1 == x && !r.2.1).map (·.2.2)
    cap := if bits (w 0x1E8) 1 1 = 1 then some (readCapture l rs x) else none }
/-- A stream engine: its walk is that of its descriptor, and a read stream's entries are fetched again. -/
def readStream (l : List Nat) (m : Memory) (n : Nat) : Stream :=
  let w := fun (i : Nat) => wordAt l (8192 + 0x120 + 32 * n + 8 * i)
  let data := fun (i : Nat) => BitVec.ofNat 2048 (numAt l (62464 + 256 + 2560 + 6144 + 1536 + 2048 * n + 256 * i) 256)
  { Stream.reset with
    bound := bits (w 2) 0 1 == 1
    desc := w 0
    walk := if bits (w 2) 1 1 = 1 then some (walkAt m (w 0)) else none
    pos := w 1
    unwritten := (List.range 8).flatMap fun i =>
      if bits (w 3) (8 * i) 8 = 0 then [] else [⟨w 1 - bits (w 3) (8 * i) 8, data i, 0, []⟩]
    mis := bits (w 2) 2 1 == 1
    ovr := bits (w 2) 3 1 == 1
    exh := bits (w 2) 4 1 == 1 }
/-- A trigger from its 40 bytes. -/
def readTrig (l : List Nat) : Option Trigger :=
  let w := wordAt l 0
  let o := wordAt l 8
  if bits w 63 1 = 0 then none
  else some {
    bar := bits w 40 5, thr := bits w 0 32, phase := bits w 32 1 == 1, ctx := bits w 46 4, after := [], opId := 0, metAt := 0
    op := { kind := bits o 60 4, bar := bits o 55 5, nb := bits o 54 1 == 1, inc := bits o 42 12, tag := bits o 41 1 == 1
            ckpt := bits o 40 1 == 1, rel := bits o 39 1 == 1, acq := bits o 38 1 == 1, scope := bits o 35 3, opx := bits o 27 8
            dst := BitVec.ofNat 64 (wordAt l 16), src := BitVec.ofNat 64 (wordAt l 24), len := BitVec.ofNat 64 (wordAt l 32) } }
/-- The triggers of the trigger list: `metAt` holds the number in the order of arming until `Core.number`, and each follows those
before it that R416 names, by that number. -/
def readTrigs (q : List Nat) : Tab Trigger :=
  let l := (List.range 64).filterMap fun i => (readTrig ((q.drop (40 * i)).take 40)).map fun t => (i, t, wordAt q (40 * i))
  l.map fun e => (e.1, { e.2.1 with metAt := bits e.2.2 50 6, after := (l.filter fun d =>
    d.2.1.ctx == e.2.1.ctx && decide (bits d.2.2 50 6 < bits e.2.2 50 6)
      && (e.2.1.op.rel || d.2.1.op.acq || decide (bits d.2.2 56 6 < bits e.2.2 56 6))).map fun d => bits d.2.2 50 6 })
/-- The triggers that what a context issues next follows, by the same number. -/
def readFence (q : List Nat) (x : Nat) : List Nat :=
  ((List.range 64).map fun i => wordAt q (40 * i)).filterMap fun w =>
    if bits w 63 1 = 1 ∧ bits w 46 4 = x ∧ bits w 45 1 = 1 then some (bits w 50 6) else none
/-- A command from its 48 bytes; an unused record holds zeros. -/
def readCmd (part node : Nat) (l : List Nat) : Option Cmd :=
  let w := wordAt l 32
  if leNum l = 0 then none
  else some {
    opId := 0, by_ := ⟨none, bits w 10 4, 0, 0, part, node, [], []⟩, kind := bits w 0 4, dst := wordAt l 0, src := wordAt l 8
    shape := ⟨numAt l 20 4, numAt l 16 4, sInt 32 (numAt l 40 4), sInt 32 (numAt l 44 4)⟩, time := wordAt l 24
    bar := if bits w 9 1 = 1 then some (bits w 4 5) else none, inc := bits w 16 12, tag := bits w 32 1 == 1
    ckpt := bits w 33 1 == 1, handle := if bits w 56 1 = 1 then some (bits w 36 20) else none, after := [], enterAt := 0
    phase := 0, row := 0, off := 0, relAt := 0, limit := 0, chunk := none, waited := 0, sentAt := 0 }
/-- An arrival from its 24 bytes. -/
def readArrival (l : List Nat) : Option Arrival :=
  if bits (wordAt l 0) 63 1 = 0 then none
  else some ⟨bits (wordAt l 0) 0 24, wordAt l 8, BitVec.ofNat 64 (wordAt l 16)⟩
/-- The number that the Chord of a restored image goes on from. -/
def imageNum : Nat := 2 ^ 16
/-- A leader's logical number. -/
def leadOf (n : Nat) : Option Nat := if n = 0 then none else some (n - 1)
/-- The Chord from the Chord part of an image. -/
def readChord (l : List Nat) (node : Nat) : Chord :=
  let w := fun (o : Nat) => wordAt l (62464 + o)
  { Chord.reset with
    on := bits (w 128) 24 1 == 1, pc := bits (w 128) 0 24, decided := bits (w 128) 25 1 == 1, num := imageNum
    last := bits (w 176) 0 24, lead := leadOf (bits (w 128) 28 4), l0 := LoopReg.read (w 136) (w 144), l1 := LoopReg.read (w 152) (w 160)
    trans := (List.range 4).flatMap fun i =>
      let t := w (184 + 8 * i)
      let b := imageNum - bits t 0 16
      if bits t 63 1 = 1 then [(b, b + bits t 16 4)] else []
    wait := if w 168 = 1 then .loop else .none
    restarted := bits (w 128) 26 1 == 1
    node := node }
/-- What the core fetches from, with its notes of the Chord's transfers and loop. -/
def readFetch (l : List Nat) : CoreFetch :=
  let w := fun (o : Nat) => wordAt l (62464 + o)
  let u := w 216
  let loop : Nat × LoopReg := (bits u 1 1, if bits u 1 1 = 0 then LoopReg.read (wordAt l 0x148) (wordAt l 0x150)
    else LoopReg.read (wordAt l 0x158) (wordAt l 0x160))
  { queue := (List.range 16).flatMap fun i =>
      let q := w (8 * i)
      if bits q 63 1 = 1 then [] else [⟨bits q 0 24, 0, 0, imageNum - bits q 24 8, leadOf (bits q 32 4)⟩]
    lines := []
    lastNum := imageNum - bits (w 176) 24 16
    fresh := bits (w 128) 27 1 == 1
    notes := ((List.range 4).flatMap fun i =>
      let t := w (184 + 8 * i)
      if bits t 32 1 = 1 then
        [⟨imageNum - bits t 0 16, if bits t 33 1 = 1 then some (bits t 34 24, []) else none, none, none⟩]
      else [])
      ++ if u % 2 = 0 then [] else
        [⟨imageNum, none, if bits u 2 1 = 1 then some loop else none, if bits u 3 1 = 1 then some (bits u 8 24) else none⟩] }
/-- A latch from its bytes. -/
def readLatch (l : List Nat) : Latch :=
  { valid := (l.getD 34817 0) % 2 == 1, fm := l.getD 34816 0
    cols := (List.range 128).map fun i =>
      let c := (l.drop (256 * i)).take 256
      (List.range 128).map fun j => sInt 16 (numAt c (2 * j) 2)
    scales := (List.range 128).map fun i =>
      let c := (l.drop (32768 + 16 * i)).take 16
      (List.range 4).map fun j => (c.getD (4 * j) 0, sInt 16 (numAt c (4 * j + 1) 2), c.getD (4 * j + 3) 0 == 1) }
/-- A micro-operation in progress; none where the record is unused. -/
def readUop (seq : Nat) (l : List Nat) : Option Uop :=
  let w := wordAt l 0
  if bits w 0 4 = 0 then none
  else some {
    kind := bits w 0 4, seq := seq, tile := bits w 4 4, row0 := bits w 8 8, rows := if bits w 16 8 = 0 then 256 else bits w 16 8, row := bits w 24 8, at_ := 0
    base := wordAt l 8, lo := numAt l 16 4, hi := numAt l 20 4, str := numAt l 24 4, sstr := numAt l 28 4, scl := wordAt l 32
    idxo := wordAt l 40, fm := bits w 32 8, fz := bits w 40 1 == 1, mark := bits w 41 1 == 1, ahead := 0, grans := [] }
/-- A call from its record, with what it has in progress; its words are those of its routine on the core that goes on with
it. -/
def readCall (l : List Nat) : Option (Call × List Uop) :=
  let w := wordAt l 0
  let seq := bits w 8 8
  if bits w 63 1 = 0 then none
  else some ({
      rout := bits w 0 8, seq := seq, q := (List.range 8).map fun i => (i, BitVec.ofNat 64 (wordAt l (8 + 8 * i)))
      owned := (List.range 12).filter fun t => bits w (32 + t) 1 == 1, words := [], idx := bits w 16 16
      loops := (List.range 4).flatMap fun i =>
        let e := wordAt l (72 + 8 * i)
        if bits e 63 1 = 1 then [(bits e 32 31, bits e 0 32)] else []
      fbar := bits w 48 5, opId := 0, after := [], startAt := 0, hide := [] },
    (List.range 3).filterMap fun i => readUop seq ((l.drop (104 + 48 * i)).take 48))
/-- The accumulators from the ACC section. -/
def readAcc (l : List Nat) : Acc :=
  let row := fun (r : Nat) =>
    let a := (l.drop (2048 * r)).take 2048
    let inv := numAt l (786432 + 16 * r) 16
    (List.range 128).map fun j => (⟨sInt 128 (numAt a (16 * j) 16), inv.testBit j⟩ : AccEl)
  let g := fun (t : Nat) => wordAt l (786432 + 6144 + 8 * t)
  ⟨(List.range 384).map fun r => (r, row r),
   (List.range 12).map fun t => (t, sInt 11 (bits (g t) 0 11)), (List.range 12).map fun t => (t, bits (g t) 11 1 == 1)⟩
/-- The matrix engine from the ACC section: its dispatch clock stands where no wait of a row is left over. -/
def readMatrix (l : List Nat) : Matrix :=
  let a := l.drop (786432 + 6144 + 128)
  let calls := (List.range 4).filterMap fun i => readCall ((a.drop (2 * 34880 + 256 * i)).take 256)
  { Matrix.reset with
    calls := calls.map (·.1), active := readLatch (a.take 34880), shadow := readLatch ((a.drop 34880).take 34880)
    next := (calls.getLast?.elim 0 fun k => k.1.seq + 1) % 256
    uops := (calls.flatMap (·.2)).map fun u => { u with at_ := 256 - u.cycles }
    clock := 256 }
/-- The bytes of SPM that an image holds and are not 0, by offset, and its EMPTY words. -/
def readSpm (l : List Nat) (d b : Nat) : List Host.Cell × List Nat :=
  let s := l.drop 89344
  let tail := s.drop (d + d / 64)
  let cell := fun (o v : Nat) => if v = 0 then [] else [((o, BitVec.ofNat 8 v) : Host.Cell)]
  let tags := fun (o n : Nat) (t : List Nat) => (List.range n).flatMap fun i =>
    if bits (t.getD (i / 8) 0) (i % 8) 1 = 1 then [] else [o / 8 + i]
  (((List.range d).zip (s.take d)).flatMap (fun e => cell e.1 e.2)
      ++ ((List.range 768).zip (tail.take 768)).flatMap (fun e => if b + e.1 < d then [] else cell (b + e.1) e.2),
    tags 0 (d / 8) (s.drop d) ++ (tags b 96 (tail.drop 768)).filter fun t => decide (d ≤ 8 * t))
/-- The image whose plaintext is `l` under a header (R383, R384). -/
def readImage (header tag l : List Nat) : Image :=
  let w5 := wordAt header 40
  let part := bits (wordAt header 0) 12 4
  let node := bits w5 48 16
  let mode := bits w5 24 2
  let d := saveBytes (bits w5 16 7)
  let b := bits (wordAt l (8192 + 0x108)) 9 11 * 512
  let spm := readSpm l d b
  let rs := (replayEntries l).filterMap (readReplay mode)
  let q := l.drop (62464 + 256)
  let ctxs := (List.range 16).map fun x => (x, { readCtx l rs x with dep := ⟨[], readFence q x⟩ })
  let acc := l.drop (89344 + d + d / 64 + 832)
  let j := wordAt l (8192 + 0x110)
  ⟨header, tag,
   { Core.reset with
     ctxs := ctxs
     v := (List.range 64).map fun n => (n, BitVec.ofNat 2048 (numAt l (9216 + 256 * n) 256))
     m := (List.range 8).map fun n => (n, BitVec.ofNat 64 (wordAt l (8192 + 0x0C0 + 8 * n)))
     ident := { CoreIdent.reset with mode := mode, pl := bits (wordAt l (8192 + 0x100)) 8 1 == 1 }
     csr := { CoreCsr.reset with barbase := b / 512 }
     fetch := readFetch l
     trig := readTrigs q
     arrq := (List.range 64).filterMap fun i => readArrival ((q.drop (2560 + 6144 + 24 * i)).take 24)
     streams := (List.range 8).map fun n => (n, readStream l ⟨spm.1⟩ n)
     mx := readMatrix acc
     acc := readAcc acc
     sync := { Core.reset.sync with member := bits j 5 1 == 1, pendJ := bits j 6 1 == 1 }
     stat := { Core.reset.stat with handler := mode == 0 && (ctxs.head?.elim false fun e => e.2.cap.isSome), stopped := true } },
   spm.1, spm.2, (List.range 128).filterMap fun i => readCmd part node ((q.drop (2560 + 48 * i)).take 48), readChord l node⟩

/-! ### Numbers for what an image holds -/

/-- How many operation numbers a restored image may take. -/
def imageOps : Nat := 512
/-- Operations that an image names by no number take numbers from n on: triggers, calls and entries of streams. -/
def Core.number (k : Core) (n : Nat) : Core :=
  let own := fun (i j : Nat) => if i = 0 then j else i
  let calls := (List.range k.mx.calls.length).zip k.mx.calls |>.map fun e =>
    { e.2 with opId := own e.2.opId (n + 64 + e.1), words := if e.2.words.isEmpty then (k.prog.routine e.2.rout).map (BitVec.ofNat 64) else e.2.words }
  { k with
    trig := k.trig.map fun e =>
      (e.1, if e.2.opId = 0 then { e.2 with opId := n + e.2.metAt, after := e.2.after.map (n + ·) } else e.2)
    mx := { k.mx with calls := calls }
    streams := k.streams.map fun e => (e.1, { e.2 with
      unwritten := (List.range e.2.unwritten.length).zip e.2.unwritten |>.map fun u =>
        { u.2 with opId := own u.2.opId (n + 256 + 8 * e.1 + u.1) } })
    ctxs := k.ctxs.map fun e => (e.1, { e.2 with
      dep := { fence := if k.trig.any (fun t => t.2.opId == 0) then e.2.dep.fence.map (n + ·) else e.2.dep.fence, ops :=
        ((k.trig.filter fun t => t.2.opId == 0 && t.2.ctx == e.1).map fun t => n + t.2.metAt)
          ++ (if e.1 = 0 then (calls.filter fun m => decide (n ≤ m.opId)).map (·.opId) else []) ++ e.2.dep.ops } }) }
/-- The numbers from n on that a core's calls and stream entries have. -/
def Core.numbered (k : Core) (n : Nat) : List Nat :=
  ((k.mx.calls.map (·.opId)) ++ k.streams.flatMap fun t => t.2.unwritten.map (·.opId)).filter fun i => decide (n ≤ i)
/-- Operations of a restored core that have no number take one. -/
def State.numberCore (s : State) (c : Nat) : State :=
  let n := s.net.nextOp
  let s := s.modCore c fun k => k.number n
  { s with net := { s.net with nextOp := n + imageOps, live := (s.core c).numbered n ++ s.net.live } }
/-- A saved command enters the buffer of a restored core, with a number if it has none. -/
def State.addSaved (s : State) (c : Nat) (m : Cmd) : State :=
  let now := s.clk.cycle
  let x : Nat × State := if m.opId = 0 then s.ctxOp c m.by_.ctx false else (m.opId, s)
  x.2.addCmd { m with opId := x.1, by_ := { m.by_ with core := some c, cluster := clusterOf c, die := dieOf c },
                      enterAt := now + 1, phase := 0 }

end Sys2Proof.Machine
end

