-- ==== Sys2Proof/Machine/Image.lean ====
section
/-! DEFINITION. Pre-emption and context images: the PREEMPT register (R379), the stop and the drain (R381), saving and
restoring (R382, R385). -/

namespace Sys2Proof.Machine

/-! ### PREEMPT (R379) -/

/-- A table write is refused (R322, R323). -/
def State.refuse (s : State) (pkg part code idx : Nat) : State :=
  s.modPart pkg part fun k => { k with tbl := ⟨true, min 65535 (k.tbl.count + 1), idx % 65536, code⟩ }
/-- A PREEMPT write is refused: REFUSED is set, and TBLSTAT of the partition whose graph holds the node (R379). -/
def State.refusePreempt (s : State) (die node : Nat) : State :=
  let s := s.modRegs die fun r => { r with refused := true }
  match s.graphPart die node with
  | some part => s.refuse (die / 4) part 11 node
  | none => s
/-- The window reaches PREEMPT for the node (R400): the hypervisor's, or that of the node's partition. -/
def State.reachesNode (s : State) (who die node : Nat) : Bool :=
  decide (die < packages * 4) && s.hasWindow (die / 4) who && (who == hypervisor || s.graphPart die node == some who)
/-- A write with GO = 1 (R379): where it is accepted the operation starts. -/
def State.preemptGo (s : State) (die op base node : Nat) (start : State → State) : State :=
  let r := (s.die die).sched.regs
  let e := s.nodeEnt die node
  let pkg := die / 4
  let noKey := op != 2 && s.protectedPart pkg e.part && (s.part pkg e.part).sec.ks.isNone
  if r.go || noKey || e.state != (if op = 2 then 6 else 3) then s.refusePreempt die node
  else
    let now := s.clk.cycle
    start (s.modRegs die fun r =>
      { r with go := true, done := false, fail := false, refused := false, op := op, ctxbase := base % 4096,
               node := node % 4096, t0 := now, phase := 1, runOp := op, runBase := base % 4096, runNode := node % 4096 })
/-- The operation ends (R381). -/
def State.preemptEnd (s : State) (die : Nat) (fail : Bool) : State :=
  s.modRegs die fun r => { r with go := false, done := true, fail := fail, phase := 0 }
/-- PREEMPT_REQUEUE (R379): OP 0. -/
def execPreemptRequeue (s : State) : Out :=
  let who := s.arg 0
  let die := s.arg 1
  let ctxbase := s.arg 2
  let node := s.arg 3
  .next (if s.reachesNode who die node then s.preemptGo die 0 ctxbase node id else s)
/-- PREEMPT_PARK (R379): OP 1. -/
def execPreemptPark (s : State) : Out :=
  let who := s.arg 0
  let die := s.arg 1
  let ctxbase := s.arg 2
  let node := s.arg 3
  .next (if s.reachesNode who die node then s.preemptGo die 1 ctxbase node id else s)
/-- PREEMPT_RESUME (R379, R382): OP 2, a parked node is ready again; its images begin at the entry named. -/
def execPreemptResume (s : State) : Out :=
  let who := s.arg 0
  let die := s.arg 1
  let ctxbase := s.arg 2
  let node := s.arg 3
  .next (if s.reachesNode who die node then
      s.preemptGo die 2 ctxbase node fun s =>
        let s := s.modSched die fun k => { k with saved := match Tab.find k.saved node with
          | some (_, p) => Tab.set k.saved node (ctxbase % 4096, p)
          | none => k.saved }
        (s.readyNode die node).preemptEnd die false
    else s)

/-! ### The stop (R247, R381) -/

/-- Places of the cores that have not left a placement. -/
def Placed.places (p : Placed) : List Nat := (List.range p.cores.length).filter fun i => !p.gone.contains i
/-- The cores that have not left a placement. -/
def Placed.live (p : Placed) : List Nat := p.places.map fun i => p.cores.getD i 0
/-- The waits of a context are abandoned. -/
def Ctx.dropWaits (t : Ctx) : Ctx := { t with run := { t.run with waits := [] } }
/-- A core stops at a bundle boundary (R381): its waits are abandoned, its SYNC arrival withdrawn, its results in flight
captured as a trap captures them (R374), and its fetched lines discarded (R196). -/
def Core.stopForSave (k : Core) : Core :=
  { k with
    ctxs := k.ctxs.map fun e => (e.1, { e.2.dropWaits with
      inflight := captured k.ident.mode e.2.inflight
      pend := e.2.pend.map fun p => { p with lines := [] }
      cap := e.2.cap.map fun (g : Capture) => { g with pend := g.pend.map fun p => { p with lines := [] } }
      tb := e.2.tb.map fun t => (t.1, { t.2 with lines := [] }) })
    fetch := { k.fetch with lines := [], queue := k.fetch.queue.map fun b => { b with line := 0 }
                            notes := k.fetch.notes.map fun n => { n with target := n.target.map fun t => (t.1, []) } }
    sync := { k.sync with arrived := none, go := none }
    stat := { k.stat with stopped := true } }
/-- The stores of their bundle that operations of a core still do not see (R218, R256). -/
def hidesNow (w : Tab Nat) (c : Nat) (l : List Hidden) : List Hidden := l.filter fun e => Tab.get 0 w (spmAddr c e.off) == e.at_
/-- A core's calls and streams keep what they still do not see. -/
def Core.keepHides (k : Core) (w : Tab Nat) (c : Nat) : Core :=
  { k with mx := { k.mx with calls := k.mx.calls.map fun m => { m with hide := hidesNow w c m.hide } }
           streams := k.streams.map fun t => (t.1, { t.2 with hide := hidesNow w c t.2.hide }) }
/-- The core stops: its matrix engine at a K step (R247), a SLOTLD with its table loaded (R339), and in an exposed mode what
became visible at this boundary is in flight again (R381). -/
def State.stopCore (s : State) (c : Nat) : State :=
  let s := (s.core c).slotRun.elim (s.stopMatrix c) fun r => (s.stopMatrix c).slotEnd c r
  (((s.core c).ctxs.map (·.1)).foldl (fun (s : State) x => s.reflight c x) s).modCore c fun k =>
    (k.keepHides s.watch c).stopForSave
/-- The commands of a node that are not released leave the buffers (R275, R381). -/
def State.pullCmds (s : State) (cls : List Nat) (mine : Cmd → Bool) : State × List Cmd :=
  cls.foldl (fun (x : State × List Cmd) cl =>
    let b := (x.1.cluster cl).bte
    (x.1.modCluster cl fun k =>
        { k with bte := { k.bte with coming := k.bte.coming.filter (fun m => !mine m), buffer := k.bte.buffer.filter (fun m => !mine m) } },
      x.2 ++ (b.buffer ++ b.coming).filter mine)) (s, [])
/-- A command was issued for a placement: by one of its cores, or from its list. -/
def ownCmd (p : Placed) (node : Nat) (m : Cmd) : Bool :=
  match m.by_.core with
  | some c => p.live.contains c
  | none => p.cores.isEmpty && m.by_.node == node
/-- Every core of the node stops, and its Chords multicast nothing (R381). -/
def State.stopForSave (s : State) (die idx : Nat) (p : Placed) : State :=
  let node := s.nodeId die idx
  let now := s.clk.cycle
  let s := p.live.foldl (fun (s : State) c => s.stopCore c) s
  let s := if nodeKind p.words = 0 then
      p.clusters.foldl (fun (s : State) cl => s.modChord cl fun h => { h with stopped := true, lines := [] }) s
    else s
  let s := match p.line with
    | some l => s.modDomain (die / 4) l fun d => { d with isOpen := false }
    | none => s
  let cls := if p.cores.isEmpty then s.partClusters die (s.nodeEnt die idx).part else p.clusters
  let pulled := s.pullCmds cls (ownCmd p node)
  let r := (pulled.1, pulled.2.map fun (m : Cmd) =>
    { m with by_ := { m.by_ with hide := m.by_.core.elim [] fun c => hidesNow s.watch c m.by_.hide } })
  (r.1.modSched die fun k => { k with placed := Tab.set k.placed idx { p with held := r.2 } }).modRegs die fun g =>
    { g with phase := 2, t0 := now }
/-- PREEMPT_STOP (R21, R381): the node stops, unless it has completed. One whose code is being copied starts first; one
that is stopped for good completes first. -/
def execPreemptStop (s : State) : Out :=
  let die := s.arg 0
  .next (
    let r := (s.die die).sched.regs
    if r.phase ≠ 1 then s
    else match Tab.find (s.die die).sched.placed r.runNode with
      | none => s.preemptEnd die false
      | some p =>
        if p.bad then s
        else if p.copying then
          (s.nextEvent .preemptStop [die]).nextEvent (if p.ring then .imageRestore else .codeCopyComplete) [die, r.runNode]
        else s.stopForSave die r.runNode p)

/-! ### The drain (R381) -/

/-- Operations that a stopped placement still waits for (R381): what its cores have released, what its list has. -/
def State.draining (s : State) (die idx : Nat) (p : Placed) : Bool :=
  if p.cores.isEmpty then
    p.ring || p.ops.any fun o => s.net.live.contains o && !p.held.any fun m => m.opId == o
  else p.live.any fun c =>
    !(s.core c).fab.isEmpty || ((s.cluster (clusterOf c)).bte.slots.any fun e => e.2.by_.core == some c)
      || ((s.die (dieOf c)).se.any fun m => m.by_.core == some c) || (s.nodeEnt die idx).state != 3
/-- The operations of a set of cores or of a node's list that still run are abandoned with code 9 (R381). -/
def State.abandon (s : State) (die idx : Nat) (p : Placed) : State :=
  let node := s.nodeId die idx
  let cls := if p.cores.isEmpty then s.partClusters die (s.nodeEnt die idx).part else p.clusters
  let mineBy := fun (b : Issuer) => match b.core with
    | some c => p.live.contains c
    | none => p.cores.isEmpty && b.node == node
  let s := cls.foldl (fun (s : State) cl =>
    ((s.cluster cl).bte.slots.filter fun e => mineBy e.2.by_).foldl (fun (s : State) e => s.failCmd cl e.1 e.2 9 e.2.dst) s) s
  let dies := (List.range 4).map (die / 4 * 4 + ·)
  let s := dies.foldl (fun (s : State) d =>
    let l := (s.die d).se.filter fun m => mineBy m.by_
    let s := l.foldl (fun (s : State) m => (s.seStatus m true).failOp m.by_ 2 9 m.bar m.other m.opId) s
    s.modDie d fun k => { k with se := k.se.filter fun m => !mineBy m.by_ }) s
  (s.net.fops.filter fun e => mineBy e.2.by_ && e.2.kind != 7 && e.2.kind != 8).foldl
    (fun (s : State) e => s.failFop e.1 e.2 9 e.2.off) s
/-- The limit of a drain (R379): 0 acts as 1. -/
def State.drainLimit (s : State) (die : Nat) : Nat := max 1 (s.die die).sched.regs.drainlimit
/-- DRAIN_TIMEOUT (R381): what still runs at the limit is abandoned, for a pre-emption and for nodes stopped for good
(R206). -/
def execDrainTimeout (s : State) : Out :=
  let die := s.arg 0
  .next (
    let r := (s.die die).sched.regs
    let lim := s.drainLimit die
    let now := s.clk.cycle
    let s := match Tab.find (s.die die).sched.placed r.runNode with
      | some p => if r.phase = 2 ∧ lim ≤ now - r.t0 then s.abandon die r.runNode p else s
      | none => s
    ((s.die die).sched.placed.filter fun e => e.2.bad && decide (lim ≤ now - e.2.stopAt)).foldl
      (fun (s : State) e => s.abandon die e.1 e.2) s)

/-! ### Saving (R381, R385) -/

/-- The context-sealing key of a partition: that loaded, or for an ordinary partition one of the unit's own. -/
def State.sealKey (s : State) (pkg part : Nat) : Option (List Nat) :=
  if s.protectedPart pkg part then (s.part pkg part).sec.ks.map keyBytes
  else some (keyBytes (Config.ordinarySeal pkg part))
/-- K of R385. -/
def imageKey (ks : List Nat) (part ctxid : Nat) : List Nat := hmac ks (word8 (part * 2 ^ 16 + ctxid))
/-- The nonce of R385. -/
def imageNonce (ctxid ctr : Nat) : List Nat := leBytes 2 ctxid ++ leBytes 4 ctr ++ List.replicate 6 0
/-- Word w of a context-table entry. -/
def State.ctxEntry (s : State) (die i w : Nat) : Nat := (Tab.get 0 (s.die die).sched.ctxtab (i * 2 + w)).toNat
/-- SPMSZ and the context id of word 0. -/
def entSize (w : Nat) : Nat := bits w 48 7
def entId (w : Nat) : Nat := bits w 32 16
/-- The entry may take an image at all (R385). -/
def entryOk (i w0 w1 : Nat) : Bool :=
  decide (i < 4096) && bits w0 63 1 == 1 && decide (entSize w0 ≤ 64) && (spaceOf w1 == 4 || spaceOf w1 == 7)
/-- The saved bytes and tags of a core's SPM, by offset. -/
def State.spmCells (s : State) (c d : Nat) : List Host.Cell × List Nat :=
  let b := (s.core c).csr.barbase * 512
  let keep := fun (o : Nat) => decide (o < d) || (decide (b ≤ o) && decide (o < b + 768))
  let lo := spmAddr c 0
  (((s.mem.cells.filter fun e => decide (lo ≤ e.1) && decide (e.1 < lo + 2 ^ 20)).map fun e => (e.1 - lo, e.2)).filter
      fun e => keep e.1,
    ((s.tags.filter fun t => t / 131072 == c).map fun t => t % 131072).filter fun t => keep (8 * t))
/-- The snapshot that goes with an image. -/
def State.takeImage (s : State) (c d : Nat) (cmds : List Cmd) (header tag : List Nat) : Image :=
  let m := s.spmCells c d
  ⟨header, tag, s.core c, m.1, m.2, cmds, (s.cluster (clusterOf c)).chord⟩
/-- One image is written (R385): whether it was. A refusal's record names the image's address: only codes 10 to 12 name the
index (R386). -/
def State.saveOne (s : State) (die idx base : Nat) (p : Placed) (i : Nat) : State × Bool :=
  let pkg := die / 4
  let part := (s.nodeEnt die idx).part
  let c := p.cores.getD i 0
  let q := placeQ p.words i
  let n := base + q
  let w0 := s.ctxEntry die n 0
  let w1 := s.ctxEntry die n 1
  let cmds := p.held.filter fun m => m.by_.core == some c
  match s.sealKey pkg part with
  | none => (s.schedFault die idx 14 w1, false)
  | some ks =>
    if !entryOk n w0 w1 || w0 % 2 ^ 32 == 2 ^ 32 - 1 then (s.schedFault die idx 14 w1, false)
    else
      let ctr := w0 % 2 ^ 32 + 1
      let s := s.modSched die fun k => { k with ctxtab := Tab.set k.ctxtab (2 * n) (BitVec.ofNat 64 (w0 + 1)) }
      let d := saveBytes (entSize w0)
      let header := (headerWords ctr (entId w0) part (s.time pkg) (s.nodeId die idx) q (s.core c).ident.mode (entSize w0)).flatMap word8
      let e := gcmEnc (imageKey ks part (entId w0)) (imageNonce (entId w0) ctr) header (s.payload c d cmds)
      let r := s.engWriteAll (s.nodeIssuer die idx) w1 (header ++ e.1 ++ e.2) false
      match r.2 with
      | .error code => (r.1.schedFault die idx code w1, false)
      | .ok () => (r.1.modSched die fun k => { k with images := s.takeImage c d cmds header e.2 :: k.images }, true)
/-- The cores, clusters and sync line of a stopped node are free for others (R381). -/
def State.releasePlaced (s : State) (die idx : Nat) (p : Placed) : State :=
  let s := p.live.foldl (fun (s : State) c => s.freeCore c) s
  let s := if nodeKind p.words = 0 then
      (p.clusters.foldl (fun (s : State) cl => s.modChord cl fun _ => Chord.reset) s).openRouters p.clusters
    else s
  let s := match p.line with
    | some l => s.modPkg (die / 4) fun k => { k with domains := Tab.del k.domains l }
    | none => s
  s.modSched die fun k => { k with placed := Tab.del k.placed idx }
/-- IMAGE_SAVE (R381, R385): the images of a drained node are written and its cores released; the node is parked or
ready again, or completes in STATE 5 where an image was refused. A node that has meanwhile been stopped for good is not
saved (R206, R397): it completes in STATE 5. -/
def execImageSave (s : State) : Out :=
  let die := s.arg 0
  .next (s.unmet fun s =>
    let r := (s.die die).sched.regs
    if r.phase ≠ 2 then s
    else match Tab.find (s.die die).sched.placed r.runNode with
      | none => s.preemptEnd die ((s.nodeEnt die r.runNode).state == 5)
      | some p =>
        if p.bad || s.draining die r.runNode p then s
        else
          let x := p.places.foldl (fun (x : State × Bool) i =>
            let y := x.1.saveOne die r.runNode r.runBase p i
            (y.1, x.2 && y.2)) (s, true)
          if !x.2 then
            let gone := p.held.foldl (fun (s : State) m => s.endOp m.opId) x.1
            let freed := p.live.foldl (fun (s : State) c => (s.endCoreOps c).freeCore c) gone
            let freed := p.clusters.foldl (fun (s : State) cl =>
              if nodeKind p.words = 0 then s.modChord cl fun _ => Chord.reset else s) freed
            (freed.completeNode die r.runNode p.words true).preemptEnd die true
          else
            let s := (x.1.releasePlaced die r.runNode p).modSched die fun k =>
              { k with saved := Tab.set k.saved r.runNode (r.runBase, p) }
            let s := if r.runOp = 1 then s.modNode die r.runNode fun e => { e with state := 6 } else s.readyNode die r.runNode
            s.preemptEnd die false)

/-! ### Restoring (R382, R385) -/

/-- The snapshot of an image with this header and tag. -/
def State.findImage (s : State) (header tag : List Nat) : Option Image :=
  (s.dies.flatMap fun d => d.2.sched.images).find? fun i => i.header == header && i.tag == tag
/-- The header agrees with the entry and the device (R385). -/
def headerOk (h : List Nat) (part w0 : Nat) : Bool :=
  let w := fun (i : Nat) => leNum ((h.drop (8 * i)).take 8)
  let x := headerWords 0 (entId w0) part 0 0 0 0 (entSize w0)
  w 0 % 2 ^ 8 == 1 && bits (w 0) 12 4 == part && bits (w 0) 16 16 == entId w0 && bits (w 5) 16 7 == entSize w0
    && w 2 == x.getD 2 0 && w 3 == x.getD 3 0 && w 4 % 2 ^ 32 == x.getD 4 0
/-- The checks of a restore (R385): the image, or the code of the refusal. An image whose tag verifies is what its plaintext
says; where this network saved it, what stands beside its bytes says the same and more (log entry 18). -/
def State.checkImage (s : State) (die idx n : Nat) : State × Except Nat Image :=
  let pkg := die / 4
  let part := (s.nodeEnt die idx).part
  let w0 := s.ctxEntry die n 0
  let w1 := s.ctxEntry die n 1
  if !entryOk n w0 w1 then (s, .error 12)
  else
    let d := saveBytes (entSize w0)
    let size := 25600 + 36864 + 26880 + (d + d / 64 + 832) + 863488
    let r := s.engRead (s.nodeIssuer die idx) w1 (64 + size + 16)
    match r.2 with
    | .error c => (r.1, .error c)
    | .ok l =>
      let h := l.take 64
      let tag := (l.drop (64 + size)).take 16
      if !headerOk h part w0 then (r.1, .error 12)
      else if leNum (l.take 8) / 2 ^ 32 ≠ w0 % 2 ^ 32 then (r.1, .error 10)
      else match s.sealKey pkg part with
        | none => (r.1, .error 11)
        | some ks =>
          let k := imageKey ks part (entId w0)
          match gcmDec k (imageNonce (entId w0) (w0 % 2 ^ 32)) h ((l.drop 64).take size) tag with
          | some p => (r.1, .ok ((s.findImage h tag).getD (readImage h tag p)))
          | none => (r.1, .error 11)
/-- A context as restored (R382): target registers fetch their lines again and every wait begins afresh. -/
def Ctx.resume (t : Ctx) (now live lim : Nat) : Ctx :=
  { t with
    tb := (t.tb.filter fun e => e.2.state != 0).map fun e => (e.1, ⟨e.2.target, 1, now + 4, []⟩)
    pend := t.pend.map fun p => { p with lines := [] }
    cap := t.cap.map fun g => { g with pend := g.pend.map fun p => { p with lines := [] } }
    run := { t.run with
      readySince := now
      waits := match t.run.join with
        | some _ => [⟨19 * 16, joinTimeout, 0, 0, live, max 1 lim⟩]
        | none => [] } }
/-- The matrix engine as restored (R247): a WLD starts again. -/
def Matrix.resume (m old : Matrix) : Matrix :=
  { m with credit := old.credit, uops := m.uops.map fun u => if u.kind = 1 then { u with at_ := m.clock, row := 0 } else { u with ahead := 0, grans := [] } }
/-- A core as restored: what the image holds, over the identity, TVEC, limits and microprogram of the placed core. -/
def Core.resume (old i : Core) (now : Nat) : Core :=
  { i with
    ctxs := i.ctxs.map fun e => (e.1, e.2.resume now i.stat.live old.csr.joinlimit)
    ident := { old.ident with mode := i.ident.mode, pl := i.ident.pl }
    csr := { old.csr with barbase := i.csr.barbase }
    fetch := { i.fetch with lines := [] }
    streams := i.streams.map fun e => (e.1, { e.2 with fetched := [], readyAt := now + 1 })
    mx := i.mx.resume old.mx
    prog := old.prog
    stat := { i.stat with stopped := false, frozen := false, credit := old.stat.credit } }
/-- SPM and its tags as restored (R384): what lies outside the saved ranges is 0 and FULL. -/
def State.restoreSpm (s : State) (c : Nat) (i : Image) : State :=
  let m := s.mem.zero (spmAddr c 0) (2 ^ 20)
  let s := { s with mem := i.spm.foldl (fun (m : Memory) e => m.write (spmAddr c e.1) e.2) m
                    tags := s.tags.filter fun t => t / 131072 != c }
  i.tags.foldl (fun (s : State) t => s.setTag c (8 * t) false) s
/-- The leader of a saved Chord, on the cluster it is restored to. -/
def leadIn (cl : Nat) (l : Option Nat) : Option Nat := l.map fun c => cl * 8 + c % 8
/-- Lines of the decode queue are fetched again (R382). -/
def State.refetchQueue (s : State) (c : Nat) : State :=
  let part := (s.core c).ident.part
  s.modCore c fun k =>
    { k with fetch := { k.fetch with queue := k.fetch.queue.map fun b =>
        { b with line := s.codeLine part (clusterOf c) b.addr, lead := leadIn (clusterOf c) b.lead } } }
/-- Triggers whose condition was met while the core was stopped fire again (R364). -/
def State.rearm (s : State) (c : Nat) : State :=
  let now := s.clk.cycle
  s.modCore c fun k =>
    { k with trig := k.trig.map fun e =>
        (e.1, if e.2.met (s.barWord s.mem c e.2.bar) then { e.2 with metAt := now + 1 } else { e.2 with metAt := 0 }) }
/-- The bytes that restored operations do not see are watched on their new core (R218, R256). -/
def State.rewatch (s : State) (c : Nat) (i : Image) : State :=
  let l := i.core.mx.calls.flatMap (·.hide) ++ i.core.streams.flatMap (fun t => t.2.hide) ++ i.cmds.flatMap (·.by_.hide)
  { s with watch := l.foldl (fun w e => Tab.set w (spmAddr c e.off) e.at_) s.watch }
/-- One core is loaded from its image: results with a remaining count of 1 are visible to its first bundle (R378, R382), and its commands re-enter the buffer with their issue times (R275, R382). -/
def State.loadImage (s : State) (c : Nat) (i : Image) : State :=
  let now := s.clk.cycle
  let s := ((s.restoreSpm c i).modCore c fun old => old.resume i.core now).numberCore c
  let s := s.rewatch c i
  let s := (s.refetchQueue c).rearm c
  let s := if (s.core c).ident.mode = 2 then s else s.matureNow c 0
  i.cmds.foldl (fun (s : State) m => s.addSaved c m) s
/-- The Chord of a cluster goes on as saved, with lines fetched afresh and its hold counted anew (R382). -/
def State.loadChord (s : State) (cl : Nat) (h : Chord) : State :=
  let w := match h.wait with
    | .none => ChordWait.none
    | .loop => .loop
    | .joinW _ _ _ _ => .none
  let k := (s.core (cl * 8)).ident
  s.modChord cl fun _ => { h with node := k.node, home := k.home, lines := [], lead := leadIn cl h.lead, stopped := false, frozen := false, wait := w, joined := none }
/-- IMAGE_RESTORE (R382, R385): every image of a placed node is checked, and then all are loaded in one cycle; a refusal
completes the node in STATE 5 and no core resumes. -/
def execImageRestore (s : State) : Out :=
  let die := s.arg 0
  let node := s.arg 1
  .next (s.unmet fun s => match Tab.find (s.die die).sched.placed node, Tab.find (s.die die).sched.saved node with
    | some p, some (base, _) =>
      if !p.copying || !p.ring then s
      else if p.bad then (s.freeCores p).completeNode die node p.words true
      else
        let x := p.places.foldl (fun (x : State × List (Nat × Image) × Bool) i =>
          let n := base + placeQ p.words i
          let y := x.1.checkImage die node n
          match y.2 with
          | .error c => (y.1.schedFault die node c (if c < 10 then s.ctxEntry die n 1 else n), x.2.1, false)
          | .ok im => (y.1, x.2.1 ++ [(p.cores.getD i 0, im)], x.2.2)) (s, [], true)
        if !x.2.2 then
          let s := (x.1.freeCores p).completeNode die node p.words true
          if (s.die die).sched.regs.runNode = node then s.modRegs die fun r => { r with fail := true } else s
        else
          let s := x.2.1.foldl (fun (s : State) e => s.loadImage e.1 e.2) x.1
          let s := if nodeKind p.words = 0 then
              p.clusters.foldl (fun (s : State) cl => match x.2.1.find? fun e => clusterOf e.1 == cl with
                | some e => s.loadChord cl e.2.chord
                | none => s) s
            else s
          s.modSched die fun k =>
            { k with placed := Tab.set k.placed node { p with copying := false, ring := false }, saved := Tab.del k.saved node }
    | some _, none => s
    | none, _ => s)

end Sys2Proof.Machine
end

