-- ==== Sys2Proof/Machine/Host.lean ====
section
/-! DEFINITION. The host's writes of tables and registers (R322 to R330, R340, R346, R349, R350, R365, R400), launches
(R402, R403), periodic samples (R366) and slot tables (R338). -/

namespace Sys2Proof.Machine

/-! ### Who may write (R400) -/

/-- The window reaches the tables of a partition of a package. -/
def State.reachesPart (s : State) (who pkg part : Nat) : Bool :=
  decide (pkg < packages) && decide (part < 16) && s.hasWindow pkg who && (who == hypervisor || who == part)
/-- The hypervisor's window reaches what belongs to no partition. -/
def reachesAll (who pkg : Nat) : Bool := decide (pkg < packages) && who == hypervisor
/-- A node of the partition is placed on some die of the package. -/
def State.hasPlaced (s : State) (pkg part : Nat) : Bool :=
  (List.range 4).any fun d =>
    (s.die (pkg * 4 + d)).sched.placed.any fun e => (s.nodeEnt (pkg * 4 + d) e.1).part == part

/-! ### Die table and windows (R324 to R327, R348) -/

/-- The partner of a die in a partition now shares its fault domain: its entry is no longer valid (R325, R348). -/
def State.checkPartner (s : State) (pkg part d : Nat) : State :=
  let die := pkg * 4 + d
  let e := (Tab.get 0 (s.die die).sched.partner part).toNat
  let l := e % 4096
  if bits e 63 1 = 1 ∧ (s.logicalDie pkg part l).isSome
      ∧ s.dieInDomain pkg part die (dieFdom (Tab.get 0 (s.pkg pkg).apex.dies (part * 4096 + l))) then
    s.modSched die fun k => { k with partner := Tab.set k.partner part (BitVec.ofNat 64 l) }
  else s
/-- DIE_TABLE_WRITE (R324, R325). Code 2 of R323 is a field of the entry: a nonzero reserved bit, with V or without, since no
rule names another (DESIGN CHOICE, log entry 96). -/
def execDieTableWrite (s : State) : Out :=
  let who := s.arg 0
  let pkg := s.arg 1
  let part := s.arg 2
  let idx := s.arg 3
  let val := s.arg 4 % 2 ^ 64
  .next (
    if !s.reachesPart who pkg part || decide (4096 ≤ idx) then s
    else if s.hasPlaced pkg part then s.refuse pkg part 1 idx
    else if bits val 48 15 ≠ 0 ∨ bits val 13 19 ≠ 0 then s.refuse pkg part 2 idx
    else
      let s := s.modApex pkg fun a => { a with dies := Tab.set a.dies (part * 4096 + idx) (BitVec.ofNat 64 val) }
      (List.range 4).foldl (fun s d => s.checkPartner pkg part d) s)
/-- The size of a window's target memory (R327). -/
def targetSize (space : Nat) : Nat := if space = 1 then 2 ^ 20 else if space = 2 then 2 ^ 24 else if space = 3 then 2 ^ 26 else 2 ^ 48
/-- A valid window entry has a field that R327 refuses. -/
def windowFieldBad (e : Nat) : Bool :=
  let w := entWord e 0
  let sp := bits w 52 4
  bits w 56 3 != 0 || bits w 51 1 != 0 || bits w 12 32 != 0 || bits (entWord e 3) 8 56 != 0
    || decide (sp = 0) || decide (4 < sp)
    || (decide (2 < sp) && bits w 47 4 != 0) || (sp != 1 && bits w 44 3 != 0)
    || decide (targetSize sp < entWord e 1 + entWord e 2)
/-- The reserved bits of a window entry, which read as zero (R4, R326). -/
def windowReserved : Nat := 7 * 2 ^ 56 + 2 ^ 51 + (2 ^ 44 - 2 ^ 12) + (2 ^ 64 - 2 ^ 8) * 2 ^ 192
/-- WINDOW_TABLE_WRITE (R326, R327): the four words as one unit; reserved bits of an entry with V = 0 are discarded (R4). -/
def execWindowTableWrite (s : State) : Out :=
  let who := s.arg 0
  let pkg := s.arg 1
  let part := s.arg 2
  let idx := s.arg 3
  let val := s.arg 4 % 2 ^ 256
  .next (
    if !s.reachesPart who pkg part || decide (1024 ≤ idx) then s
    else if bits val 63 1 = 1 ∧ windowFieldBad val then s.refuse pkg part 3 idx
    else s.modApex pkg fun a => { a with windows := Tab.set a.windows (part * 1024 + idx) (BitVec.ofNat 256 val &&& ~~~BitVec.ofNat 256 windowReserved) })

/-! ### Reduction windows and rank maps (R328 to R330) -/

/-- FMT, CFMT, OUT and MODE form an accepted combination (R329). -/
def combinationOk (fmt cfmt out mode : Nat) : Bool :=
  match fmt with
  | 0 => cfmt == 0 && out == 0 && decide (mode ≤ 1)
  | 1 => cfmt == 1 && decide (out ≤ 1) && decide (mode ≤ 1)
  | 2 => cfmt == 2 && out == 2 && decide (mode ≤ 1)
  | _ => decide (cfmt ≤ 1) && decide (out ≤ 1) && mode == 2
/-- A field of a valid entry lies outside its range (R329). -/
def RedWin.fieldBad (r : RedWin) : Bool :=
  r.n == 0 || decide (4096 < r.n) || !combinationOk r.fmt r.cfmt r.out r.mode || decide (2 < r.op)
    || decide (r.radix < 2) || decide (16 < r.radix) || r.len == 0 || decide (256 < r.len)
    || decide (256 < r.len * redBytes r.cfmt) || spaceOf r.w2.toNat != 6
/-- Reserved bits of words 0 to 7 of an entry (R328). -/
def redReserved (word val : Nat) : Nat :=
  if word = 0 then val % 2 ^ 9 else if word = 1 then val / 2 ^ 48 else if word = 3 then bits val 48 8
  else if word ≤ 4 then 0 else val
/-- The entry after a word is written: ERR is cleared by 1, and reserved bits read 0 (R3, R328). -/
def RedWin.writeWord (r : RedWin) (word val : Nat) : RedWin :=
  let err := bits r.w0.toNat 58 1 * (1 - bits val 58 1)
  match word with
  | 0 => { r with w0 := BitVec.ofNat 64 (val / 2 ^ 59 * 2 ^ 59 + err * 2 ^ 58 + val % 2 ^ 58 / 2 ^ 9 * 2 ^ 9) }
  | 1 => { r with w1 := BitVec.ofNat 64 (val % 2 ^ 48) }
  | 2 => { r with w2 := BitVec.ofNat 64 val }
  | 3 => { r with w3 := BitVec.ofNat 64 (val / 2 ^ 56 * 2 ^ 56 + val % 2 ^ 48) }
  | _ => r
/-- The rank map of a window is a permutation of its ranks (R330). -/
def State.rankMapOk (s : State) (pkg : Nat) (r : RedWin) : Bool :=
  let base := bits r.w1.toNat 32 16
  let l := (List.range r.n).map fun i => Tab.get 0 (s.pkg pkg).apex.rankmap (base + i) % 4096
  decide (base + r.n ≤ 65536) && distinct l && l.all fun x => decide (x < r.n)
/-- LATE and ROUND are written, or held while a round is open (R329). -/
def State.writeRound (s : State) (pkg win val : Nat) : State :=
  let late := val / 2 ^ 32
  let round := val % 2 ^ 32
  if (s.round pkg win).isOpen then
    s.modRedWin pkg win fun r => { r with heldLate := some late, heldRound := some round }
  else s.modRedWin pkg win fun r => { r with late := late, round := round }
/-- The window reaches a reduction window: the hypervisor's, or that of the partition that owns it before and after. -/
def State.reachesRedWin (s : State) (who pkg win : Nat) (new : RedWin) : Bool :=
  decide (pkg < packages) && decide (win < 256) && s.hasWindow pkg who
    && (who == hypervisor || ((s.redWin pkg win).part == who && new.part == who))
/-- REDUCTION_WINDOW_WRITE (R328 to R330). -/
def execReductionWindowWrite (s : State) : Out :=
  let who := s.arg 0
  let pkg := s.arg 1
  let win := s.arg 2
  let word := s.arg 3
  let val := s.arg 4 % 2 ^ 64
  .next (
    let old := s.redWin pkg win
    let new := old.writeWord word val
    let part := if old.valid then old.part else new.part
    if !s.reachesRedWin who pkg win new || decide (8 ≤ word) then s
    else if word ≤ 3 ∧ old.valid ∧ (s.round pkg win).isOpen then s.refuse pkg part 4 win
    else if new.valid && (redReserved word val != 0 || new.fieldBad) then s.refuse pkg part 5 win
    else if !old.valid && new.valid && bits new.w0.toNat 57 1 == 0 && !s.rankMapOk pkg new then s.refuse pkg part 6 win
    else if word = 4 then s.writeRound pkg win val
    else s.modRedWin pkg win fun _ => new)
/-- The valid window without an identity map whose rank map holds an entry (R330). -/
def Apex.mapHolder (a : Apex) (idx : Nat) : Option RedWin :=
  (a.redwins.find? fun e =>
    let r := e.2
    let base := bits r.w1.toNat 32 16
    r.valid && bits r.w0.toNat 57 1 == 0 && decide (base ≤ idx) && decide (idx < base + r.n)).map (·.2)
/-- RANK_MAP_WRITE (R330). -/
def execRankMapWrite (s : State) : Out :=
  let who := s.arg 0
  let pkg := s.arg 1
  let idx := s.arg 2
  let val := s.arg 3
  .next (
    if !reachesAll who pkg || decide (65536 ≤ idx) then s
    else match (s.pkg pkg).apex.mapHolder idx with
      | some r => s.refuse pkg r.part 6 idx
      | none => s.modApex pkg fun a => { a with rankmap := Tab.set a.rankmap idx (val % 4096) })

/-! ### Graph, context and key tables (R340, R346, R349) -/

/-- PART, FIRST and COUNT of a graph-table entry (R340). -/
def graphPartOf (e : Nat) : Nat := bits e 59 4
def graphFirst (e : Nat) : Nat := bits e 32 12
def graphCount (e : Nat) : Nat := bits e 12 13
/-- Two graphs share a descriptor. -/
def graphsOverlap (a b : Nat) : Bool :=
  decide (graphFirst a < graphFirst b + graphCount b) && decide (graphFirst b < graphFirst a + graphCount a)
/-- The entry breaks the limits of R340, valid or not, or is valid and overlaps another valid graph of the die. Nonzero reserved bits count as
such a limit, whatever V is (DESIGN CHOICE, log entry 110). -/
def State.graphBad (s : State) (die idx val : Nat) : Bool :=
  bits val 44 15 != 0 || bits val 25 7 != 0 || val % 2 ^ 12 != 0 || graphCount val == 0 || decide (4096 < graphCount val)
    || decide (4096 < graphFirst val + graphCount val)
    || (bits val 63 1 == 1
      && (s.die die).sched.graphs.any fun e => e.1 != idx && e.2.getLsbD 63 && graphsOverlap val e.2.toNat)
/-- GRAPH_TABLE_WRITE (R340). -/
def execGraphTableWrite (s : State) : Out :=
  let who := s.arg 0
  let die := s.arg 1
  let idx := s.arg 2
  let val := s.arg 3 % 2 ^ 64
  .next (
    let old := (Tab.get 0 (s.die die).sched.graphs idx).toNat
    let mine := who == hypervisor || (graphPartOf val == who && (bits old 63 1 == 0 || graphPartOf old == who))
    if !decide (die < packages * 4) || !s.hasWindow (die / 4) who || decide (256 ≤ idx) || !mine then s
    else if s.graphBad die idx val then s.refuse (die / 4) (graphPartOf val) 7 idx
    else
      let w := bits val 59 5 * 2 ^ 59 + graphFirst val * 2 ^ 32 + graphCount val * 2 ^ 12
      s.modSched die fun k => { k with graphs := Tab.set k.graphs idx (BitVec.ofNat 64 w) })
/-- The window reaches a context-table entry for a partition (R400): the hypervisor's reaches all, a partition's those that
are its own or no one's (log entry 44). -/
def State.reachesCtx (s : State) (who die part idx : Nat) : Bool :=
  s.reachesPart who (die / 4) part
    && (who == hypervisor || (Tab.find (s.die die).sched.ctxown idx).elim true (· == part))
/-- CONTEXT_TABLE_WRITE (R349, R383): of an entry for a partition, where a refusal is recorded. -/
def execContextTableWrite (s : State) : Out :=
  let who := s.arg 0
  let die := s.arg 1
  let idx := s.arg 2
  let word := s.arg 3
  let val := s.arg 4 % 2 ^ 64
  let part := s.arg 5
  .next (
    let old := s.ctxEntry die idx 0
    if !s.reachesCtx who die part idx || decide (4096 ≤ idx) || decide (2 ≤ word) then s
    else if word = 0 ∧ (val % 2 ^ 32 ≠ old % 2 ^ 32 ∨ 64 < entSize val) then s.refuse (die / 4) part 8 idx
    else
      let w := if word = 0 then bits val 63 1 * 2 ^ 63 + val % 2 ^ 55 else val
      s.modSched die fun k =>
        { k with ctxtab := Tab.set k.ctxtab (2 * idx + word) (BitVec.ofNat 64 w), ctxown := Tab.set k.ctxown idx part })
/-- Some partition's current key of a die lies in a slot. -/
def State.slotInUse (s : State) (die slot : Nat) : Bool := (List.range 16).any fun n => ((s.die die).key n).cur == slot
/-- A key from the unit's random source enters a slot of a die (R388, R391). -/
def State.newKey (s : State) (die slot : Nat) : State :=
  let d := s.draw
  d.2.modDie die fun k => { k with keyslots := Tab.set k.keyslots slot (Config.randomKey d.1) }
/-- KEY_TABLE_WRITE (R346, R391): of word 0, which writes NXT as well, so that every accepted one makes a fresh key in slot
NXT; a write of word 1, which is reserved, is refused (log entry 45). -/
def execKeyTableWrite (s : State) : Out :=
  let who := s.arg 0
  let die := s.arg 1
  let part := s.arg 2
  let val := s.arg 3 % 2 ^ 64
  .next (
    let k := (s.die die).key part
    let cur := bits val 48 8
    let nxt := bits val 40 8
    let sweep := bits val 63 1 == 1
    let word := s.arg 4
    if !decide (die < packages * 4) || !s.reachesPart who (die / 4) part then s
    else if word != 0 || k.sweep || bits val 0 38 != k.ptr || decide (32 ≤ cur) || decide (32 ≤ nxt)
        || s.slotInUse die nxt || nxt == cur then s.refuse (die / 4) part 9 part
    else (s.modKey die part fun _ => ⟨sweep, cur, nxt, if sweep then 0 else k.ptr⟩).newKey die nxt)
/-- SWEEP_REKEY (R391). -/
def execSweepRekey (s : State) : Out :=
  let die := s.arg 0
  let part := s.arg 1
  .next (s.sweepStep die part)

/-! ### The dead-peer bitmap, the fault queue and the monitors (R350, R365, R366, R386) -/

/-- DEAD_PEER_CLEAR (R350): the bits written as 1. -/
def execDeadPeerClear (s : State) : Out :=
  let who := s.arg 0
  let pkg := s.arg 1
  let word := s.arg 2
  let val := s.arg 3
  .next (
    if reachesAll who pkg && decide (word < 32) then
      s.modApex pkg fun a => { a with dead := Tab.upd 0 a.dead word fun w => w &&& ~~~(BitVec.ofNat 64 val) }
    else s)
/-- EFQ_POP (R386): a write of 1 to EFQSTAT bit 63. -/
def execEfqPop (s : State) : Out :=
  let who := s.arg 0
  let die := s.arg 1
  let val := s.arg 2
  .next (
    if reachesAll who (die / 4) && bits val 63 1 == 1 then s.modDie die fun k => { k with efq := k.efq.drop 1 } else s)
/-- MONOWN_WRITE (R365): monitors whose owner changes stop with their record cleared. -/
def execMonownWrite (s : State) : Out :=
  let who := s.arg 0
  let die := s.arg 1
  let val := s.arg 2
  .next (
    if !reachesAll who (die / 4) then s
    else s.modDie die fun k =>
      { k with monown := BitVec.ofNat 64 val
               mons := k.mons.filter fun e => k.monOwner e.1 == bits val (4 * e.1) 4 })
/-- The attached cores of a die that a monitor on CHORD_DRIFT covers. -/
def State.driftCores (s : State) (die part cfg : Nat) : List Nat :=
  ((List.range 16).filter fun i => bits cfg 55 1 == 1 || bits cfg 44 4 == i).flatMap fun i =>
    (coresOf (die * 16 + i)).filter fun c =>
      let k := (s.core c).ident
      k.mode == 0 && k.placed && k.part == part
/-- MONITOR_PERIODIC_SAMPLE (R366): SRC 6 to 8 every 256 cycles, SRC 11 every 2^20; of the records and ready nodes those of
the monitor's owner (R365; log entry 71). -/
def execMonitorPeriodicSample (s : State) : Out :=
  let die := s.arg 0
  let mon := s.arg 1
  .next (
    let d := s.die die
    let m := Tab.get Mon.reset d.mons mon
    let w := m.cfg.toNat
    let src := bits w 56 6
    let t := s.time (die / 4)
    let put := fun (s : State) (l : List Nat) =>
      s.modDie die fun k => { k with mons := Tab.upd Mon.reset k.mons mon fun m => l.foldl Mon.sample m }
    if w = 0 then s
    else if src = 6 ∧ t % 256 = 0 then
      put s ((s.driftCores die (d.monOwner mon) w).map fun c => (s.core c).fetch.queue.length)
    else if src = 7 ∧ t % 256 = 0 then
      put s [(d.sched.pool.filter fun e => e.r.node / 4096 == d.monOwner mon).length]
    else if src = 8 ∧ t % 256 = 0 then
      put s [(d.sched.tdt.filter fun e => e.2.state == 2 && e.2.part == d.monOwner mon).length]
    else if src = 11 ∧ t % 2 ^ 20 = 0 then
      let c := s.draw
      put c.2 [Config.choice c.1]
    else s)
/-- SLOT_TABLE_EFFECT (R338): at the first cycle with TIME mod 256 = 0 after the load is complete. -/
def execSlotTableEffect (s : State) : Out :=
  let cl := s.arg 0
  .next (match (s.cluster cl).slotsNext with
    | none => s
    | some (at_, l) =>
      if at_ ≤ s.clk.cycle ∧ s.time (cl / 64) % 256 = 0 then
        let t : Tab (BitVec 32) := ((List.range 256).zip l).filter fun e => e.2 != 0
        s.modCluster cl fun k => { k with slots := t, slotsNext := none }
      else s)

/-! ### Launches (R343, R402, R403) -/

/-- The valid entries of a graph index: die and word. -/
def State.graphsAt (s : State) (pkg g : Nat) : List (Nat × Nat) :=
  (List.range 4).filterMap fun d =>
    let e := (Tab.get 0 (s.die (pkg * 4 + d)).sched.graphs g).toNat
    if bits e 63 1 = 1 then some (pkg * 4 + d, e) else none
/-- The nodes of a graph on a die. -/
def graphNodes (e : Nat) : List Nat := (List.range (graphCount e)).map (graphFirst e + ·)
/-- A node of the graph has been launched and has not completed (R403). -/
def State.graphRuns (s : State) (gs : List (Nat × Nat)) : Bool :=
  gs.any fun e => (graphNodes e.2).any fun i =>
    let st := (s.nodeEnt e.1 i).state
    st == 1 || st == 2 || st == 3 || st == 6
/-- A patch: die, word of the graph store, value; none where it is not accepted (R402, R403). -/
def patchAt (pkg : Nat) (gs : List (Nat × Nat)) (w0 w1 : Nat) : Option (Nat × Nat × Nat) :=
  match gs.find? fun e => e.1 == pkg * 4 + bits w0 16 2 with
  | none => none
  | some e =>
    let slot := bits w0 0 16
    if w0 / 2 ^ 18 ≠ 0 ∨ 16 * graphCount e.2 ≤ slot then none else some (e.1, 16 * graphFirst e.2 + slot, w1)
/-- A launch's node: STATE 1 with its predecessors to come, or ready (R343). -/
def State.launchNode (s : State) (die idx part seq : Nat) : State :=
  let l := s.descWords die idx
  let n := bits (wd l 0) 46 12
  let s := s.modSched die fun k => { k with saved := Tab.del k.saved idx, skipped := Tab.del k.skipped idx }
  let s := s.modNode die idx fun _ => { NodeEnt.reset with state := 1, count := n, epri := nodePri l, seq := seq, part := part }
  if n = 0 then s.readyNode die idx else s
/-- The result of a LAUNCH write is recorded. -/
def State.launchCode (s : State) (pkg part code : Nat) : State :=
  s.modPart pkg part fun k => { k with cnt := { k.cnt with launchCode := code } }
/-- The launch is accepted: patches in list order, SEQ, and every node of the graph (R343, R403). -/
def State.startGraph (s : State) (pkg part : Nat) (gs : List (Nat × Nat)) (ps : List (Nat × Nat × Nat)) : State :=
  let s := ps.foldl (fun (s : State) p =>
    s.modSched p.1 fun k => { k with store := Tab.set k.store p.2.1 (BitVec.ofNat 64 p.2.2) }) s
  let seq := ((s.part pkg part).cnt.launchSeq + 1) % 2 ^ 32
  let s := s.modPart pkg part fun k => { k with cnt := { k.cnt with launchSeq := seq, launchCode := 0 } }
  gs.foldl (fun (s : State) e => (graphNodes e.2).foldl (fun (s : State) i => s.launchNode e.1 i part seq) s) s
/-- LAUNCH (R402, R403), through the window of a defined partition (R400): the checks in order; the first that fails sets
CODE. -/
def execLaunch (s : State) : Out :=
  let pkg := s.arg 0
  let part := s.arg 1
  let bytes := s.arg 2
  let val := s.arg 3
  .next (
    let gs := s.graphsAt pkg (bits val 56 8)
    let n := bits val 64 12
    let a := unitAddr 7 pkg (bits val 4 52 * 16)
    if packages ≤ pkg ∨ 16 ≤ part ∨ !s.hasWindow pkg part then s
    else if bytes ≠ 16 ∨ val / 2 ^ 76 ≠ 0 ∨ val % 16 ≠ 0 then s.launchCode pkg part 6
    else if gs.isEmpty || gs.any (fun e => graphPartOf e.2 != part) then s.launchCode pkg part 1
    else if !s.running pkg part then s.launchCode pkg part 3
    else if s.graphRuns gs then s.launchCode pkg part 2
    else
      let d := s.draw
      if n ≠ 0 ∧ Config.hostRefuses d.1 then d.2.launchCode pkg part 5
      else
        let ps := (List.range n).map fun i => patchAt pkg gs (s.mem.readN (a + 16 * i) 8) (s.mem.readN (a + 16 * i + 8) 8)
        if ps.any (·.isNone) then d.2.launchCode pkg part 4
        else d.2.startGraph pkg part gs (ps.filterMap id))

/-! ### Registers without behaviour of their own (R3, R4, R400) -/

/-- Change a partition's counters, if the window reaches it. -/
def State.partReg (s : State) (who pkg part : Nat) (f : Part → Part) : State :=
  if s.reachesPart who pkg part then s.modPart pkg part f else s
/-- The P-view registers of a core and of its contexts that can be written (R129). -/
def pViewRegs : List Nat := [0x801, 0x802, 0x803, 0x804, 0x810, 0x811, 0x812]
/-- A P-view register of a context of a core is written from outside, if the window reaches its cluster (R5, R400). -/
def State.coreReg (s : State) (who c x n v : Nat) : State :=
  if decide (c < packages * 512) && s.reachesCluster who (clusterOf c) && pViewRegs.contains n then
    s.writeCsr c x n (BitVec.ofNat 64 v)
  else s
/-- A multicast group entry with its reserved bits 0 (R298). -/
def groupWord (v : Nat) : Word := BitVec.ofNat 64 (bits v 46 18 * 2 ^ 46 + v % 2 ^ 16)
/-- The fields of PREEMPT that a write without GO sets (R3, R379). -/
def SchedRegs.fields (r : SchedRegs) (v : Nat) : SchedRegs :=
  { r with op := bits v 57 2, ctxbase := bits v 32 12, node := bits v 0 12 }
/-- Graph-store words are written through the window of the partition whose graph holds the descriptor (R340). -/
def State.storeWord (s : State) (who die idx val : Nat) : State :=
  if decide (die < packages * 4) && decide (idx < 65536) && s.hasWindow (die / 4) who
      && (who == hypervisor || s.graphPart die (idx / 16) == some who) then
    s.modSched die fun k => { k with store := Tab.set k.store idx (BitVec.ofNat 64 val) }
  else s
/-- Registers of a partition (an HBCFG that enables the heartbeat begins its period, log entry 98): 1 QADDR, 2 HBCFG, 3 NRBASE, 4 NRPTR, 5 NRVEC, 6 RDIG, 7 RDCNT, 8 FIM, 13 TBLSTAT. -/
def Part.write (p : Part) (reg val now : Nat) : Part :=
  match reg with
  | 1 => { p with sec := { p.sec with qaddr := BitVec.ofNat 64 val } }
  | 2 => { p with ctl := { p.ctl with period := val % 2 ^ 32, grace := val / 2 ^ 32, beatAt := if p.ctl.period = 0 then now else p.ctl.beatAt } }
  | 3 => { p with cnt := { p.cnt with nrbase := BitVec.ofNat 64 (bits val 63 1 * 2 ^ 63 + bits val 12 44 * 2 ^ 12 + val % 16) } }
  | 4 => { p with cnt := { p.cnt with head := val % 2 ^ 32 } }
  | 5 => { p with cnt := { p.cnt with nrvec := BitVec.ofNat 64 (val % 2 ^ 17) } }
  | 6 => { p with cnt := { p.cnt with rdig := val } }
  | 7 => { p with cnt := { p.cnt with rdcnt := val % 2 ^ 32 } }
  | 8 => { p with cnt := { p.cnt with fim := val } }
  | 13 => { p with tbl := { p.tbl with refused := p.tbl.refused && bits val 63 1 == 0 } }
  | _ => p
/-- Registers of a die or of a package that belong to no partition. -/
def State.plainReg (s : State) (who unit reg idx val : Nat) : State :=
  match reg with
  | 0 => if reachesAll who unit then s.modApex unit fun a => { a with peerLimit := val % 2 ^ 32 } else s
  | 10 => if reachesAll who (unit / 4) then s.modRegs unit fun r => { r with drainlimit := val % 2 ^ 32 } else s
  | 11 => if reachesAll who unit && decide (idx < 256) then
      s.modApex unit fun a => { a with groups := Tab.set a.groups idx (groupWord val) } else s
  | 12 => if reachesAll who unit && decide (idx < 65536) then
      s.modApex unit fun a => { a with members := Tab.set a.members idx (val % 65536) } else s
  | 16 => if reachesAll who (unit / 4) && bits val 63 1 == 0 then s.modRegs unit fun r => { r with csRefused := true } else s
  | _ => s
/-- REGISTER_WRITE (R3, R4, R298, R318, R323): by number, registers 1 to 8 and 13 of partition `idx` of package `unit`,
9 PTROOT of partition `idx` on die `unit`, 14 word `idx` of a graph store, 15 PREEMPT without GO or with OP 3, 17 the P-view
register `idx` mod 4096 of context `idx` div 4096 of core `unit`; else 0 PEERTIMEOUT, 10 DRAINLIMIT, 11 a group entry, 12 a
member entry, 16 CORESTART without GO, which changes nothing and sets REFUSED (R131). -/
def execRegisterWrite (s : State) : Out :=
  let who := s.arg 0
  let unit := s.arg 1
  let reg := s.arg 2
  let idx := s.arg 3
  let val := s.arg 4 % 2 ^ 64
  .next (
    let now := s.clk.cycle
    if (1 ≤ reg ∧ reg ≤ 8) ∨ reg = 13 then s.partReg who unit idx fun p => p.write reg val now
    else if reg = 9 then
      (if s.reachesPart who (unit / 4) idx then
        s.modDie unit fun k =>
          { k with ptroot := Tab.set k.ptroot idx (BitVec.ofNat 64 (bits val 63 1 * 2 ^ 63 + bits val 21 16 * 2 ^ 21)) }
      else s)
    else if reg = 14 then s.storeWord who unit idx val
    else if reg = 15 then
      (if !s.reachesNode who unit (bits val 0 12) then s
      else if bits val 63 1 = 1 then (if bits val 57 2 = 3 then s.refusePreempt unit (bits val 0 12) else s)
      else s.modRegs unit fun r => r.fields val)
    else if reg = 17 then s.coreReg who unit (idx / 4096) (idx % 4096) val
    else s.plainReg who unit reg idx val)

end Sys2Proof.Machine
end

