-- ==== Sys2Proof/Machine/Secure.lean ====
section
/-! DEFINITION. Ownership and partitions (R193, R387, R388, R398), attestation and keys (R393, R394), the heartbeat (R396,
R397), uncorrectable errors (R206), package reset (R193), islands (R409, R410) and port groups (R411). -/

namespace Sys2Proof.Machine

/-! ### Zeroing (R193) -/

/-- The clusters of quarter q of a package. -/
def quarterClusters (pkg q : Nat) : List Nat :=
  ((List.range 16).map (pkg * 64 + q / 4 * 16 + ·)).filter fun cl => quarterOf cl == q % 4
/-- A core's SPM, tags, accumulators, own microprogram and latches are as at reset; vendor words and entries stay (R193,
R224). -/
def State.zeroCore (s : State) (c : Nat) : State :=
  let s := { s with mem := s.mem.zero (spmAddr c 0) (2 ^ 20), tags := s.tags.filter fun t => t / 131072 != c }
  s.modCore c fun k =>
    { k with acc := ⟨[], [], []⟩
             mx := { k.mx with active := Latch.reset, shadow := Latch.reset }
             prog := ⟨k.prog.words.filter fun e => decide (e.1 < 128), k.prog.table.filter fun e => decide (e.1 < 8)⟩ }
/-- A quarter die is zeroed (R193, R387). -/
def State.zeroQuarter (s : State) (pkg q : Nat) : State :=
  let s := (quarterClusters pkg q).foldl (fun (s : State) cl =>
    let s := (coresOf cl).foldl (fun (s : State) c => if (Tab.find s.cores c).isSome then s.zeroCore c else
      { s with mem := s.mem.zero (spmAddr c 0) (2 ^ 20), tags := s.tags.filter fun t => t / 131072 != c }) s
    { s with mem := s.mem.zero (cmemAddr cl 0) (2 ^ 24) }) s
  { s with mem := s.mem.zero (unitAddr 3 (pkg * 4 + q / 4) (q % 4 * 2 ^ 24)) (2 ^ 24) }

/-! ### Measurement (R393) -/

/-- The entries of a table of owners that belong to a partition, in increasing index. -/
def ownedEntries (t : Tab (BitVec 8)) (part : Nat) : List Nat :=
  (t.filter fun e => ownEntry e.2 part).flatMap fun e => leBytes 2 e.1 ++ [e.2.toNat]
/-- What MR1 is extended with (R393; log entry 24). -/
def State.ownerData (s : State) (pkg part : Nat) : List Nat :=
  let o := (s.pkg pkg).own
  leBytes 8 o.qown.toNat ++ leBytes 8 o.qvalid ++ ownedEntries o.channels part ++ ownedEntries o.ports part
/-- The lowest core of a partition in a package, or the package's first. -/
def State.firstCore (s : State) (pkg part : Nat) : Nat :=
  match ((List.range 64).map (pkg * 64 + ·)).find? (s.ownsCluster part) with
  | some cl => cl * 8
  | none => pkg * 512
/-- Some partitions are extended with what they own. -/
def State.measureOwners (s : State) (pkg : Nat) (parts : List Nat) : State :=
  (parts.filter fun n => (s.part pkg n).ctl.v).foldl (fun (s : State) n => s.extendMr pkg n 1 (s.ownerData pkg n)) s
/-- The registers as a partition is defined (R393): zero, then MR0 and MR1 extended. -/
def State.measureNew (s : State) (pkg part : Nat) : State :=
  let s := s.modPart pkg part fun k => { k with sec := { k.sec with mr := [], heldExtends := [], report := false } }
  let s := s.extendMr pkg part 0 (s.firmwareData pkg (s.firstCore pkg part))
  s.extendMr pkg part 1 (s.ownerData pkg part)

/-! ### Keys of a partition (R388, R397, R398) -/

/-- A random number below 2^256 from a draw. -/
def State.random256 (s : State) : Nat × State :=
  let d := s.draw
  ((Config.randomKey d.1).toNat % 2 ^ 256, d.2)
/-- Fresh XTS keys into slot CUR of every die, and a fresh ECDH pair (R388). -/
def State.freshKeys (s : State) (pkg part : Nat) : State :=
  let s := (List.range 4).foldl (fun (s : State) d =>
    s.newKey (pkg * 4 + d) ((s.die (pkg * 4 + d)).key part).cur) s
  let r := s.random256
  r.2.modPart pkg part fun k => { k with sec := { k.sec with ecdh := r.1 % (pOrder - 1) + 1 } }
/-- A slot holds the current key of another protected partition. -/
def State.slotOfOther (s : State) (pkg d part slot : Nat) : Bool :=
  (List.range 16).any fun n => n != part && s.protectedPart pkg n && ((s.die (pkg * 4 + d)).key n).cur == slot
/-- Every key of the partition is erased on every die (R397, R398): those in its slots CUR and NXT, and those loaded. -/
def State.eraseKeys (s : State) (pkg part : Nat) : State :=
  let s := if (s.part pkg part).ctl.prot then
      (List.range 4).foldl (fun (s : State) d =>
        let k := (s.die (pkg * 4 + d)).key part
        let s := s.eraseSlot (pkg * 4 + d) k.cur
        if s.slotOfOther pkg d part k.nxt then s else s.eraseSlot (pkg * 4 + d) k.nxt) s
    else s
  s.modPart pkg part fun k =>
    { k with sec := { k.sec with ecdh := 0, model := [], fabric := none, ks := none, hbkey := none } }

/-! ### Function-level reset (R398) -/

/-- The nodes of a partition on a die in some states. -/
def State.nodesIn (s : State) (die part : Nat) (sts : List Nat) : List Nat :=
  ((s.die die).sched.tdt.filter fun e => e.2.part == part && sts.contains e.2.state).map (·.1)
/-- Step 1: every node stops and completes in STATE 5, each a failure event (R369); those that were never dispatched have no
duration to sample. -/
def State.resetNodes (s : State) (die part : Nat) : State :=
  let s := (s.nodesIn die part [3, 6]).foldl (fun (s : State) i =>
    let s := s.stopNode die i
    let s := match Tab.find (s.die die).sched.placed i with
      | none => s
      | some p =>
        let s := p.live.foldl (fun (s : State) c => (s.endCoreOps c).freeCore c) s
        let s := p.held.foldl (fun (s : State) (m : Cmd) => s.endOp m.opId) s
        p.clusters.foldl (fun (s : State) cl =>
          if nodeKind p.words = 0 then s.modChord cl fun _ => Chord.reset else s) s
    s.completeNode die i [] true) s
  (s.nodesIn die part [1, 2]).foldl (fun (s : State) i =>
    (s.modNode die i fun e => { e with state := 5, err := true }).failureEvent (die / 4) part) s
/-- Host-started cores of the partition stop. -/
def State.resetStarted (s : State) (die part : Nat) : State :=
  match (s.die die).sched.regs.csRun with
  | none => s
  | some c =>
    if (s.core c).ident.part = part then
      (((s.killCore c).endCoreOps c).idleCore c).modRegs die fun r => { r with csRun := none }
    else s
/-- Every command a BTE holds. -/
def Bte.commands (b : Bte) : List Cmd := b.coming ++ b.buffer ++ b.slots.map (·.2)
/-- The operations of a partition in the engines of a package are dropped. -/
def State.dropEngineOps (s : State) (pkg part : Nat) : State :=
  let mine := fun (m : Cmd) => m.by_.part == part
  let cls := s.clusters.filter fun e => e.1 / 64 == pkg
  let ops := cls.flatMap fun e => (e.2.bte.commands.filter mine).map Cmd.opId
  let se := (s.dies.filter fun e => e.1 / 4 == pkg).flatMap fun e => (e.2.se.filter fun m => m.by_.part == part).map SeCmd.opId
  let s := (ops ++ se).foldl (fun (s : State) i => s.endOp i) s
  let s := { s with clusters := s.clusters.map fun (e : Nat × Cluster) =>
    if e.1 / 64 = pkg then
      let b := e.2.bte
      (e.1, { e.2 with bte := ⟨b.coming.filter fun m => !mine m, b.buffer.filter fun m => !mine m,
        b.slots.filter fun m => !mine m.2⟩ })
    else e }
  { s with dies := s.dies.map fun (e : Nat × Die) =>
    if e.1 / 4 = pkg then (e.1, { e.2 with se := e.2.se.filter fun m => m.by_.part != part }) else e }
/-- A packet of the partition towards a package is dropped (R398): its issuer sees the expiry of R319. -/
def Fop.dropAt (f : Fop) (pkg : Nat) : Fop :=
  if f.stage = 0 then f
  else if f.kind = 8 then
    { f with dlv := f.dlv.map fun d => if d.pkg = pkg then { d with left := [], counted := true } else d }
  else if f.kind = 0 ∨ f.kind = 6 then
    { f with dlv := f.dlv.map fun d => if d.pkg = pkg then { d with lost := true } else d }
  else if f.pkg = pkg ∧ f.stage ≠ 3 then { f with stage := 4 } else f
/-- The fabric operations of a partition that a package issued are gone; those of others towards it are dropped. -/
def State.dropFabric (s : State) (pkg : Nat) (of_ : Fop → Bool) : State :=
  let own := (s.net.fops.filter fun e => of_ e.2 && e.2.from_ == pkg).map (·.1)
  let s := own.foldl (fun (s : State) i => s.endOp i) s
  let keep := fun (e : CombEntry) => (s.fop e.carrier).elim false fun g => !(of_ g && (g.from_ == pkg || g.pkg == pkg))
  let s := { s with clusters := s.clusters.map fun (e : Nat × Cluster) =>
    if e.1 / 64 = pkg then (e.1, { e.2 with comb := e.2.comb.filter keep }) else e }
  let s := s.modApex pkg fun a => { a with cru := a.cru.filter keep }
  let rest := (s.net.fops.filter fun e => !own.contains e.1).map fun e => (e.1, if of_ e.2 then e.2.dropAt pkg else e.2)
  { s with net := { s.net with fops := rest } }
/-- A word of the graph store lies in a graph of the partition. -/
def Sched.storeOf (k : Sched) (part w : Nat) : Bool :=
  k.graphs.any fun g => graphPartOf g.2.toNat == part && graphHolds g.2 (w / 16)
/-- The partition's entries of a die's tables are as at reset (R321). -/
def Die.clearPart (k : Die) (part : Nat) : Die :=
  let mine := fun (i : Nat) => Tab.find k.sched.ctxown i == some part
  let sched := { k.sched with
    graphs := k.sched.graphs.filter fun g => graphPartOf g.2.toNat != part
    store := k.sched.store.filter fun e => !k.sched.storeOf part e.1
    tdt := k.sched.tdt.filter fun e => e.2.part != part
    ctxtab := k.sched.ctxtab.filter fun e => !mine (e.1 / 2)
    ctxown := k.sched.ctxown.filter fun e => e.2 != part
    partner := Tab.del k.sched.partner part
    notices := k.sched.notices.filter fun n => n.2.part != part }
  let keys := k.keytab.map fun e => (e.1, if e.1 = part then { e.2 with sweep := false, ptr := 0 } else e.2)
  { k with sched := sched, keytab := keys, ptroot := Tab.del k.ptroot part, tlb := k.tlb.filter fun t => t.part != part }
/-- The partition's entries of the package's tables are as at reset (R321). -/
def State.clearTables (s : State) (pkg part : Nat) : State :=
  let s := s.modApex pkg fun a =>
    let wins := (a.redwins.filter fun e => e.2.part == part).map (·.1)
    { a with
      dies := a.dies.filter fun e => e.1 / 4096 != part
      windows := a.windows.filter fun e => e.1 / 1024 != part
      redwins := a.redwins.filter fun e => e.2.part != part
      groups := a.groups.filter fun e => bits e.2.toNat 59 4 != part
      rounds := a.rounds.filter fun e => !wins.contains e.1
      roundEnds := a.roundEnds.filter fun e => !wins.contains e.1 }
  { s with dies := s.dies.map fun (e : Nat × Die) =>
    if e.1 / 4 = pkg then (e.1, e.2.clearPart part) else e }
/-- Copies of the partition from other packages that need this one have lost a packet (R398): their issuers see the expiry of
R319. -/
def State.dropCopies (s : State) (pkg part : Nat) : State :=
  let lost := fun (m : Cmd) => if m.by_.part = part ∧ s.cmdNeeds m pkg then
      { m with phase := 3, sentAt := if m.sentAt = 0 then s.clk.cycle else m.sentAt } else m
  { s with clusters := s.clusters.map fun (e : Nat × Cluster) =>
    if e.1 / 64 = pkg then e
    else (e.1, { e.2 with bte := { e.2.bte with slots := e.2.bte.slots.map fun m => (m.1, lost m.2) } }) }
/-- Steps 1 to 4 of R398: nodes, packets, wait entries, slots. -/
def State.quell (s : State) (pkg part : Nat) : State :=
  let dies := (List.range 4).map (pkg * 4 + ·)
  let s := dies.foldl (fun (s : State) d => (s.resetNodes d part).resetStarted d part) s
  let s := ((s.dropEngineOps pkg part).dropCopies pkg part).dropFabric pkg fun f => f.by_.part == part
  s.openRouters (((List.range 64).map (pkg * 64 + ·)).filter (s.ownsCluster part))
/-- A function-level reset begins (R398): the partition is RESETTING. -/
def State.beginReset (s : State) (pkg part : Nat) : State :=
  (s.quell pkg part).modPart pkg part fun k => { k with ctl := { k.ctl with state := 3, rst := true } }
/-- Steps 5 and 6 of R398, after what has arrived meanwhile is dropped too: memories, tables, keys; the partition is RUN. -/
def State.resetPart (s : State) (pkg part : Nat) : State :=
  let s := s.quell pkg part
  let s := ((List.range 16).filter fun q => (s.pkg pkg).own.quarter q == some part).foldl (fun (s : State) q => s.zeroQuarter pkg q) s
  let s := (s.clearTables pkg part).eraseKeys pkg part
  let s := if (s.part pkg part).ctl.prot then (s.freshKeys pkg part).measureNew pkg part else s
  let now := s.clk.cycle
  s.modPart pkg part fun k => { k with ctl := { k.ctl with state := 0, rst := false, beatAt := now } }
/-- The number by which the package itself goes on with a reset (log entry 29): no host's window has it. -/
def resetUnit : Nat := 17
/-- FUNCTION_LEVEL_RESET (R398): RST := 1 for a defined partition that is not being reset; the reset ends in a later cycle. -/
def execFunctionLevelReset (s : State) : Out :=
  let who := s.arg 0
  let pkg := s.arg 1
  let part := s.arg 2
  .next (
    let k := (s.part pkg part).ctl
    if who = resetUnit then (if k.state = 3 then s.resetPart pkg part else s)
    else if s.reachesPart who pkg part && k.v && k.state != 3 then s.beginReset pkg part
    else s)
/-- A partition is defined (R388): its table entries are as at reset (R321; log entry 99), it has no key but those generated
now, and its heartbeat period begins (log entry 98). -/
def State.definePart (s : State) (pkg part : Nat) (prot : Bool) : State :=
  let now := s.clk.cycle
  let s := (s.clearTables pkg part).modPart pkg part fun k =>
    { k with ctl := { k.ctl with beatAt := now }
             sec := { k.sec with ecdh := 0, model := [], fabric := none, ks := none, hbkey := none } }
  (if prot then s.freshKeys pkg part else s).measureNew pkg part
/-- PCTL_DEFINE (R388, R400): a write of PCTL, through the hypervisor's window or the partition's own. -/
def execPctlDefine (s : State) : Out :=
  let who := s.arg 0
  let pkg := s.arg 1
  let part := s.arg 2
  let val := s.arg 3
  .next (
    let v := bits val 63 1 == 1
    let prot := bits val 62 1 == 1
    let k := (s.part pkg part).ctl
    if !s.reachesPart who pkg part then s
    else if k.v && prot != k.prot then s.refuse pkg part 10 part
    else
      let s := s.modPart pkg part fun k => { k with ctl := { k.ctl with v := v, prot := prot } }
      let s := if v && !k.v then s.definePart pkg part prot else s
      if v && bits val 59 1 == 1 && k.state != 3 then s.beginReset pkg part else s)

/-! ### Ownership (R387) -/

/-- The owners of a package as a write leaves them: kind 0 QOWN, 1 QVALID, 2 a pseudo-channel, 3 a port. -/
def Owners.write (o : Owners) (kind idx val : Nat) : Owners :=
  match kind with
  | 0 => { o with qown := BitVec.ofNat 64 val }
  | 1 => { o with qvalid := val % 2 ^ 16 }
  | 2 => { o with channels := Tab.set o.channels idx (BitVec.ofNat 8 (bits val 7 1 * 128 + val % 16)) }
  | _ => { o with ports := Tab.set o.ports idx (BitVec.ofNat 8 (bits val 7 1 * 128 + val % 16)) }
/-- The owner an 8-bit entry names. -/
def entryOwner (e : BitVec 8) : Option Nat := if 128 ≤ e.toNat then some (e.toNat % 16) else none
/-- The resources whose owner differs: index, old and new owner. -/
def ownerChanges (a b : Owners) (kind idx : Nat) : List (Nat × Option Nat × Option Nat) :=
  let l := if kind ≤ 1 then (List.range 16).map fun q => (q, a.quarter q, b.quarter q)
    else if kind = 2 then [(idx, entryOwner (Tab.get 0 a.channels idx), entryOwner (Tab.get 0 b.channels idx))]
    else [(idx, entryOwner (Tab.get 0 a.ports idx), entryOwner (Tab.get 0 b.ports idx))]
  l.filter fun e => e.2.1 != e.2.2
/-- A change is refused (R387): a partition concerned has a placed node or is being reset. -/
def State.ownerBusy (s : State) (pkg : Nat) (e : Nat × Option Nat × Option Nat) : Bool :=
  (e.2.1.toList ++ e.2.2.toList).any fun n => s.hasPlaced pkg n || (s.part pkg n).ctl.state == 3
/-- What a core's queues hold at a reassignment is gone (R270), its operations with it. -/
def State.emptyCore (s : State) (c : Nat) : State :=
  if (Tab.find s.cores c).isNone then s
  else
    let k := s.core c
    let ops := k.callOps ++ k.trig.map (·.2.opId) ++ k.arrives.map (·.opId) ++ k.streams.map (·.2.opId)
      ++ k.streams.flatMap (fun t => t.2.unwritten.map (·.opId)) ++ k.pushOps ++ k.heldOps
    (ops.foldl (fun (s : State) i => s.endOp i) s).modCore c fun k =>
      { k with trig := [], arrq := [], overflow := [], arrives := [], inits := [], streams := [], fab := []
               ctxs := k.ctxs.map fun e => (e.1, { e.2 with inflight := [] })
               fetch := Core.reset.fetch, mx := { k.mx with calls := [], uops := [], flows := [] } }
/-- The record of the engine fault queue names a node of the partition (R386). -/
def EfRec.ofPart (e : EfRec) (part : Nat) : Bool := bits e.w0.toNat 44 4 == part
/-- Quarter q passes from a partition (R193, R270, R321; log entry 99): it is zeroed, its queues are empty and its routers
open; the old owner's entries of the die's queues and tables are gone. -/
def State.passQuarter (s : State) (pkg q : Nat) (old : Option Nat) : State :=
  let cls := quarterClusters pkg q
  let die := pkg * 4 + q / 4
  let s := (cls.flatMap coresOf).foldl (fun (s : State) c => s.emptyCore c) s
  let s := (s.zeroQuarter pkg q).openRouters cls
  match old with
  | none => s
  | some part =>
    let s := (s.dropEngineOps pkg part).dropFabric pkg fun f => f.by_.part == part
    s.modDie die fun k =>
      let k := k.clearPart part
      { k with efq := k.efq.filter fun e => !e.ofPart part
               sched := { k.sched with pool := k.sched.pool.filter fun e => e.r.node / 4096 != part } }
/-- An accepted change (R193, R270, R321, R387): quarters that change hands pass, and the table entries of a partition that
loses a quarter, a pseudo-channel or a port are as at reset (log entry 99). -/
def State.changeOwners (s : State) (pkg kind : Nat) (new : Owners) (l : List (Nat × Option Nat × Option Nat)) : State :=
  let s := s.modPkg pkg fun k => { k with own := new }
  let s := if kind ≤ 1 then l.foldl (fun (s : State) e => s.passQuarter pkg e.1 e.2.1) s else s
  let s := (l.flatMap fun e => e.2.1.toList).eraseDups.foldl (fun (s : State) n => s.clearTables pkg n) s
  if l.isEmpty then s
  else s.measureOwners pkg (if kind ≤ 1 then List.range 16 else l.flatMap fun e => e.2.1.toList ++ e.2.2.toList)
/-- OWNERSHIP_WRITE (R387). -/
def execOwnershipWrite (s : State) : Out :=
  let who := s.arg 0
  let pkg := s.arg 1
  let kind := s.arg 2
  let idx := s.arg 3
  let val := s.arg 4
  .next (
    let old := (s.pkg pkg).own
    let new := old.write kind idx val
    let l := ownerChanges old new kind idx
    if !reachesAll who pkg || decide (3 < kind) || (kind == 2 && decide (512 ≤ idx)) || (kind == 3 && decide (64 ≤ idx)) then s
    else match l.find? (s.ownerBusy pkg) with
      | some e => s.refuse pkg (e.2.1.getD (e.2.2.getD 0)) 10 e.1
      | none => s.changeOwners pkg kind new l)

/-! ### Attestation (R393) -/

/-- The fields of a report before its signature (R393; log entry 24). -/
def State.reportFields (s : State) (pkg part : Nat) : List Nat :=
  let k := s.part pkg part
  leBytes 32 k.sec.nonce.toNat ++ leBytes 8 pkg ++ leBytes 8 part ++ leBytes 8 (if k.ctl.prot then 1 else 0)
    ++ (List.range 4).flatMap (fun i => leBytes 32 (Tab.get 0 k.sec.mr i).toNat)
    ++ (if k.sec.ecdh = 0 then List.replicate 64 0 else pPublic k.sec.ecdh)
/-- The report is written, and the extensions held for it are made (R393). -/
def State.writeReport (s : State) (pkg part : Nat) : State :=
  let f := s.reportFields pkg part
  let h := sha256 f
  let r := s.random256
  let d := r.2.draw
  let l := f ++ ecdsa (Config.identityKey pkg) (r.1 % (pOrder - 1) + 1) h
  let sec := (s.part pkg part).sec
  let a := unitAddr 7 pkg (sec.qaddr.toNat % 2 ^ 56)
  let s := if Config.hostRefuses d.1 then d.2 else { d.2 with mem := d.2.mem.writeBytes a l }
  let s := s.modPart pkg part fun k =>
    { k with sec := { k.sec with report := false, heldExtends := [], digest := BitVec.ofNat 256 (leNum h) } }
  sec.heldExtends.foldl (fun (s : State) e => s.extendMr pkg part e.1 e.2) s
/-- Byte i of the identity key's certificate chain, as read through a host window (R393, R400). -/
def State.certByte (s : State) (who pkg i : Nat) : Byte := if s.hasWindow pkg who then Config.certChain pkg i else 0
/-- QNONCE_WRITE (R393): a report begins to be formed; one that was being formed is written first. -/
def execQnonceWrite (s : State) : Out :=
  let pkg := s.arg 0
  let part := s.arg 1
  let val := s.arg 2
  .next (
    if packages ≤ pkg ∨ 16 ≤ part ∨ !s.hasWindow pkg part then s
    else
      let s := if (s.part pkg part).sec.report then s.writeReport pkg part else s
      s.modPart pkg part fun k => { k with sec := { k.sec with nonce := BitVec.ofNat 256 val, report := true } })
/-- REPORT_WRITTEN (R393). -/
def execReportWritten (s : State) : Out :=
  let pkg := s.arg 0
  let part := s.arg 1
  .next (if (s.part pkg part).sec.report then s.writeReport pkg part else s)
/-- EXTEND_WRITE (R393): MR2 is extended with a digest of 32 bytes. -/
def execExtendWrite (s : State) : Out :=
  let pkg := s.arg 0
  let part := s.arg 1
  let val := s.arg 2
  .next (if packages ≤ pkg ∨ 16 ≤ part ∨ !s.hasWindow pkg part then s else s.extendMr pkg part 2 (leBytes 32 val))

/-! ### Key release (R394) -/

/-- A key of a type is loaded already. -/
def PartSec.holds (k : PartSec) (type : Nat) : Bool :=
  match type with
  | 0 => false
  | 1 => k.fabric.isSome
  | 2 => k.ks.isSome
  | _ => k.hbkey.isSome
/-- A key is installed. -/
def PartSec.install (k : PartSec) (type slot : Nat) (key : BitVec 256) : PartSec :=
  match type with
  | 0 => { k with model := Tab.set k.model slot key }
  | 1 => { k with fabric := some key }
  | 2 => { k with ks := some key }
  | _ => { k with hbkey := some key }
/-- The key of a blob, where its tag verifies (R394). -/
def unwrap (sec : PartSec) (b : List Nat) : Option (List Nat) :=
  let z := ecdh sec.ecdh ((b.drop 8).take 64)
  gcmDec (hmac z (leBytes 32 sec.digest.toNat)) ((b.drop 72).take 12) (b.take 8) ((b.drop 88).take 32) ((b.drop 120).take 16)
/-- KEYSTAT is set. -/
def State.keyStat (s : State) (pkg part n : Nat) : State :=
  s.modPart pkg part fun k => { k with sec := { k.sec with keystat := n } }
/-- KEYLOAD (R394): the blob is read from host memory; every failure leaves the keys unchanged. -/
def execKeyload (s : State) : Out :=
  let pkg := s.arg 0
  let part := s.arg 1
  let addr := s.arg 2
  .next (
    let sec := (s.part pkg part).sec
    if packages ≤ pkg ∨ 16 ≤ part ∨ !s.hasWindow pkg part then s
    else if !s.protectedPart pkg part then s.keyStat pkg part 4
    else
      let d := s.draw
      let b := s.mem.bytes (unitAddr 7 pkg (addr % 2 ^ 56)) 144
      let h := leNum (b.take 8)
      if Config.hostRefuses d.1 then d.2
      else if h / 2 ^ 6 ≠ 0 ∨ leNum ((b.drop 84).take 4) ≠ 0 ∨ leNum (b.drop 136) ≠ 0 ∨ sec.holds (bits h 4 2) then
        d.2.keyStat pkg part 3
      else match unwrap sec b with
        | none => d.2.keyStat pkg part 2
        | some k =>
          let key := BitVec.ofNat 256 (leNum k)
          let s := d.2.modPart pkg part fun p =>
            { p with sec := { p.sec.install (bits h 4 2) (h % 16) key with keystat := 1 } }
          s.extendMr pkg part 3 (b.take 8))

/-! ### Heartbeat (R396, R397) -/

/-- A heartbeat is valid (R396). -/
def Part.beatOk (p : Part) (val : Nat) : Bool :=
  let ctr := val % 2 ^ 64
  match p.sec.hbkey with
  | none => false
  | some k => decide (p.ctl.lastCtr < ctr) && leNum ((hmac (keyBytes k) (leBytes 8 ctr)).take 8) == bits val 64 64
/-- HEARTBEAT (R396, R397): a valid one starts the period anew, and leaves QUIESCED. -/
def execHeartbeat (s : State) : Out :=
  let pkg := s.arg 0
  let part := s.arg 1
  let val := s.arg 2
  .next (
    let now := s.clk.cycle
    if decide (pkg < packages) && decide (part < 16) && s.hasWindow pkg part && (s.part pkg part).beatOk val then
      s.modPart pkg part fun k =>
        { k with ctl := { k.ctl with lastCtr := val % 2 ^ 64, beatAt := now, state := if k.ctl.state = 1 then 0 else k.ctl.state } }
    else s)
/-- HEARTBEAT_PERIOD_EXPIRY (R397). -/
def execHeartbeatPeriodExpiry (s : State) : Out :=
  let pkg := s.arg 0
  let part := s.arg 1
  .next (
    let k := (s.part pkg part).ctl
    let now := s.clk.cycle
    if k.v && k.state == 0 && k.period != 0 && decide (k.period ≤ now - k.beatAt) then
      s.modPart pkg part fun p => { p with ctl := { p.ctl with state := 1, quietAt := now } }
    else s)
/-- GRACE_EXPIRY (R397): every key is erased, and placed nodes stop as R206 states. -/
def execGraceExpiry (s : State) : Out :=
  let pkg := s.arg 0
  let part := s.arg 1
  .next (
    let k := (s.part pkg part).ctl
    if k.v && k.state == 1 && decide (k.grace ≤ s.clk.cycle - k.quietAt) then
      let s := s.eraseKeys pkg part
      let s := s.modPart pkg part fun p => { p with ctl := { p.ctl with state := 2 } }
      ((List.range 4).map (pkg * 4 + ·)).foldl (fun (s : State) d =>
        (s.nodesIn d part [3]).foldl (fun (s : State) i => s.stopNode d i) s) s
    else s)

/-! ### Uncorrectable errors (R206) -/

/-- An error that a core met (R206): its node stops without an image, or a host-started core stops alone. -/
def State.coreError (s : State) (c addr : Nat) : State :=
  let k := (s.core c).ident
  if k.placed then
    let s := s.engineFault k.home 5 3 k.node (s.physCore c) 0 addr 0
    ((s.countError k.home k.node).stopNode k.home (k.node % 4096)).failureEvent (pkgOf c) k.part
  else if k.started then
    ((s.engineFault (dieOf c) 5 3 0 (s.physCore c) 0 addr 0).killCore c).failureEvent (pkgOf c) k.part
  else s
/-- An error that an operation met (R206): it completes with code 3. -/
def State.opError (s : State) (op addr : Nat) : State :=
  match s.fop op with
  | some f => if f.stage = 0 then s else (s.failCarried 3 addr carriedMax op).failureEvent f.from_ f.by_.part
  | none =>
    match s.clusters.flatMap fun e => (e.2.bte.slots.filter fun m => m.2.opId == op && m.2.phase == 2).map fun m => (e.1, m) with
    | (cl, i, m) :: _ => (s.failCmd cl i m 3 addr).failureEvent (cl / 64) m.by_.part
    | [] =>
      match s.dies.flatMap fun e => (e.2.se.filter fun m => m.running && m.opId == op).map fun m => (e.1, m) with
      | [] => s
      | (d, m) :: _ =>
        (((s.seStatus m true).failOp m.by_ 2 3 m.bar addr m.opId).seDrop d m.opId).failureEvent (d / 4) m.by_.part
/-- An error that stream k of a core met as it fetched its next entry (R206, R288): the entry holds zeros. -/
def State.streamError (s : State) (c k addr : Nat) : State :=
  if s.mayFetch ((s.core c).stream k) then
    ((s.streamFault c 3 addr).landEntry c k 0).failureEvent (pkgOf c) (s.core c).ident.part
  else s
/-- An error that the scheduler met as it read for a placed node (R206): its code, slot image, batch or image, and the node
completes with it; or its list, of which nothing further is issued. -/
def State.schedError (s : State) (die node addr : Nat) : State :=
  match Tab.find (s.die die).sched.placed node with
  | none => s
  | some p =>
    let part := (s.nodeEnt die node).part
    if p.copying then ((s.freeCores p).failDispatch die node p.words 3 addr).failureEvent (die / 4) part
    else if nodeKind p.words = 2 ∨ nodeKind p.words = 3 then (s.badEntry die node 3 addr p).failureEvent (die / 4) part
    else s
/-- UNCORRECTABLE_ERROR (R206, R369): reader 0 a core, 1 an engine operation, 2 a stream engine (core * 8 + stream), 3 a die's
scheduler for a node (die * 4096 + node). -/
def execUncorrectableError (s : State) : Out :=
  let reader := s.arg 0
  let unit := s.arg 1
  let addr := s.arg 2
  .next (
    match reader with
    | 0 => s.coreError unit addr
    | 1 => s.opError unit addr
    | 2 => s.streamError (unit / 8) (unit % 8) addr
    | _ => s.schedError (unit / 4096) (unit % 4096) addr)

/-! ### Package reset (R193, R270, R321) -/

/-- The package that a place of SPM, CMEM or DMEM belongs to. -/
def resetsAt (pkg a : Nat) : Bool :=
  let k := placeKind a
  decide (1 ≤ k) && decide (k ≤ 3) && placeDie a / 4 == pkg
/-- PACKAGE_RESET (R193, R270, R321): everything of the package but HBM, host memory and firmware; what stands for the
images in memory stays with them (log entry 18). -/
def execPackageReset (s : State) : Out :=
  let pkg := s.arg 0
  .next (
    if packages ≤ pkg then s
    else
      let s := s.dropFabric pkg fun _ => true
      let ops := (s.cores.filter fun e => e.1 / 512 == pkg).flatMap fun e =>
        e.2.callOps ++ e.2.trig.map (·.2.opId) ++ e.2.arrives.map (·.opId) ++ e.2.streams.map (·.2.opId)
          ++ e.2.streams.flatMap fun t => t.2.unwritten.map (·.opId)
      let s := ops.foldl (fun (s : State) i => s.endOp i) s
      let s := (List.range 16).foldl (fun (s : State) n => s.dropEngineOps pkg n) s
      let now := s.clk.cycle
      let fw := (s.pkg pkg).firmware
      { s with
        cores := s.cores.filter fun e => e.1 / 512 != pkg
        clusters := s.clusters.filter fun e => e.1 / 64 != pkg
        dies := s.dies.filterMap fun (e : Nat × Die) =>
          if e.1 / 4 != pkg then some e
          else if e.2.sched.images.isEmpty then none
          else some (e.1, { Die.reset with sched := { Die.reset.sched with images := e.2.sched.images } })
        pkgs := Tab.set s.pkgs pkg { Pkg.reset now with firmware := fw }
        mem := ⟨s.mem.cells.filter fun c => !resetsAt pkg c.1⟩
        tags := s.tags.filter fun t => t / 131072 / 512 != pkg })

/-! ### Islands (R409, R410) -/

/-- An island of a package. -/
def State.island (s : State) (pkg i : Nat) : Island := Tab.get Island.reset (s.pkg pkg).islands i
/-- Change an island. -/
def State.modIsland (s : State) (pkg i : Nat) (f : Island → Island) : State :=
  s.modPkg pkg fun k => { k with islands := Tab.upd Island.reset k.islands i f }
/-- A port group. -/
def State.portGroup (s : State) (pkg g : Nat) : PortGroup := Tab.get PortGroup.reset (s.pkg pkg).groups g
/-- A packet of the operation is in flight on a port group of a package. -/
def Fop.usesGroup (f : Fop) (pkg g : Nat) : Bool :=
  f.stage != 0 && f.stage != 4 &&
    (f.pkg :: f.dlv.map (·.pkg)).any fun q =>
      (f.from_ == pkg && q != pkg && Config.portGroup pkg q == g) || (q == pkg && f.from_ != pkg && Config.portGroup pkg f.from_ == g)
/-- DRAINED (R411), with DRAIN as given: what a draining group holds back at its ingress is not in flight. -/
def State.drainedGroup (s : State) (pkg g : Nat) (drain : Bool) : Bool :=
  drain && !s.net.fops.any fun e => e.2.usesGroup pkg g && !s.heldByDrain e.2
/-- The port group of a port island (R19, R409). -/
def portOf (isl : Nat) : Option Nat := if 1100 ≤ isl ∧ isl < 1164 then some ((isl - 1100) / 4) else none
/-- ISLCTL_WRITE (R409, R410). -/
def execIslctlWrite (s : State) : Out :=
  let who := s.arg 0
  let pkg := s.arg 1
  let isl := s.arg 2
  let val := s.arg 3
  .next (
    let v := bits val 16 8
    let f := val % 2 ^ 7
    let closed := match portOf isl with
      | none => false
      | some g => !s.drainedGroup pkg g (s.portGroup pkg g).drain
    if !reachesAll who pkg || decide (1184 ≤ isl) then s
    else if f == 0 || decide (64 < f) || !Config.operating isl v f || isl == 1183 || (s.island pkg isl).busy || closed then
      s.modIsland pkg isl fun k => { k with refused := true }
    else
      let now := s.clk.cycle
      s.modIsland pkg isl fun k => { k with busy := true, refused := false, nextV := v, nextF := f, since := now })
/-- ISLAND_CHANGE_DONE (R410). -/
def execIslandChangeDone (s : State) : Out :=
  let pkg := s.arg 0
  let isl := s.arg 1
  .next (
    if (s.island pkg isl).busy then
      s.modIsland pkg isl fun k => { k with busy := false, vcode := k.nextV, frac := k.nextF }
    else s)

/-! ### Port groups (R411) -/

/-- Change a port group. -/
def State.modGroup (s : State) (pkg g : Nat) (f : PortGroup → PortGroup) : State :=
  s.modPkg pkg fun k => { k with groups := Tab.upd PortGroup.reset k.groups g f }
/-- A write of PGCTL (R411): DRAIN, LOAD and FWADDR. A load starts where DRAINED reads 1, the write leaves DRAIN 1, and none is
in progress; LOAD of a write that starts none is refused (log entry 48). -/
def State.writePgctl (s : State) (who pkg g val : Nat) : State :=
  let drain := bits val 63 1 == 1
  if !reachesAll who pkg || decide (16 ≤ g) then s
  else
    let k := s.portGroup pkg g
    let a := bits val 4 52 * 16
    let loads := bits val 61 1 == 1 && s.drainedGroup pkg g (k.drain && drain) && !k.busy
    s.modGroup pkg g fun k =>
      { k with drain := drain, fwaddr := a, load := if bits val 61 1 = 1 then k.load || loads else false
               busy := k.busy || loads, image := if loads then a else k.image }
/-- PGCTL_DRAIN (R411): a write that sets or clears DRAIN. -/
def execPgctlDrain (s : State) : Out :=
  let who := s.arg 0
  let pkg := s.arg 1
  let grp := s.arg 2
  let val := s.arg 3
  .next (s.writePgctl who pkg grp val)
/-- PGCTL_LOAD (R411): a write with LOAD. -/
def execPgctlLoad (s : State) : Out :=
  let who := s.arg 0
  let pkg := s.arg 1
  let grp := s.arg 2
  let val := s.arg 3
  .next (s.writePgctl who pkg grp val)
/-- FIRMWARE_LOAD_DONE (R411): an accepted image extends MR0 of the package's partitions. -/
def execFirmwareLoadDone (s : State) : Out :=
  let pkg := s.arg 0
  let grp := s.arg 1
  .next (
    let k := s.portGroup pkg grp
    if !k.busy then s
    else
      let ok := Config.firmwareSigned k.image
      let s := s.modGroup pkg grp fun k => { k with busy := false, fail := !ok }
      if !ok then s
      else
        let s := s.modPkg pkg fun p => { p with firmware := p.firmware + 1 }
        ((List.range 16).filter fun n => (s.part pkg n).ctl.v).foldl (fun (s : State) n =>
          s.extendMr pkg n 0 (s.firmwareData pkg (s.firstCore pkg n))) s)

end Sys2Proof.Machine
end

