-- ==== Sys2Proof/Machine/Dispatch.lean ====
section
/-! DEFINITION. One arm for each instruction, micro-operation and event of the opcode table. -/

namespace Sys2Proof.Machine

/-- The meaning of an instruction. -/
def exec (i : Instr) (s : State) : Host.Outcome State Fault Refusal :=
  match i with
  | .emptyBundle => Sys2Proof.Machine.execEmptyBundle s
  | .nop f => Sys2Proof.Machine.execNop f s
  | .prep f => Sys2Proof.Machine.execPrep f s
  | .prepr f => Sys2Proof.Machine.execPrepr f s
  | .trans f => Sys2Proof.Machine.execTrans f s
  | .loopImm f => Sys2Proof.Machine.execLoopImm f s
  | .loopReg f => Sys2Proof.Machine.execLoopReg f s
  | .sync f => Sys2Proof.Machine.execSync f s
  | .syncj f => Sys2Proof.Machine.execSyncj f s
  | .syncl f => Sys2Proof.Machine.execSyncl f s
  | .join f => Sys2Proof.Machine.execJoin f s
  | .joinW f => Sys2Proof.Machine.execJoinW f s
  | .detach f => Sys2Proof.Machine.execDetach f s
  | .smode f => Sys2Proof.Machine.execSmode f s
  | .spawn f => Sys2Proof.Machine.execSpawn f s
  | .suspend f => Sys2Proof.Machine.execSuspend f s
  | .yield f => Sys2Proof.Machine.execYield f s
  | .halt f => Sys2Proof.Machine.execHalt f s
  | .trap f => Sys2Proof.Machine.execTrap f s
  | .tret f => Sys2Proof.Machine.execTret f s
  | .add f => Sys2Proof.Machine.execAdd f s
  | .sub f => Sys2Proof.Machine.execSub f s
  | .mul f => Sys2Proof.Machine.execMul f s
  | .mulh f => Sys2Proof.Machine.execMulh f s
  | .div f => Sys2Proof.Machine.execDiv f s
  | .rem f => Sys2Proof.Machine.execRem f s
  | .addi f => Sys2Proof.Machine.execAddi f s
  | .addiWide f => Sys2Proof.Machine.execAddiWide f s
  | .movi f => Sys2Proof.Machine.execMovi f s
  | .moviWide f => Sys2Proof.Machine.execMoviWide f s
  | .moviHi f => Sys2Proof.Machine.execMoviHi f s
  | .and f => Sys2Proof.Machine.execAnd f s
  | .or f => Sys2Proof.Machine.execOr f s
  | .xor f => Sys2Proof.Machine.execXor f s
  | .shl f => Sys2Proof.Machine.execShl f s
  | .shr f => Sys2Proof.Machine.execShr f s
  | .sar f => Sys2Proof.Machine.execSar f s
  | .min f => Sys2Proof.Machine.execMin f s
  | .max f => Sys2Proof.Machine.execMax f s
  | .umin f => Sys2Proof.Machine.execUmin f s
  | .umax f => Sys2Proof.Machine.execUmax f s
  | .clz f => Sys2Proof.Machine.execClz f s
  | .popc f => Sys2Proof.Machine.execPopc f s
  | .sel f => Sys2Proof.Machine.execSel f s
  | .cmp f => Sys2Proof.Machine.execCmp f s
  | .cmpi f => Sys2Proof.Machine.execCmpi f s
  | .cmpiWide f => Sys2Proof.Machine.execCmpiWide f s
  | .andi f => Sys2Proof.Machine.execAndi f s
  | .andiWide f => Sys2Proof.Machine.execAndiWide f s
  | .ori f => Sys2Proof.Machine.execOri f s
  | .oriWide f => Sys2Proof.Machine.execOriWide f s
  | .xori f => Sys2Proof.Machine.execXori f s
  | .xoriWide f => Sys2Proof.Machine.execXoriWide f s
  | .shli f => Sys2Proof.Machine.execShli f s
  | .shri f => Sys2Proof.Machine.execShri f s
  | .sari f => Sys2Proof.Machine.execSari f s
  | .fadd f => Sys2Proof.Machine.execFadd f s
  | .faddWide f => Sys2Proof.Machine.execFaddWide f s
  | .fmul f => Sys2Proof.Machine.execFmul f s
  | .fmulWide f => Sys2Proof.Machine.execFmulWide f s
  | .ffma f => Sys2Proof.Machine.execFfma f s
  | .ffmaWide f => Sys2Proof.Machine.execFfmaWide f s
  | .fcvt f => Sys2Proof.Machine.execFcvt f s
  | .fcvtWide f => Sys2Proof.Machine.execFcvtWide f s
  | .csrr f => Sys2Proof.Machine.execCsrr f s
  | .csrw f => Sys2Proof.Machine.execCsrw f s
  | .movm f => Sys2Proof.Machine.execMovm f s
  | .ld f => Sys2Proof.Machine.execLd f s
  | .ldWide f => Sys2Proof.Machine.execLdWide f s
  | .st f => Sys2Proof.Machine.execSt f s
  | .stWide f => Sys2Proof.Machine.execStWide f s
  | .ldf f => Sys2Proof.Machine.execLdf f s
  | .ldfWide f => Sys2Proof.Machine.execLdfWide f s
  | .lde f => Sys2Proof.Machine.execLde f s
  | .ldeWide f => Sys2Proof.Machine.execLdeWide f s
  | .ste f => Sys2Proof.Machine.execSte f s
  | .steWide f => Sys2Proof.Machine.execSteWide f s
  | .tage f => Sys2Proof.Machine.execTage f s
  | .tageWide f => Sys2Proof.Machine.execTageWide f s
  | .tagf f => Sys2Proof.Machine.execTagf f s
  | .tagfWide f => Sys2Proof.Machine.execTagfWide f s
  | .vld f => Sys2Proof.Machine.execVld f s
  | .vldWide f => Sys2Proof.Machine.execVldWide f s
  | .vst f => Sys2Proof.Machine.execVst f s
  | .vstWide f => Sys2Proof.Machine.execVstWide f s
  | .vldx f => Sys2Proof.Machine.execVldx f s
  | .vstx f => Sys2Proof.Machine.execVstx f s
  | .vadd f => Sys2Proof.Machine.execVadd f s
  | .vaddWide f => Sys2Proof.Machine.execVaddWide f s
  | .vsub f => Sys2Proof.Machine.execVsub f s
  | .vsubWide f => Sys2Proof.Machine.execVsubWide f s
  | .vmul f => Sys2Proof.Machine.execVmul f s
  | .vmulWide f => Sys2Proof.Machine.execVmulWide f s
  | .vmin f => Sys2Proof.Machine.execVmin f s
  | .vminWide f => Sys2Proof.Machine.execVminWide f s
  | .vmax f => Sys2Proof.Machine.execVmax f s
  | .vmaxWide f => Sys2Proof.Machine.execVmaxWide f s
  | .vand f => Sys2Proof.Machine.execVand f s
  | .vandWide f => Sys2Proof.Machine.execVandWide f s
  | .vor f => Sys2Proof.Machine.execVor f s
  | .vorWide f => Sys2Proof.Machine.execVorWide f s
  | .vxor f => Sys2Proof.Machine.execVxor f s
  | .vxorWide f => Sys2Proof.Machine.execVxorWide f s
  | .vshl f => Sys2Proof.Machine.execVshl f s
  | .vshlWide f => Sys2Proof.Machine.execVshlWide f s
  | .vshr f => Sys2Proof.Machine.execVshr f s
  | .vshrWide f => Sys2Proof.Machine.execVshrWide f s
  | .vsar f => Sys2Proof.Machine.execVsar f s
  | .vsarWide f => Sys2Proof.Machine.execVsarWide f s
  | .vcmp f => Sys2Proof.Machine.execVcmp f s
  | .vsel f => Sys2Proof.Machine.execVsel f s
  | .vselWide f => Sys2Proof.Machine.execVselWide f s
  | .vcvt f => Sys2Proof.Machine.execVcvt f s
  | .vcvtWide f => Sys2Proof.Machine.execVcvtWide f s
  | .vperm f => Sys2Proof.Machine.execVperm f s
  | .vbcast f => Sys2Proof.Machine.execVbcast f s
  | .vaddF f => Sys2Proof.Machine.execVaddF f s
  | .vaddFWide f => Sys2Proof.Machine.execVaddFWide f s
  | .vsubF f => Sys2Proof.Machine.execVsubF f s
  | .vsubFWide f => Sys2Proof.Machine.execVsubFWide f s
  | .vmulF f => Sys2Proof.Machine.execVmulF f s
  | .vmulFWide f => Sys2Proof.Machine.execVmulFWide f s
  | .vfma f => Sys2Proof.Machine.execVfma f s
  | .vfmaWide f => Sys2Proof.Machine.execVfmaWide f s
  | .vminF f => Sys2Proof.Machine.execVminF f s
  | .vminFWide f => Sys2Proof.Machine.execVminFWide f s
  | .vmaxF f => Sys2Proof.Machine.execVmaxF f s
  | .vmaxFWide f => Sys2Proof.Machine.execVmaxFWide f s
  | .vsum f => Sys2Proof.Machine.execVsum f s
  | .vsumWide f => Sys2Proof.Machine.execVsumWide f s
  | .vmaxr f => Sys2Proof.Machine.execVmaxr f s
  | .vmaxrWide f => Sys2Proof.Machine.execVmaxrWide f s
  | .vscan f => Sys2Proof.Machine.execVscan f s
  | .vscanWide f => Sys2Proof.Machine.execVscanWide f s
  | .vlane f => Sys2Proof.Machine.execVlane f s
  | .vpopc f => Sys2Proof.Machine.execVpopc f s
  | .vcmpr f => Sys2Proof.Machine.execVcmpr f s
  | .vhash f => Sys2Proof.Machine.execVhash f s
  | .vhashWide f => Sys2Proof.Machine.execVhashWide f s
  | .vvote f => Sys2Proof.Machine.execVvote f s
  | .vexp2 f => Sys2Proof.Machine.execVexp2 f s
  | .vexp2Wide f => Sys2Proof.Machine.execVexp2Wide f s
  | .vlog2 f => Sys2Proof.Machine.execVlog2 f s
  | .vlog2Wide f => Sys2Proof.Machine.execVlog2Wide f s
  | .vrcp f => Sys2Proof.Machine.execVrcp f s
  | .vrcpWide f => Sys2Proof.Machine.execVrcpWide f s
  | .vrsq f => Sys2Proof.Machine.execVrsq f s
  | .vrsqWide f => Sys2Proof.Machine.execVrsqWide f s
  | .pand f => Sys2Proof.Machine.execPand f s
  | .por f => Sys2Proof.Machine.execPor f s
  | .pxor f => Sys2Proof.Machine.execPxor f s
  | .pnot f => Sys2Proof.Machine.execPnot f s
  | .pset f => Sys2Proof.Machine.execPset f s
  | .pmov f => Sys2Proof.Machine.execPmov f s
  | .mxcall f => Sys2Proof.Machine.execMxcall f s
  | .mxprog f => Sys2Proof.Machine.execMxprog f s
  | .mxprogTab f => Sys2Proof.Machine.execMxprogTab f s
  | .zrd f => Sys2Proof.Machine.execZrd f s
  | .zwr f => Sys2Proof.Machine.execZwr f s
  | .mxstat f => Sys2Proof.Machine.execMxstat f s
  | .copy f => Sys2Proof.Machine.execCopy f s
  | .copyWide f => Sys2Proof.Machine.execCopyWide f s
  | .copy2d f => Sys2Proof.Machine.execCopy2d f s
  | .copy2dWide f => Sys2Proof.Machine.execCopy2dWide f s
  | .tmov f => Sys2Proof.Machine.execTmov f s
  | .tmovWide f => Sys2Proof.Machine.execTmovWide f s
  | .seop f => Sys2Proof.Machine.execSeop f s
  | .seopWide f => Sys2Proof.Machine.execSeopWide f s
  | .copyUnseal f => Sys2Proof.Machine.execCopyUnseal f s
  | .copyUnsealWide f => Sys2Proof.Machine.execCopyUnsealWide f s
  | .strcfg f => Sys2Proof.Machine.execStrcfg f s
  | .stron f => Sys2Proof.Machine.execStron f s
  | .stroff f => Sys2Proof.Machine.execStroff f s
  | .bufrel f => Sys2Proof.Machine.execBufrel f s
  | .rput f => Sys2Proof.Machine.execRput f s
  | .rputWide f => Sys2Proof.Machine.execRputWide f s
  | .rget f => Sys2Proof.Machine.execRget f s
  | .rgetWide f => Sys2Proof.Machine.execRgetWide f s
  | .rgetv f => Sys2Proof.Machine.execRgetv f s
  | .rgetvWide f => Sys2Proof.Machine.execRgetvWide f s
  | .rfop f => Sys2Proof.Machine.execRfop f s
  | .rfopWide f => Sys2Proof.Machine.execRfopWide f s
  | .rfopIncw f => Sys2Proof.Machine.execRfopIncw f s
  | .rfopBadd f => Sys2Proof.Machine.execRfopBadd f s
  | .rfopCas f => Sys2Proof.Machine.execRfopCas f s
  | .rvatom f => Sys2Proof.Machine.execRvatom f s
  | .rvatomWide f => Sys2Proof.Machine.execRvatomWide f s
  | .rred f => Sys2Proof.Machine.execRred f s
  | .rredWide f => Sys2Proof.Machine.execRredWide f s
  | .rmcast f => Sys2Proof.Machine.execRmcast f s
  | .rmcastWide f => Sys2Proof.Machine.execRmcastWide f s
  | .fence f => Sys2Proof.Machine.execFence f s
  | .arrive f => Sys2Proof.Machine.execArrive f s
  | .waitb f => Sys2Proof.Machine.execWaitb f s
  | .waitbC f => Sys2Proof.Machine.execWaitbC f s
  | .waitbCWide f => Sys2Proof.Machine.execWaitbCWide f s
  | .waith f => Sys2Proof.Machine.execWaith f s
  | .barinit f => Sys2Proof.Machine.execBarinit f s
  | .trigarm f => Sys2Proof.Machine.execTrigarm f s
  | .trigcancel f => Sys2Proof.Machine.execTrigcancel f s
  | .moncfgConfigure f => Sys2Proof.Machine.execMoncfgConfigure f s
  | .moncfgSnapshot f => Sys2Proof.Machine.execMoncfgSnapshot f s
  | .moncfgSnapshotClear f => Sys2Proof.Machine.execMoncfgSnapshotClear f s
  | .moncfgStop f => Sys2Proof.Machine.execMoncfgStop f s
  | .tlbinv f => Sys2Proof.Machine.execTlbinv f s
  | .tlbinvPart f => Sys2Proof.Machine.execTlbinvPart f s
  | .tlbinvPkg f => Sys2Proof.Machine.execTlbinvPkg f s
  | .slotld f => Sys2Proof.Machine.execSlotld f s
  | .buddyset f => Sys2Proof.Machine.execBuddyset f s
  | .mret => Sys2Proof.Machine.execMret s
  | .wld f => Sys2Proof.Machine.execWld f s
  | .wswap => Sys2Proof.Machine.execWswap s
  | .ast f => Sys2Proof.Machine.execAst f s
  | .zclr f => Sys2Proof.Machine.execZclr f s
  | .zgrid f => Sys2Proof.Machine.execZgrid f s
  | .zcvt f => Sys2Proof.Machine.execZcvt f s
  | .mloop f => Sys2Proof.Machine.execMloop f s
  | .mend => Sys2Proof.Machine.execMend s
  | .marrive f => Sys2Proof.Machine.execMarrive f s
  | .mwait f => Sys2Proof.Machine.execMwait f s
  | .minc f => Sys2Proof.Machine.execMinc f s
  | .chordMulticast => Sys2Proof.Machine.execChordMulticast s
  | .chordRestart => Sys2Proof.Machine.execChordRestart s
  | .joinTimeout => Sys2Proof.Machine.execJoinTimeout s
  | .chordJoinTimeout => Sys2Proof.Machine.execChordJoinTimeout s
  | .transferMature => Sys2Proof.Machine.execTransferMature s
  | .loopEnd => Sys2Proof.Machine.execLoopEnd s
  | .syncGenerationComplete => Sys2Proof.Machine.execSyncGenerationComplete s
  | .waitTimeout => Sys2Proof.Machine.execWaitTimeout s
  | .tagWaitTimeout => Sys2Proof.Machine.execTagWaitTimeout s
  | .takeRecord => Sys2Proof.Machine.execTakeRecord s
  | .arrivalOverflowPush => Sys2Proof.Machine.execArrivalOverflowPush s
  | .schedulerDispatch => Sys2Proof.Machine.execSchedulerDispatch s
  | .batchPush => Sys2Proof.Machine.execBatchPush s
  | .priorityAging => Sys2Proof.Machine.execPriorityAging s
  | .skipLimit => Sys2Proof.Machine.execSkipLimit s
  | .coreLeaveNode => Sys2Proof.Machine.execCoreLeaveNode s
  | .engineNodeComplete => Sys2Proof.Machine.execEngineNodeComplete s
  | .decrement => Sys2Proof.Machine.execDecrement s
  | .failureNotice => Sys2Proof.Machine.execFailureNotice s
  | .notifyRingWrite => Sys2Proof.Machine.execNotifyRingWrite s
  | .notifyAck => Sys2Proof.Machine.execNotifyAck s
  | .corestartGo => Sys2Proof.Machine.execCorestartGo s
  | .coreMapWrite => Sys2Proof.Machine.execCoreMapWrite s
  | .preemptRequeue => Sys2Proof.Machine.execPreemptRequeue s
  | .preemptPark => Sys2Proof.Machine.execPreemptPark s
  | .preemptResume => Sys2Proof.Machine.execPreemptResume s
  | .preemptStop => Sys2Proof.Machine.execPreemptStop s
  | .drainTimeout => Sys2Proof.Machine.execDrainTimeout s
  | .imageSave => Sys2Proof.Machine.execImageSave s
  | .imageRestore => Sys2Proof.Machine.execImageRestore s
  | .bteRelease => Sys2Proof.Machine.execBteRelease s
  | .handleFillClaim => Sys2Proof.Machine.execHandleFillClaim s
  | .bteHandleTimeout => Sys2Proof.Machine.execBteHandleTimeout s
  | .bteCommandComplete => Sys2Proof.Machine.execBteCommandComplete s
  | .arriveApply => Sys2Proof.Machine.execArriveApply s
  | .seCommandStart => Sys2Proof.Machine.execSeCommandStart s
  | .seCommandComplete => Sys2Proof.Machine.execSeCommandComplete s
  | .streamEntryFetch => Sys2Proof.Machine.execStreamEntryFetch s
  | .streamEntryWrite => Sys2Proof.Machine.execStreamEntryWrite s
  | .pageWalk => Sys2Proof.Machine.execPageWalk s
  | .fabricWriteAtHome => Sys2Proof.Machine.execFabricWriteAtHome s
  | .remoteBarrierIncrement => Sys2Proof.Machine.execRemoteBarrierIncrement s
  | .putAcknowledge => Sys2Proof.Machine.execPutAcknowledge s
  | .multicastMemberDelivery => Sys2Proof.Machine.execMulticastMemberDelivery s
  | .rgetReadAtHome => Sys2Proof.Machine.execRgetReadAtHome s
  | .rgetReply => Sys2Proof.Machine.execRgetReply s
  | .rgetvComplete => Sys2Proof.Machine.execRgetvComplete s
  | .combineRequest => Sys2Proof.Machine.execCombineRequest s
  | .rfopAtHome => Sys2Proof.Machine.execRfopAtHome s
  | .combinedReplySplit => Sys2Proof.Machine.execCombinedReplySplit s
  | .rfopReply => Sys2Proof.Machine.execRfopReply s
  | .rvatomAtHome => Sys2Proof.Machine.execRvatomAtHome s
  | .cruPartialForward => Sys2Proof.Machine.execCruPartialForward s
  | .contributionAtRoot => Sys2Proof.Machine.execContributionAtRoot s
  | .roundTimeout => Sys2Proof.Machine.execRoundTimeout s
  | .roundEndMessage => Sys2Proof.Machine.execRoundEndMessage s
  | .peerTimeout => Sys2Proof.Machine.execPeerTimeout s
  | .slotTableEffect => Sys2Proof.Machine.execSlotTableEffect s
  | .monitorPeriodicSample => Sys2Proof.Machine.execMonitorPeriodicSample s
  | .uncorrectableError => Sys2Proof.Machine.execUncorrectableError s
  | .packageReset => Sys2Proof.Machine.execPackageReset s
  | .dieTableWrite => Sys2Proof.Machine.execDieTableWrite s
  | .windowTableWrite => Sys2Proof.Machine.execWindowTableWrite s
  | .reductionWindowWrite => Sys2Proof.Machine.execReductionWindowWrite s
  | .rankMapWrite => Sys2Proof.Machine.execRankMapWrite s
  | .graphTableWrite => Sys2Proof.Machine.execGraphTableWrite s
  | .contextTableWrite => Sys2Proof.Machine.execContextTableWrite s
  | .keyTableWrite => Sys2Proof.Machine.execKeyTableWrite s
  | .sweepRekey => Sys2Proof.Machine.execSweepRekey s
  | .deadPeerClear => Sys2Proof.Machine.execDeadPeerClear s
  | .ownershipWrite => Sys2Proof.Machine.execOwnershipWrite s
  | .pctlDefine => Sys2Proof.Machine.execPctlDefine s
  | .functionLevelReset => Sys2Proof.Machine.execFunctionLevelReset s
  | .launch => Sys2Proof.Machine.execLaunch s
  | .heartbeat => Sys2Proof.Machine.execHeartbeat s
  | .heartbeatPeriodExpiry => Sys2Proof.Machine.execHeartbeatPeriodExpiry s
  | .graceExpiry => Sys2Proof.Machine.execGraceExpiry s
  | .qnonceWrite => Sys2Proof.Machine.execQnonceWrite s
  | .extendWrite => Sys2Proof.Machine.execExtendWrite s
  | .keyload => Sys2Proof.Machine.execKeyload s
  | .efqPop => Sys2Proof.Machine.execEfqPop s
  | .monownWrite => Sys2Proof.Machine.execMonownWrite s
  | .islctlWrite => Sys2Proof.Machine.execIslctlWrite s
  | .islandChangeDone => Sys2Proof.Machine.execIslandChangeDone s
  | .pgctlDrain => Sys2Proof.Machine.execPgctlDrain s
  | .pgctlLoad => Sys2Proof.Machine.execPgctlLoad s
  | .firmwareLoadDone => Sys2Proof.Machine.execFirmwareLoadDone s
  | .registerWrite => Sys2Proof.Machine.execRegisterWrite s
  | .btePieceWrite => Sys2Proof.Machine.execBtePieceWrite s
  | .seRowOperation => Sys2Proof.Machine.execSeRowOperation s
  | .rgetvPieceLanding => Sys2Proof.Machine.execRgetvPieceLanding s
  | .microopComplete => Sys2Proof.Machine.execMicroopComplete s
  | .targetLinesReady => Sys2Proof.Machine.execTargetLinesReady s
  | .codeCopyComplete => Sys2Proof.Machine.execCodeCopyComplete s
  | .reportWritten => Sys2Proof.Machine.execReportWritten s

end Sys2Proof.Machine
end

