-- ==== Sys2Proof/Machine/Bundle.lean ====
section
/-! DEFINITION. Issuing a bundle: its decoding (R91 to R101), the checks and waits of a cycle (R373), its commit, and the
turn of a core in a cycle (R24 to R26, R32, R50). -/

namespace Sys2Proof.Machine

/-! ### What a context may not issue (R28, R98, R99, R119) -/

/-- An instruction that only context 0 may issue: class X, the stream instructions and some reads (R119, R129). It is refused
whatever its guard, the CSRRs of R129 too, which R98 does not list (DEDUCED, log entry 77). -/
def ctx0Instr : Instr → Bool
  | .mxcall _ => true
  | .mxprog _ => true
  | .mxprogTab _ => true
  | .zrd _ => true
  | .zwr _ => true
  | .mxstat _ => true
  | .strcfg _ => true
  | .stron _ => true
  | .stroff _ => true
  | .csrr f => ctx0Csr f.csr
  | _ => false
/-- A scalar context may not issue the instruction, by itself, its registers or its guard. -/
def refusedScalar (i : Instr) : Bool :=
  ctx0Instr i || decide (8 ≤ guardOf i) || (regReads i ++ regWrites i).any ctx0Only
/-- The guard is a lane mask (R99). -/
def laneGuard (slot : Nat) : Instr → Bool
  | .vld _ => true
  | .vldWide _ => true
  | .vst _ => true
  | .vstWide _ => true
  | .vldx _ => true
  | .vstx _ => true
  | .zrd _ => true
  | .zwr _ => true
  | _ => slot == 4 || slot == 5
/-- The slot is nullified by its guard as visible at issue (R99, R156, R175). -/
def State.slotOff (s : State) (slot : Nat) (i : Instr) : Bool :=
  if laneGuard slot i then s.guardMask (guardOf i) == 0 else !s.guard0 (guardOf i)
/-- A register has a write in flight in the issuing context (R26). -/
def State.inFlight (s : State) (r : RegName) : Bool :=
  writesReg r && (s.ctx s.iss.core s.iss.ctx).inflight.any fun q => q.reg == r
/-- The slot waits on a hazard in STRAND mode (R26, R175): its guard, or a register it reads. -/
def State.hazard (s : State) (slot : Nat) (i : Instr) : Bool :=
  s.inFlight (.p (guardOf i)) || (!s.slotOff slot i && (regReads i).any s.inFlight)

/-! ### One attempt to issue (R373) -/

/-- The BARINITs of other contexts of the core that are made in this cycle, after its M-slot accesses (R359), but for a strand
that the bundle before started: its first bundle comes after that bundle (R252, R415). -/
def State.freshInits (s : State) (c x : Nat) : List BarInit :=
  if (s.ctx c x).run.tookAt = s.clk.cycle then []
  else (s.core c).inits.filter fun i => i.at_ + 1 == s.clk.cycle && i.ctx != x
/-- The memory as context x sees it at issue: an object that another context's BARINIT writes in this cycle reads as
before; its own BARINIT precedes it (R415; log entry 87). -/
def State.viewFor (s : State) (c x : Nat) : Memory :=
  (s.freshInits c x).foldl (fun m i => i.old.elim m (m.writeN i.addr 16)) s.mem
/-- The bundle begins to issue: the record of the attempt. -/
def State.beginIssue (s : State) (c x a next : Nat) (b : Bundle) : State :=
  { s with iss := { Issue.reset with core := c, ctx := x, addr := a, next := next, mem := s.viewFor c x, faults := b.faults,
                                     suffix := b.suffix, ops := s.net.nextOp } }
/-- One slot acts on the state; a hazard with what was in flight before the bundle is noted in the second part. -/
def runSlot (s0 : State) (acc : State × Bool) (e : Nat × Instr) : State × Bool :=
  let s := acc.1.modIss fun k => { k with slot := e.1 }
  if s.iss.ctx != 0 && refusedScalar e.2 then (s.fault illegalInContext (s.wordTval e.2), acc.2)
  else if (s.core s.iss.core).ident.mode == 2 && s0.hazard e.1 e.2 then (s, true)
  else match exec e.2 s with
    | .next t => (t, acc.2)
    | .fault _ => (s, acc.2)
    | .refused _ => (s, acc.2)
/-- The slots in the order in which their effects are made: slot 0 last. -/
def slotOrder (l : List (Nat × Instr)) : List (Nat × Instr) :=
  (l.filter fun e => e.1 != 0) ++ l.filter fun e => e.1 == 0
/-- The fault a bundle reports: the first cause in priority, then the lowest slot (R100). -/
def pickFault : List SlotFault → Option SlotFault
  | [] => none
  | f :: l => match pickFault l with
    | none => some f
    | some g =>
      if causePriority f.code < causePriority g.code ∨ (causePriority f.code = causePriority g.code ∧ f.loc ≤ g.loc)
      then some f else some g
/-- Results of a core in flight, all contexts counted (R272). -/
def Core.flying (k : Core) : Nat := (k.ctxs.map fun t => t.2.inflight.length).foldl (· + ·) 0
/-- The results that the waiting slots of a bundle have not given, and would give at its issue (R272). -/
def State.withheld (s : State) (slots : List (Nat × Instr)) : Nat :=
  let k := s.ctx s.iss.core s.iss.ctx
  ((slots.filter fun e => s.iss.waits.any fun w => w.loc == e.1).map fun e =>
    ((regWrites e.2).filter writesReg).length - (k.inflight.filter fun r => r.order == k.run.issued && r.slot == e.1).length).foldl
      (· + ·) 0

/-- Kinds of wait that hold for results (R25): SMODE and TRET. -/
def isHold (w : SlotWait) : Bool := w.key / 16 == 12 || w.key / 16 == 15
/-- What an attempt comes to: a trap, a hazard, waits (whether the cycle counts as an issued bundle, R25), the hold of R272,
or the state to commit. -/
inductive Attempt where
  | trap (f : SlotFault)
  | hazard
  | waits (l : List SlotWait) (syncs held : Bool)
  | full
  | go (s : State)
/-- Attempt the bundle at address a of context x of core c, as its line l holds it. While a slot waits on a hazard in STRAND
mode the context is not ready (R26): its bundle makes no check and takes no trap until the hazard is over, also where
another slot faults (DEDUCED, log entry 88). -/
def State.attempt (s : State) (c x a : Nat) (l : BitVec 512) : Attempt :=
  match decodeBundle l a with
  | .error f => .trap f
  | .ok b =>
    let s0 := s.beginIssue c x a (s.seqNext c a) b
    let r := (slotOrder b.slots).foldl (runSlot s0) (s0, false)
    let beyond := decide (64 < (r.1.core c).flying + r.1.withheld b.slots)
    if r.2 then .hazard
    else match pickFault r.1.iss.faults with
    | some f => .trap f
    | none =>
      if !r.1.iss.waits.isEmpty then .waits r.1.iss.waits (r.1.iss.syncs && !beyond) (beyond || r.1.iss.waits.any isHold)
      else if beyond then .full
      else .go r.1

/-! ### Waiting -/

/-- The waits now unmet, each with the cycle and limit at which it began (R137). -/
def stampWaits (old : List Wait) (live : Nat) (l : List SlotWait) : List Wait :=
  l.filterMap fun w => w.limit.map fun n =>
    match old.find? fun o => o.key == w.key with
    | some o => o
    | none => ⟨w.key, w.code, w.tval, w.loc, live, n⟩
/-- Waits of a context that are over are sampled (R367): those of `old` that are not among `now`. -/
def State.sampleWaits (s : State) (c x : Nat) (now : List Wait) : State :=
  let k := s.core c
  ((k.ctx x).run.waits.filter fun w => !now.any fun v => v.key == w.key).foldl (fun s w =>
    let src := if w.key / 16 = 2 then 4 else 5
    if w.key / 16 = 2 ∨ w.key / 16 = 8 then s.sample (dieOf c) k.ident.part src (some (clusterOf c)) (k.stat.live - w.start)
    else s) s
/-- The context waits: an overdue wait raises its timeout, the lowest code first (R373). -/
def State.waiting (s : State) (c x : Nat) (l : List SlotWait) (syncs : Bool) : State :=
  let live := (s.core c).stat.live
  let now := stampWaits (s.ctx c x).run.waits live l
  let s := (s.sampleWaits c x now).modCtx c x fun k =>
    { k with run := { k.run with waits := now, readySince := s.clk.cycle + 1 } }
  let s := if syncs && l.all fun w => w.key / 16 == 11 then s.arriveSync c else s
  if (s.overdue c x tagWaitTimeout).isSome then s.nextEvent .tagWaitTimeout [c, x]
  else if (s.overdue c x waitTimeout).isSome then s.nextEvent .waitTimeout [c, x]
  else s
/-- A hazard: the context is not ready (R26). -/
def State.notReady (s : State) (c x : Nat) : State :=
  (s.sampleWaits c x []).modCtx c x fun k => { k with run := { k.run with waits := [], readySince := s.clk.cycle + 1 } }

/-! ### Results that do more than write a register (R95, R217, R291) -/

/-- The attempt traps. -/
def Attempt.traps : Attempt → Bool
  | .trap _ => true
  | .hazard => false
  | .waits _ _ _ => false
  | .full => false
  | .go _ => false
/-- The bundle that context 0 issues next would trap as things stand: the results of the last boundary are then captured,
with their pushes and arrivals (R374; log entry 102). -/
def State.nextTraps (s : State) (c : Nat) : Bool :=
  let k := s.core c
  let q := if k.inStream then k.fetch.queue.head? else none
  let a := q.elim (s.resolve c (k.ctx 0).pc) (·.addr)
  let l := q.elim (s.peekLine c a) (·.line)
  (k.ctx 0).run.active && (k.ctx 0).run.join.isNone && headerAt l a != skipMarker && (s.attempt c 0 a l).traps
/-- The core's node is stopped in this cycle by a pre-emption, which captures the same (R381). -/
def State.stopsNow (s : State) (c : Nat) : Bool :=
  let k := (s.core c).ident
  let r := (s.die k.home).sched.regs
  k.placed && r.phase == 1 && r.runNode == k.node % 4096 && s.clk.agenda.any fun t => t == .event .preemptStop [k.home]
/-- The pushes and arrivals of context 0's last boundary are made, unless its next bundle traps or its node stops. -/
def State.land (s : State) (c : Nat) : State :=
  if (s.ctx c 0).unlanded.isEmpty || s.stopsNow c || s.nextTraps c then s else s.landAll c 0
/-- The waits of pushes that find no room in their streams (R271, R291). -/
def State.pushWaits (s : State) (c : Nat) (l : List Result) : List SlotWait :=
  (l.filter fun r => !(s.core c).roomFor [] r).map fun r =>
    ⟨(40 + r.reg.stream?.getD 0) * 16 + r.slot, waitTimeout, 0, r.slot, some (s.waitLimit c)⟩
/-- A result of the context may push or arrive at the next boundary: one in flight, or one that TRET brings back. -/
def Ctx.mayLand (k : Ctx) : Bool := (k.inflight ++ k.cap.elim [] (·.results)).any fun r => r.lands && decide (r.rem ≤ 1)
/-- A cycle that counts as an issued bundle for context 0's results (R25, R188); a push without room holds the rest. -/
def State.drainTick (s : State) (c : Nat) : State :=
  let s := s.landAll c 0
  if (s.ctx c 0).unlanded.isEmpty then (s.tickExposed c 0).landAll c 0 else s

/-! ### Committing a bundle -/

/-- The arrival of a suffix entry is put on the last result of its slot. -/
def markArrive (slot order bar : Nat) (l : List Result) : List Result :=
  let mine := l.filter fun r => r.order == order && r.slot == slot
  let last := mine.foldl (fun m r => max m r.rem) 0
  let rec go : List Result → List Result
    | [] => []
    | r :: t => if r.order = order ∧ r.slot = slot ∧ r.rem = last then { r with arrive := some bar } :: t else r :: go t
  go l
/-- One used suffix entry (R95, R96): at the engine operation's completion, at the slot's last result, or at the
boundary. An engine operation's arrival has a number of its own, so that a fence waits for it too (R259). BUDDYSET, which
R95 lists with the instructions that write no register, writes one (R347): its arrival is at that result's visibility
(DEDUCED, log entry 93). -/
def State.suffixEntry (s : State) (c x : Nat) (off : Nat → Bool) (e : Nat × Nat) : State :=
  let n := (s.ctx c x).run.issued
  if off e.1 then s
  else match (if e.1 = 7 then s.iss.engine else none) with
    | some op =>
      let o := s.ctxOp c x false
      o.2.addArrive c ⟨s.clk.cycle, e.2, 1, [op], o.1, 8, some x⟩
    | none =>
      if (s.ctx c x).inflight.any fun r => r.order == n && r.slot == e.1 then
        s.modCtx c x fun k => { k with inflight := markArrive e.1 n e.2 k.inflight }
      else s.addArrive c ⟨s.clk.cycle, e.2, 1, [], 0, e.1, none⟩
/-- One effect of the boundary (R100). -/
def State.applyEff (s : State) (c x : Nat) (e : Eff) : State :=
  match e with
  | .bytes a n v => { s with mem := s.mem.writeN a n v }
  | .csr _ n v => s.writeCsr c x n v
  | .handleFull h => if hState (s.handleWord s.mem c h) = 2 then s.setHandle c h 3 else s
  | .handleFree h =>
    let w := s.handleWord s.mem c h
    let s := s.setHandle c h 0
    if bits w 56 1 = 1 then s.addArrive c ⟨s.clk.cycle, bits w 57 5, 1, [], 0, 7, none⟩ else s
/-- The CSR numbers written. -/
def csrNums (l : List Eff) : List Nat := l.filterMap fun e => match e with
  | .csr _ n _ => some n
  | .bytes _ _ _ => none
  | .handleFull _ => none
  | .handleFree _ => none
/-- What an attached core's bundle tells the Chord (R34). -/
def State.noteOf (s : State) (c num order : Nat) (i : Instr) : List Note :=
  let k := s.ctx c 0
  let lp := s.iss.loop.map fun l => (l, if l = 0 then k.l0 else k.l1)
  let skip := match s.iss.ctl with
    | .skip t => some t
    | .none => none
    | .detach => none
    | .mode _ => none
    | .halt => none
    | .suspend _ => none
    | .trap _ => none
    | .tret => none
    | .join _ => none
  let t := (k.pend.find? fun p => p.order == order).map fun p => (p.target, p.lines)
  match i with
  | .trans _ => [⟨num, t, none, none⟩]
  | .loopImm _ => [⟨num, none, lp, skip⟩]
  | .loopReg _ => [⟨num, none, lp, skip⟩]
  | _ => []
/-- An attached core has issued the head of its queue. -/
def State.popQueue (s : State) (c order : Nat) (slots : List (Nat × Instr)) : State :=
  match (s.core c).fetch.queue with
  | [] => s
  | q :: l =>
    let n := match slots.head? with
      | some (0, i) => s.noteOf c q.num order i
      | some (_ + 1, _) => []
      | none => []
    s.modCore c fun k =>
      { k with fetch := { k.fetch with queue := l, lastNum := q.num, fresh := false,
                                       notes := (k.fetch.notes ++ n).drop ((k.fetch.notes ++ n).length - 32) } }
/-- A write of a control register: in force from the next bundle on (R152), it follows the boundary's other effects. -/
def Eff.isCsr : Eff → Bool
  | .csr _ _ _ => true
  | .bytes _ _ _ => false
  | .handleFull _ => false
  | .handleFree _ => false
/-- The arrivals of the boundary reach the barriers where they were: they are applied before BARBASE changes (R134, R152). -/
def State.arriveFirst (s : State) (c : Nat) (l : List Eff) : State :=
  if (csrNums l).contains 0x020 then s.applyArrivals c else s
/-- Context x stops at HALT (R188): an attached core leaves the Chord's stream. In a handler of an attached core
it leaves the cluster frozen (DEDUCED, log entry 90). -/
def State.haltCtx (s : State) (c x : Nat) : State :=
  let exposed := (s.core c).ident.mode != 2
  let s := if exposed then s.tickExposed c x else s
  let s := s.modCtx c x fun k => { k with pend := [], run := { k.run with active := false, ended := true, waits := [] } }
  if x = 0 then (s.dropQueue c).idleChord (clusterOf c) else s
/-- Context x is parked (R46, R187): its record is pushed and it is dormant. -/
def State.park (s : State) (c x : Nat) (r : Record) (yields : Bool) : State :=
  let s := s.pushRecord (dieOf c) r (if yields then 0 else c) (if yields then 0 else s.clk.cycle + 1024) (some c)
  s.modCtx c x fun k => { k with pend := [], run := { k.run with active := false, waits := [] } }
/-- The bundle is decided: what its boundary waits for next, or its boundary itself (R178, R180, R181). A JOIN that waits has
issued, and counts (DEDUCED, log entry 60). -/
def State.toBoundary (s : State) (c x : Nat) (r : Record) : State :=
  let k := s.ctx c x
  let path := fun (s : State) =>
    if (duePending k.pend).isSome then s.nextEvent .transferMature [c, x]
    else match s.iss.ctl with
      | .skip t => s.settle t
      | .none => if k.loopEndsAt s.iss.addr then s.nextEvent .loopEnd [c, x] else s.settle s.iss.next
      | .detach => if k.loopEndsAt s.iss.addr then s.nextEvent .loopEnd [c, x] else s.settle s.iss.next
      | .mode _ => if k.loopEndsAt s.iss.addr then s.nextEvent .loopEnd [c, x] else s.settle s.iss.next
      | .trap _ => if k.loopEndsAt s.iss.addr then s.nextEvent .loopEnd [c, x] else s.settle s.iss.next
      | .halt => s
      | .suspend _ => s
      | .tret => s
      | .join _ => s
  let tick := fun (s : State) => if (s.core c).ident.mode = 2 then s else s.tickExposed c x
  match s.iss.ctl with
  | .halt => s.haltCtx c x
  | .suspend y => s.park c x r y
  | .tret =>
    let s := (tick s).returnTrap c x
    (if (s.core c).ident.mode = 2 then s else s.matureNow c x).compareHead c
  | .join n =>
    let live := (s.core c).stat.live
    let lim := max 1 (s.core c).csr.joinlimit
    let s := (tick s).modCtx c x fun k =>
      { k with run := { k.run with join := some n, waits := [⟨19 * 16, joinTimeout, 0, 0, live, lim⟩] } }
    let h := (s.cluster (clusterOf c)).chord
    if h.joined = some (n, s.clk.cycle) && h.serves (s.core c) then (s.reattach c h.num).turnOn c else s
  | .none => path (s.modIss fun k => { k with open_ := true })
  | .skip _ => path (s.modIss fun k => { k with open_ := true })
  | .detach => path (s.modIss fun k => { k with open_ := true })
  | .mode _ => path (s.modIss fun k => { k with open_ := true })
  | .trap _ => path (s.modIss fun k => { k with open_ := true })
/-- Objects that another context's BARINIT writes in this cycle keep what it wrote: the M-slot access precedes it (R359). -/
def State.keepInits (s t : State) (c x : Nat) : State :=
  { s with mem := (t.freshInits c x).foldl (fun m i =>
      m.writeN i.addr 16 (t.mem.readN i.addr 16)) s.mem }
/-- The counts of the watched bytes after the stores of a bundle; where it issues an operation too (slots 6 and 7), the bytes
are watched from now on (R218, R256). -/
def storeCounts (old : Tab Nat) (stored : List (Nat × Nat)) (issues : Bool) : Tab Nat :=
  stored.foldl (fun w r => (List.range r.2).foldl (fun w i =>
    let a := r.1 + i
    if issues || (Tab.find old a).isSome then Tab.set w a (Tab.get 0 old a + 1) else w) w) old
/-- The bundle commits: `s` holds what its slots did; `t` is the state in which it was attempted (R100, R373). Two CSRW of
the bundle to one register set WCOLL in the exposed modes only: R153 names no mode, R139 never sets it in STRAND mode
(DEDUCED, log entry 94). -/
def State.commit (s t : State) (c x : Nat) (b : Bundle) : State :=
  let order := (t.ctx c x).run.issued
  let off := fun (n : Nat) => match Tab.find b.slots n with
    | some i => (t.modIss fun k => { k with core := c, ctx := x }).slotOff n i
    | none => true
  let rec_ := s.formRecord c x s.iss.next (s.ctx c x).csr.pri
  let s := { s with watch := storeCounts s.watch s.iss.stored (b.slots.any fun e => decide (6 ≤ e.1)) }
  let s := s.sampleWaits c x []
  let s := b.suffix.foldl (fun s e => s.suffixEntry c x off e) s
  let dup := (t.core c).ident.mode != 2 && !distinct (csrNums s.iss.defer)
  let l := s.iss.defer
  let s := (l.filter fun e => !e.isCsr).foldl (fun s e => s.applyEff c x e) s
  let s := ((l.filter fun e => e.isCsr).foldl (fun s e => s.applyEff c x e) (s.arriveFirst c l)).keepInits t c x
  let s := if dup then s.modCtx c x fun k => { k with csr := { k.csr with wcoll := true } } else s
  let s := if (t.core c).inStream then s.popQueue c order b.slots else s
  let s := s.modCtx c x fun k =>
    { k with pend := k.pend.map fun p => if p.order = order then p else { p with rem := p.rem - 1 }
             run := { k.run with issued := order + 1, hasIssued := true, lastIssue := s.clk.cycle,
                                 readySince := s.clk.cycle + 1, waits := [] } }
  let words := (Tab.find b.slots 3).elim [] (t.modIss fun k => { k with core := c, ctx := x, mem := t.viewFor c x }).slotWords
  let s := s.modCore c fun k =>
    { k with stat := { k.stat with stall := s.iss.stall }, mx := { k.mx with slotAt := s.clk.cycle, slotWords := words } }
  (if (t.core c).ident.mode ≠ 2 && (s.ctx c x).mayLand then s.nextTurn (.land c) else s).toBoundary c x rec_

/-! ### A core's turn -/

/-- A line enters the fetch buffer unless it is there (R24, R196). -/
def State.loadLine (s : State) (c a : Nat) : State :=
  let q := a % 2 ^ 24 / 64 * 64
  let k := s.core c
  if k.fetch.lines.any fun e => e.1 == q then s
  else
    let l := s.codeLine k.ident.part (clusterOf c) q
    s.modCore c fun k => { k with fetch := { k.fetch with lines := keepLines k.fetch.lines [(q, l)] } }
/-- Take the trap of a fault found at a bundle's issue. -/
def State.faultTrap (s : State) (c x a : Nat) (f : SlotFault) : State := s.takeTrap c x f.loc f.code f.tval a
/-- A cycle that counts as an issued bundle for the results in flight (R25). -/
def State.heldCycle (s : State) (c : Nat) : State :=
  if (s.core c).ident.mode = 2 then s else s.drainTick c
/-- Act on the outcome of an attempt. -/
def State.act (s : State) (c x a : Nat) (l : BitVec 512) (r : Attempt) : State :=
  match r with
  | .trap f => s.faultTrap c x a f
  | .hazard => s.notReady c x
  | .full => (s.notReady c x).heldCycle c
  | .waits w y held =>
    let s' := s.waiting c x w y
    if held && s'.clk.agenda.length == s.clk.agenda.length then s'.heldCycle c else s'
  | .go t => match decodeBundle l a with
    | .ok b => t.commit s c x b
    | .error f => s.faultTrap c x a f
/-- The line of an address is in the fetch buffer. -/
def State.hasLine (s : State) (c a : Nat) : Bool := (s.core c).fetch.lines.any fun e => e.1 == a % 2 ^ 24 / 64 * 64
/-- A line that is not in the fetch buffer comes when the free value says so: the manual states no duration (R418); not while it is being rekeyed (R392). -/
def State.fetchLine (s : State) (c a : Nat) : State :=
  if s.hasLine c a then s
  else if Config.delayed s.clk.ctr || s.lineWaits (s.core c).ident.part (clusterOf c) a then s.draw.2 else s.draw.2.loadLine c a
/-- Issue from a private fetch at the context's own address, once its line is there (R24); nothing where every line is a
marker. -/
def State.issuePrivate (s : State) (c x : Nat) : State :=
  let a := s.resolve c (s.ctx c x).pc
  let s := s.fetchLine c a
  let l := s.peekLine c a
  if !s.hasLine c a || headerAt l a = skipMarker then s else s.act c x a l (s.attempt c x a l)
/-- Issue the head of the decode queue, from the second cycle after its multicast on (R32). -/
def State.issueQueue (s : State) (c : Nat) : State :=
  match (s.core c).fetch.queue with
  | [] => s
  | q :: _ => if q.readyAt ≤ s.clk.cycle then s.act c 0 q.addr q.line (s.attempt c 0 q.addr q.line) else s
/-- Context 0 of a core in an exposed mode (R25, R37, R188); a push of the last boundary that finds no room stalls it, unless
its bundle traps (R291, R373). -/
def State.turnExposed (s : State) (c : Nat) : State :=
  let k := s.ctx c 0
  if k.run.ended then s.drainTick c
  else if !k.run.active then s
  else if !k.unlanded.isEmpty && !s.nextTraps c then s.waiting c 0 (s.pushWaits c k.unlanded) false
  else if k.run.join.isSome then
    if (s.overdue c 0 joinTimeout).isSome then s.nextEvent .joinTimeout [c] else s
  else if (s.core c).inStream then s.issueQueue c
  else s.issuePrivate c 0

/-- The contexts that may issue, by R50: the one that issued least recently first, then the earliest ready, then the
lowest. -/
def issueKey (k : Ctx) (x : Nat) : Nat × Nat × Nat :=
  (if k.run.hasIssued then k.run.lastIssue else k.run.readySince, k.run.readySince, x)
/-- Lexicographic order of issue keys. -/
def keyBefore (a b : Nat × Nat × Nat) : Bool :=
  decide (a.1 < b.1) || (a.1 == b.1 && (decide (a.2.1 < b.2.1) || (a.2.1 == b.2.1 && decide (a.2.2 ≤ b.2.2))))
/-- Insert by issue key. -/
def insertCtx (k : Core) (x : Nat) : List Nat → List Nat
  | [] => [x]
  | y :: l => if keyBefore (issueKey (k.ctx y) y) (issueKey (k.ctx x) x) then y :: insertCtx k x l else x :: y :: l
/-- The active contexts in the order of R50. -/
def Core.issueOrder (k : Core) : List Nat :=
  ((List.range 16).filter fun x => (k.ctx x).run.active).foldl (fun l x => insertCtx k x l) []
/-- The bundle a context would issue can issue or traps. -/
def Attempt.ready : Attempt → Bool
  | .trap _ => true
  | .go _ => true
  | .hazard => false
  | .waits _ _ _ => false
  | .full => false
/-- A context whose line is still to come is not ready (R50). -/
def State.awaitLine (s : State) (c x : Nat) : State :=
  s.modCtx c x fun k => { k with run := { k.run with readySince := s.clk.cycle + 1 } }
/-- A context that another precedes by R50 does not arrive at a SYNC in this cycle: it would not issue (R42). -/
def Attempt.later : Attempt → Attempt
  | .waits l _ held => .waits l false held
  | .trap f => .trap f
  | .hazard => .hazard
  | .full => .full
  | .go s => .go s
/-- One cycle of a core in STRAND mode (R50): every active context is examined, those not ready wait, and the first ready
one issues; context 0 goes first where its SYNC issues, at the common TIME of R42. -/
def State.turnStrand (s : State) (c : Nat) : State :=
  let seen := (s.core c).issueOrder.foldl (fun (acc : State × List Nat) x =>
    let a := acc.1.resolve c (acc.1.ctx c x).pc
    let full := acc.1.pushWaits c ((acc.1.ctx c x).inflight.filter fun r => r.rem == 0)
    let s := acc.1.fetchLine c a
    let l := s.peekLine c a
    if !full.isEmpty then (acc.1.waiting c x full false, acc.2)
    else if !s.hasLine c a then (s.awaitLine c x, acc.2)
    else if headerAt l a = skipMarker then (s, acc.2)
    else
      let r := s.attempt c x a l
      if r.ready then (s, acc.2 ++ [x]) else (s.act c x a l (if acc.2.isEmpty then r else r.later), acc.2)) (s, [])
  match (if (s.core c).sync.go.isSome && seen.2.contains 0 then some 0 else seen.2.head?) with
  | none => seen.1
  | some x => seen.1.issuePrivate c x

/-- One tick of the core's island is credited; whether the island's own clock ticks (R2, R409). -/
def State.islandTick (s : State) (c : Nat) : State × Bool :=
  let f := (s.core c).stat.credit + s.frac (pkgOf c) (2 * (c % 512))
  (s.modCore c fun k => { k with stat := { k.stat with credit := f % 64 } }, decide (64 ≤ f))
/-- Results of a STRAND core's contexts come one cycle nearer (R26); those of scalar contexts do so in any mode: such a
context can be dormant with results in flight when SMODE leaves STRAND mode (R59, R188). -/
def State.tickContexts (s : State) (c : Nat) : State :=
  let own := (s.core c).ident.mode == 2
  ((List.range 16).filter fun x => (own || x != 0) && !(s.ctx c x).inflight.isEmpty).foldl (fun s x => s.tickStrand c x) s
/-- A core's turn in a cycle; a core whose island changes is halted, and no limit counts the cycle (R410). -/
def State.coreTurn (s : State) (c : Nat) : State :=
  let k := s.core c
  if k.stat.frozen || k.stat.stopped || k.stat.dead || s.frac (pkgOf c) (2 * (c % 512)) == 0 then s
  else
    let s := s.modCore c fun k => { k with stat := { k.stat with live := k.stat.live + 1 } }
    let t := s.islandTick c
    if !t.2 then t.1
    else
      let s := match k.tagRun with
        | some r => t.1.tagStep c r
        | none => t.1
      let s := match k.slotRun with
        | some r => s.slotStep c r
        | none => s
      let s := s.tickContexts c
      let s := if k.ident.mode = 2 then s else s.land c
      if (s.core c).stat.stall ≠ 0 then
        let s := s.modCore c fun k => { k with stat := { k.stat with stall := k.stat.stall - 1 } }
        if k.ident.mode ≠ 2 ∧ (s.ctx c 0).run.ended then s.drainTick c else s
      else if k.ident.mode = 2 then s.turnStrand c
      else s.turnExposed c

end Sys2Proof.Machine
end

