-- ==== Sys2Proof/Machine/Cycle.lean ====
section
/-! DEFINITION. A cycle of the network: what takes its turn in it, and in which order (R2, R49, R377, R410, R418). A turn
is put off where the manual states no duration (log entry 14). -/

namespace Sys2Proof.Machine

/-! ### The start of a cycle -/

/-- What a host or the world outside can do (R206, R400): the rest are the machine's own events. -/
def hostAction : Instr → Bool
  | .corestartGo => true
  | .coreMapWrite => true
  | .preemptRequeue => true
  | .preemptPark => true
  | .preemptResume => true
  | .uncorrectableError => true
  | .packageReset => true
  | .dieTableWrite => true
  | .windowTableWrite => true
  | .reductionWindowWrite => true
  | .rankMapWrite => true
  | .graphTableWrite => true
  | .contextTableWrite => true
  | .keyTableWrite => true
  | .deadPeerClear => true
  | .ownershipWrite => true
  | .pctlDefine => true
  | .functionLevelReset => true
  | .launch => true
  | .heartbeat => true
  | .qnonceWrite => true
  | .extendWrite => true
  | .keyload => true
  | .efqPop => true
  | .monownWrite => true
  | .islctlWrite => true
  | .pgctlDrain => true
  | .pgctlLoad => true
  | .registerWrite => true
  | _ => false
/-- The host's action of a cycle. -/
def hostTurns : List (Option (Instr × List Nat)) → List Turn
  | some (i, l) :: _ => if hostAction i then [.event i l] else []
  | none :: _ => []
  | [] => []
/-- A cluster is frozen while a handler of one of its attached cores runs (R377); a core that has halted is not frozen: its
results go on (R188). -/
def State.thaw (s : State) : State :=
  let hs := (s.cores.filter fun e => e.2.stat.handler).map fun e => clusterOf e.1
  let cold := fun (c : Nat) (k : Core) => k.attached && !k.stat.handler && hs.contains (clusterOf c)
  { s with
    cores := s.cores.map fun (e : Nat × Core) => (e.1, { e.2 with stat := { e.2.stat with frozen := cold e.1 e.2 } })
    clusters := s.clusters.map fun (e : Nat × Cluster) => (e.1, { e.2 with chord := { e.2.chord with frozen := hs.contains e.1 } }) }
/-- Monitor snapshots that were asked for in the cycle before are written (R367). -/
def State.snapshots (s : State) : State :=
  ((s.cores.filter fun e => e.2.snap.isSome).map (·.1)).foldl (fun s c => s.snapshot c) s
/-- The BARINITs of the cycle before are made (R359). -/
def State.initAll (s : State) : State :=
  ((s.cores.filter fun e => !e.2.inits.isEmpty).map (·.1)).foldl (fun s c => s.makeInits c) s
/-- Fabric operations whose fence is met leave. -/
def State.departAll (s : State) : State :=
  (s.net.fops.filter fun e => e.2.stage == 0).foldl (fun (s : State) e => s.departFop e.1 e.2) s

/-! ### Turns -/

/-- A turn that a cycle holds: whether it may be put off, the event and its operands. -/
abbrev Due := Bool × Turn
/-- A turn that takes place in this cycle. -/
def now_ (i : Instr) (l : List Nat) : Due := (false, .event i l)
/-- A turn whose time the manual does not state. -/
def some_ (i : Instr) (l : List Nat) : Due := (true, .event i l)
/-- A list if a condition holds. -/
def onlyIf (b : Bool) (l : List Due) : List Due := if b then l else []
/-- The turns left after those put off, by the free value from a number on. -/
def settleDue : Nat → List Due → List Turn
  | _, [] => []
  | n, (false, t) :: l => t :: settleDue n l
  | n, (true, t) :: l => if Config.delayed n then settleDue (n + 1) l else t :: settleDue (n + 1) l

/-! ### Cores and Chords -/

/-- Target registers whose lines have come (R176). -/
def targetTurns (now c : Nat) (k : Core) : List Due :=
  k.ctxs.flatMap fun x => (x.2.tb.filter fun t => t.2.state == 1 && decide (t.2.readyAt ≤ now)).map fun t =>
    now_ .targetLinesReady [c, x.1, t.1]
/-- A Chord's turn (R32, R39). -/
def State.chordTurns (s : State) (cl : Nat) (k : Cluster) : List Due :=
  if !s.clusterOn cl then []
  else if k.chord.on then [now_ .chordMulticast [cl]]
  else onlyIf (!(s.restartCores cl).isEmpty) [now_ .chordRestart [cl]]
/-- Insert by physical number. -/
def State.insertPhys (s : State) (c : Nat) : List Nat → List Nat
  | [] => [c]
  | d :: l => if s.physCore d ≤ s.physCore c then d :: s.insertPhys c l else c :: d :: l
/-- Cores that may take records, in increasing physical number (R49); no rule says how long a dormant context waits (R418). -/
def State.takeTurns (s : State) : List Due :=
  (((s.cores.filter fun e => e.2.takes && s.coreOn e.1).map (·.1)).foldl (fun l c => s.insertPhys c l) []).map fun c =>
    some_ .takeRecord [c]
/-- The turns of the cores that hold a node or a host start. -/
def coreTurns (l : Tab Core) : List Due :=
  (l.filter fun e => decide (e.1 < packages * 512) && (e.2.ident.placed || e.2.ident.started)).map fun e => (false, .core e.1)
/-- What follows a core's turn: its arrivals and triggers (R355), its matrix engine (R238), its arrivals' overflow (R51). -/
def ownTurns (c : Nat) (k : Core) : List Due :=
  onlyIf (k.ident.placed || k.ident.started || !k.arrives.isEmpty) [now_ .arriveApply [c]]
    ++ onlyIf k.mx.awake [now_ .microopComplete [c]]
    ++ onlyIf (!k.overflow.isEmpty) [now_ .arrivalOverflowPush [c]]
/-- A read stream's entries come from SPM one a cycle (R291); from CMEM and DMEM no sooner than R291 says, and no upper time
is promised (R418). -/
def fetchFree (t : Stream) : Bool := t.walk.elim false fun w => decide (1 < spaceOf w.base)
/-- The streams of a core (R288, R292). -/
def State.streamTurns (s : State) (c : Nat) (k : Core) : List Due :=
  if !s.coreOn c then []
  else k.streams.flatMap fun t =>
    onlyIf (s.mayFetch t.2) [(fetchFree t.2, .event .streamEntryFetch [c, t.1])]
      ++ onlyIf (!t.2.unwritten.isEmpty) [some_ .streamEntryWrite [c, t.1]]
/-- The core may leave its node. -/
def leaveTurns (c : Nat) (k : Core) : List Due :=
  onlyIf ((k.ident.placed || k.ident.started) && (k.stat.dead || (k.ctx 0).run.ended)) [now_ .coreLeaveNode [c]]

/-! ### Engines -/

/-- Up to two entries of a list, in turn from cycle to cycle. -/
def inTurn (n : Nat) (l : List Nat) : List Nat :=
  match l with
  | [] => []
  | [a] => [a]
  | _ :: _ :: _ => [l.getD (n % l.length) 0, l.getD ((n + 1) % l.length) 0]
/-- A waiting fill finds its handle FREE, or an entry that fails it (R276, R280). -/
def State.mayClaim (s : State) (m : Cmd) : Bool :=
  m.phase == 1 && m.handleAt.elim false fun a => hBad (s.mem.readN a 8) || hState (s.mem.readN a 8) == 0
/-- A BTE's turns (R274 to R278). -/
def State.bteTurns (s : State) (cl : Nat) (k : Cluster) : List Due :=
  let b := k.bte
  let moving := (b.slots.filter fun e => e.2.phase == 2 && e.2.more).map (·.1)
  if !s.clusterOn cl then []
  else onlyIf (!b.coming.isEmpty || !b.buffer.isEmpty) [now_ .bteRelease [cl]]
    ++ (b.slots.filter fun e => s.mayClaim e.2).map (fun e => now_ .handleFillClaim [cl, e.1])
    ++ (b.slots.filter fun e => e.2.phase == 1).map (fun e => now_ .bteHandleTimeout [cl, e.1])
    ++ (inTurn s.clk.cycle moving).map (fun i => some_ .btePieceWrite [cl, i])
    ++ (b.slots.filter fun e => e.2.phase == 2).map (fun e => some_ .bteCommandComplete [cl, e.1])
/-- The turns of a die's two stack engines (R284 to R287): a command ends where both of them run. -/
def State.seTurns (s : State) (d : Nat) (k : Die) : List Due :=
  onlyIf (!k.se.isEmpty) (some_ .seCommandStart [d]
    :: onlyIf (s.stackOn d 0) [some_ .seRowOperation [d, 0]] ++ onlyIf (s.stackOn d 1) [some_ .seRowOperation [d, 1]]
    ++ onlyIf (s.stackOn d 0 && s.stackOn d 1) [some_ .seCommandComplete [d]])

/-! ### Fabric -/

/-- The events that an operation on its way can meet next. -/
def Fop.events (f : Fop) : List Instr :=
  match f.kind with
  | 0 => [.fabricWriteAtHome, .remoteBarrierIncrement, .putAcknowledge]
  | 1 => if f.stage = 1 then [.rgetReadAtHome] else [.rgetReply]
  | 2 => if f.left.isEmpty then [.rgetvComplete] else [.rgetvPieceLanding]
  | 3 => if f.stage = 2 then [.rfopReply] else if f.atHome then [.rfopAtHome] else [.combineRequest]
  | 4 => if f.left.isEmpty then [.putAcknowledge] else [.rvatomAtHome]
  | 5 => [.contributionAtRoot]
  | 6 => [.multicastMemberDelivery, .remoteBarrierIncrement, .putAcknowledge]
  | 7 => if f.stage = 2 then [.combinedReplySplit] else if f.atHome then [.rfopAtHome] else [.combineRequest]
  | _ => if f.stage = 6 then [.multicastMemberDelivery, .remoteBarrierIncrement] else [.fabricWriteAtHome]
/-- CRU n of a package runs: its combining plane's island does (R19, R410). -/
def State.cruOn (s : State) (pkg n : Nat) : Bool := s.islandOn pkg (1164 + n / 2)
/-- The unit that an operation meets next runs: the router or CRU of its path, or its round's root (R304, R310). -/
def State.meetsOn (s : State) (f : Fop) : Bool :=
  if f.kind = 5 then s.cruOn f.pkg (f.win % 32)
  else if !f.combines || f.stage != 1 then true
  else match f.buf with
    | none => true
    | some b => if b < 2 ^ 20 then s.clusterOn b else s.cruOn ((b - 2 ^ 20) / 32) ((b - 2 ^ 20) % 32)
/-- The operation's partition is RESETTING in a package it goes to (R398). -/
def State.heldByReset (s : State) (f : Fop) : Bool := (f.pkg :: f.dlv.map (·.pkg)).any fun q => s.resets f.by_.part q
/-- An operation's turns. -/
def State.fopTurns (s : State) (op : Nat) (f : Fop) : List Due :=
  let age := s.clk.cycle - f.at_
  onlyIf (f.stage != 0 && f.stage != 3 && f.stage != 4 && f.stage != 7 && !s.heldByDrain f && !s.heldByReset f
      && (f.kind == 8 || s.dieOn f.by_.die) && s.meetsOn f)
      (f.events.map fun i => some_ i [op])
    ++ onlyIf (decide (s.peerLimit f.from_ < age) && !(s.overduePeers f.from_ f).isEmpty) [now_ .peerTimeout [f.from_, op]]
/-- The turns of a package's reduction windows (R310, R314, R316). -/
def State.roundTurns (s : State) (p : Nat) (k : Pkg) : List Due :=
  let gathers := fun (w : Nat) => s.net.fops.any fun e => e.2.kind == 5 && e.2.from_ == p && e.2.win == w
  (k.apex.redwins.filter fun w => gathers w.1 && s.cruOn p (w.1 % 32)).map (fun w => now_ .cruPartialForward [p, w.1])
    ++ (k.apex.rounds.filter fun r => r.2.isOpen && s.cruOn p (r.1 % 32)).map (fun r => now_ .roundTimeout [p, r.1])
    ++ (List.range 256).flatMap fun w =>
      onlyIf (((Tab.find k.apex.roundEnds w).isSome || !(s.roundDone p w).isEmpty) && s.cruOn p (w % 32)) [some_ .roundEndMessage [p, w]]
/-- Copies that wait for a package that does not answer (R319). -/
def State.cmdTurns (s : State) (cl : Nat) (k : Cluster) : List Due :=
  (k.bte.slots.filter fun e => !(s.overdueCmd (cl / 64) e.2.opId).isEmpty).map fun e => now_ .peerTimeout [cl / 64, e.2.opId]

/-! ### Schedulers -/

/-- A die has a ready node: its dispatch and what precedes it (R55). -/
def State.readyTurns (s : State) (d : Nat) (k : Die) : List Due :=
  onlyIf (k.sched.tdt.any (fun e => e.2.state == 2) && s.dieOn d)
    [now_ .skipLimit [d], now_ .priorityAging [d], now_ .schedulerDispatch [d]]
/-- The turns of one placed node (R52, R56, R57, R401). A batch is pushed at a free time, all its records together (log
entry 14). -/
def placedTurns (d idx : Nat) (p : Placed) : List Due :=
  let kind := nodeKind p.words
  onlyIf (p.copying && !p.ring) [some_ .codeCopyComplete [d, idx]]
    ++ onlyIf (p.copying && p.ring) [some_ .imageRestore [d, idx]]
    ++ onlyIf (!p.copying && decide (p.batchPos < p.batch.length)) [some_ .batchPush [d, idx]]
    ++ onlyIf (kind == 2 || kind == 3) [some_ .engineNodeComplete [d, idx]]
    ++ onlyIf (kind == 4) [some_ (if p.ring then .notifyAck else .notifyRingWrite) [d, idx]]
/-- Pre-emption (R381): the stop comes at any cycle up to its bound. -/
def State.preemptTurns (s : State) (d : Nat) (k : Die) : List Due :=
  let r := k.sched.regs
  onlyIf (r.phase == 1) [(decide (s.clk.cycle < r.t0 + 125), .event .preemptStop [d])]
    ++ onlyIf (r.phase == 2 || k.sched.placed.any fun e => e.2.bad) [now_ .drainTimeout [d]]
    ++ onlyIf (r.phase == 2) [some_ .imageSave [d]]
/-- Notices from other dies (R343). -/
def noticeTurns (d : Nat) (k : Die) : List Due :=
  k.sched.notices.map fun n => some_ (if n.2.fail then .failureNotice else .decrement) [d, n.1]
/-- A die's turns that TIME brings: sweeps at most every second cycle (R391), periodic samples (R366). -/
def State.periodTurns (s : State) (d : Nat) (k : Die) : List Due :=
  onlyIf (s.clk.cycle % 2 == 0) ((k.keytab.filter fun e => e.2.sweep).map fun e => some_ .sweepRekey [d, e.1])
    ++ onlyIf (s.time (d / 4) % 256 == 0) ((k.mons.filter fun m => m.2.cfg != 0).map fun m => now_ .monitorPeriodicSample [d, m.1])
/-- All turns of a die. -/
def State.dieTurns (s : State) (d : Nat) (k : Die) : List Due :=
  noticeTurns d k ++ s.readyTurns d k ++ k.sched.placed.flatMap (fun e => placedTurns d e.1 e.2) ++ s.preemptTurns d k
    ++ s.periodTurns d k

/-! ### Packages -/

/-- The partitions' timers, reports and resets (R393, R397, R398). -/
def partTurns (p n : Nat) (k : Part) : List Due :=
  onlyIf (k.ctl.v && k.ctl.state == 0 && k.ctl.period != 0) [now_ .heartbeatPeriodExpiry [p, n]]
    ++ onlyIf (k.ctl.v && k.ctl.state == 1) [now_ .graceExpiry [p, n]]
    ++ onlyIf k.sec.report [some_ .reportWritten [p, n]]
    ++ onlyIf (k.ctl.state == 3) [some_ .functionLevelReset [resetUnit, p, n]]
/-- A package's turns: sync generations (R42), partitions, islands (R410), firmware loads (R411). -/
def State.pkgTurns (s : State) (p : Nat) (k : Pkg) : List Due :=
  (k.domains.filter fun e => e.2.isOpen).map (fun e => now_ .syncGenerationComplete [p, e.1])
    ++ k.parts.flatMap (fun e => partTurns p e.1 e.2)
    ++ (k.islands.filter fun e => e.2.busy).map (fun e =>
      (decide (s.clk.cycle < e.2.since + 4096), .event .islandChangeDone [p, e.1]))
    ++ (k.groups.filter fun e => e.2.busy).map fun e => some_ .firmwareLoadDone [p, e.1]
/-- Slot tables that have been loaded take effect (R338). -/
def slotTurns (cl : Nat) (k : Cluster) : List Due := onlyIf k.slotsNext.isSome [now_ .slotTableEffect [cl]]

/-! ### The cycle -/

/-- The turns of the cycle but the host's, in order. -/
def State.turns (s : State) : List Due :=
  s.cores.flatMap (fun e => targetTurns s.clk.cycle e.1 e.2)
    ++ s.clusters.flatMap (fun e => slotTurns e.1 e.2)
    ++ s.clusters.flatMap (fun e => s.chordTurns e.1 e.2)
    ++ s.takeTurns
    ++ coreTurns s.cores
    ++ s.cores.flatMap (fun e => ownTurns e.1 e.2)
    ++ s.clusters.flatMap (fun e => s.bteTurns e.1 e.2)
    ++ s.dies.flatMap (fun e => s.seTurns e.1 e.2)
    ++ s.cores.flatMap (fun e => s.streamTurns e.1 e.2)
    ++ s.net.fops.flatMap (fun e => s.fopTurns e.1 e.2)
    ++ s.clusters.flatMap (fun e => s.cmdTurns e.1 e.2)
    ++ s.pkgs.flatMap (fun e => s.roundTurns e.1 e.2)
    ++ s.pkgs.flatMap (fun e => s.pkgTurns e.1 e.2)
    ++ s.cores.flatMap (fun e => leaveTurns e.1 e.2)
    ++ s.dies.flatMap (fun e => s.dieTurns e.1 e.2)
/-- A new cycle begins: the host's action comes first, and the free value tells which turns are put off. -/
def State.newCycle (s : State) : State :=
  let host := hostTurns s.clk.hostIn
  let clk := { s.clk with cycle := s.clk.cycle + 1, hostIn := s.clk.hostIn.drop 1, agenda := [] }
  let s := (({ s with clk := clk } : State).snapshots).initAll.thaw.departAll
  let l := s.turns
  let n := s.clk.ctr
  { s with clk := { s.clk with agenda := host ++ settleDue n l, ctr := n + l.length } }

end Sys2Proof.Machine
end

