-- ==== Sys2Proof/Machine/Step.lean ====
section
/-! DEFINITION. One step: the next turn of the cycle, or a new cycle; and where a table word is placed so that the next
step runs it (log entry 10). -/

namespace Sys2Proof.Machine

/-- One step of the network: a core's turn, an event with its operands, or the next cycle. -/
def step (s : State) : Host.Outcome State Fault Refusal :=
  match s.clk.agenda with
  | [] => .next s.newCycle
  | .core c :: l =>
    if c < packages * 512 then .next (State.coreTurn { s with clk := { s.clk with agenda := l } } c)
    else .fault .noSuchUnit
  | .land c :: l => .next (State.land { s with clk := { s.clk with agenda := l } } c)
  | .event i a :: l => exec i { s with clk := { s.clk with agenda := l, args := a } }

/-- The bytes of a bundle that holds a table word alone: a header of its own (16 bits), or the header of the slot of its
class and the syllable (R91, R92, R97). -/
def wordBytes (nbits w : Nat) : List Nat :=
  let x := leNat (natBytes (nbits / 8) w)
  if nbits = 16 then natBytes 2 x
  else match tableDecode x tableClasses with
    | some (c, _) => natBytes 2 (2 ^ classSlot c) ++ natBytes 4 x
    | none => natBytes 2 1 ++ natBytes 4 x
/-- Core 0 as a host start leaves it (R131), about to issue the bundle at CMEM offset 0, whose line it has fetched. -/
def Core.readyAtZero (k : Core) (l : List Nat) : Core :=
  { (Core.startAt { k with ident := ⟨1, true, 0, 0, 0, 0, false, true, 0⟩ } 0 0) with
    fetch := { k.fetch with queue := [], lines := [(0, BitVec.ofNat 512 (leNat l))] }
    tagRun := none
    slotRun := none
    stat := Core.reset.stat }
/-- The state with the instruction where the next step fetches it: in CMEM at 0 and in core 0's fetch buffer, with core
0's turn next. -/
def State.withFetchWord (s : State) (nbits w : Nat) : State :=
  let l := wordBytes nbits w
  let s := { s with mem := s.mem.writeBytes (cmemAddr 0 0) l, clk := { s.clk with agenda := [.core 0] } }
  s.modCore 0 fun k => k.readyAtZero l

end Sys2Proof.Machine
end

