-- ==== Sys2Proof/Safety.lean ====
section
/-! DEFINITION. What counts as a sound state and a safe step, in the terms claims use. -/

namespace Sys2Proof.Machine

/-- The memory is in its canonical form (R192). -/
def State.memOk (s : State) : Prop := s.mem.wf = true
/-- A turn names a core that the network has. -/
def Turn.ok : Turn → Bool
  | .core c => decide (c < packages * 512)
  | .land _ => true
  | .event _ _ => true
/-- Every turn left in the cycle names a core that the network has. -/
def State.turnsOk (s : State) : Bool := s.clk.agenda.all Turn.ok
/-- The state as an event begins: none of its accesses has to wait yet (R392, R410). -/
def State.fresh (s : State) : State := { s with clk := { s.clk with met := false } }
/-- The step answers a next state. -/
def State.goesOn (s : State) : Prop := ∃ t, step s = .next t

/-! ### What the statements say -/

/-- A comparison of R148 on the values its operands are read as. -/
def intCondition (cond : Nat) (a b : Word) : Prop :=
  match cond with
  | 0 => a = b
  | 1 => a ≠ b
  | 2 => a.toInt < b.toInt
  | 3 => a.toInt ≥ b.toInt
  | 4 => a.toNat < b.toNat
  | 5 => a.toNat ≥ b.toNat
  | 6 => a.toInt > b.toInt
  | 7 => a.toInt ≤ b.toInt
  | 8 => a.toNat > b.toNat
  | 9 => a.toNat ≤ b.toNat
  | _ => False
/-- The rational number that a finite value denotes. -/
def fpNumber : FpVal → ℚ
  | .fin n m e => (if n then -(m : ℚ) else m) * (2 : ℚ) ^ e
  | _ => 0
/-- One value lies below another (R74): no NaN does, and an infinity lies beyond every finite value. -/
def fpBelow : FpVal → FpVal → Prop
  | .nan _, _ => False
  | _, .nan _ => False
  | .inf x, .inf y => x = true ∧ y = false
  | .inf x, .fin _ _ _ => x = true
  | .fin _ _ _, .inf y => y = false
  | .fin n m e, .fin k p q => fpNumber (.fin n m e) < fpNumber (.fin k p q)
/-- A comparison of R148 on FP32 values, in CMP's codes: a NaN is unordered. -/
def fpCondition (cond : Nat) (x y : FpVal) : Prop :=
  let o := x.isNan = false ∧ y.isNan = false
  match cond with
  | 0 => o ∧ ¬ fpBelow x y ∧ ¬ fpBelow y x
  | 1 => ¬ o ∨ fpBelow x y ∨ fpBelow y x
  | 2 => fpBelow x y
  | 3 => o ∧ ¬ fpBelow x y
  | 6 => fpBelow y x
  | 7 => o ∧ ¬ fpBelow y x
  | 10 => ¬ o
  | _ => False
/-- The whole number that a mode takes for a number (R67): the nearest, of two the even one; toward zero; upward; downward. -/
def wholeOf (rm : Nat) (x : ℝ) (n : Int) : Prop :=
  match rm with
  | 0 => |x - n| ≤ 1 / 2 ∧ (|x - n| = 1 / 2 → n % 2 = 0)
  | 1 => (0 ≤ x → n = ⌊x⌋) ∧ (x < 0 → n = ⌈x⌉)
  | 2 => n = ⌈x⌉
  | _ => n = ⌊x⌋
/-- A number that is not 0 is rounded to a format (R67, R70 to R72): its leading bit is at place k. Rounded at the format's
precision alone, to u, it may be tiny, and FZO then delivers a zero of its sign; rounded at the smallest step the format has
there, to d, it may lie beyond the largest finite value, where the mode, and for E4M3 the format (R75), says what is delivered;
else the encoding of d is delivered, NX says that d is not the number, and UF that it is tiny besides. -/
def roundedTo (t : FpFmt) (rm : Nat) (fzo : Bool) (r : ℝ) (p : Nat × BitVec 5) : Prop :=
  ∃ (k u v : Int) (neg : Bool), (2 : ℝ) ^ k ≤ |r| ∧ |r| < (2 : ℝ) ^ (k + 1) ∧ (neg = true ↔ r < 0)
    ∧ let q := max (k - t.fw) (t.emin - t.fw)
      let d : ℝ := v * (2 : ℝ) ^ q
      let tiny := |(u : ℝ)| * (2 : ℝ) ^ (k - t.fw) < (2 : ℝ) ^ t.emin
      let beyond := (fpNumber (t.value false t.maxFinite) : ℝ) < |d|
      let sg := if neg then t.signBit else 0
      wholeOf rm (r / (2 : ℝ) ^ (k - t.fw)) u ∧ wholeOf rm (r / (2 : ℝ) ^ q) v
      ∧ (tiny ∧ fzo = true → p = (sg, flagUF ||| flagNX))
      ∧ (¬ (tiny ∧ fzo = true) → beyond → p = (sg + (if t.e4m3 = false ∧ (rm = 0 ∨ (rm = 2 ∧ neg = false) ∨ (rm = 3 ∧ neg = true))
          then t.infBits else t.maxFinite), flagOF ||| flagNX))
      ∧ (¬ (tiny ∧ fzo = true) → ¬ beyond → p.1 < 2 ^ t.width
        ∧ (∃ (m : Nat) (e : Int), t.value false p.1 = .fin neg m e ∧ (fpNumber (.fin neg m e) : ℝ) = d)
        ∧ (d = r → p.2 = 0) ∧ (d ≠ r → tiny → p.2 = flagUF ||| flagNX) ∧ (d ≠ r → ¬ tiny → p.2 = flagNX))
/-- An operation delivers the one rounding (R67) of the number r in a mode, and, where r is 0, a zero of the sign `neg` with no
flag. -/
def roundsOnce (t : FpFmt) (rm : Nat) (fzo : Bool) (r : ℝ) (neg : Bool) (p : Nat × BitVec 5) : Prop :=
  (r ≠ 0 → roundedTo t rm fzo r p) ∧ (r = 0 → p = (if neg then t.signBit else 0, 0))
/-- The value is an infinity. -/
def fpInfinite : FpVal → Bool
  | .inf _ => true
  | _ => false
/-- The value is a zero. -/
def fpZero : FpVal → Bool
  | .fin _ m _ => m == 0
  | _ => false
/-- What sums, products and fused ones deliver when an operand is a NaN or an infinity (R73). -/
def specialResults (t : FpFmt) (rm : Nat) (z : Bool) (a b c : FpVal) : Prop :=
  let nan := fun (f : BitVec 5) => (t.nanBits, f)
  let inf := fun n => (t.infOf n, (0 : BitVec 5))
  let sign := a.neg != b.neg
  let invalid := (fpInfinite a && fpZero b) || (fpZero a && fpInfinite b)
  let number := a.isNan = false ∧ b.isNan = false
  (¬ number → t.add rm z a b = nan (a.nv ||| b.nv) ∧ t.mul rm z a b = nan (a.nv ||| b.nv)
    ∧ t.fma rm z a b c = nan (a.nv ||| b.nv ||| c.nv))
  ∧ (∀ n k, a = .inf n → b = .inf k → t.add rm z a b = if n = k then inf n else nan flagNV)
  ∧ (∀ n, number → (a = .inf n ∧ fpInfinite b = false) ∨ (b = .inf n ∧ fpInfinite a = false) → t.add rm z a b = inf n)
  ∧ (invalid = true → t.mul rm z a b = nan flagNV ∧ t.fma rm z a b c = nan flagNV)
  ∧ (number → invalid = false → fpInfinite a = true ∨ fpInfinite b = true → t.mul rm z a b = inf sign
    ∧ t.fma rm z a b c = if c.isNan then nan c.nv else if fpInfinite c && c.neg != sign then nan flagNV else inf sign)
  ∧ (number → fpInfinite a = false → fpInfinite b = false →
    (c.isNan = true → t.fma rm z a b c = nan c.nv) ∧ ∀ k, c = .inf k → t.fma rm z a b c = inf k)
/-- A minimum, or a maximum, of two values of the format (R74, R161): a NaN gives the canonical one; else the operand that no
other lies below, or above, with -0 below +0, flushed where FZO says so. -/
def pickedOf (t : FpFmt) (fzo isMin : Bool) (a b : FpVal) (p : Nat × BitVec 5) : Prop :=
  (a.isNan = true ∨ b.isNan = true → p = (t.nanBits, a.nv ||| b.nv))
  ∧ (a.isNan = false → b.isNan = false → ∃ w, (w = a ∨ w = b)
    ∧ (∀ o, o = a ∨ o = b → if isMin then ¬ fpBelow o w else ¬ fpBelow w o)
    ∧ (¬ fpBelow a b → ¬ fpBelow b a → w.neg = if isMin then a.neg || b.neg else a.neg && b.neg)
    ∧ (∀ n, w = .inf n → p = (t.infOf n, 0))
    ∧ (fpInfinite w = false → roundsOnce t 0 fzo (fpNumber w) w.neg p))
/-- The four functions of R162 at a value: its special values, and on the others 1/a and 1/√a rounded once, with 2^a at a whole
a and log2 a at a power of two rounded once as well. -/
def functionsOf (t : FpFmt) (rm : Nat) (z : Bool) (a : FpVal) : Prop :=
  let nan := fun (f : BitVec 5) => (t.nanBits, f)
  let zero := fun n => ((if n then t.signBit else 0), (0 : BitVec 5))
  let below := a.neg = true ∧ fpZero a = false ∧ fpInfinite a = false ∧ a.isNan = false
  (a.isNan = true → ∀ p ∈ [t.exp2 rm z a, t.log2 rm z a, t.recip rm z a, t.rsqrt rm z a], p = nan a.nv)
  ∧ (fpZero a = true → roundsOnce t rm z 1 false (t.exp2 rm z a) ∧ t.log2 rm z a = (t.infOf true, flagDZ)
    ∧ t.recip rm z a = (t.infOf a.neg, flagDZ) ∧ t.rsqrt rm z a = (t.infOf a.neg, flagDZ))
  ∧ (a = .inf false → t.exp2 rm z a = (t.infBits, 0) ∧ t.log2 rm z a = (t.infBits, 0) ∧ t.recip rm z a = zero false
    ∧ t.rsqrt rm z a = zero false)
  ∧ (a = .inf true → t.exp2 rm z a = zero false ∧ t.log2 rm z a = nan flagNV ∧ t.recip rm z a = zero true
    ∧ t.rsqrt rm z a = nan flagNV)
  ∧ (below → t.log2 rm z a = nan flagNV ∧ t.rsqrt rm z a = nan flagNV)
  ∧ (∀ n m e, a = .fin n m e → m ≠ 0 → roundsOnce t rm z (1 / fpNumber a) n (t.recip rm z a)
    ∧ (n = false → roundsOnce t rm z (1 / Real.sqrt (fpNumber a)) false (t.rsqrt rm z a))
    ∧ ∀ k : Int, (fpNumber a = k → roundsOnce t rm z ((2 : ℝ) ^ k) false (t.exp2 rm z a))
      ∧ (fpNumber a = (2 : ℚ) ^ k → roundsOnce t rm z k false (t.log2 rm z a)))
/-- The number an n-bit element stands for: unsigned where u is not 0, two's complement otherwise. -/
def elementValue (n u x : Nat) : Int := if u = 0 ∧ 2 ^ (n - 1) ≤ x then (x : Int) - 2 ^ n else x
/-- The n low bits of a number, or of the nearest number in the range of n bits where it saturates (R61, R160). -/
def narrowed (n sat u : Nat) (r : Int) : Nat :=
  if sat = 0 then (r % 2 ^ n).toNat
  else if u = 0 then (max (-2 ^ (n - 1)) (min (2 ^ (n - 1) - 1) r) % 2 ^ n).toNat
  else (max 0 (min (2 ^ n - 1) r)).toNat
/-- What a conversion between two formats delivers for an element (R75): an integer is wrapped or clamped, or rounded once; a
floating-point value is rounded once to another format, with 448 as E4M3's end, or to a whole number, clamped at the ends of
the range. -/
def convertsTo (df sf rm : Nat) (fzi fzo u sat : Bool) (x : Nat) (p : Nat × BitVec 5) : Prop :=
  let n := fmtBits df
  let t := fpOfFmt df
  let us := if u then 1 else 0
  let v := elementValue (fmtBits sf) us (x % 2 ^ fmtBits sf)
  let a := (fpOfFmt sf).value fzi x
  let lo : Int := if u then 0 else -(2 ^ (n - 1))
  let hi : Int := if u then 2 ^ n - 1 else 2 ^ (n - 1) - 1
  if fmtInt sf = true then
    (fmtInt df = true → p = (narrowed n (if sat then 1 else 0) us v, 0)) ∧ (fmtInt df = false → roundsOnce t rm fzo v false p)
  else if fmtInt df = true then ∃ (r : Int), p.1 = (r % 2 ^ n).toNat
    ∧ (a.isNan = true → r = 0 ∧ p.2 = flagNV) ∧ (∀ s, a = .inf s → r = (if s then lo else hi) ∧ p.2 = flagNV)
    ∧ (∀ s m e, a = .fin s m e → ∃ w, wholeOf rm (fpNumber a) w ∧ r = max lo (min hi w)
      ∧ (r ≠ w → p.2 = flagNV) ∧ (r = w → (w = fpNumber a → p.2 = 0) ∧ (w ≠ fpNumber a → p.2 = flagNX)))
  else
    (a.isNan = true → p = (t.nanBits, a.nv))
    ∧ (∀ s, a = .inf s → p = if t.e4m3 then (0x7E + (if s then 0x80 else 0), flagNV) else (t.infOf s, 0))
    ∧ ∀ s m e, a = .fin s m e → roundsOnce t rm fzo (fpNumber a) s p
/-- The function of R171 of a counter and a key. -/
def hashed (c k : BitVec 32) : BitVec 32 :=
  let y := (c ^^^ k) * 0x2C1B3C6D
  let y := (y ^^^ y >>> 12) * 0x297A2D39
  y ^^^ y >>> 15
/-- An instruction that, with a guard mask m that is not 0, reads the vector operands `regs` once and sends one vector
result of the enabled lanes to `d` after `lat`, every enabled element being `f` of its operands' elements. -/
def vectorResult (i : Instr) (s : State) (g : Nat) (regs : List Nat) (d w lat : Nat)
    (f : State → (Nat → VecWord) → Nat → Nat) : Prop :=
  s.guardMask g ≠ 0 → ∃ v : VecWord,
    exec i s = .next ((s.vecOperands regs).1.pushV d v (s.guardMask g) 0 lat)
    ∧ ∀ e, e < 2048 / w → (s.guardMask g).getLsbD (e * w / 32) = true →
        elemOf w v e = f (s.vecOperands regs).1 (vecVal (s.vecOperands regs).2) e
/-- The same of an instruction whose elements raise flags: the result carries the union of those of the enabled elements, and
no other (R70). -/
def vectorFlagged (i : Instr) (s : State) (g : Nat) (regs : List Nat) (d w lat : Nat)
    (f : State → (Nat → VecWord) → Nat → Nat × BitVec 5) : Prop :=
  s.guardMask g ≠ 0 → ∃ (v : VecWord) (fl : BitVec 5),
    exec i s = .next ((s.vecOperands regs).1.pushV d v (s.guardMask g) fl lat)
    ∧ (∀ e, e < 2048 / w → (s.guardMask g).getLsbD (e * w / 32) = true →
        elemOf w v e = (f (s.vecOperands regs).1 (vecVal (s.vecOperands regs).2) e).1 % 2 ^ w)
    ∧ ∀ k, k < 5 → (fl.getLsbD k = true ↔ ∃ e, e < 2048 / w ∧ (s.guardMask g).getLsbD (e * w / 32) = true
        ∧ (f (s.vecOperands regs).1 (vecVal (s.vecOperands regs).2) e).2.getLsbD k = true)
/-- The tree of R88 over 2^n elements: element i is combined with element i + 2^(n-1), then half as many, down to element 0. -/
def treeOf (step : Nat → Nat → Nat × BitVec 5) : Nat → (Nat → Option Nat × BitVec 5) → Option Nat × BitVec 5
  | 0, x => x 0
  | n + 1, x => treeOf step n fun i => redCombine step (x i) (x (i + 2 ^ n))
/-- The inclusive results of R166's scan: element 0 alone, then each element combined with the result before it. -/
def scanOf (step : Nat → Nat → Nat × BitVec 5) (x : Nat → Option Nat × BitVec 5) : Nat → Option Nat × BitVec 5
  | 0 => redCombine step (none, 0) (x 0)
  | n + 1 => redCombine step (scanOf step x n) (x (n + 1))
/-- Element e of a reduction's operand (R88, R166): absent under a guard bit of 0, else read by FZI, `wide` sign-extended to 32
bits, with NV for a signalling NaN. -/
def presentElem (m : BitVec 64) (fm : Nat) (fzi wide : Bool) (v : VecWord) (e : Nat) : Option Nat × BitVec 5 :=
  let w := fmtBits fm
  let x := redIn fm fzi (elemOf w v e)
  if m.getLsbD (e * w / 32) then (some (if wide then narrowed 32 0 0 (elementValue w 0 x) else x), redSignal fm x) else (none, 0)
/-- One step of a sum on n-bit integers or in a floating-point format. -/
def sumStep (fm n rm : Nat) (fzo : Bool) (x y : Nat) : Nat × BitVec 5 :=
  if fmtInt fm then (narrowed n 0 0 (elementValue n 0 x + elementValue n 0 y), 0)
  else (fpOfFmt fm).add rm fzo ((fpOfFmt fm).value false x) ((fpOfFmt fm).value false y)
/-- One step of a maximum, or of a minimum where x is 1. -/
def extremeStep (fm x : Nat) (fzo : Bool) (a b : Nat) : Nat × BitVec 5 :=
  let n := fmtBits fm
  if fmtInt fm then
    (if (if x = 0 then elementValue n 0 b ≤ elementValue n 0 a else elementValue n 0 a ≤ elementValue n 0 b) then a else b, 0)
  else (fpOfFmt fm).minMax (x != 0) fzo ((fpOfFmt fm).value false a) ((fpOfFmt fm).value false b)
/-- The extreme of no element (R88): the range's end for an integer, the infinity for a floating-point format. -/
def extremeOfNone (fm x : Nat) : Nat :=
  let n := fmtBits fm
  if fmtInt fm then (if x = 0 then 2 ^ (n - 1) else 2 ^ (n - 1) - 1) else (fpOfFmt fm).infOf (x == 0)
/-- The state and the vector after a whole-result instruction has read its operand: with a guard of zeros it reads none
(R156). -/
def wholeOperand (s : State) (g a : Nat) : State × VecWord :=
  if s.guardMask g = 0 then (s, 0) else ((s.vecOperands [a]).1, vecVal (s.vecOperands [a]).2 a)
/-- What VSUM, VMAXR and VSCAN of one form answer (R88, R166): `fm` is the format, `x` VMAXR's or VSCAN's choice. -/
def reductionsOf (s : State) (sum ext scan : Instr) (g d a fm x : Nat) (fzi fzo : Bool) (rmo : Nat) : Prop :=
  (s.guardMask g = 0 → (s.core s.iss.core).bound d = false) →
  let q := wholeOperand s g a
  let m := s.guardMask g
  let rm := q.1.roundMode rmo
  let w := fmtBits fm
  let z := fun (f : Nat) => presentElem m fm fzi (f != 0) q.2
  let all := BitVec.allOnes 64
  (let r := treeOf (sumStep fm (if fmtInt fm then 32 else w) rm fzo) (Nat.log2 (2048 / w)) (z (if fmtInt fm then 1 else 0))
   exec sum s = .next (q.1.pushV d (BitVec.ofNat 2048 (redDeliver fm (r.1.getD 0))) all r.2 6))
  ∧ (let r := treeOf (extremeStep fm x fzo) (Nat.log2 (2048 / w)) (z 0)
   exec ext s = .next (q.1.pushV d (BitVec.ofNat 2048 (r.1.elim (extremeOfNone fm x) (redDeliver fm))) all r.2 6))
  ∧ ∃ v : VecWord, exec scan s = .next (q.1.pushV d v all (scanOf (sumStep fm w rm fzo) (z 0) (2048 / w - 1)).2 6)
    ∧ ∀ e, e < 2048 / w →
      (x = 0 → elemOf w v e = redDeliver fm ((scanOf (sumStep fm w rm fzo) (z 0) e).1.getD 0) % 2 ^ w)
      ∧ (x ≠ 0 → elemOf w v e = match e with
          | 0 => 0
          | k + 1 => redDeliver fm ((scanOf (sumStep fm w rm fzo) (z 0) k).1.getD 0) % 2 ^ w)
/-- One element of VCMPR ranks below another (R170): an absent one below a present one, a number below a NaN, two numbers by
their magnitudes, as FZI reads them. -/
def ranksBelow (t : FpFmt) (fzi : Bool) : Option Nat → Option Nat → Prop
  | _, none => False
  | none, some _ => True
  | some x, some y =>
    let a := t.value fzi x
    let b := t.value fzi y
    a.isNan = false ∧ (b.isNan = true ∨ (fpInfinite a = false ∧ (fpInfinite b = true ∨ |fpNumber a| < |fpNumber b|)))
/-- What VCMPR writes for an element that it keeps (R170): +0 for an absent one, the canonical NaN for a NaN, with FZI a zero of
its sign for a subnormal, and else its own bits. -/
def keptValue (t : FpFmt) (fzi : Bool) : Option Nat → Nat
  | none => 0
  | some x => if (t.value fzi x).isNan then t.nanBits
      else if fzi && fpZero (t.value fzi x) then (if t.signBit ≤ x then t.signBit else 0) else x
/-- The indices i and j of a group of four are the two that VCMPR keeps (R170): in rising order, and every other ranks below
both, or equal with a higher index. -/
def keptOfFour (below : Nat → Nat → Prop) (i j : Nat) : Prop :=
  i < j ∧ j < 4 ∧ ∀ k, k < 4 → k ≠ i → k ≠ j → ∀ q ∈ [i, j], below k q ∨ (¬ below q k ∧ q < k)
/-- The passes of a gather or scatter of w-bit elements at addresses a (R216): the largest number of distinct words that the
enabled elements name in one bank. -/
def passesOf (w : Nat) (m : BitVec 64) (a : Nat → Nat) : Nat :=
  (Finset.range 32).sup fun b =>
    (((Finset.range (2048 / w)).filter fun e => m.getLsbD (e * w / 32) = true ∧ a e / 8 % 32 = b).image fun e => a e / 8).card
/-- What a conversion of R165 leaves: `m` are the enabled lanes that it writes (a narrowing one those of its part alone),
and each element of an enabled lane is the conversion of its source element (a widening one takes those of its part), whose
flags are those of the elements it writes. -/
def conversionOf (q : State) (g : BitVec 64) (df sf part fzi fzo rmo : Nat) (u sat : Bool) (x v : VecWord)
    (m : BitVec 64) (fl : BitVec 5) : Prop :=
  let ws := fmtBits sf
  let wd := fmtBits df
  let c := fun e => convertElem df sf (q.roundMode rmo) (fzi != 0) (fzo != 0) u sat
    (elemOf ws x (if ws < wd then part * (2048 / wd) + e else if wd < ws then e - part * (2048 / ws) else e))
  (∀ n, n < 64 → (m.getLsbD n = true ↔ g.getLsbD n = true
    ∧ (wd < ws → part * (64 * wd / ws) ≤ n ∧ n < (part + 1) * (64 * wd / ws))))
  ∧ (∀ e, e < 2048 / wd → m.getLsbD (e * wd / 32) = true → elemOf wd v e = (c e).1 % 2 ^ wd)
  ∧ ∀ k, k < 5 → (fl.getLsbD k = true ↔
      ∃ e, e < 2048 / wd ∧ m.getLsbD (e * wd / 32) = true ∧ (c e).2.getLsbD k = true)
/-- What the three loads of one form do from a legal offset a: the plain one always, the others where the tag is FULL, and
what they wait for where it is EMPTY. `q` is the state after the address is formed. -/
def loadsFrom (s q : State) (ld ldf lde : Instr) (d b sz x pi : Nat) (off : Int) (a : Nat) : Prop :=
  let n := s.iss.mem.readN (spmAddr s.iss.core a) (2 ^ sz)
  let v : Word := if x = 0 then BitVec.ofNat 64 n else BitVec.ofInt 64 (BitVec.ofNat (8 * 2 ^ sz) n).toInt
  let t := (q.pushS d v 0 4).postInc pi b off
  exec ld s = .next t
  ∧ (s.tagFull s.iss.core a = true → exec ldf s = .next t ∧ exec lde s = .next (t.setTag s.iss.core a false))
  ∧ (s.tagFull s.iss.core a = false → exec ldf s = .next (q.awaitTag a) ∧ exec lde s = .next (q.awaitTag a))
/-- What the two stores of one form do at a legal offset a of the issuing core's scratchpad. -/
def storesAt (s : State) (st ste : Instr) (d sz a : Nat) : Prop :=
  ∃ t : State, exec st s = .next t
    ∧ t.mem.readN (spmAddr s.iss.core a) (2 ^ sz) = (s.readS d).toNat % 2 ^ (8 * 2 ^ sz)
    ∧ (∀ x, x < spmAddr s.iss.core a ∨ spmAddr s.iss.core a + 2 ^ sz ≤ x → t.mem.read x = s.mem.read x)
    ∧ t.tagFull s.iss.core a = true
    ∧ (s.tagFull s.iss.core a = false → exec ste s = .next t)
    ∧ (s.tagFull s.iss.core a = true → ∃ u : State, exec ste s = .next u ∧ u.mem = s.mem ∧ u.tags = s.tags)
/-- What a range tag instruction does over n bytes from a base: the tags of the range where it takes one cycle, and no other;
memory never. -/
def tagsRange (s : State) (i : Instr) (base n : Nat) (full : Bool) : Prop :=
  (base + n ≤ 2 ^ 20 → base % 8 = 0 → n % 8 = 0 → ∃ t : State, exec i s = .next t ∧ t.mem = s.mem
    ∧ t.iss.faults = s.iss.faults ∧ t.iss.stall = max s.iss.stall ((n + 4095) / 4096 - 1)
    ∧ (n ≤ 4096 → ∀ o, (base ≤ o ∧ o < base + n → t.tagFull s.iss.core o = full)
        ∧ (o < 2 ^ 20 → (o < base ∨ base + n ≤ o) → t.tagFull s.iss.core o = s.tagFull s.iss.core o)))
  ∧ (2 ^ 20 < n → exec i s = .next (s.fault addressRange (BitVec.ofNat 64 n)))
  ∧ (n ≤ 2 ^ 20 → 2 ^ 20 < base + n → exec i s = .next (s.fault addressRange (BitVec.ofNat 64 base)))
/-- What a vector load and a vector store of one form do at a legal offset; `q` is the state after the address is
formed. -/
def vectorMoves (s q : State) (vld vst : Instr) (g v b pi : Nat) (off a : Int) : Prop :=
  let p := spmAt s.iss.core a
  exec vld s = .next ((q.pushV v (BitVec.ofNat 2048 (s.iss.mem.readN p 256)) (s.guardMask g) 0 6).postInc pi b off)
  ∧ ∃ t : State, exec vst s = .next t
    ∧ (∀ n, n < 64 → (s.guardMask g).getLsbD n = true →
        t.mem.readN (p + 4 * n) 4 = (lane (vecVal (q.vecOperands [v]).2 v) n).toNat)
    ∧ ∀ x, (∀ n, n < 64 → (s.guardMask g).getLsbD n = true → x < p + 4 * n ∨ p + 4 * n + 4 ≤ x) → t.mem.read x = s.mem.read x
/-- An engine operation has started in `t`: it has the next number, is live and in its context's order, later operations
follow it where it acquires (R259 to R261), and the bundle, the registers, memory and the tags are otherwise as in s. -/
def startsOperation (s t : State) (acq : Bool) : Prop :=
  t.iss.engine = some s.net.nextOp ∧ t.net.nextOp = s.net.nextOp + 1 ∧ t.net.live = s.net.nextOp :: s.net.live
  ∧ t.iss.faults = s.iss.faults ∧ t.iss.waits = s.iss.waits ∧ t.mem = s.mem ∧ t.tags = s.tags ∧ (∀ n, t.readS n = s.readS n)
  ∧ s.net.nextOp ∈ (t.ctx s.iss.core s.iss.ctx).dep.ops
  ∧ (acq = true → s.net.nextOp ∈ (t.ctx s.iss.core s.iss.ctx).dep.fence)
/-- The slot waits for room in a queue, at most WAITLIMIT, and nothing else happens (R271). -/
def waitsForRoom (i : Instr) (s : State) (key : Nat) : Prop :=
  ∃ t : State, exec i s = .next t ∧ t.mem = s.mem ∧ t.tags = s.tags ∧ t.net = s.net ∧ t.cores = s.cores ∧ t.clusters = s.clusters
    ∧ t.dies = s.dies ∧ t.iss.waits = ⟨key * 16 + s.iss.slot, waitTimeout, 0, s.iss.slot, some (s.waitLimit s.iss.core)⟩ :: s.iss.waits
/-- A copy-class command enters the buffer of its cluster's BTE in the next cycle, with its operands, its time and the
operations it follows, or waits where 128 commands are there (R274). -/
def issuesCommand (i : Instr) (s : State) (o : TrigOp) (kind dst : Nat) (sh : Shape) (h : Option Nat) (time : Nat) : Prop :=
  let cl := clusterOf s.iss.core
  let b := (s.cluster cl).bte
  (b.coming.length + b.buffer.length < 128 → ∃ t m, exec i s = .next t ∧ startsOperation s t o.acq
    ∧ (t.cluster cl).bte.coming = b.coming ++ [m] ∧ (t.cluster cl).bte.buffer = b.buffer ∧ (t.cluster cl).bte.slots = b.slots
    ∧ m.opId = s.net.nextOp ∧ m.by_.core = some s.iss.core ∧ m.by_.ctx = s.iss.ctx ∧ m.kind = kind ∧ m.dst = dst
    ∧ m.src = o.src.toNat ∧ m.shape = sh ∧ m.time = time ∧ m.bar = (if o.nb then none else some o.bar) ∧ m.inc = o.inc
    ∧ m.tag = o.tag ∧ m.ckpt = o.ckpt ∧ m.handle = h ∧ m.after = s.depsFor s.iss.core s.iss.ctx o.rel
    ∧ m.enterAt = s.clk.cycle + 1)
  ∧ (128 ≤ b.coming.length + b.buffer.length → waitsForRoom i s 4)
/-- A fabric operation enters its core's request queue, waiting for the operations it follows, or the slot waits where 256
are there (R293). -/
def issuesFabric (i : Instr) (s : State) (rel acq : Bool) (p : Fop → Prop) : Prop :=
  let c := s.iss.core
  ((s.core c).fab.length < 256 → ∃ t g, exec i s = .next t ∧ startsOperation s t acq ∧ (t.core c).fab = (s.core c).fab ++ [s.net.nextOp]
    ∧ Tab.find t.net.fops s.net.nextOp = some g ∧ g.by_.core = some c ∧ g.by_.ctx = s.iss.ctx ∧ g.stage = 0 ∧ g.born = s.clk.cycle
    ∧ g.after = s.depsFor c s.iss.ctx rel ∧ p g)
  ∧ (256 ≤ (s.core c).fab.length → waitsForRoom i s 6)
/-- An instruction that raises one cause with one TVAL and does nothing else. -/
def raises (i : Instr) (s : State) (code : Nat) (tval : Word) : Prop := exec i s = .next (s.fault code tval)
/-- The window w of a partition does not admit an access up to `hi` beyond an offset (R200): its entry is not valid, its die is
not, the access does not lie below its length, or it lacks the permission bit. -/
def windowFails (s : State) (pkg part w perm : Nat) (off hi : Int) : Prop :=
  let e := s.windowEnt pkg part w
  bits e 63 1 = 0 ∨ s.logicalDie pkg part (bits e 0 12) = none ∨ (entWord e 2 : Int) < off + hi ∨ bits e perm 1 = 0
/-- An address of an engine operation fails a row of R203, of the bytes lo up to hi from it: a space code above 7; a space the
operation does not accept; no such die; a bit of R202 that must be zero; a range past the memory's end, or across 2^48 or
2^56; the window; a dead target package. -/
def addressFails (s : State) (pkg part : Nat) (u : AddrUse) (row : Nat) : Prop :=
  let sp := u.addr / 2 ^ 60 % 16
  let top := fun (n k : Nat) => u.addr / 2 ^ n % 2 ^ k ≠ 0
  let size := match sp with
    | 0 => 20
    | 1 => 20
    | 2 => 24
    | 3 => 26
    | 7 => 56
    | _ => 48
  match row with
  | 0 => 8 ≤ sp
  | 1 => sp ∉ u.spaces
  | 2 => sp = 5 ∧ s.logicalDie pkg part (u.addr / 2 ^ 48 % 4096) = none
  | 3 => (sp = 0 ∧ top 20 40) ∨ (sp = 1 ∧ (top 59 1 ∨ top 20 36)) ∨ (sp = 2 ∧ top 24 36) ∨ (sp = 3 ∧ top 26 34)
      ∨ (sp = 4 ∧ top 48 12) ∨ (sp = 6 ∧ top 58 2) ∨ (sp = 7 ∧ top 56 4)
  | 4 => u.lo < u.hi ∧ ((u.addr % 2 ^ size : Nat) + u.lo < 0 ∨ (2 : Int) ^ size < (u.addr % 2 ^ size : Nat) + u.hi)
  | 5 => sp = 6 ∧ windowFails s pkg part (u.addr / 2 ^ 48 % 1024) u.perm (u.addr % 2 ^ 48 : Nat) u.hi
  | _ => ∃ p, s.targetPkg pkg part u.addr = some p ∧ s.peerDead pkg p = true
/-- The fault of a row of R203 and what TVAL holds: the address, the window, or the dead package. -/
def addressFault (s : State) (pkg part : Nat) (u : AddrUse) (row : Nat) : Nat × Word :=
  match row with
  | 0 => (addressSpaceFault, BitVec.ofNat 64 u.addr)
  | 1 => (addressSpaceFault, BitVec.ofNat 64 u.addr)
  | 2 => (addressSpaceFault, BitVec.ofNat 64 u.addr)
  | 3 => (addressRange, BitVec.ofNat 64 u.addr)
  | 4 => (addressRange, BitVec.ofNat 64 u.addr)
  | 5 => (windowFault, BitVec.ofNat 64 (u.addr / 2 ^ 48 % 1024))
  | _ => (deadPeer, BitVec.ofNat 64 ((s.targetPkg pkg part u.addr).getD 0))
/-- Of the rows before row n none fails for any of the addresses. -/
def addressesPass (s : State) (pkg part : Nat) (l : List AddrUse) (n : Nat) : Prop :=
  ∀ row, row < n → ∀ u ∈ l, ¬ addressFails s pkg part u row
/-- The first row that fails, for the first of the addresses that it fails for, has the fault e. -/
def addressRaises (s : State) (pkg part : Nat) (l : List AddrUse) (n : Nat) (e : Nat × Word) : Prop :=
  ∃ row, row < n ∧ addressesPass s pkg part l row ∧ ∃ a u b, l = a ++ u :: b ∧ (∀ w ∈ a, ¬ addressFails s pkg part w row)
    ∧ addressFails s pkg part u row ∧ e = addressFault s pkg part u row
/-- A copy-like instruction, short or wide, with its guard true, its operands, its handle and its release time. -/
def copyForm (s : State) (short : FmtEC → Instr) (wide : FmtECW → Instr) (i : Instr) (o : TrigOp) (h : Option (Nat × Nat))
    (time : Nat) : Prop :=
  (∃ f, i = short f ∧ s.guard0 f.g = true ∧ o = s.ecOp f ∧ h = s.handleDst f.dh f.dst ∧ time = 0)
  ∨ ∃ f, i = wide f ∧ s.guard0 f.g = true ∧ o = s.ecwOp f ∧ h = s.handleDst f.dh f.dst ∧ time = (s.readS f.ts).toNat
/-- The fields of a micro-operation word by its code, each by its lowest bit and its width (R232). -/
def microFields : Nat → Option (List (Nat × Nat))
  | 0 => some []
  | 1 => some [(4, 54)]
  | 2 => some []
  | 3 => some [(12, 46)]
  | 4 => some [(29, 4)]
  | 5 => some [(25, 8), (0, 11)]
  | 6 => some [(12, 46)]
  | 7 => some [(54, 4), (0, 16)]
  | 8 => some []
  | 9 => some [(39, 19)]
  | 10 => some [(50, 7)]
  | 11 => some [(54, 3), (0, 32)]
  | _ => none
/-- Check 3 of R229: the word's code is assigned and no bit outside its fields is set. -/
def wellFormedWord (w : Nat) : Prop :=
  ∃ l, microFields (w / 2 ^ 58 % 2 ^ 6) = some l ∧ ∀ n, n < 58 → w.testBit n = true → ∃ p ∈ l, p.1 ≤ n ∧ n < p.1 + p.2
/-- Check 4 of R229: the values of the word's fields (R231, R232), and those that q6 and q7 supply, are accepted. -/
def acceptedWord (q6 q7 w : Nat) : Prop :=
  let f := fun (lo n : Nat) => w / 2 ^ lo % 2 ^ n
  let sel := f 52 6 < 32 → f 52 6 / 8 = 0
  let tile := f 29 4 < 12 ∨ q6 / 2 ^ (4 * (f 29 4 - 12)) % 2 ^ 4 ≤ 11
  let rows := f 24 5 + f 18 6 ≤ 32 ∧ (f 18 6 = 0 → f 24 5 = 0 ∧ 1 ≤ q7 / 2 ^ 21 % 2 ^ 6 ∧ q7 / 2 ^ 27 % 2 ^ 5 + q7 / 2 ^ 21 % 2 ^ 6 ≤ 32)
  let form := fun (x lo last : Nat) => x ≤ last ∨ (x = 15 ∧ q7 / 2 ^ lo % 2 ^ 4 ≤ last)
  match w / 2 ^ 58 % 2 ^ 6 with
  | 1 => sel ∧ form (f 5 4) 0 3 ∧ (f 5 4 = 2 ∨ f 5 4 = 3 → f 29 3 = 0 ∧ f 9 20 = 0)
  | 3 => sel ∧ tile ∧ rows ∧ form (f 14 4) 4 3
  | 4 => tile
  | 5 => tile ∧ if f 28 1 = 0 then f 25 3 = 0 else f 0 11 = 0
  | 6 => f 52 6 < 8 ∧ tile ∧ rows ∧ form (f 14 4) 8 2
  | 7 => if f 57 1 = 0 then f 54 3 = 0 else f 0 16 = 0
  | 9 => f 56 1 = 1 → f 51 5 = 0
  | 10 => f 56 1 = 1 → f 51 5 = 0
  | _ => True
/-- Check 5 of R229: every MEND ends an MLOOP, every MLOOP is ended, and no more than four are open at once. -/
def loopsPair (ws : List Nat) : Prop :=
  let count := fun (op : Nat) (l : List Nat) => (l.filter fun w => w / 2 ^ 58 % 2 ^ 6 == op).length
  ∀ a b, ws = a ++ b → count 8 a ≤ count 7 a ∧ count 7 a ≤ count 8 a + 4 ∧ (b = [] → count 7 a = count 8 a)
/-- Check n of R229 fails for a routine, and names the word w of the store. -/
def checkFails (p : Prog) (r q6 q7 n w : Nat) : Prop :=
  let e := (p.entry r).toNat
  let start := e % 2 ^ 10
  let len := e / 2 ^ 11 % 2 ^ 11
  let ws := p.routine r
  let first := fun (bad : Nat → Prop) => ∃ a x b, ws = a ++ x :: b ∧ bad x ∧ (∀ y ∈ a, ¬ bad y) ∧ w = start + a.length
  match n with
  | 1 => e / 2 ^ 32 % 2 = 0 ∧ w = start
  | 2 => (len = 0 ∨ 1024 < start + len) ∧ w = start
  | 3 => first fun x => ¬ wellFormedWord x
  | 4 => first fun x => ¬ acceptedWord q6 q7 x
  | 5 => ¬ loopsPair ws ∧ w = start
  | 6 => ws.getLast? ≠ some 0 ∧ w = start + len - 1
  | 7 => first fun x => x / 2 ^ 58 % 2 ^ 6 = 11 ∧ 6 ≤ x / 2 ^ 54 % 2 ^ 3
  | _ => False
/-- The micro-operation being dispatched on the served core is the next of its oldest queued call, which has started; the queued
calls have different sequence numbers and none has ended. -/
def runsCall (s : State) (c : Nat) (k : Call) (l : List Call) : Prop :=
  s.iss.core = c ∧ s.started c k = true ∧ (s.core c).mx.calls = k :: l ∧ k.ended = false ∧ ((k :: l).map (·.seq)).Nodup ∧ ∀ q ∈ l, q.ended = false
/-- The micro-operation is dispatched and the call goes on at index n of its words. -/
def callAt (t : State) (c : Nat) (k : Call) (l : List Call) (n : Nat) : Prop :=
  (t.core c).mx.calls = { k with idx := n } :: l ∧ (t.core c).mx.waits = []
/-- A tile the accumulator store reads as its reset contents, with OVF clear. -/
def tileClear (a : Acc) (t : Nat) : Prop := (∀ r, r < 32 → a.row t r = List.replicate 128 ⟨0, false⟩) ∧ a.over t = false
/-- What one more micro-operation in progress is: started now, for this call, with nothing of it done. -/
def uopStarted (t s : State) (c : Nat) (k : Call) (u : Uop) : Prop :=
  (t.core c).mx.uops = (s.core c).mx.uops ++ [u] ∧ u.seq = k.seq ∧ u.row = 0 ∧ u.at_ = (s.core c).mx.clock
/-- What a micro-operation whose SEL names its base comes to (R209, R231): a call register's value in the whole scratchpad; or
a handle's BASE within its buffer, which it makes DRAINING where it is FULL and waits for where it is FREE or FILLING. -/
def fromBase (s : State) (c : Nat) (k : Call) (sel : Nat) (i : Instr) (p : State → Nat → Nat → Nat → State → Prop) : Prop :=
  (sel < 32 → ∃ t, exec i s = .next t ∧ p s (k.reg (sel % 8)).toNat 0 (2 ^ 20) t)
  ∧ (32 ≤ sel → let w := s.handleWord s.mem c (sel % 32)
      hBad w = false →
      (hState w = 3 → ∃ t, exec i s = .next t ∧ p s (hBase w) 0 (min (2 ^ 20) (hBase w + hLen w)) t)
      ∧ (hState w = 2 → ∃ t, exec i s = .next t
          ∧ p (s.setHandle c (sel % 32) 3) (hBase w) 0 (min (2 ^ 20) (hBase w + hLen w)) t)
      ∧ (hState w ≤ 1 → (s.core c).mx.waits = [] → ∃ t, exec i s = .next t ∧ (t.core c).mx.calls = (s.core c).mx.calls
          ∧ (t.core c).mx.uops = (s.core c).mx.uops ∧ (t.core c).mx.waits = [⟨4, 4, 0, 0, (s.core c).mx.live, s.waitLimit c⟩]
          ∧ t.mem = s.mem))
/-- The n bytes of a table at an engine address of HBM lie in the clear at places that translations held by the TLB of the
issuer's die give, in stacks that run, those of one line side by side (R198, R284, R335, R410). -/
def tableAt (s : State) (b : Issuer) (a n : Nat) (place : Nat → Nat) : Prop :=
  spaceOf a = 4 ∧ off48 a + n ≤ 2 ^ 48
  ∧ (∀ x, x < n → ∃ t, (s.die b.die).tlb.find? (fun t => t.part == b.part && (off48 a + x) / 2 ^ t.size * 2 ^ t.size == t.va) = some t
      ∧ t.r = true ∧ t.w = true
      ∧ placePa (s.channels b.die b.part) (b.die / 4) (t.pa + (off48 a + x) % 2 ^ t.size) = some (place x))
  ∧ (∀ x, x < n → s.crypts b.part (place x) = false ∧ s.placeOn (place x) = true)
  ∧ (∀ p ∈ pieces a n, ∀ j, j < p.2 → place (p.1 + j) = place p.1 + j)
  ∧ ∀ x y, x < n → y < n → place x = place y → x = y
/-- The sum of R286 over elements of a format, in order: of I32 modulo 2^32, of F32 and BF16 at FP32, BF16 widened exactly. -/
def rowTotal (fm : Nat) : List Nat → Nat × BitVec 5
  | [] => (0, 0)
  | x :: l => l.foldl (fun (a : Nat × BitVec 5) e =>
      let q := if fm = 0 then ((a.1 + e) % 2 ^ 32, 0)
        else fp32.add 0 false (fp32.value false a.1) (fp32.value false (if fm = 2 then e * 2 ^ 16 else e))
      (q.1, a.2 ||| q.2)) (if fm = 2 then x * 2 ^ 16 else x, 0)
/-- Node(l, i) of R313's tree: the leaf at a position, or the combination of the two nodes below, an absent one passing its
sibling. -/
def orderedNode (step : Nat → Nat → Nat × BitVec 5) (leaf : Nat → Option Nat) : Nat → Nat → Option Nat × BitVec 5
  | 0, i => (leaf i, 0)
  | l + 1, i => redCombine step (orderedNode step leaf l (2 * i)) (orderedNode step leaf l (2 * i + 1))
/-- A core runs with what an image holds (R382, R384): its registers, accumulators, matrix parameters, mode and level, the
contexts' registers, addresses and results in flight; of an exposed mode whose results are all still to come. -/
def loadedAs (t : State) (c : Nat) (im : Image) : Prop :=
  (t.core c).acc = im.core.acc ∧ (t.core c).ident.mode = im.core.ident.mode
  ∧ (t.core c).ident.pl = im.core.ident.pl ∧ (t.core c).stat.stopped = false ∧ (∀ x, (t.ctx c x).pc = (im.core.ctx x).pc)
  ∧ (im.core.ident.mode = 2 ∨ (∀ r ∈ (im.core.ctx 0).inflight, r.rem ≠ 0) → (t.core c).v = im.core.v
      ∧ (t.core c).m = im.core.m ∧ ∀ x n,
      (t.ctx c x).readS n = (im.core.ctx x).readS n ∧ (t.ctx c x).readP n = (im.core.ctx x).readP n
      ∧ (t.ctx c x).inflight = (im.core.ctx x).inflight)
/-- A whole number is nearest to r, and even where two are (R67's RNE). -/
def nearestEven (r : ℚ) (n : Int) : Prop := |r - n| ≤ 1 / 2 ∧ (|r - n| = 1 / 2 → n % 2 = 0)
/-- A fabric operation on its way, which the event now taking place is about. -/
def underway (s : State) (op : Nat) (f : Fop) : Prop :=
  s.clk.args = [op] ∧ s.fop op = some f ∧ f.stage ≠ 0 ∧ f.stage ≠ 3 ∧ f.stage ≠ 4 ∧ f.stage ≠ 7
/-- The operation has left the fabric and is complete. -/
def completed (t : State) (op : Nat) : Prop := t.fop op = none ∧ op ∉ t.net.live
/-- Payloads of a partition between two packages arrive as they are sent (R388, R390): where neither protects the partition, or
both hold one fabric key for it; within a package that protects it, also before a key is loaded. -/
def linked (s : State) (part p q : Nat) : Prop :=
  (s.protectedPart p part = false ∧ s.protectedPart q part = false)
    ∨ (∃ k, (s.part p part).sec.fabric = some k ∧ (s.part q part).sec.fabric = some k)
    ∨ (p = q ∧ (s.part p part).sec.fabric = none)
/-- A package of the network that an operation's payloads reach (R17, R390). -/
def reaches (s : State) (f : Fop) (pkg : Nat) : Prop := answers pkg = true ∧ linked s f.by_.part f.from_ pkg
/-- A home of n bytes in the scratchpad of a core that is not stopped, in a cluster and on a die that run (R410), which the
operation's package reaches. -/
def padHome (s : State) (f : Fop) (mem off n pkg u : Nat) : Prop :=
  mem = 1 + 8 * u ∧ pkg = u / 512 ∧ off + n ≤ 2 ^ 20 ∧ reaches s f pkg ∧ (s.core u).stat.stopped = false
    ∧ s.clusterOn (u / 8) = true ∧ s.dieOn (u / 128) = true
/-- A write that is refused: TBLSTAT of the partition says so, with its code and index, and nothing else has changed (R322,
R323). -/
def refusedWith (s t : State) (pkg part code idx : Nat) : Prop :=
  (t.part pkg part).tbl = ⟨true, min 65535 ((s.part pkg part).tbl.count + 1), idx % 65536, code⟩
  ∧ t.mem = s.mem ∧ t.tags = s.tags ∧ t.cores = s.cores ∧ t.clusters = s.clusters ∧ t.dies = s.dies ∧ t.net = s.net
  ∧ (t.pkg pkg).apex = (s.pkg pkg).apex ∧ (t.pkg pkg).own = (s.pkg pkg).own
  ∧ (t.part pkg part).ctl = (s.part pkg part).ctl ∧ (t.part pkg part).sec = (s.part pkg part).sec
/-- The memory, the tags and the cores are as they were. -/
def keepsCores (s t : State) : Prop := t.mem = s.mem ∧ t.tags = s.tags ∧ t.cores = s.cores
/-- Nothing that a partition issued from a package is on its way: no fabric operation and no command of an engine. -/
def nothingIssued (t : State) (pkg part : Nat) : Prop :=
  (∀ e ∈ t.net.fops, ¬ (e.2.by_.part = part ∧ e.2.from_ = pkg))
  ∧ (∀ e ∈ t.clusters, e.1 / 64 = pkg → ∀ m ∈ e.2.bte.commands, m.by_.part ≠ part)
  ∧ ∀ e ∈ t.dies, e.1 / 4 = pkg → ∀ m ∈ e.2.se, m.by_.part ≠ part
/-- A partition of a package as its reset begins (R398): RESETTING, its nodes ended in STATE 5 and its operations gone. -/
def resetBegun (s t : State) (pkg part : Nat) : Prop :=
  (t.part pkg part).ctl.state = 3 ∧ (t.part pkg part).ctl.rst = true ∧ (t.pkg pkg).own = (s.pkg pkg).own
  ∧ (∀ d, d < 4 → ∀ i, (s.nodeEnt (pkg * 4 + d) i).part = part → (s.nodeEnt (pkg * 4 + d) i).state ∈ [1, 2, 3, 6] →
      (t.nodeEnt (pkg * 4 + d) i).state = 5 ∧ (t.nodeEnt (pkg * 4 + d) i).err = true)
  ∧ nothingIssued t pkg part
/-- A partition of a package after function-level reset (R398): running, its operations, its nodes and its other table entries
gone, its keys too but for the fresh ones of a protected partition, its quarters' memory zero; what it is allotted is as
before. -/
def partitionReset (s t : State) (pkg part : Nat) : Prop :=
  (t.part pkg part).ctl.state = 0 ∧ (t.part pkg part).ctl.rst = false ∧ (t.part pkg part).ctl.beatAt = s.clk.cycle
  ∧ (t.part pkg part).ctl.v = (s.part pkg part).ctl.v ∧ (t.part pkg part).ctl.prot = (s.part pkg part).ctl.prot
  ∧ (t.pkg pkg).own = (s.pkg pkg).own
  ∧ (t.part pkg part).sec.model = [] ∧ (t.part pkg part).sec.fabric = none ∧ (t.part pkg part).sec.ks = none
  ∧ (t.part pkg part).sec.hbkey = none
  ∧ (∀ i, i < 4096 → Tab.get 0 (t.pkg pkg).apex.dies (part * 4096 + i) = 0)
  ∧ (∀ i, i < 1024 → Tab.get 0 (t.pkg pkg).apex.windows (part * 1024 + i) = 0)
  ∧ (∀ d, d < 4 → ∀ i, (t.nodeEnt (pkg * 4 + d) i).part = part → t.nodeEnt (pkg * 4 + d) i = NodeEnt.reset)
  ∧ (∀ d, d < 4 → Tab.get 0 (t.die (pkg * 4 + d)).sched.partner part = 0)
  ∧ ((s.part pkg part).ctl.prot = true → (t.part pkg part).sec.ecdh ≠ 0 ∧ ∀ d, d < 4 →
      (Tab.find (t.die (pkg * 4 + d)).keyslots ((s.die (pkg * 4 + d)).key part).cur).isSome = true)
  ∧ nothingIssued t pkg part
  ∧ (∀ q, q < 16 → (s.pkg pkg).own.quarter q = some part → ∀ cl ∈ quarterClusters pkg q,
      (∀ o, o < 2 ^ 24 → t.mem.read (cmemAddr cl o) = 0)
      ∧ ∀ c ∈ coresOf cl, ∀ o, o < 2 ^ 20 → t.mem.read (spmAddr c o) = 0 ∧ t.tagFull c o = true)
/-- Where an instruction's words stand (R91, R93, R97, R232): a syllable of a class, short or wide; a 64-bit word of the
microprogram store; a bundle header; or nowhere, for an event. -/
inductive Place where
  | syllable (c : Cls) (wide : Bool)
  | micro
  | header
  | event
  deriving DecidableEq, Repr
/-- The place of every instruction's words. -/
def placeOf : Instr → Place
  | .emptyBundle => .header
  | .nop _ => .syllable .C false
  | .prep _ => .syllable .C false
  | .prepr _ => .syllable .C false
  | .trans _ => .syllable .C false
  | .loopImm _ => .syllable .C false
  | .loopReg _ => .syllable .C false
  | .sync _ => .syllable .C false
  | .syncj _ => .syllable .C false
  | .syncl _ => .syllable .C false
  | .join _ => .syllable .C false
  | .joinW _ => .syllable .C false
  | .detach _ => .syllable .C false
  | .smode _ => .syllable .C false
  | .spawn _ => .syllable .C false
  | .suspend _ => .syllable .C false
  | .yield _ => .syllable .C false
  | .halt _ => .syllable .C false
  | .trap _ => .syllable .C false
  | .tret _ => .syllable .C false
  | .add _ => .syllable .S false
  | .sub _ => .syllable .S false
  | .mul _ => .syllable .S false
  | .mulh _ => .syllable .S false
  | .div _ => .syllable .S false
  | .rem _ => .syllable .S false
  | .addi _ => .syllable .S false
  | .addiWide _ => .syllable .S true
  | .movi _ => .syllable .S false
  | .moviWide _ => .syllable .S true
  | .moviHi _ => .syllable .S true
  | .and _ => .syllable .S false
  | .or _ => .syllable .S false
  | .xor _ => .syllable .S false
  | .shl _ => .syllable .S false
  | .shr _ => .syllable .S false
  | .sar _ => .syllable .S false
  | .min _ => .syllable .S false
  | .max _ => .syllable .S false
  | .umin _ => .syllable .S false
  | .umax _ => .syllable .S false
  | .clz _ => .syllable .S false
  | .popc _ => .syllable .S false
  | .sel _ => .syllable .S false
  | .cmp _ => .syllable .S false
  | .cmpi _ => .syllable .S false
  | .cmpiWide _ => .syllable .S true
  | .andi _ => .syllable .S false
  | .andiWide _ => .syllable .S true
  | .ori _ => .syllable .S false
  | .oriWide _ => .syllable .S true
  | .xori _ => .syllable .S false
  | .xoriWide _ => .syllable .S true
  | .shli _ => .syllable .S false
  | .shri _ => .syllable .S false
  | .sari _ => .syllable .S false
  | .fadd _ => .syllable .S false
  | .faddWide _ => .syllable .S true
  | .fmul _ => .syllable .S false
  | .fmulWide _ => .syllable .S true
  | .ffma _ => .syllable .S false
  | .ffmaWide _ => .syllable .S true
  | .fcvt _ => .syllable .S false
  | .fcvtWide _ => .syllable .S true
  | .csrr _ => .syllable .S false
  | .csrw _ => .syllable .S false
  | .movm _ => .syllable .S false
  | .ld _ => .syllable .M false
  | .ldWide _ => .syllable .M true
  | .st _ => .syllable .M false
  | .stWide _ => .syllable .M true
  | .ldf _ => .syllable .M false
  | .ldfWide _ => .syllable .M true
  | .lde _ => .syllable .M false
  | .ldeWide _ => .syllable .M true
  | .ste _ => .syllable .M false
  | .steWide _ => .syllable .M true
  | .tage _ => .syllable .M false
  | .tageWide _ => .syllable .M true
  | .tagf _ => .syllable .M false
  | .tagfWide _ => .syllable .M true
  | .vld _ => .syllable .M false
  | .vldWide _ => .syllable .M true
  | .vst _ => .syllable .M false
  | .vstWide _ => .syllable .M true
  | .vldx _ => .syllable .M false
  | .vstx _ => .syllable .M false
  | .vadd _ => .syllable .V false
  | .vaddWide _ => .syllable .V true
  | .vsub _ => .syllable .V false
  | .vsubWide _ => .syllable .V true
  | .vmul _ => .syllable .V false
  | .vmulWide _ => .syllable .V true
  | .vmin _ => .syllable .V false
  | .vminWide _ => .syllable .V true
  | .vmax _ => .syllable .V false
  | .vmaxWide _ => .syllable .V true
  | .vand _ => .syllable .V false
  | .vandWide _ => .syllable .V true
  | .vor _ => .syllable .V false
  | .vorWide _ => .syllable .V true
  | .vxor _ => .syllable .V false
  | .vxorWide _ => .syllable .V true
  | .vshl _ => .syllable .V false
  | .vshlWide _ => .syllable .V true
  | .vshr _ => .syllable .V false
  | .vshrWide _ => .syllable .V true
  | .vsar _ => .syllable .V false
  | .vsarWide _ => .syllable .V true
  | .vcmp _ => .syllable .V false
  | .vsel _ => .syllable .V false
  | .vselWide _ => .syllable .V true
  | .vcvt _ => .syllable .V false
  | .vcvtWide _ => .syllable .V true
  | .vperm _ => .syllable .V false
  | .vbcast _ => .syllable .V false
  | .vaddF _ => .syllable .V false
  | .vaddFWide _ => .syllable .V true
  | .vsubF _ => .syllable .V false
  | .vsubFWide _ => .syllable .V true
  | .vmulF _ => .syllable .V false
  | .vmulFWide _ => .syllable .V true
  | .vfma _ => .syllable .V false
  | .vfmaWide _ => .syllable .V true
  | .vminF _ => .syllable .V false
  | .vminFWide _ => .syllable .V true
  | .vmaxF _ => .syllable .V false
  | .vmaxFWide _ => .syllable .V true
  | .vsum _ => .syllable .V false
  | .vsumWide _ => .syllable .V true
  | .vmaxr _ => .syllable .V false
  | .vmaxrWide _ => .syllable .V true
  | .vscan _ => .syllable .V false
  | .vscanWide _ => .syllable .V true
  | .vlane _ => .syllable .V false
  | .vpopc _ => .syllable .V false
  | .vcmpr _ => .syllable .V false
  | .vhash _ => .syllable .V false
  | .vhashWide _ => .syllable .V true
  | .vvote _ => .syllable .V false
  | .vexp2 _ => .syllable .V false
  | .vexp2Wide _ => .syllable .V true
  | .vlog2 _ => .syllable .V false
  | .vlog2Wide _ => .syllable .V true
  | .vrcp _ => .syllable .V false
  | .vrcpWide _ => .syllable .V true
  | .vrsq _ => .syllable .V false
  | .vrsqWide _ => .syllable .V true
  | .pand _ => .syllable .V false
  | .por _ => .syllable .V false
  | .pxor _ => .syllable .V false
  | .pnot _ => .syllable .V false
  | .pset _ => .syllable .V false
  | .pmov _ => .syllable .V false
  | .mxcall _ => .syllable .X false
  | .mxprog _ => .syllable .X false
  | .mxprogTab _ => .syllable .X false
  | .zrd _ => .syllable .X false
  | .zwr _ => .syllable .X false
  | .mxstat _ => .syllable .X false
  | .copy _ => .syllable .E false
  | .copyWide _ => .syllable .E true
  | .copy2d _ => .syllable .E false
  | .copy2dWide _ => .syllable .E true
  | .tmov _ => .syllable .E false
  | .tmovWide _ => .syllable .E true
  | .seop _ => .syllable .E false
  | .seopWide _ => .syllable .E true
  | .copyUnseal _ => .syllable .E false
  | .copyUnsealWide _ => .syllable .E true
  | .strcfg _ => .syllable .E false
  | .stron _ => .syllable .E false
  | .stroff _ => .syllable .E false
  | .bufrel _ => .syllable .E false
  | .rput _ => .syllable .E false
  | .rputWide _ => .syllable .E true
  | .rget _ => .syllable .E false
  | .rgetWide _ => .syllable .E true
  | .rgetv _ => .syllable .E false
  | .rgetvWide _ => .syllable .E true
  | .rfop _ => .syllable .E false
  | .rfopWide _ => .syllable .E true
  | .rfopIncw _ => .syllable .E true
  | .rfopBadd _ => .syllable .E true
  | .rfopCas _ => .syllable .E true
  | .rvatom _ => .syllable .E false
  | .rvatomWide _ => .syllable .E true
  | .rred _ => .syllable .E false
  | .rredWide _ => .syllable .E true
  | .rmcast _ => .syllable .E false
  | .rmcastWide _ => .syllable .E true
  | .fence _ => .syllable .E false
  | .arrive _ => .syllable .E false
  | .waitb _ => .syllable .E false
  | .waitbC _ => .syllable .E false
  | .waitbCWide _ => .syllable .E true
  | .waith _ => .syllable .E false
  | .barinit _ => .syllable .E false
  | .trigarm _ => .syllable .E false
  | .trigcancel _ => .syllable .E false
  | .moncfgConfigure _ => .syllable .E false
  | .moncfgSnapshot _ => .syllable .E false
  | .moncfgSnapshotClear _ => .syllable .E false
  | .moncfgStop _ => .syllable .E false
  | .tlbinv _ => .syllable .E false
  | .tlbinvPart _ => .syllable .E false
  | .tlbinvPkg _ => .syllable .E false
  | .slotld _ => .syllable .E false
  | .buddyset _ => .syllable .E false
  | .mret => .micro
  | .wld _ => .micro
  | .wswap => .micro
  | .ast _ => .micro
  | .zclr _ => .micro
  | .zgrid _ => .micro
  | .zcvt _ => .micro
  | .mloop _ => .micro
  | .mend => .micro
  | .marrive _ => .micro
  | .mwait _ => .micro
  | .minc _ => .micro
  | .chordMulticast => .event
  | .chordRestart => .event
  | .joinTimeout => .event
  | .chordJoinTimeout => .event
  | .transferMature => .event
  | .loopEnd => .event
  | .syncGenerationComplete => .event
  | .waitTimeout => .event
  | .tagWaitTimeout => .event
  | .takeRecord => .event
  | .arrivalOverflowPush => .event
  | .schedulerDispatch => .event
  | .batchPush => .event
  | .priorityAging => .event
  | .skipLimit => .event
  | .coreLeaveNode => .event
  | .engineNodeComplete => .event
  | .decrement => .event
  | .failureNotice => .event
  | .notifyRingWrite => .event
  | .notifyAck => .event
  | .corestartGo => .event
  | .coreMapWrite => .event
  | .preemptRequeue => .event
  | .preemptPark => .event
  | .preemptResume => .event
  | .preemptStop => .event
  | .drainTimeout => .event
  | .imageSave => .event
  | .imageRestore => .event
  | .bteRelease => .event
  | .handleFillClaim => .event
  | .bteHandleTimeout => .event
  | .bteCommandComplete => .event
  | .arriveApply => .event
  | .seCommandStart => .event
  | .seCommandComplete => .event
  | .streamEntryFetch => .event
  | .streamEntryWrite => .event
  | .pageWalk => .event
  | .fabricWriteAtHome => .event
  | .remoteBarrierIncrement => .event
  | .putAcknowledge => .event
  | .multicastMemberDelivery => .event
  | .rgetReadAtHome => .event
  | .rgetReply => .event
  | .rgetvComplete => .event
  | .combineRequest => .event
  | .rfopAtHome => .event
  | .combinedReplySplit => .event
  | .rfopReply => .event
  | .rvatomAtHome => .event
  | .cruPartialForward => .event
  | .contributionAtRoot => .event
  | .roundTimeout => .event
  | .roundEndMessage => .event
  | .peerTimeout => .event
  | .slotTableEffect => .event
  | .monitorPeriodicSample => .event
  | .uncorrectableError => .event
  | .packageReset => .event
  | .dieTableWrite => .event
  | .windowTableWrite => .event
  | .reductionWindowWrite => .event
  | .rankMapWrite => .event
  | .graphTableWrite => .event
  | .contextTableWrite => .event
  | .keyTableWrite => .event
  | .sweepRekey => .event
  | .deadPeerClear => .event
  | .ownershipWrite => .event
  | .pctlDefine => .event
  | .functionLevelReset => .event
  | .launch => .event
  | .heartbeat => .event
  | .heartbeatPeriodExpiry => .event
  | .graceExpiry => .event
  | .qnonceWrite => .event
  | .extendWrite => .event
  | .keyload => .event
  | .efqPop => .event
  | .monownWrite => .event
  | .islctlWrite => .event
  | .islandChangeDone => .event
  | .pgctlDrain => .event
  | .pgctlLoad => .event
  | .firmwareLoadDone => .event
  | .registerWrite => .event
  | .btePieceWrite => .event
  | .seRowOperation => .event
  | .rgetvPieceLanding => .event
  | .microopComplete => .event
  | .targetLinesReady => .event
  | .codeCopyComplete => .event
  | .reportWritten => .event
/-- The slot that an instruction stands in by its class. -/
def slotOf (i : Instr) : Nat :=
  match placeOf i with
  | .syllable c _ => classSlot c
  | .micro => 0
  | .header => 0
  | .event => 0
/-- The instructions that R156 lets write their whole destination under a mask of 0: a false guard does not nullify them. -/
def ignoresGuard : Instr → Bool
  | .vsum _ => true
  | .vsumWide _ => true
  | .vmaxr _ => true
  | .vmaxrWide _ => true
  | .vscan _ => true
  | .vscanWide _ => true
  | .vcmpr _ => true
  | .vvote _ => true
  | .vpopc _ => true
  | .pmov _ => true
  | _ => false
/-- The stores of a core to its scratchpad. -/
def storesBytes : Instr → Bool
  | .st _ => true
  | .stWide _ => true
  | .ste _ => true
  | .steWide _ => true
  | .vst _ => true
  | .vstWide _ => true
  | .vstx _ => true
  | _ => false
/-- The instructions that set or clear tags, the stores among them. -/
def changesTags (i : Instr) : Bool :=
  storesBytes i || match i with
  | .lde _ => true
  | .ldeWide _ => true
  | .tage _ => true
  | .tageWide _ => true
  | .tagf _ => true
  | .tagfWide _ => true
  | _ => false
/-- The context's next bundle is at address a: but for the leader of a stream that has issued its bundles, which goes on where
the Chord's decision, its own, said (R35, R36). -/
def goesTo (s t : State) (c x a : Nat) : Prop :=
  (t.ctx c x).pc = a % 2 ^ 24
  ∨ (s.core c).inStream = true ∧ match (s.core c).fetch.queue.head? with
    | some b => b.lead = some c ∧ (t.ctx c x).pc = b.addr
    | none => (s.cluster (clusterOf c)).chord.decided = true ∧ (s.cluster (clusterOf c)).chord.lead = some c
        ∧ (t.ctx c x).pc = (s.cluster (clusterOf c)).chord.pc
/-- The registers that a context reads are the same: its scalar and predicate registers, and the core's v and m registers. -/
def sameRegisters (s t : State) (c x : Nat) : Prop :=
  (∀ n, (t.ctx c x).readS n = (s.ctx c x).readS n) ∧ (∀ n, ((t.ctx c x).readP n).bits = ((s.ctx c x).readP n).bits)
  ∧ (∀ n, Tab.get 0 (t.core c).v n = Tab.get 0 (s.core c).v n) ∧ ∀ n, Tab.get 0 (t.core c).m n = Tab.get 0 (s.core c).m n
/-- No boundary of an exposed mode has made results visible that no bundle has read. -/
def noneFresh (s : State) (c x : Nat) : Prop := (s.core c).ident.mode = 2 ∨ (s.ctx c x).recent = none
/-- The slots of a bundle, each with its instruction, are checked one after the other from state s on and leave t: what a
scalar context may not issue raises IllegalInContext (R98, R99, R119); every other slot has no hazard with what was in flight
before the bundle, in state s0 (R26), and is executed by exec of its instruction. -/
def runsSlots (s0 : State) : List (Nat × Instr) → State → State → Prop
  | [], s, t => t = s
  | (n, i) :: l, s, t => ∃ u,
      let p := s.modIss fun k => { k with slot := n }
      (if p.iss.ctx ≠ 0 ∧ refusedScalar i = true then u = p.fault illegalInContext (p.wordTval i)
       else ((p.core p.iss.core).ident.mode = 2 → s0.hazard n i = false) ∧ exec i p = .next u)
      ∧ runsSlots s0 l u t
/-- Context x of core c attempts bundle b at address a in state s: its slots, slot 0 last, leave t. -/
def attempts (s : State) (c x a : Nat) (b : Bundle) (t : State) : Prop :=
  let s0 := s.beginIssue c x a (s.seqNext c a) b
  runsSlots s0 ((b.slots.filter fun e => e.1 != 0) ++ b.slots.filter fun e => e.1 == 0) s0 t
/-- Of the faults l of a bundle, its header's and suffix's among them, f is the one it reports (R100, R371): no other has a cause
of higher priority, or a lower location with the same cause's priority. -/
def reportedOf (l : List SlotFault) (f : SlotFault) : Prop :=
  f ∈ l ∧ ∀ g ∈ l, causePriority f.code < causePriority g.code ∨ (causePriority f.code = causePriority g.code ∧ f.loc ≤ g.loc)
/-- The bundle at address a traps with fault f (R5, R100, R374): v is s with the trap taken. Where the context holds no capture,
TPC is the bundle's address, TCAUSE the location and the cause, and nothing of the bundle is committed: memory, tags and
registers are as they were. -/
def trapsWith (s v : State) (c x a : Nat) (f : SlotFault) : Prop :=
  v = s.takeTrap c x f.loc f.code f.tval a
  ∧ ((s.ctx c x).cap = none → (v.ctx c x).csr.tpc = a % 2 ^ 24 ∧ (v.ctx c x).csr.tcause = f.loc * 256 + f.code
      ∧ (v.ctx c x).csr.tval = f.tval ∧ v.mem = s.mem ∧ v.tags = s.tags ∧ (noneFresh s c x → sameRegisters s v c x))
/-- A bundle that waits commits nothing (R373): memory, tags, registers, the results in flight and the context's place stay. -/
def waitsOn (s v : State) (c x : Nat) : Prop :=
  v.mem = s.mem ∧ v.tags = s.tags ∧ sameRegisters s v c x ∧ (v.ctx c x).inflight = (s.ctx c x).inflight
  ∧ (v.ctx c x).pc = (s.ctx c x).pc ∧ (v.ctx c x).run.issued = (s.ctx c x).run.issued
  ∧ (v.core c).fetch.queue = (s.core c).fetch.queue
/-- Core c runs in this cycle with its island's clock: nothing stops it, it completes no tag range, loads no slot table
and holds no stall. -/
def runsNow (s : State) (c : Nat) : Prop :=
  (s.core c).stat.frozen = false ∧ (s.core c).stat.stopped = false ∧ (s.core c).stat.dead = false ∧ (s.core c).stat.stall = 0
  ∧ (s.core c).stat.credit = 0 ∧ s.frac (pkgOf c) (2 * (c % 512)) = 64 ∧ (s.core c).tagRun = none
  ∧ (s.core c).slotRun = none
/-- The state in which core c's turn attempts a bundle: the turn is taken from the agenda and the cycle counted. -/
def turnStart (s : State) (c : Nat) (l : List Turn) : State :=
  ({ s with clk := { s.clk with agenda := l } } : State).modCore c fun k => { k with stat := { k.stat with live := k.stat.live + 1 } }
/-- Context x is the one of core c that attempts a bundle in its turn, from state s; u is the state of the attempt, a the
bundle's address and l its line: context 0 from the head of the decode queue, where it is attached and not in a handler, or
else from its own address; in STRAND mode the one active context. Its line is fetched and no result of another is on its way. -/
def attemptsFrom (s u : State) (c x a : Nat) (l : BitVec 512) : Prop :=
  let k := s.core c
  let r := s.ctx c x
  let own := a = u.resolve c r.pc ∧ l = u.peekLine c a ∧ (∃ e ∈ k.fetch.lines, e.1 = a % 2 ^ 24 / 64 * 64) ∧ headerAt l a ≠ skipMarker
  let runs := x = 0 ∧ (∀ y, y ≠ 0 → (s.ctx c y).inflight = []) ∧ r.unlanded = [] ∧ r.run.ended = false ∧ r.run.active = true
    ∧ r.run.join = none
  (k.ident.mode = 0 ∧ k.stat.handler = false ∧ runs ∧ ∃ q w, k.fetch.queue = q :: w ∧ q.readyAt ≤ s.clk.cycle ∧ a = q.addr ∧ l = q.line)
  ∨ ((k.ident.mode = 1 ∨ (k.ident.mode = 0 ∧ k.stat.handler = true)) ∧ runs ∧ own)
  ∨ (k.ident.mode = 2 ∧ k.issueOrder = [x] ∧ (∀ y, (s.ctx c y).inflight = []) ∧ own)

end Sys2Proof.Machine
end

