-- ==== Sys2Proof/Certificates/Slice0/Obligations.lean ====
section
/-! DEFINITION. The statements for the provers: each formalises rules of spec/ named in its docstring. -/

open Sys2Proof Sys2Proof.Machine

/-- R142: the integer instructions on two registers answer, one bundle later (MUL 3), the 64-bit wrapping results of the rule;
both operands are as read at issue, and a shift count is bits 5:0 of sb (R63). -/
def Obligations.ScalarRegisterResults : Prop := ∀ (f : FmtSR) (s : State), s.guard0 f.g = true →
  exec (.add f) s = .next (s.pushS f.d (BitVec.ofNat 64 ((s.readS f.a).toNat + (s.readS f.b).toNat)) 0 1)
  ∧ exec (.sub f) s = .next (s.pushS f.d (BitVec.ofInt 64 ((s.readS f.a).toInt - (s.readS f.b).toInt)) 0 1)
  ∧ exec (.mul f) s = .next (s.pushS f.d (BitVec.ofNat 64 ((s.readS f.a).toNat * (s.readS f.b).toNat)) 0 3)
  ∧ exec (.and f) s = .next (s.pushS f.d (BitVec.ofNat 64 ((s.readS f.a).toNat &&& (s.readS f.b).toNat)) 0 1)
  ∧ exec (.or f) s = .next (s.pushS f.d (BitVec.ofNat 64 ((s.readS f.a).toNat ||| (s.readS f.b).toNat)) 0 1)
  ∧ exec (.xor f) s = .next (s.pushS f.d (BitVec.ofNat 64 ((s.readS f.a).toNat ^^^ (s.readS f.b).toNat)) 0 1)
  ∧ exec (.shl f) s = .next (s.pushS f.d (BitVec.ofNat 64 ((s.readS f.a).toNat * 2 ^ ((s.readS f.b).toNat % 64))) 0 1)
  ∧ exec (.shr f) s = .next (s.pushS f.d (BitVec.ofNat 64 ((s.readS f.a).toNat / 2 ^ ((s.readS f.b).toNat % 64))) 0 1)
  ∧ exec (.sar f) s = .next (s.pushS f.d (BitVec.ofInt 64 ((s.readS f.a).toInt / 2 ^ ((s.readS f.b).toNat % 64))) 0 1)
  ∧ exec (.min f) s = .next (s.pushS f.d (BitVec.ofInt 64 (min (s.readS f.a).toInt (s.readS f.b).toInt)) 0 1)
  ∧ exec (.max f) s = .next (s.pushS f.d (BitVec.ofInt 64 (max (s.readS f.a).toInt (s.readS f.b).toInt)) 0 1)
  ∧ exec (.umin f) s = .next (s.pushS f.d (BitVec.ofNat 64 (min (s.readS f.a).toNat (s.readS f.b).toNat)) 0 1)
  ∧ exec (.umax f) s = .next (s.pushS f.d (BitVec.ofNat 64 (max (s.readS f.a).toNat (s.readS f.b).toNat)) 0 1)

/-- R62, R142: DIV and REM answer after 16 bundles, MULH after 3. A divisor of 0 gives all ones and the dividend; any other
gives q and r with a = q b + r, r smaller than b in magnitude and of the sign of a, both reduced to 64 bits (so -2^63 / -1 is
-2^63 with remainder 0); MULH the upper half of the exact product. U selects the unsigned reading. R142: CLZ and POPC answer
after one bundle: CLZ 64 for 0, else the n with 2^(63-n) ≤ a < 2^(64-n); POPC the number of one bits. -/
def Obligations.ScalarDivisionAndCounts : Prop :=
  (∀ (f : FmtSRU) (s : State), s.guard0 f.g = true → ∃ q r h : Word,
  exec (.div f) s = .next (s.pushS f.d q 0 16)
  ∧ exec (.rem f) s = .next (s.pushS f.d r 0 16)
  ∧ exec (.mulh f) s = .next (s.pushS f.d h 0 3)
  ∧ (s.readS f.b = 0 → q = BitVec.allOnes 64 ∧ r = s.readS f.a)
  ∧ (s.readS f.b ≠ 0 → f.u ≠ 0 → (s.readS f.a).toNat = q.toNat * (s.readS f.b).toNat + r.toNat ∧ r.toNat < (s.readS f.b).toNat)
  ∧ (s.readS f.b ≠ 0 → f.u = 0 → ∃ x y : Int, (s.readS f.a).toInt = x * (s.readS f.b).toInt + y
      ∧ y.natAbs < (s.readS f.b).toInt.natAbs ∧ (y = 0 ∨ (y < 0 ↔ (s.readS f.a).toInt < 0))
      ∧ q = BitVec.ofInt 64 x ∧ r = BitVec.ofInt 64 y)
  ∧ (f.u ≠ 0 → h.toNat = (s.readS f.a).toNat * (s.readS f.b).toNat / 2 ^ 64)
  ∧ (f.u = 0 → h.toInt = (s.readS f.a).toInt * (s.readS f.b).toInt / 2 ^ 64))
  ∧ (∀ (f : FmtS1) (s : State), s.guard0 f.g = true → ∃ n : Nat, n ≤ 64
  ∧ exec (.clz f) s = .next (s.pushS f.d (BitVec.ofNat 64 n) 0 1)
  ∧ (s.readS f.a = 0 → n = 64)
  ∧ (s.readS f.a ≠ 0 → n < 64 ∧ 2 ^ (63 - n) ≤ (s.readS f.a).toNat ∧ (s.readS f.a).toNat < 2 ^ (64 - n))
  ∧ exec (.popc f) s = .next (s.pushS f.d
      (BitVec.ofNat 64 ((List.range 64).filter fun i => (s.readS f.a).getLsbD i).length) 0 1))

/-- R143 to R145, R147: the immediate forms answer after one bundle; 12-bit, 17-bit and 32-bit immediates are sign-extended,
MOVI with H = 1 zero-extends, with H = 2 writes the upper word and keeps the lower; SEL takes sa where bit 0 of the predicate
is set. R148: CMP and CMPI write 64 equal bits after one bundle, all ones where the condition holds: EQ, NE, signed LT, GE,
unsigned, and so on; CMPI compares with its sign-extended immediate. -/
def Obligations.ScalarImmediatesAndCompares : Prop :=
  ((∀ (f : FmtSI) (s : State), s.guard0 f.g = true →
    exec (.addi f) s = .next (s.pushS f.d (BitVec.ofInt 64 ((s.readS f.a).toInt + (BitVec.ofNat 12 f.i).toInt)) 0 1)
    ∧ exec (.andi f) s = .next (s.pushS f.d (s.readS f.a &&& BitVec.ofInt 64 (BitVec.ofNat 12 f.i).toInt) 0 1)
    ∧ exec (.ori f) s = .next (s.pushS f.d (s.readS f.a ||| BitVec.ofInt 64 (BitVec.ofNat 12 f.i).toInt) 0 1)
    ∧ exec (.xori f) s = .next (s.pushS f.d (s.readS f.a ^^^ BitVec.ofInt 64 (BitVec.ofNat 12 f.i).toInt) 0 1))
  ∧ (∀ (f : FmtSIW) (s : State), s.guard0 f.g = true →
    exec (.addiWide f) s = .next (s.pushS f.d (BitVec.ofInt 64 ((s.readS f.a).toInt + (BitVec.ofNat 32 f.i).toInt)) 0 1)
    ∧ exec (.andiWide f) s = .next (s.pushS f.d (s.readS f.a &&& BitVec.ofInt 64 (BitVec.ofNat 32 f.i).toInt) 0 1)
    ∧ exec (.oriWide f) s = .next (s.pushS f.d (s.readS f.a ||| BitVec.ofInt 64 (BitVec.ofNat 32 f.i).toInt) 0 1)
    ∧ exec (.xoriWide f) s = .next (s.pushS f.d (s.readS f.a ^^^ BitVec.ofInt 64 (BitVec.ofNat 32 f.i).toInt) 0 1))
  ∧ (∀ (f : FmtSH) (s : State), s.guard0 f.g = true →
    exec (.shli f) s = .next (s.pushS f.d (BitVec.ofNat 64 ((s.readS f.a).toNat * 2 ^ f.n)) 0 1)
    ∧ exec (.shri f) s = .next (s.pushS f.d (BitVec.ofNat 64 ((s.readS f.a).toNat / 2 ^ f.n)) 0 1)
    ∧ exec (.sari f) s = .next (s.pushS f.d (BitVec.ofInt 64 ((s.readS f.a).toInt / 2 ^ f.n)) 0 1))
  ∧ (∀ (f : FmtSL) (s : State), s.guard0 f.g = true →
    exec (.movi f) s = .next (s.pushS f.d (BitVec.ofInt 64 (BitVec.ofNat 17 f.i).toInt) 0 1))
  ∧ (∀ (f : FmtSLW) (s : State), s.guard0 f.g = true → f.i < 2 ^ 32 →
    exec (.moviWide f) s =
      .next (s.pushS f.d (BitVec.ofInt 64 (if f.h = 0 then (BitVec.ofNat 32 f.i).toInt else f.i)) 0 1))
  ∧ (∀ (f : FmtSLH) (s : State), s.guard0 f.g = true → f.i < 2 ^ 32 →
    exec (.moviHi f) s = .next (s.pushS f.d (BitVec.ofNat 64 (f.i * 2 ^ 32 + (s.readS f.d).toNat % 2 ^ 32)) 0 1))
  ∧ (∀ (f : FmtSS) (s : State), s.guard0 f.g = true →
    exec (.sel f) s = .next (s.pushS f.d (if s.guard0 f.p then s.readS f.a else s.readS f.b) 0 1)))
  ∧ ((∀ (f : FmtSC) (s : State), s.guard0 f.g = true → f.f = 0 → f.cond < 10 → ∃ c : Bool,
    exec (.cmp f) s = .next (s.pushP f.pd (if c then BitVec.allOnes 64 else 0) 0 1)
    ∧ (c = true ↔ intCondition f.cond (s.readS f.a) (s.readS f.b)))
  ∧ (∀ (f : FmtSK) (s : State), s.guard0 f.g = true → f.cond < 10 → ∃ c : Bool,
    exec (.cmpi f) s = .next (s.pushP f.pd (if c then BitVec.allOnes 64 else 0) 0 1)
    ∧ (c = true ↔ intCondition f.cond (s.readS f.a) (BitVec.ofInt 64 (BitVec.ofNat 8 f.i).toInt)))
  ∧ (∀ (f : FmtSKW) (s : State), s.guard0 f.g = true → f.cond < 10 → ∃ c : Bool,
    exec (.cmpiWide f) s = .next (s.pushP f.pd (if c then BitVec.allOnes 64 else 0) 0 1)
    ∧ (c = true ↔ intCondition f.cond (s.readS f.a) (BitVec.ofInt 64 (BitVec.ofNat 32 f.i).toInt))))

/-- R68, R150, R151: FADD, FMUL, FFMA and FCVT answer after 4 bundles the one rounding of the exact result in the format of T,
in the mode of RMO or else FPCTL.RM, with its flags; FFMA adds sd as read at issue, its wide form sc. R73, R74, R149: a
compare of FP32 values: a NaN is unordered, so it satisfies NE and UN only; a signalling NaN sets NV and nothing else does;
the two zeros are equal; LT, GE, GT and LE order the numbers the operands denote. R67, R70 to R74: on finite operands the sum,
the product and the fused product and sum are formed exactly and rounded once, in each mode and each format, with what the
format delivers and raises where the result is tiny or beyond its largest value, a zero has its sign, and a NaN, an infinity or
an invalid operation answers as listed. What FCVT's conversion delivers ConversionsAndPredicates says. -/
def Obligations.ScalarFloatResults : Prop :=
  ((∀ (f : FmtSF) (s : State), s.guard0 f.g = true →
    let v := fun n => (fpOfT f.t).value (f.fzi != 0) (s.readS n).toNat
    let rm := (s.ctx s.iss.core s.iss.ctx).csr.rm.toNat
    ∀ p ∈ [(Instr.fadd f, (fpOfT f.t).add rm (f.fzo != 0) (v f.a) (v f.b)),
           (Instr.fmul f, (fpOfT f.t).mul rm (f.fzo != 0) (v f.a) (v f.b)),
           (Instr.ffma f, (fpOfT f.t).fma rm (f.fzo != 0) (v f.a) (v f.b) (v f.d))],
      exec p.1 s = .next (s.pushS f.d (BitVec.ofNat 64 p.2.1) p.2.2 4))
  ∧ (∀ (f : FmtSFW) (s : State), s.guard0 f.g = true →
    let v := fun n => (fpOfT f.t).value (f.fzi != 0) (s.readS n).toNat
    let rm := if f.rmo = 0 then (s.ctx s.iss.core s.iss.ctx).csr.rm.toNat else f.rmo - 4
    ∀ p ∈ [(Instr.faddWide f, (fpOfT f.t).add rm (f.fzo != 0) (v f.a) (v f.b)),
           (Instr.fmulWide f, (fpOfT f.t).mul rm (f.fzo != 0) (v f.a) (v f.b)),
           (Instr.ffmaWide f, (fpOfT f.t).fma rm (f.fzo != 0) (v f.a) (v f.b) (v f.sc))],
      exec p.1 s = .next (s.pushS f.d (BitVec.ofNat 64 p.2.1) p.2.2 4))
  ∧ (∀ (f : FmtSV) (s : State), s.guard0 f.g = true → ∃ (x : Nat) (fl : BitVec 5) (v : Word),
    (x, fl) = convertElem f.df f.sf (s.ctx s.iss.core s.iss.ctx).csr.rm.toNat (f.fzi != 0) (f.fzo != 0) (f.u != 0) false
      (s.readS f.a).toNat
    ∧ exec (.fcvt f) s = .next (s.pushS f.d v fl 4)
    ∧ v = (if fmtInt f.df = true ∧ f.u = 0 then BitVec.ofInt 64 (BitVec.ofNat (fmtBits f.df) x).toInt else BitVec.ofNat 64 x))
  ∧ (∀ (f : FmtSVW) (s : State), s.guard0 f.g = true → ∃ (x : Nat) (fl : BitVec 5) (v : Word),
    (x, fl) = convertElem f.df f.sf (if f.rmo = 0 then (s.ctx s.iss.core s.iss.ctx).csr.rm.toNat else f.rmo - 4)
      (f.fzi != 0) (f.fzo != 0) (f.u != 0) (f.sat != 0) (s.readS f.a).toNat
    ∧ exec (.fcvtWide f) s = .next (s.pushS f.d v fl 4)
    ∧ v = (if fmtInt f.df = true ∧ f.u = 0 then BitVec.ofInt 64 (BitVec.ofNat (fmtBits f.df) x).toInt else BitVec.ofNat 64 x)))
  ∧ (∀ (f : FmtSC) (s : State), s.guard0 f.g = true → f.f = 1 →
  let x := fp32.value (f.fzi != 0) ((s.readS f.a).toNat % 2 ^ 32)
  let y := fp32.value (f.fzi != 0) ((s.readS f.b).toNat % 2 ^ 32)
  ∃ c : Bool, exec (.cmp f) s = .next (s.pushP f.pd (if c then BitVec.allOnes 64 else 0) (x.nv ||| y.nv) 1)
    ∧ (x.isNan = true ∨ y.isNan = true → (c = true ↔ f.cond = 1 ∨ f.cond = 10))
    ∧ (fpCompare x y = some 0 → (c = true ↔ f.cond = 0 ∨ f.cond = 3 ∨ f.cond = 7))
    ∧ (c = true ↔ fpCondition f.cond x y))
  ∧ (∀ t ∈ [fp32, fpBf16, fp16, fpE4m3, fpE5m2], ∀ (rm : Nat) (z n1 n2 n3 : Bool) (m1 m2 m3 : Nat) (e1 e2 e3 : Int), rm < 4 →
    let a := FpVal.fin n1 m1 e1
    let b := FpVal.fin n2 m2 e2
    let c := FpVal.fin n3 m3 e3
    let zero := fun (x y : Bool) => if x = y then x else rm == 3
    roundsOnce t rm z (fpNumber a + fpNumber b : ℚ) (zero n1 n2) (t.add rm z a b)
    ∧ roundsOnce t rm z (fpNumber a * fpNumber b : ℚ) (n1 != n2) (t.mul rm z a b)
    ∧ roundsOnce t rm z (fpNumber a * fpNumber b + fpNumber c : ℚ) (zero (n1 != n2) n3) (t.fma rm z a b c))
  ∧ (∀ (t : FpFmt) (rm : Nat) (z : Bool) (a b c : FpVal), specialResults t rm z a b c)

/-- R5, R129, R134, R152, R154: CSRR answers after 2 bundles the register's value, 0 for a P-view register at level U; CSRW at
level P, or to a register below 0x800, hands its value to the boundary, BARBASE apart (0x020), which must not be 0x7FF and
waits for the core's arrivals; at level U a write of a P-view register raises PrivilegeViolation. As the bundle commits, the
register takes the value's fields and reads as them, and the bits of TSTAT written as 1 are cleared. MOVM moves between an s and
an m register after one bundle.
Where the rules leave it open it follows the model's reading in log entry 22. -/
def Obligations.SystemRegisterAccess : Prop :=
  (∀ (f : FmtSX) (s : State), s.guard0 f.g = true → (s.core s.iss.core).ident.pl = true ∨ f.csr < 0x800 →
    exec (.csrr f) s = .next (s.pushS f.r (csrValue s s.iss.core s.iss.ctx f.csr) 0 2)
    ∧ (f.csr ≠ 0x020 → exec (.csrw f) s =
        .next (s.modIss fun k => { k with defer := k.defer ++ [.csr k.slot f.csr (s.readS f.r)] })))
  ∧ (∀ (f : FmtSX) (s : State), s.guard0 f.g = true → (s.core s.iss.core).ident.pl = false → 0x800 ≤ f.csr →
    exec (.csrr f) s = .next (s.pushS f.r 0 0 2)
    ∧ exec (.csrw f) s = .next (s.fault privilegeViolation (s.wordTval (.csrw f))))
  ∧ (∀ (f : FmtSX) (s : State), s.guard0 f.g = true → f.csr = 0x020 →
    (bits (s.readS f.r).toNat 9 11 = 0x7FF → exec (.csrw f) s = .next (s.fault addressRange (s.readS f.r)))
    ∧ (bits (s.readS f.r).toNat 9 11 ≠ 0x7FF → s.arrivalsOutstanding s.iss.core = false → exec (.csrw f) s =
        .next (s.modIss fun k => { k with defer := k.defer ++ [.csr k.slot 0x020 (s.readS f.r)] }))
    ∧ (bits (s.readS f.r).toNat 9 11 ≠ 0x7FF → s.arrivalsOutstanding s.iss.core = true →
        ∃ t, exec (.csrw f) s = .next t
          ∧ t.iss.waits = ⟨16 + s.iss.slot, waitTimeout, 0, s.iss.slot, some (s.waitLimit s.iss.core)⟩ :: s.iss.waits))
  ∧ (∀ (f : FmtSM) (s : State), s.guard0 f.g = true →
    (f.d = 0 → exec (.movm f) s = .next (s.pushResult (.m f.m) ((s.readS f.s).setWidth 2048) (BitVec.allOnes 64) 0 1))
    ∧ (f.d ≠ 0 → exec (.movm f) s = .next (s.pushS f.s (s.readM f.m) 0 1)))
  ∧ (∀ (s t : State) (c x slot n : Nat) (v : Word) (b : Bundle), b.suffix = [] → s.iss.defer = [.csr slot n v] →
    let w := v.toNat
    ∃ u r, s.commit t c x b = u.toBoundary c x r
      ∧ (n = 0x002 → csrValue u c x n = BitVec.ofNat 64 (x + bits w 8 8 * 256 + bits w 16 1 * 65536))
      ∧ (n = 0x010 → csrValue u c x n = BitVec.ofNat 64 (w % 2 ^ 2)) ∧ (n = 0x011 → csrValue u c x n = BitVec.ofNat 64 (w % 2 ^ 5))
      ∧ (n = 0x018 → (u.ctx c x).csr.wcoll = ((s.ctx c x).csr.wcoll && bits w 0 1 == 0)
          ∧ (u.ctx c x).csr.tcoll = ((s.ctx c x).csr.tcoll && bits w 1 1 == 0))
      ∧ (n = 0x020 → csrValue u c x n = BitVec.ofNat 64 (bits w 9 11 * 2 ^ 9))
      ∧ (n = 0x801 → csrValue u c x n = BitVec.ofNat 64 (bits w 1 23 * 2))
      ∧ (n = 0x802 → csrValue u c x n = BitVec.ofNat 64 (w % 2 ^ 24)) ∧ (n = 0x803 → csrValue u c x n = BitVec.ofNat 64 (w % 2 ^ 12))
      ∧ (n = 0x804 → csrValue u c x n = v)
      ∧ (n ∈ [0x810, 0x811, 0x812] → csrValue u c x n = BitVec.ofNat 64 (w % 2 ^ 32))
      ∧ (n ≠ 0x820 → sameRegisters s u c x))

/-- R65: in E4M3 the encodings 0x7F and 0xFF are the one NaN, which is quiet, and every other is finite, 0x7E being 448, with
no infinity; in E5M2, as in the wider formats, an exponent field of ones is an infinity with fraction 0 and else a NaN,
signalling where the most significant bit of its fraction is 0. -/
def Obligations.SmallFloatEncodings : Prop :=
  (∀ x, x < 256 → (x % 128 = 127 → fpE4m3.value false x = .nan false)
    ∧ (x % 128 ≠ 127 → ∃ n m e, fpE4m3.value false x = .fin n m e))
  ∧ (∃ m e, fpE4m3.value false 0x7E = .fin false m e ∧ 0 ≤ e ∧ m * 2 ^ e.toNat = 448)
  ∧ (∀ f ∈ [fpE5m2, fp16, fpBf16, fp32], ∀ x, x < 2 ^ f.width → x / 2 ^ f.fw % 2 ^ f.ew = 2 ^ f.ew - 1 →
    (x % 2 ^ f.fw = 0 → f.value false x = .inf (decide (2 ^ (f.ew + f.fw) ≤ x)))
    ∧ (x % 2 ^ f.fw ≠ 0 → f.value false x = .nan (decide (x % 2 ^ f.fw < 2 ^ (f.fw - 1)))))

/-- R158, R160: the integer vector instructions, short and wide, compute every enabled element after 2 bundles with no flag: sums,
differences and products exact, then wrapped or, with S, clamped to the range that U selects; minima and maxima as U reads
them; shifts by the count modulo the width. -/
def Obligations.VectorIntegerResults : Prop :=
  (∀ (f : FmtVI) (s : State),
    let n := eWidth f.e
    let iv := fun x => elementValue n f.u x
    ∀ p ∈ [(Instr.vadd f, fun x y => narrowed n f.s f.u (iv x + iv y)), (Instr.vsub f, fun x y => narrowed n f.s f.u (iv x - iv y)),
           (Instr.vmul f, fun x y => narrowed n f.s f.u (iv x * iv y)), (Instr.vmin f, fun x y => if iv x ≤ iv y then x else y),
           (Instr.vmax f, fun x y => if iv x ≤ iv y then y else x), (Instr.vand f, fun x y => x &&& y),
           (Instr.vor f, fun x y => x ||| y), (Instr.vxor f, fun x y => x ^^^ y),
           (Instr.vshl f, fun x y => x * 2 ^ (y % n) % 2 ^ n), (Instr.vshr f, fun x y => x / 2 ^ (y % n)),
           (Instr.vsar f, fun x y => (elementValue n 0 x / 2 ^ (y % n) % 2 ^ n).toNat)],
      vectorResult p.1 s f.g [f.a, f.b] f.d n 2 fun _ v e => p.2 (elemOf n (v f.a) e) (elemOf n (v f.b) e))
  ∧ (∀ (f : FmtVIW) (s : State),
    let n := eWidth f.e
    let iv := fun x => elementValue n f.u x
    let b := fun (t : State) (v : Nat → VecWord) e => if f.bs = 0 then elemOf n (v f.b) e else (t.readS f.sb).toNat % 2 ^ n
    ∀ p ∈ [(Instr.vaddWide f, fun x y => narrowed n f.s f.u (iv x + iv y)),
           (Instr.vsubWide f, fun x y => narrowed n f.s f.u (iv x - iv y)),
           (Instr.vmulWide f, fun x y => narrowed n f.s f.u (iv x * iv y)),
           (Instr.vminWide f, fun x y => if iv x ≤ iv y then x else y), (Instr.vmaxWide f, fun x y => if iv x ≤ iv y then y else x),
           (Instr.vandWide f, fun x y => x &&& y), (Instr.vorWide f, fun x y => x ||| y), (Instr.vxorWide f, fun x y => x ^^^ y),
           (Instr.vshlWide f, fun x y => x * 2 ^ (y % n) % 2 ^ n), (Instr.vshrWide f, fun x y => x / 2 ^ (y % n)),
           (Instr.vsarWide f, fun x y => (elementValue n 0 x / 2 ^ (y % n) % 2 ^ n).toNat)],
      vectorResult p.1 s f.g (if f.bs = 0 then [f.a, f.b] else [f.a]) f.d n 2
        fun t v e => p.2 (elemOf n (v f.a) e) (b t v e))

/-- R70, R161, R162: the floating-point vector instructions round each enabled element once, and raise its flags, arithmetic
after 4 bundles, VEXP2, VLOG2, VRCP and VRSQ after 12; the wide forms take RMO, and operand b from a scalar where BS is set;
VFMA adds vd, its wide form vc. R74, R161: what minima and maxima deliver; R162: the special values of the four functions, 1/a
and 1/√a rounded once, and 2^a and log2 a where they are exact in binary. What sums, products and fused ones deliver
ScalarFloatResults says.
Where the rules leave it open it follows the model's reading in log entry 11. -/
def Obligations.VectorFloatResults : Prop :=
  (∀ (f : FmtVF) (s : State),
    let t := fpOfT f.t
    let el := fun (v : Nat → VecWord) n e => t.value (f.fzi != 0) (elemOf t.width (v n) e)
    let z := f.fzo != 0
    (∀ p ∈ [(Instr.vaddF f, fun rm x y => t.add rm z x y), (Instr.vsubF f, fun rm x y => t.add rm z x y.negate),
            (Instr.vmulF f, fun rm x y => t.mul rm z x y), (Instr.vminF f, fun _ x y => t.minMax true z x y),
            (Instr.vmaxF f, fun _ x y => t.minMax false z x y)],
      vectorFlagged p.1 s f.g [f.a, f.b] f.d t.width 4
        fun q v e => p.2 (q.roundMode 0) (el v f.a e) (el v f.b e))
    ∧ vectorFlagged (.vfma f) s f.g [f.a, f.b, f.d] f.d t.width 4
        (fun q v e => t.fma (q.roundMode 0) z (el v f.a e) (el v f.b e) (el v f.d e))
    ∧ (∀ p ∈ [(Instr.vexp2 f, t.exp2), (Instr.vlog2 f, t.log2), (Instr.vrcp f, t.recip), (Instr.vrsq f, t.rsqrt)],
      vectorFlagged p.1 s f.g [f.a] f.d t.width 12 fun q v e => p.2 (q.roundMode 0) z (el v f.a e)))
  ∧ (∀ (f : FmtVFW) (s : State),
    let t := fpOfT f.t
    let el := fun (v : Nat → VecWord) n e => t.value (f.fzi != 0) (elemOf t.width (v n) e)
    let eb := fun (q : State) (v : Nat → VecWord) e =>
      if f.bs = 0 then el v f.b e else t.value (f.fzi != 0) ((q.readS f.sb).toNat % 2 ^ t.width)
    let z := f.fzo != 0
    let rs := if f.bs = 0 then [f.a, f.b] else [f.a]
    (∀ p ∈ [(Instr.vaddFWide f, fun rm x y => t.add rm z x y), (Instr.vsubFWide f, fun rm x y => t.add rm z x y.negate),
            (Instr.vmulFWide f, fun rm x y => t.mul rm z x y), (Instr.vminFWide f, fun _ x y => t.minMax true z x y),
            (Instr.vmaxFWide f, fun _ x y => t.minMax false z x y)],
      vectorFlagged p.1 s f.g rs f.d t.width 4
        fun q v e => p.2 (q.roundMode f.rmo) (el v f.a e) (eb q v e))
    ∧ vectorFlagged (.vfmaWide f) s f.g (f.vc :: rs) f.d t.width 4
        (fun q v e => t.fma (q.roundMode f.rmo) z (el v f.a e) (eb q v e) (el v f.vc e))
    ∧ (∀ p ∈ [(Instr.vexp2Wide f, t.exp2), (Instr.vlog2Wide f, t.log2), (Instr.vrcpWide f, t.recip),
              (Instr.vrsqWide f, t.rsqrt)],
      vectorFlagged p.1 s f.g [f.a] f.d t.width 12 fun q v e => p.2 (q.roundMode f.rmo) z (el v f.a e)))
  ∧ (∀ t ∈ [fp32, fpBf16, fp16], ∀ (rm : Nat) (z fzi : Bool) (x y : Nat), rm < 4 →
    let a := t.value fzi x
    let b := t.value fzi y
    pickedOf t z true a b (t.minMax true z a b) ∧ pickedOf t z false a b (t.minMax false z a b) ∧ functionsOf t rm z a)

/-- R163, R164, R167, R168, R169, R171: VCMP writes one bit a lane after 2 bundles, 0 in a disabled lane; VSEL, VPERM and
VBCAST move whole elements after 2, VHASH mixes them after 3; VLANE moves one lane to or from a scalar after 2. R88, R156, R166,
R170, R172, R174: whole results. VSUM and VMAXR answer after 6 bundles the root of R88's tree in element 0, VSCAN the prefix
results of R166, VCMPR after 4 the two of every four elements that rank highest, by magnitude with NaNs above every number, and
their indices, VVOTE and VPOPC after 1; they write all of their destination, also under a guard of zeros, where every element
is absent, VVOTE.all answers 1 and VVOTE.any 0.
Where the rules leave it open it follows the model's reading in log entry 23. -/
def Obligations.VectorMovesAndWholeResults : Prop :=
  ((∀ (f : FmtVC) (s : State), s.guardMask f.g ≠ 0 → f.f = 0 → f.cond < 10 → ∃ b : BitVec 64,
    exec (.vcmp f) s = .next ((s.vecOperands [f.a, f.b]).1.pushP f.pd b 0 2)
    ∧ ∀ n, n < 64 → (b.getLsbD n = true ↔ (s.guardMask f.g).getLsbD n = true
        ∧ intCondition f.cond ((lane (vecVal (s.vecOperands [f.a, f.b]).2 f.a) n).signExtend 64)
            ((lane (vecVal (s.vecOperands [f.a, f.b]).2 f.b) n).signExtend 64)))
  ∧ (∀ (f : FmtVC) (s : State), s.guardMask f.g ≠ 0 → f.f = 1 → f.cond ≤ 3 ∨ f.cond = 6 → ∃ (b : BitVec 64) (nv : Bool),
    let x := fun n => fp32.value (f.fzi != 0) (elemOf 32 (vecVal (s.vecOperands [f.a, f.b]).2 f.a) n)
    let y := fun n => fp32.value (f.fzi != 0) (elemOf 32 (vecVal (s.vecOperands [f.a, f.b]).2 f.b) n)
    exec (.vcmp f) s = .next ((s.vecOperands [f.a, f.b]).1.pushP f.pd b (if nv then flagNV else 0) 2)
    ∧ (∀ n, n < 64 → (b.getLsbD n = true ↔ (s.guardMask f.g).getLsbD n = true
        ∧ fpCondition (if f.cond = 6 then 10 else f.cond) (x n) (y n)))
    ∧ (nv = true ↔ ∃ n, n < 64 ∧ (s.guardMask f.g).getLsbD n = true ∧ (x n = .nan true ∨ y n = .nan true)))
  ∧ (∀ (f : FmtVS) (s : State), vectorResult (.vsel f) s f.g [f.a, f.b] f.d 32 2
      fun q v e => if (q.readP f.p).bits.getLsbD e then elemOf 32 (v f.a) e else elemOf 32 (v f.b) e)
  ∧ (∀ (f : FmtVSW) (s : State), vectorResult (.vselWide f) s f.g (if f.bs = 0 then [f.a, f.b] else [f.a]) f.d 32 2
      fun q v e => if (q.readP f.p).bits.getLsbD e then elemOf 32 (v f.a) e
        else if f.bs = 0 then elemOf 32 (v f.b) e else (q.readS f.sb).toNat % 2 ^ 32)
  ∧ (∀ (f : FmtVP) (s : State), let w := eWidth f.e
      vectorResult (.vperm f) s f.g [f.a, f.x] f.d w 2 fun _ v e => elemOf w (v f.a) (elemOf w (v f.x) e % (2048 / w)))
  ∧ (∀ (f : FmtVB) (s : State), let w := eWidth f.e
      vectorResult (.vbcast f) s f.g [] f.d w 2 fun q _ _ => (q.readS f.sa).toNat % 2 ^ w)
  ∧ (∀ (f : FmtVH) (s : State), vectorResult (.vhash f) s f.g [f.a, f.b] f.d 32 3
      fun _ v e => (hashed (BitVec.ofNat 32 (elemOf 32 (v f.a) e)) (BitVec.ofNat 32 (elemOf 32 (v f.b) e))).toNat)
  ∧ (∀ (f : FmtVHW) (s : State), vectorResult (.vhashWide f) s f.g (if f.bs = 0 then [f.a, f.b] else [f.a]) f.d 32 3
      fun q v e => (hashed (BitVec.ofNat 32 (elemOf 32 (v f.a) e))
        (if f.bs = 0 then BitVec.ofNat 32 (elemOf 32 (v f.b) e) else (q.readS f.sb).setWidth 32)).toNat)
  ∧ (∀ (f : FmtVL) (s : State), s.guardMask f.g ≠ 0 → f.lane < 64 →
    (f.d = 0 → (s.guardMask f.g).getLsbD f.lane = true → exec (.vlane f) s =
      .next ((s.vecOperands [f.v]).1.pushS f.s ((lane (vecVal (s.vecOperands [f.v]).2 f.v) f.lane).setWidth 64) 0 2))
    ∧ (f.d = 0 → (s.guardMask f.g).getLsbD f.lane = false → exec (.vlane f) s = .next (s.vecOperands [f.v]).1)
    ∧ (f.d ≠ 0 → ∃ v : VecWord, exec (.vlane f) s =
        .next (s.pushV f.v v (s.guardMask f.g &&& BitVec.ofNat 64 (2 ^ f.lane)) 0 2)
        ∧ lane v f.lane = BitVec.ofNat 32 (s.readS f.s).toNat)))
  ∧ ((∀ (f : FmtVR) (s : State), f.x ≤ 1 →
    reductionsOf s (.vsum f) (.vmaxr f) (.vscan f) f.g f.d f.a f.fm f.x (f.fzi != 0) (f.fzo != 0) 0)
  ∧ (∀ (f : FmtVRW) (s : State), f.x ≤ 1 →
    reductionsOf s (.vsumWide f) (.vmaxrWide f) (.vscanWide f) f.g f.d f.a f.fm f.x (f.fzi != 0) (f.fzo != 0) f.rmo)
  ∧ (∀ (f : FmtVR) (s : State), s.guardMask f.g = 0 → (s.core s.iss.core).bound f.d = false →
    exec (.vsum f) s = .next (s.pushV f.d 0 (BitVec.allOnes 64) 0 6)
    ∧ exec (.vscan f) s = .next (s.pushV f.d 0 (BitVec.allOnes 64) 0 6))
  ∧ (∀ (f : FmtVM) (s : State),
    (s.guardMask f.g = 0 → (s.core s.iss.core).bound f.d = false ∧ (s.core s.iss.core).bound f.x = false) →
    let q := wholeOperand s f.g f.a
    let t := fpOfT f.t
    let n := 2048 / t.width
    let el := fun e => if (s.guardMask f.g).getLsbD (e * t.width / 32) then some (elemOf t.width q.2 e) else none
    let below := fun g i k => ranksBelow t (f.fzi != 0) (el (4 * g + i)) (el (4 * g + k))
    ∃ (v x : VecWord) (nv : Bool), exec (.vcmpr f) s = .next ((q.1.pushV f.d v (BitVec.allOnes 64) (if nv then flagNV else 0) 4).pushV
      f.x x (BitVec.allOnes 64) 0 4)
    ∧ (∀ g, g < n / 4 → ∃ i j, keptOfFour (below g) i j ∧ elemOf 8 x g = i + 4 * j
        ∧ elemOf t.width v (2 * g) = keptValue t (f.fzi != 0) (el (4 * g + i))
        ∧ elemOf t.width v (2 * g + 1) = keptValue t (f.fzi != 0) (el (4 * g + j)))
    ∧ (∀ e, n / 2 ≤ e → elemOf t.width v e = 0) ∧ (∀ e, n / 4 ≤ e → elemOf 8 x e = 0)
    ∧ (nv = true ↔ ∃ e, e < n ∧ ∃ b, el e = some b ∧ t.value false b = .nan true))
  ∧ (∀ (f : FmtVO) (s : State), ∃ b : Bool,
    exec (.vvote f) s = .next (s.pushP f.pd (if b then BitVec.allOnes 64 else 0) 0 1)
    ∧ (f.mode = 0 → (b = true ↔ ∃ n, (s.guardMask f.g).getLsbD n = true ∧ (s.readP f.pa).bits.getLsbD n = true))
    ∧ (f.mode ≠ 0 → (b = true ↔ ∀ n, (s.guardMask f.g).getLsbD n = true → (s.readP f.pa).bits.getLsbD n = true)))
  ∧ (∀ (f : FmtVN) (s : State), exec (.vpopc f) s = .next (s.pushS f.d (BitVec.ofNat 64
      ((List.range 64).filter fun n => (s.readP f.pa).bits.getLsbD n && (s.guardMask f.g).getLsbD n).length) 0 1)))

/-- R70, R165: VCVT converts each enabled element after 4 bundles, and raises its flags. A widening conversion reads the
source elements of its part, a narrowing one writes only the lanes of its part. R75: what a conversion from each format to
each delivers and raises. R156, R173: PAND, POR, PXOR, PNOT and PSET write each enabled lane's bit and 0 in the others, PMOV
copies to a predicate so, or to a scalar. -/
def Obligations.ConversionsAndPredicates : Prop :=
  ((∀ (f : FmtVV) (s : State), s.guardMask f.g ≠ 0 → ∃ (v : VecWord) (m : BitVec 64) (fl : BitVec 5),
    exec (.vcvt f) s = .next ((s.vecOperands [f.a]).1.pushV f.d v m fl 4)
    ∧ conversionOf (s.vecOperands [f.a]).1 (s.guardMask f.g) f.df f.sf f.part f.fzi f.fzo 0 false false
        (vecVal (s.vecOperands [f.a]).2 f.a) v m fl)
  ∧ (∀ (f : FmtVVW) (s : State), s.guardMask f.g ≠ 0 → ∃ (v : VecWord) (m : BitVec 64) (fl : BitVec 5),
    exec (.vcvtWide f) s = .next ((s.vecOperands [f.a]).1.pushV f.d v m fl 4)
    ∧ conversionOf (s.vecOperands [f.a]).1 (s.guardMask f.g) f.df f.sf f.part f.fzi f.fzo f.rmo (f.u != 0) (f.sat != 0)
        (vecVal (s.vecOperands [f.a]).2 f.a) v m fl))
  ∧ (∀ (df sf rm x : Nat) (fzi fzo u sat : Bool), df ≤ 8 → sf ≤ 8 → rm < 4 →
    convertsTo df sf rm fzi fzo u sat x (convertElem df sf rm fzi fzo u sat x))
  ∧ ((∀ (f : FmtPL) (s : State), s.guardMask f.g ≠ 0 →
    let a := (s.readP f.pa).bits
    let b := (s.readP f.pb).bits
    let m := s.guardMask f.g
    exec (.pand f) s = .next (s.pushP f.pd (a &&& b &&& m) 0 1) ∧ exec (.por f) s = .next (s.pushP f.pd ((a ||| b) &&& m) 0 1)
    ∧ exec (.pxor f) s = .next (s.pushP f.pd ((a ^^^ b) &&& m) 0 1))
  ∧ (∀ (f : FmtPU) (s : State), s.guardMask f.g ≠ 0 →
    exec (.pnot f) s = .next (s.pushP f.pd (~~~(s.readP f.pa).bits &&& s.guardMask f.g) 0 1))
  ∧ (∀ (f : FmtPS) (s : State), s.guardMask f.g ≠ 0 → ∃ b : BitVec 64, exec (.pset f) s = .next (s.pushP f.pd b 0 1)
    ∧ ∀ n, n < 64 → (b.getLsbD n = true ↔ n < f.n ∧ (s.guardMask f.g).getLsbD n = true))
  ∧ (∀ (f : FmtPM) (s : State),
    (f.sel = 0 → s.guardMask f.g ≠ 0 → exec (.pmov f) s = .next (s.pushP f.d ((s.readP f.a).bits &&& s.guardMask f.g) 0 1))
    ∧ (f.sel = 1 → s.guardMask f.g ≠ 0 → exec (.pmov f) s = .next (s.pushP f.d (s.readS f.a &&& s.guardMask f.g) 0 1))
    ∧ (f.sel = 2 → exec (.pmov f) s = .next (s.pushS f.d ((s.readP f.a).bits &&& s.guardMask f.g) 0 1))))

/-- R207, R208: an access of n bytes, aligned to n, from a base register lies at base plus offset, or at the base for a post-
increment; it raises AddressRange outside the 1 MiB of the scratchpad, with the address in TVAL, else Misaligned. R344: an
access through a handle lies at the entry's BASE plus the offset. A reserved bit or a byte past LEN raises AddressRange; a
buffer that is FREE or FILLING is waited for; one that is FULL becomes DRAINING at the boundary. R213: TAGE and TAGF over an
aligned range of at most 4,096 bytes set every tag of it EMPTY or FULL, change no other tag and no byte of memory; a longer
range takes one more cycle for every further 4,096 bytes.
Where the rules leave it open it follows the model's reading in log entries 67 and 68. -/
def Obligations.AddressesAndRangeTags : Prop :=
  (∀ (s : State) (pi b : Nat) (off : Int) (n : Nat), 0 < n →
  let a : Int := (s.readS b).toNat + (if pi = 0 ∨ b = 0 then off else 0)
  let r := s.formAddr 0 pi b off 0 n n
  (0 ≤ a → a + n ≤ 2 ^ 20 → a % n = 0 → r = (s, some a))
  ∧ (a < 0 ∨ 2 ^ 20 < a + n → r = (s.fault addressRange (BitVec.ofInt 64 a), none))
  ∧ (0 ≤ a → a + n ≤ 2 ^ 20 → a % n ≠ 0 → r = (s.fault misaligned (BitVec.ofInt 64 a), none)))
  ∧ (∀ (s : State) (pi b : Nat) (off : Int) (n : Nat), 0 < n →
  let w := s.handleWord s.iss.mem s.iss.core b
  let a : Int := hBase w + off
  let r := s.formAddr 1 pi b off 0 n n
  (hBad w = true → r.2 = none ∧ r.1.iss.faults = ⟨s.iss.slot, addressRange, BitVec.ofInt 64 a⟩ :: s.iss.faults)
  ∧ (hBad w = false → (hLen w : Int) < off + n →
      r.2 = none ∧ r.1.iss.faults = ⟨s.iss.slot, addressRange, BitVec.ofInt 64 off⟩ :: s.iss.faults)
  ∧ (hBad w = false → off + n ≤ hLen w → 0 ≤ a → a + n ≤ 2 ^ 20 → a % n = 0 →
      (hState w ≤ 1 → r.2 = none ∧ r.1.iss.waits =
        ⟨3 * 16 + s.iss.slot, waitTimeout, BitVec.ofNat 64 b, s.iss.slot, some (s.waitLimit s.iss.core)⟩ :: s.iss.waits)
      ∧ (hState w = 2 → r.2 = some a ∧ r.1.iss.defer = s.iss.defer ++ [.handleFull b])
      ∧ (hState w = 3 → r = (s, some a))))
  ∧ ((∀ (f : FmtMT) (s : State), s.guard0 f.g = true →
    tagsRange s (.tage f) (s.readS f.b).toNat (s.readS f.l).toNat false
    ∧ tagsRange s (.tagf f) (s.readS f.b).toNat (s.readS f.l).toNat true)
  ∧ (∀ (f : FmtMTW) (s : State), s.guard0 f.g = true →
    tagsRange s (.tageWide f) (s.readS f.b).toNat f.len false
    ∧ tagsRange s (.tagfWide f) (s.readS f.b).toNat f.len true))

/-- R210, R211: a load answers after 4 bundles the little-endian number of its 2^SZ bytes, as they stood at issue, sign-
extended where X is set; a post-increment also updates its base; LDF and LDE wait for the word's tag to be FULL, and LDE
leaves it EMPTY. Short offsets count in units of the size, wide ones in bytes. R210, R211, R194: a store writes the 2^SZ low
bytes of its register at its address, little-endian, leaves every other byte of memory as it was, and sets the word's tag
FULL; STE waits for EMPTY.
Where the rules leave it open it follows the model's reading in log entry 67. -/
def Obligations.ScalarLoadsAndStores : Prop :=
  ((∀ (f : FmtMS) (s : State) (a : Int), s.guard0 f.g = true →
    let off := (BitVec.ofNat 7 f.off).toInt * 2 ^ f.sz
    (s.formAddr f.h f.pi f.b off 0 (2 ^ f.sz) (2 ^ f.sz)).2 = some a →
    loadsFrom s (s.formAddr f.h f.pi f.b off 0 (2 ^ f.sz) (2 ^ f.sz)).1 (.ld f) (.ldf f) (.lde f) f.s f.b f.sz f.x f.pi off a.toNat)
  ∧ (∀ (f : FmtMSW) (s : State) (a : Int), s.guard0 f.g = true →
    let off := (BitVec.ofNat 32 f.off).toInt
    (s.formAddr f.h f.pi f.b off 0 (2 ^ f.sz) (2 ^ f.sz)).2 = some a →
    loadsFrom s (s.formAddr f.h f.pi f.b off 0 (2 ^ f.sz) (2 ^ f.sz)).1 (.ldWide f) (.ldfWide f) (.ldeWide f) f.s f.b f.sz f.x
      f.pi off a.toNat))
  ∧ ((∀ (f : FmtMS) (s : State) (a : Int), s.mem.wf = true → s.guard0 f.g = true →
    let off := (BitVec.ofNat 7 f.off).toInt * 2 ^ f.sz
    (s.formAddr f.h f.pi f.b off 0 (2 ^ f.sz) (2 ^ f.sz)).2 = some a →
    storesAt s (.st f) (.ste f) f.s f.sz a.toNat)
  ∧ (∀ (f : FmtMSW) (s : State) (a : Int), s.mem.wf = true → s.guard0 f.g = true →
    let off := (BitVec.ofNat 32 f.off).toInt
    (s.formAddr f.h f.pi f.b off 0 (2 ^ f.sz) (2 ^ f.sz)).2 = some a →
    storesAt s (.stWide f) (.steWide f) f.s f.sz a.toNat))

/-- R214 to R217: VLD answers after 6 bundles the 256 bytes at its address in the enabled lanes; VST writes the enabled lanes'
bytes and no other. A gather reads one element for each enabled element of its index register. R207, R215: a gather answers
after 6 bundles, in each enabled element, the element at base plus index times 2^SH; a scatter writes each enabled element
there, the highest where several have one address, sets the tags of the words FULL, and writes no other byte; both stall for
the passes of R216 less one. The lowest element past the scratchpad raises AddressRange, else the lowest misaligned one
Misaligned, and nothing is stored.
Where the rules leave it open it follows the model's reading in log entry 67. -/
def Obligations.VectorMemory : Prop :=
  ((∀ (f : FmtMV) (s : State) (a : Int), s.mem.wf = true → s.guardMask f.g ≠ 0 →
    let off := (BitVec.ofNat 7 f.off).toInt * 32
    (s.formVec f.h f.pi f.b off (s.guardMask f.g)).2 = some a →
    vectorMoves s (s.formVec f.h f.pi f.b off (s.guardMask f.g)).1 (.vld f) (.vst f) f.g f.v f.b f.pi off a)
  ∧ (∀ (f : FmtMVW) (s : State) (a : Int), s.mem.wf = true → s.guardMask f.g ≠ 0 →
    let off := (BitVec.ofNat 32 f.off).toInt
    (s.formVec f.h f.pi f.b off (s.guardMask f.g)).2 = some a →
    vectorMoves s (s.formVec f.h f.pi f.b off (s.guardMask f.g)).1 (.vldWide f) (.vstWide f) f.g f.v f.b f.pi off a))
  ∧ (∀ (f : FmtMX) (s : State), s.guardMask f.g ≠ 0 →
  let w := eWidth f.e
  let ix := fun (q : State × List (Nat × VecWord)) e =>
    (s.readS f.b).toNat + elemOf w (vecVal q.2 f.ix) e * 2 ^ f.sh
  let fits := fun (q : State × List (Nat × VecWord)) =>
    ∀ e, e < 2048 / w → (s.guardMask f.g).getLsbD (e * w / 32) = true → ix q e + w / 8 ≤ 2 ^ 20 ∧ ix q e % (w / 8) = 0
  let on := fun e => e < 2048 / w ∧ (s.guardMask f.g).getLsbD (e * w / 32) = true
  (fits (s.vecOperands [f.ix]) → ∃ (t : State) (v : VecWord), exec (.vldx f) s = .next t
    ∧ t.mem = (s.vecOperands [f.ix]).1.mem
    ∧ t = ((s.vecOperands [f.ix]).1.pushV f.v v (s.guardMask f.g) 0 6).modIss (fun k => { k with stall := t.iss.stall })
    ∧ t.iss.stall = max s.iss.stall (passesOf w (s.guardMask f.g) (ix (s.vecOperands [f.ix])) - 1)
    ∧ ∀ e, e < 2048 / w → (s.guardMask f.g).getLsbD (e * w / 32) = true → elemOf w v e =
        (s.vecOperands [f.ix]).1.iss.mem.readN (spmAddr s.iss.core (ix (s.vecOperands [f.ix]) e)) (w / 8) % 2 ^ w)
  ∧ (s.mem.wf = true → fits (s.vecOperands [f.v, f.ix]) → ∃ t : State, exec (.vstx f) s = .next t
    ∧ ∀ x, (∀ e, e < 2048 / w → (s.guardMask f.g).getLsbD (e * w / 32) = true →
        x < spmAddr s.iss.core (ix (s.vecOperands [f.v, f.ix]) e)
          ∨ spmAddr s.iss.core (ix (s.vecOperands [f.v, f.ix]) e) + w / 8 ≤ x) →
      t.mem.read x = s.mem.read x)
  ∧ (s.mem.wf = true → fits (s.vecOperands [f.v, f.ix]) → let q := s.vecOperands [f.v, f.ix]
    ∃ t : State, exec (.vstx f) s = .next t
    ∧ t.iss.stall = max s.iss.stall (passesOf w (s.guardMask f.g) (ix q) - 1)
    ∧ ∀ e, on e → t.tagFull s.iss.core (ix q e) = true
      ∧ ((∀ k, on k → ix q k = ix q e → k ≤ e) →
          t.mem.readN (spmAddr s.iss.core (ix q e)) (w / 8) = elemOf w (vecVal q.2 f.v) e % 2 ^ (8 * (w / 8))))
  ∧ (∀ p ∈ [(Instr.vldx f, [f.ix]), (Instr.vstx f, [f.v, f.ix])], let q := s.vecOperands p.2
    (∀ e, on e → 2 ^ 20 < ix q e + w / 8 → (∀ k, on k → k < e → ix q k + w / 8 ≤ 2 ^ 20) →
      exec p.1 s = .next (q.1.fault addressRange (BitVec.ofNat 64 (ix q e))) ∧ q.1.mem = s.mem ∧ q.1.tags = s.tags)
    ∧ (∀ e, on e → (∀ k, on k → ix q k + w / 8 ≤ 2 ^ 20) → ix q e % (w / 8) ≠ 0 → (∀ k, on k → k < e → ix q k % (w / 8) = 0) →
      exec p.1 s = .next (q.1.fault misaligned (BitVec.ofNat 64 (ix q e))) ∧ q.1.mem = s.mem ∧ q.1.tags = s.tags)))

/-- R31, R37, R182 to R184, R188, R189: in the mode that has them, and in no handler, a JOIN of a detached core waits at its
label, DETACH leaves the stream, SMODE changes between DETACHED and STRAND once no earlier result is in flight, and HALT and
TRAP ask for the end and the trap; JOIN and DETACH do nothing in the other exposed mode, and IllegalInContext answers in
STRAND mode for JOIN and DETACH and in ATTACHED mode for SMODE, whatever the guard, and under a true guard in a handler
entered from ATTACHED mode (R375) or, for JOIN and DETACH, on a core that the host started (R131). At the boundary (R31, R35,
R38, R188, R189) a HALT ends its context, with an empty queue and no transfer pending; a JOIN waits at its number, or attaches
a core of the Chord's node where the Chord has met the number in this cycle; and, as the next bundle is known, DETACH leaves
the Chord's stream, SMODE's mode is the core's, TRAP's handler begins with the next bundle's address in TPC, and all others go
on. R93, R99, R175, R191: EMPTY_BUNDLE and NOP change nothing.
Where the rules leave it open it follows the model's reading in log entry 77. -/
def Obligations.ModesAndNop : Prop :=
  ((∀ (f : FmtCJ) (s : State), ∀ i ∈ [Instr.join f, .joinW f],
    (s.mode = 2 → exec i s = .next (s.fault illegalInContext (s.wordTval i)))
    ∧ (s.guard0 f.g = true → s.inHandler = false → (s.core s.iss.core).ident.started = false →
        (s.mode = 1 → exec i s = .next (s.ask (.join f.k))) ∧ (s.mode = 0 → exec i s = .next s))
    ∧ (s.guard0 f.g = true → s.inHandler = true ∨ (s.core s.iss.core).ident.started = true →
        exec i s = .next (s.fault illegalInContext (s.wordTval i))))
  ∧ (∀ (f : FmtCN) (s : State),
    (s.mode = 2 → exec (.detach f) s = .next (s.fault illegalInContext (s.wordTval (.detach f))))
    ∧ (s.guard0 f.g = true → s.inHandler = false → (s.core s.iss.core).ident.started = false →
        (s.mode = 0 → exec (.detach f) s = .next (s.ask .detach)) ∧ (s.mode = 1 → exec (.detach f) s = .next s))
    ∧ (s.guard0 f.g = true → s.inHandler = true ∨ (s.core s.iss.core).ident.started = true →
        exec (.detach f) s = .next (s.fault illegalInContext (s.wordTval (.detach f)))))
  ∧ (∀ (f : FmtCM) (s : State),
    (s.mode = 0 ∨ s.iss.ctx ≠ 0 ∨ (s.guard0 f.g = true ∧ s.inHandler = true) →
        exec (.smode f) s = .next (s.fault illegalInContext (s.wordTval (.smode f))))
    ∧ (s.guard0 f.g = true → s.mode ≠ 0 → s.iss.ctx = 0 → s.inHandler = false →
        (f.mode = s.mode → exec (.smode f) s = .next s)
        ∧ (f.mode ≠ s.mode → (s.ctx s.iss.core 0).earlier = [] → (f.mode = 1 → (s.core s.iss.core).othersDormant = true) →
            exec (.smode f) s = .next (s.ask (.mode f.mode)))
        ∧ (f.mode ≠ s.mode → (s.ctx s.iss.core 0).earlier ≠ [] → ∃ u, exec (.smode f) s = .next u ∧ u.iss.waits =
            ⟨12 * 16 + s.iss.slot, waitTimeout, 0, s.iss.slot, some (s.waitLimit s.iss.core)⟩ :: s.iss.waits)))
  ∧ (∀ (f : FmtCN) (s : State), s.guard0 f.g = true → s.iss.ctx ≠ 0 → exec (.halt f) s = .next (s.ask .halt))
  ∧ (∀ (f : FmtCN) (s : State), s.guard0 f.g = true → s.iss.ctx = 0 → exec (.halt f) s = .next ((s.leaveSync s.iss.core).ask .halt))
  ∧ (∀ (f : FmtCX) (s : State), s.guard0 f.g = true → exec (.trap f) s = .next (s.ask (.trap f.code))))
  ∧ (∀ (s : State) (c x : Nat) (r : Record),
    let t := s.toBoundary c x r
    (s.iss.ctl = .halt → (t.ctx c x).run.active = false ∧ (t.ctx c x).run.ended = true ∧ (t.ctx c x).pend = [] ∧ t.mem = s.mem
      ∧ (x = 0 → (t.core c).fetch.queue = []))
    ∧ (∀ n, s.iss.ctl = .join n → (s.core c).ident.mode = 1 →
      let h := (s.cluster (clusterOf c)).chord
      (h.joined ≠ some (n, s.clk.cycle) ∨ h.serves (s.core c) = false → (t.ctx c x).run.join = some n ∧ (t.core c).ident.mode = 1)
      ∧ (h.joined = some (n, s.clk.cycle) → h.serves (s.core c) = true → x = 0 → (t.ctx c 0).run.join = none ∧ (t.core c).ident.mode = 0 ∧ (t.ctx c 0).pend = []))
    ∧ (duePending (s.ctx c x).pend = none → (s.ctx c x).loopEndsAt s.iss.addr = false →
      (s.iss.ctl = .none ∨ s.iss.ctl = .detach ∨ (∃ m, s.iss.ctl = .mode m) ∨ ∃ n, s.iss.ctl = .trap n) →
      t = (s.modIss fun k => { k with open_ := true }).settle s.iss.next))
  ∧ (∀ (s : State) (next : Nat),
    let c := s.iss.core
    let x := s.iss.ctx
    let t := s.settle next
    (s.iss.ctl = .detach → (t.core c).ident.mode = 1 ∧ (t.core c).fetch.queue = [] ∧ (t.ctx c x).pc = next % 2 ^ 24 ∧ t.mem = s.mem)
    ∧ (∀ m, s.iss.ctl = .mode m → (t.core c).ident.mode = m ∧ (t.ctx c x).pc = next % 2 ^ 24 ∧ t.mem = s.mem)
    ∧ (∀ n, s.iss.ctl = .trap n → (s.ctx c x).cap = none → (t.ctx c x).csr.tcause = softwareTrap
        ∧ (t.ctx c x).csr.tval = BitVec.ofNat 64 n ∧ (t.ctx c x).csr.tpc = s.resolve c next % 2 ^ 24
        ∧ (t.ctx c x).pc = (s.core c).csr.tvec ∧ (t.core c).ident.pl = true ∧ t.mem = s.mem)
    ∧ (s.iss.ctl = .none → goesTo s t c x next ∧ t.mem = s.mem))
  ∧ (∀ (s : State) (f : FmtCN), exec .emptyBundle s = .next s ∧ exec (.nop f) s = .next s)

/-- R176: PREP and PREPR put their target, inside CMEM and even, into the target register, whose lines are in flight; a target
outside CMEM raises IllegalEncoding in PREP and AddressRange in PREPR, an odd one Misaligned. The register becomes ready in the
fourth cycle after the issue: its time is that cycle; before it nothing happens; at every cycle from it on that finds the
register in flight its event is among the cycle's turns, none of which is put off, and makes it ready with the two lines from
its target's on. While a line's place is held (a rekey at that line, R392, or a halted island, R410) the event waits. -/
def Obligations.PreparedTargets : Prop :=
  ((∀ (f : FmtCP) (s : State),
    let t : Int := s.iss.addr + 2 * (BitVec.ofNat 19 f.off).toInt
    (s.guard0 f.g = true → 0 ≤ t → t ≤ 2 ^ 24 - 2 → ∃ u, exec (.prep f) s = .next u ∧ u.mem = s.mem
      ∧ (Tab.get TReg.reset (u.ctx s.iss.core s.iss.ctx).tb f.tb).target = t.toNat
      ∧ (Tab.get TReg.reset (u.ctx s.iss.core s.iss.ctx).tb f.tb).state = 1
      ∧ (Tab.get TReg.reset (u.ctx s.iss.core s.iss.ctx).tb f.tb).readyAt = s.clk.cycle + 4
      ∧ ∀ n, n ≠ f.tb → Tab.get TReg.reset (u.ctx s.iss.core s.iss.ctx).tb n = Tab.get TReg.reset (s.ctx s.iss.core s.iss.ctx).tb n)
    ∧ (t < 0 ∨ 2 ^ 24 - 2 < t → exec (.prep f) s = .next (s.fault illegalEncoding (s.wordTval (.prep f)))))
  ∧ (∀ (f : FmtCR) (s : State), s.guard0 f.g = true →
    ((s.readS f.sa).toNat < 2 ^ 24 → (s.readS f.sa).toNat % 2 = 0 → ∃ u, exec (.prepr f) s = .next u ∧ u.mem = s.mem
      ∧ (Tab.get TReg.reset (u.ctx s.iss.core s.iss.ctx).tb f.tb).target = (s.readS f.sa).toNat
      ∧ (Tab.get TReg.reset (u.ctx s.iss.core s.iss.ctx).tb f.tb).state = 1
      ∧ (Tab.get TReg.reset (u.ctx s.iss.core s.iss.ctx).tb f.tb).readyAt = s.clk.cycle + 4)
    ∧ (2 ^ 24 ≤ (s.readS f.sa).toNat → exec (.prepr f) s = .next (s.fault addressRange (s.readS f.sa)))
    ∧ ((s.readS f.sa).toNat < 2 ^ 24 → (s.readS f.sa).toNat % 2 = 1 → exec (.prepr f) s = .next (s.fault misaligned (s.readS f.sa)))))
  ∧ (∀ (s : State) (c x n : Nat), s.clk.args = [c, x, n] →
  let r := Tab.get TReg.reset (s.ctx c x).tb n
  let held := fun (a : Nat) => s.lineWaits (s.core c).ident.part (clusterOf c) a
  (r.state ≠ 1 ∨ s.clk.cycle < r.readyAt ∨ held r.target = true ∨ held (r.target + 64) = true →
    exec .targetLinesReady s = .next s)
  ∧ (r.state = 1 → r.readyAt ≤ s.clk.cycle → held r.target = false → held (r.target + 64) = false →
    ∃ t, exec .targetLinesReady s = .next t ∧ t.mem = s.mem
    ∧ let q := Tab.get TReg.reset (t.ctx c x).tb n
      q.state = 2 ∧ q.target = r.target ∧ q.lines.map (·.1) = [r.target / 64 * 64 % 2 ^ 24, (r.target / 64 + 1) * 64 % 2 ^ 24]))
  ∧ (∀ (s : State) (c x n : Nat) (k : Core) (q : Ctx) (t : TReg), (c, k) ∈ s.cores → (x, q) ∈ k.ctxs → (n, t) ∈ q.tb →
    t.state = 1 → t.readyAt ≤ s.clk.cycle → (false, Turn.event .targetLinesReady [c, x, n]) ∈ s.turns)
  ∧ (∀ (l : List Due) (n : Nat) (t : Turn), (false, t) ∈ l → t ∈ settleDue n l)

/-- R177, R180: TRANS adds a pending transfer to a ready target register's target with D bundles to pass, does nothing on a
false predicate, waits for a register in flight, and raises PredicateNotUniform or, on an empty register, AddressRange. LOOP
with a count of n > 0 sets its loop register to the next bundle, the end at 2 FIN from its own address, and n; a count of 0
skips to what follows the end. That the wait for a register in flight has no limit is the model's choice in log entry 78, and
that LE is taken modulo 2^24 its choice in log entry 76. -/
def Obligations.TransfersAndLoops : Prop :=
  (∀ (f : FmtCT) (s : State), s.guard0 f.g = true →
    let p := s.readP f.p
    let t := Tab.get TReg.reset (s.ctx s.iss.core s.iss.ctx).tb f.tb
    (p.u = false → exec (.trans f) s = .next (s.fault predicateNotUniform (BitVec.ofNat 64 f.p)))
    ∧ (p.u = true → t.state ≠ 1 → p.bits.getLsbD 0 = false → exec (.trans f) s = .next s)
    ∧ (p.u = true → t.state = 1 → ∃ u, exec (.trans f) s = .next u ∧ u.mem = s.mem
        ∧ u.iss.waits = ⟨13 * 16 + s.iss.slot, waitTimeout, 0, s.iss.slot, none⟩ :: s.iss.waits)
    ∧ (p.u = true → t.state = 0 → p.bits.getLsbD 0 = true → exec (.trans f) s = .next (s.fault addressRange (BitVec.ofNat 64 f.tb)))
    ∧ (p.u = true → t.state = 2 → p.bits.getLsbD 0 = true → ∃ u, exec (.trans f) s = .next u ∧ u.mem = s.mem
        ∧ (u.ctx s.iss.core s.iss.ctx).pend = (s.ctx s.iss.core s.iss.ctx).pend
            ++ [⟨t.target, f.d, f.lk != 0, (s.ctx s.iss.core s.iss.ctx).run.issued, t.lines⟩]))
  ∧ (∀ (i : Instr) (g l fin n : Nat) (s : State),
      (∃ f : FmtCLI, i = .loopImm f ∧ g = f.g ∧ l = f.l ∧ fin = f.fin ∧ n = f.cnt)
        ∨ (∃ f : FmtCLR, i = .loopReg f ∧ g = f.g ∧ l = f.l ∧ fin = f.fin ∧ n = (s.readS f.s).toNat % 2 ^ 32) →
      (s.iss.addr + 2 * fin < s.iss.next → exec i s = .next (s.fault illegalEncoding (s.wordTval i)))
      ∧ (s.guard0 g = true → s.iss.next ≤ s.iss.addr + 2 * fin → 0 < n → ∃ u, exec i s = .next u ∧ u.mem = s.mem
          ∧ u.iss.ctl = s.iss.ctl
          ∧ (if l = 0 then (u.ctx s.iss.core s.iss.ctx).l0 else (u.ctx s.iss.core s.iss.ctx).l1)
              = ⟨s.iss.next, (s.iss.addr + 2 * fin) % 2 ^ 24, n, true⟩
          ∧ (if l = 0 then (u.ctx s.iss.core s.iss.ctx).l1 = (s.ctx s.iss.core s.iss.ctx).l1
              else (u.ctx s.iss.core s.iss.ctx).l0 = (s.ctx s.iss.core s.iss.ctx).l0))
      ∧ (s.guard0 g = true → s.iss.next ≤ s.iss.addr + 2 * fin → n = 0 → ∃ u, exec i s = .next u ∧ u.mem = s.mem
          ∧ u.iss.ctl = .skip (s.seqNext s.iss.core (s.iss.addr + 2 * fin)) ∧ (if l = 0 then (u.ctx s.iss.core s.iss.ctx).l0 else (u.ctx s.iss.core s.iss.ctx).l1).active = false))

/-- R46 to R48, R186, R187: SPAWN pushes at the end of its die's pool a record with the target, the priority, the context's
group, its node and s1 to s7 as visible; SUSPEND and YIELD in a scalar context with nothing in flight ask to be parked; in
context 0 they raise IllegalInContext. At the boundary the context is dormant and its record, with the next bundle's address,
is in the pool: after SUSPEND the same core may not take it for 1,024 cycles, after YIELD it may.
Where the rules leave it open it follows the model's reading in log entry 75. -/
def Obligations.SpawnAndPark : Prop :=
  (∀ (f : FmtCS) (s : State), s.guard0 f.g = true →
    let v := (s.readS f.s).toNat
    let d := dieOf s.iss.core
    (v < 2 ^ 24 → v % 2 = 0 → s.poolSize d + 1024 < 65536 → ∃ u e, exec (.spawn f) s = .next u ∧ u.mem = s.mem
      ∧ u.iss.waits = s.iss.waits
      ∧ (u.die d).sched.pool = (s.die d).sched.pool ++ [e] ∧ e.r.pc = v ∧ e.r.pri = f.pri
      ∧ e.r.group = (s.ctx s.iss.core s.iss.ctx).csr.group ∧ e.r.node = (s.core s.iss.core).ident.node
      ∧ [e.r.s1, e.r.s2, e.r.s3, e.r.s4, e.r.s5, e.r.s6, e.r.s7] = [1, 2, 3, 4, 5, 6, 7].map s.readS)
    ∧ (2 ^ 24 ≤ v → exec (.spawn f) s = .next (s.fault addressRange (s.readS f.s)))
    ∧ (v < 2 ^ 24 → v % 2 = 1 → exec (.spawn f) s = .next (s.fault misaligned (s.readS f.s))))
  ∧ (∀ (f : FmtCN) (s : State), ∀ p ∈ [(Instr.suspend f, false), (Instr.yield f, true)],
    (s.iss.ctx = 0 → exec p.1 s = .next (s.fault illegalInContext (s.wordTval p.1)))
    ∧ (s.guard0 f.g = true → s.iss.ctx ≠ 0 → (s.ctx s.iss.core s.iss.ctx).earlier = [] →
        s.poolSize (dieOf s.iss.core) + 1024 < 65536 → exec p.1 s = .next (s.ask (.suspend p.2))))
  ∧ (∀ (s t : State) (c x : Nat) (b : Bundle) (y : Bool), s.iss.ctl = .suspend y → ∃ (u : State) (r : Record), s.commit t c x b = u.toBoundary c x r
      ∧ u.iss.ctl = .suspend y ∧ u.clk.cycle = s.clk.cycle ∧ r.pc = s.iss.next % 2 ^ 24 ∧ r.pri = (s.ctx c x).csr.pri
      ∧ r.group = (s.ctx c x).csr.group ∧ r.node = (s.core c).ident.node
      ∧ [r.s1, r.s2, r.s3, r.s4, r.s5, r.s6, r.s7] = [1, 2, 3, 4, 5, 6, 7].map (s.ctx c x).readS)
  ∧ (∀ (s : State) (c x : Nat) (r : Record) (y : Bool), s.iss.ctl = .suspend y →
    let t := s.toBoundary c x r
    (t.ctx c x).run.active = false ∧ (t.ctx c x).pend = [] ∧ t.mem = s.mem
    ∧ ∃ e, (t.die (dieOf c)).sched.pool = (s.die (dieOf c)).sched.pool ++ [e] ∧ e.r = r ∧ (y = true → e.until_ = 0)
      ∧ (y = false → e.notCore = c ∧ e.until_ = s.clk.cycle + 1024))

/-- R41, R42, R185: SYNC of a core that is no member and has no pending SYNCJ does nothing; a member's waits until the
generation's common TIME and then goes on. SYNCJ makes the core a member, at once where no generation is open; SYNCL ends the
membership. On a core that the host started they do nothing, and in a scalar context, or in a handler entered from ATTACHED
mode, they raise IllegalInContext. R41, R42: when every member of an open generation has arrived, they all get one TIME to
issue at, 8 ticks after the latest arrival or removal, and the cores whose SYNCJ was pending become members.
Where the rules leave it open it follows the model's reading in log entries 77 and 79. -/
def Obligations.SyncGenerations : Prop :=
  (∀ (f : FmtCN) (s : State),
  (∀ i ∈ [Instr.sync f, .syncj f, .syncl f],
    (s.iss.ctx ≠ 0 ∨ (s.guard0 f.g = true ∧ s.inHandler = true) → exec i s = .next (s.fault illegalInContext (s.wordTval i)))
    ∧ (s.guard0 f.g = true → s.iss.ctx = 0 → s.inHandler = false → (s.core s.iss.core).ident.started = true → exec i s = .next s))
  ∧ (s.guard0 f.g = true → s.iss.ctx = 0 → s.inHandler = false → (s.core s.iss.core).ident.started = false →
  let c := s.iss.core
  ((s.core c).sync.member = false → (s.core c).sync.pendJ = false → exec (.sync f) s = .next s)
  ∧ ((s.core c).sync.member = true → ∀ t, (s.core c).sync.go = some t → t ≤ s.time (pkgOf c) →
      ∃ u, exec (.sync f) s = .next u ∧ (u.core c).sync.go = none ∧ (u.core c).sync.member = true ∧ u.iss = s.iss)
  ∧ ((s.core c).sync.member = true → (s.core c).sync.go = none →
      ∃ u, exec (.sync f) s = .next u ∧ u.iss.syncs = true
        ∧ u.iss.waits = ⟨11 * 16 + s.iss.slot, waitTimeout, 0, s.iss.slot, some (s.waitLimit c)⟩ :: s.iss.waits)
  ∧ ((s.core c).sync.member = false → s.syncOpen c = false → ∃ u, exec (.syncj f) s = .next u ∧ (u.core c).sync.member = true)
  ∧ ((s.core c).sync.member = false → s.syncOpen c = true → ∃ u, exec (.syncj f) s = .next u ∧ (u.core c).sync.pendJ = true
      ∧ (u.core c).sync.member = false)
  ∧ (∃ u, exec (.syncl f) s = .next u ∧ (u.core c).sync.member = false)))
  ∧ (∀ (s : State) (p l : Nat), s.clk.args = [p, l] →
  (Tab.get ⟨0, false, 0⟩ (s.pkg p).domains l).isOpen = true →
  (∀ c ∈ s.domainCores p l, (s.core c).sync.member = true → (s.core c).sync.arrived.isSome = true) →
  ∃ t n, exec .syncGenerationComplete s = .next t
    ∧ (∀ c ∈ s.domainCores p l, (s.core c).sync.member = true → (t.core c).sync.go = some n ∧ (t.core c).sync.member = true
        ∧ ∀ a, (s.core c).sync.arrived = some a → a + 8 ≤ n)
    ∧ (Tab.get ⟨0, false, 0⟩ (s.pkg p).domains l).removed + 8 ≤ n
    ∧ (n = (Tab.get ⟨0, false, 0⟩ (s.pkg p).domains l).removed + 8
        ∨ ∃ c ∈ s.domainCores p l, (s.core c).sync.member = true ∧ ∃ a, (s.core c).sync.arrived = some a ∧ n = a + 8)
    ∧ (∀ c ∈ s.domainCores p l, (s.core c).sync.pendJ = true → (t.core c).sync.member = true ∧ (t.core c).sync.pendJ = false))

/-- R374: taking a trap in a context that holds no capture: TPC, TCAUSE, TVAL and TSTAT.PPL are written, the level becomes P,
the context goes to TVEC, its loops are inactive, nothing is in flight, and the results, transfers and loops it had are
captured; its registers and every byte of memory stay. In the exposed modes the results that the boundary has just made
visible, which no bundle has read, stream pushes among them, are captured too, and their registers, flags and WCOLL are as
before it: a boundary and a trap leave all registers as they were. R376: a fault of a context that already holds a capture is
a double trap. A core that belongs to no node is stopped for good, and remembers the cause for its record; a placed core's
node is stopped without an image, its error counted and a record of code 15 in unit 5 added to its home die's fault queue
where there is room. Registers and memory are not touched.
Where the rules leave it open it follows the model's reading in log entries 61, 62 and 65. -/
def Obligations.TrapEntry : Prop :=
  (∀ (s : State) (c x loc code : Nat) (tval : Word) (tpc : Nat), (s.ctx c x).cap = none →
  let t := s.takeTrap c x loc code tval tpc
  (t.ctx c x).csr.tpc = tpc % 2 ^ 24 ∧ (t.ctx c x).csr.tcause = loc * 256 + code ∧ (t.ctx c x).csr.tval = tval
  ∧ (t.ctx c x).csr.ppl = (s.core c).ident.pl ∧ (t.core c).ident.pl = true ∧ (t.ctx c x).pc = (s.core c).csr.tvec
  ∧ (t.ctx c x).l0.active = false ∧ (t.ctx c x).l1.active = false ∧ (t.ctx c x).inflight = [] ∧ (t.ctx c x).pend = []
  ∧ (∃ g, (t.ctx c x).cap = some g ∧ g.pend = (s.ctx c x).pend ∧ g.l0 = (s.ctx c x).l0 ∧ g.l1 = (s.ctx c x).l1
      ∧ (noneFresh s c x → g.results.map (fun r => (r.reg, r.val)) = (s.ctx c x).inflight.map fun r => (r.reg, r.val))
      ∧ (∀ f, (s.core c).ident.mode ≠ 2 → (s.ctx c x).recent = some f → g.results = f.results ++ (s.ctx c x).inflight))
  ∧ (noneFresh s c x → (t.ctx c x).s = (s.ctx c x).s ∧ (t.ctx c x).p = (s.ctx c x).p ∧ (t.core c).v = (s.core c).v
      ∧ (t.core c).m = (s.core c).m)
  ∧ t.mem = s.mem ∧ t.tags = s.tags)
  ∧ (∀ (s : State) (c x loc code : Nat) (tval : Word) (tpc : Nat), (s.ctx c x).cap = none → (s.core c).ident.mode ≠ 2 →
  let l := (s.ctx c x).inflight
  let t := (s.tickExposed c x).takeTrap c x loc code tval tpc
  sameRegisters s t c x ∧ (t.ctx c x).csr.wcoll = (s.ctx c x).csr.wcoll ∧ (t.ctx c x).csr.flags = (s.ctx c x).csr.flags
  ∧ ∃ g, (t.ctx c x).cap = some g ∧ g.results.map (fun r => (r.reg, r.val, r.mask, r.flags)) =
      ((l.filter fun r => decide (r.rem ≤ 1)) ++ l.filter fun r => decide (1 < r.rem)).map
        fun r => (r.reg, r.val, r.mask, r.flags))
  ∧ (∀ (s : State) (c x loc code : Nat) (tval : Word) (tpc : Nat), (s.ctx c x).cap.isSome = true →
  let k := (s.core c).ident
  let t := s.takeTrap c x loc code tval tpc
  t.mem = s.mem ∧ t.tags = s.tags ∧ sameRegisters s t c x
  ∧ (k.placed = false → (t.core c).stat.dead = true ∧ (t.core c).stat.dtrap = some (loc * 256 + code) ∧ (t.ctx c x).run.active = false)
  ∧ (k.placed = true →
      ((s.die k.home).efq.length < 256 → ∃ r, (t.die k.home).efq = (s.die k.home).efq ++ [r] ∧ r.w0.toNat / 2 ^ 48 = 5 * 256 + 15
        ∧ r.w3 = BitVec.ofNat 64 (loc * 256 + code))
      ∧ (t.nodeEnt k.home (k.node % 4096)).err = true
      ∧ ∀ p, Tab.find (s.die k.home).sched.placed (k.node % 4096) = some p →
          (∃ q, Tab.find (t.die k.home).sched.placed (k.node % 4096) = some q ∧ q.bad = true)
          ∧ (p.bad = false → c ∈ p.cores → (t.core c).stat.dead = true ∧ (t.ctx c x).run.active = false)))

/-- R190, R378: TRET at level U raises PrivilegeViolation; at level P it holds while the handler has earlier results in
flight, and else asks for the return, which restores the level, the loops, the pending transfers and the captured results, and
goes back to TPC. R374, R378: a trap taken and returned from at once gives back what the context had, but for what the trap
wrote: its program counter at TPC, its registers, loops, transfers, level and, in the exposed modes, its results in flight.
At a boundary of the exposed modes, with the return's own boundary, it leaves what that boundary alone leaves: the results that
had just become visible are visible again, with their flags.
Where the rules leave it open it follows the model's reading in log entry 62. -/
def Obligations.TrapReturn : Prop :=
  ((∀ (f : FmtCN) (s : State), s.guard0 f.g = true →
    ((s.core s.iss.core).ident.pl = false → exec (.tret f) s = .next (s.fault privilegeViolation (s.wordTval (.tret f))))
    ∧ ((s.core s.iss.core).ident.pl = true → (s.ctx s.iss.core s.iss.ctx).earlier = [] → exec (.tret f) s = .next (s.ask .tret))
    ∧ ((s.core s.iss.core).ident.pl = true → (s.ctx s.iss.core s.iss.ctx).earlier ≠ [] → ∃ u, exec (.tret f) s = .next u
        ∧ u.iss.waits = ⟨15 * 16 + s.iss.slot, waitTimeout, 0, s.iss.slot, none⟩ :: s.iss.waits))
  ∧ (∀ (s : State) (c x : Nat) (g : Capture), (s.ctx c x).cap = some g →
    let t := s.returnTrap c x
    (t.core c).ident.pl = (s.ctx c x).csr.ppl ∧ (t.ctx c x).pc = (s.ctx c x).csr.tpc ∧ (t.ctx c x).cap = none
    ∧ (t.ctx c x).pend = g.pend ∧ (t.ctx c x).l0 = g.l0 ∧ (t.ctx c x).l1 = g.l1
    ∧ (t.ctx c x).inflight = g.results ++ (s.ctx c x).inflight ∧ (t.ctx c x).s = (s.ctx c x).s ∧ t.mem = s.mem))
  ∧ (∀ (s : State) (c x loc code : Nat) (tval : Word) (tpc : Nat), (s.ctx c x).cap = none →
  (s.core c).ident.mode ≠ 2 → tpc < 2 ^ 24 → (s.ctx c x).recent = none →
  let t := (s.takeTrap c x loc code tval tpc).returnTrap c x
  (t.ctx c x).pc = tpc ∧ (t.ctx c x).cap = none ∧ (t.ctx c x).inflight = (s.ctx c x).inflight ∧ (t.ctx c x).pend = (s.ctx c x).pend
  ∧ (t.ctx c x).l0 = (s.ctx c x).l0 ∧ (t.ctx c x).l1 = (s.ctx c x).l1 ∧ (t.core c).ident = (s.core c).ident
  ∧ ∀ n, (t.ctx c x).readS n = (s.ctx c x).readS n ∧ (t.ctx c x).readP n = (s.ctx c x).readP n)
  ∧ (∀ (r : State) (c x loc code : Nat) (tval : Word) (tpc : Nat), (r.ctx c x).cap = none →
  (r.core c).ident.mode ≠ 2 → tpc < 2 ^ 24 →
  let s := r.tickExposed c x
  let t := ((s.takeTrap c x loc code tval tpc).returnTrap c x).matureNow c x
  (t.ctx c x).pc = tpc ∧ (t.ctx c x).inflight = (s.ctx c x).inflight ∧ (t.ctx c x).pend = (s.ctx c x).pend
  ∧ (t.ctx c x).csr.flags = (s.ctx c x).csr.flags ∧ (t.ctx c x).csr.wcoll = (s.ctx c x).csr.wcoll
  ∧ (t.core c).ident = (s.core c).ident ∧ sameRegisters s t c x)

/-- R25, R70, R127, R139, R157: at a boundary of the exposed modes every result in flight comes one nearer. The registers that
no maturing result names keep their values; a register that one maturing result alone names takes its value, s0 and p0 apart,
which discard it: a p register its 64 bits with U set where they are equal, a v register the lanes that the result's mask
enables, an m register its word. Of two that name one s register the later bundle's stands, of one bundle the higher slot's.
The flags of all maturing results are ORed into FPFLAGS; two that name one register set WCOLL. -/
def Obligations.ResultsBecomeVisible : Prop := ∀ (s : State) (c x : Nat),
  let l := (s.ctx c x).inflight
  let t := s.tickExposed c x
  t.mem = s.mem ∧ t.tags = s.tags
  ∧ (t.ctx c x).inflight = ((l.filter fun r => decide (1 < r.rem)).map fun r => { r with rem := r.rem - 1 })
  ∧ (∀ n, (∀ r ∈ l, r.rem ≤ 1 → r.reg ≠ .s n) → (t.ctx c x).readS n = (s.ctx c x).readS n)
  ∧ (∀ n, (∀ r ∈ l, r.rem ≤ 1 → r.reg ≠ .p n) → (t.ctx c x).readP n = (s.ctx c x).readP n)
  ∧ (∀ n, (∀ r ∈ l, r.rem ≤ 1 → r.reg ≠ .v n) → Tab.get 0 (t.core c).v n = Tab.get 0 (s.core c).v n)
  ∧ (∀ n a b r, l = a ++ r :: b → r.rem ≤ 1 → r.reg = .s n → n ≠ 0 → (∀ q ∈ a ++ b, q.rem ≤ 1 → q.reg ≠ .s n) →
      (t.ctx c x).readS n = r.val.setWidth 64)
  ∧ (∀ n, (∀ r ∈ l, r.rem ≤ 1 → r.reg ≠ .m n) → Tab.get 0 (t.core c).m n = Tab.get 0 (s.core c).m n)
  ∧ (∀ n a b r, l = a ++ r :: b → r.rem ≤ 1 → r.reg = .p n → n ≠ 0 → (∀ q ∈ a ++ b, q.rem ≤ 1 → q.reg ≠ .p n) →
      (t.ctx c x).readP n = ⟨r.val.setWidth 64, r.val.setWidth 64 == (0 : BitVec 64) || r.val.setWidth 64 == BitVec.allOnes 64⟩)
  ∧ (∀ n a b r, l = a ++ r :: b → r.rem ≤ 1 → r.reg = .v n → (∀ q ∈ a ++ b, q.rem ≤ 1 → q.reg ≠ .v n) → ∀ i, i < 64 →
      lane (Tab.get 0 (t.core c).v n) i = if r.mask.getLsbD i then lane r.val i else lane (Tab.get 0 (s.core c).v n) i)
  ∧ (∀ n a b r, l = a ++ r :: b → r.rem ≤ 1 → r.reg = .m n → (∀ q ∈ a ++ b, q.rem ≤ 1 → q.reg ≠ .m n) →
      Tab.get 0 (t.core c).m n = r.val.setWidth 64)
  ∧ (∀ n a b r, l = a ++ r :: b → r.rem ≤ 1 → r.reg = .s n → n ≠ 0 →
      (∀ q ∈ a ++ b, q.rem ≤ 1 → q.reg = .s n → q.order < r.order ∨ (q.order = r.order ∧ q.slot < r.slot)) →
      (t.ctx c x).readS n = r.val.setWidth 64)
  ∧ (t.ctx c x).readS 0 = 0
  ∧ (∀ b, (t.ctx c x).csr.flags.getLsbD b = true ↔
      (s.ctx c x).csr.flags.getLsbD b = true ∨ ∃ r ∈ l, r.rem ≤ 1 ∧ r.flags.getLsbD b = true)
  ∧ (∀ n a b d q r, l = a ++ q :: b ++ r :: d → q.rem ≤ 1 → r.rem ≤ 1 → q.reg = .s n → r.reg = .s n → n ≠ 0 →
      (t.ctx c x).csr.wcoll = true)
  ∧ (∀ a b d q r, l = a ++ q :: b ++ r :: d → q.rem ≤ 1 → r.rem ≤ 1 → q.reg = r.reg → writesReg r.reg = true →
      (t.ctx c x).csr.wcoll = true)

/-- R178, R181: at an open boundary whose control slot asks nothing, the pending transfer that is due takes the context to its
target, cancels the others and sets TCOLL where there were any; with none due, an active loop whose end the bundle is goes
back to its start with one pass less, or ends after its last; l1 is looked at first; the leader of a Chord's stream goes on
where its decision said. R40, R137, R373: a wait that has lasted
longer than its limit traps: TCAUSE names its slot and its timeout, TVAL what it waited for, and the context goes to TVEC; a
tag wait goes before any other.
Where the rules leave it open it follows the model's reading in log entries 59 and 60. -/
def Obligations.BoundaryPathAndTimeouts : Prop :=
  (∀ (s : State) (c x : Nat), s.clk.args = [c, x] → s.atBoundary c x = true → s.iss.ctl = .none →
  let k := s.ctx c x
  (∀ p, duePending k.pend = some p → ∃ t, exec .transferMature s = .next t ∧ goesTo s t c x p.target
    ∧ (t.ctx c x).pend = [] ∧ (t.ctx c x).csr.tcoll = (k.csr.tcoll || decide (1 < k.pend.length)) ∧ t.mem = s.mem)
  ∧ (duePending k.pend = none → k.l1.active = true → k.l1.le = s.iss.addr → 1 < k.l1.lc →
      ∃ t, exec .loopEnd s = .next t ∧ goesTo s t c x k.l1.ls ∧ (t.ctx c x).l1 = { k.l1 with lc := k.l1.lc - 1 }
        ∧ (t.ctx c x).l0 = k.l0 ∧ t.mem = s.mem)
  ∧ (duePending k.pend = none → ¬ (k.l1.active = true ∧ k.l1.le = s.iss.addr) → k.l0.active = true → k.l0.le = s.iss.addr →
      ∃ t, exec .loopEnd s = .next t ∧ (t.ctx c x).l1 = k.l1 ∧ t.mem = s.mem
        ∧ (1 < k.l0.lc → goesTo s t c x k.l0.ls ∧ (t.ctx c x).l0 = { k.l0 with lc := k.l0.lc - 1 })
        ∧ (k.l0.lc ≤ 1 → goesTo s t c x s.iss.next ∧ (t.ctx c x).l0 = { k.l0 with lc := 0, active := false })))
  ∧ (∀ (s : State) (c x : Nat) (r : Record), s.iss.ctl = .none →
  let t := s.toBoundary c x r
  ((duePending (s.ctx c x).pend).isSome = true → t.clk.agenda = .event .transferMature [c, x] :: s.clk.agenda ∧ t.iss.open_ = true)
  ∧ (duePending (s.ctx c x).pend = none → (s.ctx c x).loopEndsAt s.iss.addr = true →
      t.clk.agenda = .event .loopEnd [c, x] :: s.clk.agenda ∧ t.iss.open_ = true))
  ∧ (∀ (s : State) (c x : Nat) (w : Wait), (s.ctx c x).cap = none →
  let trapped := fun t => (t.ctx c x).csr.tcause = w.loc * 256 + w.code ∧ (t.ctx c x).csr.tval = w.tval
    ∧ (t.ctx c x).csr.tpc = s.resolve c (s.ctx c x).pc % 2 ^ 24 ∧ (t.ctx c x).pc = (s.core c).csr.tvec ∧ (t.core c).ident.pl = true
    ∧ (noneFresh s c x → (t.ctx c x).s = (s.ctx c x).s) ∧ t.mem = s.mem
  (s.clk.args = [c, x] → s.overdue c x tagWaitTimeout = some w → ∃ t, exec .tagWaitTimeout s = .next t ∧ trapped t)
  ∧ (s.clk.args = [c, x] → s.overdue c x tagWaitTimeout = none → s.overdue c x waitTimeout = some w →
      ∃ t, exec .waitTimeout s = .next t ∧ trapped t)
  ∧ (s.clk.args = [c] → x = 0 → (s.ctx c 0).run.join.isSome = true → s.overdue c 0 joinTimeout = some w →
      ∃ t, exec .joinTimeout s = .next t ∧ trapped t ∧ (t.core c).ident.mode = (s.core c).ident.mode))

/-- R47, R49, R51: the lowest dormant context of a core that may take starts from the head of the arrival queue, or else from
the oldest record of its node with priority 1, or else with priority 0; an arrival that the full queue turned away becomes a
record of the core's node once the pool has room, and its RGET is complete. A context that takes a record has the rest of its
registers as R47 says. -/
def Obligations.RecordsTaken : Prop :=
  (∀ (s : State) (c x : Nat), s.clk.args = [c] → (s.core c).takes = true → 1 ≤ x → x ≤ 15 → (s.core c).dormant x = true →
    (∀ y, 1 ≤ y → y < x → (s.core c).dormant y = false) →
    (∀ a l, (s.core c).arrq = a :: l → ∃ t, exec .takeRecord s = .next t ∧ (t.ctx c x).run.active = true
      ∧ (t.ctx c x).pc = a.pc % 2 ^ 24 ∧ (t.ctx c x).readS 1 = BitVec.ofNat 64 a.off ∧ (t.ctx c x).readS 2 = a.cookie
      ∧ (t.ctx c x).readS 3 = 0 ∧ t.mem = s.mem)
    ∧ (∀ e, (s.core c).arrq = [] →
        (findRecord (s.die (dieOf c)).sched.pool (s.core c).ident.node 1 c s.clk.cycle = some e
          ∨ (findRecord (s.die (dieOf c)).sched.pool (s.core c).ident.node 1 c s.clk.cycle = none
            ∧ findRecord (s.die (dieOf c)).sched.pool (s.core c).ident.node 0 c s.clk.cycle = some e)) →
        ∃ t, exec .takeRecord s = .next t ∧ (t.ctx c x).run.active = true ∧ (t.ctx c x).pc = e.r.pc % 2 ^ 24
          ∧ [1, 2, 3, 4, 5, 6, 7].map (t.ctx c x).readS = [e.r.s1, e.r.s2, e.r.s3, e.r.s4, e.r.s5, e.r.s6, e.r.s7]
          ∧ (t.ctx c x).csr.group = e.r.group ∧ (t.ctx c x).csr.pri = e.r.pri ∧ t.mem = s.mem
          ∧ (∀ n, n = 0 ∨ 8 ≤ n → (t.ctx c x).readS n = 0) ∧ (∀ n, 1 ≤ n → n ≤ 7 → (t.ctx c x).readP n = ⟨0, true⟩)
          ∧ (t.ctx c x).l0.active = false ∧ (t.ctx c x).l1.active = false
          ∧ ∀ n, (Tab.get TReg.reset (t.ctx c x).tb n).state = 0))
  ∧ (∀ (s : State) (c op : Nat) (a : Arrival) (l : List (Arrival × Nat)), s.clk.args = [c] →
      (s.core c).overflow = (a, op) :: l → s.poolSize (dieOf c) < 65536 → ∃ t e, exec .arrivalOverflowPush s = .next t ∧ (t.core c).overflow = l
        ∧ (t.die (dieOf c)).sched.pool = (s.die (dieOf c)).sched.pool ++ [e] ∧ e.r.pc = a.pc ∧ e.r.s1 = BitVec.ofNat 64 a.off
        ∧ e.r.s2 = a.cookie ∧ e.r.node = (s.core c).ident.node ∧ (∀ f, s.fop op = some f → completed t op))

/-- R274, R277: COPY, short and wide: the first check of R277's list that fails is the fault it raises: R203's and R204's on
both addresses (FabricVectors spells them), host memory as a protected partition's destination, a length of 2^32 or more or
past its handle's, with TAG an unaligned scratchpad destination or length, with CKPT a destination that is no home memory;
with none failing the command is issued, as one row of LEN bytes, and its destination is the address or its handle's base.
R219, R220, R282, R283, R395: COPY2D takes its rows and strides from the 32-byte descriptor, TMOV from its packed word, in
units of 64 bytes, where a pitch of 0 is the row's length, to an address or to a handle's buffer, which must hold its extent;
COPY.UNSEAL moves one row of LEN bytes, in a protected partition alone, with neither a handle nor CKPT. Each is issued where
its checks pass.
Where the rules leave it open it follows the model's reading in log entries 30, 69 and 72. -/
def Obligations.RowCopiesIssue : Prop :=
  (∀ (s : State) (i : Instr) (o : TrigOp) (h : Option (Nat × Nat)) (time : Nat),
  copyForm s .copy .copyWide i o h time →
  let pkg := pkgOf s.iss.core
  let part := (s.core s.iss.core).ident.part
  let n := o.len.toNat
  let dst := match h with
    | none => o.dst.toNat
    | some e => hBase e.2
  let l := [plainUse dst n [0, 1, 2, 3, 4, 5, 7], plainUse o.src.toNat n [0, 1, 2, 3, 4, 5, 7]]
  let host := s.protectedPart pkg part = true ∧ dst / 2 ^ 60 % 16 = 7
  let long := 2 ^ 32 ≤ n ∨ ∃ e, h = some e ∧ hLen e.2 < n
  let tags := o.tag = true ∧ dst / 2 ^ 60 % 16 ≤ 1
  let far := o.ckpt = true ∧ dst / 2 ^ 60 % 16 ≠ 4
  (∀ e, addressRaises s pkg part l 7 e → raises i s e.1 e.2)
  ∧ (addressesPass s pkg part l 7 →
    (host → raises i s addressSpaceFault (BitVec.ofNat 64 dst))
    ∧ (¬ host → long → raises i s addressRange o.len)
    ∧ (¬ host → ¬ long → tags → dst % 8 ≠ 0 → raises i s misaligned (BitVec.ofNat 64 dst))
    ∧ (¬ host → ¬ long → tags → dst % 8 = 0 → n % 8 ≠ 0 → raises i s misaligned o.len)
    ∧ (¬ host → ¬ long → (tags → dst % 8 = 0 ∧ n % 8 = 0) → far → raises i s addressSpaceFault (BitVec.ofNat 64 dst))
    ∧ (¬ host → ¬ long → (tags → dst % 8 = 0 ∧ n % 8 = 0) → ¬ far →
        issuesCommand i s o 0 dst ⟨1, n, 0, 0⟩ (h.map (·.1)) time)))
  ∧ ((∀ (s : State) (i : Instr) (o : TrigOp) (h : Option (Nat × Nat)) (time : Nat), copyForm s .copy2d .copy2dWide i o h time →
    let c := s.iss.core
    let part := (s.core c).ident.part
    let off := o.len.toNat
    let w := fun k => s.iss.mem.readN (spmAddr c off + 8 * k) 8
    let rows := s.iss.mem.readN (spmAddr c off) 4
    let rowb := s.iss.mem.readN (spmAddr c off + 4) 4
    let d := sInt 64 (w 1)
    let e := sInt 64 (w 2)
    (2 ^ 20 < off + 32 → raises i s addressRange o.len)
    ∧ (off + 32 ≤ 2 ^ 20 → off % 8 ≠ 0 → raises i s misaligned o.len)
    ∧ (off + 32 ≤ 2 ^ 20 → off % 8 = 0 → w 3 ≠ 0 → raises i s addressRange (BitVec.ofNat 64 (off + 24)))
    ∧ (off + 32 ≤ 2 ^ 20 → off % 8 = 0 → w 3 = 0 →
        s.addrChecks (pkgOf c) part [⟨o.dst.toNat, (rowExtent rows rowb d).1, (rowExtent rows rowb d).2, copySpaces, 0⟩,
          ⟨o.src.toNat, (rowExtent rows rowb e).1, (rowExtent rows rowb e).2, copySpaces, 0⟩] = none →
        let host := s.protectedPart (pkgOf c) part = true ∧ spaceOf o.dst.toNat = 7
        let tags := o.tag = true ∧ spaceOf o.dst.toNat ≤ 1
        (host → raises i s addressSpaceFault o.dst)
        ∧ (¬ host → tags → o.dst.toNat % 8 ≠ 0 → raises i s misaligned o.dst)
        ∧ (¬ host → tags → o.dst.toNat % 8 = 0 → rowb % 8 ≠ 0 → raises i s misaligned (BitVec.ofNat 64 rowb))
        ∧ (¬ host → tags → o.dst.toNat % 8 = 0 → rowb % 8 = 0 → d % 8 ≠ 0 → raises i s misaligned (BitVec.ofInt 64 d))
        ∧ (¬ host → (tags → o.dst.toNat % 8 = 0 ∧ rowb % 8 = 0 ∧ d % 8 = 0) →
            issuesCommand i s o 1 o.dst.toNat ⟨rows, rowb, d, e⟩ none time)))
  ∧ (∀ (s : State) (i : Instr) (o : TrigOp) (h : Option (Nat × Nat)) (time : Nat), copyForm s .tmov .tmovWide i o h time →
    let c := s.iss.core
    let v := o.len.toNat
    let rowln := v % 2 ^ 16
    let rows := v / 2 ^ 16 % 2 ^ 16
    let sp := v / 2 ^ 32 % 2 ^ 16
    let dp := v / 2 ^ 48 % 2 ^ 16
    let n := 64 * rowln
    let d : Int := 64 * (if dp = 0 then rowln else dp : Nat)
    let e : Int := 64 * (if sp = 0 then rowln else sp : Nat)
    let last := fun (pitch : Nat) => if rows = 0 then (0 : Int) else (64 * ((if pitch = 0 then rowln else pitch) * (rows - 1) + rowln) : Nat)
    let dst := match h with
      | none => o.dst.toNat
      | some x => hBase x.2
    let l : List AddrUse := [⟨dst, 0, last dp, [0, 2, 3], 0⟩, ⟨o.src.toNat, 0, last sp, [0, 2, 3], 0⟩]
    s.addrChecks (pkgOf c) (s.core c).ident.part l = none →
    (dp ≠ 0 ∧ dp < rowln ∨ sp ≠ 0 ∧ sp < rowln → raises i s addressRange o.len)
    ∧ ((dp = 0 ∨ rowln ≤ dp) → (sp = 0 ∨ rowln ≤ sp) →
        (h = none → dst % 64 ≠ 0 → raises i s misaligned (BitVec.ofNat 64 dst))
        ∧ (h ≠ none ∨ dst % 64 = 0 → o.src.toNat % 64 ≠ 0 → raises i s misaligned o.src)
        ∧ (dst % 64 ≠ 0 → o.src.toNat % 64 = 0 → raises i s misaligned (BitVec.ofNat 64 dst))
        ∧ (∀ x, h = some x → dst % 64 = 0 → o.src.toNat % 64 = 0 → (hLen x.2 : Int) < last dp → raises i s addressRange o.len)
        ∧ (dst % 64 = 0 → o.src.toNat % 64 = 0 → (∀ x, h = some x → last dp ≤ hLen x.2) →
            issuesCommand i s o 2 dst ⟨rows, n, d, e⟩ (h.map (·.1)) time)))
  ∧ (∀ (s : State) (i : Instr) (o : TrigOp) (h : Option (Nat × Nat)) (time : Nat), copyForm s .copyUnseal .copyUnsealWide i o h time →
    let c := s.iss.core
    let part := (s.core c).ident.part
    let p := o.len.toNat
    s.addrChecks (pkgOf c) part [plainUse o.dst.toNat p [2, 3, 4], plainUse o.src.toNat (p + 48) [4, 7]] = none →
    let bad := h ≠ none ∨ o.ckpt = true
    (s.protectedPart (pkgOf c) part = false → raises i s addressSpaceFault o.dst)
    ∧ (s.protectedPart (pkgOf c) part = true → bad → raises i s illegalEncoding (s.wordTval i))
    ∧ (s.protectedPart (pkgOf c) part = true → ¬ bad → (p = 0 ∨ 2 ^ 16 < p) → raises i s addressRange o.len)
    ∧ (s.protectedPart (pkgOf c) part = true → ¬ bad → 0 < p → p ≤ 2 ^ 16 → o.dst.toNat % 64 ≠ 0 → raises i s misaligned o.dst)
    ∧ (s.protectedPart (pkgOf c) part = true → ¬ bad → 0 < p → p ≤ 2 ^ 16 → o.dst.toNat % 64 = 0 →
        issuesCommand i s o 3 o.dst.toNat ⟨1, p, 0, 0⟩ none time)))

/-- R281, R284, R285, R289, R290: SEOP of each of its four operations adds a command to its die's queue of 64 with the fields of
its descriptor, whose formats, GROUP and ROWB must be those of the operation; STRCFG gives a stream, which it leaves unbound, the
walk of its descriptor from position 0; STRON binds a stream that is not bound, STROFF unbinds one, and
BUFREL frees a handle that is DRAINING at the boundary and faults on any other.
Where the rules leave it open it follows the model's reading in log entries 69, 72 and 74. -/
def Obligations.StackAndStreams : Prop :=
  (∀ (s : State) (i : Instr) (d op bar nb inc : Nat) (rel acq : Bool),
    (∃ f : FmtESE, i = .seop f ∧ s.guard0 f.g = true ∧ d = f.d ∧ op = f.op ∧ bar = f.bar ∧ nb = f.nb ∧ inc = (if f.nb = 0 then 1 else 0)
        ∧ rel = false ∧ acq = false)
      ∨ (∃ f : FmtESEW, i = .seopWide f ∧ s.guard0 f.g = true ∧ d = f.d ∧ op = f.op ∧ bar = f.bar ∧ nb = f.nb ∧ inc = f.inc
        ∧ rel = (f.rel != 0) ∧ acq = (f.acq != 0)) →
    op < 4 →
    let c := s.iss.core
    let off := (s.readS d).toNat
    let w := fun k => s.iss.mem.readN (spmAddr c off + 8 * k) 8
    let rowb := w 3 / 2 ^ 32 % 2 ^ 16
    let count := w 3 % 2 ^ 32
    let ix := if w 4 / 2 ^ 8 % 2 = 0 then 4 else 8
    let group := w 4 / 2 ^ 16 % 2 ^ 16
    let fm := w 4 % 2 ^ 4
    let fm2 := w 4 / 2 ^ 4 % 2 ^ 4
    let bytes := fun k => fmtBits k / 8
    let formats := (op = 0 ∧ group = 0) ∨ (op = 1 ∧ fm ≤ 2 ∧ group = 0)
      ∨ (op = 2 ∧ ((fm = 0 ∧ fm2 = 0) ∨ ((fm = 1 ∨ fm = 2) ∧ (fm2 = 1 ∨ fm2 = 2))) ∧ group ≠ 0)
      ∨ (op = 3 ∧ fm ≤ 7 ∧ fm2 ≤ 7 ∧ fm ≠ fm2 ∧ group = 0)
    let rows := rowb ≠ 0 ∧ (op ≠ 0 → rowb % bytes fm = 0)
    let other := if op = 3 then count * bytes fm2 else if op = 2 then count * (rowb * bytes fm2 / bytes fm) else count * rowb
    let index := if op = 3 then 0 else if op = 2 then count * group * ix else count * ix
    (2 ^ 20 < off + 64 → raises i s addressRange (s.readS d))
    ∧ (off + 64 ≤ 2 ^ 20 → off % 8 ≠ 0 → raises i s misaligned (s.readS d))
    ∧ (off + 64 ≤ 2 ^ 20 → off % 8 = 0 → w 3 / 2 ^ 48 % 2 ^ 16 = 0 → w 4 / 2 ^ 32 % 2 ^ 32 = 0 → w 4 / 2 ^ 9 % 2 ^ 7 = 0 → w 5 = 0 → w 6 = 0 →
      s.addrChecks (pkgOf c) (s.core c).ident.part [plainUse (w 0) (if op = 3 then count * bytes fm else 0) [4],
        plainUse (w 1) other [0, 1, 2, 3, 4], plainUse (w 2) index [0, 1, 2, 3, 4]] = none →
      (¬ formats → raises i s addressRange (BitVec.ofNat 64 (off + 32)))
      ∧ (formats → ¬ rows → raises i s addressRange (BitVec.ofNat 64 (off + 24)))
      ∧ (formats → rows → (s.die (dieOf c)).se.length < 64 → ∃ t m, exec i s = .next t ∧ startsOperation s t acq
        ∧ (t.die (dieOf c)).se = (s.die (dieOf c)).se ++ [m] ∧ m.opId = s.net.nextOp ∧ m.op = op ∧ m.table = w 0 ∧ m.other = w 1
        ∧ m.idx = w 2 ∧ m.rowb = rowb ∧ m.count = count ∧ m.group = group ∧ m.fm = fm ∧ m.fm2 = fm2 ∧ m.iw = w 4 / 2 ^ 8 % 2
        ∧ m.status = off + 56 ∧ m.bar = (if nb = 0 then some bar else none)
        ∧ m.inc = inc ∧ m.after = s.depsFor c s.iss.ctx rel ∧ m.running = false)
      ∧ (formats → rows → 64 ≤ (s.die (dieOf c)).se.length → waitsForRoom i s 5)))
  ∧ (∀ (s : State) (f : FmtEK), s.guard0 f.g = true →
    let off := (s.readS f.d).toNat
    (2 ^ 20 < off + 64 → raises (.strcfg f) s addressRange (s.readS f.d))
    ∧ (off + 64 ≤ 2 ^ 20 → off % 8 ≠ 0 → raises (.strcfg f) s misaligned (s.readS f.d)))
  ∧ (∀ (s : State) (f : FmtEK) (v : Walk), s.guard0 f.g = true →
    let c := s.iss.core
    let off := (s.readS f.d).toNat
    let w := fun k => s.iss.mem.readN (spmAddr c off + 8 * k) 8
    off + 64 ≤ 2 ^ 20 → off % 8 = 0 → w 2 / 2 ^ 32 = 0 → w 6 / 8 = 0 →
    v = ⟨w 0, w 1 % 2 ^ 32, w 1 / 2 ^ 32 % 2 ^ 32, w 2 % 2 ^ 32, sInt 64 (w 3), sInt 64 (w 4), sInt 64 (w 5), w 6 / 2 % 4, w 6 % 2 == 1⟩ →
    s.addrChecks (pkgOf c) (s.core c).ident.part [⟨v.base, (walkExtent v).1, (walkExtent v).2, [0, 1, 2, 3], 0⟩] = none →
    (v.base : Int) % v.size = 0 → v.s0 % v.size = 0 → v.s1 % v.size = 0 → v.s2 % v.size = 0 →
    (s.protectedPart (pkgOf c) (s.core c).ident.part = true → v.write = true → 2 ≤ spaceOf v.base →
      v.s0 = v.size ∧ v.c0 * v.size % 64 = 0 ∧ v.base % 64 = 0 ∧ v.s1 % 64 = 0 ∧ v.s2 % 64 = 0) →
    ∃ t, exec (.strcfg f) s = .next t ∧ ((t.core c).stream f.k) = { Stream.reset with desc := off, walk := some v } ∧ t.mem = s.mem
      ∧ ∀ k, k ≠ f.k → (t.core c).stream k = (s.core c).stream k)
  ∧ (∀ (s : State) (f : FmtEK0), s.guard0 f.g = true →
    let c := s.iss.core
    let r := (s.core c).stream f.k
    (r.bound = true → exec (.stron f) s = .next s)
    ∧ (r.bound = false → ∃ t, exec (.stron f) s = .next t ∧ ((t.core c).stream f.k).bound = true ∧ ((t.core c).stream f.k).pos = r.pos
        ∧ ((t.core c).stream f.k).walk = r.walk ∧ ((t.core c).stream f.k).fetched = [] ∧ t.mem = s.mem ∧ t.iss = s.iss
        ∧ ∀ k, k ≠ f.k → (t.core c).stream k = (s.core c).stream k)
    ∧ (r.bound = false → exec (.stroff f) s = .next s)
    ∧ (r.bound = true → ∃ t, exec (.stroff f) s = .next t ∧ ((t.core c).stream f.k).bound = false
        ∧ ((t.core c).stream f.k).fetched = [] ∧ ((t.core c).stream f.k).pos = r.pos ∧ t.mem = s.mem
        ∧ (t.iss.waits = s.iss.waits ↔ ((r.walk.elim false (·.write)) = false ∨ r.unwritten = []))))
  ∧ (∀ (s : State) (f : FmtEH), s.guard0 f.g = true →
    (hState (s.handleWord s.iss.mem s.iss.core f.h) ≠ 3 → raises (.bufrel f) s bufferStateFault (BitVec.ofNat 64 f.h))
    ∧ (hState (s.handleWord s.iss.mem s.iss.core f.h) = 3 → ∃ t, exec (.bufrel f) s = .next t
        ∧ t.iss.defer = s.iss.defer ++ [.handleFree f.h] ∧ t.mem = s.mem ∧ t.iss.faults = s.iss.faults))

/-- R200, R203: the checks on the addresses of an engine operation, in the table's order, the first that fails giving the
fault, and in one row the destination before the source. R293, R294, R297, R299, R301: RPUT, RMCAST and RGETV, short and wide: the
first check of each that fails raises its fault, R203's rows (on each live member's window in RMCAST), RGETV's length out of
range, a remote barrier that the window does not name, a group or window that the operation does not accept, with TAG an
unaligned destination or length; with none failing the operation is issued, RPUT with the one home its window names and RMCAST
with one for every member whose package is not dead.
Where the rules leave it open it follows the model's reading in log entry 69. -/
def Obligations.FabricVectors : Prop :=
  (∀ (s : State) (pkg part : Nat) (l : List AddrUse),
    (s.addrChecks pkg part l = none ↔ addressesPass s pkg part l 7)
    ∧ ∀ e, s.addrChecks pkg part l = some e ↔ addressRaises s pkg part l 7 e)
  ∧
  (∀ (s : State) (i : Instr) (o : TrigOp) (h : Option (Nat × Nat)) (time : Nat), copyForm s .rput .rputWide i o h time →
    let c := s.iss.core
    let pkg := pkgOf c
    let part := (s.core c).ident.part
    let w := windowOf o.dst.toNat
    let n := o.len.toNat
    let l : List AddrUse := [⟨o.dst.toNat, 0, n, [6], 61⟩, plainUse o.src.toNat n [0]]
    let noBar := o.opx / 2 ^ 7 % 2 = 1 ∧ bits (s.windowEnt pkg part w) 199 1 = 0
    (∀ e, addressRaises s pkg part l 7 e → raises i s e.1 e.2)
    ∧ (addressesPass s pkg part l 7 → noBar → raises i s windowFault (BitVec.ofNat 64 w))
    ∧ (addressesPass s pkg part l 7 → ¬ noBar → issuesFabric i s o.rel o.acq fun g => g.kind = 0 ∧ g.src = o.src.toNat % 2 ^ 20 ∧ g.len = o.len.toNat
        ∧ g.bar = (if o.nb then none else some o.bar) ∧ g.inc = o.inc
        ∧ g.dlv = s.delivery (pkgOf c) (s.core c).ident.part (windowOf o.dst.toNat) (o.dst.toNat % 2 ^ 48) o.len.toNat
            (if o.opx / 2 ^ 7 % 2 = 1 then some (o.opx % 32) else none)))
  ∧ (∀ (s : State) (i : Instr) (o : TrigOp) (h : Option (Nat × Nat)) (time : Nat), copyForm s .rmcast .rmcastWide i o h time →
    let c := s.iss.core
    let pkg := pkgOf c
    let part := (s.core c).ident.part
    let n := o.len.toNat
    let l : List AddrUse := [⟨o.dst.toNat, 0, n, [6], 61⟩, plainUse o.src.toNat n [0]]
    let e := (Tab.get 0 (s.pkg pkg).apex.groups o.opx).toNat
    let known := e / 2 ^ 63 % 2 = 1 ∧ e / 2 ^ 59 % 2 ^ 4 = part
    let live := fun (m : Nat × Bool × Nat × Nat) => ¬ (bits (s.windowEnt pkg part m.2.2.2) 63 1 = 1
      ∧ ∃ d, s.logicalDie pkg part (bits (s.windowEnt pkg part m.2.2.2) 0 12) = some d ∧ s.peerDead pkg (d / 4) = true)
    let bad := fun (m : Nat × Bool × Nat × Nat) => windowFails s pkg part m.2.2.2 61 (o.dst.toNat % 2 ^ 48 : Nat) n
      ∨ (m.2.1 = true ∧ bits (s.windowEnt pkg part m.2.2.2) 199 1 = 0)
    (∀ e, addressRaises s pkg part l 5 e → raises i s e.1 e.2)
    ∧ (addressesPass s pkg part l 5 → windowOf o.dst.toNat ≠ 0 → raises i s addressRange o.dst)
    ∧ (addressesPass s pkg part l 5 → windowOf o.dst.toNat = 0 → ¬ known →
        raises i s windowFault (BitVec.ofNat 64 (o.opx * 65536)))
    ∧ (addressesPass s pkg part l 5 → windowOf o.dst.toNat = 0 → known → ∀ a m b, s.groupMembers pkg o.opx = a ++ m :: b →
        (∀ q ∈ a, live q → ¬ bad q) → live m → bad m → raises i s windowFault (BitVec.ofNat 64 (o.opx * 65536 + m.1)))
    ∧ (addressesPass s pkg part l 5 → windowOf o.dst.toNat = 0 → known → (∀ q ∈ s.groupMembers pkg o.opx, live q → ¬ bad q) →
        issuesFabric i s o.rel o.acq fun g => g.kind = 6 ∧ g.src = o.src.toNat % 2 ^ 20 ∧ g.len = o.len.toNat
        ∧ g.bar = (if o.nb then none else some o.bar) ∧ g.inc = o.inc
        ∧ ∀ d, d ∈ g.dlv ↔ s.peerDead (pkgOf c) d.pkg = false ∧ ∃ m ∈ s.groupMembers (pkgOf c) o.opx,
            d ∈ s.delivery (pkgOf c) (s.core c).ident.part m.2.2.2 (o.dst.toNat % 2 ^ 48) o.len.toNat (if m.2.1 then some m.2.2.1 else none)))
  ∧ (∀ (s : State) (i : Instr) (o : TrigOp) (h : Option (Nat × Nat)) (time : Nat), copyForm s .rgetv .rgetvWide i o h time →
    let c := s.iss.core
    let home := (s.windowHome (pkgOf c) (s.core c).ident.part (windowOf o.src.toNat) (o.src.toNat % 2 ^ 48)).getD (0, 0, 0)
    let part := (s.core c).ident.part
    let n := o.len.toNat
    let l : List AddrUse := [plainUse o.dst.toNat n [0], ⟨o.src.toNat, 0, n, [6], 62⟩]
    let odd := o.tag = true ∧ (o.dst.toNat % 8 ≠ 0 ∨ n % 8 ≠ 0)
    (∀ e, addressRaises s (pkgOf c) part l 7 e → raises i s e.1 e.2)
    ∧ (addressesPass s (pkgOf c) part l 7 → n = 0 ∨ 256 < n → raises i s addressRange o.len)
    ∧ (addressesPass s (pkgOf c) part l 7 → 1 ≤ n → n ≤ 256 → odd → raises i s misaligned o.dst)
    ∧ (addressesPass s (pkgOf c) part l 7 → 1 ≤ n → n ≤ 256 → ¬ odd → issuesFabric i s false o.acq fun g => g.kind = 2 ∧ g.dst = o.dst.toNat % 2 ^ 20 ∧ g.len = o.len.toNat
        ∧ g.bar = (if o.nb then none else some o.bar) ∧ g.inc = o.inc ∧ g.tag = o.tag ∧ g.mem = home.1 ∧ g.off = home.2.1))

/-- R300, R302, R309, R311: RGET, RFOP, RVATOM and RRED, short and wide, where their addresses pass R203 and are aligned: the
operation is issued with its home, its operands and, for RRED, the elements read at issue.
Where the rules leave it open it follows the model's reading in log entries 65, 69 and 72. -/
def Obligations.FabricWords : Prop :=
  (∀ (s : State) (i : Instr) (dst adr hpc ck : Nat) (acq : Bool),
    (∃ f : FmtEG, i = .rget f ∧ s.guard0 f.g = true ∧ dst = f.dst ∧ adr = f.adr ∧ hpc = f.hpc ∧ ck = f.ck ∧ acq = false)
      ∨ (∃ f : FmtEGW, i = .rgetWide f ∧ s.guard0 f.g = true ∧ dst = f.dst ∧ adr = f.adr ∧ hpc = f.hpc ∧ ck = f.ck ∧ acq = (f.acq != 0)) →
    let c := s.iss.core
    let a := (s.readS adr).toNat
    let d := (s.readS dst).toNat
    let l := [plainUse d 8 [0], ⟨a, 0, 8, [6], 62⟩]
    ((s.readS hpc).toNat < 2 ^ 24 → (s.readS hpc).toNat % 2 = 0 →
      (∀ e, s.addrChecks (pkgOf c) (s.core c).ident.part l = some e → raises i s e.1 e.2)
      ∧ (s.addrChecks (pkgOf c) (s.core c).ident.part l = none → a % 8 ≠ 0 → raises i s misaligned (BitVec.ofNat 64 a))
      ∧ (s.addrChecks (pkgOf c) (s.core c).ident.part l = none → a % 8 = 0 → d % 8 ≠ 0 → raises i s misaligned (BitVec.ofNat 64 d))
      ∧ (s.addrChecks (pkgOf c) (s.core c).ident.part l = none → a % 8 = 0 → d % 8 = 0 →
          issuesFabric i s false acq fun g => g.kind = 1 ∧ g.dst = d ∧ g.cookie = s.readS ck
            ∧ g.hpc = (if hpc = 0 then none else some (s.readS hpc).toNat)
            ∧ g.mem = (s.wordHome a).1 ∧ g.off = (s.wordHome a).2.1)))
  ∧ (∀ (s : State) (i : Instr) (dst adr x op w opx : Nat) (rel acq : Bool),
    (∃ f : FmtEF, i = .rfop f ∧ s.guard0 f.g = true ∧ dst = f.dst ∧ adr = f.adr ∧ x = f.x ∧ op = f.op ∧ w = f.w ∧ opx = 0
        ∧ rel = false ∧ acq = false)
      ∨ (∃ f : FmtEFW, i ∈ [Instr.rfopWide f, .rfopIncw f, .rfopBadd f, .rfopCas f] ∧ s.guard0 f.g = true ∧ dst = f.dst ∧ adr = f.adr
        ∧ x = f.x ∧ op = f.op ∧ w = f.w ∧ opx = f.opx ∧ rel = (f.rel != 0) ∧ acq = (f.acq != 0)) →
    let c := s.iss.core
    let a := (s.readS adr).toNat
    let d := (s.readS dst).toNat
    let n : Nat := if w = 0 then 8 else 4
    let l := [plainUse d (if op = 10 then 16 else 8) [0], ⟨a, 0, n, [6], 60⟩]
    (∀ e, s.addrChecks (pkgOf c) (s.core c).ident.part l = some e → raises i s e.1 e.2)
    ∧ (s.addrChecks (pkgOf c) (s.core c).ident.part l = none → a % n = 0 → d % 8 = 0 →
        issuesFabric i s rel acq fun g => g.kind = 3 ∧ g.dst = d ∧ g.fop = op ∧ g.x = (s.readS x).toNat % 2 ^ (8 * n)
          ∧ g.b = (s.readS opx).toNat % 2 ^ (8 * n) ∧ g.mem = (s.wordHome a).1 ∧ g.off = (s.wordHome a).2.1))
  ∧ (∀ (s : State) (i : Instr) (dst src t bar nb inc : Nat) (rel : Bool),
    (∃ f : FmtEA, i = .rvatom f ∧ s.guard0 f.g = true ∧ dst = f.dst ∧ src = f.src ∧ t = f.t ∧ bar = f.bar ∧ nb = f.nb
        ∧ inc = (if f.nb = 0 then 1 else 0) ∧ rel = false)
      ∨ (∃ f : FmtEAW, i = .rvatomWide f ∧ s.guard0 f.g = true ∧ dst = f.dst ∧ src = f.src ∧ t = f.t ∧ bar = f.bar ∧ nb = f.nb
        ∧ inc = f.inc ∧ rel = (f.rel != 0)) →
    let c := s.iss.core
    let d := (s.readS dst).toNat
    let a := (s.readS src).toNat
    let l := [⟨d, 0, 128, [6], 59⟩, plainUse a 128 [0]]
    let n := if t = 0 then 4 else 2
    (∀ e, s.addrChecks (pkgOf c) (s.core c).ident.part l = some e → raises i s e.1 e.2)
    ∧ (s.addrChecks (pkgOf c) (s.core c).ident.part l = none → d % 128 ≠ 0 → raises i s misaligned (BitVec.ofNat 64 d))
    ∧ (s.addrChecks (pkgOf c) (s.core c).ident.part l = none → d % 128 = 0 → a % 128 ≠ 0 → raises i s misaligned (BitVec.ofNat 64 a))
    ∧ (s.addrChecks (pkgOf c) (s.core c).ident.part l = none → d % 128 = 0 → a % 128 = 0 →
        issuesFabric i s rel false fun g => g.kind = 4 ∧ g.src = a ∧ g.bar = (if nb = 0 then some bar else none) ∧ g.inc = inc
          ∧ g.mem = (s.wordHome d).1 ∧ g.off = (s.wordHome d).2.1 ∧ g.left = (List.range (128 / n)).map fun e => (n * e, n)))
  ∧ (∀ (s : State) (i : Instr) (src win rank : Nat) (rel : Bool),
    (∃ f : FmtER, i = .rred f ∧ s.guard0 f.g = true ∧ src = f.src ∧ win = f.win ∧ rank = f.rank ∧ rel = false)
      ∨ (∃ f : FmtERW, i = .rredWide f ∧ s.guard0 f.g = true ∧ src = f.src ∧ win = f.win ∧ rank = f.rank ∧ rel = (f.rel != 0)) →
    let c := s.iss.core
    let r := s.redWin (pkgOf c) win
    let a := (s.readS src).toNat
    let k := (s.readS rank).toNat
    let n := r.len * redBytes r.cfmt
    (r.valid = false ∨ r.part ≠ (s.core c).ident.part ∨ r.n ≤ k → raises i s windowFault (BitVec.ofNat 64 win))
    ∧ (r.valid = true → r.part = (s.core c).ident.part → k < r.n →
        s.addrChecks (pkgOf c) (s.core c).ident.part [plainUse a n [0]] = none →
        (a % 8 ≠ 0 → raises i s misaligned (BitVec.ofNat 64 a))
        ∧ (a % 8 = 0 → s.peerDead (pkgOf c) (s.rootPkg (pkgOf c) r) = true →
            raises i s deadPeer (BitVec.ofNat 64 (s.rootPkg (pkgOf c) r)))
        ∧ (a % 8 = 0 → s.peerDead (pkgOf c) (s.rootPkg (pkgOf c) r) = false → issuesFabric i s rel false fun g => g.kind = 5
            ∧ g.win = win ∧ g.rank = k ∧ g.round = r.round
            ∧ g.data = (List.range r.len).map fun e => s.iss.mem.readN (spmAddr c (a + redBytes r.cfmt * e)) (redBytes r.cfmt))))

/-- R259, R356, R359: FENCE makes every later operation of its context follow every earlier one that may yet run, and changes
nothing else; ARRIVE acts on its barrier in the cycle after issue, after what the context's fences name; BARINIT leaves the word
it read at issue for the core's barrier object, at the address it has then.
R357, R358: a barrier wait with ERR set raises EngineFault; it goes on when PHASE is P, or when COUNT (or, in mode 1, the sum
of the eight deliveries) is at least the threshold, and else waits. WAITH goes on when its handle is FULL, which it makes
DRAINING at the boundary, or DRAINING, and waits while it is FREE or FILLING. R354: Arrive on a barrier object's two words. In
mode 0 the increment is added to COUNT; where the sum reaches the target PHASE flips and the target is taken off, and a sum
past 32 bits sets ERR. In mode 1 the increment of one lane is added to its delivery, up to 255; where every named share is
delivered PHASE flips and the shares are taken off. Reserved bits set only ERR.
Where the rules leave it open it follows the model's reading in log entries 31 and 87. -/
def Obligations.Barriers : Prop :=
  ((∀ (s : State) (f : FmtEN), s.guard0 f.g = true → ∃ t, exec (.fence f) s = .next t ∧ t.mem = s.mem ∧ t.net = s.net ∧ t.iss = s.iss
    ∧ (∀ n, t.readS n = s.readS n)
    ∧ ∀ k, (k ∈ (t.ctx s.iss.core s.iss.ctx).dep.fence ↔ s.mayRun s.iss.core k = true
        ∧ (k ∈ (s.ctx s.iss.core s.iss.ctx).dep.fence ∨ k ∈ (s.ctx s.iss.core s.iss.ctx).dep.ops)))
  ∧ (∀ (s : State) (f : FmtEBA), s.guard0 f.g = true → ∃ t, exec (.arrive f) s = .next t ∧ startsOperation s t false
    ∧ (t.core s.iss.core).arrives = (s.core s.iss.core).arrives
        ++ [⟨s.clk.cycle + 1, f.b, f.inc, s.depsFor s.iss.core s.iss.ctx false, s.net.nextOp, 8, none⟩])
  ∧ (∀ (s : State) (f : FmtEBI), s.guard0 f.g = true → ∃ t, exec (.barinit f) s = .next t ∧ t.mem = s.mem ∧ t.net = s.net ∧ t.iss = s.iss
    ∧ (t.core s.iss.core).arrives = (s.core s.iss.core).arrives
    ∧ (t.core s.iss.core).inits = (s.core s.iss.core).inits
        ++ [⟨s.clk.cycle, s.iss.ctx, f.b, s.barAddr s.iss.core f.b, s.readS f.a, none⟩]))
  ∧ ((∀ (s : State) (i : Instr) (g b : Nat) (test : Bool),
    let w := s.iss.mem.readN (s.barAddr s.iss.core b) 8
    let w1 := s.iss.mem.readN (s.barAddr s.iss.core b + 8) 8
    let count := if w / 2 ^ 25 % 2 = 1 then ((List.range 8).map fun j => w1 / 2 ^ (8 * j) % 2 ^ 8).sum else w / 2 ^ 32 % 2 ^ 32
    (∃ f : FmtEBW, i = .waitb f ∧ g = f.g ∧ b = f.b ∧ test = ((w / 2 ^ 24 % 2 == 1) == (f.ph == 1)))
      ∨ (∃ f : FmtEBC, i = .waitbC f ∧ g = f.g ∧ b = f.b ∧ test = decide (f.thr ≤ count))
      ∨ (∃ f : FmtEBCW, i = .waitbCWide f ∧ g = f.g ∧ b = f.b ∧ test = decide (f.thr ≤ count)) →
    s.guard0 g = true →
    (w / 2 ^ 26 % 2 = 1 → raises i s engineFaultCause (BitVec.ofNat 64 b))
    ∧ (w / 2 ^ 26 % 2 = 0 → test = true → exec i s = .next s)
    ∧ (w / 2 ^ 26 % 2 = 0 → test = false → ∃ t, exec i s = .next t ∧ t.mem = s.mem
        ∧ t.iss.waits = ⟨8 * 16 + s.iss.slot, waitTimeout, BitVec.ofNat 64 b, s.iss.slot, some (s.waitLimit s.iss.core)⟩ :: s.iss.waits))
  ∧ (∀ (s : State) (f : FmtEH), s.guard0 f.g = true →
    let w := s.handleWord s.iss.mem s.iss.core f.h
    hBad w = false →
    (hState w = 3 → exec (.waith f) s = .next s)
    ∧ (hState w = 2 → ∃ t, exec (.waith f) s = .next t ∧ t.iss.defer = s.iss.defer ++ [.handleFull f.h] ∧ t.iss.waits = s.iss.waits
        ∧ t.mem = s.mem)
    ∧ (hState w ≤ 1 → ∃ t, exec (.waith f) s = .next t ∧ t.mem = s.mem
        ∧ t.iss.waits = ⟨3 * 16 + s.iss.slot, waitTimeout, BitVec.ofNat 64 f.h, s.iss.slot, some (s.waitLimit s.iss.core)⟩ :: s.iss.waits)))
  ∧ (∀ (w0 w1 inc : Nat), w0 < 2 ^ 64 → w1 < 2 ^ 64 →
  let r := arriveWords w0 w1 inc
  let err := w0 / 2 ^ 26 % 2 = 1
  (w0 / 2 ^ 27 % 2 ^ 5 ≠ 0 → r.2.1 = w1 ∧ r.1 = (if err then w0 else w0 + 2 ^ 26) ∧ r.2.2 = false)
  ∧ (w0 / 2 ^ 27 % 2 ^ 5 = 0 → w0 / 2 ^ 25 % 2 = 0 →
      let n := w0 / 2 ^ 32 + inc
      let m := min n (2 ^ 32 - 1)
      r.2.1 = w1 ∧ r.2.2 = true ∧ r.1 % 2 ^ 24 = w0 % 2 ^ 24
      ∧ r.1 / 2 ^ 32 = (if w0 % 2 ^ 24 ≤ m then m - w0 % 2 ^ 24 else m)
      ∧ (r.1 / 2 ^ 24 % 2 ≠ w0 / 2 ^ 24 % 2 ↔ w0 % 2 ^ 24 ≤ m)
      ∧ (r.1 / 2 ^ 26 % 2 = 1 ↔ err ∨ 2 ^ 32 ≤ n))
  ∧ (w0 / 2 ^ 27 % 2 ^ 5 = 0 → w0 / 2 ^ 25 % 2 = 1 → (∃ j < 8, w0 / 2 ^ (32 + 4 * j) % 2 ^ 4 ≠ 0) →
      let d := fun j => if j = inc / 512 % 8 then min 255 (w1 / 2 ^ (8 * j) % 2 ^ 8 + inc % 512) else w1 / 2 ^ (8 * j) % 2 ^ 8
      let share := fun j => w0 / 2 ^ (32 + 4 * j) % 2 ^ 4
      r.2.2 = true
      ∧ ((∀ j < 8, share j ≤ d j) → r.1 / 2 ^ 24 % 2 ≠ w0 / 2 ^ 24 % 2 ∧ r.1 / 2 ^ 25 = w0 / 2 ^ 25
          ∧ ∀ j < 8, r.2.1 / 2 ^ (8 * j) % 2 ^ 8 = d j - share j)
      ∧ (¬ (∀ j < 8, share j ≤ d j) → r.1 = w0 ∧ ∀ j < 8, r.2.1 / 2 ^ (8 * j) % 2 ^ 8 = d j)))

/-- R362, R363: TRIGARM with a good threshold and descriptor takes the lowest free of 64 triggers, keeps the barrier's PHASE
and gives the index after one bundle; with its condition met at once it is to fire in the next cycle; with none free it waits.
TRIGCANCEL of an index from 64 on raises AddressRange, of one that is not armed does nothing, and else disarms it. R366:
MONCFG on a monitor that the core's partition owns: OP 0 configures it with a cleared record, OP 1 and OP 2 ask for a snapshot
at an 8-byte aligned offset that holds 104 bytes, OP 3 stops it; on any other monitor it raises PrivilegeViolation.
Where the rules leave it open it follows the model's reading in log entries 31, 71 and 87. -/
def Obligations.TriggersAndMonitors : Prop :=
  ((∀ (s : State) (f : FmtET), s.guard0 f.g = true →
    let c := s.iss.core
    let thr := (s.readS f.thr).toNat
    let off := (s.readS f.desc).toNat
    let a := spmAddr c off
    let o := trigOpAt s.iss.mem a
    (2 ^ 32 ≤ thr → raises (.trigarm f) s addressRange (s.readS f.thr))
    ∧ (thr < 2 ^ 32 → 2 ^ 20 < off + 32 → raises (.trigarm f) s addressRange (s.readS f.desc))
    ∧ (thr < 2 ^ 32 → off + 32 ≤ 2 ^ 20 → off % 8 ≠ 0 → raises (.trigarm f) s misaligned (s.readS f.desc))
    ∧ (thr < 2 ^ 32 → off + 32 ≤ 2 ^ 20 → off % 8 = 0 → trigOpOk o (s.iss.mem.readN a 8 % 2 ^ 27) = true → s.trigCheck c o = none →
        (64 ≤ (s.core c).trig.length → waitsForRoom (.trigarm f) s 7)
        ∧ ((s.core c).trig.length < 64 → ∃ t i g, exec (.trigarm f) s = .next t ∧ Tab.find (s.core c).trig i = none
            ∧ (∀ j, j < i → (Tab.find (s.core c).trig j).isSome = true) ∧ Tab.find (t.core c).trig i = some g
            ∧ g.bar = f.b ∧ g.thr = thr ∧ g.op = o ∧ g.ctx = s.iss.ctx
            ∧ g.phase = (s.mem.readN (s.barAddr c f.b) 8 / 2 ^ 24 % 2 == 1)
            ∧ (g.metAt = s.clk.cycle + 1 ↔ g.met (s.mem.readN (s.barAddr c f.b) 8) = true) ∧ t.mem = s.mem ∧ t.iss.faults = s.iss.faults
            ∧ t.iss.waits = s.iss.waits
            ∧ ∃ r ∈ (t.ctx c s.iss.ctx).inflight, r.reg = .s f.d ∧ r.val.setWidth 64 = BitVec.ofNat 64 i ∧ r.rem = 1)))
  ∧ (∀ (s : State) (f : FmtETC), s.guard0 f.g = true →
    let c := s.iss.core
    let v := (s.readS f.a).toNat
    (64 ≤ v → raises (.trigcancel f) s addressRange (s.readS f.a))
    ∧ (v < 64 → Tab.find (s.core c).trig v = none → exec (.trigcancel f) s = .next s)
    ∧ (∀ g, v < 64 → Tab.find (s.core c).trig v = some g → ∃ t, exec (.trigcancel f) s = .next t ∧ t.mem = s.mem ∧ t.iss = s.iss
        ∧ (t.core c).trig = Tab.del (s.core c).trig v)))
  ∧ (∀ (s : State) (f : FmtEM) (i : Instr),
  i ∈ [Instr.moncfgConfigure f, .moncfgSnapshot f, .moncfgSnapshotClear f, .moncfgStop f] → s.guard0 f.g = true →
  let c := s.iss.core
  let d := dieOf c
  let w := (s.readS f.c).toNat
  let op := w / 2 ^ 62 % 4
  let off := w % 2 ^ 20
  ((s.die d).monown.toNat / 2 ^ (4 * f.m) % 2 ^ 4 ≠ (s.core c).ident.part → raises i s privilegeViolation (BitVec.ofNat 64 f.m))
  ∧ ((s.die d).monown.toNat / 2 ^ (4 * f.m) % 2 ^ 4 = (s.core c).ident.part →
      (monBad w = true → raises i s addressRange (s.readS f.c))
      ∧ (monBad w = false →
          ((op = 1 ∨ op = 2) → 2 ^ 20 < off + 104 → raises i s addressRange (BitVec.ofNat 64 off))
          ∧ ((op = 1 ∨ op = 2) → off + 104 ≤ 2 ^ 20 → off % 8 ≠ 0 → raises i s misaligned (BitVec.ofNat 64 off))
          ∧ ((op = 1 ∨ op = 2) → off + 104 ≤ 2 ^ 20 → off % 8 = 0 → ∃ t, exec i s = .next t
              ∧ (t.core c).snap = some (f.m, off, op == 2) ∧ t.mem = s.mem ∧ t.iss = s.iss)
          ∧ (op = 0 → ∃ t, exec i s = .next t ∧ t.mem = s.mem ∧ t.iss = s.iss
              ∧ Tab.get Mon.reset (t.die d).mons f.m = { Mon.reset with cfg := BitVec.ofNat 64 (w % 2 ^ 62 / 2 ^ 20 * 2 ^ 20) })
          ∧ (op = 3 → ∃ t, exec i s = .next t ∧ t.mem = s.mem ∧ t.iss = s.iss
              ∧ Tab.get Mon.reset (t.die d).mons f.m = { Tab.get Mon.reset (s.die d).mons f.m with cfg := 0 }))))

/-- R5, R336, R339, R347: at level U the P-mode instructions raise PrivilegeViolation and do nothing. At level P, TLBINV
removes the translations of one page, of the partition on the die, or of the partition on the package's four dies, and no
other, or, while the island of a die it names is halted, waits at most WAITLIMIT and removes none; SLOTLD holds the core for
256 cycles, at the end of which it writes its status and, on success, gives the cluster the table; BUDDYSET records the
partner on success and gives its status after two bundles.
Where the rules leave it open it follows the model's reading in log entry 72. -/
def Obligations.PrivilegedTables : Prop :=
  (∀ (s : State) (i : Instr) (g : Nat),
    (∃ f : FmtEP, i ∈ [Instr.tlbinv f, .slotld f, .buddyset f] ∧ g = f.g) ∨ (∃ f : FmtEP0, i ∈ [Instr.tlbinvPart f, .tlbinvPkg f] ∧ g = f.g) →
    s.guard0 g = true → (s.core s.iss.core).ident.pl = false → raises i s privilegeViolation (s.wordTval i))
  ∧ (∀ (s : State) (f : FmtEP), s.guard0 f.g = true → (s.core s.iss.core).ident.pl = true →
    let c := s.iss.core
    let v := (s.readS f.a).toNat
    (2 ^ 48 ≤ v → raises (.tlbinv f) s addressRange (s.readS f.a))
    ∧ (v < 2 ^ 48 → s.dieOn (dieOf c) = false → waitsForRoom (.tlbinv f) s 18)
    ∧ (v < 2 ^ 48 → s.dieOn (dieOf c) = true → ∃ t, exec (.tlbinv f) s = .next t ∧ t.mem = s.mem ∧ t.iss = s.iss
        ∧ ∀ e, e ∈ (t.die (dieOf c)).tlb ↔ e ∈ (s.die (dieOf c)).tlb
            ∧ ¬ (e.part = (s.core c).ident.part ∧ e.va = v / 2 ^ 21 * 2 ^ 21 / 2 ^ e.size * 2 ^ e.size)))
  ∧ (∀ (s : State) (f : FmtEP0), s.guard0 f.g = true → (s.core s.iss.core).ident.pl = true →
    let c := s.iss.core
    let all := ∀ d, d / 4 = pkgOf c → s.dieOn d = true
    (s.dieOn (dieOf c) = false → waitsForRoom (.tlbinvPart f) s 18) ∧ (¬ all → waitsForRoom (.tlbinvPkg f) s 18)
    ∧ (s.dieOn (dieOf c) = true → ∃ t, exec (.tlbinvPart f) s = .next t ∧ t.mem = s.mem ∧ t.iss = s.iss
      ∧ ∀ d e, e ∈ (t.die d).tlb ↔ e ∈ (s.die d).tlb ∧ ¬ (d = dieOf c ∧ e.part = (s.core c).ident.part))
    ∧ (all → ∃ t, exec (.tlbinvPkg f) s = .next t ∧ t.mem = s.mem ∧ t.iss = s.iss
      ∧ ∀ d e, e ∈ (t.die d).tlb ↔ e ∈ (s.die d).tlb ∧ ¬ (d / 4 = pkgOf c ∧ e.part = (s.core c).ident.part)))
  ∧ (∀ (s : State) (f : FmtEP), s.guard0 f.g = true → (s.core s.iss.core).ident.pl = true →
    let c := s.iss.core
    let off := (s.readS f.a).toNat
    let w := s.iss.mem.readN (spmAddr c off) 8
    let cl := dieOf c * 16 + w / 2 ^ 20 % 16
    let tab := slotTableAt s.iss.mem (spmAddr c (w % 2 ^ 20))
    (2 ^ 20 < off + 16 → raises (.slotld f) s addressRange (s.readS f.a))
    ∧ (off + 16 ≤ 2 ^ 20 → off % 8 ≠ 0 → raises (.slotld f) s misaligned (s.readS f.a))
    ∧ (off + 16 ≤ 2 ^ 20 → off % 8 = 0 → w / 2 ^ 24 ≠ 0 → raises (.slotld f) s addressRange (s.readS f.a))
    ∧ (off + 16 ≤ 2 ^ 20 → off % 8 = 0 → w / 2 ^ 24 = 0 → ∃ t n, exec (.slotld f) s = .next t ∧ t.mem = s.mem
        ∧ t.iss.stall = max s.iss.stall 256 ∧ t.iss.defer = s.iss.defer ∧ t.clusters = s.clusters
        ∧ (t.core c).slotRun = some ⟨256, cl, spmAddr c off + 8, n, tab⟩
        ∧ (n = 0 ↔ (w % 2 ^ 20 % 8 = 0 ∧ w % 2 ^ 20 + 1024 ≤ 2 ^ 20 ∧ slotTableOk cl tab = true)
            ∧ s.ownsCluster (s.core c).ident.part cl = true ∧ s.lockedByOther cl (s.core c).ident.part = false)))
  ∧ (∀ (s : State) (c : Nat) (r : SlotRun), s.mem.wf = true →
    let t := s.slotStep c r
    (1 < r.left → t.mem = s.mem ∧ t.clusters = s.clusters ∧ (t.core c).slotRun = some { r with left := r.left - 1 })
    ∧ (r.left ≤ 1 → (t.core c).slotRun = none ∧ t.mem.readN r.at_ 8 = r.status % 2 ^ 64
      ∧ (∀ a, a < r.at_ ∨ r.at_ + 8 ≤ a → t.mem.read a = s.mem.read a)
      ∧ (r.status = 0 → (t.cluster r.cluster).slotsNext = some (s.clk.cycle, r.table)) ∧ (r.status ≠ 0 → t.clusters = s.clusters)))
  ∧ (∀ (s : State) (f : FmtEP), s.guard0 f.g = true → (s.core s.iss.core).ident.pl = true →
    let c := s.iss.core
    let l := (s.readS f.a).toNat
    let part := (s.core c).ident.part
    (4096 ≤ l → raises (.buddyset f) s addressRange (s.readS f.a))
    ∧ (l < 4096 → ∃ t n r, exec (.buddyset f) s = .next t ∧ t.mem = s.mem
        ∧ (t.ctx c s.iss.ctx).inflight = (s.ctx c s.iss.ctx).inflight ++ [r] ∧ r.reg = .s f.a ∧ r.val.setWidth 64 = BitVec.ofNat 64 n
        ∧ r.rem = 2 ∧ (s.logicalDie (pkgOf c) part l = none → n = 1) ∧ (s.logicalDie (pkgOf c) part l = some (dieOf c) → n = 3)
        ∧ (n = 0 → Tab.get 0 (t.die (dieOf c)).sched.partner part = BitVec.ofNat 64 (2 ^ 63 + l))
        ∧ (n ≠ 0 → (t.die (dieOf c)).sched.partner = (s.die (dieOf c)).sched.partner)))

/-- R227, R229, R242: MXCALL of a routine that passes the seven checks of R229, each spelled out, joins the queue of four with
SEQ, q0 to q7 as the m registers are read, and the routine's words; the first check that fails raises MicroprogramFault with
its number, the routine and the word; with four calls queued it waits. MXPROG writes consecutive store words or table entries
from the scratchpad, at level U only vendor entries excepted, and waits while calls are queued. R244 to R246: where no queued
call owns the tile, ZRD gives each enabled lane the FP32 of its element of the half row, ZWR gives the elements of the half
row the value of their enabled lane and leaves all other elements, and MXSTAT gives the tile's status, or the summary for 15,
and clears OVF, or FCODE and FSEQ, when CLR is set. On a tile that a call owns they raise AccumulatorBusy with that call,
MXSTAT only to clear.
Where the rules leave it open it follows the model's reading in log entry 21. -/
def Obligations.MatrixCallsAndTiles : Prop :=
  ((∀ (s : State) (f : FmtXC), s.guard0 f.g = true →
    let c := s.iss.core
    let m := (s.core c).mx
    let check := (s.core c).prog.check f.r (s.readM 6).toNat (s.readM 7).toNat
    (∀ n w, check = some (n, w) → raises (.mxcall f) s microprogramFault (BitVec.ofNat 64 (n * 2 ^ 16 + f.r * 2 ^ 10 + w)))
    ∧ (check = none → 4 ≤ m.calls.length → waitsForRoom (.mxcall f) s 10)
    ∧ (check = none → m.calls.length < 4 → ∃ t k, exec (.mxcall f) s = .next t ∧ (t.core c).mx.calls = m.calls ++ [k]
        ∧ (t.core c).mx.next = (m.next + 1) % 256 ∧ k.rout = f.r ∧ k.seq = m.next ∧ (∀ n, n < 8 → k.reg n = s.readM n)
        ∧ k.words.map (·.toNat) = (s.core c).prog.routine f.r ∧ k.idx = 0 ∧ k.loops = []
        ∧ k.after = s.depsFor c s.iss.ctx false ∧ k.opId = s.net.nextOp ∧ t.mem = s.mem ∧ t.iss = s.iss
        ∧ (t.core c).acc = (s.core c).acc ∧ (m.calls = [] → k.startAt = m.clock + 2)))
  ∧ (∀ (p : Prog) (r q6 q7 n w : Nat), p.check r q6 q7 = some (n, w) ↔
      checkFails p r q6 q7 n w ∧ ∀ m, m < n → ∀ v, ¬ checkFails p r q6 q7 m v)
  ∧ (∀ (s : State) (f : FmtXP), ∀ p ∈ [(Instr.mxprog f, 1024, 128, 0), (.mxprogTab f, 64, 8, 1)], s.guard0 f.g = true →
    let c := s.iss.core
    let a := (s.readS f.a).toNat
    let n := (s.readS f.b).toNat
    (f.idx < p.2.2.1 → n % 2 ^ 11 ≠ 0 → (s.core c).ident.pl = false → raises p.1 s privilegeViolation (s.wordTval p.1))
    ∧ ((p.2.2.1 ≤ f.idx ∨ n % 2 ^ 11 = 0 ∨ (s.core c).ident.pl = true) →
        (2 ^ 11 ≤ n → raises p.1 s addressRange (s.readS f.b))
        ∧ (n < 2 ^ 11 → p.2.1 < f.idx + n → raises p.1 s addressRange (s.readS f.b))
        ∧ (n < 2 ^ 11 → f.idx + n ≤ p.2.1 → 2 ^ 20 < a + 8 * n → raises p.1 s addressRange (s.readS f.a))
        ∧ (n < 2 ^ 11 → f.idx + n ≤ p.2.1 → a + 8 * n ≤ 2 ^ 20 → a % 8 ≠ 0 → raises p.1 s misaligned (s.readS f.a))
        ∧ (n < 2 ^ 11 → f.idx + n ≤ p.2.1 → a + 8 * n ≤ 2 ^ 20 → a % 8 = 0 → (s.core c).mx.calls ≠ [] → waitsForRoom p.1 s 10)
        ∧ (n < 2 ^ 11 → f.idx + n ≤ p.2.1 → a + 8 * n ≤ 2 ^ 20 → a % 8 = 0 → (s.core c).mx.calls = [] →
            ∃ t, exec p.1 s = .next t ∧ t.mem = s.mem ∧ t.iss.faults = s.iss.faults ∧ t.iss.stall = max s.iss.stall ((n + 7) / 8 - 1)
              ∧ (∀ j, p.2.2.2 = 0 → (t.core c).prog.word j = (if f.idx ≤ j ∧ j < f.idx + n
                  then BitVec.ofNat 64 (s.iss.mem.readN (spmAddr c (a + 8 * (j - f.idx))) 8) else (s.core c).prog.word j))
              ∧ (∀ j, p.2.2.2 = 1 → (t.core c).prog.entry j = (if f.idx ≤ j ∧ j < f.idx + n
                  then BitVec.ofNat 64 (entryBits (BitVec.ofNat 64 (s.iss.mem.readN (spmAddr c (a + 8 * (j - f.idx))) 8)).toNat)
                  else (s.core c).prog.entry j))))))
  ∧ (∀ (s : State),
  let c := s.iss.core
  let m := (s.core c).mx
  let a := (s.core c).acc
  let busyVal := fun (k : Call) (t : Nat) => BitVec.ofNat 64 (k.seq * 2 ^ 16 + k.rout * 2 ^ 8 + t)
  (∀ f : FmtXZ, s.guardMask f.g ≠ 0 →
    (∀ k, m.owner f.tile = some k → raises (.zrd f) s accumulatorBusy (busyVal k f.tile) ∧ raises (.zwr f) s accumulatorBusy (busyVal k f.tile))
    ∧ (m.owner f.tile = none → ∃ v fl, exec (.zrd f) s = .next (s.pushV f.v v (s.guardMask f.g) fl 8)
        ∧ ∀ n, n < 64 → (s.guardMask f.g).getLsbD n = true →
            elemOf 32 v n = (fpFromAcc fp32 ((a.row f.tile f.row).getD (64 * f.h + n) ⟨0, false⟩) (a.grid f.tile) (f.fz == 1)).1 % 2 ^ 32)
    ∧ (m.owner f.tile = none → ∀ v fl, exec (.zrd f) s = .next (s.pushV f.v v (s.guardMask f.g) fl 8) → ∀ b, b < 5 →
        (fl.getLsbD b = true ↔ ∃ n, n < 64 ∧ (s.guardMask f.g).getLsbD n = true
          ∧ (fpFromAcc fp32 ((a.row f.tile f.row).getD (64 * f.h + n) ⟨0, false⟩) (a.grid f.tile) (f.fz == 1)).2.getLsbD b = true))
    ∧ (m.owner f.tile = none → f.h < 2 → f.row < 32 → ∃ t, exec (.zwr f) s = .next t ∧ t.mem = s.mem
        ∧ (∀ i, i < 128 → ((t.core c).acc.row f.tile f.row).getD i ⟨0, false⟩ =
            (if i / 64 = f.h ∧ (s.guardMask f.g).getLsbD (i % 64) = true
              then (accFromF32 (lane (vecVal (s.vecOperands [f.v]).2 f.v) (i % 64)).toNat (a.grid f.tile) (f.fz == 1)).1
              else (a.row f.tile f.row).getD i ⟨0, false⟩))
        ∧ (∀ u r, r < 32 → ¬ (u = f.tile ∧ r = f.row) → (t.core c).acc.row u r = a.row u r)
        ∧ (t.core c).acc.g = a.g ∧ (a.over f.tile = true → (t.core c).acc.over f.tile = true)
        ∧ (∀ u, u ≠ f.tile → (t.core c).acc.over u = a.over u)))
  ∧ (∀ f : FmtXS, s.guard0 f.g = true →
    let busy := if f.tile = 15 then m.calls.head? else m.owner f.tile
    (∀ k, busy = some k → f.clr = 1 → raises (.mxstat f) s accumulatorBusy (busyVal k f.tile))
    ∧ (f.clr = 0 → exec (.mxstat f) s = .next (s.pushS f.d (if f.tile = 15 then (s.core c).mxSummary else (s.core c).tileStatus f.tile) 0 2))
    ∧ (busy = none → f.clr = 1 → ∃ t r, exec (.mxstat f) s = .next t ∧ t.mem = s.mem
        ∧ (t.ctx c s.iss.ctx).inflight = (s.ctx c s.iss.ctx).inflight ++ [r] ∧ r.reg = .s f.d ∧ r.rem = 2
        ∧ r.val.setWidth 64 = (if f.tile = 15 then (s.core c).mxSummary else (s.core c).tileStatus f.tile)
        ∧ (f.tile = 15 → (t.core c).mx.fcode = 0 ∧ (t.core c).mx.fseq = 0 ∧ (t.core c).acc = a)
        ∧ (f.tile ≠ 15 → (t.core c).acc.over f.tile = false ∧ (t.core c).acc.rows = a.rows ∧ (t.core c).acc.g = a.g
            ∧ (∀ u, u ≠ f.tile → (t.core c).acc.over u = a.over u)))))

/-- R233, R235 to R237: micro-operations that take one cycle. WSWAP exchanges the latches once no WLD or AST is in progress;
ZCLR clears a tile's elements and OVF and ZGRID sets its grid once nothing is being added to it or read from it; MLOOP with a
count enters its body and with 0 goes past its MEND; MEND goes back while passes remain; MINC adds to a call register; MARRIVE
arrives on its barrier; MWAIT goes on at its phase; MRET, or a MARRIVE of W = 1 right before it, releases the call, once all
it started is complete. R209, R231, R233 to R235: WLD, AST and ZCVT start once their unit is free, from a call register's base
or a handle's: WLD makes the shadow latch invalid, AST needs a valid active latch, ZCVT waits for what is being added to its
tile and for bytes that an earlier ZCVT has still to write, and each is in progress from then on with the format, the tile,
the rows, the address and the strides its fields and its call registers give; a ZCVT whose STR is 0 puts its rows side by
side, and an SSTR of 0 counts as 1. The order of a call's release and of overlapping ZCVTs is the model's choice in log entry
54, and what follows an engine error its choice in log entry 25. -/
def Obligations.MicroOperations : Prop :=
  (∀ (s : State) (c : Nat) (k : Call) (l : List Call), runsCall s c k l →
  let m := (s.core c).mx
  let a := (s.core c).acc
  let q := fun n => (k.reg n).toNat
  (m.quiet = true → ∃ t, exec .mret s = .next t ∧ (t.core c).mx.calls = l
      ∧ k.opId ∉ t.net.live ∧ t.mem = s.mem ∧ (t.core c).acc = a)
  ∧ (m.busy 1 = false → m.busy 3 = false → ∃ t, exec .wswap s = .next t ∧ callAt t c k l (k.idx + 1) ∧ (t.core c).mx.active = m.shadow
      ∧ (t.core c).mx.shadow = m.active ∧ (t.core c).acc = a ∧ t.mem = s.mem)
  ∧ ((m.busy 1 = true ∨ m.busy 3 = true) → exec .wswap s = .next s)
  ∧ (∀ f : FmtUT, let u := tileOf (q 6) f.tile
      m.adding u = false → m.reading u = false → ∃ t, exec (.zclr f) s = .next t ∧ callAt t c k l (k.idx + 1) ∧ tileClear (t.core c).acc u
        ∧ (∀ v r, v ≠ u → r < 32 → (t.core c).acc.row v r = a.row v r) ∧ (∀ v, v ≠ u → (t.core c).acc.over v = a.over v)
        ∧ (t.core c).acc.g = a.g ∧ t.mem = s.mem)
  ∧ (∀ f : FmtUG, let u := tileOf (q 6) f.tile
      m.adding u = false → m.reading u = false → ∃ t, exec (.zgrid f) s = .next t ∧ callAt t c k l (k.idx + 1)
        ∧ (t.core c).acc.grid u = (BitVec.ofNat 11 (if f.gq = 1 then q f.q else f.gexp)).toInt
        ∧ (∀ v, v ≠ u → (t.core c).acc.grid v = a.grid v) ∧ (t.core c).acc.rows = a.rows ∧ t.mem = s.mem)
  ∧ (∀ f : FmtUL, let n := if f.cq = 1 then q f.q % 2 ^ 32 else f.cnt
      (0 < n → ∃ t, exec (.mloop f) s = .next t ∧ (t.core c).mx.calls = { k with idx := k.idx + 1, loops := (k.idx + 1, n) :: k.loops } :: l)
      ∧ (n = 0 → ∃ t, exec (.mloop f) s = .next t ∧ callAt t c k l (afterMend 0 (k.idx + 1) (k.words.drop (k.idx + 1)))))
  ∧ (∀ b n r, k.loops = (b, n) :: r →
      (1 < n → ∃ t, exec .mend s = .next t ∧ (t.core c).mx.calls = { k with idx := b, loops := (b, n - 1) :: r } :: l)
      ∧ (n ≤ 1 → ∃ t, exec .mend s = .next t ∧ (t.core c).mx.calls = { k with idx := k.idx + 1, loops := r } :: l))
  ∧ (∀ f : FmtUI, ∃ t, exec (.minc f) s = .next t ∧ t.mem = s.mem ∧ (t.core c).m = (s.core c).m ∧ ∃ k', (t.core c).mx.calls = k' :: l ∧ k'.idx = k.idx + 1
      ∧ ∀ n, k'.reg n = (if n = f.q then k.reg f.q + (BitVec.ofNat 32 f.imm).signExtend 64 else k.reg n))
  ∧ (∀ f : FmtUR, f.w = 0 → m.busy 1 = false → m.busy 3 = false → ∃ t, exec (.marrive f) s = .next t ∧ callAt t c k l (k.idx + 1)
      ∧ ((s.core c).trig = [] → t.mem = (s.arrive c (barOf (q 7) f.bq f.bar) f.inc).mem))
  ∧ (∀ f : FmtUR, f.w ≠ 0 → m.quiet = true → k.words.getD (k.idx + 1) 1 ≠ 0 → ∃ t, exec (.marrive f) s = .next t
      ∧ callAt t c k l (k.idx + 1) ∧ ((s.core c).trig = [] → t.mem = (s.arrive c (barOf (q 7) f.bq f.bar) f.inc).mem))
  ∧ (∀ f : FmtUR, f.w ≠ 0 → m.quiet = true → k.words.getD (k.idx + 1) 1 = 0 → ∃ t, exec (.marrive f) s = .next t
      ∧ (t.core c).mx.calls = l
      ∧ ((s.core c).trig = [] → k.opId ∉ t.net.live ∧ t.mem = (s.arrive c (barOf (q 7) f.bq f.bar) f.inc).mem))
  ∧ (∀ f : FmtUR, (f.w = 0 → m.busy 1 = true ∨ m.busy 3 = true) → (f.w ≠ 0 → m.quiet = false) → exec (.marrive f) s = .next s)
  ∧ (∀ f : FmtUM, let w := s.barWord s.mem c (barOf (q 7) f.bq f.bar)
      w / 2 ^ 26 % 2 = 0 →
      ((w / 2 ^ 24 % 2 = 1 ↔ f.ph = 1) → ∃ t, exec (.mwait f) s = .next t ∧ callAt t c k l (k.idx + 1) ∧ t.mem = s.mem)
      ∧ (¬ (w / 2 ^ 24 % 2 = 1 ↔ f.ph = 1) → m.waits = [] → ∃ t, exec (.mwait f) s = .next t ∧ (t.core c).mx.calls = m.calls
          ∧ (t.core c).mx.waits = [⟨5, 5, 0, 0, m.live, s.waitLimit c⟩] ∧ t.mem = s.mem)))
  ∧ (∀ (s : State) (c : Nat) (k : Call) (l : List Call), runsCall s c k l →
  let m := (s.core c).mx
  let q := fun n => (k.reg n).toNat
  (∀ f : FmtUW, m.busy 1 = true → exec (.wld f) s = .next s)
  ∧ (∀ f : FmtUW, m.busy 1 = false →
    let fm := if f.fm = 15 then q 7 % 2 ^ 4 else f.fm
    let scl := (((q f.qs : Int) + (BitVec.ofNat 20 f.soff).toInt) % 2 ^ 64).toNat
    fromBase s c k f.sel (.wld f) fun r base lo hi t => callAt t c k l (k.idx + 1) ∧ ∃ u, uopStarted t s c k u ∧ u.kind = 1
      ∧ u.base = (((base : Int) + (BitVec.ofNat 20 f.off).toInt) % 2 ^ 64).toNat ∧ u.lo = lo ∧ u.hi = hi ∧ u.fm = fm ∧ u.scl = scl
      ∧ u.rows = (if fm = 1 then 64 else if fm = 2 then 256 else 128)
      ∧ u.fz = (f.fzi == 1) ∧ (t.core c).mx.shadow = { m.shadow with valid := false } ∧ (t.core c).mx.active = m.active ∧ t.mem = r.mem)
  ∧ (∀ f : FmtUA, let u0 := tileOf (q 6) f.tile
    (m.busy 3 = true ∨ m.reading u0 = true → exec (.ast f) s = .next s)
    ∧ (m.busy 3 = false → m.reading u0 = false → m.active.valid = true → fromBase s c k f.sel (.ast f) fun r base lo hi t =>
      callAt t c k l (k.idx + 1) ∧ ∃ u, uopStarted t s c k u ∧ u.kind = 3 ∧ u.tile = u0
      ∧ u.row0 = (if f.nrows = 0 then q 7 / 2 ^ 27 % 2 ^ 5 else f.row0) ∧ u.rows = (if f.nrows = 0 then q 7 / 2 ^ 21 % 2 ^ 6 else f.nrows)
      ∧ u.fm = (if f.fm = 15 then q 7 / 2 ^ 4 % 2 ^ 4 else f.fm) ∧ u.str = q f.qd / 2 ^ 20 % 2 ^ 12 ∧ u.sstr = q f.qd / 2 ^ 52 % 2 ^ 12
      ∧ u.scl = q f.qd % 2 ^ 20 ∧ u.idxo = q f.qd / 2 ^ 32 % 2 ^ 20 ∧ u.lo = lo ∧ u.hi = hi ∧ u.fz = (f.fzi == 1)
      ∧ u.base = (((base : Int) + 64 * (BitVec.ofNat 16 f.off).toInt) % 2 ^ 64).toNat ∧ u.mark = (f.gath == 1) ∧ t.mem = r.mem))
  ∧ (∀ f : FmtUA, m.busy 3 = false → m.reading (tileOf (q 6) f.tile) = false → m.active.valid = false → m.quiet = true →
      ∃ t, exec (.ast f) s = .next t ∧ (t.core c).mx.calls = [] ∧ (t.core c).mx.fcode = 3 ∧ (t.core c).mx.fseq = k.seq)
  ∧ (∀ f : FmtUC, let u0 := tileOf (q 6) f.tile
    let d := q f.qd
    let rows := if f.nrows = 0 then q 7 / 2 ^ 21 % 2 ^ 6 else f.nrows
    let fm := if f.tgt = 15 then q 7 / 2 ^ 8 % 2 ^ 4 else f.tgt
    let base := (((q (f.sel % 8) : Int) + 64 * (BitVec.ofNat 16 f.off).toInt) % 2 ^ 64).toNat
    let lines := if fm = 0 then 8 else if fm = 1 then 4 else 2
    let str := if d / 2 ^ 20 % 2 ^ 12 = 0 then lines else d / 2 ^ 20 % 2 ^ 12
    let sstr := max 1 (d / 2 ^ 52 % 2 ^ 12)
    let writes := fun (a n : Nat) => ∃ i, i < rows ∧ ((a, n) = ((base + 64 * str * i) % 2 ^ 64, 64 * lines)
      ∨ (fm = 2 ∧ (a, n) = (d % 2 ^ 20 + 8 * sstr * i, 8)))
    let overlaps := ∃ v ∈ m.uops, v.kind = 6 ∧ ∃ p ∈ v.outs, ∃ a n, writes a n ∧ p.1 < a + n ∧ a < p.1 + p.2
    (m.adding u0 = true ∨ overlaps → exec (.zcvt f) s = .next s)
    ∧ (m.adding u0 = false → ¬ overlaps → ∃ t u, exec (.zcvt f) s = .next t ∧ callAt t c k l (k.idx + 1) ∧ uopStarted t s c k u
      ∧ u.kind = 6 ∧ u.tile = u0 ∧ u.row0 = (if f.nrows = 0 then q 7 / 2 ^ 27 % 2 ^ 5 else f.row0)
      ∧ u.rows = rows ∧ u.fm = fm ∧ u.base = base ∧ u.str = str ∧ u.sstr = sstr ∧ u.scl = d % 2 ^ 20 ∧ u.fz = (f.fzo == 1)
      ∧ u.mark = (f.tag == 1) ∧ t.mem = s.mem)))

/-- R81 to R83, R234, R238: a contribution is added exactly and clamped to 128 bits, which sets OVF; one from an invalid block
makes the element INV. The contribution T of a block to a column is the exact sum of its 32 products times the two scales over
2^G, rounded to the nearest whole number, ties to even; a row of an AST makes those of its 128 columns and four blocks. A
cycle of the matrix engine at the nominal rate moves its clock by one and adds the contributions whose cycle has passed, and
nothing else changes the accumulator.
Where the rules leave it open it follows the model's reading in log entry 54. -/
def Obligations.MatrixCycle : Prop :=
  (∀ (e : AccEl) (o : Bool) (v : Int), -(2 ^ 127) ≤ e.a → e.a < 2 ^ 127 →
    (contribute (e, o) none = (⟨e.a, true⟩, o))
    ∧ (contribute (e, o) (some v)).1.inv = e.inv
    ∧ (contribute (e, o) (some v)).1.a = max (-(2 ^ 127)) (min (2 ^ 127 - 1) (e.a + v))
    ∧ (contribute (e, o) (some v)).2 = (o || decide (e.a + v < -(2 ^ 127) ∨ 2 ^ 127 ≤ e.a + v)))
  ∧ (∀ (s : State) (c : Nat), s.clk.args = [c] → (s.core c).mx.awake = true → (s.core c).stat.stopped = false →
    (s.core c).stat.dead = false → s.frac (pkgOf c) (2 * (c % 512) + 1) = 64 →
    ∃ t, exec .microopComplete s = .next t ∧ (t.core c).mx.clock = (s.core c).mx.clock + 1
      ∧ (t.core c).acc = ((s.core c).mx.flows.filter fun f => decide (f.due ≤ (s.core c).mx.clock)).foldl Acc.add (s.core c).acc)
  ∧ (∀ (s : State) (c : Nat), s.clk.args = [c] → (s.core c).mx.awake = false → exec .microopComplete s = .next s)
  ∧ (∀ (g : Int) (act : List Int × List (Nat × Int × Bool)) (col : List Int) (sc : List (Nat × Int × Bool)) (j : Nat), j < 4 →
    let x := act.2.getD j (0, 0, true)
    let w := sc.getD j (0, 0, true)
    let sum := ∑ i ∈ Finset.range 32, act.1.getD (32 * j + i) 0 * col.getD (32 * j + i) 0
    let r := (columnAdds g act col sc).getD j none
    ((x.2.2 = true ∨ w.2.2 = true) → r = none)
    ∧ (x.2.2 = false → w.2.2 = false →
        ∃ n, r = some n ∧ nearestEven ((sum * x.1 * w.1 : Int) * (2 : ℚ) ^ (x.2.1 + w.2.1 - g)) n))
  ∧ (∀ (s : State) (c i : Nat) (u : Uop), u.mark = false → u.grans = [] → s.mem.wf = true → (s.callMem c u.seq) = s.mem →
    let m := (s.core c).mx
    let row := (((u.base : Int) + (64 * u.str * i : Nat)) % 2 ^ 64).toNat
    let act := vectorIn u.fm u.fz (s.mem.bytes (spmAddr c row) (rowBytes u.fm))
      (if u.fm ≤ 1 then s.mem.bytes (spmAddr c (u.scl + 8 * u.sstr * i)) 8 else [])
    ∃ f, ((s.enterRow c u i).core c).mx.flows = m.flows ++ [f] ∧ f.tile = u.tile ∧ f.row = u.row0 + i ∧ f.due = m.clock + 135
      ∧ (s.enterRow c u i).mem = s.mem ∧ ((s.enterRow c u i).core c).acc = (s.core c).acc
      ∧ ∀ n, n < m.active.cols.length → n < m.active.scales.length →
          f.adds.getD n [] = columnAdds ((s.core c).acc.grid u.tile) act (m.active.cols.getD n []) (m.active.scales.getD n []))

/-- R32, R34 to R40: what a Chord's turn does once its next bundle is decided. An attached core with an empty queue whose next
address is another leaves the stream, the leader that decided apart, which goes on with the decision; with no core left the
Chord is idle. A bundle without a JOIN.W that holds goes, as the next number, into the queue of every attached core that is
left, two cycles from issue, and the cores of its node that wait at its JOIN re-attach. A JOIN.W that holds multicasts nothing,
and neither does a Chord one of whose attached cores has 16 bundles queued, or whose line's place is held. An idle Chord with a
waiting core and no attached one starts again at the lowest waiting core's bundle with that core's loops, as the Chord of its
node; a hold that has lasted longer than its limit traps the leader.
That a leader whose own next address differs stays attached and goes on with the decision is the model's choice in log entry 58;
where the rules leave it open otherwise it follows the model's reading in log entries 55 and 56. -/
def Obligations.ChordEvents : Prop := ∀ (s : State) (cl : Nat), s.clk.args = [cl] →
  let h := (s.cluster cl).chord
  let q := s.meetAll cl
  let l := q.lineOf h.lines (q.chordPart cl) cl h.pc
  let i := controlSlot l h.pc
  let held := (h.lines.any fun e => e.1 == h.pc % 2 ^ 24 / 64 * 64) = false ∧ q.lineWaits (q.chordPart cl) cl h.pc = true
  let room := ∀ c ∈ q.attachedCores cl, (q.core c).fetch.queue.length < 16
  (s.chordReady cl = false → exec .chordMulticast s = .next s)
  ∧ (∀ c ∈ s.attachedCores cl, let f := (s.core c).fetch
    let away := s.resolve c (s.ctx c 0).pc ≠ h.pc
    (f.queue ≠ [] → q.core c = s.core c)
    ∧ (f.queue = [] → f.fresh = true → (q.ctx c 0).pc = h.pc ∧ (q.core c).ident.mode = 0)
    ∧ (f.queue = [] → f.fresh = false → (s.core c).inStream = true →
        (¬ away → q.core c = s.core c)
        ∧ (away → h.lead = some c → (q.ctx c 0).pc = h.pc ∧ (q.core c).ident.mode = 0 ∧ (q.core c).fetch = f)
        ∧ (away → h.lead ≠ some c → (q.core c).ident.mode = 1 ∧ (q.core c).fetch.queue = [] ∧ (q.ctx c 0).pc = (s.ctx c 0).pc)))
  ∧ (s.chordReady cl = true → h.restarted = false → h.decided = true →
    ((q.cluster cl).chord.on = false ∨ held → exec .chordMulticast s = .next q)
    ∧ ((q.cluster cl).chord.on = true → (∀ k, joinOf i = some (k, true) → q.joinHeld cl k = false) → ¬ room →
      exec .chordMulticast s = .next q)
    ∧ ((q.cluster cl).chord.on = true → (∀ k, joinOf i = some (k, true) → q.joinHeld cl k = false) → ¬ held → room →
      ∃ t, exec .chordMulticast s = .next t ∧ t.mem = s.mem
      ∧ (t.cluster cl).chord.num = h.num + 1 ∧ (t.cluster cl).chord.last = h.pc ∧ (t.cluster cl).chord.decided = false
      ∧ (∀ c ∈ q.attachedCores cl, (t.core c).ident.mode = 0
          ∧ (t.core c).fetch.queue = (q.core c).fetch.queue ++ [⟨h.pc, l, s.clk.cycle + 2, h.num + 1, h.lead⟩])
      ∧ (∀ c ∈ q.waitingCores cl, ∀ k w, joinOf i = some (k, w) → (q.ctx c 0).run.join = some k →
          (t.core c).ident.mode = 0 ∧ (t.ctx c 0).run.join = none ∧ (t.ctx c 0).pend = []))
    ∧ (∀ k, (q.cluster cl).chord.on = true → ¬ held → joinOf i = some (k, true) → q.joinHeld cl k = true → ∃ t,
        exec .chordMulticast s = .next t ∧ t.cores = q.cores
        ∧ t.mem = s.mem ∧ (t.cluster cl).chord.num = h.num ∧ (t.cluster cl).chord.pc = h.pc))
  ∧ (∀ c r, s.restartCores cl = c :: r → s.attachedCores cl = [] → h.on = false → h.frozen = false → h.stopped = false →
      ∃ t, exec .chordRestart s = .next t ∧ t.cores = s.cores ∧ t.mem = s.mem ∧ (t.cluster cl).chord.on = true
        ∧ (t.cluster cl).chord.pc = s.resolve c (s.ctx c 0).pc ∧ (t.cluster cl).chord.l0 = (s.ctx c 0).l0
        ∧ (t.cluster cl).chord.l1 = (s.ctx c 0).l1 ∧ (t.cluster cl).chord.node = (s.core c).ident.node
        ∧ (t.cluster cl).chord.home = (s.core c).ident.home)
  ∧ (∀ k c start limit, h.wait = .joinW k c start limit → h.on = true → s.leader cl = some c → limit < (s.core c).stat.live - start →
      (s.core c).fetch.queue = [] → (s.ctx c 0).cap = none → ∃ t, exec .chordJoinTimeout s = .next t
        ∧ (t.ctx c 0).csr.tcause = joinTimeout ∧ (t.ctx c 0).csr.tval = BitVec.ofNat 64 (s.joinMissing cl k)
        ∧ (t.ctx c 0).csr.tpc = h.pc % 2 ^ 24 ∧ (t.ctx c 0).pc = (s.core c).csr.tvec ∧ (t.core c).ident.pl = true ∧ t.mem = s.mem)

/-- R274 to R276, R278, R280, R283: a BTE's turns. The eligible command with the earliest time takes a free slot, and waits
there first where it has a handle (a command whose first read must wait stays where it is); a waiting fill claims a FREE
handle, and one that has waited longer than its limit fails with code 6; a piece, which ends at a destination line's end,
moves its bytes and no others; a command with no piece left makes its handle FULL, arrives on its barrier and leaves its slot.
Where the rules leave it open it follows the model's reading in log entry 8. -/
def Obligations.BteEvents : Prop :=
  (∀ (s : State) (cl : Nat), s.clk.args = [cl] →
    let b := (s.cluster cl).bte
    let all := b.buffer ++ b.coming.filter fun m => decide (m.enterAt ≤ s.clk.cycle)
    let l := all.filter (s.eligible cl)
    ((∀ i, i < 8 → (Tab.find b.slots i).isSome = true) ∨ l = [] → ∃ t, exec .bteRelease s = .next t ∧ t.mem = s.mem
      ∧ (t.cluster cl).bte.slots = b.slots ∧ (t.cluster cl).bte.buffer = all)
    ∧ (l ≠ [] → (∃ i, i < 8 ∧ Tab.find b.slots i = none) → ∃ t m i, exec .bteRelease s = .next t ∧ m ∈ l ∧ (∀ x ∈ l, m.time ≤ x.time)
        ∧ i < 8 ∧ Tab.find b.slots i = none
        ∧ (m.kind ≠ 3 ∨ m.handle ≠ none ∨ m.ckpt = true → (t.cluster cl).bte.buffer = all.filter fun x => x.opId != m.opId)
        ∧ (m.kind = 3 → t = s ∨ (t.cluster cl).bte.buffer = all.filter fun x => x.opId != m.opId)
        ∧ (m.handle ≠ none → Tab.find (t.cluster cl).bte.slots i =
            some { m with relAt := s.clk.cycle, limit := s.cmdLimit m, phase := 1, waited := 0 })
        ∧ (m.handle = none → m.ckpt = false → m.kind ≠ 3 → Tab.find (t.cluster cl).bte.slots i =
            some { m with relAt := s.clk.cycle, limit := s.cmdLimit m, phase := 2, waited := 0 })))
  ∧ (∀ (s : State) (cl i : Nat) (m : Cmd), s.mem.wf = true → s.clk.args = [cl, i] → s.bteSlot cl i = some m →
    (∀ a, m.handleAt = some a → m.phase = 1 → hBad (s.mem.readN a 8) = false →
      (hState (s.mem.readN a 8) ≠ 0 → ∃ t, exec .handleFillClaim s = .next t ∧ t.mem = s.mem ∧ t.net = s.net ∧ t.cores = s.cores
        ∧ t.clusters = s.clusters)
      ∧ (hState (s.mem.readN a 8) = 0 → m.ckpt = false → m.kind ≠ 3 → ∃ t, exec .handleFillClaim s = .next t
          ∧ t.mem.readN a 8 = 2 ^ 62 + s.mem.readN a 8 ∧ (∀ x, x < a ∨ a + 8 ≤ x → t.mem.read x = s.mem.read x)
          ∧ t.bteSlot cl i = some { m with phase := 2 }))
    ∧ (∀ a c, m.handleAt = some a → m.by_.core = some c → m.phase = 1 → hBad (s.mem.readN a 8) = true → m.bar = none →
        (s.die m.by_.die).efq.length < 256 → ∃ t r, exec .handleFillClaim s = .next t ∧ t.bteSlot cl i = none ∧ m.opId ∉ t.net.live
          ∧ t.mem = s.mem ∧ (t.die m.by_.die).efq = (s.die m.by_.die).efq ++ [r] ∧ r.w0.toNat / 2 ^ 48 = 256 + 5)
    ∧ (∀ c, m.by_.core = some c → m.phase = 1 → (s.die m.by_.die).efq.length < 256 →
        (m.waited + 1 ≤ m.limit → ∃ t, exec .bteHandleTimeout s = .next t ∧ t.bteSlot cl i = some { m with waited := m.waited + 1 }
          ∧ t.mem = s.mem ∧ t.net = s.net ∧ t.cores = s.cores ∧ t.dies = s.dies)
        ∧ (m.limit < m.waited + 1 → m.bar = none → ∃ t r, exec .bteHandleTimeout s = .next t ∧ t.bteSlot cl i = none
            ∧ m.opId ∉ t.net.live ∧ t.mem = s.mem ∧ (t.die m.by_.die).efq = (s.die m.by_.die).efq ++ [r]
            ∧ r.w0.toNat / 2 ^ 48 = 256 + 6))
    ∧ (∀ c, m.by_.core = some c → m.by_.hide = [] → m.phase = 2 → m.row < m.shape.rows → m.shape.rowb ≠ 0 → m.chunk = none → m.kind ≠ 3 →
        m.by_.die / 4 < packages → (s.part (m.by_.die / 4) m.by_.part).ctl.state ≠ 3 → (s.core c).stat.stopped = false →
        s.clusterOn (c / 8) = true →
        let n := min (m.shape.rowb - m.off) (64 - m.dstAt % 64)
        m.off < m.shape.rowb → m.srcAt + n ≤ 2 ^ 20 → m.dstAt + n ≤ 2 ^ 20 →
        ∃ t, exec .btePieceWrite s = .next t
          ∧ (∀ k, k < n → t.mem.read (spmAddr c (m.dstAt + k)) = s.mem.read (spmAddr c (m.srcAt + k)))
          ∧ (∀ x, x < spmAddr c m.dstAt ∨ spmAddr c m.dstAt + n ≤ x → t.mem.read x = s.mem.read x)
          ∧ (m.tag = false → t.tags = s.tags) ∧ (m.tag = true → ∀ k, k < n → t.tagFull c (m.dstAt + k) = true)
          ∧ t.bteSlot cl i = some (if m.off + n < m.shape.rowb then { m with off := m.off + n, sentAt := 0 }
            else { m with row := m.row + 1, off := 0, sentAt := 0 }))
    ∧ (m.phase = 2 → (m.shape.rows ≤ m.row ∨ m.shape.rowb = 0) → ∃ t, exec .bteCommandComplete s = .next t ∧ t.bteSlot cl i = none
        ∧ m.opId ∉ t.net.live
        ∧ (∀ c, m.by_.core = some c → m.handle = none → (s.core c).trig = [] → ∀ k, m.bar = some k → t.mem = (s.arrive c k m.inc).mem)
        ∧ (∀ a, m.handleAt = some a → m.bar = none → t.mem.readN a 8 = 2 * 2 ^ 62 + s.mem.readN a 8 % 2 ^ 62)))

/-- R284, R286, R287, R355, R356, R359: arrivals that are due and whose operations are complete are applied, those of bundle
boundaries by slot and then the engines', and no others; as the next cycle begins, after every arrival of its own cycle, a
BARINIT writes MODE, T and, in mode 1, the shares, clears word 1 and every other bit, and cancels the barrier's triggers, which
is the model's choice in log entry 87. The first command of a die's stack-engine queue that has
not started starts once its fence is met; each of the two engines does its part of one row of a command in progress a turn: of
GATHER, SCATADD, ROWSUM and CONVERT the pieces or elements of the table that its own stack holds, with their flags; an error
completes the command with ERR; and once both parts are done the status word is written and the arrival made. R288, R291,
R292, R333, R335: a read stream that may fetch takes its next 256 bytes behind the entries it holds; a write stream writes the
elements of one of the entries whose fence is met at their places in its walk and no other byte, and keeps the other entries;
a page walk that finds no leaf changes no register, memory or translation, and one that finds an ordinary page enters its
translation and leaves memory. R392, R410: an event one of whose accesses has to wait changes nothing.
Where the rules leave it open it follows the model's reading in log entries 8, 27 and 69. -/
def Obligations.ArrivalsStacksStreamsWalks : Prop :=
  (∀ (s : State) (c : Nat), s.mem.wf = true → s.clk.args = [c] →
    let ready := fun (a : PendArrive) => decide (a.due ≤ s.clk.cycle) && a.after.all fun i => !s.net.live.contains i
    let l := (s.core c).arrives.filter ready
    ∃ t, exec .arriveApply s = .next t
      ∧ ((s.core c).trig = [] → (t.core c).arrives = (s.core c).arrives.filter (fun a => !ready a)
        ∧ (l = [] → t.mem = s.mem)
        ∧ (∀ a, l = [a] → a.opId ∉ t.net.live ∧
            let p := s.barAddr c a.bar
            let r := arriveWords (s.mem.readN p 8) (s.mem.readN (p + 8) 8) a.inc
            t.mem = (s.mem.writeN p 8 r.1).writeN (p + 8) 8 r.2.1)
        ∧ (∀ a b, l = [a, b] → t.mem = (if a.slot ≤ b.slot then (s.arrive c a.bar a.inc).arrive c b.bar b.inc
            else (s.arrive c b.bar b.inc).arrive c a.bar a.inc).mem)))
  ∧ (∀ (s : State) (c : Nat) (i : BarInit), s.mem.wf = true → (s.core c).inits = [i] → i.old = none →
    (∀ e ∈ s.cores, e.2.snap = none ∧ (e.1 ≠ c → e.2.inits = [])) → s.net.fops = [] →
    let t := s.newCycle
    let p := i.addr
    let v := i.word.toNat
    t.mem.readN p 8 = (if v / 2 ^ 25 % 2 = 1 then v / 2 ^ 32 * 2 ^ 32 + 2 ^ 25 else 0) + v % 2 ^ 24
    ∧ t.mem.readN (p + 8) 8 = 0 ∧ (∀ x, x < p ∨ p + 16 ≤ x → t.mem.read x = s.mem.read x)
    ∧ (t.core c).trig = (s.core c).trig.filter (fun e => e.2.bar != i.bar)
    ∧ ∀ e ∈ (s.core c).trig, e.2.bar = i.bar → e.2.opId ∉ t.net.live)
  ∧ (∀ (s : State) (d : Nat) (m : SeCmd), s.clk.args = [d] → (s.die d).se.find? (fun m => !m.running) = some m →
    ((∀ i ∈ m.after, i ∉ s.net.live) → ∃ t, exec .seCommandStart s = .next t ∧ t.mem = s.mem
      ∧ (t.die d).se = (s.die d).se.map fun q => if q.opId = m.opId then { q with running := true } else q)
    ∧ ((∃ i ∈ m.after, i ∈ s.net.live) → exec .seCommandStart s = .next s))
  ∧ (∀ (s : State) (d : Nat) (m : SeCmd), s.clk.args = [d] → (s.die d).se.find? (fun m => m.running && decide (m.count ≤ m.done)) = some m →
    ∀ c, m.by_.core = some c → ∃ t, exec .seCommandComplete s = .next t
        ∧ (t.die d).se = (s.die d).se.filter (fun q => q.opId != m.opId) ∧ m.opId ∉ t.net.live
        ∧ (m.bar = none → t.mem = s.mem.writeN (spmAddr c m.status) 8 (m.done * 2 ^ 32 + m.flags.toNat))
        ∧ (∀ k, m.bar = some k → (s.core c).trig = [] → t.mem =
            (({ s with mem := s.mem.writeN (spmAddr c m.status) 8 (m.done * 2 ^ 32 + m.flags.toNat) } : State).arrive c k m.inc).mem))
  ∧ (∀ (s : State) (d k : Nat), s.clk.args = [d, k] → k < 2 → (s.die d).seOpen k ≠ [] → ∃ t m, exec .seRowOperation s = .next t
      ∧ m ∈ (s.die d).seOpen k
      ∧ (let r := s.fresh.draw.2.seOne m k
        (r.1.clk.met = true → t = s)
        ∧ (∀ f, r.1.clk.met = false → r.2 = .ok f →
          (t.die d).se = (r.1.die d).se.map (fun q => if q.opId = m.opId then q.step k f else q))
        ∧ (∀ e c, r.1.clk.met = false → r.2 = .error e → m.by_.core = some c → m.bar = none →
          (t.die d).se = (r.1.die d).se.filter (fun q => q.opId != m.opId) ∧ m.opId ∉ t.net.live
          ∧ t.mem = r.1.mem.writeN (spmAddr c m.status) 8 (m.done * 2 ^ 32 + 256 + m.flags.toNat))))
  ∧ (∀ (s : State) (d k c : Nat) (m : SeCmd), s.mem.wf = true → s.clk.args = [d, k] → k < 2 → (s.die d).seOpen k = [m] →
    m.by_.core = some c → m.by_.hide = [] → (s.core c).stat.stopped = false → s.clusterOn (c / 8) = true →
    let n := fmtBytes m.fm
    let o := fmtBytes m.fm2
    let i := m.doneBy k
    let ix := if m.iw = 0 then 4 else 8
    let index := fun (j : Nat) => s.mem.readN (spmAddr c (m.idx + ix * j)) ix
    let row := fun (j : Nat) => m.table + index j * m.rowb
    let fits := fun (j : Nat) => off48 m.table + index j * m.rowb + m.rowb ≤ 2 ^ 48
    let into := fun (a : Nat) => spmAddr c (m.other + a)
    (m.op = 0 → m.idx + ix * (i + 1) ≤ 2 ^ 20 → m.other + (i + 1) * m.rowb ≤ 2 ^ 20 → fits i →
      ∀ place, tableAt s m.by_ (row i) m.rowb place →
      let own := (pieces (row i) m.rowb).filter fun p => placeUnit (place p.1) / 64 % 2 == k
      ∃ t, exec .seRowOperation s = .next t
        ∧ (∀ p ∈ own, ∀ j, j < p.2 → t.mem.read (into (i * m.rowb + p.1 + j)) = s.mem.read (place (p.1 + j)))
        ∧ (∀ x, (∀ p ∈ own, x < into (i * m.rowb + p.1) ∨ into (i * m.rowb + p.1) + p.2 ≤ x) → t.mem.read x = s.mem.read x)
        ∧ t.tags = s.tags)
    ∧ (m.op = 1 → m.idx + ix * (i + 1) ≤ 2 ^ 20 → m.other + (i + 1) * m.rowb ≤ 2 ^ 20 → row i % n = 0 → m.rowb % n = 0 →
      m.fm ≤ 2 → fits i → ∀ place, tableAt s m.by_ (row i) m.rowb place →
      let mine := fun e => decide (e < m.rowb / n) && placeUnit (place (n * e)) / 64 % 2 == k
      ∃ t, exec .seRowOperation s = .next t
        ∧ (∀ e, mine e = true → t.mem.readN (place (n * e)) n = (let y := (rowTotal m.fm [s.mem.readN (place (n * e)) n, s.mem.readN (into (i * m.rowb + n * e)) n]).1
            if m.fm = 2 then (fpBf16.convert 0 false (fp32.value false y)).1 else y) % 2 ^ (8 * n))
        ∧ (∀ x, (∀ e, mine e = true → x < place (n * e) ∨ place (n * e) + n ≤ x) → t.mem.read x = s.mem.read x) ∧ t.tags = s.tags)
    ∧ (m.op = 2 → 0 < m.group → m.idx + ix * ((i + 1) * m.group) ≤ 2 ^ 20 → m.other + (i + 1) * (m.rowb * o / n) ≤ 2 ^ 20 →
      m.fm ≤ 2 → m.fm2 ≤ 2 → 0 < m.rowb → m.rowb % n = 0 → (∀ j, j < m.group → row (i * m.group + j) % n = 0 ∧ fits (i * m.group + j)) →
      ∀ place : Nat → Nat → Nat, (∀ j, j < m.group → tableAt s m.by_ (row (i * m.group + j)) m.rowb (place j)) →
      let mine := fun e => decide (e < m.rowb / n) && placeUnit (place 0 (n * e)) / 64 % 2 == k
      ∃ t, exec .seRowOperation s = .next t
        ∧ (∀ e, mine e = true → t.mem.readN (into (i * (m.rowb * o / n) + o * e)) o = (let y := (rowTotal m.fm ((List.range m.group).map fun j => s.mem.readN (place j (n * e)) n)).1
            if m.fm = 0 then y else ((fpOfFmt m.fm2).convert 0 false (fp32.value false y)).1) % 2 ^ (8 * o))
        ∧ (∀ x, (∀ e, mine e = true → x < into (i * (m.rowb * o / n) + o * e) ∨ into (i * (m.rowb * o / n) + o * e) + o ≤ x) →
            t.mem.read x = s.mem.read x) ∧ t.tags = s.tags)
    ∧ (m.op = 3 → m.other + (i + 1) * o ≤ 2 ^ 20 → (m.table + i * n) % n = 0 → m.fm ≤ 7 → m.fm2 ≤ 7 →
      ∀ place, tableAt s m.by_ (m.table + i * n) n place →
      let r := convertElem m.fm2 m.fm 0 false false false false (s.mem.readN (place 0) n)
      (placeUnit (place 0) / 64 % 2 = k → ∃ t, exec .seRowOperation s = .next t
        ∧ t.mem.readN (into (i * o)) o = r.1 % 2 ^ (8 * o) ∧ (t.die d).se.map (·.flags) = (s.die d).se.map (fun q =>
            if q.opId = m.opId then q.flags ||| r.2 else q.flags)
        ∧ (∀ x, x < into (i * o) ∨ into (i * o) + o ≤ x → t.mem.read x = s.mem.read x) ∧ t.tags = s.tags)
      ∧ (placeUnit (place 0) / 64 % 2 ≠ k → ∃ t, exec .seRowOperation s = .next t ∧ t.mem = s.mem ∧ t.tags = s.tags)))
  ∧ (∀ (s : State) (c k : Nat) (w : Walk) (l : List Nat), s.clk.args = [c, k] →
    let r := (s.core c).stream k
    let q := r.pos + r.fetched.length
    let per := 256 / w.size
    let x := s.fresh.walkRead { s.issuerOf c 0 with hide := r.hide } w (q * per) (min per (w.count - q * per))
    r.walk = some w → s.mayFetch r = true → (s.core c).stat.stopped = false → x.2 = .ok l →
    (x.1.clk.met = true → exec .streamEntryFetch s = .next s)
    ∧ (x.1.clk.met = false → ∃ t, exec .streamEntryFetch s = .next t ∧ ((t.core c).stream k).fetched = r.fetched ++ [BitVec.ofNat 2048 (leNum l)]
      ∧ ((t.core c).stream k).pos = r.pos ∧ (∀ j, j ≠ k → (t.core c).stream j = (s.core c).stream j)
      ∧ t.mem = x.1.mem ∧ (q + 1 = r.entries → r.opId ∉ t.net.live)))
  ∧ (∀ (s : State) (c k : Nat) (w : Walk), s.mem.wf = true → s.clk.args = [c, k] →
    let r := (s.core c).stream k
    let ready := r.unwritten.filter fun e => e.after.all fun i => !s.net.live.contains i
    let per := 256 / w.size
    r.walk = some w → ready ≠ [] → (s.core c).stat.stopped = false →
    ∃ t e, exec .streamEntryWrite s = .next t ∧ e ∈ ready
      ∧ (t = s ∨ (((t.core c).stream k).unwritten = r.unwritten.filter (fun x => x.opId != e.opId) ∧ e.opId ∉ t.net.live))
      ∧ let n := min per (w.count - e.idx * per)
        let a := fun (j : Nat) => w.addr (e.idx * per + j)
        s.clusterOn (c / 8) = true → (∀ j, j < n → 0 ≤ a j ∧ a j + w.size ≤ 2 ^ 20) →
          ((t.core c).stream k).unwritten = r.unwritten.filter (fun x => x.opId != e.opId) ∧ e.opId ∉ t.net.live
          ∧ (∀ j, j < n → (∀ i, j < i → i < n → a i + w.size ≤ a j ∨ a j + w.size ≤ a i) →
            t.mem.readN (spmAddr c (a j).toNat) w.size = e.data.toNat / 2 ^ (8 * w.size * j) % 2 ^ (8 * w.size))
          ∧ (∀ x, (∀ j, j < n → x < spmAddr c (a j).toNat ∨ spmAddr c (a j).toNat + w.size ≤ x) → t.mem.read x = s.mem.read x)
          ∧ t.tags = s.tags)
  ∧ (∀ (s : State) (d p va : Nat), s.clk.args = [d, p, va] →
    let held := ∃ a, s.rootPte d p va = some a ∧ s.waitsAt p a = true
    (held → exec .pageWalk s = .next s)
    ∧ (s.walkLeaf d p va = none → ∃ t, exec .pageWalk s = .next t ∧ t.mem = s.mem ∧ t.dies = s.dies ∧ t.cores = s.cores
      ∧ t.net = s.net)
    ∧ (∀ a e n, s.walkLeaf d p va = some (a, e, n) → s.waitsAt p a = true → exec .pageWalk s = .next s)
    ∧ (∀ a e n, s.walkLeaf d p va = some (a, e, n) → ¬ held → s.waitsAt p a = false → e / 2 ^ 59 % 2 = 0 → ∃ t, exec .pageWalk s = .next t ∧ t.mem = s.mem
        ∧ (t.die d).tlb = (⟨p, va / 2 ^ n * 2 ^ n, n, e / 2 ^ 12 % 2 ^ 25 * 2 ^ 12, e / 2 ^ 61 % 2 == 1, e / 2 ^ 60 % 2 == 1⟩
            :: (s.die d).tlb).take 65536))

/-- R295, R297, R299: with one delivery left to a core's scratchpad, a turn of an RPUT or RMCAST writes one of its pieces
there and no other byte; once all are written the barrier core's object gets its arrival; once that is made the operation
arrives on its own barrier and completes. R300, R301, R303: RGET reads eight bytes at its home at once, and its reply lands
them with the tag FULL; where it names a handler the arrival goes to the lowest dormant context of a core that takes one
(R51), else into its queue of 64; where that is full it waits, its reply held, for the pool (R48). RGETV lands one of its
pieces a turn, and once none is left arrives and completes.
Where the rules leave it open it follows the model's reading in log entries 15 and 28. -/
def Obligations.FabricDeliveries : Prop :=
  (∀ (s : State) (op : Nat) (f : Fop) (d : Deliver), s.mem.wf = true → underway s op f → f.dlv = [d] → d.lost = false →
  (∀ u, padHome s f d.mem d.off f.len d.pkg u → d.left ≠ [] → (∀ p ∈ d.left, p.1 + p.2 ≤ f.len) → f.data.length = f.len →
    ∀ e ∈ [(0, Instr.fabricWriteAtHome), (6, .multicastMemberDelivery)], f.kind = e.1 → ∃ t p, exec e.2 s = .next t ∧ p ∈ d.left
      ∧ (∀ k, k < p.2 → t.mem.read (spmAddr u (d.off + p.1 + k)) = BitVec.ofNat 8 (f.data.getD (p.1 + k) 0))
      ∧ (∀ x, x < spmAddr u (d.off + p.1) ∨ spmAddr u (d.off + p.1) + p.2 ≤ x → t.mem.read x = s.mem.read x)
      ∧ t.tags = s.tags ∧ t.fop op = some { f with dlv := [{ d with left := d.left.filter (· != p) }] })
  ∧ ((f.kind = 0 ∨ f.kind = 6) → d.left = [] → d.counted = false → answers d.pkg = true →
      (d.bar = none → ∃ t, exec .remoteBarrierIncrement s = .next t ∧ t.mem = s.mem
        ∧ t.fop op = some { f with dlv := [{ d with counted := true }] })
      ∧ (∀ c k, d.bar = some (c, k) → (s.core c).stat.stopped = false → (s.core c).trig = [] → ∃ t, exec .remoteBarrierIncrement s = .next t
          ∧ t.mem = (s.arrive c k 1).mem ∧ t.fop op = some { f with dlv := [{ d with counted := true }] }))
  ∧ ((f.kind = 0 ∨ f.kind = 6) → d.left = [] → d.counted = true → ∀ c, f.by_.core = some c →
      (f.bar = none → ∃ t, exec .putAcknowledge s = .next t ∧ completed t op ∧ t.mem = s.mem)
      ∧ (∀ k, f.bar = some k → (s.core c).trig = [] → ∃ t, exec .putAcknowledge s = .next t ∧ completed t op
          ∧ t.mem = (s.arrive c k f.inc).mem)))
  ∧ (∀ (s : State) (op : Nat) (f : Fop), s.mem.wf = true → underway s op f →
  (∀ u, f.kind = 1 → f.stage = 1 → padHome s f f.mem f.off 8 f.pkg u → f.off % 8 = 0 → ∃ t, exec .rgetReadAtHome s = .next t
    ∧ t.mem = s.mem ∧ t.tags = s.tags ∧ t.fop op = some { f with stage := 2, val := s.mem.readN (spmAddr u f.off) 8 })
  ∧ (∀ c, f.by_.core = some c → f.kind = 1 → f.stage = 2 → f.val < 2 ^ 64 → f.dst < 2 ^ 20 → ∃ t, exec .rgetReply s = .next t
      ∧ t.mem.readN (spmAddr c f.dst) 8 = f.val ∧ t.tagFull c f.dst = true
      ∧ (∀ x, x < spmAddr c f.dst ∨ spmAddr c f.dst + 8 ≤ x → t.mem.read x = s.mem.read x)
      ∧ (f.hpc = none → completed t op ∧ (t.core c).arrq = (s.core c).arrq ∧ (t.core c).overflow = (s.core c).overflow)
      ∧ (∀ pc, f.hpc = some pc →
          let free := if (s.core c).takes then ((List.range 15).map (· + 1)).find? (s.core c).dormant else none
          (free = none → (s.core c).arrq.length < 64 → completed t op ∧ (t.core c).overflow = (s.core c).overflow
            ∧ (t.core c).arrq = (s.core c).arrq ++ [⟨pc, f.dst, f.cookie⟩])
          ∧ (free = none → 64 ≤ (s.core c).arrq.length → t.fop op = some { f with stage := 7 } ∧ t.net.live = s.net.live
            ∧ (t.core c).arrq = (s.core c).arrq ∧ (t.core c).overflow = (s.core c).overflow ++ [(⟨pc, f.dst, f.cookie⟩, op)])
          ∧ ∀ x, free = some x → completed t op ∧ (t.core c).arrq = (s.core c).arrq ∧ (t.ctx c x).run.active = true
            ∧ (t.ctx c x).pc = pc % 2 ^ 24 ∧ (t.ctx c x).readS 1 = BitVec.ofNat 64 f.dst ∧ (t.ctx c x).readS 2 = f.cookie))
  ∧ (∀ u c, f.by_.core = some c → f.kind = 2 → f.left ≠ [] → padHome s f f.mem f.off f.len f.pkg u →
      (∀ p ∈ f.left, p.1 + p.2 ≤ f.len) → f.dst + f.len ≤ 2 ^ 20 → ∃ t p, exec .rgetvPieceLanding s = .next t ∧ p ∈ f.left
        ∧ (∀ k, k < p.2 → t.mem.read (spmAddr c (f.dst + p.1 + k)) = s.mem.read (spmAddr u (f.off + p.1 + k)))
        ∧ (∀ x, x < spmAddr c (f.dst + p.1) ∨ spmAddr c (f.dst + p.1) + p.2 ≤ x → t.mem.read x = s.mem.read x)
        ∧ (f.tag = false → t.tags = s.tags) ∧ (f.tag = true → ∀ k, k < p.2 → t.tagFull c (f.dst + p.1 + k) = true)
        ∧ t.fop op = some { f with left := f.left.filter (· != p) })
  ∧ (∀ c, f.by_.core = some c → f.kind = 2 → f.left = [] →
      (f.bar = none → ∃ t, exec .rgetvComplete s = .next t ∧ completed t op ∧ t.mem = s.mem)
      ∧ (∀ k, f.bar = some k → (s.core c).trig = [] → ∃ t, exec .rgetvComplete s = .next t ∧ completed t op
          ∧ t.mem = (s.arrive c k f.inc).mem)))

/-- R302: the new home word of each fetch-and-operate code, on words of n bits. R306, R307: combining two requests of codes 0
to 8 changes nothing that their issuers or the home can see: the combined operand leaves the word that X and then Y would, and
the value split off for Y is the one Y would have read after X. -/
def Obligations.FetchAndCombine : Prop :=
  (∀ (n m x b : Nat), 0 < n → m < 2 ^ n → x < 2 ^ n → b < 2 ^ n →
  fetchNew 0 n m x b = (m + x) % 2 ^ n ∧ fetchNew 1 n m x b = m &&& x ∧ fetchNew 2 n m x b = m ||| x ∧ fetchNew 3 n m x b = m ^^^ x
  ∧ (BitVec.ofNat n (fetchNew 4 n m x b)).toInt = max (BitVec.ofNat n m).toInt (BitVec.ofNat n x).toInt
  ∧ (BitVec.ofNat n (fetchNew 5 n m x b)).toInt = min (BitVec.ofNat n m).toInt (BitVec.ofNat n x).toInt
  ∧ fetchNew 6 n m x b = max m x ∧ fetchNew 7 n m x b = min m x ∧ fetchNew 8 n m x b = x
  ∧ fetchNew 9 n m x b = (if b ≤ m then 0 else m + 1)
  ∧ fetchNew 10 n m x b = (if m + x < 2 ^ n ∧ m + x ≤ b then m + x else m)
  ∧ fetchNew 11 n m x b = (if m = b then x else m)
  ∧ ∀ op, op ≤ 11 → fetchNew op n m x b < 2 ^ n)
  ∧ (∀ (op n m x y b : Nat), op ≤ 8 → m < 2 ^ n → x < 2 ^ n → y < 2 ^ n →
  fetchNew op n m (fetchJoin op n x y) b = fetchNew op n (fetchNew op n m x b) y b
  ∧ fetchSplit op n m x = fetchNew op n m x b)

/-- R295, R302 to R309, R319: a request enters the next buffer of its path with its cycle and input port; one that entered in
an earlier cycle and meets none there, or finds no wait entry, waits in it, and the first of two that meet is X: the combined
request keeps X's place and X∘Y's operand, and a wait entry holds both; of two that entered in one cycle the lower input port
is X; a request that has waited goes on to the next buffer, and its age in the fabric begins as it leaves the last one of its own
package. At a home in a scratchpad the word is read and written at once, and
its old value returned; a combined reply is split between X and Y; a reply lands with its tag FULL; RVATOM adds one element a
turn, and arrives and completes after the last; a request overdue to another package completes and sets that package's
dead-peer bit, and a multicast that of every package it is overdue to.
Where the rules leave it open it follows the model's reading in log entries 15 and 97. -/
def Obligations.FabricAtomics : Prop := ∀ (s : State) (op : Nat) (f : Fop), s.mem.wf = true →
  (∀ b, underway s op f → f.combines = true → f.stage = 1 → f.path[f.hop]? = some b →
    (f.inBuf = 0 → ∃ t, exec .combineRequest s = .next t ∧ t.mem = s.mem
      ∧ t.fop op = some { f with inBuf := 1, entered := s.clk.cycle, port := f.inPort })
    ∧ (f.inBuf ≠ 0 → f.inBuf ≠ 1 → ∃ t, exec .combineRequest s = .next t ∧ t.mem = s.mem
        ∧ (f.hop ≠ f.southward.length ∨ f.kind = 7 → t.fop op = some { f with inBuf := 0, hop := f.hop + 1 })
        ∧ (f.hop = f.southward.length → f.kind ≠ 7 → t.fop op = some { f with
            inBuf := 0, hop := f.hop + 1, at_ := if f.at_ = 0 then s.clk.cycle else f.at_ }))
    ∧ (f.inBuf = 1 → (s.net.fops.map (·.1)).Pairwise (· < ·) →
      let fresh := s.net.fops.filter fun e => e.2.stage == 1 && e.2.inBuf == 1 && e.2.combines && e.2.path[e.2.hop]? == some b
        && decide (e.2.entered < s.clk.cycle)
      let waiting := fun g => s.net.fops.filter fun e => e.2.stage == 1 && e.2.inBuf == 2 && meets g e.2
      let room := (s.combAt b).length < (if b < 2 ^ 20 then 64 else 2048)
      (fresh = [(op, f)] → (waiting f = [] ∨ ¬ room → ∃ t, exec .combineRequest s = .next t ∧ t.mem = s.mem
            ∧ t.fop op = some { f with inBuf := 2 } ∧ t.combAt b = s.combAt b)
        ∧ (∀ x g, waiting f = [(x, g)] → room → x < s.net.nextOp → op < s.net.nextOp →
          ∃ t j, exec .combineRequest s = .next t ∧ t.mem = s.mem ∧ t.fop s.net.nextOp = some j ∧ j.kind = 7 ∧ j.stage = 1
            ∧ j.inBuf = 2 ∧ j.hop = g.hop ∧ j.entered = g.entered ∧ j.port = g.port ∧ j.x = fetchJoin g.fop g.width g.x f.x
            ∧ t.fop x = some { g with stage := 3 } ∧ t.fop op = some { f with stage := 3 }
            ∧ t.combAt b = s.combAt b ++ [⟨x, op, g.x, s.net.nextOp, b⟩]))
      ∧ (∀ x g y h, (fresh = [(x, g), (y, h)] ∨ fresh = [(y, h), (x, g)]) → waiting g = [] → waiting h = [] → meets h g = true →
          room → g.entered = h.entered → g.port < h.port → x < s.net.nextOp → y < s.net.nextOp →
          ∃ t j, exec .combineRequest s = .next t ∧ t.mem = s.mem ∧ t.fop s.net.nextOp = some j ∧ j.kind = 7
            ∧ j.port = g.port ∧ j.x = fetchJoin g.fop g.width g.x h.x ∧ t.combAt b = s.combAt b ++ [⟨x, y, g.x, s.net.nextOp, b⟩])))
  ∧ (∀ u, underway s op f → (f.kind = 3 ∨ f.kind = 7) → f.atHome = true → padHome s f f.mem f.off (f.width / 8) f.pkg u →
      ∃ t, exec .rfopAtHome s = .next t
        ∧ t.mem = s.mem.writeN (spmAddr u f.off) (f.width / 8)
            (fetchNew f.fop f.width (s.mem.readN (spmAddr u f.off) (f.width / 8)) (f.x % 2 ^ (8 * (f.width / 8)))
              (f.b % 2 ^ (8 * (f.width / 8))))
        ∧ t.fop op = some { f with stage := 2, val := s.mem.readN (spmAddr u f.off) (f.width / 8) })
  ∧ (∀ e gx gy, underway s op f → f.kind = 7 → f.stage = 2 → f.by_.core = none →
      (f.path.flatMap s.combAt).find? (fun e => e.carrier == op) = some e →
      e.x ≠ op → e.y ≠ op → e.x ≠ e.y → s.fop e.x = some gx → s.fop e.y = some gy →
      ∃ t, exec .combinedReplySplit s = .next t ∧ completed t op ∧ t.mem = s.mem
        ∧ t.fop e.x = some { gx with stage := 2, val := f.val }
        ∧ t.fop e.y = some { gy with stage := 2, val := fetchSplit f.fop f.width f.val e.a }
        ∧ ∀ b ∈ f.path, ∀ g ∈ t.combAt b, g.carrier ≠ op)
  ∧ (∀ c, underway s op f → f.by_.core = some c → f.kind = 3 → f.stage = 2 → f.val < 2 ^ 64 → f.dst + 16 ≤ 2 ^ 20 →
      ∃ t, exec .rfopReply s = .next t ∧ completed t op ∧ t.mem.readN (spmAddr c f.dst) 8 = f.val ∧ t.tagFull c f.dst = true
        ∧ (f.fop = 10 → t.tagFull c (f.dst + 8) = true ∧ t.mem.readN (spmAddr c (f.dst + 8)) 8 =
            (if f.val + f.x < 2 ^ f.width ∧ f.val + f.x ≤ f.b then 1 else 0))
        ∧ ∀ x, x < spmAddr c f.dst ∨ spmAddr c f.dst + (if f.fop = 10 then 16 else 8) ≤ x → t.mem.read x = s.mem.read x)
  ∧ (∀ u c, underway s op f → f.by_.core = some c → f.by_.hide = [] → f.kind = 4 → f.left ≠ [] →
      (∀ p ∈ f.left, p.1 + p.2 ≤ 128 ∧ p.2 = (if f.wide then 4 else 2)) → padHome s f f.mem f.off 128 f.pkg u →
      ∃ t p, exec .rvatomAtHome s = .next t ∧ p ∈ f.left ∧ t.fop op = some { f with left := f.left.filter (· != p) }
        ∧ t.mem = s.mem.writeN (spmAddr u (f.off + p.1)) p.2
            (atomAdd f.wide (s.mem.readN (spmAddr u (f.off + p.1)) p.2) (s.mem.readN (spmAddr c (f.src + p.1)) p.2)))
  ∧ (∀ c, underway s op f → f.by_.core = some c → f.kind = 4 → f.left = [] → (s.core c).trig = [] →
      ∃ t, exec .putAcknowledge s = .next t ∧ completed t op ∧ (f.bar = none → t.mem = s.mem)
        ∧ ∀ k, f.bar = some k → t.mem = (s.arrive c k f.inc).mem)
  ∧ (∀ p, s.clk.args = [p, op] → s.fop op = some f → f.by_.die / 4 = p → f.at_ ≠ 0 →
      max 1 (s.pkg p).apex.peerLimit < s.clk.cycle - f.at_ →
      (f.kind ≤ 5 → (f.kind = 1 → f.stage ≠ 7) → f.pkg ≠ p → ∃ t, exec .peerTimeout s = .next t ∧ t.peerDead p f.pkg = true
        ∧ completed t op)
      ∧ (f.kind = 6 → (∃ d ∈ f.dlv, d.pkg ≠ p ∧ d.left ≠ []) → ∃ t, exec .peerTimeout s = .next t ∧ completed t op
          ∧ ∀ d ∈ f.dlv, d.pkg ≠ p → d.left ≠ [] → t.peerDead p d.pkg = true))

/-- R88, R89, R90, R313: an ordered round's result is that of the fixed tree over its leaf positions, an absent leaf passing its
sibling; an exact round's does not depend on the order of its contributions and, while no entry or partial sum clamps, is the
one rounding of the exact sum. R310 to R312, R314 to R316: at a root whose window is valid with more than one rank and where
nothing waits, the first contribution of a round that is not past opens it, one of its round with a new rank is added, a rank
already present or a round already past is counted in LATE, and a later round waits; each but the last completes its RRED; one
that the window does not admit completes with code 2. The contribution that makes the round complete closes it and sends the
result and, once that is delivered, the status record; then the root's ROUND is the next number, the digest counts the round,
the other packages' round-end messages are sent, and the result is multicast, or ERR set where the group is not the window's.
An open round that has lasted TIMEOUT cycles closes with TO; a round-end message sets ROUND; contributions that reach their
package's partial wait in it until RADIX of them are there.
Where the rules leave it open it follows the model's reading in log entries 26 and 51. -/
def Obligations.Reductions : Prop :=
  (∀ (s : State) (pkg : Nat) (r : RedWin) (l l' : List Contrib) (d d' : Nat), r.fmt = 3 → l.Perm l' → (l.map (·.rank)).Nodup →
    s.reduceRound pkg r l d = s.reduceRound pkg r l' d')
  ∧ (∀ (out : Nat) (w : Int) (xs : List Nat) (qs : List Int), qs.length = xs.length →
    (∀ i, i < xs.length → gridQ w (xs.getD i 0) = some (qs.getD i 0, false)) → (qs.map Int.natAbs).sum < 2 ^ 127 →
    exactEl 0 out w xs = (let r := (if out = 1 then fpBf16 else fp32).round 0 false (decide (qs.sum < 0)) qs.sum.natAbs w false
      (r.1, r.2, false)))
  ∧ (∀ (s : State) (pkg : Nat) (r : RedWin) (l : List Contrib) (d : Nat), r.mode = 0 → r.fmt ≠ 3 →
    (∃ c ∈ l, s.leafOf pkg r c.rank < 2 ^ clog2 r.n) →
    let leaf := fun (i p : Nat) => (l.find? fun c => s.leafOf pkg r c.rank == p).map fun c => (entryElems r c).getD i 0
    let res := (s.reduceRound pkg r l d).1
    res.length = r.len ∧ ∀ i, i < r.len →
      let x := (orderedNode (combineEl r.fmt r.op) (leaf i) (clog2 r.n) 0).1.getD 0
      res.getD i 0 = if r.fmt = 2 then x else if r.out = 1 then (fpBf16.convert 0 false (fp32.value false (canon32 x))).1
        else canon32 x)
  ∧ (∀ (s : State) (op : Nat) (f : Fop), underway s op f → f.kind = 5 → s.atRoot f = true → reaches s f f.pkg →
    let r := s.redWin f.pkg f.win
    let q := s.round f.pkg f.win
    let c : Contrib := ⟨f.rank, f.round, f.data.map (· % 2 ^ 32), op⟩
    let late := min (2 ^ 32 - 1) (r.late + 1)
    (∀ k, f.by_.core = some k → f.bar = none → (s.die f.by_.die).efq.length < 256 → r.valid = false ∨ r.part ≠ f.by_.part ∨ r.n ≤ f.rank →
      ∃ t e, exec .contributionAtRoot s = .next t ∧ completed t op ∧ t.round f.pkg f.win = q ∧ t.redWin f.pkg f.win = r
        ∧ (t.die f.by_.die).efq = (s.die f.by_.die).efq ++ [e] ∧ e.w0.toNat / 2 ^ 48 = 3 * 256 + 2)
    ∧ (r.valid = true → r.part = f.by_.part → f.rank < r.n → q.waiting = [] → 1 < r.n → op < s.net.nextOp →
      (q.isOpen = false → staleRound f.round (s.nextRound f.pkg f.win) = false → ∃ t, exec .contributionAtRoot s = .next t
        ∧ completed t op ∧ t.round f.pkg f.win = { q with isOpen := true, num := f.round, openedAt := s.clk.cycle, present := [c] }
        ∧ (t.redWin f.pkg f.win).late = r.late)
      ∧ (q.isOpen = false → staleRound f.round (s.nextRound f.pkg f.win) = true → ∃ t, exec .contributionAtRoot s = .next t
          ∧ completed t op ∧ t.round f.pkg f.win = q ∧ (t.redWin f.pkg f.win).late = late)
      ∧ (q.isOpen = true → q.present.length < r.n →
        (q.num = f.round → (∀ e ∈ q.present, e.rank ≠ f.rank) → q.present.length + 1 < r.n → ∃ t, exec .contributionAtRoot s = .next t
          ∧ completed t op ∧ t.round f.pkg f.win = { q with present := q.present ++ [c] } ∧ (t.redWin f.pkg f.win).late = r.late)
        ∧ ((q.num = f.round ∧ ∃ e ∈ q.present, e.rank = f.rank) ∨ (q.num ≠ f.round ∧ staleRound f.round q.num = true) →
            ∃ t, exec .contributionAtRoot s = .next t ∧ completed t op ∧ t.round f.pkg f.win = q
              ∧ (t.redWin f.pkg f.win).late = late)
        ∧ (q.num ≠ f.round → staleRound f.round q.num = false → ∃ t, exec .contributionAtRoot s = .next t
            ∧ t.fop op = some { f with stage := 7 } ∧ t.net.live = s.net.live
            ∧ t.round f.pkg f.win = { q with waiting := [c] } ∧ (t.redWin f.pkg f.win).late = r.late)
        ∧ (q.num = f.round → (∀ e ∈ q.present, e.rank ≠ f.rank) → q.present.length + 1 = r.n →
            let l := q.present ++ [c]
            let y := s.reduceRound f.pkg r l s.clk.ctr
            let res := y.1.flatMap (leBytes (redBytes r.out))
            ∃ t g, exec .contributionAtRoot s = .next t ∧ completed t op ∧ t.mem = s.mem
              ∧ t.round f.pkg f.win = { q with isOpen := false, num := (q.num + 1) % 2 ^ 32, present := [], closing := some q.num }
              ∧ (t.redWin f.pkg f.win).round = r.round ∧ t.fop s.net.nextOp = some g ∧ g.kind = 8 ∧ g.stage = 1 ∧ g.len = res.length
              ∧ g.data = res ++ statusRecord r q.num l false y.2.2 y.2.1 ∧ g.round = q.num
              ∧ g.dlv = s.homeDelivery f.pkg r.part r.w2.toNat res.length))))
  ∧ (∀ (s : State) (p w : Nat), s.clk.args = [p, w] →
    let r := s.redWin p w
    let q := s.round p w
    (q.isOpen = true → r.timeout ≠ 0 → r.timeout ≤ s.clk.cycle - q.openedAt → q.waiting = [] →
      (∀ e ∈ s.net.fops, ¬ (e.2.kind = 5 ∧ e.2.pkg = p ∧ e.2.win = w)) →
      let y := s.reduceRound p r q.present s.clk.ctr
      let res := y.1.flatMap (leBytes (redBytes r.out))
      ∃ t g, exec .roundTimeout s = .next t
        ∧ t.round p w = { q with isOpen := false, num := (q.num + 1) % 2 ^ 32, present := [], closing := some q.num }
        ∧ (t.redWin p w).round = r.round ∧ t.mem = s.mem ∧ t.fop s.net.nextOp = some g ∧ g.kind = 8 ∧ g.stage = 1
        ∧ g.data = res ++ statusRecord r q.num q.present true y.2.2 y.2.1)
    ∧ (q.isOpen = false ∨ r.timeout = 0 ∨ s.clk.cycle - q.openedAt < r.timeout → exec .roundTimeout s = .next s)
    ∧ (∀ n, Tab.find (s.pkg p).apex.roundEnds w = some n → s.groupDrains (s.rootPkg p r) p = false → s.roundDone p w = [] →
        ∃ t, exec .roundEndMessage s = .next t ∧ t.redWin p w = { r with round := n } ∧ Tab.find (t.pkg p).apex.roundEnds w = none
          ∧ t.mem = s.mem)
    ∧ (∀ op f l, s.roundDone p w = (op, f) :: l → Tab.find (s.pkg p).apex.roundEnds w = none → s.fop op = some f →
        (f.stage = 1 → ∃ t, exec .roundEndMessage s = .next t ∧ t.mem = s.mem ∧ t.fop op = some { f with
          stage := 5, data := f.data.drop f.len ++ f.data.take f.len, at_ := s.clk.cycle,
          dlv := f.dlv.map fun d => let o := d.off + 64 * ((f.len + 63) / 64)
            { d with off := o, left := pieces o (f.data.length - f.len) } })
        ∧ (f.stage = 5 → ∃ t, exec .roundEndMessage s = .next t ∧ t.mem = s.mem
            ∧ (t.redWin p w).round = r.heldRound.getD ((f.round + 1) % 2 ^ 32)
            ∧ (∀ h ∈ s.copyHolders p w f.by_.part, Tab.find (t.pkg h).apex.roundEnds w = some ((f.round + 1) % 2 ^ 32))
            ∧ (t.part p f.by_.part).cnt.rdcnt =
                (if f.wide then ((s.part p f.by_.part).cnt.rdcnt + 1) % 2 ^ 32 else (s.part p f.by_.part).cnt.rdcnt)
            ∧ (s.groupOk p f.by_.part f.fop = true → (t.redWin p w).w0 = r.w0 ∧ t.fop op = some { f with
                stage := 6, data := f.data.drop (f.data.length - f.len), at_ := s.clk.cycle,
                dlv := s.roundMembers p f.by_.part f.fop f.x f.len })
            ∧ (s.groupOk p f.by_.part f.fop = false → completed t op ∧ (t.redWin p w).w0.getLsbD 58 = true))
        ∧ (f.stage = 6 → ∃ t, exec .roundEndMessage s = .next t ∧ completed t op ∧ t.mem = s.mem))
    ∧ (r.mode ≠ 0 → s.gathered p w 1 = [] → r.radix ≤ (s.gathered p w 5).length → (∀ a b, a ∈ s.net.fops → b ∈ s.net.fops → a.1 = b.1 → a = b) →
        ∃ t, exec .cruPartialForward s = .next t ∧ t.mem = s.mem
          ∧ ∀ e ∈ s.gathered p w 5, t.fop e.1 = some
            { e.2 with stage := 6, at_ := if e.2.at_ = 0 then s.clk.cycle else e.2.at_ })
    ∧ (r.mode = 0 → exec .cruPartialForward s = .next s))

/-- R53 to R56, R343, R417: an ageing turn gives each ready node the lower of 7 and its priority plus the elapsed TIME in
units of 2^20; a skip turn marks what has been skipped for 2^22 cycles. A dispatch turn with one node ready places it where it
fits, with its cores claimed for it, completes it in STATE 5 with a record where its descriptor fails a check, also one that
resumes from its images, and else skips it. A decrement takes one off the count of a waiting node, which becomes ready at 0,
and marks any other; a failure notice fails a waiting node and leaves any other.
Where the rules leave it open it follows the model's reading in log entries 39 and 41. -/
def Obligations.NodeReadiness : Prop :=
  (∀ (s : State) (d : Nat), s.clk.args = [d] →
    let time := s.time (d / 4) % 2 ^ 44
    (∃ t, exec .priorityAging s = .next t ∧ t.mem = s.mem ∧ t.cores = s.cores
      ∧ (∀ i, (s.nodeEnt d i).state = 2 → t.nodeEnt d i = { s.nodeEnt d i with
          epri := min 7 (nodePri (s.wordsFor d i) + (time + 2 ^ 44 - (s.nodeEnt d i).rtime) % 2 ^ 44 / 2 ^ 20) })
      ∧ (∀ i, (∀ e ∈ (s.die d).sched.tdt, e.1 = i → e.2.state ≠ 2) → t.nodeEnt d i = s.nodeEnt d i))
    ∧ (∃ t, exec .skipLimit s = .next t ∧ t.mem = s.mem ∧ t.cores = s.cores ∧ ∀ i,
        Tab.find (t.die d).sched.skipped i = (Tab.find (s.die d).sched.skipped i).map fun n => if 2 ^ 22 ≤ s.clk.cycle - n then 0 else n)
    ∧ (s.readyList d = [] → exec .schedulerDispatch s = .next s)
    ∧ (∀ i a, s.readyList d = [i] → s.dispatchBad d (s.nodeEnt d i).part (s.wordsFor d i) = some a → (s.die d).efq.length < 256 →
        ∃ t r, exec .schedulerDispatch s = .next t
          ∧ (t.nodeEnt d i).state = 5 ∧ (t.nodeEnt d i).err = true ∧ t.cores = s.cores ∧ (t.die d).efq = (s.die d).efq ++ [r]
          ∧ r.w0.toNat / 2 ^ 48 = 5 * 256 + 5 ∧ r.w2 = BitVec.ofNat 64 a)
    ∧ (∀ i, s.readyList d = [i] → Tab.find (s.die d).sched.saved i = none →
        let part := (s.nodeEnt d i).part
        let l := s.descWords d i
        (∀ cores cls line, s.dispatchBad d part l = none → nodeKind l ≤ 1 → s.fit d i l [] = some (cores, cls) →
            s.freeLine (d / 4) = some line → cores.Nodup → ∃ t p, exec .schedulerDispatch s = .next t ∧ t.mem = s.mem ∧ t.tags = s.tags
              ∧ (t.nodeEnt d i).state = 3 ∧ Tab.find (t.die d).sched.placed i = some p ∧ p.cores = cores ∧ p.clusters = cls
              ∧ p.copying = true ∧ p.words = l ∧ p.line = some line
              ∧ (∀ j, j < cores.length → (t.core (cores.getD j 0)).ident =
                  ⟨1, false, cores.getD j 0 % 8, if nodeKind l = 0 then lclusterAt l j else 0, part * 4096 + i, part, true, false, d⟩)
              ∧ ∀ c, c ∉ cores → t.core c = s.core c)
        ∧ (s.dispatchBad d part l = none → nodeKind l ≤ 1 → s.fit d i l [] = none → ∃ t, exec .schedulerDispatch s = .next t
            ∧ t.nodeEnt d i = s.nodeEnt d i ∧ t.cores = s.cores ∧ t.mem = s.mem ∧ (Tab.find (t.die d).sched.skipped i).isSome = true)))
  ∧ (∀ (s : State) (d k : Nat) (n : Notice), s.clk.args = [d, k] → Tab.find (s.die d).sched.notices k = some n →
    s.graphPart d n.idx = some n.part →
    let e := s.nodeEnt d n.idx
    (e.state = 1 → 1 < e.count → ∃ t, exec .decrement s = .next t ∧ t.nodeEnt d n.idx = { e with count := e.count - 1 }
      ∧ Tab.find (t.die d).sched.notices k = none)
    ∧ (e.state = 1 → e.count ≤ 1 → ∃ t, exec .decrement s = .next t ∧ t.nodeEnt d n.idx =
          { e with count := e.count - 1, state := 2, rtime := s.time (d / 4) % 2 ^ 44, epri := nodePri (s.descWords d n.idx) }
        ∧ Tab.find (t.die d).sched.notices k = none)
    ∧ (e.state ≠ 1 → ∃ t, exec .decrement s = .next t ∧ t.nodeEnt d n.idx = { e with err := true })
    ∧ (e.state = 1 → ∃ t, exec .failureNotice s = .next t ∧ t.nodeEnt d n.idx = { e with state := 5, err := true })
    ∧ (e.state ≠ 1 → ∃ t, exec .failureNotice s = .next t ∧ t.nodeEnt d n.idx = e))

/-- R56 to R59, R266, R338, R341, R413: once its copies have ended every core of a node starts at the entry point, ATTACHED
with the clusters' Chords running for LOCK, in STRAND mode for STRAND; a batch's last record goes into the pool; a core that
may leave is idle afterwards, and with the last one the node completes; of a core the host started the fault of its double trap
is then recorded (R376); a list node whose operations are done completes, in
STATE 5 after an error.
Where the rules leave it open it follows the model's reading in log entries 33 and 35. -/
def Obligations.NodeLife : Prop :=
  (∀ (s s1 s2 s3 : State) (d i : Nat) (p : Placed) (l : List Nat), s.clk.args = [d, i] → Tab.find (s.die d).sched.placed i = some p →
    p.copying = true → p.ring = false → p.bad = false → (Tab.find (s.die d).sched.saved i) = none → nodeKind p.words ≤ 1 →
    s.fresh.copyCode (s.nodeIssuer d i) p = (s1, .ok ()) → s1.copySlots (s.nodeIssuer d i) p = (s2, .ok ()) →
    s2.readBatch (s.nodeIssuer d i) p = (s3, .ok l) → s3.clk.met = false →
    ∃ t, exec .codeCopyComplete s = .next t ∧ t.mem = s3.mem
      ∧ Tab.find (t.die d).sched.placed i = some { p with copying := false, batch := l }
      ∧ (∀ c ∈ p.cores, (t.core c).ident.mode = (if nodeKind p.words = 0 then 0 else 2) ∧ (t.ctx c 0).pc = entryPc p.words
          ∧ (t.ctx c 0).run.active = true ∧ ∀ n, (t.ctx c 0).readS n = 0)
      ∧ (nodeKind p.words = 0 → ∀ cl ∈ p.clusters, (t.cluster cl).chord.on = true ∧ (t.cluster cl).chord.pc = entryPc p.words))
  ∧ (∀ (s : State) (d i r : Nat) (p : Placed), s.clk.args = [d, i] → Tab.find (s.die d).sched.placed i = some p →
    p.copying = false → p.bad = false → p.batch.drop p.batchPos = [r] →
    (s.poolSize d + 1024 < 65536 → r / 2 ^ 57 % 2 ^ 7 = 0 → r / 2 ^ 24 % 2 ^ 8 = 0 → r % 2 = 0 → ∃ t e, exec .batchPush s = .next t
      ∧ (t.die d).sched.pool = (s.die d).sched.pool ++ [e] ∧ e.r.pc = r % 2 ^ 24 ∧ e.r.pri = r / 2 ^ 56 % 2 ∧ e.r.group = r / 2 ^ 48 % 2 ^ 8
      ∧ e.r.node = s.nodeId d i ∧ e.r.s1 = BitVec.ofNat 64 (r / 2 ^ 64) ∧ e.r.s7 = BitVec.ofNat 64 (r / 2 ^ 448)
      ∧ Tab.find (t.die d).sched.placed i = some { p with batchPos := p.batchPos + 1 } ∧ t.mem = s.mem)
    ∧ (65536 ≤ s.poolSize d + 1024 → ∃ t, exec .batchPush s = .next t ∧ (t.die d).sched.pool = (s.die d).sched.pool ∧ t.mem = s.mem))
  ∧ (∀ (s : State) (c : Nat), s.clk.args = [c] → (s.core c).stat.stopped = false → s.quiet c = true →
    ((s.core c).ident.started = true → s.drained c = true → ∃ t, exec .coreLeaveNode s = .next t ∧ (t.core c).ident = CoreIdent.reset
      ∧ (t.core c).csr.barbase = 0x7FE ∧ (t.die (dieOf c)).sched.regs.csRun = none ∧ t.mem = s.mem
      ∧ ((s.core c).stat.dtrap = none → (t.die (dieOf c)).efq = (s.die (dieOf c)).efq)
      ∧ (∀ n, (s.core c).stat.dtrap = some n → (s.die (dieOf c)).efq.length < 256 → ∃ r, (t.die (dieOf c)).efq = (s.die (dieOf c)).efq ++ [r]
          ∧ r.w0.toNat / 2 ^ 48 = 5 * 256 + 15 ∧ r.w3 = BitVec.ofNat 64 n))
    ∧ (s.drained c = false → exec .coreLeaveNode s = .next s)
    ∧ (∀ p, let d := (s.core c).ident.home
        let i := (s.core c).ident.node % 4096
        (s.core c).ident.started = false → (s.core c).ident.placed = true → Tab.find (s.die d).sched.placed i = some p →
        p.copying = false → p.bad = false → p.batch.length ≤ p.batchPos → s.drained c = true →
        (p.gone.length + 1 < p.cores.length → ∃ t q, exec .coreLeaveNode s = .next t ∧ (t.core c).ident = CoreIdent.reset ∧ t.mem = s.mem
          ∧ (t.nodeEnt d i).state = (s.nodeEnt d i).state ∧ Tab.find (t.die d).sched.placed i = some { p with gone := q :: p.gone })
        ∧ (p.cores.length ≤ p.gone.length + 1 → ∃ t, exec .coreLeaveNode s = .next t ∧ (t.core c).ident = CoreIdent.reset ∧ t.mem = s.mem
          ∧ (t.nodeEnt d i).state = (if (s.nodeEnt d i).engerr = 0 then 4 else 5) ∧ Tab.find (t.die d).sched.placed i = none)))
  ∧ (∀ (s : State) (d i : Nat) (p : Placed), s.clk.args = [d, i] → Tab.find (s.die d).sched.placed i = some p →
    nodeKind p.words = 2 ∨ nodeKind p.words = 3 → wd p.words 12 ≤ p.listPos → (∀ k ∈ p.ops, k ∉ s.net.live) →
    (s.die d).sched.regs.phase ≠ 2 ∨ (s.die d).sched.regs.runNode ≠ i ∨ p.bad = true →
    ∃ t, exec .engineNodeComplete s = .next t ∧ t.mem = s.mem ∧ Tab.find (t.die d).sched.placed i = none
      ∧ (t.nodeEnt d i).state = (if p.bad = true ∨ (s.nodeEnt d i).engerr ≠ 0 then 5 else 4))

/-- R11, R131, R401: a HOST node writes its two-word entry at the tail of a valid ring that has room, unless the host refuses
(Config's free value), fails where the ring is not valid or the node is stopped before the write (R397), and completes when
the host has acknowledged, with the tail moved on. A host start of a core that the die exposes, in a cluster with an owner and
no placed core, begins at the given address at level P, DETACHED; else it is refused. A CORE_MAP write that is accepted resets
each moved core, and one that is not sets the refusal bit alone. That a moved core has its reset state rests on R20 and is the
model's choice in log entry 66; where the rules leave it open otherwise it follows the model's reading in log entries 19 and
42. -/
def Obligations.HostNodesAndStarts : Prop :=
  (∀ (s : State) (d i : Nat) (p : Placed), s.clk.args = [d, i] → Tab.find (s.die d).sched.placed i = some p → nodeKind p.words = 4 →
    let e := s.nodeEnt d i
    let c := (s.part (d / 4) e.part).cnt
    let size := 2 ^ (c.nrbase.toNat % 2 ^ 4)
    let a := unitAddr 7 (d / 4) (c.nrbase.toNat / 2 ^ 12 % 2 ^ 44 * 2 ^ 12 + 16 * (c.tail % size))
    (p.ring = false → p.bad = false → c.nrbase.toNat / 2 ^ 63 % 2 = 1 → s.ringBusy (d / 4) e.part = false → c.ringUsed < size →
      Config.hostRefuses s.clk.ctr = false → ∃ t, exec .notifyRingWrite s = .next t
        ∧ t.mem = (s.mem.writeN a 8 (wd p.words 11)).writeN (a + 8) 8 (e.seq * 2 ^ 32 + d % 4 * 2 ^ 16 + s.nodeId d i)
        ∧ Tab.find (t.die d).sched.placed i = some { p with ring := true })
    ∧ (p.ring = false → p.bad = false → c.nrbase.toNat / 2 ^ 63 % 2 = 0 → ∃ t, exec .notifyRingWrite s = .next t ∧ t.mem = s.mem
        ∧ (t.nodeEnt d i).state = 5)
    ∧ (p.ring = false → p.bad = true → ∃ t, exec .notifyRingWrite s = .next t ∧ t.mem = s.mem ∧ (t.nodeEnt d i).state = 5
        ∧ Tab.find (t.die d).sched.placed i = none)
    ∧ (p.ring = true → ∃ t, exec .notifyAck s = .next t ∧ t.mem = s.mem
        ∧ (t.part (d / 4) e.part).cnt.tail = (c.tail + 1) % 2 ^ 32 ∧ (t.nodeEnt d i).state = (if p.bad = true ∨ e.engerr ≠ 0 then 5 else 4)))
  ∧ (∀ (s : State) (d v c : Nat), s.clk.args = [16, d, v] → d < packages * 4 →
    let pc := v % 2 ^ 24
    let cl := clusterOf c
    let owner := (s.pkg (d / 4)).own.quarter (cl % 64 / 16 * 4 + quarterOf cl)
    let found := s.exposedCore d (v / 2 ^ 36 % 2 ^ 12)
    (found = none ∨ (found = some c ∧ (owner = none ∨ ∃ k ∈ coresOf cl, (s.core k).ident.placed = true))
        ∨ (s.die d).sched.regs.csRun ≠ none ∨ pc % 2 = 1 → ∃ t, exec .corestartGo s = .next t ∧ t.cores = s.cores ∧ t.mem = s.mem
        ∧ (t.die d).sched.regs = { (s.die d).sched.regs with csRefused := true })
    ∧ (∀ part, found = some c → owner = some part → (s.die d).sched.regs.csRun = none → pc % 2 = 0 →
      (∀ k ∈ coresOf cl, (s.core k).ident.placed = false) → ∃ t, exec .corestartGo s = .next t ∧ t.mem = s.mem
        ∧ (t.core c).ident = ⟨1, true, 0, 0, 0, part, false, true, d⟩ ∧ (t.ctx c 0).pc = pc ∧ (t.ctx c 0).run.active = true
        ∧ (t.core c).csr.tvec = pc ∧ (t.die d).sched.regs.csRun = some c ∧ (t.die d).sched.regs.csRefused = false ∧ ∀ k, k ≠ c → t.core k = s.core k))
  ∧ (∀ (s : State) (who cl v : Nat), s.clk.args = [who, cl, v] → s.reachesCluster who cl = true → cl < packages * 64 →
    let old := (s.cluster cl).coreMap.toNat
    ((∃ c ∈ coresOf cl, (s.core c).ident.placed = true) ∨ coreMapOk v = false → ∃ t, exec .coreMapWrite s = .next t ∧ t.cores = s.cores
      ∧ t.mem = s.mem ∧ (t.cluster cl).coreMap.toNat = old / 2 ^ 63 * 2 ^ 63 + 2 ^ 62 + old % 2 ^ 62)
    ∧ ((∀ c ∈ coresOf cl, (s.core c).ident.placed = false) → coreMapOk v = true → ∃ t, exec .coreMapWrite s = .next t
        ∧ (t.cluster cl).coreMap.toNat = old / 2 ^ 63 * 2 ^ 63 + v % 2 ^ 41
        ∧ ∀ i, i < 8 → t.core (cl * 8 + i) = (if old / 2 ^ (4 * i) % 2 ^ 4 = v / 2 ^ (4 * i) % 2 ^ 4 then s.core (cl * 8 + i) else Core.reset)))

/-- R379, R381, R382: PREEMPT with GO on a running node, where the sealing key it needs is loaded, starts the operation and
stores its fields; one on a node in another state, or while an operation runs, is refused and changes no node; OP 2 makes a
parked node ready at once. The stop holds every core of the node where it stands, its registers and memory untouched, with its
results in flight captured as a trap captures them (R374), and starts the drain; a node that is no longer placed ends the
operation. That a STRAND core's remaining counts are captured one higher is the model's choice in log entry 62, and that a row
being written and a slot table being loaded are finished first its choice in log entry 105, which the statement leaves out;
where the rules leave it open otherwise it follows the model's reading in log entry 42. -/
def Obligations.PreemptStops : Prop :=
  (∀ (s : State) (who d base n : Nat), s.clk.args = [who, d, base, n] → s.reachesNode who d n = true → n < 4096 →
    let r := (s.die d).sched.regs
    let e := s.nodeEnt d n
    (∀ p ∈ [(0, Instr.preemptRequeue), (1, .preemptPark)],
      (r.go = false → e.state = 3 → (s.protectedPart (d / 4) e.part = false ∨ (s.part (d / 4) e.part).sec.ks.isSome = true) →
        ∃ t, exec p.2 s = .next t ∧ (t.die d).sched.regs.go = true ∧ (t.die d).sched.regs.op = p.1 ∧ (t.die d).sched.regs.phase = 1
          ∧ (t.die d).sched.regs.node = n ∧ (t.die d).sched.regs.ctxbase = base % 4096 ∧ (t.die d).sched.regs.done = false
          ∧ (t.die d).sched.regs.runOp = p.1 ∧ (t.die d).sched.regs.runNode = n ∧ (t.die d).sched.regs.runBase = base % 4096
          ∧ t.cores = s.cores ∧ t.mem = s.mem ∧ t.nodeEnt d n = e)
      ∧ (r.go = true ∨ e.state ≠ 3 → ∃ t, exec p.2 s = .next t ∧ (t.die d).sched.regs = { r with refused := true } ∧ t.cores = s.cores
          ∧ t.mem = s.mem ∧ (t.die d).sched.tdt = (s.die d).sched.tdt))
    ∧ (r.go = false → e.state = 6 → ∃ t, exec .preemptResume s = .next t ∧ (t.nodeEnt d n).state = 2 ∧ (t.die d).sched.regs.go = false
        ∧ (t.die d).sched.regs.done = true ∧ (t.die d).sched.regs.fail = false ∧ t.cores = s.cores ∧ t.mem = s.mem))
  ∧ (∀ (s : State) (d : Nat), s.clk.args = [d] → (s.die d).sched.regs.phase = 1 →
    let r := (s.die d).sched.regs
    (Tab.find (s.die d).sched.placed r.runNode = none → ∃ t, exec .preemptStop s = .next t ∧ (t.die d).sched.regs.go = false
      ∧ (t.die d).sched.regs.done = true ∧ (t.die d).sched.regs.phase = 0 ∧ t.cores = s.cores ∧ t.mem = s.mem)
    ∧ (∀ p, Tab.find (s.die d).sched.placed r.runNode = some p → p.bad = true → exec .preemptStop s = .next s)
    ∧ (∀ p, Tab.find (s.die d).sched.placed r.runNode = some p → p.bad = false → p.copying = false → p.live.Nodup →
        (∀ c ∈ p.live, (s.core c).slotRun = none ∧ ∀ u ∈ (s.core c).mx.uops, u.kind ≠ 6) →
        ∃ t, exec .preemptStop s = .next t
        ∧ t.mem = s.mem ∧ t.tags = s.tags ∧ (t.die d).sched.regs.phase = 2 ∧ (t.die d).sched.regs.t0 = s.clk.cycle
        ∧ (∀ c, (t.core c).stat.stopped = ((s.core c).stat.stopped || p.live.contains c) ∧ ((∀ x, noneFresh s c x) → ∀ x,
            sameRegisters s t c x ∧ (t.ctx c x).inflight =
              if p.live.contains c = true then captured (s.core c).ident.mode (s.ctx c x).inflight else (s.ctx c x).inflight))
        ∧ ∀ c x, (t.ctx c x).pc = (s.ctx c x).pc ∧ (c ∈ p.live → (s.core c).ident.mode ≠ 2 → ∀ r, (s.ctx c x).recent = some r →
            (t.ctx c x).inflight = r.results ++ (s.ctx c x).inflight)))

/-- R381 to R385: what a released command of a stopped core still does at the drain's limit is abandoned; while a drain lasts no
image is written; each image goes to its entry's address as header, ciphertext and tag under the entry's next counter, its
plaintext laid out as R384 states, and with it goes what a restore puts back; once all images are written the node's cores are
idle and the node is parked with OP 1, ready again with OP 0, and where one is refused it completes in STATE 5 with FAIL. An
image is refused with code 12, 10 or 11 as R385 lists the checks, and one whose tag verifies is accepted, whoever wrote it; what
is read from a plaintext is the registers, the next bundles and the SPM that it was formed from. A node resumes with what its
images hold, every core in one turn, and completes in STATE 5 where an image is refused, with the code and the entry's index
recorded.
Where the rules leave it open it follows the model's reading in log entries 18 and 53. -/
def Obligations.ImagesSavedAndRestored : Prop :=
  (∀ (s : State) (d : Nat) (p : Placed), s.clk.args = [d] →
    let r := (s.die d).sched.regs
    r.phase = 2 → Tab.find (s.die d).sched.placed r.runNode = some p →
    ((∀ e ∈ (s.die d).sched.placed, e.2.bad = false) → s.clk.cycle - r.t0 < s.drainLimit d → exec .drainTimeout s = .next s)
    ∧ ((∀ e ∈ (s.die d).sched.placed, e.2.bad = false) → s.drainLimit d ≤ s.clk.cycle - r.t0 → p.cores ≠ [] →
        ∃ t, exec .drainTimeout s = .next t ∧ ∀ cl ∈ p.clusters, ∀ i m c, s.bteSlot cl i = some m → m.by_.core = some c →
          p.live.contains c = true → t.bteSlot cl i = none)
    ∧ (p.bad = true ∨ s.draining d r.runNode p = true → ∃ t, exec .imageSave s = .next t ∧ t.mem = s.mem ∧ t.cores = s.cores
        ∧ t.clusters = s.clusters ∧ t.dies = s.dies ∧ t.net = s.net)
    ∧ (∀ s1 fine, s.draining d r.runNode p = false → p.bad = false → s1.clk.met = false →
        p.places.foldl (fun (x : State × Bool) i => ((x.1.saveOne d r.runNode r.runBase p i).1,
          x.2 && (x.1.saveOne d r.runNode r.runBase p i).2)) (s.fresh, true) = (s1, fine) →
        ∃ t, exec .imageSave s = .next t ∧ t.mem = s1.mem ∧ Tab.find (t.die d).sched.placed r.runNode = none
          ∧ (t.nodeEnt d r.runNode).state = (if fine = false then 5 else if r.runOp = 1 then 6 else 2)
          ∧ (fine = true → Tab.find (t.die d).sched.saved r.runNode = some (r.runBase, p))
          ∧ (t.die d).sched.regs.go = false ∧ (t.die d).sched.regs.done = true ∧ (t.die d).sched.regs.fail = !fine
          ∧ ∀ c ∈ p.live, (t.core c).ident = CoreIdent.reset))
  ∧ (∀ (s : State) (d n base i : Nat) (p : Placed) (ks : List Nat),
    let part := (s.nodeEnt d n).part
    let c := p.cores.getD i 0
    let k := base + placeQ p.words i
    let w0 := s.ctxEntry d k 0
    let w1 := s.ctxEntry d k 1
    s.sealKey (d / 4) part = some ks → entryOk k w0 w1 = true → w0 % 2 ^ 32 ≠ 2 ^ 32 - 1 →
    let u := s.modSched d fun q => { q with ctxtab := Tab.set q.ctxtab (2 * k) (BitVec.ofNat 64 (w0 + 1)) }
    let cmds := p.held.filter fun m => m.by_.core == some c
    let header := (headerWords (w0 % 2 ^ 32 + 1) (entId w0) part (u.time (d / 4)) (u.nodeId d n) (placeQ p.words i)
      (u.core c).ident.mode (entSize w0)).flatMap word8
    let e := gcmEnc (imageKey ks part (entId w0)) (imageNonce (entId w0) (w0 % 2 ^ 32 + 1)) header
      (u.payload c (saveBytes (entSize w0)) cmds)
    let w := u.engWriteAll (u.nodeIssuer d n) w1 (header ++ e.1 ++ e.2) false
    let r := s.saveOne d n base p i
    r.1.mem = w.1.mem ∧ (r.2 = true ↔ w.2 = .ok ()) ∧ u.ctxEntry d k 0 = w0 + 1
    ∧ (r.2 = true → ∃ im ∈ (r.1.die d).sched.images, im.core = u.core c ∧ im.cmds = cmds ∧ im.header = header ∧ im.tag = e.2
        ∧ im.chord = (u.cluster (clusterOf c)).chord))
  ∧ (∀ (s : State) (c sz : Nat) (cmds : List Cmd),
    let d := saveBytes sz
    let b := (s.core c).csr.barbase * 512
    let get := fun (o n : Nat) => leNum (((s.payload c d cmds).drop o).take n)
    (∀ x, x < 16 → (∀ n, n < 32 → get (512 * x + 8 * n) 8 = ((s.ctx c x).readS n).toNat)
      ∧ (∀ n, n < 8 → get (512 * x + 256 + 8 * n) 8 = ((s.ctx c x).readP n).bits.toNat)
      ∧ get (512 * x + 480) 8 = (s.ctx c x).pc % 2 ^ 24)
    ∧ (∀ n, n < 24 → get (8192 + 8 * n) 8 = ((s.ctx c 0).readP (n + 8)).bits.toNat)
    ∧ (∀ n, n < 8 → get (8384 + 8 * n) 8 = (Tab.get 0 (s.core c).m n).toNat)
    ∧ (∀ n, n < 64 → get (9216 + 256 * n) 256 = (Tab.get 0 (s.core c).v n).toNat)
    ∧ (∀ o, o < d → get (89344 + o) 1 = (s.mem.read (spmAddr c o)).toNat)
    ∧ (∀ o, o < 768 → get (89344 + d + d / 64 + o) 1 = (s.mem.read (spmAddr c (b + o))).toNat))
  ∧ (∀ (s : State) (c ctr id part time node q mode sz : Nat) (tag : List Nat) (cmds : List Cmd), sz ≤ 64 →
    let im := readImage ((headerWords ctr id part time node q mode sz).flatMap word8) tag (s.payload c (saveBytes sz) cmds)
    (∀ x, x < 16 → (∀ n, n < 32 → (im.core.ctx x).readS n = (s.ctx c x).readS n)
      ∧ (∀ n, n < 8 → (im.core.ctx x).readP n = (s.ctx c x).readP n)
      ∧ (im.core.ctx x).pc = (s.ctx c x).pc % 2 ^ 24 ∧ (im.core.ctx x).run.active = (s.ctx c x).run.active)
    ∧ (∀ n, n < 32 → (im.core.ctx 0).readP n = (s.ctx c 0).readP n)
    ∧ (∀ n, n < 8 → Tab.get 0 im.core.m n = Tab.get 0 (s.core c).m n)
    ∧ (∀ n, n < 64 → Tab.get 0 im.core.v n = Tab.get 0 (s.core c).v n)
    ∧ (∀ o, o < saveBytes sz → (Tab.find im.spm o).getD 0 = s.mem.read (spmAddr c o)))
  ∧ (∀ (s : State) (d n k : Nat),
    let part := (s.nodeEnt d n).part
    let w0 := s.ctxEntry d k 0
    let w1 := s.ctxEntry d k 1
    let size := 952832 + saveBytes (entSize w0) + saveBytes (entSize w0) / 64 + 832
    let r := s.engRead (s.nodeIssuer d n) w1 (64 + size + 16)
    (entryOk k w0 w1 = false → s.checkImage d n k = (s, .error 12))
    ∧ (entryOk k w0 w1 = true → ∀ code, r.2 = .error code → s.checkImage d n k = (r.1, .error code))
    ∧ (entryOk k w0 w1 = true → ∀ l ks, r.2 = .ok l → s.sealKey (d / 4) part = some ks →
        let h := l.take 64
        let tag := (l.drop (64 + size)).take 16
        let plain := gcmDec (imageKey ks part (entId w0)) (imageNonce (entId w0) (w0 % 2 ^ 32)) h ((l.drop 64).take size) tag
        (headerOk h part w0 = false → s.checkImage d n k = (r.1, .error 12))
        ∧ (headerOk h part w0 = true → leNum (l.take 8) / 2 ^ 32 ≠ w0 % 2 ^ 32 → s.checkImage d n k = (r.1, .error 10))
        ∧ (headerOk h part w0 = true → leNum (l.take 8) / 2 ^ 32 = w0 % 2 ^ 32 →
            (plain = none → s.checkImage d n k = (r.1, .error 11))
            ∧ ∀ p, plain = some p → s.checkImage d n k = (r.1, .ok ((s.findImage h tag).getD (readImage h tag p))))))
  ∧ (∀ (s s1 : State) (d n j base : Nat) (p q : Placed), s.clk.args = [d, n] → Tab.find (s.die d).sched.placed n = some p →
    Tab.find (s.die d).sched.saved n = some (base, q) → p.copying = true → p.ring = true → p.bad = false → p.places = [j] →
    let c := p.cores.getD j 0
    s1.clk.met = false →
    (∀ im, s.fresh.checkImage d n (base + placeQ p.words j) = (s1, .ok im) → nodeKind p.words = 1 → ∃ t, exec .imageRestore s = .next t
      ∧ loadedAs t c im ∧ Tab.find (t.die d).sched.placed n = some { p with copying := false, ring := false }
      ∧ ((im.spm.map (·.1)).Nodup → ∀ o, o < 2 ^ 20 → t.mem.read (spmAddr c o) = (Tab.find im.spm o).getD 0))
    ∧ (∀ code, s.fresh.checkImage d n (base + placeQ p.words j) = (s1, .error code) → (s1.die d).efq.length < 256 →
        ∃ t r, exec .imageRestore s = .next t ∧ (t.nodeEnt d n).state = 5 ∧ (t.core c).ident = CoreIdent.reset
          ∧ Tab.find (t.die d).sched.placed n = none ∧ (t.die d).efq = (s1.die d).efq ++ [r] ∧ r.w0.toNat / 2 ^ 48 = (5 * 256 + code) % 2 ^ 16
          ∧ r.w2 = BitVec.ofNat 64 (if code < 10 then s.ctxEntry d (base + placeQ p.words j) 1 else base + placeQ p.words j)))
  ∧ (∀ (s : State) (d n base : Nat) (p q : Placed) (im : Nat → Image), s.clk.args = [d, n] →
    Tab.find (s.die d).sched.placed n = some p → Tab.find (s.die d).sched.saved n = some (base, q) → p.copying = true → p.ring = true →
    p.bad = false → p.live.Nodup → (∀ i ∈ p.places, s.fresh.checkImage d n (base + placeQ p.words i) = (s.fresh, .ok (im i))) →
    ∃ t, exec .imageRestore s = .next t ∧ Tab.find (t.die d).sched.placed n = some { p with copying := false, ring := false }
      ∧ (∀ i ∈ p.places, loadedAs t (p.cores.getD i 0) (im i))
      ∧ (nodeKind p.words = 0 → p.clusters.Nodup → ∀ cl ∈ p.clusters, ∀ i ∈ p.places, clusterOf (p.cores.getD i 0) = cl →
          (∀ k ∈ p.places, clusterOf (p.cores.getD k 0) = cl → (im k).chord = (im i).chord) →
          (t.cluster cl).chord.pc = (im i).chord.pc ∧ (t.cluster cl).chord.on = (im i).chord.on
          ∧ (t.cluster cl).chord.stopped = false))

/-- R322 to R327, R330, R340, R349, R350, R400: a host write through a window that reaches the entry, and that breaks none of
the conditions the spec names, sets the entry and no other, the reserved bits of a window entry to zero (R4); one that breaks
a condition is refused with its code and changes nothing but TBLSTAT; one through a window that does not reach the entry
changes nothing.
Where the rules leave it open it follows the model's reading in log entries 42, 44 and 96. -/
def Obligations.HostTableWrites : Prop := ∀ (s : State) (who : Nat),
  (∀ pkg part idx val, s.clk.args = [who, pkg, part, idx, val] → val < 2 ^ 64 → idx < 4096 → s.reachesPart who pkg part = true →
    (s.hasPlaced pkg part = true → ∃ t, exec .dieTableWrite s = .next t ∧ refusedWith s t pkg part 1 idx)
    ∧ (s.hasPlaced pkg part = false → (bits val 48 15 ≠ 0 ∨ bits val 13 19 ≠ 0) →
        ∃ t, exec .dieTableWrite s = .next t ∧ refusedWith s t pkg part 2 idx)
    ∧ (s.hasPlaced pkg part = false → bits val 48 15 = 0 → bits val 13 19 = 0 → ∃ t, exec .dieTableWrite s = .next t
        ∧ Tab.get 0 (t.pkg pkg).apex.dies (part * 4096 + idx) = BitVec.ofNat 64 val ∧ keepsCores s t
        ∧ (t.part pkg part).tbl = (s.part pkg part).tbl
        ∧ (∀ j, j ≠ part * 4096 + idx → Tab.get 0 (t.pkg pkg).apex.dies j = Tab.get 0 (s.pkg pkg).apex.dies j)
        ∧ ∀ d, d < 4 →
            let e := (Tab.get 0 (s.die (pkg * 4 + d)).sched.partner part).toNat
            let clash := bits e 63 1 = 1 ∧ (t.logicalDie pkg part (e % 4096)).isSome = true ∧
              t.dieInDomain pkg part (pkg * 4 + d) (dieFdom (Tab.get 0 (t.pkg pkg).apex.dies (part * 4096 + e % 4096))) = true
            (clash → Tab.get 0 (t.die (pkg * 4 + d)).sched.partner part = BitVec.ofNat 64 (e % 4096))
            ∧ (¬ clash → Tab.get 0 (t.die (pkg * 4 + d)).sched.partner part = Tab.get 0 (s.die (pkg * 4 + d)).sched.partner part)))
  ∧ (∀ pkg part idx val, s.clk.args = [who, pkg, part, idx, val] → val < 2 ^ 256 → idx < 1024 → s.reachesPart who pkg part = true →
    (bits val 63 1 = 1 → windowFieldBad val = true → ∃ t, exec .windowTableWrite s = .next t ∧ refusedWith s t pkg part 3 idx)
    ∧ (bits val 63 1 = 0 ∨ windowFieldBad val = false → ∃ t, exec .windowTableWrite s = .next t ∧ keepsCores s t ∧ t.dies = s.dies
        ∧ (∀ n, n < 256 → ((Tab.get 0 (t.pkg pkg).apex.windows (part * 1024 + idx)).getLsbD n = true ↔ val.testBit n = true
            ∧ ¬ ((12 ≤ n ∧ n < 44) ∨ n = 51 ∨ (56 ≤ n ∧ n < 59) ∨ 200 ≤ n)))
        ∧ (∀ j, j ≠ part * 1024 + idx → Tab.get 0 (t.pkg pkg).apex.windows j = Tab.get 0 (s.pkg pkg).apex.windows j)
        ∧ (t.part pkg part).tbl = (s.part pkg part).tbl))
  ∧ (∀ pkg part idx val, s.clk.args = [who, pkg, part, idx, val] → s.reachesPart who pkg part = false →
      exec .dieTableWrite s = .next s ∧ exec .windowTableWrite s = .next s)
  ∧ (∀ pkg idx val, s.clk.args = [who, pkg, idx, val] → pkg < packages → idx < 65536 →
    (who = hypervisor → (∀ r, (s.pkg pkg).apex.mapHolder idx = some r →
        ∃ t, exec .rankMapWrite s = .next t ∧ refusedWith s t pkg r.part 6 idx)
      ∧ ((s.pkg pkg).apex.mapHolder idx = none → ∃ t, exec .rankMapWrite s = .next t ∧ keepsCores s t ∧ t.dies = s.dies
          ∧ Tab.get 0 (t.pkg pkg).apex.rankmap idx = val % 4096
          ∧ ∀ j, j ≠ idx → Tab.get 0 (t.pkg pkg).apex.rankmap j = Tab.get 0 (s.pkg pkg).apex.rankmap j))
    ∧ (who ≠ hypervisor → exec .rankMapWrite s = .next s))
  ∧ (∀ die idx val, s.clk.args = [who, die, idx, val] → die < packages * 4 → idx < 256 → val < 2 ^ 64 →
    let old := (Tab.get 0 (s.die die).sched.graphs idx).toNat
    let reached := who = hypervisor
      ∨ (s.hasWindow (die / 4) who = true ∧ bits val 59 4 = who ∧ (bits old 63 1 = 0 ∨ bits old 59 4 = who))
    let bad := bits val 44 15 ≠ 0 ∨ bits val 25 7 ≠ 0 ∨ bits val 0 12 ≠ 0 ∨ bits val 12 13 = 0 ∨ 4096 < bits val 12 13
      ∨ 4096 < bits val 32 12 + bits val 12 13
      ∨ (bits val 63 1 = 1 ∧ ∃ e ∈ (s.die die).sched.graphs, e.1 ≠ idx ∧ bits e.2.toNat 63 1 = 1
          ∧ bits val 32 12 < bits e.2.toNat 32 12 + bits e.2.toNat 12 13
          ∧ bits e.2.toNat 32 12 < bits val 32 12 + bits val 12 13)
    (¬ reached → exec .graphTableWrite s = .next s)
    ∧ (reached → bad → ∃ t, exec .graphTableWrite s = .next t ∧ refusedWith s t (die / 4) (bits val 59 4) 7 idx)
    ∧ (reached → ¬ bad → ∃ t, exec .graphTableWrite s = .next t ∧ keepsCores s t
        ∧ Tab.get 0 (t.die die).sched.graphs idx = BitVec.ofNat 64 val
        ∧ ∀ j, j ≠ idx → Tab.get 0 (t.die die).sched.graphs j = Tab.get 0 (s.die die).sched.graphs j))
  ∧ (∀ die idx word val part, s.clk.args = [who, die, idx, word, val, part] → idx < 4096 → word < 2 → val < 2 ^ 64 →
    (s.reachesCtx who die part idx = false → exec .contextTableWrite s = .next s)
    ∧ (s.reachesCtx who die part idx = true →
      (word = 0 → (val % 2 ^ 32 ≠ s.ctxEntry die idx 0 % 2 ^ 32 ∨ 64 < entSize val) →
        ∃ t, exec .contextTableWrite s = .next t ∧ refusedWith s t (die / 4) part 8 idx)
      ∧ ((word = 0 → val % 2 ^ 32 = s.ctxEntry die idx 0 % 2 ^ 32 ∧ entSize val ≤ 64) →
        ∃ t, exec .contextTableWrite s = .next t ∧ keepsCores s t
          ∧ t.ctxEntry die idx word = (if word = 0 then bits val 63 1 * 2 ^ 63 + val % 2 ^ 55 else val)
          ∧ Tab.find (t.die die).sched.ctxown idx = some part
          ∧ ∀ j n, n < 2 → ¬ (j = idx ∧ n = word) → t.ctxEntry die j n = s.ctxEntry die j n)))
  ∧ (∀ pkg word val, s.clk.args = [who, pkg, word, val] → pkg < packages → word < 32 →
    (who = hypervisor → ∃ t, exec .deadPeerClear s = .next t ∧ keepsCores s t
      ∧ Tab.get 0 (t.pkg pkg).apex.dead word = Tab.get 0 (s.pkg pkg).apex.dead word &&& ~~~(BitVec.ofNat 64 val)
      ∧ ∀ j, j ≠ word → Tab.get 0 (t.pkg pkg).apex.dead j = Tab.get 0 (s.pkg pkg).apex.dead j)
    ∧ (who ≠ hypervisor → exec .deadPeerClear s = .next s))

/-- R328, R329, R346, R391: a word of a reduction window is written where no round is open and its fields are in range, LATE
and ROUND being held while one is, and refused with code 4, 5 or 6 otherwise; a key-table write sets CUR, NXT and SWEEP, with
a new key in slot NXT, or is refused with code 9; a sweep re-encrypts one line a turn, and after the last the next
key is the current one and the old one is erased.
Where the rules leave it open it follows the model's reading in log entries 42 and 45. -/
def Obligations.ReductionWindowsAndKeys : Prop := ∀ (s : State) (who : Nat),
  (∀ pkg win word val, s.clk.args = [who, pkg, win, word, val] → val < 2 ^ 64 → word < 8 →
    let old := s.redWin pkg win
    let new := old.writeWord word val
    let part := if old.valid then old.part else new.part
    s.reachesRedWin who pkg win new = true →
    (word ≤ 3 → old.valid = true → (s.round pkg win).isOpen = true →
      ∃ t, exec .reductionWindowWrite s = .next t ∧ refusedWith s t pkg part 4 win)
    ∧ ((word ≤ 3 → old.valid = true → (s.round pkg win).isOpen = false) →
      (new.valid = true → (redReserved word val ≠ 0 ∨ new.fieldBad = true) →
        ∃ t, exec .reductionWindowWrite s = .next t ∧ refusedWith s t pkg part 5 win)
      ∧ ((new.valid = true → redReserved word val = 0 ∧ new.fieldBad = false) →
        (old.valid = false → new.valid = true → bits new.w0.toNat 57 1 = 0 → s.rankMapOk pkg new = false →
          ∃ t, exec .reductionWindowWrite s = .next t ∧ refusedWith s t pkg part 6 win)
        ∧ ((old.valid = false → new.valid = true → bits new.w0.toNat 57 1 = 0 → s.rankMapOk pkg new = true) →
          ∃ t, exec .reductionWindowWrite s = .next t ∧ keepsCores s t ∧ t.dies = s.dies
            ∧ (∀ j, j ≠ win → t.redWin pkg j = s.redWin pkg j)
            ∧ (word ≤ 3 → t.redWin pkg win = new) ∧ (4 < word → t.redWin pkg win = old)
            ∧ (word = 4 → (s.round pkg win).isOpen = true →
                t.redWin pkg win = { old with heldLate := some (val / 2 ^ 32), heldRound := some (val % 2 ^ 32) })
            ∧ (word = 4 → (s.round pkg win).isOpen = false →
                t.redWin pkg win = { old with late := val / 2 ^ 32, round := val % 2 ^ 32 })))))
  ∧ (∀ die part val word, s.clk.args = [who, die, part, val, word] → val < 2 ^ 64 → die < packages * 4 →
    s.reachesPart who (die / 4) part = true →
    let k := (s.die die).key part
    let cur := bits val 48 8
    let nxt := bits val 40 8
    let bad := word ≠ 0 ∨ k.sweep = true ∨ bits val 0 38 ≠ k.ptr ∨ 32 ≤ cur ∨ 32 ≤ nxt
      ∨ (∃ n, n < 16 ∧ ((s.die die).key n).cur = nxt) ∨ nxt = cur
    (bad → ∃ t, exec .keyTableWrite s = .next t ∧ refusedWith s t (die / 4) part 9 part)
    ∧ (¬ bad → ∃ t, exec .keyTableWrite s = .next t ∧ keepsCores s t
        ∧ (t.die die).key part = ⟨bits val 63 1 == 1, cur, nxt, if bits val 63 1 = 1 then 0 else k.ptr⟩
        ∧ (∀ n, n ≠ part → (t.die die).key n = (s.die die).key n)
        ∧ Tab.find (t.die die).keyslots nxt = some (Config.randomKey s.clk.ctr)
        ∧ ∀ j, j ≠ nxt → Tab.find (t.die die).keyslots j = Tab.find (s.die die).keyslots j))
  ∧ (∀ die part, s.clk.args = [die, part] →
    let k := (s.die die).key part
    let a := s.sweepPlace die part k.ptr
    let slot := fun n => Tab.get 0 (s.die die).keyslots n
    (k.sweep = false → exec .sweepRekey s = .next s)
    ∧ (k.sweep = true → k.ptr < s.sweepLines die part → ∃ t, exec .sweepRekey s = .next t ∧ t.tags = s.tags ∧ t.cores = s.cores
        ∧ t.mem = (if s.crypts part a = true then s.mem.writeBytes a (xtsLine true (slot k.nxt) (lineTweak part a)
            (xtsLine false (slot k.cur) (lineTweak part a) (s.mem.bytes a 64))) else s.mem)
        ∧ (k.ptr + 1 < s.sweepLines die part → (t.die die).key part = { k with ptr := k.ptr + 1 }
            ∧ (t.die die).keyslots = (s.die die).keyslots)
        ∧ (k.ptr + 1 = s.sweepLines die part → (t.die die).key part = ⟨false, k.nxt, k.nxt, k.ptr + 1⟩
            ∧ Tab.find (t.die die).keyslots k.cur = none
            ∧ ∀ j, j ≠ k.cur → Tab.find (t.die die).keyslots j = Tab.find (s.die die).keyslots j)))

/-- R3, R4, R298, R318, R323, R338, R340, R365, R366, R386: the fault queue loses its head where the hypervisor writes 1; a
monitor whose owner changes stops and the others go on; SRC 6 to 8 are sampled at multiples of 256 of TIME and at no other
time, of the records and ready nodes of the monitor's owner, and SRC 11 at multiples of 2^20; a loaded slot table takes effect
at such a time; each register without behaviour of its own takes the fields that it has, PREEMPT and CORESTART without GO and
the P-view registers of a core among them; and a window that does not reach a register changes nothing.
Where the rules leave it open it follows the model's reading in log entries 42, 71, 86 and 98. -/
def Obligations.HostRegisters : Prop := ∀ (s : State) (who : Nat),
  (∀ die val, s.clk.args = [who, die, val] → die < packages * 4 → who = hypervisor →
    (∃ t, exec .efqPop s = .next t ∧ keepsCores s t
      ∧ (t.die die).efq = if bits val 63 1 = 1 then (s.die die).efq.drop 1 else (s.die die).efq)
    ∧ (∃ t, exec .monownWrite s = .next t ∧ keepsCores s t ∧ (t.die die).monown = BitVec.ofNat 64 val
        ∧ ∀ m, Tab.find (t.die die).mons m =
            if (s.die die).monOwner m = bits val (4 * m) 4 then Tab.find (s.die die).mons m else none))
  ∧ (∀ die mon, s.clk.args = [die, mon] →
    let m := Tab.get Mon.reset (s.die die).mons mon
    let src := bits m.cfg.toNat 56 6
    (s.time (die / 4) % 256 ≠ 0 → exec .monitorPeriodicSample s = .next s)
    ∧ (m.cfg ≠ 0 → s.time (die / 4) % 256 = 0 → ∃ t, exec .monitorPeriodicSample s = .next t ∧ keepsCores s t
        ∧ (src = 6 → Tab.get Mon.reset (t.die die).mons mon = (s.driftCores die ((s.die die).monOwner mon) m.cfg.toNat).foldl
            (fun m c => m.sample (s.core c).fetch.queue.length) m)
        ∧ (src = 7 → Tab.get Mon.reset (t.die die).mons mon =
            m.sample ((s.die die).sched.pool.filter fun e => e.r.node / 4096 == (s.die die).monOwner mon).length)
        ∧ (src = 8 → Tab.get Mon.reset (t.die die).mons mon = m.sample ((s.die die).sched.tdt.filter fun e =>
            e.2.state == 2 && e.2.part == (s.die die).monOwner mon).length)
        ∧ (src = 11 → Tab.get Mon.reset (t.die die).mons mon =
            if s.time (die / 4) % 2 ^ 20 = 0 then m.sample (Config.choice s.clk.ctr) else m)
        ∧ ((src < 6 ∨ 8 < src ∧ src ≠ 11) → t = s)))
  ∧ (∀ cl, s.clk.args = [cl] →
    ((s.cluster cl).slotsNext = none → exec .slotTableEffect s = .next s)
    ∧ (∀ at_ l, (s.cluster cl).slotsNext = some (at_, l) →
      (at_ ≤ s.clk.cycle → s.time (cl / 64) % 256 = 0 → ∃ t, exec .slotTableEffect s = .next t ∧ keepsCores s t
        ∧ (t.cluster cl).slotsNext = none ∧ (∀ k, k < 256 → Tab.get 0 (t.cluster cl).slots k = l.getD k 0)
        ∧ ∀ q, q ≠ cl → t.cluster q = s.cluster q)
      ∧ (s.clk.cycle < at_ ∨ s.time (cl / 64) % 256 ≠ 0 → exec .slotTableEffect s = .next s)))
  ∧ (∀ unit idx val reg, val < 2 ^ 64 → s.clk.args = [who, unit, reg, idx, val] →
    ((1 ≤ reg ∧ reg ≤ 8 ∨ reg = 13) →
      (s.reachesPart who unit idx = false → exec .registerWrite s = .next s)
      ∧ (s.reachesPart who unit idx = true → ∃ t, exec .registerWrite s = .next t ∧ keepsCores s t ∧ t.dies = s.dies
        ∧ (reg = 1 → (t.part unit idx).sec.qaddr = BitVec.ofNat 64 val)
        ∧ (reg = 2 → (t.part unit idx).ctl = { (s.part unit idx).ctl with
              period := val % 2 ^ 32, grace := val / 2 ^ 32
              beatAt := if (s.part unit idx).ctl.period = 0 then s.clk.cycle else (s.part unit idx).ctl.beatAt })
        ∧ (reg = 3 → ∃ w, (t.part unit idx).cnt.nrbase = w ∧ bits w.toNat 63 1 = bits val 63 1 ∧ bits w.toNat 56 7 = 0
            ∧ bits w.toNat 12 44 = bits val 12 44 ∧ bits w.toNat 4 8 = 0 ∧ bits w.toNat 0 4 = bits val 0 4)
        ∧ (reg = 4 → (t.part unit idx).cnt.head = val % 2 ^ 32 ∧ (t.part unit idx).cnt.tail = (s.part unit idx).cnt.tail)
        ∧ (reg = 5 → (t.part unit idx).cnt.nrvec = BitVec.ofNat 64 (val % 2 ^ 17))
        ∧ (reg = 6 → (t.part unit idx).cnt.rdig = val) ∧ (reg = 7 → (t.part unit idx).cnt.rdcnt = val % 2 ^ 32)
        ∧ (reg = 8 → (t.part unit idx).cnt.fim = val)
        ∧ (reg = 13 → (t.part unit idx).tbl = { (s.part unit idx).tbl with
              refused := (s.part unit idx).tbl.refused && bits val 63 1 == 0 })
        ∧ (reg ≠ 2 → (t.part unit idx).ctl = (s.part unit idx).ctl)
        ∧ ∀ q, q ≠ unit → t.pkg q = s.pkg q))
    ∧ (reg = 9 → s.reachesPart who (unit / 4) idx = true → ∃ t, exec .registerWrite s = .next t ∧ keepsCores s t
        ∧ Tab.get 0 (t.die unit).ptroot idx = BitVec.ofNat 64 (bits val 63 1 * 2 ^ 63 + bits val 21 16 * 2 ^ 21)
        ∧ ∀ j, j ≠ idx → Tab.get 0 (t.die unit).ptroot j = Tab.get 0 (s.die unit).ptroot j)
    ∧ ((reg = 0 ∨ reg = 11 ∨ reg = 12) → who = hypervisor → unit < packages → (reg = 11 → idx < 256) → (reg = 12 → idx < 65536) →
      ∃ t, exec .registerWrite s = .next t ∧ keepsCores s t ∧ t.dies = s.dies
        ∧ (reg = 0 → (t.pkg unit).apex = { (s.pkg unit).apex with peerLimit := val % 2 ^ 32 })
        ∧ (reg = 11 → Tab.get 0 (t.pkg unit).apex.groups idx = BitVec.ofNat 64 (bits val 46 18 * 2 ^ 46 + val % 2 ^ 16)
            ∧ ∀ j, j ≠ idx → Tab.get 0 (t.pkg unit).apex.groups j = Tab.get 0 (s.pkg unit).apex.groups j)
        ∧ (reg = 12 → Tab.get 0 (t.pkg unit).apex.members idx = val % 65536
            ∧ ∀ j, j ≠ idx → Tab.get 0 (t.pkg unit).apex.members j = Tab.get 0 (s.pkg unit).apex.members j))
    ∧ ((reg = 10 ∨ reg = 16) → who = hypervisor → unit < packages * 4 → ∃ t, exec .registerWrite s = .next t ∧ keepsCores s t
        ∧ (reg = 10 → (t.die unit).sched.regs = { (s.die unit).sched.regs with drainlimit := val % 2 ^ 32 })
        ∧ (reg = 16 → bits val 63 1 = 0 → (t.die unit).sched.regs = { (s.die unit).sched.regs with csRefused := true })
        ∧ (reg = 16 → bits val 63 1 = 1 → t = s))
    ∧ ((reg = 0 ∨ 10 ≤ reg ∧ reg ≤ 12 ∨ reg = 16) → who ≠ hypervisor → exec .registerWrite s = .next s)
    ∧ (reg = 14 → who = hypervisor → unit < packages * 4 → idx < 65536 → ∃ t, exec .registerWrite s = .next t
        ∧ keepsCores s t ∧ Tab.get 0 (t.die unit).sched.store idx = BitVec.ofNat 64 val
        ∧ ∀ j, j ≠ idx → Tab.get 0 (t.die unit).sched.store j = Tab.get 0 (s.die unit).sched.store j)
    ∧ (reg = 15 → let n := bits val 0 12
      (s.reachesNode who unit n = false → exec .registerWrite s = .next s)
      ∧ (s.reachesNode who unit n = true →
        (bits val 63 1 = 0 → ∃ t, exec .registerWrite s = .next t ∧ keepsCores s t ∧ (t.die unit).sched.regs =
          { (s.die unit).sched.regs with op := bits val 57 2, ctxbase := bits val 32 12, node := n })
        ∧ (bits val 63 1 = 1 → bits val 57 2 = 3 → ∃ t, exec .registerWrite s = .next t ∧ keepsCores s t
          ∧ (t.die unit).sched.regs = { (s.die unit).sched.regs with refused := true }
          ∧ ∀ part, s.graphPart unit n = some part → (t.part (unit / 4) part).tbl =
              ⟨true, min 65535 ((s.part (unit / 4) part).tbl.count + 1), n, 11⟩)))
    ∧ (∀ x n, reg = 17 → idx = x * 4096 + n → n < 4096 → unit < packages * 512 → s.reachesCluster who (clusterOf unit) = true →
      (n ∉ [0x801, 0x802, 0x803, 0x804, 0x810, 0x811, 0x812] → exec .registerWrite s = .next s)
      ∧ ∃ t, exec .registerWrite s = .next t ∧ t.mem = s.mem ∧ t.tags = s.tags
        ∧ (n = 0x801 → (t.core unit).csr = { (s.core unit).csr with tvec := val % 2 ^ 24 / 2 * 2 })
        ∧ (n = 0x802 → (t.ctx unit x).csr = { (s.ctx unit x).csr with tpc := val % 2 ^ 24 })
        ∧ (n = 0x803 → (t.ctx unit x).csr = { (s.ctx unit x).csr with tcause := val % 2 ^ 12 })
        ∧ (n = 0x804 → (t.ctx unit x).csr = { (s.ctx unit x).csr with tval := BitVec.ofNat 64 val })
        ∧ (n = 0x810 → (t.core unit).csr = { (s.core unit).csr with taglimit := val % 2 ^ 32 })
        ∧ (n = 0x811 → (t.core unit).csr = { (s.core unit).csr with joinlimit := val % 2 ^ 32 })
        ∧ (n = 0x812 → (t.core unit).csr = { (s.core unit).csr with waitlimit := val % 2 ^ 32 })
        ∧ (∀ y, y ≠ x → t.ctx unit y = s.ctx unit y) ∧ ∀ c, c ≠ unit → t.core c = s.core c))

/-- R343, R402, R403: a LAUNCH write that fails a check sets the code of the first that fails and launches nothing; an
accepted one writes its patches, a later one of a word after an earlier, takes the next SEQ and leaves every node of the graph
waiting for its predecessors, or ready where it has none; a write through the window of a partition that is not defined
changes nothing.
Where the rules leave it open it follows the model's reading in log entries 19 and 34. -/
def Obligations.Launches : Prop := ∀ (s : State) (pkg part bytes val : Nat), s.clk.args = [pkg, part, bytes, val] → pkg < packages →
  part < 16 →
  (s.hasWindow pkg part = false → exec .launch s = .next s)
  ∧ (s.hasWindow pkg part = true →
  let gs := s.graphsAt pkg (bits val 56 8)
  let stat := fun (t : State) => (t.part pkg part).cnt.launchCode
  let fails := fun (code : Nat) => ∃ t, exec .launch s = .next t ∧ stat t = code ∧ t.mem = s.mem ∧ t.cores = s.cores
    ∧ t.dies = s.dies ∧ (t.part pkg part).cnt.launchSeq = (s.part pkg part).cnt.launchSeq
  let formed := bytes = 16 ∧ val < 2 ^ 76 ∧ val % 16 = 0
  let owned := gs ≠ [] ∧ ∀ e ∈ gs, bits e.2 59 4 = part
  (¬ formed → fails 6) ∧ (formed → ¬ owned → fails 1) ∧ (formed → owned → s.running pkg part = false → fails 3)
  ∧ (formed → owned → s.running pkg part = true → s.graphRuns gs = true → fails 2)
  ∧ (formed → owned → s.running pkg part = true → s.graphRuns gs = false →
    let n := bits val 64 12
    let a := unitAddr 7 pkg (bits val 4 52 * 16)
    let ps := (List.range n).map fun i => patchAt pkg gs (s.mem.readN (a + 16 * i) 8) (s.mem.readN (a + 16 * i + 8) 8)
    (n ≠ 0 → Config.hostRefuses s.clk.ctr = true → fails 5)
    ∧ ((n = 0 ∨ Config.hostRefuses s.clk.ctr = false) →
      (none ∈ ps → fails 4)
      ∧ (none ∉ ps → ∃ t, exec .launch s = .next t ∧ stat t = 0 ∧ t.mem = s.mem ∧ t.cores = s.cores
        ∧ (t.part pkg part).cnt.launchSeq = ((s.part pkg part).cnt.launchSeq + 1) % 2 ^ 32
        ∧ (∀ d w, Tab.get 0 (t.die d).sched.store w =
            match (ps.filterMap id).reverse.find? fun p => p.1 == d && p.2.1 == w with
            | some p => BitVec.ofNat 64 p.2.2
            | none => Tab.get 0 (s.die d).sched.store w)
        ∧ (∀ e ∈ gs, ∀ i, bits e.2 32 12 ≤ i → i < bits e.2 32 12 + bits e.2 12 13 →
            let p := bits (wd (t.descWords e.1 i) 0) 46 12
            (t.nodeEnt e.1 i).state = (if p = 0 then 2 else 1) ∧ (t.nodeEnt e.1 i).count = p
            ∧ (t.nodeEnt e.1 i).seq = ((s.part pkg part).cnt.launchSeq + 1) % 2 ^ 32 ∧ (t.nodeEnt e.1 i).part = part
            ∧ (t.nodeEnt e.1 i).err = false)
        ∧ ∀ d i, (∀ e ∈ gs, e.1 = d → i < bits e.2 32 12 ∨ bits e.2 32 12 + bits e.2 12 13 ≤ i) → t.nodeEnt d i = s.nodeEnt d i))))

/-- R193, R321, R387, R388, R398, R400: an accepted change of ownership takes effect and leaves the memory of every quarter that
changes hands zero with its tags FULL, its cores' queues and latches empty, and the die and window tables of a partition that
loses a unit without an entry; one that concerns a partition with a placed node, or one that is being reset, is refused with
code 10. PCTL is written through the hypervisor's window or the partition's own, and a write through another changes nothing.
Setting V defines the partition with fresh keys where it is protected and with no other key, and begins its heartbeat's period;
PROT does not change while V is set. Function-level reset, by its register or by RST, ends the partition's nodes and leaves it
RESETTING, and then, in a later cycle, as R398 says.
Where the rules leave it open it follows the model's reading in log entries 29, 42, 50, 98 and 99. -/
def Obligations.OwnershipAndReset : Prop := ∀ (s : State) (who pkg : Nat), pkg < packages →
  (∀ kind idx val, s.clk.args = [who, pkg, kind, idx, val] → who = hypervisor → (kind < 2 ∨ (kind = 2 ∧ idx < 512) ∨ (kind = 3 ∧ idx < 64)) →
    let new := (s.pkg pkg).own.write kind idx val
    let l := ownerChanges (s.pkg pkg).own new kind idx
    (∀ e, l.find? (s.ownerBusy pkg) = some e →
      ∃ t, exec .ownershipWrite s = .next t ∧ refusedWith s t pkg (e.2.1.getD (e.2.2.getD 0)) 10 e.1)
    ∧ ((∀ e ∈ l, s.ownerBusy pkg e = false) → ∃ t, exec .ownershipWrite s = .next t ∧ (t.pkg pkg).own = new
        ∧ (2 ≤ kind → t.mem = s.mem ∧ t.tags = s.tags)
        ∧ (kind < 2 → ∀ q, q < 16 → (s.pkg pkg).own.quarter q ≠ new.quarter q →
            (∀ o, o < 2 ^ 24 → t.mem.read (unitAddr 3 (pkg * 4 + q / 4) (q % 4 * 2 ^ 24 + o)) = 0)
            ∧ ∀ cl ∈ quarterClusters pkg q, (∀ o, o < 2 ^ 24 → t.mem.read (cmemAddr cl o) = 0)
              ∧ ∀ c ∈ coresOf cl, (t.core c).trig = [] ∧ (t.core c).arrq = [] ∧ (t.core c).fab = [] ∧ (t.core c).streams = []
                ∧ (t.core c).mx.calls = [] ∧ (t.core c).mx.active = Latch.reset ∧ (t.core c).mx.shadow = Latch.reset
                ∧ ∀ o, o < 2 ^ 20 → t.mem.read (spmAddr c o) = 0 ∧ t.tagFull c o = true)
        ∧ ∀ e ∈ l, ∀ n, e.2.1 = some n → ∀ i, (i < 4096 → Tab.get 0 (t.pkg pkg).apex.dies (n * 4096 + i) = 0)
            ∧ (i < 1024 → Tab.get 0 (t.pkg pkg).apex.windows (n * 1024 + i) = 0)))
  ∧ (∀ part val, s.clk.args = [who, pkg, part, val] → s.reachesPart who pkg part = false → exec .pctlDefine s = .next s)
  ∧ (∀ part val, s.clk.args = [who, pkg, part, val] → s.reachesPart who pkg part = true →
    let k := (s.part pkg part).ctl
    let prot := bits val 62 1 == 1
    let resets := bits val 59 1 = 1 ∧ bits val 63 1 = 1 ∧ k.state ≠ 3
    (k.v = true → prot ≠ k.prot → ∃ t, exec .pctlDefine s = .next t ∧ refusedWith s t pkg part 10 part)
    ∧ ((k.v = true → prot = k.prot) → ¬ resets → ∃ t, exec .pctlDefine s = .next t ∧ t.mem = s.mem ∧ t.cores = s.cores
        ∧ (t.part pkg part).ctl = { k with
            v := bits val 63 1 == 1, prot := prot, beatAt := if k.v = false ∧ bits val 63 1 = 1 then s.clk.cycle else k.beatAt }
        ∧ (k.v = false → bits val 63 1 = 1 → Tab.get 0 (t.part pkg part).sec.mr 2 = 0 ∧ Tab.get 0 (t.part pkg part).sec.mr 3 = 0
            ∧ (t.part pkg part).sec.model = [] ∧ (t.part pkg part).sec.fabric = none ∧ (t.part pkg part).sec.ks = none
            ∧ (t.part pkg part).sec.hbkey = none
            ∧ (prot = true → (t.part pkg part).sec.ecdh ≠ 0 ∧ ∀ d, d < 4 → (Tab.find (t.die (pkg * 4 + d)).keyslots
                ((s.die (pkg * 4 + d)).key part).cur).isSome = true))
        ∧ ((k.v = true ∨ bits val 63 1 = 0) → (t.part pkg part).sec = (s.part pkg part).sec))
    ∧ ((k.v = true → prot = k.prot) → resets → ∃ t, exec .pctlDefine s = .next t ∧ (k.v = true → resetBegun s t pkg part)
        ∧ (t.part pkg part).ctl.state = 3 ∧ (t.part pkg part).ctl.rst = true ∧ nothingIssued t pkg part
        ∧ (t.part pkg part).ctl.v = true ∧ (t.part pkg part).ctl.prot = prot))
  ∧ (∀ part, s.clk.args = [who, pkg, part] →
    let k := (s.part pkg part).ctl
    (who ≠ resetUnit → s.reachesPart who pkg part = true → k.v = true → k.state ≠ 3 →
      ∃ t, exec .functionLevelReset s = .next t ∧ resetBegun s t pkg part)
    ∧ (who = resetUnit → part < 16 → k.state = 3 → ∃ t, exec .functionLevelReset s = .next t ∧ partitionReset s t pkg part)
    ∧ ((if who = resetUnit then k.state ≠ 3 else s.reachesPart who pkg part = false ∨ k.v = false ∨ k.state = 3) →
        exec .functionLevelReset s = .next s))

/-- R393, R394: a nonce begins a report, which is written signed with its digest kept; MR2 is extended at once, or after the
report being formed; a blob's key is installed where the partition is protected, the blob is well formed and its tag verifies,
and KEYSTAT says what failed otherwise. The host memory's answer and the random number of the signature are free values. R396,
R397: a heartbeat whose counter grows and whose code verifies starts the period anew and leaves the quiesced state, and any
other changes nothing; a period that runs out quiesces a running partition; a grace time that runs out revokes it, with every
key erased and its placed nodes stopped. R400: a partition that is not defined has no window, and nothing changes through it.
Where the rules leave it open it follows the model's reading in log entries 13, 24, 46 and 47. -/
def Obligations.AttestationAndHeartbeats : Prop :=
  (∀ (s : State) (pkg part : Nat), pkg < packages → part < 16 →
  let sec := (s.part pkg part).sec
  let f := s.reportFields pkg part
  let k := (Config.randomKey s.clk.ctr).toNat % 2 ^ 256 % (pOrder - 1) + 1
  (∀ val, s.clk.args = [pkg, part, val] → s.hasWindow pkg part = false →
    exec .qnonceWrite s = .next s ∧ exec .extendWrite s = .next s ∧ exec .keyload s = .next s ∧ exec .heartbeat s = .next s)
  ∧ (∀ val, s.clk.args = [pkg, part, val] → s.hasWindow pkg part = true →
    (sec.report = true → sec.heldExtends = [] → ∃ t, exec .qnonceWrite s = .next t ∧ t.tags = s.tags ∧ t.cores = s.cores
        ∧ (t.part pkg part).sec = { sec with nonce := BitVec.ofNat 256 val, digest := BitVec.ofNat 256 (leNum (sha256 f)) })
    ∧ (sec.report = false → ∃ t, exec .qnonceWrite s = .next t ∧ keepsCores s t ∧ (t.part pkg part).sec =
      { sec with nonce := BitVec.ofNat 256 val, report := true })
    ∧ (sec.report = false → val < 2 ^ 256 → ∃ t, exec .extendWrite s = .next t ∧ keepsCores s t
        ∧ Tab.get 0 (t.part pkg part).sec.mr 2
            = BitVec.ofNat 256 (leNum (sha256 (leBytes 32 (Tab.get 0 sec.mr 2).toNat ++ leBytes 32 val)))
        ∧ ∀ i, i ≠ 2 → Tab.get 0 (t.part pkg part).sec.mr i = Tab.get 0 sec.mr i)
    ∧ (sec.report = true → ∃ t, exec .extendWrite s = .next t ∧ keepsCores s t ∧ (t.part pkg part).sec =
        { sec with heldExtends := sec.heldExtends ++ [(2, leBytes 32 val)] }))
  ∧ (s.clk.args = [pkg, part] →
    (sec.report = false → exec .reportWritten s = .next s)
    ∧ (sec.report = true → sec.heldExtends = [] → ∃ t, exec .reportWritten s = .next t ∧ t.tags = s.tags ∧ t.cores = s.cores
        ∧ (t.part pkg part).sec = { sec with report := false, digest := BitVec.ofNat 256 (leNum (sha256 f)) }
        ∧ (Config.hostRefuses (s.clk.ctr + 1) = true → t.mem = s.mem)
        ∧ (Config.hostRefuses (s.clk.ctr + 1) = false → t.mem = s.mem.writeBytes (unitAddr 7 pkg (sec.qaddr.toNat % 2 ^ 56))
            (f ++ ecdsa (Config.identityKey pkg) k (sha256 f)))))
  ∧ (∀ addr, s.clk.args = [pkg, part, addr] → s.hasWindow pkg part = true → sec.report = false →
    let b := s.mem.bytes (unitAddr 7 pkg (addr % 2 ^ 56)) 144
    let h := leNum (b.take 8)
    let formed := h < 2 ^ 6 ∧ leNum ((b.drop 84).take 4) = 0 ∧ leNum (b.drop 136) = 0 ∧ sec.holds (bits h 4 2) = false
    let stat := fun (n : Nat) => ∃ t, exec .keyload s = .next t ∧ keepsCores s t ∧ (t.part pkg part).sec = { sec with keystat := n }
    (s.protectedPart pkg part = false → stat 4)
    ∧ (s.protectedPart pkg part = true → Config.hostRefuses s.clk.ctr = true →
        ∃ t, exec .keyload s = .next t ∧ keepsCores s t ∧ (t.part pkg part).sec = sec)
    ∧ (s.protectedPart pkg part = true → Config.hostRefuses s.clk.ctr = false →
      (¬ formed → stat 3) ∧ (formed → unwrap sec b = none → stat 2)
      ∧ (∀ key, formed → unwrap sec b = some key → ∃ t, exec .keyload s = .next t ∧ keepsCores s t
          ∧ (t.part pkg part).sec.keystat = 1 ∧ (t.part pkg part).sec.holds (bits h 4 2) = (bits h 4 2 != 0)
          ∧ (bits h 4 2 = 0 → Tab.find (t.part pkg part).sec.model (h % 16) = some (BitVec.ofNat 256 (leNum key)))
          ∧ Tab.get 0 (t.part pkg part).sec.mr 3
              = BitVec.ofNat 256 (leNum (sha256 (leBytes 32 (Tab.get 0 sec.mr 3).toNat ++ b.take 8)))))))
  ∧ (∀ (s : State) (pkg part : Nat), pkg < packages → part < 16 →
  let k := (s.part pkg part).ctl
  (∀ val, s.clk.args = [pkg, part, val] →
    let ctr := val % 2 ^ 64
    let good := s.hasWindow pkg part = true ∧ ∃ key, (s.part pkg part).sec.hbkey = some key ∧ k.lastCtr < ctr ∧
      leNum ((hmac (keyBytes key) (leBytes 8 ctr)).take 8) = bits val 64 64
    (¬ good → exec .heartbeat s = .next s)
    ∧ (good → ∃ t, exec .heartbeat s = .next t ∧ keepsCores s t ∧ (t.part pkg part).ctl =
        { k with lastCtr := ctr, beatAt := s.clk.cycle, state := if k.state = 1 then 0 else k.state }))
  ∧ (s.clk.args = [pkg, part] →
    (k.v = true → k.state = 0 → k.period ≠ 0 → k.period ≤ s.clk.cycle - k.beatAt → ∃ t, exec .heartbeatPeriodExpiry s = .next t
        ∧ keepsCores s t ∧ (t.part pkg part).ctl = { k with state := 1, quietAt := s.clk.cycle })
    ∧ ((k.v = false ∨ k.state ≠ 0 ∨ k.period = 0 ∨ s.clk.cycle - k.beatAt < k.period) → exec .heartbeatPeriodExpiry s = .next s)
    ∧ ((k.v = false ∨ k.state ≠ 1 ∨ s.clk.cycle - k.quietAt < k.grace) → exec .graceExpiry s = .next s)
    ∧ (k.v = true → k.state = 1 → k.grace ≤ s.clk.cycle - k.quietAt → ∃ t, exec .graceExpiry s = .next t ∧ t.mem = s.mem
        ∧ t.tags = s.tags ∧ (t.part pkg part).ctl = { k with state := 2 }
        ∧ (t.part pkg part).sec.ecdh = 0 ∧ (t.part pkg part).sec.model = [] ∧ (t.part pkg part).sec.fabric = none
        ∧ (t.part pkg part).sec.ks = none ∧ (t.part pkg part).sec.hbkey = none
        ∧ (k.prot = true → ∀ d, d < 4 → Tab.find (t.die (pkg * 4 + d)).keyslots ((s.die (pkg * 4 + d)).key part).cur = none
            ∧ ((∀ n, n < 16 → n ≠ part → s.protectedPart pkg n = true →
                  ((s.die (pkg * 4 + d)).key n).cur ≠ ((s.die (pkg * 4 + d)).key part).nxt) →
                Tab.find (t.die (pkg * 4 + d)).keyslots ((s.die (pkg * 4 + d)).key part).nxt = none))
        ∧ ∀ d, d < 4 → ∀ i p, (s.nodeEnt (pkg * 4 + d) i).part = part → (s.nodeEnt (pkg * 4 + d) i).state = 3 →
            Tab.find (s.die (pkg * 4 + d)).sched.placed i = some p →
            ∃ q, Tab.find (t.die (pkg * 4 + d)).sched.placed i = some q ∧ q.bad = true)))

/-- R193, R206, R270, R321: an uncorrectable error stops the node of the core that met it, or completes with code 3 the fabric,
copy or stack-engine operation, or the read of a stream or of the scheduler, that met it, with a record of code 3; a package
reset leaves every core, cluster and die of the package as at reset, its scratchpads, cluster memories and shared memories zero
with every tag FULL, TIME at 0, and HBM, what stands for the images in it, host memory and the other packages alone.
Where the rules leave it open it follows the model's reading in log entries 18 and 20. -/
def Obligations.ErrorsAndPackageReset : Prop := ∀ (s : State),
  (∀ c addr, s.clk.args = [0, c, addr] →
    let k := (s.core c).ident
    (k.placed = true → (s.die k.home).efq.length < 256 → ∀ p, Tab.find (s.die k.home).sched.placed (k.node % 4096) = some p →
      ∃ t r, exec .uncorrectableError s = .next t ∧ t.mem = s.mem ∧ t.tags = s.tags ∧ (t.die k.home).efq = (s.die k.home).efq ++ [r]
        ∧ r.w0.toNat / 2 ^ 48 = 5 * 256 + 3 ∧ r.w2 = BitVec.ofNat 64 addr
        ∧ (t.nodeEnt k.home (k.node % 4096)).err = true
        ∧ ∃ q, Tab.find (t.die k.home).sched.placed (k.node % 4096) = some q ∧ q.bad = true)
    ∧ (k.placed = false → k.started = true → (s.die (dieOf c)).efq.length < 256 → ∃ t r, exec .uncorrectableError s = .next t
        ∧ t.mem = s.mem ∧ (t.die (dieOf c)).efq = (s.die (dieOf c)).efq ++ [r] ∧ (t.core c).stat.dead = true
        ∧ ∀ q, q ≠ c → t.core q = s.core q))
  ∧ (∀ reader unit addr, s.clk.args = [reader, unit, addr] →
    let record := fun (t : State) (d code : Nat) => (s.die d).efq.length < 256 → ∃ r, (t.die d).efq = (s.die d).efq ++ [r]
      ∧ r.w0.toNat / 2 ^ 48 = code ∧ r.w2 = BitVec.ofNat 64 addr
    let copies := s.clusters.flatMap fun e =>
      (e.2.bte.slots.filter fun m => m.2.opId == unit && m.2.phase == 2).map fun m => (e.1, m)
    let running := s.dies.flatMap fun e => (e.2.se.filter fun m => m.running && m.opId == unit).map fun m => (e.1, m)
    (∀ f, reader = 1 → s.fop unit = some f → f.stage ≠ 0 →
      ∃ t, exec .uncorrectableError s = .next t ∧ completed t unit ∧ (f.kind ≠ 7 → record t f.by_.die 0x303))
    ∧ (∀ cl i m, reader = 1 → s.fop unit = none → copies = [(cl, i, m)] → ∃ t, exec .uncorrectableError s = .next t
        ∧ unit ∉ t.net.live ∧ Tab.find (t.cluster cl).bte.slots i = none ∧ record t m.by_.die 0x103)
    ∧ (∀ d m c, reader = 1 → s.fop unit = none → copies = [] → running = [(d, m)] → m.by_.core = some c →
        ∃ t, exec .uncorrectableError s = .next t ∧ unit ∉ t.net.live ∧ (∀ x ∈ (t.die d).se, x.opId ≠ unit)
          ∧ (m.bar = none → t.mem = s.mem.writeN (spmAddr c m.status) 8 (m.done * 2 ^ 32 + 2 ^ 8 + m.flags.toNat))
          ∧ record t m.by_.die 0x203)
    ∧ (reader = 1 → s.fop unit = none → copies = [] → running = [] → exec .uncorrectableError s = .next s)
    ∧ (∀ c k, reader = 2 → unit = c * 8 + k → k < 8 → let x := (s.core c).stream k
      (s.mayFetch x = false → exec .uncorrectableError s = .next s)
      ∧ (s.mayFetch x = true → ∃ t, exec .uncorrectableError s = .next t ∧ record t (dieOf c) 0x103
          ∧ (t.core c).stream k = { x with fetched := x.fetched ++ [0], readyAt := s.clk.cycle + 1 }))
    ∧ (∀ d n, reader = 3 → unit = d * 4096 + n → n < 4096 →
      (Tab.find (s.die d).sched.placed n = none → exec .uncorrectableError s = .next s)
      ∧ ∀ p, Tab.find (s.die d).sched.placed n = some p →
        (p.copying = true → ∃ t, exec .uncorrectableError s = .next t ∧ (t.nodeEnt d n).state = 5 ∧ (t.nodeEnt d n).err = true
          ∧ Tab.find (t.die d).sched.placed n = none ∧ record t d 0x503)
        ∧ (p.copying = false → (nodeKind p.words = 2 ∨ nodeKind p.words = 3) → ∃ t, exec .uncorrectableError s = .next t
          ∧ Tab.find (t.die d).sched.placed n = some { p with bad := true } ∧ record t d 0x503)
        ∧ (p.copying = false → nodeKind p.words ≠ 2 → nodeKind p.words ≠ 3 → exec .uncorrectableError s = .next s)))
  ∧ (∀ pkg, s.mem.wf = true → s.clk.args = [pkg] → pkg < packages → ∃ t, exec .packageReset s = .next t ∧ t.time pkg = 0
      ∧ (∀ c, c / 512 = pkg → Tab.find t.cores c = none ∧ ∀ o, o < 2 ^ 20 → t.tagFull c o = true)
      ∧ (∀ cl, cl / 64 = pkg → Tab.find t.clusters cl = none)
      ∧ ((s.dies.map (·.1)).Nodup → ∀ d, d / 4 = pkg →
          t.die d = { Die.reset with sched := { Die.reset.sched with images := (s.die d).sched.images } })
      ∧ (∀ x, resetsAt pkg x = true → t.mem.read x = 0) ∧ (∀ x, resetsAt pkg x = false → t.mem.read x = s.mem.read x)
      ∧ (t.pkg pkg).firmware = (s.pkg pkg).firmware ∧ (∀ n, t.part pkg n = Part.reset)
      ∧ ∀ q, q ≠ pkg → t.pkg q = s.pkg q)

/-- R409 to R411: a change of an island's operating point that its table holds starts, and is made when it is done; one that
its table does not hold, or that the conditions of R409 and R410 rule out, is refused and changes nothing else. A write of
PGCTL drains a port group, and loads firmware where the group reads drained before it and is not left open by it; an image with
a good signature is counted and measured and one without it fails. The operating table and the signature are free values.
Where the rules leave it open it follows the model's reading in log entries 5, 48, 49 and 52. -/
def Obligations.IslandsAndPortGroups : Prop := ∀ (s : State) (who pkg : Nat), pkg < packages →
  (∀ isl val, s.clk.args = [who, pkg, isl, val] → isl < 1184 →
    let v := bits val 16 8
    let f := val % 2 ^ 7
    let k := s.island pkg isl
    let closed := 1100 ≤ isl ∧ isl < 1164 ∧
      s.drainedGroup pkg ((isl - 1100) / 4) (s.portGroup pkg ((isl - 1100) / 4)).drain = false
    let ok := 1 ≤ f ∧ f ≤ 64 ∧ Config.operating isl v f = true ∧ isl ≠ 1183 ∧ k.busy = false ∧ ¬ closed
    (who ≠ hypervisor → exec .islctlWrite s = .next s)
    ∧ (who = hypervisor → ok → ∃ t, exec .islctlWrite s = .next t ∧ keepsCores s t
        ∧ t.island pkg isl = { k with busy := true, refused := false, nextV := v, nextF := f, since := s.clk.cycle })
    ∧ (who = hypervisor → ¬ ok → ∃ t, exec .islctlWrite s = .next t ∧ keepsCores s t
        ∧ t.island pkg isl = { k with refused := true }))
  ∧ (∀ isl, s.clk.args = [pkg, isl] →
    ((s.island pkg isl).busy = true → ∃ t, exec .islandChangeDone s = .next t ∧ keepsCores s t ∧ t.island pkg isl =
      { s.island pkg isl with busy := false, vcode := (s.island pkg isl).nextV, frac := (s.island pkg isl).nextF })
    ∧ ((s.island pkg isl).busy = false → exec .islandChangeDone s = .next s))
  ∧ (∀ g val, s.clk.args = [who, pkg, g, val] → g < 16 → who = hypervisor → ∀ i ∈ [Instr.pgctlDrain, .pgctlLoad],
    let k := s.portGroup pkg g
    let a := bits val 4 52 * 16
    let drained := k.drain = true ∧ ∀ e ∈ s.net.fops, e.2.usesGroup pkg g = false ∨ s.heldByDrain e.2 = true
    let starts := bits val 61 1 = 1 ∧ bits val 63 1 = 1 ∧ drained ∧ k.busy = false
    (starts → ∃ t, exec i s = .next t ∧ keepsCores s t ∧ t.portGroup pkg g = { k with
        drain := true, fwaddr := a, load := true, busy := true, image := a })
    ∧ (¬ starts → ∃ t, exec i s = .next t ∧ keepsCores s t ∧ t.portGroup pkg g = { k with
        drain := bits val 63 1 == 1, fwaddr := a, load := bits val 61 1 == 1 && k.load }))
  ∧ (∀ g val, s.clk.args = [who, pkg, g, val] → who ≠ hypervisor →
      exec .pgctlDrain s = .next s ∧ exec .pgctlLoad s = .next s)
  ∧ (∀ g, s.clk.args = [pkg, g] →
    let k := s.portGroup pkg g
    (k.busy = false → exec .firmwareLoadDone s = .next s)
    ∧ (k.busy = true → ∃ t, exec .firmwareLoadDone s = .next t ∧ keepsCores s t
        ∧ t.portGroup pkg g = { k with busy := false, fail := !Config.firmwareSigned k.image }
        ∧ (t.pkg pkg).firmware = (s.pkg pkg).firmware + (if Config.firmwareSigned k.image = true then 1 else 0)
        ∧ (Config.firmwareSigned k.image = false → ∀ n, t.part pkg n = s.part pkg n)
        ∧ (Config.firmwareSigned k.image = true → ∀ n, n < 16 → (s.part pkg n).ctl.v = true → (s.part pkg n).sec.report = false →
            Tab.get 0 (t.part pkg n).sec.mr 0 = BitVec.ofNat 256 (leNum (sha256
              (leBytes 32 (Tab.get 0 (s.part pkg n).sec.mr 0).toNat ++ t.firmwareData pkg (t.firstCore pkg n)))))))

/-- R97, R98, R103 to R118, R232 and the worked encoding after R119: some words, written out from the tables of the spec, and
what they decode to; an unassigned opcode is illegal, and so are a reserved bit and a wide form that does not exist. -/
def Obligations.WordsDecodeAsWritten : Prop :=
  decodeSyl .C false 0xC592800 = .ok (.trans ⟨1, 3, 4, 2, 1⟩)
  ∧ decodeSyl .S false 0x18042001 = .ok (.addi ⟨0, 2, 2, 1⟩)
  ∧ decodeSyl .M false 0x20074D08 = .ok (.vld ⟨0, 7, 9, 2, 1, 0, 8⟩)
  ∧ decodeSyl .M true 0xFFFFFFFC000E8A00 = .ok (.ldWide ⟨0, 7, 8, 2, 1, 0, 0, 0xFFFFFFFC⟩)
  ∧ decodeSyl .V false 0x4CC41460 = .ok (.vfma ⟨3, 4, 5, 6, 0, 0, 0⟩)
  ∧ decodeSyl .X false 0x80538C0 = .ok (.zrd ⟨0, 5, 3, 17, 1, 0⟩)
  ∧ decodeSyl .E false 0x864298 = .ok (.copy ⟨2, 3, 4, 5, 6, 0, 0⟩)
  ∧ decodeSyl .E true 0xD0044064004 = .ok (.rgetWide ⟨0, 3, 4, 0, 1, 1, 5⟩)
  ∧ decodeMicro 0x1C00000000000064 = some (.mloop ⟨0, 0, 100⟩)
  ∧ decodeMicro 0x2628018000000000 = some (.marrive ⟨1, 0, 5, 3⟩)
  ∧ decodeSyl .V false 0x5C000000 = .error .illegalInstruction
  ∧ decodeSyl .S false 0x8 = .error .illegalEncoding
  ∧ decodeSyl .C true 0 = .error .illegalEncoding
  ∧ decodeBundle 0 0 = .ok ⟨[], [(0, .emptyBundle)], []⟩
  ∧ decodeBundle 0x624CC4146020074D0818042001801A 0
      = .ok ⟨[], [(1, .addi ⟨0, 2, 2, 1⟩), (3, .vld ⟨0, 7, 9, 2, 1, 0, 8⟩), (4, .vfma ⟨3, 4, 5, 6, 0, 0, 0⟩)], [(3, 2)]⟩

/-- R91, R97, R98, R103 to R111, R232: every well-formed syllable, short or wide, and every well-formed micro-operation is
read back from its words by its class's decoder, with every operand at every value; the four uses of MONCFG's one word are
read as the first. And a word that decodes is the word of what it decodes to, which is well formed, so no reserved bit of an
accepted word is set. -/
def Obligations.DecodeAndEncodeAgree : Prop :=
  (∀ i : Instr, i.wf = true → ∀ c wide, placeOf i = .syllable c wide →
    (∀ f, i ≠ .moncfgSnapshot f ∧ i ≠ .moncfgSnapshotClear f ∧ i ≠ .moncfgStop f) → decodeSyl c wide (encode i) = .ok i)
  ∧ (∀ f : FmtEM, FmtFits.EM f = true → ∀ i ∈ [Instr.moncfgSnapshot f, .moncfgSnapshotClear f, .moncfgStop f],
      decodeSyl .E false (encode i) = .ok (.moncfgConfigure f))
  ∧ (∀ i : Instr, i.wf = true → placeOf i = .micro → decodeMicro (encode i) = some i)
  ∧ (∀ c wide w i, decodeSyl c wide w = .ok i → i.wf = true ∧ encode i = w)
  ∧ (∀ w i, decodeMicro w = some i → i.wf = true ∧ encode i = w)

/-- R5, R24, R26, R32, R98, R100, R119, R371, R373, R374: a step runs the instruction that was decoded. An event at the head of
the cycle's agenda is executed with its operands; an empty agenda begins the next cycle. A core's turn that finds a bundle
executes the instructions of its slots, slot 0 last, at the state in which the attempt begins: from the decode queue in ATTACHED
mode, from the core's own address in DETACHED mode and in a handler, and for the one active context in STRAND mode. Where a slot
raises a fault, or the bundle does not decode, the turn takes the trap of the cause that stands first, then of the lowest slot,
with TPC the bundle's address, and nothing of the bundle is committed; else, where a wait is unmet, nothing is committed; else,
with at most 64 results in flight, what the slots answered is committed.
Where the rules leave it open it follows the model's reading in log entries 57, 77 and 88. -/
def Obligations.StepRunsTheDecodedInstruction : Prop :=
  (∀ (s : State) (i : Instr) (a : List Nat) (l : List Turn), s.clk.agenda = .event i a :: l →
    step s = exec i { s with clk := { s.clk with agenda := l, args := a } })
  ∧ (∀ s : State, s.clk.agenda = [] → ∃ t, step s = .next t ∧ t.clk.cycle = s.clk.cycle + 1
      ∧ ((∀ e ∈ s.cores, e.2.snap = none ∧ e.2.inits = []) → t.mem = s.mem))
  ∧ (∀ (s : State) (c : Nat) (w : List Turn), s.clk.agenda = .core c :: w → c < packages * 512 → runsNow s c →
    let u := turnStart s c w
    ∀ x a l, attemptsFrom s u c x a l →
      (∀ f, decodeBundle l a = .error f → ∃ v, step s = .next v ∧ trapsWith u v c x a f)
      ∧ ∀ b t, decodeBundle l a = .ok b → attempts u c x a b t →
        (t.iss.faults ≠ [] → ∃ f v, reportedOf t.iss.faults f ∧ step s = .next v ∧ trapsWith u v c x a f)
        ∧ (t.iss.faults = [] → t.iss.waits ≠ [] → (∀ y ∈ t.iss.waits, isHold y = false) → (t.core c).flying + t.withheld b.slots ≤ 64 →
            ∃ v, step s = .next v ∧ waitsOn u v c x)
        ∧ (t.iss.faults = [] → t.iss.waits = [] → (t.core c).flying ≤ 64 → step s = .next (t.commit u c x b)))

/-- R25, R26, R100: no syllable changes a register that can be seen as it executes. The scalar, predicate, vector and moved
registers, the control registers and the pc of every context are as they were; what the instruction sends on its way is a
result for one of the registers it writes, or for the stream bound to it, or flags alone, in the issuing context; memory
changes only where the instruction stores, and tags only where it stores or is one that sets tags. -/
def Obligations.SyllableFrame : Prop := ∀ (i : Instr) (s t : State) (cl : Cls) (wide : Bool), placeOf i = .syllable cl wide →
  exec i s = .next t →
  (∀ c x n, (t.ctx c x).readS n = (s.ctx c x).readS n ∧ (t.ctx c x).readP n = (s.ctx c x).readP n)
  ∧ (∀ c x, (t.ctx c x).csr = (s.ctx c x).csr ∧ (t.ctx c x).pc = (s.ctx c x).pc)
  ∧ (∀ c, (t.core c).v = (s.core c).v ∧ (t.core c).m = (s.core c).m ∧ (t.core c).csr = (s.core c).csr
      ∧ (t.core c).ident = (s.core c).ident)
  ∧ (∀ c x, ∀ r ∈ (t.ctx c x).inflight, r ∈ (s.ctx c x).inflight ∨ (c = s.iss.core ∧ x = s.iss.ctx
      ∧ (r.reg ∈ regWrites i ∨ r.reg = .flagsOnly ∨ ∃ k, r.reg = .push k ∧ .v (k + 56) ∈ regWrites i)))
  ∧ (storesBytes i = false → t.mem = s.mem) ∧ (changesTags i = false → t.tags = s.tags)
  ∧ t.clk.agenda = s.clk.agenda ∧ t.clk.cycle = s.clk.cycle

/-- R98, R99, R156, R175: a slot whose guard is false changes nothing, whatever its instruction, or raises IllegalEncoding or
IllegalInContext and nothing else; the instructions excepted are those whose destination R156 writes whole. -/
def Obligations.FalseGuardNullifies : Prop := ∀ (i : Instr) (s : State) (cl : Cls) (wide : Bool), placeOf i = .syllable cl wide →
  ignoresGuard i = false → s.slotOff (slotOf i) i = true →
  exec i s = .next s ∨ ∃ code tval, (code = illegalEncoding ∨ code = illegalInContext) ∧ exec i s = .next (s.fault code tval)

/-- R126, R129, R130, R192, R193, R321, R351: right after reset every byte of SPM, CMEM and DMEM is 0 and every tag FULL, the
memory is in its canonical form, no core is in a node or runs, each being DETACHED at level P with CSRs as R129 gives them,
and the tables, the schedulers and the counters are empty. Bytes of HBM and host memory read 0 too, which is the model's
choice (log entry 1). -/
def Obligations.ResetState : Prop :=
  State.reset.mem.wf = true ∧ (∀ a, State.reset.mem.read a = 0) ∧ (∀ c o, State.reset.tagFull c o = true)
  ∧ (∀ c, (State.reset.core c).ident.mode = 1 ∧ (State.reset.core c).ident.pl = true ∧ (State.reset.core c).ident.placed = false
      ∧ (State.reset.core c).ident.started = false ∧ (State.reset.core c).csr.barbase = 0x7FE
      ∧ (State.reset.core c).csr.taglimit = 0x100000 ∧ (State.reset.core c).csr.joinlimit = 0x10000
      ∧ (State.reset.core c).csr.waitlimit = 0x1000000)
  ∧ (∀ c x n, (State.reset.ctx c x).readS n = 0 ∧ (State.reset.ctx c x).run.active = false ∧ (State.reset.ctx c x).inflight = [])
  ∧ (∀ p, State.reset.time p = 0) ∧ (∀ d i, (State.reset.nodeEnt d i).state = 0 ∧ (State.reset.die d).efq = [])
  ∧ (∀ p n, (State.reset.part p n).ctl.v = false) ∧ (∀ p w, (State.reset.redWin p w).valid = false)

/-- R1, R192: every step keeps the memory in its canonical form (addresses rising, no byte listed that an unlisted address
reads as) and leaves no turn for a core that the network has not; and in a state whose turns name cores of the network every
step answers a next state: the machine never stops. -/
def Obligations.EveryStepKeepsTheInvariant : Prop := ∀ s : State, s.memOk → s.turnsOk = true →
  ∃ t, step s = .next t ∧ t.memOk ∧ t.turnsOk = true
end

