-- ==== Sys2Proof/Laws/Memory.lean ====
section
/-! SUPPORT. Laws of memory: a byte written reads back, others stay, and every operation keeps the canonical form. -/

namespace Sys2Proof.Machine

@[simp] theorem cellsRead_nil (a : Nat) : cellsRead [] a = unlisted := rfl

/-- A form that holds from n holds from any lower address. -/
theorem cellsWf_mono {n m : Nat} {l : List Host.Cell} (h : cellsWf n l = true) (hm : m ≤ n) : cellsWf m l = true := by
  cases l with
  | nil => rfl
  | cons c l =>
    simp only [cellsWf, Bool.and_eq_true, decide_eq_true_eq] at h ⊢
    exact ⟨⟨by omega, h.1.2⟩, h.2⟩

/-- An address below every listed one reads as unlisted. -/
theorem cellsRead_below {n a : Nat} {l : List Host.Cell} (h : cellsWf n l = true) (ha : a < n) :
    cellsRead l a = unlisted := by
  cases l with
  | nil => rfl
  | cons c l =>
    simp only [cellsWf, Bool.and_eq_true, decide_eq_true_eq] at h
    have h1 : c.1 ≠ a := by omega
    have h2 : a < c.1 := by omega
    simp [cellsRead, h1, h2]

/-- One byte written keeps the form. -/
theorem cellsWf_write {n : Nat} {l : List Host.Cell} (h : cellsWf n l = true) {a : Nat} (ha : n ≤ a) (b : Byte) :
    cellsWf n (cellsWrite l a b) = true := by
  induction l generalizing n with
  | nil =>
    by_cases hb : b = unlisted <;> simp [cellsWrite, hb, cellsWf, ha]
  | cons c l ih =>
    obtain ⟨i, c⟩ := c
    simp only [cellsWf, Bool.and_eq_true, decide_eq_true_eq] at h
    obtain ⟨⟨h1, h2⟩, h3⟩ := h
    by_cases e : i = a
    · subst e
      by_cases hb : b = unlisted
      · simpa [cellsWrite, hb] using cellsWf_mono h3 (by omega)
      · simp [cellsWrite, hb, cellsWf, h1, h3]
    · by_cases lt : a < i
      · by_cases hb : b = unlisted
        · simpa [cellsWrite, hb, e, lt, cellsWf, h1, h3] using h2
        · have : a + 1 ≤ i := lt
          simp only [cellsWrite, if_neg e, if_pos lt, if_neg hb, cellsWf, Bool.and_eq_true, decide_eq_true_eq]
          exact ⟨⟨ha, by simpa using hb⟩, ⟨this, h2⟩, h3⟩
      · have := ih (n := i + 1) h3 (by omega)
        simp only [cellsWrite, if_neg e, if_neg lt, cellsWf, Bool.and_eq_true, decide_eq_true_eq]
        exact ⟨⟨h1, h2⟩, this⟩

/-- What a byte reads as after one byte is written. -/
theorem cellsRead_write {n : Nat} {l : List Host.Cell} (h : cellsWf n l = true) (a : Nat) (b : Byte) (x : Nat) :
    cellsRead (cellsWrite l a b) x = if x = a then b else cellsRead l x := by
  induction l generalizing n with
  | nil =>
    by_cases hb : b = unlisted
    · by_cases e : x = a <;> simp [cellsWrite, hb, e]
    · by_cases e : x = a
      · simp [cellsWrite, hb, e, cellsRead]
      · have e' : ¬ a = x := fun t => e t.symm
        simp [cellsWrite, hb, e, e', cellsRead]
  | cons c l ih =>
    obtain ⟨i, c⟩ := c
    simp only [cellsWf, Bool.and_eq_true, decide_eq_true_eq] at h
    obtain ⟨⟨h1, h2⟩, h3⟩ := h
    by_cases e : i = a
    · subst e
      by_cases hb : b = unlisted
      · by_cases ex : x = i
        · subst ex
          simp [cellsWrite, hb, cellsRead_below h3 (Nat.lt_succ_self _)]
        · have ex' : ¬ i = x := fun t => ex t.symm
          by_cases lt : x < i
          · simp [cellsWrite, hb, ex, ex', cellsRead, lt, cellsRead_below h3 (show x < i + 1 by omega)]
          · simp [cellsWrite, hb, ex, ex', cellsRead, lt]
      · by_cases ex : x = i
        · subst ex; simp [cellsWrite, hb, cellsRead]
        · have ex' : ¬ i = x := fun t => ex t.symm
          simp [cellsWrite, hb, ex, ex', cellsRead]
    · by_cases lt : a < i
      · by_cases hb : b = unlisted
        · by_cases ex : x = a
          · subst ex; simp [cellsWrite, hb, e, lt, cellsRead]
          · simp [cellsWrite, hb, e, lt, ex]
        · by_cases ex : x = a
          · subst ex; simp [cellsWrite, hb, e, lt, cellsRead]
          · have ex' : ¬ a = x := fun t => ex t.symm
            simp only [cellsWrite, if_neg e, if_pos lt, if_neg hb, if_neg ex, cellsRead, if_neg ex']
            by_cases la : x < a
            · have : ¬ i = x := by omega
              have : x < i := by omega
              simp [*]
            · simp [la]
      · simp only [cellsWrite, if_neg e, if_neg lt]
        by_cases ei : i = x
        · subst ei; simp [cellsRead, e]
        · by_cases li : x < i
          · have : x ≠ a := by omega
            simp [cellsRead, ei, li, this]
          · simp only [cellsRead, if_neg ei, if_neg li]
            exact ih h3

/-- A filter keeps the form. -/
theorem cellsWf_filter (p : Host.Cell → Bool) {n : Nat} {l : List Host.Cell} (h : cellsWf n l = true) :
    cellsWf n (l.filter p) = true := by
  induction l generalizing n with
  | nil => rfl
  | cons c l ih =>
    simp only [cellsWf, Bool.and_eq_true, decide_eq_true_eq] at h
    by_cases hp : p c = true
    · simp only [List.filter_cons, hp, if_true, cellsWf, Bool.and_eq_true, decide_eq_true_eq]
      exact ⟨h.1, ih h.2⟩
    · simp only [List.filter_cons, hp]
      exact ih (cellsWf_mono h.2 (by omega))

/-- A byte written reads back, and any other reads as before. -/
theorem Memory.read_write {m : Memory} (h : m.wf = true) (a : Nat) (b : Byte) (x : Nat) :
    (m.write a b).read x = if x = a then b else m.read x := cellsRead_write h a b x
/-- One byte written keeps the form. -/
theorem Memory.wf_write {m : Memory} (h : m.wf = true) (a : Nat) (b : Byte) : (m.write a b).wf = true :=
  cellsWf_write h (Nat.zero_le _) b
/-- A number written keeps the form. -/
theorem Memory.wf_writeN {m : Memory} (h : m.wf = true) (a n v : Nat) : (m.writeN a n v).wf = true := by
  induction n generalizing m a v with
  | zero => exact h
  | succ n ih => exact ih (Memory.wf_write h _ _) _ _
/-- Bytes written keep the form. -/
theorem Memory.wf_writeBytes {m : Memory} (h : m.wf = true) (a : Nat) (l : List Nat) : (m.writeBytes a l).wf = true := by
  induction l generalizing m a with
  | nil => exact h
  | cons b l ih => exact ih (Memory.wf_write h _ _) _
/-- Lanes written keep the form. -/
theorem Memory.wf_writeLanes {m : Memory} (h : m.wf = true) (a : Nat) (v : VecWord) (k : BitVec 64) (n : Nat) :
    (m.writeLanes a v k n).wf = true := by
  induction n with
  | zero => exact h
  | succ n ih =>
    simp only [Memory.writeLanes]
    split
    · exact Memory.wf_writeN ih _ _ _
    · exact ih
/-- A range forgotten keeps the form. -/
theorem Memory.wf_zero {m : Memory} (h : m.wf = true) (a n : Nat) : (m.zero a n).wf = true := cellsWf_filter _ h
/-- Bytes outside the n written read as before. -/
theorem Memory.read_writeN_outside {m : Memory} (h : m.wf = true) {a n x : Nat} (v : Nat) (hx : x < a ∨ a + n ≤ x) :
    (m.writeN a n v).read x = m.read x := by
  induction n generalizing m a v with
  | zero => rfl
  | succ n ih =>
    rw [Memory.writeN, ih (Memory.wf_write h _ _) _ (by omega), Memory.read_write h]
    have : x ≠ a := by omega
    simp [this]
/-- Bytes outside those written read as before. -/
theorem Memory.read_writeBytes_outside {m : Memory} (h : m.wf = true) {a x : Nat} (l : List Nat)
    (hx : x < a ∨ a + l.length ≤ x) : (m.writeBytes a l).read x = m.read x := by
  induction l generalizing m a with
  | nil => rfl
  | cons b l ih =>
    simp only [List.length_cons] at hx
    rw [Memory.writeBytes, ih (Memory.wf_write h _ _) (by omega), Memory.read_write h]
    have : x ≠ a := by omega
    simp [this]
/-- A number written reads back. -/
theorem Memory.readN_writeN {m : Memory} (h : m.wf = true) (a n v : Nat) :
    (m.writeN a n v).readN a n = v % 256 ^ n := by
  induction n generalizing m a v with
  | zero => simp [Memory.readN, Nat.mod_one]
  | succ n ih =>
    have h' := Memory.wf_write h a (BitVec.ofNat 8 v)
    rw [Memory.writeN, Memory.readN, ih h', Memory.read_writeN_outside h' _ (Or.inl (Nat.lt_succ_self a)), Memory.read_write h]
    have e : v % 256 ^ (n + 1) = v % 256 + 256 * (v / 256 % 256 ^ n) := by
      rw [Nat.pow_succ, Nat.mul_comm, Nat.mod_mul]
    simp [e]

end Sys2Proof.Machine
end

