-- ==== Sys2Proof/Laws/State.lean ====
section
/-! SUPPORT. Laws of the state's updates: what each leaves unchanged, and what a table reads after a write. -/

namespace Sys2Proof.Machine

/-! ### Tables -/

@[simp] theorem Tab.get_set {α : Type} (d : α) (t : Tab α) (k j : Nat) (v : α) :
    Tab.get d (Tab.set t k v) j = if j = k then v else Tab.get d t j := by
  induction t with
  | nil =>
    by_cases h : j = k
    · simp [Tab.set, Tab.get, h]
    · simp [Tab.set, Tab.get, h, Ne.symm h]
  | cons e l ih =>
    obtain ⟨i, w⟩ := e
    by_cases hk : i = k
    · subst hk
      by_cases h : j = i
      · simp [Tab.set, Tab.get, h]
      · simp [Tab.set, Tab.get, h, Ne.symm h]
    · by_cases lt : k < i
      · by_cases h : j = k
        · simp [Tab.set, Tab.get, hk, lt, h]
        · simp [Tab.set, Tab.get, hk, lt, h, Ne.symm h]
      · by_cases h : i = j
        · subst h; simp [Tab.set, Tab.get, hk, lt]
        · simp [Tab.set, Tab.get, hk, lt, h, ih]
@[simp] theorem Tab.get_upd {α : Type} (d : α) (t : Tab α) (k j : Nat) (f : α → α) :
    Tab.get d (Tab.upd d t k f) j = if j = k then f (Tab.get d t k) else Tab.get d t j := Tab.get_set d t k j _
/-- What is found is what is read. -/
theorem Tab.get_of_find {α : Type} (d : α) {t : Tab α} {k : Nat} {v : α} (h : Tab.find t k = some v) :
    Tab.get d t k = v := by
  induction t with
  | nil => cases h
  | cons e l ih =>
    obtain ⟨i, w⟩ := e
    by_cases hk : i = k
    · simpa [Tab.find, Tab.get, hk] using h
    · simp only [Tab.find, if_neg hk] at h
      simpa [Tab.get, hk] using ih h

/-! ### What each update leaves unchanged -/

@[simp] theorem State.modCore_clk (s : State) (c : Nat) (f : Core → Core) : (s.modCore c f).clk = s.clk := rfl
@[simp] theorem State.modCore_mem (s : State) (c : Nat) (f : Core → Core) : (s.modCore c f).mem = s.mem := rfl
@[simp] theorem State.modCore_tags (s : State) (c : Nat) (f : Core → Core) : (s.modCore c f).tags = s.tags := rfl
@[simp] theorem State.modCore_clusters (s : State) (c : Nat) (f : Core → Core) : (s.modCore c f).clusters = s.clusters := rfl
@[simp] theorem State.modCore_dies (s : State) (c : Nat) (f : Core → Core) : (s.modCore c f).dies = s.dies := rfl
@[simp] theorem State.modCore_pkgs (s : State) (c : Nat) (f : Core → Core) : (s.modCore c f).pkgs = s.pkgs := rfl
@[simp] theorem State.modCore_net (s : State) (c : Nat) (f : Core → Core) : (s.modCore c f).net = s.net := rfl
@[simp] theorem State.modCore_watch (s : State) (c : Nat) (f : Core → Core) : (s.modCore c f).watch = s.watch := rfl
@[simp] theorem State.modCore_iss (s : State) (c : Nat) (f : Core → Core) : (s.modCore c f).iss = s.iss := rfl
@[simp] theorem State.modCtx_clk (s : State) (c x : Nat) (f : Ctx → Ctx) : (s.modCtx c x f).clk = s.clk := rfl
@[simp] theorem State.modCtx_mem (s : State) (c x : Nat) (f : Ctx → Ctx) : (s.modCtx c x f).mem = s.mem := rfl
@[simp] theorem State.modCtx_tags (s : State) (c x : Nat) (f : Ctx → Ctx) : (s.modCtx c x f).tags = s.tags := rfl
@[simp] theorem State.modCtx_clusters (s : State) (c x : Nat) (f : Ctx → Ctx) : (s.modCtx c x f).clusters = s.clusters := rfl
@[simp] theorem State.modCtx_dies (s : State) (c x : Nat) (f : Ctx → Ctx) : (s.modCtx c x f).dies = s.dies := rfl
@[simp] theorem State.modCtx_pkgs (s : State) (c x : Nat) (f : Ctx → Ctx) : (s.modCtx c x f).pkgs = s.pkgs := rfl
@[simp] theorem State.modCtx_net (s : State) (c x : Nat) (f : Ctx → Ctx) : (s.modCtx c x f).net = s.net := rfl
@[simp] theorem State.modCtx_watch (s : State) (c x : Nat) (f : Ctx → Ctx) : (s.modCtx c x f).watch = s.watch := rfl
@[simp] theorem State.modCtx_iss (s : State) (c x : Nat) (f : Ctx → Ctx) : (s.modCtx c x f).iss = s.iss := rfl
@[simp] theorem State.modCluster_clk (s : State) (c : Nat) (f : Cluster → Cluster) : (s.modCluster c f).clk = s.clk := rfl
@[simp] theorem State.modCluster_mem (s : State) (c : Nat) (f : Cluster → Cluster) : (s.modCluster c f).mem = s.mem := rfl
@[simp] theorem State.modCluster_tags (s : State) (c : Nat) (f : Cluster → Cluster) : (s.modCluster c f).tags = s.tags := rfl
@[simp] theorem State.modCluster_cores (s : State) (c : Nat) (f : Cluster → Cluster) : (s.modCluster c f).cores = s.cores := rfl
@[simp] theorem State.modCluster_dies (s : State) (c : Nat) (f : Cluster → Cluster) : (s.modCluster c f).dies = s.dies := rfl
@[simp] theorem State.modCluster_pkgs (s : State) (c : Nat) (f : Cluster → Cluster) : (s.modCluster c f).pkgs = s.pkgs := rfl
@[simp] theorem State.modCluster_net (s : State) (c : Nat) (f : Cluster → Cluster) : (s.modCluster c f).net = s.net := rfl
@[simp] theorem State.modCluster_watch (s : State) (c : Nat) (f : Cluster → Cluster) : (s.modCluster c f).watch = s.watch := rfl
@[simp] theorem State.modCluster_iss (s : State) (c : Nat) (f : Cluster → Cluster) : (s.modCluster c f).iss = s.iss := rfl
@[simp] theorem State.modDie_clk (s : State) (d : Nat) (f : Die → Die) : (s.modDie d f).clk = s.clk := rfl
@[simp] theorem State.modDie_mem (s : State) (d : Nat) (f : Die → Die) : (s.modDie d f).mem = s.mem := rfl
@[simp] theorem State.modDie_tags (s : State) (d : Nat) (f : Die → Die) : (s.modDie d f).tags = s.tags := rfl
@[simp] theorem State.modDie_cores (s : State) (d : Nat) (f : Die → Die) : (s.modDie d f).cores = s.cores := rfl
@[simp] theorem State.modDie_clusters (s : State) (d : Nat) (f : Die → Die) : (s.modDie d f).clusters = s.clusters := rfl
@[simp] theorem State.modDie_pkgs (s : State) (d : Nat) (f : Die → Die) : (s.modDie d f).pkgs = s.pkgs := rfl
@[simp] theorem State.modDie_net (s : State) (d : Nat) (f : Die → Die) : (s.modDie d f).net = s.net := rfl
@[simp] theorem State.modDie_watch (s : State) (d : Nat) (f : Die → Die) : (s.modDie d f).watch = s.watch := rfl
@[simp] theorem State.modDie_iss (s : State) (d : Nat) (f : Die → Die) : (s.modDie d f).iss = s.iss := rfl
@[simp] theorem State.modSched_clk (s : State) (d : Nat) (f : Sched → Sched) : (s.modSched d f).clk = s.clk := rfl
@[simp] theorem State.modSched_mem (s : State) (d : Nat) (f : Sched → Sched) : (s.modSched d f).mem = s.mem := rfl
@[simp] theorem State.modSched_tags (s : State) (d : Nat) (f : Sched → Sched) : (s.modSched d f).tags = s.tags := rfl
@[simp] theorem State.modSched_cores (s : State) (d : Nat) (f : Sched → Sched) : (s.modSched d f).cores = s.cores := rfl
@[simp] theorem State.modSched_clusters (s : State) (d : Nat) (f : Sched → Sched) : (s.modSched d f).clusters = s.clusters := rfl
@[simp] theorem State.modSched_pkgs (s : State) (d : Nat) (f : Sched → Sched) : (s.modSched d f).pkgs = s.pkgs := rfl
@[simp] theorem State.modSched_net (s : State) (d : Nat) (f : Sched → Sched) : (s.modSched d f).net = s.net := rfl
@[simp] theorem State.modSched_watch (s : State) (d : Nat) (f : Sched → Sched) : (s.modSched d f).watch = s.watch := rfl
@[simp] theorem State.modSched_iss (s : State) (d : Nat) (f : Sched → Sched) : (s.modSched d f).iss = s.iss := rfl
@[simp] theorem State.modNode_clk (s : State) (d i : Nat) (f : NodeEnt → NodeEnt) : (s.modNode d i f).clk = s.clk := rfl
@[simp] theorem State.modNode_mem (s : State) (d i : Nat) (f : NodeEnt → NodeEnt) : (s.modNode d i f).mem = s.mem := rfl
@[simp] theorem State.modNode_tags (s : State) (d i : Nat) (f : NodeEnt → NodeEnt) : (s.modNode d i f).tags = s.tags := rfl
@[simp] theorem State.modNode_cores (s : State) (d i : Nat) (f : NodeEnt → NodeEnt) : (s.modNode d i f).cores = s.cores := rfl
@[simp] theorem State.modNode_clusters (s : State) (d i : Nat) (f : NodeEnt → NodeEnt) : (s.modNode d i f).clusters = s.clusters := rfl
@[simp] theorem State.modNode_pkgs (s : State) (d i : Nat) (f : NodeEnt → NodeEnt) : (s.modNode d i f).pkgs = s.pkgs := rfl
@[simp] theorem State.modNode_net (s : State) (d i : Nat) (f : NodeEnt → NodeEnt) : (s.modNode d i f).net = s.net := rfl
@[simp] theorem State.modNode_watch (s : State) (d i : Nat) (f : NodeEnt → NodeEnt) : (s.modNode d i f).watch = s.watch := rfl
@[simp] theorem State.modNode_iss (s : State) (d i : Nat) (f : NodeEnt → NodeEnt) : (s.modNode d i f).iss = s.iss := rfl
@[simp] theorem State.modPkg_clk (s : State) (p : Nat) (f : Pkg → Pkg) : (s.modPkg p f).clk = s.clk := rfl
@[simp] theorem State.modPkg_mem (s : State) (p : Nat) (f : Pkg → Pkg) : (s.modPkg p f).mem = s.mem := rfl
@[simp] theorem State.modPkg_tags (s : State) (p : Nat) (f : Pkg → Pkg) : (s.modPkg p f).tags = s.tags := rfl
@[simp] theorem State.modPkg_cores (s : State) (p : Nat) (f : Pkg → Pkg) : (s.modPkg p f).cores = s.cores := rfl
@[simp] theorem State.modPkg_clusters (s : State) (p : Nat) (f : Pkg → Pkg) : (s.modPkg p f).clusters = s.clusters := rfl
@[simp] theorem State.modPkg_dies (s : State) (p : Nat) (f : Pkg → Pkg) : (s.modPkg p f).dies = s.dies := rfl
@[simp] theorem State.modPkg_net (s : State) (p : Nat) (f : Pkg → Pkg) : (s.modPkg p f).net = s.net := rfl
@[simp] theorem State.modPkg_watch (s : State) (p : Nat) (f : Pkg → Pkg) : (s.modPkg p f).watch = s.watch := rfl
@[simp] theorem State.modPkg_iss (s : State) (p : Nat) (f : Pkg → Pkg) : (s.modPkg p f).iss = s.iss := rfl
@[simp] theorem State.modPart_clk (s : State) (p n : Nat) (f : Part → Part) : (s.modPart p n f).clk = s.clk := rfl
@[simp] theorem State.modPart_mem (s : State) (p n : Nat) (f : Part → Part) : (s.modPart p n f).mem = s.mem := rfl
@[simp] theorem State.modPart_tags (s : State) (p n : Nat) (f : Part → Part) : (s.modPart p n f).tags = s.tags := rfl
@[simp] theorem State.modPart_cores (s : State) (p n : Nat) (f : Part → Part) : (s.modPart p n f).cores = s.cores := rfl
@[simp] theorem State.modPart_clusters (s : State) (p n : Nat) (f : Part → Part) : (s.modPart p n f).clusters = s.clusters := rfl
@[simp] theorem State.modPart_dies (s : State) (p n : Nat) (f : Part → Part) : (s.modPart p n f).dies = s.dies := rfl
@[simp] theorem State.modPart_net (s : State) (p n : Nat) (f : Part → Part) : (s.modPart p n f).net = s.net := rfl
@[simp] theorem State.modPart_watch (s : State) (p n : Nat) (f : Part → Part) : (s.modPart p n f).watch = s.watch := rfl
@[simp] theorem State.modPart_iss (s : State) (p n : Nat) (f : Part → Part) : (s.modPart p n f).iss = s.iss := rfl
@[simp] theorem State.modApex_clk (s : State) (p : Nat) (f : Apex → Apex) : (s.modApex p f).clk = s.clk := rfl
@[simp] theorem State.modApex_mem (s : State) (p : Nat) (f : Apex → Apex) : (s.modApex p f).mem = s.mem := rfl
@[simp] theorem State.modApex_tags (s : State) (p : Nat) (f : Apex → Apex) : (s.modApex p f).tags = s.tags := rfl
@[simp] theorem State.modApex_cores (s : State) (p : Nat) (f : Apex → Apex) : (s.modApex p f).cores = s.cores := rfl
@[simp] theorem State.modApex_clusters (s : State) (p : Nat) (f : Apex → Apex) : (s.modApex p f).clusters = s.clusters := rfl
@[simp] theorem State.modApex_dies (s : State) (p : Nat) (f : Apex → Apex) : (s.modApex p f).dies = s.dies := rfl
@[simp] theorem State.modApex_net (s : State) (p : Nat) (f : Apex → Apex) : (s.modApex p f).net = s.net := rfl
@[simp] theorem State.modApex_watch (s : State) (p : Nat) (f : Apex → Apex) : (s.modApex p f).watch = s.watch := rfl
@[simp] theorem State.modApex_iss (s : State) (p : Nat) (f : Apex → Apex) : (s.modApex p f).iss = s.iss := rfl
@[simp] theorem State.modIss_clk (s : State) (f : Issue → Issue) : (s.modIss f).clk = s.clk := rfl
@[simp] theorem State.modIss_mem (s : State) (f : Issue → Issue) : (s.modIss f).mem = s.mem := rfl
@[simp] theorem State.modIss_tags (s : State) (f : Issue → Issue) : (s.modIss f).tags = s.tags := rfl
@[simp] theorem State.modIss_cores (s : State) (f : Issue → Issue) : (s.modIss f).cores = s.cores := rfl
@[simp] theorem State.modIss_clusters (s : State) (f : Issue → Issue) : (s.modIss f).clusters = s.clusters := rfl
@[simp] theorem State.modIss_dies (s : State) (f : Issue → Issue) : (s.modIss f).dies = s.dies := rfl
@[simp] theorem State.modIss_pkgs (s : State) (f : Issue → Issue) : (s.modIss f).pkgs = s.pkgs := rfl
@[simp] theorem State.modIss_net (s : State) (f : Issue → Issue) : (s.modIss f).net = s.net := rfl
@[simp] theorem State.modIss_watch (s : State) (f : Issue → Issue) : (s.modIss f).watch = s.watch := rfl
@[simp] theorem State.setTag_clk (s : State) (c o : Nat) (b : Bool) : (s.setTag c o b).clk = s.clk := rfl
@[simp] theorem State.setTag_mem (s : State) (c o : Nat) (b : Bool) : (s.setTag c o b).mem = s.mem := rfl
@[simp] theorem State.setTag_cores (s : State) (c o : Nat) (b : Bool) : (s.setTag c o b).cores = s.cores := rfl
@[simp] theorem State.setTag_clusters (s : State) (c o : Nat) (b : Bool) : (s.setTag c o b).clusters = s.clusters := rfl
@[simp] theorem State.setTag_dies (s : State) (c o : Nat) (b : Bool) : (s.setTag c o b).dies = s.dies := rfl
@[simp] theorem State.setTag_pkgs (s : State) (c o : Nat) (b : Bool) : (s.setTag c o b).pkgs = s.pkgs := rfl
@[simp] theorem State.setTag_net (s : State) (c o : Nat) (b : Bool) : (s.setTag c o b).net = s.net := rfl
@[simp] theorem State.setTag_watch (s : State) (c o : Nat) (b : Bool) : (s.setTag c o b).watch = s.watch := rfl
@[simp] theorem State.setTag_iss (s : State) (c o : Nat) (b : Bool) : (s.setTag c o b).iss = s.iss := rfl
@[simp] theorem State.endOp_clk (s : State) (i : Nat) : (s.endOp i).clk = s.clk := rfl
@[simp] theorem State.endOp_mem (s : State) (i : Nat) : (s.endOp i).mem = s.mem := rfl
@[simp] theorem State.endOp_tags (s : State) (i : Nat) : (s.endOp i).tags = s.tags := rfl
@[simp] theorem State.endOp_cores (s : State) (i : Nat) : (s.endOp i).cores = s.cores := rfl
@[simp] theorem State.endOp_clusters (s : State) (i : Nat) : (s.endOp i).clusters = s.clusters := rfl
@[simp] theorem State.endOp_dies (s : State) (i : Nat) : (s.endOp i).dies = s.dies := rfl
@[simp] theorem State.endOp_pkgs (s : State) (i : Nat) : (s.endOp i).pkgs = s.pkgs := rfl
@[simp] theorem State.endOp_iss (s : State) (i : Nat) : (s.endOp i).iss = s.iss := rfl
@[simp] theorem State.endOp_watch (s : State) (i : Nat) : (s.endOp i).watch = s.watch := rfl
@[simp] theorem State.newOp_clk (s : State) : s.newOp.2.clk = s.clk := rfl
@[simp] theorem State.draw_mem (s : State) : s.draw.2.mem = s.mem := rfl
@[simp] theorem State.newOp_mem (s : State) : s.newOp.2.mem = s.mem := rfl
@[simp] theorem State.draw_tags (s : State) : s.draw.2.tags = s.tags := rfl
@[simp] theorem State.newOp_tags (s : State) : s.newOp.2.tags = s.tags := rfl
@[simp] theorem State.draw_cores (s : State) : s.draw.2.cores = s.cores := rfl
@[simp] theorem State.newOp_cores (s : State) : s.newOp.2.cores = s.cores := rfl
@[simp] theorem State.draw_clusters (s : State) : s.draw.2.clusters = s.clusters := rfl
@[simp] theorem State.newOp_clusters (s : State) : s.newOp.2.clusters = s.clusters := rfl
@[simp] theorem State.draw_dies (s : State) : s.draw.2.dies = s.dies := rfl
@[simp] theorem State.newOp_dies (s : State) : s.newOp.2.dies = s.dies := rfl
@[simp] theorem State.draw_pkgs (s : State) : s.draw.2.pkgs = s.pkgs := rfl
@[simp] theorem State.newOp_pkgs (s : State) : s.newOp.2.pkgs = s.pkgs := rfl
@[simp] theorem State.draw_net (s : State) : s.draw.2.net = s.net := rfl
@[simp] theorem State.draw_watch (s : State) : s.draw.2.watch = s.watch := rfl
@[simp] theorem State.draw_iss (s : State) : s.draw.2.iss = s.iss := rfl
@[simp] theorem State.newOp_iss (s : State) : s.newOp.2.iss = s.iss := rfl
@[simp] theorem State.newOp_watch (s : State) : s.newOp.2.watch = s.watch := rfl

/-! ### What a unit is after an update -/

@[simp] theorem State.modIss_iss (s : State) (f : Issue → Issue) : (s.modIss f).iss = f s.iss := rfl
@[simp] theorem State.modCore_core (s : State) (c d : Nat) (f : Core → Core) :
    (s.modCore c f).core d = if d = c then f (s.core c) else s.core d := Tab.get_upd _ _ _ _ _
@[simp] theorem State.modCluster_cluster (s : State) (c d : Nat) (f : Cluster → Cluster) :
    (s.modCluster c f).cluster d = if d = c then f (s.cluster c) else s.cluster d := Tab.get_upd _ _ _ _ _
@[simp] theorem State.modDie_die (s : State) (c d : Nat) (f : Die → Die) :
    (s.modDie c f).die d = if d = c then f (s.die c) else s.die d := Tab.get_upd _ _ _ _ _
@[simp] theorem State.modPkg_pkg (s : State) (c d : Nat) (f : Pkg → Pkg) :
    (s.modPkg c f).pkg d = if d = c then f (s.pkg c) else s.pkg d := Tab.get_upd _ _ _ _ _
/-- A context after its update, and the others. -/
@[simp] theorem State.modCtx_ctx (s : State) (c x d y : Nat) (f : Ctx → Ctx) :
    (s.modCtx c x f).ctx d y = if d = c ∧ y = x then f (s.ctx c x) else s.ctx d y := by
  by_cases h : d = c
  · subst h; simp [State.modCtx, State.ctx, Core.ctx]
  · simp [State.modCtx, State.ctx, h]
/-- A partition after its update, and the others. -/
@[simp] theorem State.modPart_part (s : State) (p n q m : Nat) (f : Part → Part) :
    (s.modPart p n f).part q m = if q = p ∧ m = n then f (s.part p n) else s.part q m := by
  by_cases h : q = p
  · subst h; simp [State.modPart, State.part]
  · simp [State.modPart, State.part, h]
/-- A node's entry after its update, and the others. -/
@[simp] theorem State.modNode_nodeEnt (s : State) (d i e j : Nat) (f : NodeEnt → NodeEnt) :
    (s.modNode d i f).nodeEnt e j = if e = d ∧ j = i then f (s.nodeEnt d i) else s.nodeEnt e j := by
  by_cases h : e = d
  · subst h; simp [State.modNode, State.modSched, State.nodeEnt]
  · simp [State.modNode, State.modSched, State.nodeEnt, h]
@[simp] theorem State.modCtx_core_v (s : State) (c x d : Nat) (f : Ctx → Ctx) :
    ((s.modCtx c x f).core d).v = (s.core d).v := by
  by_cases h : d = c <;> simp [State.modCtx, h]
@[simp] theorem State.modCtx_core_m (s : State) (c x d : Nat) (f : Ctx → Ctx) :
    ((s.modCtx c x f).core d).m = (s.core d).m := by
  by_cases h : d = c <;> simp [State.modCtx, h]
@[simp] theorem State.modCtx_core_ident (s : State) (c x d : Nat) (f : Ctx → Ctx) :
    ((s.modCtx c x f).core d).ident = (s.core d).ident := by
  by_cases h : d = c <;> simp [State.modCtx, h]
@[simp] theorem State.modCtx_core_csr (s : State) (c x d : Nat) (f : Ctx → Ctx) :
    ((s.modCtx c x f).core d).csr = (s.core d).csr := by
  by_cases h : d = c <;> simp [State.modCtx, h]
@[simp] theorem State.modCtx_core_fetch (s : State) (c x d : Nat) (f : Ctx → Ctx) :
    ((s.modCtx c x f).core d).fetch = (s.core d).fetch := by
  by_cases h : d = c <;> simp [State.modCtx, h]
@[simp] theorem State.modCtx_core_trig (s : State) (c x d : Nat) (f : Ctx → Ctx) :
    ((s.modCtx c x f).core d).trig = (s.core d).trig := by
  by_cases h : d = c <;> simp [State.modCtx, h]
@[simp] theorem State.modCtx_core_arrq (s : State) (c x d : Nat) (f : Ctx → Ctx) :
    ((s.modCtx c x f).core d).arrq = (s.core d).arrq := by
  by_cases h : d = c <;> simp [State.modCtx, h]
@[simp] theorem State.modCtx_core_streams (s : State) (c x d : Nat) (f : Ctx → Ctx) :
    ((s.modCtx c x f).core d).streams = (s.core d).streams := by
  by_cases h : d = c <;> simp [State.modCtx, h]
@[simp] theorem State.modCtx_core_mx (s : State) (c x d : Nat) (f : Ctx → Ctx) :
    ((s.modCtx c x f).core d).mx = (s.core d).mx := by
  by_cases h : d = c <;> simp [State.modCtx, h]
@[simp] theorem State.modCtx_core_acc (s : State) (c x d : Nat) (f : Ctx → Ctx) :
    ((s.modCtx c x f).core d).acc = (s.core d).acc := by
  by_cases h : d = c <;> simp [State.modCtx, h]
@[simp] theorem State.modCtx_core_prog (s : State) (c x d : Nat) (f : Ctx → Ctx) :
    ((s.modCtx c x f).core d).prog = (s.core d).prog := by
  by_cases h : d = c <;> simp [State.modCtx, h]
@[simp] theorem State.modCtx_core_fab (s : State) (c x d : Nat) (f : Ctx → Ctx) :
    ((s.modCtx c x f).core d).fab = (s.core d).fab := by
  by_cases h : d = c <;> simp [State.modCtx, h]
@[simp] theorem State.modCtx_core_overflow (s : State) (c x d : Nat) (f : Ctx → Ctx) :
    ((s.modCtx c x f).core d).overflow = (s.core d).overflow := by
  by_cases h : d = c <;> simp [State.modCtx, h]
@[simp] theorem State.modCtx_core_sync (s : State) (c x d : Nat) (f : Ctx → Ctx) :
    ((s.modCtx c x f).core d).sync = (s.core d).sync := by
  by_cases h : d = c <;> simp [State.modCtx, h]
@[simp] theorem State.modCtx_core_arrives (s : State) (c x d : Nat) (f : Ctx → Ctx) :
    ((s.modCtx c x f).core d).arrives = (s.core d).arrives := by
  by_cases h : d = c <;> simp [State.modCtx, h]
@[simp] theorem State.modCtx_core_tagRun (s : State) (c x d : Nat) (f : Ctx → Ctx) :
    ((s.modCtx c x f).core d).tagRun = (s.core d).tagRun := by
  by_cases h : d = c <;> simp [State.modCtx, h]
@[simp] theorem State.modCtx_core_inits (s : State) (c x d : Nat) (f : Ctx → Ctx) :
    ((s.modCtx c x f).core d).inits = (s.core d).inits := by
  by_cases h : d = c <;> simp [State.modCtx, h]
@[simp] theorem State.modCtx_core_slotRun (s : State) (c x d : Nat) (f : Ctx → Ctx) :
    ((s.modCtx c x f).core d).slotRun = (s.core d).slotRun := by
  by_cases h : d = c <;> simp [State.modCtx, h]
@[simp] theorem State.modCtx_core_snap (s : State) (c x d : Nat) (f : Ctx → Ctx) :
    ((s.modCtx c x f).core d).snap = (s.core d).snap := by
  by_cases h : d = c <;> simp [State.modCtx, h]
@[simp] theorem State.modCtx_core_stat (s : State) (c x d : Nat) (f : Ctx → Ctx) :
    ((s.modCtx c x f).core d).stat = (s.core d).stat := by
  by_cases h : d = c <;> simp [State.modCtx, h]

/-! ### Registers -/

@[simp] theorem Ctx.readS_zero (k : Ctx) : k.readS 0 = 0 := rfl
@[simp] theorem Ctx.readP_zero (k : Ctx) : k.readP 0 = ⟨BitVec.allOnes 64, true⟩ := rfl
/-- A scalar register after a write: s0 discards it. -/
theorem Ctx.readS_writeS (k : Ctx) (n m : Nat) (v : Word) :
    (k.writeS n v).readS m = if m = n ∧ n ≠ 0 then v else k.readS m := by
  by_cases h : n = 0
  · simp [Ctx.writeS, h]
  · by_cases e : m = n
    · subst e; simp [Ctx.writeS, Ctx.readS, h]
    · simp [Ctx.writeS, Ctx.readS, h, e]
/-- A predicate register after a write: p0 discards it. -/
theorem Ctx.readP_writeP (k : Ctx) (n m : Nat) (b : BitVec 64) :
    (k.writeP n b).readP m = if m = n ∧ n ≠ 0 then ⟨b, uniform b⟩ else k.readP m := by
  by_cases h : n = 0
  · simp [Ctx.writeP, h]
  · by_cases e : m = n
    · subst e; simp [Ctx.writeP, Ctx.readP, h]
    · simp [Ctx.writeP, Ctx.readP, h, e]

/-! ### Results, faults and waits of a slot -/

/-- A result joins the issuing context's results in flight. -/
theorem State.pushResult_ctx (s : State) (r : RegName) (v : VecWord) (m : BitVec 64) (fl : BitVec 5) (lat : Nat) :
    (s.pushResult r v m fl lat).ctx s.iss.core s.iss.ctx =
      { s.ctx s.iss.core s.iss.ctx with
        inflight := (s.ctx s.iss.core s.iss.ctx).inflight
          ++ [⟨r, v, m, fl, lat, s.iss.slot, (s.ctx s.iss.core s.iss.ctx).run.issued, none, none⟩] } := by
  simp [State.pushResult]
@[simp] theorem State.pushResult_mem (s : State) (r : RegName) (v : VecWord) (m : BitVec 64) (fl : BitVec 5) (lat : Nat) :
    (s.pushResult r v m fl lat).mem = s.mem := rfl
@[simp] theorem State.pushResult_tags (s : State) (r : RegName) (v : VecWord) (m : BitVec 64) (fl : BitVec 5) (lat : Nat) :
    (s.pushResult r v m fl lat).tags = s.tags := rfl
@[simp] theorem State.pushResult_iss (s : State) (r : RegName) (v : VecWord) (m : BitVec 64) (fl : BitVec 5) (lat : Nat) :
    (s.pushResult r v m fl lat).iss = s.iss := rfl
@[simp] theorem State.fault_faults (s : State) (code : Nat) (t : Word) :
    (s.fault code t).iss.faults = ⟨s.iss.slot, code, t⟩ :: s.iss.faults := rfl
@[simp] theorem State.fault_mem (s : State) (code : Nat) (t : Word) : (s.fault code t).mem = s.mem := rfl
@[simp] theorem State.await_waits (s : State) (k code : Nat) (t : Word) (l : Option Nat) :
    (s.await k code t l).iss.waits = ⟨k * 16 + s.iss.slot, code, t, s.iss.slot, l⟩ :: s.iss.waits := rfl
@[simp] theorem State.await_mem (s : State) (k code : Nat) (t : Word) (l : Option Nat) : (s.await k code t l).mem = s.mem := rfl

end Sys2Proof.Machine
end

