-- ==== Sys2Proof/Laws/Ops.lean ====
section
/-! SUPPORT. Laws of the shared operations: which leave memory alone, which keep its canonical form, and what taking a
trap and returning from one write. -/

namespace Sys2Proof.Machine

/-! ### Folds -/

/-- A fold of operations that leave memory alone leaves it alone. -/
theorem foldl_mem {α : Type} {f : State → α → State} (h : ∀ s a, (f s a).mem = s.mem) (l : List α) (s : State) :
    (l.foldl f s).mem = s.mem := by
  induction l generalizing s with
  | nil => rfl
  | cons a l ih => rw [List.foldl_cons, ih, h]
/-- A fold of operations that keep the canonical form keeps it. -/
theorem foldl_wf {α : Type} {f : State → α → State} (h : ∀ s a, s.mem.wf = true → (f s a).mem.wf = true) (l : List α)
    (s : State) (hs : s.mem.wf = true) : (l.foldl f s).mem.wf = true := by
  induction l generalizing s with
  | nil => exact hs
  | cons a l ih => exact ih _ (h _ _ hs)

/-! ### Errors and stops -/

@[simp] theorem State.engineFault_mem (s : State) (die unit code node core bar addr detail : Nat) :
    (s.engineFault die unit code node core bar addr detail).mem = s.mem := rfl
@[simp] theorem State.countError_mem (s : State) (die node : Nat) : (s.countError die node).mem = s.mem := rfl
@[simp] theorem State.coreFault_mem (s : State) (die unit code core bar addr detail : Nat) :
    (s.coreFault die unit code core bar addr detail).mem = s.mem := by
  unfold State.coreFault
  dsimp only
  split <;> rfl
@[simp] theorem State.killCore_mem (s : State) (c : Nat) : (s.killCore c).mem = s.mem := by
  unfold State.killCore
  dsimp only
  rw [State.modCore_mem, foldl_mem (fun s i => State.endOp_mem s i), State.modCluster_mem]
@[simp] theorem State.stopNode_mem (s : State) (die idx : Nat) : (s.stopNode die idx).mem = s.mem := by
  unfold State.stopNode
  split
  · rfl
  · split
    · rfl
    · dsimp only
      rw [foldl_mem (fun s c => State.modCluster_mem s c _), foldl_mem (fun s c => State.killCore_mem s c),
        foldl_mem (fun s (m : Cmd) => State.endOp_mem s m.opId)]
      rfl

/-! ### Traps -/

@[simp] theorem State.doubleTrap_mem (s : State) (c loc code : Nat) : (s.doubleTrap c loc code).mem = s.mem := by
  unfold State.doubleTrap
  dsimp only
  split <;> simp
/-- A result writes no other context, and leaves the core's identity and control registers. -/
theorem applyReg_frame (k : Core) (x : Nat) (r : Result) :
    (∀ y, y ≠ x → (applyReg k x r).ctx y = k.ctx y) ∧ (applyReg k x r).ident = k.ident ∧ (applyReg k x r).csr = k.csr := by
  unfold applyReg
  cases r.reg <;> simp +contextual [Core.ctx]
/-- So does putting registers back. -/
theorem foldl_putReg_frame (l : List (RegName × VecWord)) (k : Core) (x : Nat) :
    (∀ y, y ≠ x → (l.foldl (fun k e => k.putReg x e) k).ctx y = k.ctx y)
      ∧ (l.foldl (fun k e => k.putReg x e) k).ident = k.ident ∧ (l.foldl (fun k e => k.putReg x e) k).csr = k.csr := by
  induction l generalizing k with
  | nil => exact ⟨fun _ _ => rfl, rfl, rfl⟩
  | cons e l ih =>
    have h := applyReg_frame k x ⟨e.1, e.2, BitVec.allOnes 64, 0, 0, 0, 0, none, none⟩
    have g := ih (k.putReg x e)
    exact ⟨fun y hy => (g.1 y hy).trans (h.1 y hy), g.2.1.trans h.2.1, g.2.2.trans h.2.2⟩
@[simp] theorem State.reflight_mem (s : State) (c x : Nat) : (s.reflight c x).mem = s.mem := by
  unfold State.reflight
  split
  · rfl
  · split <;> rfl
/-- What is in flight again concerns one context; the core's identity and control registers stay (R374). -/
theorem State.reflight_frame (s : State) (c x : Nat) :
    (∀ y, y ≠ x → (s.reflight c x).ctx c y = s.ctx c y) ∧ ((s.reflight c x).core c).ident = (s.core c).ident
      ∧ ((s.reflight c x).core c).csr = (s.core c).csr := by
  unfold State.reflight
  split
  · simp
  · rename_i r _
    split
    · simp
    · have g := foldl_putReg_frame r.regs (s.core c) x
      refine ⟨fun y hy => ?_, ?_, ?_⟩
      · rw [State.modCtx_ctx, if_neg (by simp [hy])]
        simpa [State.ctx] using g.1 y hy
      · simpa using g.2.1
      · simpa using g.2.2
/-- In STRAND mode, and where nothing became visible at this boundary, the registers stand as they are (R374). -/
theorem State.reflight_self (s : State) (c x : Nat) (h : (s.core c).ident.mode = 2 ∨ (s.ctx c x).recent = none) :
    s.reflight c x = s := by
  unfold State.reflight
  split
  · rfl
  · rename_i r hr
    rcases h with h | h
    · simp [h]
    · simp [h] at hr
@[simp] theorem State.enterHandler_mem (s : State) (c x loc code : Nat) (tval : Word) (tpc : Nat) :
    (s.enterHandler c x loc code tval tpc).mem = s.mem := by
  simp [State.enterHandler]
@[simp] theorem State.takeTrap_mem (s : State) (c x loc code : Nat) (tval : Word) (tpc : Nat) :
    (s.takeTrap c x loc code tval tpc).mem = s.mem := by
  unfold State.takeTrap
  split <;> simp
@[simp] theorem State.returnTrap_mem (s : State) (c x : Nat) : (s.returnTrap c x).mem = s.mem := rfl
/-- The trapping context after the entry, in terms of what is in flight again (R374). -/
theorem State.enterHandler_ctx (s : State) (c x loc code : Nat) (tval : Word) (tpc : Nat) :
    (s.enterHandler c x loc code tval tpc).ctx c x =
      (let t := (s.reflight c x).ctx c x
       { t with
        csr := { t.csr with tpc := tpc % 2 ^ 24, tcause := loc * 256 + code, tval := tval, ppl := (s.core c).ident.pl }
        cap := some ⟨captured (s.core c).ident.mode t.inflight, t.pend, t.l0, t.l1⟩
        inflight := []
        recent := none
        pend := []
        l0 := { t.l0 with active := false }
        l1 := { t.l1 with active := false }
        pc := (s.core c).csr.tvec
        run := { t.run with waits := [], join := none } }) := by
  simp [State.enterHandler, State.ctx, State.modCtx, Core.ctx]
/-- Another context of the core is as it was. -/
theorem State.enterHandler_other (s : State) (c x y loc code : Nat) (tval : Word) (tpc : Nat) (h : y ≠ x) :
    (s.enterHandler c x loc code tval tpc).ctx c y = s.ctx c y := by
  have g := (State.reflight_frame s c x).1 y h
  simp only [State.ctx, Core.ctx] at g
  simp [State.enterHandler, State.ctx, State.modCtx, Core.ctx, h, g]
/-- The core's level and identity after the entry (R374). -/
theorem State.enterHandler_ident (s : State) (c x loc code : Nat) (tval : Word) (tpc : Nat) :
    ((s.enterHandler c x loc code tval tpc).core c).ident = { (s.core c).ident with pl := true } := by
  have g := (State.reflight_frame s c x).2.1
  simp [State.enterHandler, State.modCtx, g]
/-- A context that holds no capture enters its handler. -/
theorem State.takeTrap_enters (s : State) (c x loc code : Nat) (tval : Word) (tpc : Nat) (h : (s.ctx c x).cap = none) :
    s.takeTrap c x loc code tval tpc = s.enterHandler c x loc code tval tpc := by
  simp [State.takeTrap, h]
/-- A context that holds one double-traps. -/
theorem State.takeTrap_doubles (s : State) (c x loc code : Nat) (tval : Word) (tpc : Nat) (g : Capture)
    (h : (s.ctx c x).cap = some g) : s.takeTrap c x loc code tval tpc = s.doubleTrap c loc code := by
  simp [State.takeTrap, h]
/-- The context after a return (R378). -/
theorem State.returnTrap_ctx (s : State) (c x : Nat) (g : Capture) (h : (s.ctx c x).cap = some g) :
    (s.returnTrap c x).ctx c x =
      { s.ctx c x with
        pc := (s.ctx c x).csr.tpc, cap := none, pend := g.pend, l0 := g.l0, l1 := g.l1,
        inflight := g.results ++ (s.ctx c x).inflight } := by
  have h' : (Core.ctx (s.core c) x).cap = some g := h
  simp only [Core.ctx] at h'
  simp [State.returnTrap, State.ctx, State.modCtx, Core.ctx, h']

/-! ### Results that become visible -/

@[simp] theorem State.mature_mem (s : State) (c x : Nat) (l : List Result) (e : Bool) : (s.mature c x l e).mem = s.mem := by
  unfold State.mature
  dsimp only
  split <;> rfl
@[simp] theorem State.modStream_mem (s : State) (c n : Nat) (f : Stream → Stream) : (s.modStream c n f).mem = s.mem := rfl
@[simp] theorem State.pushOp_mem (s : State) (r : Result) : (s.pushOp r).2.mem = s.mem := by
  unfold State.pushOp
  dsimp only
  split <;> simp
@[simp] theorem State.streamPush_mem (s : State) (c n : Nat) (r : Result) : (s.streamPush c n r).mem = s.mem := by
  unfold State.streamPush
  dsimp only
  split
  · simp
  · split <;> simp
@[simp] theorem State.dueArrivals_mem (s : State) (c : Nat) (l : List Result) : (s.dueArrivals c l).mem = s.mem := rfl
@[simp] theorem State.pushResultOut_mem (s : State) (c : Nat) (r : Result) : (s.pushResultOut c r).mem = s.mem := by
  unfold State.pushResultOut
  cases r.reg.stream? <;> simp
@[simp] theorem State.visible_mem (s : State) (c x : Nat) (l : List Result) : (s.visible c x l).mem = s.mem := by
  unfold State.visible
  dsimp only
  rw [foldl_mem (fun s r => State.pushResultOut_mem s c r), State.dueArrivals_mem, State.mature_mem]
@[simp] theorem State.landOne_mem (s : State) (c x : Nat) (r : Result) : (s.landOne c x r).mem = s.mem := by
  unfold State.landOne
  split <;> simp
@[simp] theorem State.landAll_mem (s : State) (c x : Nat) : (s.landAll c x).mem = s.mem := by
  unfold State.landAll
  exact foldl_mem (fun s r => State.landOne_mem s c x r) _ _
@[simp] theorem State.matureNow_mem (s : State) (c x : Nat) : (s.matureNow c x).mem = s.mem := by
  simp [State.matureNow]
@[simp] theorem State.tickExposed_mem (s : State) (c x : Nat) : (s.tickExposed c x).mem = s.mem := by
  simp [State.tickExposed]
@[simp] theorem State.tickStrand_mem (s : State) (c x : Nat) : (s.tickStrand c x).mem = s.mem := by
  simp [State.tickStrand]

/-! ### Barriers and triggers -/

@[simp] theorem State.addCmd_mem (s : State) (m : Cmd) : (s.addCmd m).mem = s.mem := rfl
@[simp] theorem State.addFop_mem (s : State) (i : Nat) (f : Fop) : (s.addFop i f).mem = s.mem := by
  unfold State.addFop
  dsimp only
  split <;> rfl
@[simp] theorem State.addArrive_mem (s : State) (c : Nat) (a : PendArrive) : (s.addArrive c a).mem = s.mem := rfl
theorem State.barrierErr_wf (s : State) (c b : Nat) (h : s.mem.wf = true) : (s.barrierErr c b).mem.wf = true :=
  Memory.wf_writeN h ..
theorem State.fireTrigger_wf (s : State) (c i : Nat) (t : Trigger) (h : s.mem.wf = true) : (s.fireTrigger c i t).mem.wf = true := by
  unfold State.fireTrigger
  dsimp only
  split
  · exact h
  · split
    · rw [State.endOp_mem]
      split
      · rw [State.coreFault_mem]; exact h
      · apply State.barrierErr_wf; rw [State.coreFault_mem]; exact h
    · split
      · split <;> exact h
      · split
        · rw [State.startRput, State.addFop_mem]; exact h
        · split
          · rw [State.startRmcast, State.addFop_mem]; exact h
          · rw [State.startRgetv, State.addFop_mem]; exact h
theorem State.evalTriggers_wf (s : State) (c b : Nat) (h : s.mem.wf = true) : (s.evalTriggers c b).mem.wf = true := by
  unfold State.evalTriggers
  dsimp only
  split
  · exact h
  · exact foldl_wf (fun s e hs => State.fireTrigger_wf s c e.1 e.2 hs) _ _ h
theorem State.fireMet_wf (s : State) (c : Nat) (h : s.mem.wf = true) : (s.fireMet c).mem.wf = true := by
  unfold State.fireMet
  split
  · exact h
  · exact foldl_wf (fun s e hs => State.fireTrigger_wf s c e.1 e.2 hs) _ _ h
theorem State.arrive_wf (s : State) (c b inc : Nat) (h : s.mem.wf = true) : (s.arrive c b inc).mem.wf = true := by
  have hw : ∀ a u v, ((s.mem.writeN a 8 u).writeN (a + 8) 8 v).wf = true :=
    fun a u v => Memory.wf_writeN (Memory.wf_writeN h a 8 u) (a + 8) 8 v
  unfold State.arrive
  dsimp only
  split
  · exact State.evalTriggers_wf _ c b (hw _ _ _)
  · exact hw _ _ _
theorem State.finishOp_wf (s : State) (b : Issuer) (bar : Option Nat) (inc i : Nat) (h : s.mem.wf = true) :
    (s.finishOp b bar inc i).mem.wf = true := by
  unfold State.finishOp
  dsimp only
  rw [State.endOp_mem]
  split
  · exact State.arrive_wf _ _ _ _ h
  all_goals exact h
theorem State.failOp_wf (s : State) (b : Issuer) (unit code : Nat) (bar : Option Nat) (addr i : Nat) (h : s.mem.wf = true) :
    (s.failOp b unit code bar addr i).mem.wf = true := by
  unfold State.failOp
  dsimp only
  rw [State.endOp_mem]
  split
  · apply State.barrierErr_wf
    split <;> simpa using h
  all_goals (split <;> simpa using h)
theorem State.barinit_wf (s : State) (c b a v : Nat) (h : s.mem.wf = true) : (s.barinit c b a v).mem.wf = true := by
  unfold State.barinit
  dsimp only
  rw [State.modCore_mem, foldl_mem (fun s i => State.endOp_mem s i)]
  exact Memory.wf_writeN (Memory.wf_writeN h _ _ _) _ _ _
theorem State.makeInits_wf (s : State) (c : Nat) (h : s.mem.wf = true) : (s.makeInits c).mem.wf = true := by
  unfold State.makeInits
  dsimp only
  rw [State.modCore_mem]
  exact foldl_wf (fun s (i : BarInit) hs => State.barinit_wf s c i.bar i.addr i.word.toNat hs) _ _ h
theorem State.applyArrivals_wf (s : State) (c : Nat) (h : s.mem.wf = true) : (s.applyArrivals c).mem.wf = true := by
  unfold State.applyArrivals
  dsimp only
  apply State.fireMet_wf
  refine foldl_wf (fun s a hs => ?_) _ _ h
  rw [State.endOp_mem]
  exact State.arrive_wf _ _ _ _ hs

/-! ### Engine accesses -/

theorem State.rekeyLine_wf (s : State) (die part ptr : Nat) (h : s.mem.wf = true) : (s.rekeyLine die part ptr).mem.wf = true := by
  have hw : ∀ (a : Nat) (l : List Nat), ({ s with mem := s.mem.writeBytes a l } : State).mem.wf = true :=
    fun a l => Memory.wf_writeBytes h a l
  unfold State.rekeyLine
  generalize s.sweepPlace die part ptr = a
  dsimp only
  split
  · exact hw _ _
  · exact h
theorem State.sweepStep_wf (s : State) (die part : Nat) (h : s.mem.wf = true) : (s.sweepStep die part).mem.wf = true := by
  have hr := State.rekeyLine_wf s die part ((s.die die).key part).ptr h
  have hm : ∀ (t : State) f, (t.modKey die part f).mem = t.mem := fun _ _ => rfl
  have he : ∀ (t : State) n, (t.eraseSlot die n).mem = t.mem := fun _ _ => rfl
  unfold State.sweepStep
  dsimp only
  split
  · exact h
  · split <;> split <;> simp only [he, hm] <;> assumption
@[simp] theorem State.meetIf_mem (s : State) (b : Bool) : (s.meetIf b).mem = s.mem := by
  unfold State.meetIf
  split <;> rfl
@[simp] theorem State.touch_mem (s : State) (part a : Nat) : (s.touch part a).mem = s.mem := State.meetIf_mem ..
/-- An access that need not wait leaves no mark. -/
theorem State.touch_self (s : State) (part a : Nat) (h : s.waitsAt part a = false) : s.touch part a = s := by
  simp [State.touch, State.meetIf, h]
/-- An event none of whose accesses waits is what it does; with nothing marked before, that is what it does to the state as it
stands (R392, R410). -/
theorem State.unmet_go (s : State) (f : State → State) (hs : s.clk.met = false) (hf : (f s).clk.met = false) : s.unmet f = f s := by
  have e : ({ s with clk := { s.clk with met := false } } : State) = s := by rw [← hs]
  simp [State.unmet, e, hf]
/-- An event either waits, and changes nothing, or is made from a state with no mark. -/
theorem State.unmet_cases (s : State) (f : State → State) :
    s.unmet f = s ∨ s.unmet f = f { s with clk := { s.clk with met := false } } := by
  unfold State.unmet
  dsimp only
  split
  · exact .inl rfl
  · exact .inr rfl
theorem State.unmet_wf (s : State) (f : State → State) (h : s.mem.wf = true) (hf : ∀ t : State, t.mem.wf = true → (f t).mem.wf = true) :
    (s.unmet f).mem.wf = true := by
  rcases State.unmet_cases s f with e | e <;> rw [e]
  · exact h
  · exact hf _ h
theorem State.writePlain_wf (s : State) (part a : Nat) (l : List Nat) (h : s.mem.wf = true) : (s.writePlain part a l).mem.wf = true := by
  unfold State.writePlain
  dsimp only
  split
  all_goals exact Memory.wf_writeBytes (by simpa using h) _ _
theorem State.zeroLine_wf (s : State) (chans : List Nat) (die part pa n : Nat) (h : s.mem.wf = true) :
    (s.zeroLine chans die part pa n).mem.wf = true := by
  unfold State.zeroLine
  split
  · exact h
  · exact State.writePlain_wf _ _ _ _ h
theorem State.zeroLines_wf (s : State) (chans : List Nat) (die part pa n : Nat) (h : s.mem.wf = true) :
    (s.zeroLines chans die part pa n).mem.wf = true := by
  induction n with
  | zero => exact h
  | succ n ih => exact State.zeroLine_wf _ _ _ _ _ _ ih
theorem State.zeroPage_wf (s : State) (die part pa size : Nat) (h : s.mem.wf = true) : (s.zeroPage die part pa size).mem.wf = true := by
  unfold State.zeroPage
  dsimp only
  split
  · exact State.zeroLines_wf _ _ _ _ _ _ h
  · exact cellsWf_filter _ h
@[simp] theorem State.enterTlb_mem (s : State) (die : Nat) (t : TlbEnt) : (s.enterTlb die t).mem = s.mem := rfl
theorem State.walk_wf (s : State) (die part va : Nat) (r w : Bool) (h : s.mem.wf = true) : (s.walk die part va r w).1.mem.wf = true := by
  unfold State.walk
  have h0 : ((s.rootPte die part va).elim s fun a => s.touch part a).mem.wf = true := by
    cases s.rootPte die part va <;> simpa using h
  generalize (s.rootPte die part va).elim s (fun a => s.touch part a) = u at h0
  dsimp only
  split
  · exact h0
  · rename_i a e size _
    have h1 : (u.touch part a).mem.wf = true := by simpa using h0
    split
    · exact h1
    · rw [State.enterTlb_mem]
      split
      · exact State.writePlain_wf _ _ _ _ (State.zeroPage_wf _ _ _ _ _ h1)
      · exact h1
theorem State.translate_wf (s : State) (die part va : Nat) (r w : Bool) (h : s.mem.wf = true) :
    (s.translate die part va r w).1.mem.wf = true := by
  unfold State.translate
  dsimp only
  split
  · split
    · exact h
    · split <;> exact h
  · have := State.walk_wf s die part va r w h
    split
    · exact this
    · split <;> exact this
theorem State.homePlace_wf (s : State) (part mem off : Nat) (r w : Bool) (h : s.mem.wf = true) :
    (s.homePlace part mem off r w).1.mem.wf = true := by
  unfold State.homePlace
  dsimp only
  split
  · exact State.translate_wf _ _ _ _ _ _ h
  · split <;> exact h
theorem State.locate_wf (s : State) (b : Issuer) (a : Nat) (r w : Bool) (h : s.mem.wf = true) : (s.locate b a r w).1.mem.wf = true := by
  have hx : (match spaceOf a with
    | 0 => (match b.core with
      | some c => (s, Except.ok (spmAddr c (off48 a % 2 ^ 20)))
      | none => (s, Except.error 1) : State × Except Nat Nat)
    | 1 => (s, .ok (spmAddr (b.cluster * 8 + a / 2 ^ 56 % 8) (off48 a % 2 ^ 20)))
    | 2 => (s, .ok (cmemAddr b.cluster (off48 a % 2 ^ 24)))
    | 3 => s.homePlace b.part (3 + 8 * b.die) (off48 a % 2 ^ 26) r w
    | 4 => s.translate b.die b.part (off48 a) r w
    | 5 => match s.issuerDie b (a / 2 ^ 48 % 4096) with
      | some d => s.translate d b.part (off48 a) r w
      | none => (s, .error 1)
    | 6 => match s.windowHome (b.die / 4) b.part (windowOf a) (off48 a) with
      | some h => s.homePlace b.part h.1 h.2.1 r w
      | none => (s, .error 1)
    | _ =>
      let d := s.draw
      if Config.hostRefuses d.1 then (d.2, .error 2) else (d.2, .ok (unitAddr 7 (b.die / 4) (a % 2 ^ 56)))).1.mem.wf = true := by
    split
    · split <;> exact h
    · exact h
    · exact h
    · exact State.homePlace_wf _ _ _ _ _ _ h
    · exact State.translate_wf _ _ _ _ _ _ h
    · split
      · exact State.translate_wf _ _ _ _ _ _ h
      · exact h
    · split
      · exact State.homePlace_wf _ _ _ _ _ _ h
      · exact h
    · dsimp only
      split <;> exact h
  unfold State.locate
  dsimp only at hx ⊢
  split
  · split <;> exact hx
  · exact hx
@[simp] theorem State.setTags_mem (s : State) (c off : Nat) (full : Bool) (n : Nat) : (s.setTags c off full n).mem = s.mem := by
  induction n with
  | zero => rfl
  | succ n ih => exact ih
@[simp] theorem State.fillTags_mem (s : State) (c off n : Nat) : (s.fillTags c off n).mem = s.mem := by
  unfold State.fillTags
  split
  · rfl
  · exact State.setTags_mem ..
theorem State.engWrite_wf (s : State) (b : Issuer) (a : Nat) (l : List Nat) (tag : Bool) (h : s.mem.wf = true) :
    (s.engWrite b a l tag).1.mem.wf = true := by
  have hl := State.locate_wf s b a false true h
  unfold State.engWrite
  dsimp only
  split
  · exact hl
  · split
    · rw [State.fillTags_mem]; exact State.writePlain_wf _ _ _ _ hl
    · exact State.writePlain_wf _ _ _ _ hl
/-- Reading through an engine keeps the form: a walk may zero a page. -/
theorem State.engRead_wf (s : State) (b : Issuer) (a n : Nat) (h : s.mem.wf = true) : (s.engRead b a n).1.mem.wf = true := by
  have key : ∀ (ps : List (Nat × Nat)) (acc : State × Except Nat (List Nat)), acc.1.mem.wf = true →
      (ps.foldl (fun acc p => match acc.2 with
        | .error c => (acc.1, .error c)
        | .ok l =>
          let x := acc.1.locate b (a + p.1) true false
          match x.2 with
          | .error c => (x.1, .error c)
          | .ok q => (x.1.touch b.part q,
            .ok (l ++ ({ x.1 with mem := b.sees x.1.watch x.1.mem } : State).readPlain b.part q p.2))) acc).1.mem.wf = true := by
    intro ps
    induction ps with
    | nil => exact fun _ h => h
    | cons p ps ih =>
      intro acc hacc
      refine ih _ ?_
      have hl := State.locate_wf acc.1 b (a + p.1) true false hacc
      dsimp only
      split
      · exact hacc
      · split <;> simpa using hl
  exact key _ _ h
theorem State.engWriteAll_wf (s : State) (b : Issuer) (a : Nat) (l : List Nat) (tag : Bool) (h : s.mem.wf = true) :
    (s.engWriteAll b a l tag).1.mem.wf = true := by
  have key : ∀ (ps : List (Nat × Nat)) (acc : State × Except Nat Unit), acc.1.mem.wf = true →
      (ps.foldl (fun acc p => match acc.2 with
        | .error c => (acc.1, .error c)
        | .ok () => acc.1.engWrite b (a + p.1) ((l.drop p.1).take p.2) tag) acc).1.mem.wf = true := by
    intro ps
    induction ps with
    | nil => exact fun _ h => h
    | cons p ps ih =>
      intro acc hacc
      refine ih _ ?_
      dsimp only
      split
      · exact hacc
      · exact State.engWrite_wf _ _ _ _ _ hacc
  exact key _ _ h

end Sys2Proof.Machine
end

