-- ==== Sys2Proof/Laws/Crypto.lean ====
section
/-! SUPPORT. What AES-256-GCM seals it opens under the same key, nonce and header; so a payload that crosses under one fabric
key arrives as it was sent (R390), and a blob yields the key that was sealed in it (R394). -/

namespace Sys2Proof.Machine

theorem xorBytes_length (a b : List Nat) : (xorBytes a b).length = min a.length b.length := by
  simp [xorBytes]
/-- A key stream taken twice is as if it were not there. -/
theorem xorBytes_cancel (a k : List Nat) (h : a.length ≤ k.length) : xorBytes (xorBytes a k) k = a := by
  induction a generalizing k with
  | nil => simp [xorBytes]
  | cons x a ih =>
    cases k with
    | nil => simp at h
    | cons y k =>
      have := ih k (by simpa using h)
      simp only [xorBytes, List.zipWith_cons_cons] at this ⊢
      rw [this, Nat.xor_assoc, Nat.xor_self, Nat.xor_zero]
theorem leBytes_length (n x : Nat) : (leBytes n x).length = n := by
  induction n generalizing x with
  | zero => rfl
  | succ n ih => simp [leBytes, ih]
/-- Four-byte words cut from a string of a whole number of them. -/
theorem chunks4_length (n : Nat) (l : List Nat) (h : l.length = 4 * n) :
    (chunks 4 n l).length = n ∧ ∀ w ∈ chunks 4 n l, w.length = 4 := by
  induction n generalizing l with
  | zero => simp [chunks]
  | succ n ih =>
    have hne : l.isEmpty = false := by
      cases l
      · simp at h
      · rfl
    have g := ih (l.drop 4) (by simp; omega)
    simp only [chunks, hne, Bool.false_eq_true, if_false, List.length_cons, List.mem_cons, forall_eq_or_imp, List.length_take]
    exact ⟨by rw [g.1], by omega, g.2⟩
theorem aesWord_length (i : Nat) (p o : List Nat) (hp : p.length = 4) (ho : o.length = 4) : (aesWord i p o).length = 4 := by
  unfold aesWord
  dsimp only
  split
  · simp [xorBytes_length, ho]; omega
  · split <;> simp [xorBytes_length, hp, ho]
theorem aesExpand_length (n : Nat) (ws : List (List Nat)) (h8 : 8 ≤ ws.length) (h : ∀ w ∈ ws, w.length = 4) :
    (aesExpand n ws).length = n + ws.length ∧ ∀ w ∈ aesExpand n ws, w.length = 4 := by
  induction n generalizing ws with
  | zero => simpa [aesExpand] using h
  | succ n ih =>
    have h1 : (ws.headD []).length = 4 := by
      cases ws with
      | nil => simp at h8
      | cons a l => exact h a (by simp)
    have h7 : (ws.getD 7 []).length = 4 := by
      have : ws.getD 7 [] = ws[7]'(by omega) := by simp [List.getD, List.getElem?_eq_getElem (show 7 < ws.length by omega)]
      rw [this]
      exact h _ (List.getElem_mem _)
    have g := ih (aesWord ws.length (ws.headD []) (ws.getD 7 []) :: ws) (by simp; omega) (by
      intro w hw
      rcases List.mem_cons.1 hw with rfl | hw
      · exact aesWord_length _ _ _ h1 h7
      · exact h w hw)
    exact ⟨by rw [aesExpand, g.1]; simp; omega, g.2⟩
theorem flatten4_length (l : List (List Nat)) (h : ∀ w ∈ l, w.length = 4) : l.flatten.length = 4 * l.length := by
  induction l with
  | nil => rfl
  | cons a l ih =>
    simp only [List.flatten_cons, List.length_append, List.length_cons]
    rw [h a (by simp), ih fun w hw => h w (by simp [hw])]
    omega
/-- The last round key of a 32-byte key has 16 bytes. -/
theorem aesKeys_last (key : List Nat) (h : key.length = 32) : ((aesKeys key).getD 14 []).length = 16 := by
  have c := chunks4_length 8 key h
  have e := aesExpand_length 52 (chunks 4 8 key).reverse (by simp [c.1]) (by simpa using c.2)
  have l : (aesExpand 52 (chunks 4 8 key).reverse).length = 60 := by simp [e.1, c.1]
  have w : (aesKeys key).getD 14 [] = (((aesExpand 52 (chunks 4 8 key).reverse).reverse.drop 56).take 4).flatten := by
    simp [aesKeys, List.getD]
  rw [w, flatten4_length]
  · simp [l]
  · intro x hx
    exact e.2 x (List.mem_reverse.1 (List.mem_of_mem_drop (List.mem_of_mem_take hx)))
/-- A block under a 32-byte key has 16 bytes. -/
theorem aesEnc_length (key b : List Nat) (h : key.length = 32) : (aesEnc (aesKeys key) b).length = 16 := by
  unfold aesEnc
  dsimp only
  rw [xorBytes_length, aesKeys_last key h]
  simp [shiftRows]
/-- Counter mode keeps the length of a string of blocks of at most 16 bytes, and undoes itself. -/
theorem gctr_twice (key iv : List Nat) (h : key.length = 32) (n c : Nat) (l : List Nat) (hl : l.length ≤ 16 * n) :
    (gctr (aesKeys key) iv c (chunks 16 n l)).length = l.length
    ∧ gctr (aesKeys key) iv c (chunks 16 n (gctr (aesKeys key) iv c (chunks 16 n l))) = l := by
  induction n generalizing c l with
  | zero =>
    have : l = [] := List.length_eq_zero_iff.1 (by omega)
    subst this
    exact ⟨rfl, rfl⟩
  | succ n ih =>
    cases hl0 : l.isEmpty with
    | true =>
      have : l = [] := by simpa using hl0
      subst this
      exact ⟨rfl, rfl⟩
    | false =>
      have g := ih (c + 1) (l.drop 16) (by simp; omega)
      have hx : (xorBytes (l.take 16) (aesEnc (aesKeys key) (iv ++ beBytes 4 c))).length = min 16 l.length := by
        simp [xorBytes_length, aesEnc_length key _ h]
      have hpos : 0 < l.length := by
        cases l
        · simp at hl0
        · simp
      simp only [chunks, hl0, Bool.false_eq_true, if_false, gctr]
      refine ⟨by rw [List.length_append, hx, g.1, List.length_drop]; omega, ?_⟩
      have hne : (xorBytes (l.take 16) (aesEnc (aesKeys key) (iv ++ beBytes 4 c))
          ++ gctr (aesKeys key) iv (c + 1) (chunks 16 n (l.drop 16))).isEmpty = false := by
        rw [← Bool.not_eq_true, List.isEmpty_iff_length_eq_zero, List.length_append, hx]
        omega
      have hcut : l.length ≤ 16 ∨ (xorBytes (l.take 16) (aesEnc (aesKeys key) (iv ++ beBytes 4 c))).length = 16 := by
        rw [hx]; omega
      have hb : xorBytes (xorBytes (l.take 16) (aesEnc (aesKeys key) (iv ++ beBytes 4 c)))
          (aesEnc (aesKeys key) (iv ++ beBytes 4 c)) = l.take 16 :=
        xorBytes_cancel _ _ (by simp [aesEnc_length key _ h])
      rw [hne]
      simp only [Bool.false_eq_true, if_false, gctr]
      rcases hcut with hs | hs
      · have hd : l.drop 16 = [] := List.drop_eq_nil_of_le hs
        have ht : gctr (aesKeys key) iv (c + 1) (chunks 16 n ([] : List Nat)) = [] := by
          cases n <;> rfl
        rw [hd, ht, List.append_nil, List.take_of_length_le (by rw [hx]; omega), List.drop_eq_nil_of_le (by rw [hx]; omega), ht,
          List.append_nil, hb, List.take_of_length_le hs]
      · rw [List.take_append_of_le_length (by omega), List.drop_append_of_le_length (by omega),
          List.take_of_length_le (by omega), List.drop_eq_nil_of_le (by omega), List.nil_append, g.2, hb, List.take_append_drop]
/-- What AES-256-GCM seals under a 32-byte key it opens. -/
theorem gcm_opens (key iv aad l : List Nat) (h : key.length = 32) :
    gcmDec key iv aad (gcmEnc key iv aad l).1 (gcmEnc key iv aad l).2 = some l := by
  have g := gctr_twice key iv h (l.length / 16 + 1) 2 l (by omega)
  unfold gcmDec gcmEnc
  dsimp only
  rw [if_pos rfl, g.1, g.2]
/-- A payload that crosses nothing, or between ends that do not protect the partition, arrives as it was sent (R388). -/
theorem State.carry_plain (s : State) (part src q : Nat) (cross : Bool) (l : List Nat)
    (h : cross = false ∨ (s.protectedPart (src / 4) part = false ∧ s.protectedPart q part = false)) :
    s.carry part src q cross l = (s, some l) := by
  rcases h with h | h
  · simp [State.carry, h]
  · simp [State.carry, h.1, h.2]
/-- A payload that crosses under one fabric key at both ends arrives as it was sent, and the sending die counts it (R390). -/
theorem State.carry_sealed (s : State) (part src q : Nat) (l : List Nat) (k : BitVec 256)
    (hp : s.protectedPart (src / 4) part = true ∨ s.protectedPart q part = true)
    (hk : (s.part (src / 4) part).sec.fabric = some k) (hq : (s.part q part).sec.fabric = some k) :
    s.carry part src q true l = (s.countPacket src, some l) := by
  have hg : (s.protectedPart (src / 4) part || s.protectedPart q part) = true := by simpa using hp
  unfold State.carry
  simp only [hg, hk, hq, Bool.not_true, Bool.or_self, Bool.false_eq_true, if_false, Option.bind_some]
  rw [gcm_opens (keyBytes k) _ _ _ (leBytes_length 32 _)]
theorem beBytes_length (n x : Nat) : (beBytes n x).length = n := by
  induction n generalizing x with
  | zero => rfl
  | succ n ih => simp [beBytes, ih]
/-- A ciphertext is as long as its plaintext. -/
theorem gcmEnc_length (key iv aad l : List Nat) (h : key.length = 32) : (gcmEnc key iv aad l).1.length = l.length :=
  (gctr_twice key iv h (l.length / 16 + 1) 2 l (by omega)).1
/-- A tag has 16 bytes. -/
theorem gcmEnc_tag_length (key iv aad l : List Nat) (h : key.length = 32) : (gcmEnc key iv aad l).2.length = 16 := by
  unfold gcmEnc gcmTag
  dsimp only
  rw [xorBytes_length, beBytes_length, aesEnc_length key _ h]
  rfl
theorem shaRound_length (h : List (BitVec 32)) (x : BitVec 32) : (shaRound h x).length = 8 := rfl
theorem shaRounds_length (l h : List (BitVec 32)) (h8 : h.length = 8) : (l.foldl shaRound h).length = 8 := by
  induction l generalizing h with
  | nil => exact h8
  | cons a l ih => exact ih _ (shaRound_length h a)
theorem shaBlocks_length (l : List (List Nat)) (h : List (BitVec 32)) (h8 : h.length = 8) : (l.foldl shaBlock h).length = 8 := by
  induction l generalizing h with
  | nil => exact h8
  | cons a l ih =>
    refine ih _ ?_
    unfold shaBlock
    dsimp only
    rw [List.length_zipWith, shaRounds_length _ _ h8, h8]
    rfl
theorem words4_length (l : List (BitVec 32)) : (l.flatMap fun x => beBytes 4 x.toNat).length = 4 * l.length := by
  induction l with
  | nil => rfl
  | cons a l ih =>
    rw [List.flatMap_cons, List.length_append, beBytes_length, ih, List.length_cons]
    omega
/-- A digest has 32 bytes. -/
theorem sha256_length (m : List Nat) : (sha256 m).length = 32 := by
  unfold sha256
  dsimp only
  rw [words4_length, shaBlocks_length _ _ rfl]
theorem hmac_length (key m : List Nat) : (hmac key m).length = 32 := sha256_length _
/-- A piece of a string in parts, where the parts before it have the length that is dropped. -/
theorem piece_of (a b c : List Nat) (n k : Nat) (ha : a.length = n) (hb : b.length = k) : ((a ++ (b ++ c)).drop n).take k = b := by
  subst ha hb
  rw [List.drop_left, List.take_left]
/-- The parts of a blob of R394: header, the sender's point, nonce, reserved, ciphertext, tag and the rest. -/
def sealedBlob (sec : PartSec) (hd pub iv pad pt rest : List Nat) : List Nat :=
  let e := gcmEnc (hmac (ecdh sec.ecdh pub) (leBytes 32 sec.digest.toNat)) iv hd pt
  hd ++ (pub ++ (iv ++ (pad ++ (e.1 ++ (e.2 ++ rest)))))
/-- A blob yields the key that was sealed in it for this partition. -/
theorem unwrap_sealed (sec : PartSec) (hd pub iv pad pt rest : List Nat) (h0 : hd.length = 8) (h1 : pub.length = 64)
    (h2 : iv.length = 12) (h3 : pad.length = 4) (h4 : pt.length = 32) : unwrap sec (sealedBlob sec hd pub iv pad pt rest) = some pt := by
  unfold unwrap sealedBlob
  dsimp only
  have c := gcmEnc_length (hmac (ecdh sec.ecdh pub) (leBytes 32 sec.digest.toNat)) iv hd pt (hmac_length _ _)
  have g := gcmEnc_tag_length (hmac (ecdh sec.ecdh pub) (leBytes 32 sec.digest.toNat)) iv hd pt (hmac_length _ _)
  have o := gcm_opens (hmac (ecdh sec.ecdh pub) (leBytes 32 sec.digest.toNat)) iv hd pt (hmac_length _ _)
  rw [h4] at c
  rw [piece_of hd pub _ 8 64 h0 h1]
  generalize gcmEnc (hmac (ecdh sec.ecdh pub) (leBytes 32 sec.digest.toNat)) iv hd pt = e at *
  have p72 : ((hd ++ (pub ++ (iv ++ (pad ++ (e.1 ++ (e.2 ++ rest)))))).drop 72).take 12 = iv := by
    simpa using piece_of (hd ++ pub) iv (pad ++ (e.1 ++ (e.2 ++ rest))) 72 12 (by simp [h0, h1]) h2
  have p88 : ((hd ++ (pub ++ (iv ++ (pad ++ (e.1 ++ (e.2 ++ rest)))))).drop 88).take 32 = e.1 := by
    simpa using piece_of (hd ++ (pub ++ (iv ++ pad))) e.1 (e.2 ++ rest) 88 32 (by simp [h0, h1, h2, h3]) c
  have p120 : ((hd ++ (pub ++ (iv ++ (pad ++ (e.1 ++ (e.2 ++ rest)))))).drop 120).take 16 = e.2 := by
    simpa using piece_of (hd ++ (pub ++ (iv ++ (pad ++ e.1)))) e.2 rest 120 16 (by simp [h0, h1, h2, h3, c]) g
  have p0 : (hd ++ (pub ++ (iv ++ (pad ++ (e.1 ++ (e.2 ++ rest)))))).take 8 = hd := by
    simpa using piece_of [] hd (pub ++ (iv ++ (pad ++ (e.1 ++ (e.2 ++ rest))))) 0 8 rfl h0
  rw [p72, p88, p120, p0, o]
/-- A public key has 64 bytes. -/
theorem pPublic_length (d : Nat) : (pPublic d).length = 64 := by
  unfold pPublic
  split
  · rfl
  · simp [beBytes_length]
/-- Where the other fields of a blob lie (R394). -/
theorem sealedBlob_fields (sec : PartSec) (hd pub iv pad pt rest : List Nat) (h0 : hd.length = 8) (h1 : pub.length = 64)
    (h2 : iv.length = 12) (h3 : pad.length = 4) (h4 : pt.length = 32) :
    (sealedBlob sec hd pub iv pad pt rest).length = 136 + rest.length ∧ (sealedBlob sec hd pub iv pad pt rest).take 8 = hd
    ∧ ((sealedBlob sec hd pub iv pad pt rest).drop 84).take 4 = pad ∧ (sealedBlob sec hd pub iv pad pt rest).drop 136 = rest := by
  unfold sealedBlob
  dsimp only
  have c := gcmEnc_length (hmac (ecdh sec.ecdh pub) (leBytes 32 sec.digest.toNat)) iv hd pt (hmac_length _ _)
  have g := gcmEnc_tag_length (hmac (ecdh sec.ecdh pub) (leBytes 32 sec.digest.toNat)) iv hd pt (hmac_length _ _)
  rw [h4] at c
  generalize gcmEnc (hmac (ecdh sec.ecdh pub) (leBytes 32 sec.digest.toNat)) iv hd pt = e at *
  refine ⟨by simp [h0, h1, h2, h3, c, g]; omega, ?_, ?_, ?_⟩
  · simpa using piece_of [] hd (pub ++ (iv ++ (pad ++ (e.1 ++ (e.2 ++ rest))))) 0 8 rfl h0
  · simpa using piece_of (hd ++ (pub ++ iv)) pad (e.1 ++ (e.2 ++ rest)) 84 4 (by simp [h0, h1, h2]) h3
  · simpa using List.drop_left' (l₁ := hd ++ (pub ++ (iv ++ (pad ++ (e.1 ++ e.2))))) (l₂ := rest) (i := 136)
      (by simp [h0, h1, h2, h3, c, g])

end Sys2Proof.Machine
end

