-- ==== Sys2Proof/Laws/Vector.lean ====
section
/-! SUPPORT. Laws of the vector operations: what an element of a packed vector is, and what an element-wise operation
answers. -/

namespace Sys2Proof.Machine

/-- A list packed at width w stays below 2 to the width times the length. -/
theorem packElems_lt (w : Nat) (l : List Nat) : packElems w l < 2 ^ (w * l.length) := by
  induction l with
  | nil => simp [packElems]
  | cons x l ih =>
    have hx : x % 2 ^ w < 2 ^ w := Nat.mod_lt _ (Nat.two_pow_pos w)
    have : 2 ^ (w * (l.length + 1)) = 2 ^ w * 2 ^ (w * l.length) := by rw [Nat.mul_add, Nat.mul_one, Nat.pow_add, Nat.mul_comm]
    simp only [packElems, List.length_cons, this]
    calc x % 2 ^ w + 2 ^ w * packElems w l < 2 ^ w + 2 ^ w * packElems w l := by omega
      _ = 2 ^ w * (packElems w l + 1) := by ring
      _ ≤ 2 ^ w * 2 ^ (w * l.length) := Nat.mul_le_mul_left _ ih
/-- Element e of a packed list. -/
theorem packElems_elem (w : Nat) (l : List Nat) (e : Nat) (he : e < l.length) :
    packElems w l / 2 ^ (w * e) % 2 ^ w = l[e] % 2 ^ w := by
  induction l generalizing e with
  | nil => simp at he
  | cons x l ih =>
    have hx : x % 2 ^ w < 2 ^ w := Nat.mod_lt _ (Nat.two_pow_pos w)
    cases e with
    | zero => simp [packElems]
    | succ e =>
      have hp : 2 ^ (w * (e + 1)) = 2 ^ w * 2 ^ (w * e) := by rw [Nat.mul_add, Nat.mul_one, Nat.pow_add, Nat.mul_comm]
      have hd : packElems w (x :: l) / 2 ^ w = packElems w l := by
        simp only [packElems]
        rw [Nat.add_mul_div_left _ _ (Nat.two_pow_pos w), Nat.div_eq_of_lt hx, Nat.zero_add]
      rw [hp, ← Nat.div_div_eq_div_mul, hd, ih e (by simpa using he)]
      simp
/-- Element e of a vector made of a list that fits. -/
theorem elemOf_ofElems (w : Nat) (l : List Nat) (e : Nat) (hl : w * l.length ≤ 2048) (he : e < l.length) :
    elemOf w (ofElems w l) e = l[e] % 2 ^ w := by
  have h := Nat.lt_of_lt_of_le (packElems_lt w l) (Nat.pow_le_pow_right (show 0 < 2 by omega) hl)
  rw [elemOf, ofElems, BitVec.toNat_ofNat, Nat.mod_eq_of_lt h, packElems_elem w l e he]
/-- An enabled element of an element-wise result. -/
theorem mapElems_elem (w : Nat) (m : BitVec 64) (f : Nat → Nat × BitVec 5) (e : Nat) (he : e < 2048 / w)
    (hm : elemOn w m e = true) : elemOf w (mapElems w m f).1 e = (f e).1 % 2 ^ w := by
  have hl : w * (((List.range (2048 / w)).map fun e => if elemOn w m e then f e else (0, 0)).map (·.1)).length ≤ 2048 := by
    simpa using Nat.mul_div_le 2048 w
  rw [mapElems, elemOf_ofElems w _ e hl (by simpa using he)]
  simp [hm]
/-- An element-wise operation under a mask that is not 0 reads its operands once and sends one result. -/
theorem vecOp_on (s : State) (g d lat w : Nat) (regs : List Nat) (f : State → (Nat → VecWord) → Nat → Nat × BitVec 5)
    (h : s.guardMask g ≠ 0) : ∃ (v : VecWord) (fl : BitVec 5),
    vecOp s g d lat w regs f = .next ((s.vecOperands regs).1.pushV d v (s.guardMask g) fl lat)
    ∧ ∀ e, e < 2048 / w → elemOn w (s.guardMask g) e = true →
        elemOf w v e = (f (s.vecOperands regs).1 (vecVal (s.vecOperands regs).2) e).1 % 2 ^ w := by
  let r := mapElems w (s.guardMask g) (f (s.vecOperands regs).1 (vecVal (s.vecOperands regs).2))
  refine ⟨r.1, r.2, ?_, fun e he hm => mapElems_elem w _ _ e he hm⟩
  simp only [vecOp, State.masked, if_neg h, r]
/-- An element-wise operation under a guard of zeros does nothing (R156). -/
theorem vecOp_off (s : State) (g d lat w : Nat) (regs : List Nat) (f : State → (Nat → VecWord) → Nat → Nat × BitVec 5)
    (h : s.guardMask g = 0) : vecOp s g d lat w regs f = .next s := by
  simp [vecOp, State.masked, h]

end Sys2Proof.Machine
end

