-- ==== Sys2Proof/Tests/Slice0.lean ====
section
/-! SUPPORT. The author's own tests: the encodings and the refusals of spec/04_encoding.md, single steps with results from
the rules, and for every statement with hypotheses a state and operands that meet them. -/

namespace Sys2Proof.Tests
-- One test is elaborated after another: each waits for the kernel, and in parallel they only take more memory.
set_option Elab.async false
open Sys2Proof Sys2Proof.Machine

/-! ### Encodings -/

/-- A word with each value at its lowest bit. -/
def w (l : List (Nat × Nat)) : Nat := (l.map fun e => e.2 * 2 ^ e.1).sum
/-- Every word of the list decodes to the instruction beside it. -/
abbrev decodes {α : Type} (f : Nat → α) (ok : Instr → α) (l : List (Nat × Instr)) : Prop :=
  l.map (fun e => f e.1) = l.map fun e => ok e.2

/-- R97, R103, R113: one word of every instruction, from the bit places of its format. -/
theorem test_decode_control : decodes (decodeSyl .C false) Except.ok
    [(w [(22, 3)], .nop ⟨3⟩),
     (w [(26, 1), (22, 3), (19, 5), (0, 9)], .prep ⟨3, 5, 9⟩),
     (w [(26, 2), (22, 3), (19, 5), (14, 17)], .prepr ⟨3, 5, 17⟩),
     (w [(26, 3), (22, 3), (19, 5), (14, 6), (12, 3), (11, 1)], .trans ⟨3, 5, 6, 3, 1⟩),
     (w [(26, 4), (22, 3), (21, 1), (11, 6), (0, 7), (10, 1)], .loopImm ⟨3, 1, 6, 7⟩),
     (w [(26, 4), (22, 3), (21, 1), (11, 6), (5, 26)], .loopReg ⟨3, 1, 6, 26⟩),
     (w [(26, 5), (22, 3)], .sync ⟨3⟩),
     (w [(26, 6), (22, 3)], .syncj ⟨3⟩),
     (w [(26, 7), (22, 3)], .syncl ⟨3⟩),
     (w [(26, 8), (22, 3), (18, 4)], .join ⟨3, 4⟩),
     (w [(26, 9), (22, 3), (18, 4)], .joinW ⟨3, 4⟩),
     (w [(26, 10), (22, 3)], .detach ⟨3⟩),
     (w [(26, 11), (22, 3), (20, 1)], .smode ⟨3, 1⟩),
     (w [(26, 12), (22, 3), (17, 18), (16, 1)], .spawn ⟨3, 18, 1⟩),
     (w [(26, 13), (22, 3)], .suspend ⟨3⟩),
     (w [(26, 14), (22, 3)], .yield ⟨3⟩),
     (w [(26, 15), (22, 3)], .halt ⟨3⟩),
     (w [(26, 16), (22, 3), (14, 255)], .trap ⟨3, 255⟩),
     (w [(26, 17), (22, 3)], .tret ⟨3⟩)] := rfl

/-- R97, R110 to R112, R118: one word of every instruction, from the bit places of its format. -/
theorem test_decode_engine : decodes (decodeSyl .E false) Except.ok
    [(w [(22, 3), (17, 8), (12, 14), (7, 22), (1, 1), (0, 1)], .copy ⟨3, 8, 14, 22, 0, 1, 1⟩),
     (w [(26, 1), (22, 3), (17, 8), (12, 14), (7, 22), (2, 10)], .copy2d ⟨3, 8, 14, 22, 10, 0, 0⟩),
     (w [(26, 2), (22, 3), (17, 8), (12, 14), (7, 22), (2, 10)], .tmov ⟨3, 8, 14, 22, 10, 0, 0⟩),
     (w [(26, 3), (22, 3), (17, 11), (15, 3), (2, 10)], .seop ⟨3, 11, 3, 10, 0⟩),
     (w [(26, 4), (22, 3), (17, 8), (12, 14), (7, 22), (2, 10)], .copyUnseal ⟨3, 8, 14, 22, 10, 0, 0⟩),
     (w [(26, 8), (22, 3), (19, 4), (14, 31)], .strcfg ⟨3, 4, 31⟩),
     (w [(26, 9), (22, 3), (19, 4)], .stron ⟨3, 4⟩),
     (w [(26, 10), (22, 3), (19, 4)], .stroff ⟨3, 4⟩),
     (w [(26, 11), (22, 3), (17, 30)], .bufrel ⟨3, 30⟩),
     (w [(26, 16), (22, 3), (17, 8), (12, 14), (7, 22), (2, 10)], .rput ⟨3, 8, 14, 22, 10, 0, 0⟩),
     (w [(26, 17), (22, 3), (17, 8), (12, 13), (7, 15), (2, 16)], .rget ⟨3, 8, 13, 15, 16⟩),
     (w [(26, 18), (22, 3), (17, 8), (12, 14), (7, 22), (2, 10)], .rgetv ⟨3, 8, 14, 22, 10, 0, 0⟩),
     (w [(26, 19), (22, 3), (17, 8), (12, 13), (7, 2), (3, 8), (2, 1)], .rfop ⟨3, 8, 13, 2, 8, 1⟩),
     (w [(26, 20), (22, 3), (17, 8), (12, 14), (11, 1), (2, 10)], .rvatom ⟨3, 8, 14, 1, 10, 0⟩),
     (w [(26, 21), (22, 3), (17, 14), (9, 77), (4, 20)], .rred ⟨3, 14, 77, 20⟩),
     (w [(26, 22), (22, 3), (17, 8), (12, 14), (7, 22), (2, 10)], .rmcast ⟨3, 8, 14, 22, 10, 0, 0⟩),
     (w [(26, 23), (22, 3), (19, 5)], .fence ⟨3, 5⟩),
     (w [(26, 24), (22, 3), (17, 21), (5, 0xfff)], .arrive ⟨3, 21, 0xfff⟩),
     (w [(26, 25), (22, 3), (17, 21), (16, 1)], .waitb ⟨3, 21, 1⟩),
     (w [(26, 26), (22, 3), (17, 21), (0, 0x1ffff)], .waitbC ⟨3, 21, 0x1ffff⟩),
     (w [(26, 27), (22, 3), (17, 30)], .waith ⟨3, 30⟩),
     (w [(26, 28), (22, 3), (17, 21), (12, 19)], .barinit ⟨3, 21, 19⟩),
     (w [(26, 29), (22, 3), (17, 11), (12, 21), (7, 22), (2, 24)], .trigarm ⟨3, 11, 21, 22, 24⟩),
     (w [(26, 30), (22, 3), (17, 19)], .trigcancel ⟨3, 19⟩),
     (w [(26, 31), (22, 3), (18, 5), (13, 25)], .moncfgConfigure ⟨3, 5, 25⟩),
     (w [(26, 56), (22, 3), (17, 28)], .tlbinv ⟨3, 28⟩),
     (w [(26, 56), (22, 3), (15, 1)], .tlbinvPart ⟨3⟩),
     (w [(26, 56), (22, 3), (15, 2)], .tlbinvPkg ⟨3⟩),
     (w [(26, 57), (22, 3), (17, 19)], .slotld ⟨3, 19⟩),
     (w [(26, 58), (22, 3), (17, 19)], .buddyset ⟨3, 19⟩)] := rfl

/-- R97, R110 to R112, R118: one word of every instruction, from the bit places of its format. -/
theorem test_decode_engine_wide : decodes (decodeSyl .E true) Except.ok
    [(w [(22, 3), (17, 8), (12, 14), (7, 22), (2, 10), (52, 0xfff), (47, 27), (46, 1), (45, 1), (44, 1), (43, 1), (40, 3)], .copyWide ⟨3, 8, 14, 22, 10, 0, 0, 0xfff, 27, 1, 1, 1, 1, 3, 0⟩),
     (w [(26, 1), (22, 3), (17, 8), (12, 14), (7, 22), (2, 10), (52, 6)], .copy2dWide ⟨3, 8, 14, 22, 10, 0, 0, 6, 0, 0, 0, 0, 0, 0, 0⟩),
     (w [(26, 2), (22, 3), (17, 8), (12, 14), (7, 22), (2, 10), (52, 6)], .tmovWide ⟨3, 8, 14, 22, 10, 0, 0, 6, 0, 0, 0, 0, 0, 0, 0⟩),
     (w [(26, 3), (22, 3), (17, 11), (15, 2), (2, 10), (52, 6)], .seopWide ⟨3, 11, 2, 10, 0, 6, 0, 0, 0⟩),
     (w [(26, 4), (22, 3), (17, 8), (12, 14), (7, 22), (2, 10), (52, 6)], .copyUnsealWide ⟨3, 8, 14, 22, 10, 0, 0, 6, 0, 0, 0, 0, 0, 0, 0⟩),
     (w [(26, 16), (22, 3), (17, 8), (12, 14), (7, 22), (2, 10), (52, 6), (44, 1), (40, 1), (32, 133)], .rputWide ⟨3, 8, 14, 22, 10, 0, 0, 6, 0, 0, 0, 1, 0, 1, 133⟩),
     (w [(26, 17), (22, 3), (17, 8), (12, 13), (7, 15), (2, 16), (43, 1), (40, 5)], .rgetWide ⟨3, 8, 13, 15, 16, 1, 5⟩),
     (w [(26, 18), (22, 3), (17, 8), (12, 14), (7, 22), (2, 10), (52, 6)], .rgetvWide ⟨3, 8, 14, 22, 10, 0, 0, 6, 0, 0, 0, 0, 0, 0, 0⟩),
     (w [(26, 19), (22, 3), (17, 8), (12, 13), (7, 2), (2, 1), (44, 1), (40, 4)], .rfopWide ⟨3, 8, 13, 2, 0, 1, 1, 0, 4, 0⟩),
     (w [(26, 19), (22, 3), (17, 8), (12, 13), (3, 9), (2, 1), (32, 31)], .rfopIncw ⟨3, 8, 13, 0, 9, 1, 0, 0, 0, 31⟩),
     (w [(26, 19), (22, 3), (17, 8), (12, 13), (7, 2), (3, 10), (2, 1), (32, 30)], .rfopBadd ⟨3, 8, 13, 2, 10, 1, 0, 0, 0, 30⟩),
     (w [(26, 19), (22, 3), (17, 8), (12, 13), (7, 2), (3, 11), (2, 1), (43, 1), (40, 5), (32, 29)], .rfopCas ⟨3, 8, 13, 2, 11, 1, 0, 1, 5, 29⟩),
     (w [(26, 20), (22, 3), (17, 8), (12, 14), (11, 1), (2, 10), (52, 6)], .rvatomWide ⟨3, 8, 14, 1, 10, 0, 6, 0, 0⟩),
     (w [(26, 21), (22, 3), (17, 14), (9, 77), (4, 20)], .rredWide ⟨3, 14, 77, 20, 0, 0⟩),
     (w [(26, 22), (22, 3), (17, 8), (12, 14), (7, 22), (2, 10), (52, 6), (32, 201)], .rmcastWide ⟨3, 8, 14, 22, 10, 0, 0, 6, 0, 0, 0, 0, 0, 0, 201⟩),
     (w [(26, 26), (22, 3), (17, 21), (32, 0xffffffff)], .waitbCWide ⟨3, 21, 0xffffffff⟩)] := rfl

/-- R97, R106, R115: one word of every instruction, from the bit places of its format. -/
theorem test_decode_memory : decodes (decodeSyl .M false) Except.ok
    [(w [(22, 3), (17, 18), (12, 21), (10, 2), (9, 1), (7, 1), (0, 127)], .ld ⟨3, 18, 21, 2, 1, 0, 1, 127⟩),
     (w [(26, 1), (22, 3), (17, 18), (12, 21), (10, 2), (8, 1), (0, 9)], .st ⟨3, 18, 21, 2, 0, 1, 0, 9⟩),
     (w [(26, 2), (22, 3), (17, 18), (12, 21), (10, 2), (8, 1), (0, 1)], .ldf ⟨3, 18, 21, 2, 0, 1, 0, 1⟩),
     (w [(26, 3), (22, 3), (17, 18), (12, 21), (10, 2), (8, 1), (0, 9)], .lde ⟨3, 18, 21, 2, 0, 1, 0, 9⟩),
     (w [(26, 4), (22, 3), (17, 18), (12, 21), (10, 2), (8, 1), (0, 9)], .ste ⟨3, 18, 21, 2, 0, 1, 0, 9⟩),
     (w [(26, 5), (22, 3), (17, 21), (12, 1)], .tage ⟨3, 21, 1⟩),
     (w [(26, 6), (22, 3), (17, 21), (12, 1)], .tagf ⟨3, 21, 1⟩),
     (w [(26, 8), (22, 3), (16, 40), (11, 21), (9, 1), (8, 1), (0, 9)], .vld ⟨3, 40, 21, 1, 1, 0, 9⟩),
     (w [(26, 9), (22, 3), (16, 40), (11, 21), (9, 1), (8, 1), (0, 9)], .vst ⟨3, 40, 21, 1, 1, 0, 9⟩),
     (w [(26, 10), (22, 3), (16, 40), (10, 33), (5, 21), (3, 1), (0, 3)], .vldx ⟨3, 40, 33, 21, 1, 3⟩),
     (w [(26, 11), (22, 3), (16, 40), (10, 33), (5, 21), (3, 1), (0, 3)], .vstx ⟨3, 40, 33, 21, 1, 3⟩)] := rfl

/-- R97, R106, R115: one word of every instruction, from the bit places of its format. -/
theorem test_decode_memory_wide : decodes (decodeSyl .M true) Except.ok
    [(w [(22, 3), (17, 18), (12, 21), (10, 2), (8, 1), (32, 0xfffffff8)], .ldWide ⟨3, 18, 21, 2, 0, 1, 0, 0xfffffff8⟩),
     (w [(26, 1), (22, 3), (17, 18), (12, 21), (10, 2), (8, 1), (32, 64)], .stWide ⟨3, 18, 21, 2, 0, 1, 0, 64⟩),
     (w [(26, 2), (22, 3), (17, 18), (12, 21), (10, 2), (8, 1), (32, 64)], .ldfWide ⟨3, 18, 21, 2, 0, 1, 0, 64⟩),
     (w [(26, 3), (22, 3), (17, 18), (12, 21), (10, 2), (8, 1), (32, 64)], .ldeWide ⟨3, 18, 21, 2, 0, 1, 0, 64⟩),
     (w [(26, 4), (22, 3), (17, 18), (12, 21), (10, 2), (8, 1), (32, 64)], .steWide ⟨3, 18, 21, 2, 0, 1, 0, 64⟩),
     (w [(26, 5), (22, 3), (17, 21), (32, 0x1000)], .tageWide ⟨3, 21, 0x1000⟩),
     (w [(26, 6), (22, 3), (17, 21), (32, 0x1000)], .tagfWide ⟨3, 21, 0x1000⟩),
     (w [(26, 8), (22, 3), (16, 40), (11, 21), (9, 1), (8, 1), (32, 64)], .vldWide ⟨3, 40, 21, 1, 1, 0, 64⟩),
     (w [(26, 9), (22, 3), (16, 40), (11, 21), (9, 1), (8, 1), (32, 64)], .vstWide ⟨3, 40, 21, 1, 1, 0, 64⟩)] := rfl

/-- R97, R104, R105, R114: one word of every instruction, from the bit places of its format. -/
theorem test_decode_scalar : decodes (decodeSyl .S false) Except.ok
    [(w [(22, 3), (17, 11), (12, 19), (7, 21)], .add ⟨3, 11, 19, 21⟩),
     (w [(26, 1), (22, 3), (17, 11), (12, 19), (7, 21)], .sub ⟨3, 11, 19, 21⟩),
     (w [(26, 2), (22, 3), (17, 11), (12, 19), (7, 21)], .mul ⟨3, 11, 19, 21⟩),
     (w [(26, 3), (22, 3), (17, 11), (12, 19), (7, 21), (0, 1)], .mulh ⟨3, 11, 19, 21, 1⟩),
     (w [(26, 4), (22, 3), (17, 11), (12, 19), (7, 21)], .div ⟨3, 11, 19, 21, 0⟩),
     (w [(26, 5), (22, 3), (17, 11), (12, 19), (7, 21)], .rem ⟨3, 11, 19, 21, 0⟩),
     (w [(26, 6), (22, 3), (17, 11), (12, 19), (0, 0x123)], .addi ⟨3, 11, 19, 0x123⟩),
     (w [(26, 7), (22, 3), (17, 11), (0, 0x1ffff)], .movi ⟨3, 11, 0x1ffff⟩),
     (w [(26, 8), (22, 3), (17, 11), (12, 19), (7, 21)], .and ⟨3, 11, 19, 21⟩),
     (w [(26, 9), (22, 3), (17, 11), (12, 19), (7, 21)], .or ⟨3, 11, 19, 21⟩),
     (w [(26, 10), (22, 3), (17, 11), (12, 19), (7, 21)], .xor ⟨3, 11, 19, 21⟩),
     (w [(26, 11), (22, 3), (17, 11), (12, 19), (7, 21)], .shl ⟨3, 11, 19, 21⟩),
     (w [(26, 12), (22, 3), (17, 11), (12, 19), (7, 21)], .shr ⟨3, 11, 19, 21⟩),
     (w [(26, 13), (22, 3), (17, 11), (12, 19), (7, 21)], .sar ⟨3, 11, 19, 21⟩),
     (w [(26, 14), (22, 3), (17, 11), (12, 19), (7, 21)], .min ⟨3, 11, 19, 21⟩),
     (w [(26, 15), (22, 3), (17, 11), (12, 19), (7, 21)], .max ⟨3, 11, 19, 21⟩),
     (w [(26, 16), (22, 3), (17, 11), (12, 19), (7, 21)], .umin ⟨3, 11, 19, 21⟩),
     (w [(26, 17), (22, 3), (17, 11), (12, 19), (7, 21)], .umax ⟨3, 11, 19, 21⟩),
     (w [(26, 18), (22, 3), (17, 11), (12, 19)], .clz ⟨3, 11, 19⟩),
     (w [(26, 19), (22, 3), (17, 11), (12, 19)], .popc ⟨3, 11, 19⟩),
     (w [(26, 20), (22, 3), (17, 11), (12, 19), (7, 21), (2, 6)], .sel ⟨3, 11, 19, 21, 6⟩),
     (w [(26, 21), (22, 3), (17, 7), (12, 19), (7, 21), (3, 10), (2, 1), (1, 1)], .cmp ⟨3, 7, 19, 21, 10, 1, 1⟩),
     (w [(26, 22), (22, 3), (17, 7), (12, 19), (8, 3), (0, 128)], .cmpi ⟨3, 7, 19, 3, 128⟩),
     (w [(26, 24), (22, 3), (17, 11), (12, 19), (0, 0x123)], .andi ⟨3, 11, 19, 0x123⟩),
     (w [(26, 25), (22, 3), (17, 11), (12, 19), (0, 0x123)], .ori ⟨3, 11, 19, 0x123⟩),
     (w [(26, 26), (22, 3), (17, 11), (12, 19), (0, 0x123)], .xori ⟨3, 11, 19, 0x123⟩),
     (w [(26, 27), (22, 3), (17, 11), (12, 19), (0, 33)], .shli ⟨3, 11, 19, 33⟩),
     (w [(26, 28), (22, 3), (17, 11), (12, 19), (0, 33)], .shri ⟨3, 11, 19, 33⟩),
     (w [(26, 29), (22, 3), (17, 11), (12, 19), (0, 33)], .sari ⟨3, 11, 19, 33⟩),
     (w [(26, 32), (22, 3), (17, 11), (12, 19), (7, 21), (5, 1)], .fadd ⟨3, 11, 19, 21, 1, 0, 0⟩),
     (w [(26, 33), (22, 3), (17, 11), (12, 19), (7, 21), (5, 1)], .fmul ⟨3, 11, 19, 21, 1, 0, 0⟩),
     (w [(26, 34), (22, 3), (17, 11), (12, 19), (7, 21), (5, 1)], .ffma ⟨3, 11, 19, 21, 1, 0, 0⟩),
     (w [(26, 35), (22, 3), (17, 11), (12, 19), (8, 7), (4, 1), (1, 1)], .fcvt ⟨3, 11, 19, 7, 1, 0, 0, 1⟩),
     (w [(26, 40), (22, 3), (17, 9), (5, 16)], .csrr ⟨3, 9, 16⟩),
     (w [(26, 41), (22, 3), (17, 9), (5, 0x801)], .csrw ⟨3, 9, 0x801⟩),
     (w [(26, 42), (22, 3), (17, 18), (14, 5), (13, 1)], .movm ⟨3, 18, 5, 1⟩)] := rfl

/-- R97, R104, R105, R114: one word of every instruction, from the bit places of its format. -/
theorem test_decode_scalar_wide : decodes (decodeSyl .S true) Except.ok
    [(w [(26, 6), (22, 3), (17, 11), (12, 19), (32, 0x123)], .addiWide ⟨3, 11, 19, 0x123⟩),
     (w [(26, 7), (22, 3), (17, 11), (15, 1), (32, 0xfffffffe)], .moviWide ⟨3, 11, 1, 0xfffffffe⟩),
     (w [(26, 7), (22, 3), (17, 11), (32, 0x89abcdef), (15, 2)], .moviHi ⟨3, 11, 0x89abcdef⟩),
     (w [(26, 22), (22, 3), (17, 7), (12, 19), (8, 3), (32, 0x123)], .cmpiWide ⟨3, 7, 19, 3, 0x123⟩),
     (w [(26, 24), (22, 3), (17, 11), (12, 19), (32, 0x123)], .andiWide ⟨3, 11, 19, 0x123⟩),
     (w [(26, 25), (22, 3), (17, 11), (12, 19), (32, 0x123)], .oriWide ⟨3, 11, 19, 0x123⟩),
     (w [(26, 26), (22, 3), (17, 11), (12, 19), (32, 0x123)], .xoriWide ⟨3, 11, 19, 0x123⟩),
     (w [(26, 32), (22, 3), (17, 11), (12, 19), (7, 21), (5, 1), (56, 5)], .faddWide ⟨3, 11, 19, 21, 1, 0, 0, 0, 5⟩),
     (w [(26, 33), (22, 3), (17, 11), (12, 19), (7, 21), (5, 1), (56, 5)], .fmulWide ⟨3, 11, 19, 21, 1, 0, 0, 0, 5⟩),
     (w [(26, 34), (22, 3), (17, 11), (12, 19), (7, 21), (5, 1), (59, 23), (56, 5)], .ffmaWide ⟨3, 11, 19, 21, 1, 0, 0, 23, 5⟩),
     (w [(26, 35), (22, 3), (17, 11), (12, 19), (8, 8), (4, 2), (56, 5), (55, 1)], .fcvtWide ⟨3, 11, 19, 8, 2, 0, 0, 0, 5, 1⟩)] := rfl

/-- R232: one word of every instruction, from the bit places of its format. -/
theorem test_decode_micro : decodes (decodeMicro) some
    [(w [], .mret),
     (w [(58, 1), (52, 37), (32, 0xfffff), (29, 3), (9, 64), (5, 15), (4, 1)], .wld ⟨37, 0xfffff, 3, 64, 15, 1⟩),
     (w [(58, 2)], .wswap),
     (w [(58, 3), (52, 39), (36, 0xffff), (33, 4), (29, 6), (24, 8), (18, 12), (14, 15), (12, 1)], .ast ⟨39, 0xffff, 4, 6, 8, 12, 15, 0, 1⟩),
     (w [(58, 4), (29, 6)], .zclr ⟨6⟩),
     (w [(58, 5), (29, 6), (28, 1), (25, 2)], .zgrid ⟨6, 1, 2, 0⟩),
     (w [(58, 6), (52, 5), (36, 9), (33, 4), (29, 6), (24, 8), (18, 12), (14, 1)], .zcvt ⟨5, 9, 4, 6, 8, 12, 1, 0, 0⟩),
     (w [(58, 7), (0, 100)], .mloop ⟨0, 0, 100⟩),
     (w [(58, 8)], .mend),
     (w [(58, 9), (57, 1), (51, 10), (39, 6)], .marrive ⟨1, 0, 10, 6⟩),
     (w [(58, 10), (51, 10), (50, 1)], .mwait ⟨0, 10, 1⟩),
     (w [(58, 11), (54, 2), (0, 0xfffffff0)], .minc ⟨2, 0xfffffff0⟩)] := rfl

/-- R97, R107, R108, R116: one word of every instruction, from the bit places of its format. -/
theorem test_decode_vector : decodes (decodeSyl .V false) Except.ok
    [(w [(22, 3), (16, 11), (10, 19), (4, 21), (2, 1)], .vadd ⟨3, 11, 19, 21, 1, 0, 0⟩),
     (w [(26, 1), (22, 3), (16, 11), (10, 19), (4, 21), (2, 1)], .vsub ⟨3, 11, 19, 21, 1, 0, 0⟩),
     (w [(26, 2), (22, 3), (16, 11), (10, 19), (4, 21), (2, 1)], .vmul ⟨3, 11, 19, 21, 1, 0, 0⟩),
     (w [(26, 3), (22, 3), (16, 11), (10, 19), (4, 21), (2, 1)], .vmin ⟨3, 11, 19, 21, 1, 0, 0⟩),
     (w [(26, 4), (22, 3), (16, 11), (10, 19), (4, 21), (2, 1)], .vmax ⟨3, 11, 19, 21, 1, 0, 0⟩),
     (w [(26, 5), (22, 3), (16, 11), (10, 19), (4, 21), (2, 1)], .vand ⟨3, 11, 19, 21, 1, 0, 0⟩),
     (w [(26, 6), (22, 3), (16, 11), (10, 19), (4, 21), (2, 1)], .vor ⟨3, 11, 19, 21, 1, 0, 0⟩),
     (w [(26, 7), (22, 3), (16, 11), (10, 19), (4, 21), (2, 1)], .vxor ⟨3, 11, 19, 21, 1, 0, 0⟩),
     (w [(26, 8), (22, 3), (16, 11), (10, 19), (4, 21), (2, 1)], .vshl ⟨3, 11, 19, 21, 1, 0, 0⟩),
     (w [(26, 9), (22, 3), (16, 11), (10, 19), (4, 21), (2, 1)], .vshr ⟨3, 11, 19, 21, 1, 0, 0⟩),
     (w [(26, 10), (22, 3), (16, 11), (10, 19), (4, 21), (2, 1)], .vsar ⟨3, 11, 19, 21, 1, 0, 0⟩),
     (w [(26, 11), (22, 3), (17, 7), (11, 19), (5, 21), (2, 6), (1, 1), (0, 1)], .vcmp ⟨3, 7, 19, 21, 6, 1, 1⟩),
     (w [(26, 12), (22, 3), (16, 11), (10, 19), (4, 21), (0, 6)], .vsel ⟨3, 11, 19, 21, 6⟩),
     (w [(26, 13), (22, 3), (16, 11), (10, 19), (7, 1), (4, 2), (2, 1)], .vcvt ⟨3, 11, 19, 1, 2, 1, 0, 0⟩),
     (w [(26, 14), (22, 3), (16, 11), (10, 19), (4, 34), (2, 1)], .vperm ⟨3, 11, 19, 34, 1⟩),
     (w [(26, 15), (22, 3), (16, 11), (11, 17), (9, 1)], .vbcast ⟨3, 11, 17, 1⟩),
     (w [(26, 16), (22, 3), (16, 11), (10, 19), (4, 21), (2, 1)], .vaddF ⟨3, 11, 19, 21, 1, 0, 0⟩),
     (w [(26, 17), (22, 3), (16, 11), (10, 19), (4, 21), (2, 1)], .vsubF ⟨3, 11, 19, 21, 1, 0, 0⟩),
     (w [(26, 18), (22, 3), (16, 11), (10, 19), (4, 21), (2, 1)], .vmulF ⟨3, 11, 19, 21, 1, 0, 0⟩),
     (w [(26, 19), (22, 3), (16, 11), (10, 19), (4, 21), (2, 1)], .vfma ⟨3, 11, 19, 21, 1, 0, 0⟩),
     (w [(26, 20), (22, 3), (16, 11), (10, 19), (4, 21), (2, 1)], .vminF ⟨3, 11, 19, 21, 1, 0, 0⟩),
     (w [(26, 21), (22, 3), (16, 11), (10, 19), (4, 21), (2, 1)], .vmaxF ⟨3, 11, 19, 21, 1, 0, 0⟩),
     (w [(26, 24), (22, 3), (16, 11), (10, 19), (7, 1)], .vsum ⟨3, 11, 19, 1, 0, 0, 0⟩),
     (w [(26, 25), (22, 3), (16, 11), (10, 19), (7, 1), (6, 1)], .vmaxr ⟨3, 11, 19, 1, 1, 0, 0⟩),
     (w [(26, 26), (22, 3), (16, 11), (10, 19), (7, 1), (6, 1)], .vscan ⟨3, 11, 19, 1, 1, 0, 0⟩),
     (w [(26, 27), (22, 3), (17, 18), (11, 40), (5, 50), (4, 1)], .vlane ⟨3, 18, 40, 50, 1⟩),
     (w [(26, 28), (22, 3), (17, 11), (12, 9)], .vpopc ⟨3, 11, 9⟩),
     (w [(26, 29), (22, 3), (16, 11), (10, 19), (4, 34), (2, 1)], .vcmpr ⟨3, 11, 19, 34, 1, 0⟩),
     (w [(26, 30), (22, 3), (16, 11), (10, 19), (4, 21)], .vhash ⟨3, 11, 19, 21⟩),
     (w [(26, 31), (22, 3), (17, 7), (12, 9), (10, 1)], .vvote ⟨3, 7, 9, 1⟩),
     (w [(26, 32), (22, 3), (16, 11), (10, 19), (2, 1)], .vexp2 ⟨3, 11, 19, 0, 1, 0, 0⟩),
     (w [(26, 33), (22, 3), (16, 11), (10, 19), (2, 1)], .vlog2 ⟨3, 11, 19, 0, 1, 0, 0⟩),
     (w [(26, 34), (22, 3), (16, 11), (10, 19), (2, 1)], .vrcp ⟨3, 11, 19, 0, 1, 0, 0⟩),
     (w [(26, 35), (22, 3), (16, 11), (10, 19), (2, 1)], .vrsq ⟨3, 11, 19, 0, 1, 0, 0⟩),
     (w [(26, 40), (22, 3), (17, 7), (12, 9), (7, 12)], .pand ⟨3, 7, 9, 12⟩),
     (w [(26, 41), (22, 3), (17, 7), (12, 9), (7, 12)], .por ⟨3, 7, 9, 12⟩),
     (w [(26, 42), (22, 3), (17, 7), (12, 9), (7, 12)], .pxor ⟨3, 7, 9, 12⟩),
     (w [(26, 43), (22, 3), (17, 7), (12, 9)], .pnot ⟨3, 7, 9⟩),
     (w [(26, 44), (22, 3), (17, 7), (10, 64)], .pset ⟨3, 7, 64⟩),
     (w [(26, 45), (22, 3), (17, 11), (12, 19), (10, 2)], .pmov ⟨3, 11, 19, 2⟩)] := rfl

/-- R97, R107, R108, R116: one word of every instruction, from the bit places of its format. -/
theorem test_decode_vector_wide : decodes (decodeSyl .V true) Except.ok
    [(w [(22, 3), (16, 11), (10, 19), (2, 1), (1, 1), (0, 1), (54, 1), (49, 29)], .vaddWide ⟨3, 11, 19, 0, 1, 1, 1, 1, 29⟩),
     (w [(26, 1), (22, 3), (16, 11), (10, 19), (4, 21), (2, 1)], .vsubWide ⟨3, 11, 19, 21, 1, 0, 0, 0, 0⟩),
     (w [(26, 2), (22, 3), (16, 11), (10, 19), (4, 21), (2, 1)], .vmulWide ⟨3, 11, 19, 21, 1, 0, 0, 0, 0⟩),
     (w [(26, 3), (22, 3), (16, 11), (10, 19), (4, 21), (2, 1)], .vminWide ⟨3, 11, 19, 21, 1, 0, 0, 0, 0⟩),
     (w [(26, 4), (22, 3), (16, 11), (10, 19), (4, 21), (2, 1)], .vmaxWide ⟨3, 11, 19, 21, 1, 0, 0, 0, 0⟩),
     (w [(26, 5), (22, 3), (16, 11), (10, 19), (4, 21), (2, 1)], .vandWide ⟨3, 11, 19, 21, 1, 0, 0, 0, 0⟩),
     (w [(26, 6), (22, 3), (16, 11), (10, 19), (4, 21), (2, 1)], .vorWide ⟨3, 11, 19, 21, 1, 0, 0, 0, 0⟩),
     (w [(26, 7), (22, 3), (16, 11), (10, 19), (4, 21), (2, 1)], .vxorWide ⟨3, 11, 19, 21, 1, 0, 0, 0, 0⟩),
     (w [(26, 8), (22, 3), (16, 11), (10, 19), (4, 21), (2, 1)], .vshlWide ⟨3, 11, 19, 21, 1, 0, 0, 0, 0⟩),
     (w [(26, 9), (22, 3), (16, 11), (10, 19), (4, 21), (2, 1)], .vshrWide ⟨3, 11, 19, 21, 1, 0, 0, 0, 0⟩),
     (w [(26, 10), (22, 3), (16, 11), (10, 19), (4, 21), (2, 1)], .vsarWide ⟨3, 11, 19, 21, 1, 0, 0, 0, 0⟩),
     (w [(26, 12), (22, 3), (16, 11), (10, 19), (4, 21), (0, 6)], .vselWide ⟨3, 11, 19, 21, 6, 0, 0⟩),
     (w [(26, 13), (22, 3), (16, 11), (10, 19), (7, 7), (4, 1), (2, 3), (55, 5), (48, 1), (47, 1)], .vcvtWide ⟨3, 11, 19, 7, 1, 3, 0, 0, 5, 1, 1⟩),
     (w [(26, 16), (22, 3), (16, 11), (10, 19), (4, 21), (2, 1), (55, 5)], .vaddFWide ⟨3, 11, 19, 21, 1, 0, 0, 0, 5, 0, 0⟩),
     (w [(26, 17), (22, 3), (16, 11), (10, 19), (4, 21), (2, 1), (55, 5)], .vsubFWide ⟨3, 11, 19, 21, 1, 0, 0, 0, 5, 0, 0⟩),
     (w [(26, 18), (22, 3), (16, 11), (10, 19), (4, 21), (2, 1), (55, 5)], .vmulFWide ⟨3, 11, 19, 21, 1, 0, 0, 0, 5, 0, 0⟩),
     (w [(26, 19), (22, 3), (16, 11), (10, 19), (2, 1), (58, 44), (55, 5), (54, 1), (49, 29)], .vfmaWide ⟨3, 11, 19, 0, 1, 0, 0, 44, 5, 1, 29⟩),
     (w [(26, 20), (22, 3), (16, 11), (10, 19), (4, 21), (2, 1), (55, 5)], .vminFWide ⟨3, 11, 19, 21, 1, 0, 0, 0, 5, 0, 0⟩),
     (w [(26, 21), (22, 3), (16, 11), (10, 19), (4, 21), (2, 1), (55, 5)], .vmaxFWide ⟨3, 11, 19, 21, 1, 0, 0, 0, 5, 0, 0⟩),
     (w [(26, 24), (22, 3), (16, 11), (10, 19), (7, 1), (55, 5)], .vsumWide ⟨3, 11, 19, 1, 0, 0, 0, 5⟩),
     (w [(26, 25), (22, 3), (16, 11), (10, 19), (7, 1), (55, 5)], .vmaxrWide ⟨3, 11, 19, 1, 0, 0, 0, 5⟩),
     (w [(26, 26), (22, 3), (16, 11), (10, 19), (7, 1), (55, 5)], .vscanWide ⟨3, 11, 19, 1, 0, 0, 0, 5⟩),
     (w [(26, 30), (22, 3), (16, 11), (10, 19), (4, 21)], .vhashWide ⟨3, 11, 19, 21, 0, 0⟩),
     (w [(26, 32), (22, 3), (16, 11), (10, 19), (2, 1), (55, 5)], .vexp2Wide ⟨3, 11, 19, 0, 1, 0, 0, 0, 5, 0, 0⟩),
     (w [(26, 33), (22, 3), (16, 11), (10, 19), (2, 1), (55, 5)], .vlog2Wide ⟨3, 11, 19, 0, 1, 0, 0, 0, 5, 0, 0⟩),
     (w [(26, 34), (22, 3), (16, 11), (10, 19), (2, 1), (55, 5)], .vrcpWide ⟨3, 11, 19, 0, 1, 0, 0, 0, 5, 0, 0⟩),
     (w [(26, 35), (22, 3), (16, 11), (10, 19), (2, 1), (55, 5)], .vrsqWide ⟨3, 11, 19, 0, 1, 0, 0, 0, 5, 0, 0⟩)] := rfl

/-- R97, R109, R117: one word of every instruction, from the bit places of its format. -/
theorem test_decode_matrix : decodes (decodeSyl .X false) Except.ok
    [(w [(22, 3), (16, 9)], .mxcall ⟨3, 9⟩),
     (w [(26, 1), (22, 3), (17, 19), (12, 21), (2, 37)], .mxprog ⟨3, 19, 21, 37⟩),
     (w [(26, 1), (22, 3), (17, 19), (12, 21), (2, 63), (1, 1)], .mxprogTab ⟨3, 19, 21, 63⟩),
     (w [(26, 2), (22, 3), (16, 40), (12, 6), (7, 19), (5, 1)], .zrd ⟨3, 40, 6, 19, 0, 1⟩),
     (w [(26, 3), (22, 3), (16, 40), (12, 6), (7, 19), (5, 1)], .zwr ⟨3, 40, 6, 19, 0, 1⟩),
     (w [(26, 4), (22, 3), (17, 11), (13, 15), (12, 1)], .mxstat ⟨3, 11, 15, 1⟩)] := rfl
/-- R245: the two words of the rule's table. -/
theorem test_decode_mxstat : decodeSyl .X false 0x100E4000 = .ok (.mxstat ⟨0, 7, 2, 0⟩)
    ∧ decodeSyl .X false 0x100FF000 = .ok (.mxstat ⟨0, 7, 15, 1⟩) := ⟨rfl, rfl⟩
/-- The worked encoding after R119, whole: header, three slots and the suffix, all taken from its 18 bytes. -/
theorem test_decode_worked_bundle :
    leNat [0x1A, 0x80, 0x01, 0x20, 0x04, 0x18, 0x08, 0x4D, 0x07, 0x20, 0x60, 0x14, 0xC4, 0x4C, 0x62, 0, 0, 0] = 0x624CC4146020074D0818042001801A
    ∧ decodeBundle 0x624CC4146020074D0818042001801A 0
      = .ok ⟨[], [(1, .addi ⟨0, 2, 2, 1⟩), (3, .vld ⟨0, 7, 9, 2, 1, 0, 8⟩), (4, .vfma ⟨3, 4, 5, 6, 0, 0, 0⟩)], [(3, 2)]⟩ := by decide +kernel
/-- R99, R113: unassigned opcodes are illegal instructions. -/
theorem test_decode_unassigned :
    [decodeSyl .C false (w [(26, 18)]), decodeSyl .S false (w [(26, 23)]), decodeSyl .M false (w [(26, 7)]), decodeSyl .V false (w [(26, 22)]),
      decodeSyl .X false (w [(26, 5)]), decodeSyl .E false (w [(26, 5)])].map (fun r => r.toOption) = List.replicate 6 none := rfl
/-- R103 to R111: reserved bits and values that are not accepted are refused: END = 0 in a LOOP, SMODE to mode 0, PI with H, X
with SZ = 3, PSET of 65 lanes, ZRD of tile 12, BAR with NB, RFOP of code 12, a short INCW, SCOPE without REL or ACQ. -/
theorem test_decode_refused :
    [decodeSyl .C false (w [(26, 4), (10, 1), (0, 5)]), decodeSyl .C false (w [(26, 11)]), decodeSyl .M false (w [(8, 1), (7, 1), (17, 1), (12, 2)]),
      decodeSyl .M false (w [(10, 3), (9, 1), (17, 1)]), decodeSyl .V false (w [(26, 44), (10, 65)]), decodeSyl .X false (w [(26, 2), (12, 12)]),
      decodeSyl .E false (w [(2, 3), (1, 1)]), decodeSyl .E false (w [(26, 19), (3, 12)]), decodeSyl .E false (w [(26, 19), (3, 9)]),
      decodeSyl .E true (w [(40, 2)]), decodeSyl .S false (w [(6, 1)])].map (fun r => r.toOption) = List.replicate 11 none := rfl
/-- Every constructor's word, encoded, is the word that the tables give (one of each class). -/
theorem test_encode : encode (.addi ⟨0, 2, 2, 1⟩) = 0x18042001 ∧ encode (.vld ⟨0, 7, 9, 2, 1, 0, 8⟩) = 0x20074D08
    ∧ encode (.vfma ⟨3, 4, 5, 6, 0, 0, 0⟩) = 0x4CC41460 ∧ encode (.mxstat ⟨0, 7, 15, 1⟩) = 0x100FF000 := ⟨rfl, rfl, rfl, rfl⟩

/-! ### Ill-formed terms, which WellFormed refuses -/

/-- Each value check of R98, R102 to R112, R166, R207, R231 and R232 refuses a term that breaks it and it alone: END, SMODE's mode,
COND with integer and FP32 operands, FZI of an integer compare, T, RMO, SC, FCVT's formats, its U and SAT, CSR numbers, PI with
H, X with SZ = 3 or a store, a load into its updated base, E, U without S, S of VMIN, BS with vb or SB alone, VC, VCVT's PART
and formats, VSUM's format, X and FZI, VCMPR's two destinations, MODE, N, D, table index, tiles, BAR and INC with NB, DH,
SCOPE, CKPT, OPX, RB, OP, the second operand, RMCAST's TS, SEL, formats, rows, GQ, CQ and BQ. -/
theorem test_wf_values : ([
    .loopImm ⟨0, 0, 0, 1⟩, .loopReg ⟨0, 0, 0, 1⟩, .smode ⟨0, 0⟩, .smode ⟨0, 3⟩, .cmp ⟨0, 1, 1, 1, 10, 0, 0⟩, .cmp ⟨0, 1, 1, 1, 4, 1, 0⟩,
    .cmp ⟨0, 1, 1, 1, 0, 0, 1⟩, .cmpi ⟨0, 1, 1, 10, 0⟩, .cmpiWide ⟨0, 1, 1, 10, 0⟩, .fadd ⟨0, 1, 1, 1, 3, 0, 0⟩,
    .faddWide ⟨0, 1, 1, 1, 0, 0, 0, 0, 1⟩, .fmulWide ⟨0, 1, 1, 1, 0, 0, 0, 2, 0⟩, .fcvt ⟨0, 1, 1, 1, 1, 0, 0, 0⟩,
    .fcvt ⟨0, 1, 1, 9, 1, 0, 0, 0⟩, .fcvt ⟨0, 1, 1, 1, 2, 0, 0, 1⟩, .fcvtWide ⟨0, 1, 1, 1, 0, 0, 0, 0, 0, 1⟩, .csrr ⟨0, 1, 0x007⟩,
    .csrw ⟨0, 1, 0x805⟩, .ld ⟨0, 1, 2, 0, 0, 1, 1, 0⟩, .ld ⟨0, 1, 2, 3, 1, 0, 0, 0⟩, .ld ⟨0, 2, 2, 3, 0, 1, 0, 1⟩, .st ⟨0, 1, 2, 0, 1, 0, 0, 0⟩,
    .ldf ⟨0, 1, 2, 0, 1, 0, 0, 0⟩, .vld ⟨0, 1, 2, 3, 0, 0, 0⟩, .vldx ⟨0, 1, 2, 3, 3, 0⟩, .vadd ⟨0, 1, 2, 3, 0, 0, 1⟩, .vadd ⟨0, 1, 2, 3, 3, 0, 0⟩,
    .vmin ⟨0, 1, 2, 3, 0, 1, 0⟩, .vand ⟨0, 1, 2, 3, 0, 0, 1⟩, .vaddWide ⟨0, 1, 2, 3, 0, 0, 0, 1, 4⟩, .vaddWide ⟨0, 1, 2, 3, 0, 0, 0, 0, 4⟩,
    .vcmp ⟨0, 1, 2, 3, 6, 0, 0⟩, .vcmp ⟨0, 1, 2, 3, 4, 1, 0⟩, .vcvt ⟨0, 1, 2, 1, 1, 0, 0, 0⟩, .vcvt ⟨0, 1, 2, 1, 2, 2, 0, 0⟩,
    .vcvtWide ⟨0, 1, 2, 1, 2, 0, 0, 0, 0, 1, 0⟩, .vaddF ⟨0, 1, 2, 3, 3, 0, 0⟩, .vaddFWide ⟨0, 1, 2, 3, 0, 0, 0, 5, 0, 0, 0⟩, .vexp2 ⟨0, 1, 2, 3, 0, 0, 0⟩,
    .vsum ⟨0, 1, 2, 4, 0, 0, 0⟩, .vsum ⟨0, 1, 2, 1, 1, 0, 0⟩, .vscan ⟨0, 1, 2, 0, 0, 1, 0⟩, .vcmpr ⟨0, 1, 2, 1, 0, 0⟩, .vvote ⟨0, 1, 2, 2⟩,
    .pset ⟨0, 1, 65⟩, .pmov ⟨0, 1, 2, 3⟩, .mxprogTab ⟨0, 1, 2, 64⟩, .zrd ⟨0, 1, 12, 0, 0, 0⟩, .mxstat ⟨0, 1, 12, 0⟩, .copy ⟨0, 1, 2, 3, 4, 1, 0⟩,
    .copyWide ⟨0, 1, 2, 3, 0, 1, 0, 1, 0, 0, 0, 0, 0, 0, 0⟩, .copyWide ⟨0, 1, 2, 3, 4, 0, 0, 1, 0, 0, 0, 0, 0, 1, 0⟩,
    .copyWide ⟨0, 1, 2, 3, 4, 0, 0, 1, 0, 0, 0, 0, 0, 0, 1⟩, .copyWide ⟨0, 1, 2, 3, 4, 0, 0, 1, 0, 0, 0, 1, 0, 6, 0⟩,
    .copy2d ⟨0, 1, 2, 3, 4, 0, 1⟩, .copy2dWide ⟨0, 1, 2, 3, 4, 0, 0, 1, 0, 0, 1, 0, 0, 0, 0⟩, .rputWide ⟨0, 1, 2, 3, 4, 0, 0, 1, 0, 0, 0, 0, 0, 0, 1⟩,
    .rputWide ⟨0, 1, 2, 3, 4, 0, 0, 1, 0, 0, 0, 0, 0, 0, 0xA0⟩, .rputWide ⟨0, 1, 2, 3, 4, 0, 0, 1, 0, 0, 0, 0, 1, 0, 0⟩,
    .rgetvWide ⟨0, 1, 2, 3, 4, 0, 0, 1, 0, 0, 0, 1, 0, 0, 0⟩, .rmcastWide ⟨0, 1, 2, 3, 4, 0, 0, 1, 5, 0, 0, 0, 0, 0, 0⟩, .rfop ⟨0, 1, 2, 3, 9, 0⟩,
    .rfopWide ⟨0, 1, 2, 3, 0, 0, 0, 0, 0, 32⟩, .rfopIncw ⟨0, 1, 2, 3, 9, 0, 0, 0, 0, 4⟩, .rfopCas ⟨0, 1, 2, 3, 10, 0, 0, 0, 0, 4⟩, .fence ⟨0, 6⟩,
    .wld ⟨8, 0, 0, 0, 0, 0⟩, .wld ⟨0, 0, 0, 0, 4, 0⟩, .wld ⟨0, 0, 1, 0, 2, 0⟩, .ast ⟨0, 0, 0, 0, 1, 0, 0, 0, 0⟩, .ast ⟨0, 0, 0, 0, 31, 2, 0, 0, 0⟩,
    .zgrid ⟨0, 0, 1, 0⟩, .zgrid ⟨0, 1, 1, 1⟩, .zcvt ⟨32, 0, 0, 0, 0, 1, 0, 0, 0⟩, .zcvt ⟨0, 0, 0, 0, 0, 1, 3, 0, 0⟩, .mloop ⟨0, 1, 1⟩, .mloop ⟨1, 1, 1⟩,
    .marrive ⟨0, 1, 1, 0⟩, .mwait ⟨1, 1, 0⟩
    ] : List Instr).all (fun i => !i.wf) = true := by decide
/-- Every format refuses a field that has more bits than the format gives it. -/
theorem test_wf_widths : ([
    .nop ⟨16⟩, .prep ⟨3, 8, 9⟩, .prepr ⟨3, 5, 32⟩, .trans ⟨3, 5, 6, 4, 1⟩, .loopImm ⟨16, 1, 6, 7⟩,
    .loopReg ⟨3, 2, 6, 26⟩, .join ⟨16, 4⟩, .smode ⟨3, 4⟩, .spawn ⟨3, 18, 2⟩, .trap ⟨3, 256⟩, .add ⟨3, 11, 32, 21⟩,
    .mulh ⟨3, 32, 19, 21, 1⟩, .addi ⟨16, 11, 19, 0x123⟩, .addiWide ⟨3, 32, 19, 0x123⟩, .movi ⟨3, 11, 131072⟩,
    .moviWide ⟨3, 11, 1, 4294967296⟩, .moviHi ⟨3, 32, 0x89abcdef⟩, .clz ⟨3, 11, 32⟩, .sel ⟨3, 11, 19, 32, 6⟩,
    .cmp ⟨3, 7, 19, 21, 10, 2, 1⟩, .cmpi ⟨16, 7, 19, 3, 128⟩, .cmpiWide ⟨3, 32, 19, 3, 0x123⟩, .shli ⟨3, 11, 32, 33⟩,
    .fadd ⟨3, 11, 32, 21, 1, 0, 0⟩, .faddWide ⟨3, 11, 19, 21, 1, 0, 2, 0, 5⟩, .fcvt ⟨3, 32, 19, 7, 1, 0, 0, 1⟩,
    .fcvtWide ⟨3, 11, 19, 8, 2, 0, 2, 0, 5, 1⟩, .csrr ⟨16, 9, 16⟩, .movm ⟨16, 18, 5, 1⟩,
    .ld ⟨3, 18, 21, 2, 1, 2, 1, 127⟩, .ldWide ⟨3, 18, 21, 2, 0, 1, 2, 0xfffffff8⟩, .tage ⟨3, 32, 1⟩,
    .tageWide ⟨3, 21, 4294967296⟩, .vld ⟨3, 40, 21, 1, 1, 2, 9⟩, .vldWide ⟨3, 40, 21, 1, 1, 0, 4294967296⟩,
    .vldx ⟨3, 40, 33, 21, 1, 8⟩, .vadd ⟨3, 64, 19, 21, 1, 0, 0⟩, .vaddWide ⟨3, 64, 19, 0, 1, 1, 1, 1, 29⟩,
    .vcmp ⟨3, 7, 19, 64, 6, 1, 1⟩, .vsel ⟨3, 11, 19, 21, 16⟩, .vselWide ⟨3, 11, 19, 21, 6, 2, 0⟩,
    .vcvt ⟨3, 64, 19, 1, 2, 1, 0, 0⟩, .vcvtWide ⟨3, 11, 19, 7, 1, 3, 0, 0, 5, 2, 1⟩, .vperm ⟨3, 11, 19, 64, 1⟩,
    .vbcast ⟨16, 11, 17, 1⟩, .vaddF ⟨3, 11, 19, 64, 1, 0, 0⟩, .vaddFWide ⟨3, 11, 64, 21, 1, 0, 0, 0, 5, 0, 0⟩,
    .vsum ⟨3, 11, 19, 1, 0, 2, 0⟩, .vsumWide ⟨16, 11, 19, 1, 0, 0, 0, 5⟩, .vlane ⟨3, 18, 40, 50, 2⟩,
    .vpopc ⟨3, 11, 32⟩, .vcmpr ⟨3, 11, 19, 64, 1, 0⟩, .vhash ⟨16, 11, 19, 21⟩, .vhashWide ⟨3, 11, 19, 21, 0, 32⟩,
    .vvote ⟨3, 7, 32, 1⟩, .pand ⟨3, 7, 9, 32⟩, .pnot ⟨3, 7, 32⟩, .pset ⟨16, 7, 64⟩, .pmov ⟨3, 11, 32, 2⟩,
    .mxcall ⟨3, 64⟩, .mxprog ⟨16, 19, 21, 37⟩, .zrd ⟨3, 64, 6, 19, 0, 1⟩, .mxstat ⟨3, 11, 16, 1⟩,
    .copy ⟨16, 8, 14, 22, 0, 1, 1⟩, .copyWide ⟨3, 8, 14, 22, 32, 0, 0, 0xfff, 27, 1, 1, 1, 1, 3, 0⟩,
    .seop ⟨16, 11, 3, 10, 0⟩, .seopWide ⟨3, 11, 2, 32, 0, 6, 0, 0, 0⟩, .strcfg ⟨3, 8, 31⟩, .stron ⟨16, 4⟩,
    .bufrel ⟨3, 32⟩, .rget ⟨16, 8, 13, 15, 16⟩, .rgetWide ⟨3, 32, 13, 15, 16, 1, 5⟩, .rfop ⟨16, 8, 13, 2, 8, 1⟩,
    .rfopWide ⟨3, 8, 13, 32, 0, 1, 1, 0, 4, 0⟩, .rvatom ⟨3, 8, 32, 1, 10, 0⟩,
    .rvatomWide ⟨3, 8, 14, 2, 10, 0, 6, 0, 0⟩, .rred ⟨16, 14, 77, 20⟩, .rredWide ⟨3, 14, 77, 20, 0, 8⟩, .fence ⟨16, 5⟩,
    .arrive ⟨3, 32, 0xfff⟩, .waitb ⟨3, 21, 2⟩, .waitbC ⟨16, 21, 0x1ffff⟩, .waitbCWide ⟨3, 32, 0xffffffff⟩,
    .barinit ⟨3, 21, 32⟩, .trigarm ⟨3, 11, 21, 22, 32⟩, .trigcancel ⟨3, 32⟩, .moncfgConfigure ⟨3, 5, 32⟩,
    .tlbinv ⟨3, 32⟩, .tlbinvPart ⟨16⟩, .wld ⟨37, 0xfffff, 3, 64, 15, 2⟩, .ast ⟨64, 0xffff, 4, 6, 8, 12, 15, 0, 1⟩,
    .zclr ⟨16⟩, .zgrid ⟨16, 1, 2, 0⟩, .zcvt ⟨5, 9, 4, 16, 8, 12, 1, 0, 0⟩, .mloop ⟨0, 8, 100⟩,
    .marrive ⟨1, 0, 10, 4096⟩, .mwait ⟨2, 10, 1⟩, .minc ⟨2, 4294967296⟩] : List Instr).all (fun i => !i.wf) = true := by decide
/-! ### What meets the hypotheses of the statements

A state is built from State.reset, whose issuing context is context 0 of core 0, and every theorem `meets_<Name>` gives the
statement <Name> states and operands that meet the hypotheses of its clauses, at the ends of their ranges. -/

/-- Scalar register n of the issuing context holds v. -/
def reg (n v : Nat) (s : State := State.reset) : State := s.modCtx 0 0 fun k => k.writeS n (BitVec.ofNat 64 v)
/-- Predicate register n of the issuing context has the lane bits b. -/
def prd (n b : Nat) (s : State := State.reset) : State := s.modCtx 0 0 fun k => k.writeP n (BitVec.ofNat 64 b)
/-- Eight bytes of memory at an address, as the bundle sees them too. -/
def word (a v : Nat) (s : State := State.reset) : State :=
  { s with mem := s.mem.writeN a 8 v, iss := { s.iss with mem := s.mem.writeN a 8 v } }
/-- Core 0 changed. -/
def withCore (f : Core → Core) (s : State := State.reset) : State := s.modCore 0 f
/-- Core 0 with another identity. -/
def withIdent (f : CoreIdent → CoreIdent) (s : State := State.reset) : State := s.modCore 0 fun k => { k with ident := f k.ident }
/-- The issuing context changed. -/
def withCtx (f : Ctx → Ctx) (s : State := State.reset) : State := s.modCtx 0 0 f
/-- The event that takes place has these operands. -/
def withArgs (l : List Nat) (s : State := State.reset) : State := { s with clk := { s.clk with args := l } }
/-- A result on its way to s1. -/
def onItsWay (rem order : Nat) : Result := ⟨.s 1, 7, 0, 0, rem, 0, order, none, none⟩
/-- Core 0 at level U. -/
abbrev atU : State := withIdent fun k => { k with pl := false }
/-- Core 0 in a mode. -/
abbrev inMode (m : Nat) : State := withIdent fun k => { k with mode := m }

theorem meets_ScalarRegisterResults : State.reset.guard0 0 = true ∧ (reg 2 64).guard0 0 = true := by decide +kernel
theorem meets_ScalarDivisionAndCounts : State.reset.guard0 0 = true ∧ State.reset.readS 2 = 0
    ∧ (reg 2 5).guard0 0 = true ∧ (reg 2 5).readS 2 ≠ 0 ∧ (⟨0, 3, 1, 2, 1⟩ : FmtSRU).u ≠ 0 ∧ (⟨0, 3, 1, 2, 0⟩ : FmtSRU).u = 0 := by
  decide +kernel
theorem meets_ScalarImmediatesAndCompares : State.reset.guard0 0 = true ∧ (⟨0, 1, 1, 2 ^ 32 - 1⟩ : FmtSLW).i < 2 ^ 32
    ∧ (⟨0, 1, 2 ^ 32 - 1⟩ : FmtSLH).i < 2 ^ 32 ∧ (⟨0, 1, 1, 2, 9, 0, 0⟩ : FmtSC).f = 0 ∧ (⟨0, 1, 1, 2, 9, 0, 0⟩ : FmtSC).cond < 10
    ∧ (⟨0, 1, 1, 9, 0⟩ : FmtSK).cond < 10 ∧ (⟨0, 1, 1, 9, 0⟩ : FmtSKW).cond < 10 := by decide +kernel
theorem meets_ScalarFloatResults : State.reset.guard0 0 = true ∧ (⟨0, 1, 1, 2, 10, 1, 0⟩ : FmtSC).f = 1
    ∧ (fp32.value false 0x7FC00000).isNan = true ∧ fpCompare (fp32.value false 0) (fp32.value false 0x80000000) = some 0
    ∧ 3 < 4 ∧ fpE5m2 ∈ [fp32, fpBf16, fp16, fpE4m3, fpE5m2] := by
  refine ⟨by decide +kernel, rfl, by decide +kernel, by decide +kernel, by decide, by simp⟩
theorem meets_SystemRegisterAccess : State.reset.guard0 0 = true ∧ (State.reset.core 0).ident.pl = true
    ∧ atU.guard0 0 = true ∧ (atU.core 0).ident.pl = false ∧ (⟨0, 1, 0x7FF⟩ : FmtSX).csr < 0x800 ∧ 0x800 ≤ (⟨0, 1, 0x800⟩ : FmtSX).csr
    ∧ (reg 1 0xFFE00).guard0 0 = true ∧ bits ((reg 1 0xFFE00).readS 1).toNat 9 11 = 0x7FF
    ∧ (reg 1 0xFFC00).guard0 0 = true ∧ bits ((reg 1 0xFFC00).readS 1).toNat 9 11 ≠ 0x7FF ∧ (reg 1 0xFFC00).arrivalsOutstanding 0 = false
    ∧ (withCore fun k => { k with arrives := [⟨1, 0, 1, [], 1, 0, none⟩] }).guard0 0 = true
    ∧ bits ((withCore fun k => { k with arrives := [⟨1, 0, 1, [], 1, 0, none⟩] }).readS 1).toNat 9 11 ≠ 0x7FF
    ∧ (withCore fun k => { k with arrives := [⟨1, 0, 1, [], 1, 0, none⟩] }).arrivalsOutstanding 0 = true
    ∧ (⟨[], [], []⟩ : Bundle).suffix = []
    ∧ (∀ n ∈ [0x002, 0x010, 0x011, 0x018, 0x020, 0x801, 0x802, 0x803, 0x804, 0x810, 0x811, 0x812],
        (State.reset.modIss fun k => { k with defer := [.csr 1 n 5] }).iss.defer = [.csr 1 n 5] ∧ n ≠ 0x820) := by decide +kernel
theorem meets_SmallFloatEncodings : 127 % 128 = 127 ∧ 255 < 256 ∧ 255 % 128 = 127 ∧ 126 % 128 ≠ 127
    ∧ (0x7C / 2 ^ fpE5m2.fw % 2 ^ fpE5m2.ew = 2 ^ fpE5m2.ew - 1 ∧ 0x7C % 2 ^ fpE5m2.fw = 0)
    ∧ (0xFF / 2 ^ fpE5m2.fw % 2 ^ fpE5m2.ew = 2 ^ fpE5m2.ew - 1 ∧ 0xFF % 2 ^ fpE5m2.fw ≠ 0) := by decide
theorem meets_VectorIntegerResults : State.reset.guardMask 0 ≠ 0 ∧ (prd 1 1).guardMask 1 ≠ 0 ∧ (prd 1 1).guardMask 1 = 1 := by decide +kernel
theorem meets_VectorFloatResults : State.reset.guardMask 0 ≠ 0 ∧ (prd 1 (2 ^ 63)).guardMask 1 ≠ 0 ∧ 3 < 4 ∧ fp16 ∈ [fp32, fpBf16, fp16] :=
  ⟨by decide +kernel, by decide +kernel, by decide, by simp⟩
theorem meets_VectorMovesAndWholeResults : State.reset.guardMask 0 ≠ 0 ∧ (⟨0, 1, 1, 2, 5, 0, 0⟩ : FmtVC).f = 0 ∧ (⟨0, 1, 1, 2, 5, 0, 0⟩ : FmtVC).cond < 10
    ∧ (⟨0, 1, 1, 63, 0⟩ : FmtVL).lane < 64 ∧ (State.reset.guardMask 0).getLsbD 63 = true
    ∧ (prd 1 1).guardMask 1 ≠ 0 ∧ ((prd 1 1).guardMask 1).getLsbD 63 = false
    ∧ State.reset.guardMask 1 = 0 ∧ (State.reset.core 0).bound 63 = false ∧ (⟨0, 1, 2, 1⟩ : FmtVO).mode ≠ 0
    ∧ (⟨0, 1, 1, 2, 3, 1, 0⟩ : FmtVC).f = 1 ∧ (⟨0, 1, 1, 2, 6, 1, 0⟩ : FmtVC).cond = 6 ∧ (⟨0, 1, 1, 2, 3, 1, 0⟩ : FmtVC).cond ≤ 3
    ∧ (⟨0, 1, 2, 0, 1, 0, 0⟩ : FmtVR).x ≤ 1 ∧ (State.reset.core 0).bound 62 = false := by decide +kernel
theorem meets_ConversionsAndPredicates : State.reset.guardMask 0 ≠ 0 ∧ (⟨0, 1, 2, 0⟩ : FmtPM).sel = 0 ∧ (⟨0, 1, 2, 1⟩ : FmtPM).sel = 1
    ∧ (⟨0, 1, 2, 2⟩ : FmtPM).sel = 2 ∧ 8 ≤ 8 ∧ 0 ≤ 8 ∧ 3 < 4 := by decide +kernel
/-- Handle h0 of core 0 holds the word. -/
abbrev handle (v : Nat) : State := word (State.reset.handleAddr 0 0) v
theorem meets_AddressesAndRangeTags :
    (∃ a : Int, a = ((reg 1 (2 ^ 20 - 8)).readS 1).toNat + 0 ∧ 0 ≤ a ∧ a + 8 ≤ 2 ^ 20 ∧ a % 8 = 0)
    ∧ (∃ a : Int, a = ((reg 1 (2 ^ 20 - 7)).readS 1).toNat + 0 ∧ 2 ^ 20 < a + 8) ∧ (∃ a : Int, a = (State.reset.readS 1).toNat + -1 ∧ a < 0)
    ∧ (∃ a : Int, a = (State.reset.readS 1).toNat + 1 ∧ 0 ≤ a ∧ a + 8 ≤ 2 ^ 20 ∧ a % 8 ≠ 0)
    ∧ hBad ((handle (2 ^ 55)).handleWord (handle (2 ^ 55)).iss.mem 0 0) = true
    ∧ (hBad ((handle 0).handleWord (handle 0).iss.mem 0 0) = false ∧ (hLen ((handle 0).handleWord (handle 0).iss.mem 0 0) : Int) < 0 + 8)
    ∧ (∀ st : Nat, st < 4 → ∃ x, x = (handle (st * 2 ^ 62 + 8 * 2 ^ 20)).handleWord (handle (st * 2 ^ 62 + 8 * 2 ^ 20)).iss.mem 0 0
        ∧ hBad x = false ∧ (0 : Int) + 8 ≤ hLen x ∧ (0 : Int) ≤ hBase x ∧ (hBase x : Int) + 8 ≤ 2 ^ 20 ∧ (hBase x : Int) % 8 = 0 ∧ hState x = st)
    ∧ State.reset.guard0 0 = true ∧ (2 ^ 20 - 4096 + 4096 ≤ 2 ^ 20 ∧ (2 ^ 20 - 4096) % 8 = 0 ∧ 4096 % 8 = 0) ∧ 2 ^ 20 < 2 ^ 20 + 8
    ∧ (2 ^ 20 ≤ 2 ^ 20 ∧ 2 ^ 20 < 8 + 2 ^ 20) := by
  refine ⟨⟨_, rfl, by decide +kernel⟩, ⟨_, rfl, by decide +kernel⟩, ⟨_, rfl, by decide +kernel⟩, ⟨_, rfl, by decide +kernel⟩, by decide +kernel,
    by decide +kernel, ?_, by decide +kernel, by decide, by decide, by decide⟩
  intro st h
  refine ⟨_, rfl, ?_⟩
  revert st
  decide +kernel
theorem meets_ScalarLoadsAndStores : (reg 2 (2 ^ 20 - 8)).mem.wf = true ∧ (reg 2 (2 ^ 20 - 8)).guard0 0 = true
    ∧ ((reg 2 (2 ^ 20 - 8)).formAddr 0 0 2 0 0 8 8).2 = some (2 ^ 20 - 8)
    ∧ ((reg 2 (2 ^ 20 - 8)).formAddr 0 1 2 ((BitVec.ofNat 32 (2 ^ 32 - 8)).toInt) 0 8 8).2 = some (2 ^ 20 - 8)
    ∧ (handle (3 * 2 ^ 62 + 8 * 2 ^ 20)).mem.wf = true ∧ ((handle (3 * 2 ^ 62 + 8 * 2 ^ 20)).formAddr 1 0 0 0 0 8 8).2 = some 0 := by decide +kernel
theorem meets_VectorMemory : (reg 2 (2 ^ 20 - 256)).mem.wf = true ∧ (reg 2 (2 ^ 20 - 256)).guardMask 0 ≠ 0
    ∧ ((reg 2 (2 ^ 20 - 256)).formVec 0 0 2 0 ((reg 2 (2 ^ 20 - 256)).guardMask 0)).2 = some (2 ^ 20 - 256)
    ∧ (∀ e, e < 64 → (State.reset.guardMask 0).getLsbD (e * 32 / 32) = true →
        (State.reset.readS 1).toNat + elemOf 32 (vecVal (State.reset.vecOperands [3]).2 3) e * 2 ^ 2 + 4 ≤ 2 ^ 20
        ∧ ((State.reset.readS 1).toNat + elemOf 32 (vecVal (State.reset.vecOperands [3]).2 3) e * 2 ^ 2) % 4 = 0)
    ∧ (∀ e, e < 64 → (State.reset.guardMask 0).getLsbD (e * 32 / 32) = true →
        (State.reset.readS 1).toNat + elemOf 32 (vecVal (State.reset.vecOperands [4, 3]).2 3) e * 2 ^ 2 + 4 ≤ 2 ^ 20
        ∧ ((State.reset.readS 1).toNat + elemOf 32 (vecVal (State.reset.vecOperands [4, 3]).2 3) e * 2 ^ 2) % 4 = 0)
    ∧ (∀ l ∈ [[3], [4, 3]], (State.reset.guardMask 0).getLsbD (0 * 32 / 32) = true
        ∧ 2 ^ 20 < ((reg 1 (2 ^ 20 - 3)).readS 1).toNat + elemOf 32 (vecVal ((reg 1 (2 ^ 20 - 3)).vecOperands l).2 3) 0 * 2 ^ 2 + 4
        ∧ (∀ k, k < 64 → ((reg 1 (2 ^ 20 - 5)).readS 1).toNat + elemOf 32 (vecVal ((reg 1 (2 ^ 20 - 5)).vecOperands l).2 3) k * 2 ^ 2 + 4 ≤ 2 ^ 20)
        ∧ (((reg 1 (2 ^ 20 - 5)).readS 1).toNat + elemOf 32 (vecVal ((reg 1 (2 ^ 20 - 5)).vecOperands l).2 3) 0 * 2 ^ 2) % 4 ≠ 0) := by
  decide +kernel
/-- Core 0 in a handler entered from ATTACHED mode. -/
abbrev handling : State := withCore fun k => { k with stat := { k.stat with handler := true } }
/-- Core 0 as a host start holds it. -/
abbrev started : State := withIdent fun k => { k with started := true }
/-- Context 1 issues. -/
abbrev ctx1 : State := State.reset.modIss fun k => { k with ctx := 1 }
/-- A result of an earlier bundle is on its way in the issuing context. -/
abbrev flying : State := withCtx fun k => { k with inflight := [onItsWay 2 9] }
/-- Core 0, placed for node n, issues JOIN 15 in the cycle in which the Chord of node 3 multicasts that JOIN. -/
def joining (n : Nat) : State :=
  ((withIdent fun k => { k with placed := true, node := n }).modCluster 0 fun k =>
    { k with chord := { k.chord with node := 3, joined := some (15, 0) } }).ask (.join 15)
theorem meets_ModesAndNop : (inMode 2).mode = 2 ∧ (inMode 0).mode = 0 ∧ (inMode 0).guard0 0 = true ∧ (inMode 0).inHandler = false
    ∧ ((inMode 0).core 0).ident.started = false ∧ State.reset.mode = 1 ∧ State.reset.guard0 0 = true ∧ State.reset.inHandler = false
    ∧ (State.reset.core 0).ident.started = false ∧ State.reset.iss.ctx = 0 ∧ handling.guard0 0 = true ∧ handling.inHandler = true
    ∧ started.guard0 0 = true ∧ (started.core 0).ident.started = true ∧ ctx1.iss.ctx ≠ 0 ∧ ctx1.guard0 0 = true
    ∧ (State.reset.ctx 0 0).earlier = [] ∧ (⟨0, 1⟩ : FmtCM).mode = State.reset.mode ∧ (⟨0, 2⟩ : FmtCM).mode ≠ State.reset.mode
    ∧ ((inMode 2).guard0 0 = true ∧ (inMode 2).mode ≠ 0 ∧ (inMode 2).inHandler = false ∧ (⟨0, 1⟩ : FmtCM).mode ≠ (inMode 2).mode
      ∧ ((inMode 2).ctx 0 0).earlier = [] ∧ ((inMode 2).core 0).othersDormant = true)
    ∧ (flying.guard0 0 = true ∧ flying.mode ≠ 0 ∧ flying.iss.ctx = 0 ∧ flying.inHandler = false ∧ (flying.ctx 0 0).earlier ≠ [])
    ∧ (∀ k ∈ [Ctl.halt, .join 15, .none, .detach, .mode 2, .trap 255], (State.reset.ask k).iss.ctl = k ∧ ((State.reset.ask k).core 0).ident.mode = 1
      ∧ duePending ((State.reset.ask k).ctx 0 0).pend = none ∧ ((State.reset.ask k).ctx 0 0).loopEndsAt (State.reset.ask k).iss.addr = false
      ∧ ((State.reset.ask k).ctx 0 0).cap = none)
    ∧ (State.reset.cluster (clusterOf 0)).chord.joined ≠ some (15, State.reset.clk.cycle)
    ∧ (∀ n ∈ [3, 4], (joining n).iss.ctl = .join 15 ∧ ((joining n).core 0).ident.mode = 1
      ∧ ((joining n).cluster (clusterOf 0)).chord.joined = some (15, (joining n).clk.cycle)
      ∧ ((joining n).cluster (clusterOf 0)).chord.serves ((joining n).core 0) = (n == 3)) := by
  decide +kernel
/-- The bundle at an address issues, and another follows it. -/
abbrev atAddr (a n : Nat) : State := State.reset.modIss fun k => { k with addr := a, next := n }
/-- Target register 1 of the issuing context in a state, with target 64. -/
abbrev target (st : Nat) : State := withArgs [0, 0, 1] (withCtx fun k => { k with tb := [(1, ⟨64, st, 0, []⟩)] })
/-- Island n of package 0 is halted: its operating point is being changed. -/
def halted (n : Nat) (s : State := State.reset) : State :=
  s.modPkg 0 fun k => { k with islands := [(n, { Island.reset with busy := true })] }
theorem meets_PreparedTargets : (atAddr (2 ^ 24 - 2) 0).guard0 0 = true
    ∧ (∃ t : Int, t = (atAddr (2 ^ 24 - 2) 0).iss.addr + 2 * (BitVec.ofNat 19 0).toInt ∧ 0 ≤ t ∧ t ≤ 2 ^ 24 - 2)
    ∧ (∃ t : Int, t = (atAddr 0 0).iss.addr + 2 * (BitVec.ofNat 19 (2 ^ 19 - 1)).toInt ∧ t < 0)
    ∧ (∃ t : Int, t = (atAddr (2 ^ 24 - 2) 0).iss.addr + 2 * (BitVec.ofNat 19 1).toInt ∧ 2 ^ 24 - 2 < t)
    ∧ ((reg 1 (2 ^ 24 - 2)).guard0 0 = true ∧ ((reg 1 (2 ^ 24 - 2)).readS 1).toNat < 2 ^ 24 ∧ ((reg 1 (2 ^ 24 - 2)).readS 1).toNat % 2 = 0)
    ∧ ((reg 1 (2 ^ 24)).guard0 0 = true ∧ 2 ^ 24 ≤ ((reg 1 (2 ^ 24)).readS 1).toNat)
    ∧ ((reg 1 1).guard0 0 = true ∧ ((reg 1 1).readS 1).toNat < 2 ^ 24 ∧ ((reg 1 1).readS 1).toNat % 2 = 1)
    ∧ (target 1).clk.args = [0, 0, 1] ∧ (Tab.get TReg.reset ((target 1).ctx 0 0).tb 1).state = 1
    ∧ (Tab.get TReg.reset ((target 1).ctx 0 0).tb 1).readyAt ≤ (target 1).clk.cycle
    ∧ (target 1).lineWaits 0 0 64 = false ∧ (target 1).lineWaits 0 0 128 = false
    ∧ (halted 1024 (target 1)).lineWaits 0 0 64 = true ∧ (Tab.get TReg.reset ((target 2).ctx 0 0).tb 1).state ≠ 1
    ∧ (∃ k q t, (0, k) ∈ (target 1).cores ∧ (0, q) ∈ k.ctxs ∧ (1, t) ∈ q.tb ∧ t.state = 1 ∧ t.readyAt ≤ (target 1).clk.cycle)
    ∧ ∃ l : List Due, (false, Turn.core 0) ∈ l := by
  refine ⟨by decide +kernel, ⟨_, rfl, by decide +kernel⟩, ⟨_, rfl, by decide +kernel⟩, ⟨_, rfl, by decide +kernel⟩, by decide +kernel,
    by decide +kernel, by decide +kernel, rfl, by decide +kernel, by decide +kernel, by decide +kernel, by decide +kernel, by decide +kernel,
    by decide +kernel, ⟨_, _, ⟨64, 1, 0, []⟩, List.mem_singleton.mpr rfl, List.mem_singleton.mpr rfl, by decide +kernel, rfl, by decide +kernel⟩,
    ⟨_, List.mem_singleton.mpr rfl⟩⟩
theorem meets_TransfersAndLoops : ((prd 1 2).guard0 0 = true ∧ ((prd 1 2).readP 1).u = false)
    ∧ (State.reset.guard0 0 = true ∧ (State.reset.readP 2).u = true ∧ (State.reset.readP 2).bits.getLsbD 0 = false
      ∧ (Tab.get TReg.reset (State.reset.ctx 0 0).tb 1).state ≠ 1)
    ∧ ((State.reset.readP 0).u = true ∧ (State.reset.readP 0).bits.getLsbD 0 = true ∧ (Tab.get TReg.reset (State.reset.ctx 0 0).tb 1).state = 0)
    ∧ ((target 2).guard0 0 = true ∧ ((target 2).readP 0).u = true ∧ ((target 2).readP 0).bits.getLsbD 0 = true
      ∧ (Tab.get TReg.reset ((target 2).ctx 0 0).tb 1).state = 2)
    ∧ ((target 1).guard0 0 = true ∧ ((target 1).readP 2).u = true ∧ (Tab.get TReg.reset ((target 1).ctx 0 0).tb 1).state = 1)
    ∧ (∃ f : FmtCLI, Instr.loopImm ⟨0, 1, 1, 1⟩ = .loopImm f ∧ 0 = f.g ∧ 1 = f.l ∧ 1 = f.fin ∧ 1 = f.cnt)
    ∧ (∃ f : FmtCLR, Instr.loopReg ⟨0, 0, 2, 3⟩ = .loopReg f ∧ 0 = f.g ∧ 0 = f.l ∧ 2 = f.fin ∧ 0 = ((atAddr 0 4).readS f.s).toNat % 2 ^ 32)
    ∧ (atAddr 0 4).iss.addr + 2 * 1 < (atAddr 0 4).iss.next ∧ (atAddr 0 4).guard0 0 = true
    ∧ (atAddr 0 4).iss.next ≤ (atAddr 0 4).iss.addr + 2 * 2 := by
  refine ⟨by decide +kernel, by decide +kernel, by decide +kernel, by decide +kernel, by decide +kernel, ⟨_, rfl, rfl, rfl, rfl, rfl⟩,
    ⟨_, rfl, rfl, rfl, rfl, ?_⟩, ?_⟩ <;>
    decide +kernel
theorem meets_SpawnAndPark : ((reg 1 (2 ^ 24 - 2)).guard0 0 = true ∧ ((reg 1 (2 ^ 24 - 2)).readS 1).toNat < 2 ^ 24
      ∧ ((reg 1 (2 ^ 24 - 2)).readS 1).toNat % 2 = 0 ∧ (reg 1 (2 ^ 24 - 2)).poolSize 0 + 1024 < 65536)
    ∧ 2 ^ 24 ≤ ((reg 1 (2 ^ 24)).readS 1).toNat ∧ ((reg 1 1).readS 1).toNat % 2 = 1 ∧ State.reset.iss.ctx = 0
    ∧ (ctx1.guard0 0 = true ∧ ctx1.iss.ctx ≠ 0 ∧ (ctx1.ctx 0 1).earlier = [] ∧ ctx1.poolSize 0 + 1024 < 65536)
    ∧ (∀ y : Bool, (ctx1.ask (.suspend y)).iss.ctl = .suspend y) := by decide +kernel
/-- Node 5 of die 0, of core 0 alone, is placed with sync line 3, its domain open or not; core 0 is a member or not. -/
def domain (isOpen member : Bool) (go arrived : Option Nat) : State :=
  let s := withCore fun k => { k with ident := { k.ident with placed := true, node := 5 }, sync := ⟨member, false, arrived, go⟩ }
  let s := s.modSched 0 fun k => { k with placed := [(5, ⟨[0], [], 0, false, [], 0, [], 0, false, some 3, false, [], [], [], 0⟩)] }
  withArgs [0, 3] (s.modPkg 0 fun k => { k with domains := [(3, ⟨5, isOpen, 0⟩)] })
theorem meets_SyncGenerations : ctx1.iss.ctx ≠ 0 ∧ (handling.guard0 0 = true ∧ handling.inHandler = true)
    ∧ (started.guard0 0 = true ∧ started.iss.ctx = 0 ∧ started.inHandler = false ∧ (started.core 0).ident.started = true)
    ∧ (State.reset.guard0 0 = true ∧ State.reset.iss.ctx = 0 ∧ State.reset.inHandler = false ∧ (State.reset.core 0).ident.started = false)
    ∧ ((State.reset.core 0).sync.member = false ∧ (State.reset.core 0).sync.pendJ = false ∧ State.reset.syncOpen 0 = false)
    ∧ ((domain true true (some 0) none).guard0 0 = true ∧ (domain true true (some 0) none).inHandler = false
      ∧ ((domain true true (some 0) none).core 0).ident.started = false ∧ ((domain true true (some 0) none).core 0).sync.member = true
      ∧ ((domain true true (some 0) none).core 0).sync.go = some 0 ∧ 0 ≤ (domain true true (some 0) none).time 0)
    ∧ (((domain true true none none).core 0).sync.member = true ∧ ((domain true true none none).core 0).sync.go = none)
    ∧ (((domain true false none none).core 0).sync.member = false ∧ (domain true false none none).syncOpen 0 = true)
    ∧ ((domain true true none (some 9)).clk.args = [0, 3] ∧ (domain true true none (some 9)).domainCores 0 3 = [0]
      ∧ (Tab.get ⟨0, false, 0⟩ ((domain true true none (some 9)).pkg 0).domains 3).isOpen = true
      ∧ ∀ c ∈ (domain true true none (some 9)).domainCores 0 3, ((domain true true none (some 9)).core c).sync.member = true →
          ((domain true true none (some 9)).core c).sync.arrived.isSome = true) := by decide +kernel
/-- The issuing context holds a capture. -/
abbrev captured1 : State := withCtx fun k => { k with cap := some ⟨[onItsWay 1 0], [], LoopReg.reset, LoopReg.reset⟩ }
/-- Core 0 belongs to node 5 of die 0, whose error bit is set or not, and holds a capture. -/
def captured2 (bad : Bool) : State :=
  (captured1.modCore 0 fun k => { k with ident := { k.ident with placed := true, node := 5 } }).modSched 0 fun k =>
    { k with placed := [(5, ⟨[0], [], 0, false, [], 0, [], 0, bad, some 3, false, [], [], [], 0⟩)] }
/-- Results that have just become visible on core 0. -/
abbrev fresh1 : State := withCtx (fun k => { k with recent := some ⟨[onItsWay 1 0], [(.s 1, 0)], 0, false⟩ }) (inMode 0)
theorem meets_TrapEntry : (State.reset.ctx 0 0).cap = none ∧ (captured1.ctx 0 0).cap.isSome = true ∧ (captured1.core 0).ident.placed = false
    ∧ (captured1.die (dieOf 0)).efq.length < 256 ∧ noneFresh State.reset 0 0 ∧ noneFresh (inMode 2) 0 0
    ∧ ((fresh1.core 0).ident.mode ≠ 2 ∧ (fresh1.ctx 0 0).cap = none ∧ (fresh1.ctx 0 0).recent = some ⟨[onItsWay 1 0], [(.s 1, 0)], 0, false⟩)
    ∧ (∀ b ∈ [false, true], ((captured2 b).ctx 0 0).cap.isSome = true ∧ ((captured2 b).core 0).ident.placed = true
      ∧ ((captured2 b).die ((captured2 b).core 0).ident.home).efq.length < 256
      ∧ ∃ p ∈ [(⟨[0], [], 0, false, [], 0, [], 0, b, some 3, false, [], [], [], 0⟩ : Placed)],
          Tab.find ((captured2 b).die ((captured2 b).core 0).ident.home).sched.placed (((captured2 b).core 0).ident.node % 4096) = some p
          ∧ p.bad = b ∧ 0 ∈ p.cores) := by
  unfold noneFresh; decide +kernel
theorem meets_TrapReturn : (atU.guard0 0 = true ∧ (atU.core 0).ident.pl = false)
    ∧ (State.reset.guard0 0 = true ∧ (State.reset.core 0).ident.pl = true ∧ (State.reset.ctx 0 0).earlier = [])
    ∧ (flying.guard0 0 = true ∧ (flying.core 0).ident.pl = true ∧ (flying.ctx 0 0).earlier ≠ [])
    ∧ (captured1.ctx 0 0).cap = some ⟨[onItsWay 1 0], [], LoopReg.reset, LoopReg.reset⟩
    ∧ ((State.reset.ctx 0 0).cap = none ∧ (State.reset.core 0).ident.mode ≠ 2 ∧ 2 ^ 24 - 1 < 2 ^ 24 ∧ (State.reset.ctx 0 0).recent = none) := by
  decide +kernel
/-- Two results for s1, of which the second may be for another register, arrive at the next boundary. -/
abbrev twoDue (second : RegName) : State := withCtx fun k => { k with inflight := [onItsWay 1 0, { onItsWay 1 0 with reg := second }] }
theorem meets_ResultsBecomeVisible :
    (∃ a b r, ((twoDue (.s 2)).ctx 0 0).inflight = a ++ r :: b ∧ r.rem ≤ 1 ∧ r.reg = .s 1 ∧ 1 ≠ 0 ∧ ∀ q ∈ a ++ b, q.rem ≤ 1 → q.reg ≠ .s 1)
    ∧ (∃ a b d q r, ((twoDue (.s 1)).ctx 0 0).inflight = a ++ q :: b ++ r :: d ∧ q.rem ≤ 1 ∧ r.rem ≤ 1 ∧ q.reg = .s 1 ∧ r.reg = .s 1 ∧ 1 ≠ 0)
    ∧ (∀ r ∈ ((twoDue (.s 2)).ctx 0 0).inflight, r.rem ≤ 1 → r.reg ≠ .s 3)
    ∧ (∀ r ∈ ((twoDue (.s 2)).ctx 0 0).inflight, r.rem ≤ 1 → r.reg ≠ .p 3) ∧ (∀ r ∈ ((twoDue (.s 2)).ctx 0 0).inflight, r.rem ≤ 1 → r.reg ≠ .v 3)
    ∧ (∀ r ∈ ((twoDue (.s 2)).ctx 0 0).inflight, r.rem ≤ 1 → r.reg ≠ .m 3)
    ∧ (∀ g ∈ [RegName.p 31, .v 0, .v 63, .m 7], ((twoDue g).ctx 0 0).inflight = [onItsWay 1 0] ++ { onItsWay 1 0 with reg := g } :: []
      ∧ (onItsWay 1 0).rem ≤ 1 ∧ ∀ q ∈ [onItsWay 1 0] ++ [], q.rem ≤ 1 → q.reg ≠ g)
    ∧ ((withCtx fun k => { k with inflight := [onItsWay 1 0, onItsWay 1 1] }).ctx 0 0).inflight = [onItsWay 1 0] ++ onItsWay 1 1 :: []
    ∧ (∀ q ∈ [onItsWay 1 0] ++ [], q.rem ≤ 1 → q.reg = .s 1 →
        q.order < (onItsWay 1 1).order ∨ (q.order = (onItsWay 1 1).order ∧ q.slot < (onItsWay 1 1).slot))
    ∧ (((twoDue (.s 1)).ctx 0 0).inflight = [] ++ onItsWay 1 0 :: [] ++ onItsWay 1 0 :: [] ∧ writesReg (onItsWay 1 0).reg = true) := by
  refine ⟨⟨[], [{ onItsWay 1 0 with reg := .s 2 }], onItsWay 1 0, rfl, by decide, rfl, by decide, by decide⟩,
    ⟨[], [], [], onItsWay 1 0, onItsWay 1 0, rfl, by decide, by decide, rfl, rfl, by decide⟩, ?_⟩
  decide +kernel
/-- Context 0 of core 0 is at its boundary after the bundle at 64, with this transfer pending and these loops. -/
def boundary (pend : List Pending) (l0 l1 : LoopReg) : State :=
  withArgs [0, 0] ((withCtx fun k => { k with pend := pend, l0 := l0, l1 := l1 }).modIss fun k => { k with open_ := true, addr := 64, next := 68 })
/-- A loop that ends with the bundle at 64. -/
abbrev ending (n : Nat) : LoopReg := ⟨0, 64, n, true⟩
/-- The issuing context has waited longer than a limit of 3. -/
def waited (code : Nat) (l : List Nat) : State :=
  withArgs l (withCtx (fun k => { k with run := { k.run with waits := [⟨0, code, 0, 1, 0, 3⟩], join := some 2 } })
    (withCore fun k => { k with stat := { k.stat with live := 4 } }))
theorem meets_BoundaryPathAndTimeouts :
    (∀ s ∈ [boundary [⟨128, 0, false, 0, []⟩] LoopReg.reset LoopReg.reset, boundary [] LoopReg.reset (ending 2), boundary [] (ending 2) LoopReg.reset,
        boundary [] (ending 1) LoopReg.reset], s.clk.args = [0, 0] ∧ s.atBoundary 0 0 = true ∧ s.iss.ctl = .none)
    ∧ (∃ p, duePending ((boundary [⟨128, 0, false, 0, []⟩] LoopReg.reset LoopReg.reset).ctx 0 0).pend = some p)
    ∧ (duePending ((boundary [] LoopReg.reset (ending 2)).ctx 0 0).pend = none ∧ ((boundary [] LoopReg.reset (ending 2)).ctx 0 0).l1 = ending 2
      ∧ (boundary [] LoopReg.reset (ending 2)).iss.addr = 64)
    ∧ (∀ n ∈ [1, 2], duePending ((boundary [] (ending n) LoopReg.reset).ctx 0 0).pend = none
      ∧ ((boundary [] (ending n) LoopReg.reset).ctx 0 0).l0 = ending n ∧ ((boundary [] (ending n) LoopReg.reset).ctx 0 0).l1.active = false)
    ∧ ((duePending ((boundary [⟨128, 0, false, 0, []⟩] LoopReg.reset LoopReg.reset).ctx 0 0).pend).isSome = true
      ∧ ((boundary [] (ending 1) LoopReg.reset).ctx 0 0).loopEndsAt (boundary [] (ending 1) LoopReg.reset).iss.addr = true)
    ∧ (((waited tagWaitTimeout [0, 0]).ctx 0 0).cap = none ∧ (waited tagWaitTimeout [0, 0]).clk.args = [0, 0]
      ∧ ∃ w, (waited tagWaitTimeout [0, 0]).overdue 0 0 tagWaitTimeout = some w)
    ∧ (((waited waitTimeout [0, 0]).ctx 0 0).cap = none ∧ (waited waitTimeout [0, 0]).overdue 0 0 tagWaitTimeout = none
      ∧ ∃ w, (waited waitTimeout [0, 0]).overdue 0 0 waitTimeout = some w)
    ∧ (((waited joinTimeout [0]).ctx 0 0).cap = none ∧ (waited joinTimeout [0]).clk.args = [0] ∧ ((waited joinTimeout [0]).ctx 0 0).run.join.isSome = true
      ∧ ∃ w, (waited joinTimeout [0]).overdue 0 0 joinTimeout = some w) := by
  refine ⟨by decide +kernel, ⟨⟨128, 0, false, 0, []⟩, by decide +kernel⟩, by decide +kernel, by decide +kernel, by decide +kernel,
    ⟨by decide +kernel, by decide +kernel, ⟨⟨0, tagWaitTimeout, 0, 1, 0, 3⟩, by decide +kernel⟩⟩,
    ⟨by decide +kernel, by decide +kernel, ⟨⟨0, waitTimeout, 0, 1, 0, 3⟩, by decide +kernel⟩⟩,
    ⟨by decide +kernel, by decide +kernel, by decide +kernel, ⟨⟨0, joinTimeout, 0, 1, 0, 3⟩, by decide +kernel⟩⟩⟩
/-- A record of priority p. -/
abbrev rec (p : Nat) : PoolRec := ⟨⟨p, 0, 0, 64, 1, 2, 3, 4, 5, 6, 7⟩, 0, 9, 0, none⟩
/-- Core 0 in STRAND mode with this arrival queue, its die's pool and its overflow. -/
def mayTake (q : List Arrival) (pool : List PoolRec) (late : List (Arrival × Nat)) : State :=
  withArgs [0] ((withCore fun k => { k with ident := { k.ident with mode := 2 }, arrq := q, overflow := late }).modSched 0 fun k => { k with pool := pool })
theorem meets_RecordsTaken :
    (∀ s ∈ [mayTake [⟨64, 8, 1⟩] [] [], mayTake [] [rec 1] [], mayTake [] [rec 0] []], s.clk.args = [0] ∧ (s.core 0).takes = true
      ∧ (s.core 0).dormant 1 = true)
    ∧ (∀ y, 1 ≤ y → y < 1 → (State.reset.core 0).dormant y = false)
    ∧ ((mayTake [⟨64, 8, 1⟩] [] []).core 0).arrq = [⟨64, 8, 1⟩] ∧ ((mayTake [] [rec 1] []).core 0).arrq = []
    ∧ findRecord ((mayTake [] [rec 1] []).die (dieOf 0)).sched.pool 0 1 0 0 = some (rec 1)
    ∧ findRecord ((mayTake [] [rec 0] []).die (dieOf 0)).sched.pool 0 1 0 0 = none
    ∧ findRecord ((mayTake [] [rec 0] []).die (dieOf 0)).sched.pool 0 0 0 0 = some (rec 0)
    ∧ ((mayTake [] [] [(⟨64, 8, 1⟩, 5)]).core 0).overflow = [(⟨64, 8, 1⟩, 5)] ∧ (mayTake [] [] [(⟨64, 8, 1⟩, 5)]).poolSize (dieOf 0) < 65536 := by
  refine ⟨by decide +kernel, fun y a b => absurd a (by omega), ?_⟩
  decide +kernel
/-- The short form of a copy-like instruction in a state where its guard is true. -/
theorem short_form (s : State) (short : FmtEC → Instr) (wide : FmtECW → Instr) (f : FmtEC) (h : s.guard0 f.g = true) :
    copyForm s short wide (short f) (s.ecOp f) (s.handleDst f.dh f.dst) 0 := .inl ⟨f, rfl, h, rfl, rfl, rfl⟩
/-- The wide form of a copy-like instruction in a state where its guard is true. -/
theorem wide_form (s : State) (short : FmtEC → Instr) (wide : FmtECW → Instr) (f : FmtECW) (h : s.guard0 f.g = true) :
    copyForm s short wide (wide f) (s.ecwOp f) (s.handleDst f.dh f.dst) (s.readS f.ts).toNat := .inr ⟨f, rfl, h, rfl, rfl, rfl⟩
/-- Whether an address fails a row of R203 is decided. -/
def failsDec (s : State) (pkg part : Nat) (u : AddrUse) : (row : Nat) → Decidable (addressFails s pkg part u row)
  | 0 => by change Decidable (_ ≤ _); infer_instance
  | 1 => by change Decidable (¬ _ ∈ _); infer_instance
  | 2 => by change Decidable (_ ∧ _); infer_instance
  | 3 => by change Decidable (_ ∨ _); infer_instance
  | 4 => by change Decidable (_ ∧ _); infer_instance
  | 5 => by change Decidable (_ ∧ (_ ∨ _ ∨ _ ∨ _)); infer_instance
  | _ + 6 => decidable_of_iff ((s.targetPkg pkg part u.addr).any (s.peerDead pkg) = true) (by
      simp [addressFails, Option.any_eq_true])
/-- No address of the list fails one of the first n rows, as a computation. -/
def passesB (s : State) (pkg part : Nat) (l : List AddrUse) (n : Nat) : Bool :=
  (List.range n).all fun row => l.all fun u => !(@decide _ (failsDec s pkg part u row))
theorem rows_pass {s : State} {pkg part : Nat} {l : List AddrUse} {n : Nat} (h : passesB s pkg part l n = true) :
    addressesPass s pkg part l n := by
  intro row hr u hu hf
  have := List.all_eq_true.mp (List.all_eq_true.mp h row (List.mem_range.mpr hr)) u hu
  simp [hf] at this
/-- The first address fails a row, where none fails an earlier one. -/
theorem raises_first {s : State} {pkg part : Nat} {u : AddrUse} {l : List AddrUse} (row n : Nat) (hn : row < n)
    (h : passesB s pkg part (u :: l) row = true) (hf : @decide _ (failsDec s pkg part u row) = true) :
    addressRaises s pkg part (u :: l) n (addressFault s pkg part u row) :=
  ⟨row, hn, rows_pass h, [], u, l, rfl, by simp, @of_decide_eq_true _ (failsDec s pkg part u row) hf, rfl⟩
/-- s1 is a destination, s2 a source and s3 a length. -/
abbrev operands (d a n : Nat) : State := reg 1 d (reg 2 a (reg 3 n))
/-- The short operands s1, s2, s3 with barrier 4. -/
abbrev ec : FmtEC := ⟨0, 1, 2, 3, 4, 0, 0⟩
/-- The wide operands s1, s2, s3 with barrier 4. -/
abbrev ecw : FmtECW := ⟨0, 1, 2, 3, 4, 0, 0, 2, 0, 0, 0, 0, 0, 0, 0⟩
/-- Partition 0 is protected in package 0. -/
def protect (s : State) : State := s.modPart 0 0 fun k => { k with ctl := { k.ctl with v := true, prot := true } }
/-- The descriptor of COPY2D at offset 64: 2 rows of 64 bytes, strides 64 and 128. -/
def shape : State := word (spmAddr 0 72) 64 (word (spmAddr 0 80) 128 (word (spmAddr 0 64) (64 * 2 ^ 32 + 2) (operands (2 ^ 60) 0 64)))
/-- The short operands h1, s2, s3 with barrier 4. -/
abbrev ech : FmtEC := ⟨0, 0, 2, 3, 4, 0, 1⟩
/-- Handle h0 of core 0 names 256 bytes from offset 64; s3 holds n. -/
abbrev toBuffer (n : Nat) : State := reg 3 n (handle (64 + 256 * 2 ^ 20))
theorem meets_RowCopiesIssue :
    copyForm (operands 8 64 64) .copy .copyWide (.copy ec) ((operands 8 64 64).ecOp ec) none 0
    ∧ copyForm (operands 8 64 64) .copy .copyWide (.copyWide ecw) ((operands 8 64 64).ecwOp ecw) none 0
    ∧ (operands 8 64 64).copyCheck 0 ((operands 8 64 64).ecOp ec) none = none
    ∧ (∃ e, (operands (2 ^ 20 - 63) 64 64).copyCheck 0 ((operands (2 ^ 20 - 63) 64 64).ecOp ec) none = some e)
    ∧ (operands (2 ^ 20 - 64) 0 64).readS 2 = 0 ∧ 2 ^ 20 - 64 + 64 ≤ 2 ^ 20
    ∧ copyForm shape .copy2d .copy2dWide (.copy2d ec) (shape.ecOp ec) none 0
    ∧ (shape.iss.mem.readN (spmAddr 0 64) 4 = 2 ∧ shape.iss.mem.readN (spmAddr 0 68) 4 = 64 ∧ shape.iss.mem.readN (spmAddr 0 88) 8 = 0
      ∧ shape.protectedPart 0 0 = false ∧ shape.addrChecks 0 0 [⟨2 ^ 60, 0, 128, copySpaces, 0⟩, ⟨0, 0, 192, copySpaces, 0⟩] = none)
    ∧ copyForm (operands 64 0 (4 + 2 ^ 16)) .tmov .tmovWide (.tmov ec) ((operands 64 0 (4 + 2 ^ 16)).ecOp ec) none 0
    ∧ (operands 64 0 (4 + 2 ^ 16)).addrChecks 0 0 [⟨64, 0, 256, [0, 2, 3], 0⟩, ⟨0, 0, 256, [0, 2, 3], 0⟩] = none
    ∧ copyForm (protect (operands (4 * 2 ^ 60) (7 * 2 ^ 60) 64)) .copyUnseal .copyUnsealWide (.copyUnseal ec)
        ((protect (operands (4 * 2 ^ 60) (7 * 2 ^ 60) 64)).ecOp ec) none 0
    ∧ (protect (operands (4 * 2 ^ 60) (7 * 2 ^ 60) 64)).addrChecks 0 0 [plainUse (4 * 2 ^ 60) 64 [2, 3, 4], plainUse (7 * 2 ^ 60) 112 [4, 7]] = none
    ∧ copyForm (toBuffer 64) .copy .copyWide (.copy ech) ((toBuffer 64).ecOp ech) (some (0x7FE * 512 + 0x200, 64 + 256 * 2 ^ 20)) 0
    ∧ copyForm (toBuffer (4 + 2 ^ 16)) .tmov .tmovWide (.tmov ech) ((toBuffer (4 + 2 ^ 16)).ecOp ech) (some (0x7FE * 512 + 0x200, 64 + 256 * 2 ^ 20)) 0
    ∧ ((toBuffer (4 + 2 ^ 16)).addrChecks 0 0 [⟨64, 0, 256, [0, 2, 3], 0⟩, ⟨0, 0, 256, [0, 2, 3], 0⟩] = none
      ∧ hBase (64 + 256 * 2 ^ 20) = 64 ∧ ∀ x, some (0x7FE * 512 + 0x200, 64 + 256 * 2 ^ 20) = some x → (256 : Int) ≤ hLen x.2)
    ∧ (hLen (64 + 248 * 2 ^ 20) : Int) < 256 ∧ 64 + 2 < 64 + 4 ∧ (1 ≠ 0 ∧ 1 < 4)
    ∧ (protect (operands (4 * 2 ^ 60) (7 * 2 ^ 60) 64)).protectedPart 0 0 = true
    ∧ (operands (4 * 2 ^ 60) (7 * 2 ^ 60) 64).protectedPart 0 0 = false := by
  refine ⟨short_form _ _ _ ec (by decide +kernel), wide_form _ _ _ ecw (by decide +kernel), by decide +kernel, ⟨(addressRange, 2 ^ 20 - 63), by decide +kernel⟩, by decide +kernel,
    by decide, short_form _ _ _ ec (by decide +kernel), by decide +kernel, short_form _ _ _ ec (by decide +kernel), by decide +kernel,
    short_form _ _ _ ec (by decide +kernel), by decide +kernel,
    .inl ⟨ech, rfl, by decide +kernel, rfl, by decide +kernel, rfl⟩, .inl ⟨ech, rfl, by decide +kernel, rfl, by decide +kernel, rfl⟩,
    ⟨by decide +kernel, by decide, fun x h => by cases h; decide⟩, by decide +kernel⟩
/-- The spaces of COPY. -/
abbrev both (d a n : Nat) : List AddrUse := [plainUse d n [0, 1, 2, 3, 4, 5, 7], plainUse a n [0, 1, 2, 3, 4, 5, 7]]
/-- R274, R277, R395: a COPY for each of its checks, and a COPY.UNSEAL with CKPT. -/
theorem meets_copy_checks :
    addressRaises (operands (2 ^ 20 - 63) 64 64) 0 0 (both (2 ^ 20 - 63) 64 64) 7 (addressRange, BitVec.ofNat 64 (2 ^ 20 - 63))
    ∧ addressesPass (operands (2 ^ 20 - 64) 64 64) 0 0 (both (2 ^ 20 - 64) 64 64) 7
    ∧ (addressesPass (protect (operands (7 * 2 ^ 60) 0 64)) 0 0 (both (7 * 2 ^ 60) 0 64) 7 ∧ 7 * 2 ^ 60 / 2 ^ 60 % 16 = 7
      ∧ (protect (operands (7 * 2 ^ 60) 0 64)).protectedPart 0 0 = true)
    ∧ (addressesPass (operands (4 * 2 ^ 60) (4 * 2 ^ 60) (2 ^ 32)) 0 0 (both (4 * 2 ^ 60) (4 * 2 ^ 60) (2 ^ 32)) 7
      ∧ (operands (4 * 2 ^ 60) (4 * 2 ^ 60) (2 ^ 32)).protectedPart 0 0 = false)
    ∧ (addressesPass (toBuffer 257) 0 0 (both 64 0 257) 7 ∧ (toBuffer 257).handleDst 1 0 = some (0x7FE * 512 + 0x200, 64 + 256 * 2 ^ 20)
      ∧ hLen (64 + 256 * 2 ^ 20) < 257)
    ∧ (∀ e ∈ [(4, 64), (8, 4)], copyForm (operands e.1 64 e.2) .copy .copyWide (.copyWide { ecw with tag := 1 })
        ((operands e.1 64 e.2).ecwOp { ecw with tag := 1 }) none 0 ∧ addressesPass (operands e.1 64 e.2) 0 0 (both e.1 64 e.2) 7
      ∧ ((operands e.1 64 e.2).ecwOp { ecw with tag := 1 }).tag = true ∧ (operands e.1 64 e.2).protectedPart 0 0 = false)
    ∧ ((operands 8 64 64).ecwOp { ecw with ckpt := 1 }).ckpt = true
    ∧ ((protect (operands (4 * 2 ^ 60) (7 * 2 ^ 60) 64)).ecwOp { ecw with ckpt := 1 }).ckpt = true := by
  refine ⟨raises_first 4 7 (by decide) (by decide +kernel) (by decide +kernel), rows_pass (by decide +kernel),
    ⟨rows_pass (by decide +kernel), by decide, by decide +kernel⟩, ⟨rows_pass (by decide +kernel), by decide +kernel⟩,
    ⟨rows_pass (by decide +kernel), by decide +kernel, by decide⟩, ?_, rfl, rfl⟩
  intro e he
  simp only [List.mem_cons, List.not_mem_nil, or_false] at he
  rcases he with rfl | rfl <;>
    exact ⟨.inr ⟨_, rfl, by decide +kernel, rfl, rfl, by decide +kernel⟩, rows_pass (by decide +kernel), rfl, by decide +kernel⟩
/-- The descriptor of a GATHER at offset 0: table at HBM 0, one row of 64 bytes, indices at 256. -/
def gather (n : Nat) : State :=
  (word (spmAddr 0 0) (4 * 2 ^ 60) (word (spmAddr 0 16) 256 (word (spmAddr 0 24) (64 * 2 ^ 32 + 1)))).modDie 0 fun k =>
    { k with se := List.replicate n ⟨0, ⟨none, 0, 0, 0, 0, 0, [], []⟩, 0, 0, 0, 0, 0, 0, 0, 0, 0, 0, 0, none, 0, [], false, 0, 0, 0⟩ }
/-- The same descriptor with a formats word. -/
abbrev descriptor (w4 : Nat) : State := word (spmAddr 0 32) w4 (gather 0)
/-- The descriptor of a stream of one byte at offset 0. -/
def walkOne : State := word (spmAddr 0 8) (1 + 2 ^ 32) (word (spmAddr 0 16) 1)
/-- Stream 2 of core 0 is bound. -/
abbrev streaming : State := withCore fun k => { k with streams := [(2, { Stream.reset with bound := true })] }
theorem meets_StackAndStreams :
    (∃ f : FmtESE, Instr.seop ⟨0, 0, 0, 7, 0⟩ = .seop f ∧ (gather 0).guard0 f.g = true ∧ 0 = f.d ∧ 0 = f.op ∧ 7 = f.bar ∧ 0 = f.nb
      ∧ 1 = (if f.nb = 0 then 1 else 0) ∧ false = false ∧ false = false)
    ∧ ((gather 0).readS 0 = 0 ∧ (gather 0).iss.mem.readN (spmAddr 0 0 + 24) 8 = 64 * 2 ^ 32 + 1 ∧ (gather 0).iss.mem.readN (spmAddr 0 0 + 32) 8 = 0
      ∧ (gather 0).iss.mem.readN (spmAddr 0 0 + 40) 8 = 0 ∧ (gather 0).iss.mem.readN (spmAddr 0 0 + 48) 8 = 0
      ∧ (gather 0).addrChecks 0 0 [plainUse (4 * 2 ^ 60) 0 [4], plainUse 0 (1 * 64) [0, 1, 2, 3, 4], plainUse 256 (1 * 4) [0, 1, 2, 3, 4]] = none)
    ∧ (∀ e ∈ [(1, 1, 0), (2, 0x10011, 0), (3, 0x10, 0)], let s := descriptor e.2.1
      s.iss.mem.readN (spmAddr 0 0 + 32) 8 = e.2.1 ∧ s.iss.mem.readN (spmAddr 0 0 + 24) 8 = 64 * 2 ^ 32 + 1 ∧ e.1 < 4
      ∧ s.iss.mem.readN (spmAddr 0 0 + 40) 8 = e.2.2 ∧ s.iss.mem.readN (spmAddr 0 0 + 48) 8 = 0
      ∧ s.addrChecks 0 0 [plainUse (4 * 2 ^ 60) (if e.1 = 3 then 4 else 0) [4], plainUse 0 (if e.1 = 3 then 2 else 64) [0, 1, 2, 3, 4],
          plainUse 256 (if e.1 = 3 then 0 else 4) [0, 1, 2, 3, 4]] = none)
    ∧ ((0x10011 / 2 ^ 16 % 2 ^ 16 ≠ 0 ∧ 0x10011 % 2 ^ 4 = 1 ∧ 0x10011 / 2 ^ 4 % 2 ^ 4 = 1) ∧ (0x10 % 2 ^ 4 = 0 ∧ 0x10 / 2 ^ 4 % 2 ^ 4 = 1) ∧ 9 % 2 ^ 4 = 9
      ∧ 64 % (fmtBits 1 / 8) = 0 ∧ 63 % (fmtBits 1 / 8) ≠ 0)
    ∧ ((gather 0).die (dieOf 0)).se.length < 64 ∧ 64 ≤ ((gather 64).die (dieOf 0)).se.length
    ∧ (walkOne.guard0 0 = true ∧ walkOne.iss.mem.readN (spmAddr 0 0 + 16) 8 / 2 ^ 32 = 0 ∧ walkOne.iss.mem.readN (spmAddr 0 0 + 48) 8 / 8 = 0
      ∧ walkOne.addrChecks 0 0 [⟨0, (walkExtent ⟨0, 1, 1, 1, 0, 0, 0, 0, false⟩).1, (walkExtent ⟨0, 1, 1, 1, 0, 0, 0, 0, false⟩).2, [0, 1, 2, 3], 0⟩] = none
      ∧ walkOne.protectedPart 0 0 = false ∧ ((walkOne.core 0).stream 2).bound = false)
    ∧ ((reg 1 (2 ^ 20 - 63)).readS 1).toNat + 64 > 2 ^ 20 ∧ ((reg 1 (2 ^ 20 - 65)).readS 1).toNat + 64 ≤ 2 ^ 20 ∧ (2 ^ 20 - 65) % 8 ≠ 0
    ∧ (streaming.guard0 0 = true ∧ ((streaming.core 0).stream 2).bound = true) ∧ ((State.reset.core 0).stream 2).bound = false
    ∧ hState ((handle (3 * 2 ^ 62)).handleWord (handle (3 * 2 ^ 62)).iss.mem 0 0) = 3
    ∧ hState ((handle (2 * 2 ^ 62)).handleWord (handle (2 * 2 ^ 62)).iss.mem 0 0) ≠ 3 := by
  refine ⟨⟨⟨0, 0, 0, 7, 0⟩, rfl, by decide +kernel, rfl, rfl, rfl, rfl, rfl, rfl, rfl⟩, ?_⟩
  decide +kernel
/-- Partition 0 reaches die 0 as its logical die 0, and its window 0 is 1 MiB of core 0's scratchpad, with all permissions. -/
def window (s : State) : State :=
  s.modApex 0 fun a => { a with dies := [(0, BitVec.ofNat 64 (2 ^ 63))], windows := [(0, BitVec.ofNat 256 (2 ^ 63 + 15 * 2 ^ 59 + 2 ^ 52 + 2 ^ 148))] }
/-- A store of 64 bytes to window 0. -/
abbrev toWindow : State := window (operands (6 * 2 ^ 60) 0 64)
/-- A read of 64 bytes of window 0. -/
abbrev fromWindow : State := window (operands 0 (6 * 2 ^ 60) 64)
/-- Multicast group 0 has one member, window 0. -/
def group (s : State) : State := s.modApex 0 fun a => { a with groups := [(0, BitVec.ofNat 64 (2 ^ 63 + 2 ^ 46))] }
theorem meets_FabricVectors :
    copyForm toWindow .rput .rputWide (.rput ec) (toWindow.ecOp ec) none 0 ∧ toWindow.rputCheck 0 (toWindow.ecOp ec) = none
    ∧ (∃ e, (operands (6 * 2 ^ 60) 0 64).rputCheck 0 ((operands (6 * 2 ^ 60) 0 64).ecOp ec) = some e)
    ∧ copyForm (group toWindow) .rmcast .rmcastWide (.rmcast ec) ((group toWindow).ecOp ec) none 0
    ∧ (group toWindow).rmcastCheck 0 ((group toWindow).ecOp ec) = none ∧ (∃ e, toWindow.rmcastCheck 0 (toWindow.ecOp ec) = some e)
    ∧ copyForm fromWindow .rgetv .rgetvWide (.rgetv ec) (fromWindow.ecOp ec) none 0 ∧ fromWindow.rgetvCheck 0 (fromWindow.ecOp ec) = none
    ∧ (∃ e, (operands 0 (6 * 2 ^ 60) 64).rgetvCheck 0 ((operands 0 (6 * 2 ^ 60) 64).ecOp ec) = some e) := by
  refine ⟨short_form _ _ _ ec (by decide +kernel), by decide +kernel, ⟨(windowFault, 0), by decide +kernel⟩, short_form _ _ _ ec (by decide +kernel),
    by decide +kernel, ⟨(windowFault, 0), by decide +kernel⟩, short_form _ _ _ ec (by decide +kernel), by decide +kernel,
    ⟨(windowFault, 0), by decide +kernel⟩⟩
/-- The addresses of an operation between window 0, with permission p, and the scratchpad. -/
abbrev through (w a n p : Nat) : List AddrUse := [⟨w, 0, n, [6], p⟩, plainUse a n [0]]
/-- R203, R297, R299, R301: a state for each check of RPUT, RMCAST and RGETV. -/
theorem meets_fabric_checks :
    addressRaises (operands (6 * 2 ^ 60) 0 64) 0 0 (through (6 * 2 ^ 60) 0 64 61) 7 (windowFault, 0)
    ∧ addressesPass toWindow 0 0 (through (6 * 2 ^ 60) 0 64 61) 7
    ∧ ((toWindow.ecwOp { ecw with opx := 128 }).opx / 2 ^ 7 % 2 = 1 ∧ bits (toWindow.windowEnt 0 0 0) 199 1 = 0)
    ∧ (toWindow.ecOp ec).opx / 2 ^ 7 % 2 ≠ 1
    ∧ addressRaises (operands 0 0 64) 0 0 (through 0 0 64 61) 5 (addressSpaceFault, 0)
    ∧ (addressesPass (window (operands (6 * 2 ^ 60 + 2 ^ 48) 0 64)) 0 0 (through (6 * 2 ^ 60 + 2 ^ 48) 0 64 61) 5
      ∧ windowOf (6 * 2 ^ 60 + 2 ^ 48) ≠ 0)
    ∧ (addressesPass toWindow 0 0 (through (6 * 2 ^ 60) 0 64 61) 5 ∧ windowOf (6 * 2 ^ 60) = 0
      ∧ (Tab.get 0 (toWindow.pkg 0).apex.groups 0).toNat / 2 ^ 63 % 2 ≠ 1)
    ∧ (addressesPass (group (operands (6 * 2 ^ 60) 0 64)) 0 0 (through (6 * 2 ^ 60) 0 64 61) 5
      ∧ (Tab.get 0 ((group (operands (6 * 2 ^ 60) 0 64)).pkg 0).apex.groups 0).toNat / 2 ^ 63 % 2 = 1
      ∧ (Tab.get 0 ((group (operands (6 * 2 ^ 60) 0 64)).pkg 0).apex.groups 0).toNat / 2 ^ 59 % 2 ^ 4 = 0
      ∧ (group (operands (6 * 2 ^ 60) 0 64)).groupMembers 0 0 = [] ++ (0, false, 0, 0) :: []
      ∧ bits ((group (operands (6 * 2 ^ 60) 0 64)).windowEnt 0 0 0) 63 1 ≠ 1
      ∧ windowFails (group (operands (6 * 2 ^ 60) 0 64)) 0 0 0 61 0 64)
    ∧ (addressesPass (group toWindow) 0 0 (through (6 * 2 ^ 60) 0 64 61) 5 ∧ (group toWindow).groupMembers 0 0 = [(0, false, 0, 0)]
      ∧ ¬ windowFails (group toWindow) 0 0 0 61 0 64)
    ∧ addressRaises (operands (2 ^ 20 - 63) (6 * 2 ^ 60) 64) 0 0 [plainUse (2 ^ 20 - 63) 64 [0], ⟨6 * 2 ^ 60, 0, 64, [6], 62⟩] 7
        (addressRange, BitVec.ofNat 64 (2 ^ 20 - 63))
    ∧ (∀ n ∈ [0, 1, 256, 257], addressesPass (window (operands 0 (6 * 2 ^ 60) n)) 0 0 [plainUse 0 n [0], ⟨6 * 2 ^ 60, 0, n, [6], 62⟩] 7)
    ∧ (addressesPass (window (operands 4 (6 * 2 ^ 60) 64)) 0 0 [plainUse 4 64 [0], ⟨6 * 2 ^ 60, 0, 64, [6], 62⟩] 7
      ∧ ((window (operands 4 (6 * 2 ^ 60) 64)).ecwOp { ecw with tag := 1 }).tag = true) := by
  refine ⟨raises_first 5 7 (by decide) (by decide +kernel) (by decide +kernel), rows_pass (by decide +kernel), ⟨rfl, by decide +kernel⟩,
    by decide, raises_first 1 5 (by decide) (by decide +kernel) (by decide +kernel), ⟨rows_pass (by decide +kernel), by decide⟩,
    ⟨rows_pass (by decide +kernel), by decide, by decide +kernel⟩,
    ⟨rows_pass (by decide +kernel), by decide +kernel, by decide +kernel, by decide +kernel, by decide +kernel, .inl (by decide +kernel)⟩,
    ⟨rows_pass (by decide +kernel), by decide +kernel, ?_⟩, raises_first 4 7 (by decide) (by decide +kernel) (by decide +kernel), ?_,
    ⟨rows_pass (by decide +kernel), rfl⟩⟩
  · rintro (h | h | h | h) <;> revert h <;> decide +kernel
  · intro n hn
    simp only [List.mem_cons, List.not_mem_nil, or_false] at hn
    rcases hn with rfl | rfl | rfl | rfl <;> exact rows_pass (by decide +kernel)
/-- Reduction window 7 of package 0 has two ranks and one element, of partition 0. -/
def redTwo (s : State) : State := s.modApex 0 fun a => { a with redwins := [(7, { RedWin.reset with w0 := BitVec.ofNat 64 (2 ^ 63 + 2 ^ 45), w1 := 1 })] }
theorem meets_FabricWords :
    (∃ f : FmtEG, Instr.rget ⟨0, 1, 2, 0, 0⟩ = .rget f ∧ fromWindow.guard0 f.g = true ∧ 1 = f.dst ∧ 2 = f.adr ∧ 0 = f.hpc ∧ 0 = f.ck ∧ false = false)
    ∧ (fromWindow.readS 0).toNat < 2 ^ 24 ∧ (fromWindow.readS 0).toNat % 2 = 0
    ∧ fromWindow.addrChecks 0 0 [plainUse 0 8 [0], ⟨6 * 2 ^ 60, 0, 8, [6], 62⟩] = none ∧ 6 * 2 ^ 60 % 8 = 0
    ∧ (∃ e, (operands 0 (6 * 2 ^ 60) 64).addrChecks 0 0 [plainUse 0 8 [0], ⟨6 * 2 ^ 60, 0, 8, [6], 62⟩] = some e)
    ∧ (∃ f : FmtEFW, Instr.rfopCas ⟨0, 1, 2, 3, 11, 0, 0, 0, 0, 4⟩ ∈ [Instr.rfopWide f, .rfopIncw f, .rfopBadd f, .rfopCas f]
      ∧ fromWindow.guard0 f.g = true ∧ 1 = f.dst ∧ 2 = f.adr ∧ 3 = f.x ∧ 11 = f.op ∧ 0 = f.w ∧ 4 = f.opx ∧ false = (f.rel != 0) ∧ false = (f.acq != 0))
    ∧ fromWindow.addrChecks 0 0 [plainUse 0 8 [0], ⟨6 * 2 ^ 60, 0, 8, [6], 60⟩] = none
    ∧ (∃ f : FmtEA, Instr.rvatom ⟨0, 1, 2, 0, 4, 0⟩ = .rvatom f ∧ toWindow.guard0 f.g = true ∧ 1 = f.dst ∧ 2 = f.src ∧ 0 = f.t ∧ 4 = f.bar ∧ 0 = f.nb
      ∧ 1 = (if f.nb = 0 then 1 else 0) ∧ false = false)
    ∧ toWindow.addrChecks 0 0 [⟨6 * 2 ^ 60, 0, 128, [6], 59⟩, plainUse 0 128 [0]] = none ∧ 6 * 2 ^ 60 % 128 = 0
    ∧ (∃ f : FmtER, Instr.rred ⟨0, 2, 7, 0⟩ = .rred f ∧ (redTwo toWindow).guard0 f.g = true ∧ 2 = f.src ∧ 7 = f.win ∧ 0 = f.rank ∧ false = false)
    ∧ ((redTwo toWindow).redWin 0 7).valid = true ∧ ((redTwo toWindow).redWin 0 7).part = ((redTwo toWindow).core 0).ident.part
    ∧ 0 < ((redTwo toWindow).redWin 0 7).n ∧ 1 < ((redTwo toWindow).redWin 0 7).n
    ∧ (redTwo toWindow).peerDead 0 ((redTwo toWindow).rootPkg 0 ((redTwo toWindow).redWin 0 7)) = false
    ∧ (toWindow.redWin 0 7).valid = false := by
  refine ⟨⟨_, rfl, by decide +kernel, rfl, rfl, rfl, rfl, rfl⟩, by decide +kernel, by decide +kernel, by decide +kernel, by decide,
    ⟨(windowFault, 0), by decide +kernel⟩, ⟨⟨0, 1, 2, 3, 11, 0, 0, 0, 0, 4⟩, by decide, by decide +kernel, rfl, rfl, rfl, rfl, rfl, rfl, rfl, rfl⟩,
    by decide +kernel, ⟨_, rfl, by decide +kernel, rfl, rfl, rfl, rfl, rfl, rfl, rfl⟩, by decide +kernel, by decide,
    ⟨_, rfl, by decide +kernel, rfl, rfl, rfl, rfl⟩, ?_⟩
  decide +kernel
/-- Barrier 0 of core 0 has word 0 v. -/
abbrev barrier (v : Nat) : State := word (State.reset.barAddr 0 0) v
theorem meets_Barriers : State.reset.guard0 0 = true
    ∧ (∃ f : FmtEBW, Instr.waitb ⟨0, 0, 0⟩ = .waitb f ∧ 0 = f.g ∧ 0 = f.b
      ∧ true = (((barrier 0).iss.mem.readN ((barrier 0).barAddr 0 0) 8 / 2 ^ 24 % 2 == 1) == (f.ph == 1)))
    ∧ (∃ f : FmtEBC, Instr.waitbC ⟨0, 0, 7⟩ = .waitbC f ∧ 0 = f.g ∧ 0 = f.b ∧ false = decide (f.thr ≤ 6))
    ∧ (∃ f : FmtEBCW, Instr.waitbCWide ⟨0, 0, 7⟩ = .waitbCWide f ∧ 0 = f.g ∧ 0 = f.b ∧ true = decide (f.thr ≤ 7))
    ∧ ((barrier (7 * 2 ^ 32)).guard0 0 = true ∧ (barrier (7 * 2 ^ 32)).iss.mem.readN ((barrier 0).barAddr 0 0) 8 / 2 ^ 32 % 2 ^ 32 = 7
      ∧ (barrier (7 * 2 ^ 32)).iss.mem.readN ((barrier 0).barAddr 0 0) 8 / 2 ^ 26 % 2 = 0)
    ∧ (barrier (2 ^ 26)).iss.mem.readN ((barrier 0).barAddr 0 0) 8 / 2 ^ 26 % 2 = 1
    ∧ (∀ st : Nat, st < 4 → hBad ((handle (st * 2 ^ 62)).handleWord (handle (st * 2 ^ 62)).iss.mem 0 0) = false
      ∧ hState ((handle (st * 2 ^ 62)).handleWord (handle (st * 2 ^ 62)).iss.mem 0 0) = st)
    ∧ 2 ^ 27 / 2 ^ 27 % 2 ^ 5 ≠ 0 ∧ ((2 ^ 64 - 2 ^ 32 + 5) / 2 ^ 27 % 2 ^ 5 = 0 ∧ (2 ^ 64 - 2 ^ 32 + 5) / 2 ^ 25 % 2 = 0)
    ∧ ((2 ^ 25 + 15 * 2 ^ 60) / 2 ^ 27 % 2 ^ 5 = 0 ∧ (2 ^ 25 + 15 * 2 ^ 60) / 2 ^ 25 % 2 = 1 ∧ ∃ j < 8, (2 ^ 25 + 15 * 2 ^ 60) / 2 ^ (32 + 4 * j) % 2 ^ 4 ≠ 0) := by
  refine ⟨by decide +kernel, ⟨_, rfl, rfl, rfl, by decide +kernel⟩, ⟨_, rfl, rfl, rfl, by decide⟩, ⟨_, rfl, rfl, rfl, by decide⟩, by decide +kernel,
    by decide +kernel, by decide +kernel, by decide, by decide, ⟨by decide, by decide, ⟨7, by decide, by decide⟩⟩⟩
/-- Core 0 has its first n triggers armed. -/
def armed (n : Nat) : State := withCore fun k => { k with trig := (List.range n).map fun i => (i, ⟨0, 1, false, trigOpAt ⟨[]⟩ 0, 0, [], 9, 0⟩) }
/-- The partition of monitors 0 to 15 of die 0. -/
def monitors (v n : Nat) : State := (reg 1 n).modDie 0 fun k => { k with monown := BitVec.ofNat 64 v }
theorem meets_TriggersAndMonitors : State.reset.guard0 0 = true
    ∧ 2 ^ 32 ≤ ((reg 1 (2 ^ 32)).readS 1).toNat ∧ 2 ^ 20 < ((reg 1 (2 ^ 20 - 31)).readS 1).toNat + 32
    ∧ (((reg 1 (2 ^ 20 - 33)).readS 1).toNat + 32 ≤ 2 ^ 20 ∧ ((reg 1 (2 ^ 20 - 33)).readS 1).toNat % 8 ≠ 0)
    ∧ (∀ n ∈ [0, 63, 64], (armed n).guard0 0 = true ∧ trigOpOk (trigOpAt (armed n).iss.mem (spmAddr 0 0)) ((armed n).iss.mem.readN (spmAddr 0 0) 8 % 2 ^ 27) = true
      ∧ (armed n).trigCheck 0 (trigOpAt (armed n).iss.mem (spmAddr 0 0)) = none ∧ ((armed n).core 0).trig.length = n)
    ∧ 64 ≤ ((reg 1 64).readS 1).toNat ∧ (((reg 1 63).readS 1).toNat < 64 ∧ Tab.find ((reg 1 63).core 0).trig 63 = none)
    ∧ (Tab.find ((armed 1).core 0).trig 0).isSome = true
    ∧ Instr.moncfgStop ⟨0, 15, 1⟩ ∈ [Instr.moncfgConfigure ⟨0, 15, 1⟩, .moncfgSnapshot ⟨0, 15, 1⟩, .moncfgSnapshotClear ⟨0, 15, 1⟩, .moncfgStop ⟨0, 15, 1⟩]
    ∧ ((monitors (2 ^ 60) 0).guard0 0 = true ∧ ((monitors (2 ^ 60) 0).die (dieOf 0)).monown.toNat / 2 ^ (4 * 15) % 2 ^ 4 ≠ ((monitors (2 ^ 60) 0).core 0).ident.part)
    ∧ (∀ o < 4, (monitors 0 (o * 2 ^ 62)).guard0 0 = true ∧ ((monitors 0 (o * 2 ^ 62)).die (dieOf 0)).monown.toNat / 2 ^ (4 * 15) % 2 ^ 4 = 0
      ∧ ((monitors 0 (o * 2 ^ 62)).readS 1).toNat / 2 ^ 62 % 4 = o ∧ monBad ((monitors 0 (o * 2 ^ 62)).readS 1).toNat = false
      ∧ ((monitors 0 (o * 2 ^ 62)).readS 1).toNat % 2 ^ 20 = 0)
    ∧ monBad ((monitors 0 (2 ^ 48)).readS 1).toNat = true
    ∧ (monBad ((monitors 0 (2 ^ 62 + 2 ^ 20 - 1)).readS 1).toNat = false ∧ ((monitors 0 (2 ^ 62 + 2 ^ 20 - 1)).readS 1).toNat % 2 ^ 20 = 2 ^ 20 - 1) := by
  decide +kernel
/-- The word of SLOTLD at offset 0, in an unowned cluster. -/
abbrev slotWord (v : Nat) : State := word (spmAddr 0 0) v
theorem meets_PrivilegedTables :
    (∃ f : FmtEP, Instr.buddyset ⟨0, 1⟩ ∈ [Instr.tlbinv f, .slotld f, .buddyset f] ∧ 0 = f.g)
    ∧ (∃ f : FmtEP0, Instr.tlbinvPkg ⟨0⟩ ∈ [Instr.tlbinvPart f, .tlbinvPkg f] ∧ 0 = f.g)
    ∧ atU.guard0 0 = true ∧ (atU.core 0).ident.pl = false ∧ (reg 1 (2 ^ 48)).guard0 0 = true ∧ ((reg 1 (2 ^ 48)).core 0).ident.pl = true
    ∧ 2 ^ 48 ≤ ((reg 1 (2 ^ 48)).readS 1).toNat ∧ ((reg 1 (2 ^ 48 - 1)).readS 1).toNat < 2 ^ 48
    ∧ 2 ^ 20 < ((reg 1 (2 ^ 20 - 15)).readS 1).toNat + 16 ∧ (((reg 1 1).readS 1).toNat + 16 ≤ 2 ^ 20 ∧ ((reg 1 1).readS 1).toNat % 8 ≠ 0)
    ∧ (slotWord (2 ^ 24)).iss.mem.readN (spmAddr 0 0) 8 / 2 ^ 24 ≠ 0 ∧ (slotWord (2 ^ 24 - 1)).iss.mem.readN (spmAddr 0 0) 8 / 2 ^ 24 = 0
    ∧ 4096 ≤ ((reg 1 4096).readS 1).toNat ∧ ((reg 1 4095).readS 1).toNat < 4096
    ∧ State.reset.logicalDie 0 0 0 = none ∧ (window State.reset).logicalDie 0 0 0 = some (dieOf 0)
    ∧ (halted 1088).dieOn (dieOf 0) = false ∧ ((halted 1088).core 0).ident.pl = true ∧ (halted 1088).guard0 0 = true
    ∧ (State.reset.dieOn (dieOf 0) = true ∧ State.reset.mem.wf = true ∧ (⟨2, 0, 0, 0, []⟩ : SlotRun).left = 2)
    ∧ (∀ d, d / 4 = pkgOf 0 → State.reset.dieOn d = true)
    ∧ ¬ (∀ d, d / 4 = pkgOf 0 → (halted 1088).dieOn d = true) := by
  refine ⟨⟨⟨0, 1⟩, by decide, rfl⟩, ⟨⟨0⟩, by decide, rfl⟩, by decide +kernel, by decide +kernel, by decide +kernel, by decide +kernel,
    by decide +kernel, by decide +kernel, by decide +kernel, by decide +kernel, by decide +kernel, by decide +kernel, by decide +kernel,
    by decide +kernel, by decide +kernel, by decide +kernel, by decide +kernel, by decide +kernel, by decide +kernel,
    ⟨by decide +kernel, rfl, rfl⟩, fun d _ => rfl, fun h => absurd (h 0 rfl) (by decide +kernel)⟩
/-- A call with these words that owns tile 2. -/
abbrev call (seq : Nat) (words : List Word) (loops : List (Nat × Nat)) : Call := ⟨0, seq, [], [2], words, 0, loops, 0, 0, [], 0, []⟩
/-- Core 0 with these calls queued, this in progress, and an active latch or none. -/
def engine (calls : List Call) (uops : List Uop) (valid : Bool) : State :=
  withCore fun k => { k with mx := { k.mx with calls := calls, uops := uops, active := { k.mx.active with valid := valid } } }
/-- A micro-operation of a code in progress on tile 2. -/
abbrev running (kind : Nat) : Uop := ⟨kind, 0, 2, 0, 1, 0, 0, 0, 0, 0, 0, 0, 0, 0, 0, false, false, 0, []⟩
theorem meets_MatrixCallsAndTiles : State.reset.guard0 0 = true ∧ State.reset.guardMask 0 ≠ 0
    ∧ (∃ e, (State.reset.core 0).prog.check 63 0 0 = some e) ∧ (State.reset.core 0).prog.check 0 0 0 = none
    ∧ ((engine (List.replicate 4 (call 0 [] [])) [] false).guard0 0 = true
      ∧ ((engine (List.replicate 4 (call 0 [] [])) [] false).core 0).prog.check 0 0 0 = none
      ∧ 4 ≤ ((engine (List.replicate 4 (call 0 [] [])) [] false).core 0).mx.calls.length)
    ∧ (State.reset.core 0).mx.calls.length < 4
    ∧ (atU.guard0 0 = true ∧ (atU.core 0).ident.pl = false ∧ (127 < 128 ∧ 7 < 8) ∧ (atU.readS 1).toNat % 2 ^ 11 = 0)
    ∧ ((reg 1 1).readS 1).toNat % 2 ^ 11 ≠ 0 ∧ 2 ^ 11 ≤ ((reg 1 (2 ^ 11)).readS 1).toNat
    ∧ (((reg 1 (2 ^ 11 - 1)).readS 1).toNat < 2 ^ 11 ∧ 1024 < 128 + ((reg 1 (2 ^ 11 - 1)).readS 1).toNat)
    ∧ (1023 + 1 ≤ 1024 ∧ 63 + 1 ≤ 64 ∧ (2 ^ 20 - 8) + 8 * 1 ≤ 2 ^ 20 ∧ (2 ^ 20 - 8) % 8 = 0 ∧ 2 ^ 20 < 2 ^ 20 - 7 + 8 * 1)
    ∧ ((engine [call 0 [] []] [] false).core 0).mx.calls ≠ [] ∧ (State.reset.core 0).mx.calls = []
    ∧ ((engine [call 0 [] []] [] false).core 0).mx.owner 2 = some (call 0 [] []) ∧ ((engine [call 0 [] []] [] false).core 0).mx.owner 3 = none
    ∧ ((engine [call 0 [] []] [] false).core 0).mx.calls.head? = some (call 0 [] []) ∧ (State.reset.core 0).mx.calls.head? = none := by
  refine ⟨by decide +kernel, by decide +kernel, ⟨_, rfl⟩, ?_⟩
  decide +kernel
/-- Core 0 runs one call of these words, whose next is the first. -/
theorem runs_call (x : Word) (w : List Word) (l : List (Nat × Nat)) (u : List Uop) (v : Bool) :
    runsCall (engine [call 0 (x :: w) l] u v) 0 (call 0 (x :: w) l) [] := ⟨rfl, rfl, rfl, by simp [Call.ended], by simp, by simp⟩
theorem meets_MicroOperations :
    (runsCall (engine [call 0 [0] []] [] false) 0 (call 0 [0] []) [] ∧ ((engine [call 0 [0] []] [] false).core 0).mx.quiet = true
      ∧ ((engine [call 0 [0] []] [] false).core 0).mx.busy 1 = false ∧ ((engine [call 0 [0] []] [] false).core 0).mx.busy 3 = false
      ∧ ((engine [call 0 [0] []] [] false).core 0).mx.adding 2 = false ∧ ((engine [call 0 [0] []] [] false).core 0).mx.reading 2 = false
      ∧ ((engine [call 0 [0] []] [] false).core 0).mx.busy 6 = false ∧ ((engine [call 0 [0] []] [] false).core 0).mx.waits = [])
    ∧ (runsCall (engine [call 0 [0] []] [running 3] true) 0 (call 0 [0] []) [] ∧ ((engine [call 0 [0] []] [running 3] true).core 0).mx.busy 3 = true)
    ∧ (runsCall (engine [call 0 [0] [(0, 2)]] [] true) 0 (call 0 [0] [(0, 2)]) [] ∧ (call 0 [0] [(0, 2)]).loops = (0, 2) :: [])
    ∧ (runsCall (engine [call 0 [0, 1] []] [] true) 0 (call 0 [0, 1] []) [] ∧ (call 0 [0, 1] []).words.getD ((call 0 [0, 1] []).idx + 1) 1 ≠ 0
      ∧ (⟨1, 0, 5, 1⟩ : FmtUR).w ≠ 0 ∧ ((engine [call 0 [0, 1] []] [] true).core 0).mx.quiet = true)
    ∧ (call 0 [0, 0] []).words.getD ((call 0 [0, 0] []).idx + 1) 1 = 0
    ∧ ((engine [call 0 [0] []] [] true).barWord (engine [call 0 [0] []] [] true).mem 0 (barOf 0 0 5) / 2 ^ 26 % 2 = 0
      ∧ ((engine [call 0 [0] []] [] true).barWord (engine [call 0 [0] []] [] true).mem 0 (barOf 0 0 5) / 2 ^ 24 % 2 = 1 ↔ (⟨0, 5, 0⟩ : FmtUM).ph = 1)
      ∧ ¬ ((engine [call 0 [0] []] [] true).barWord (engine [call 0 [0] []] [] true).mem 0 (barOf 0 0 5) / 2 ^ 24 % 2 = 1 ↔ (⟨0, 5, 1⟩ : FmtUM).ph = 1))
    ∧ ((((0 : Int) + (BitVec.ofNat 20 (2 ^ 19 - 64)).toInt) % 2 ^ 64).toNat + 128 * rowBytes 0 ≤ 2 ^ 20
      ∧ (((0 : Int) + (BitVec.ofNat 20 (2 ^ 19 - 64)).toInt) % 2 ^ 64).toNat % 64 = 0
      ∧ (((0 : Int) + (BitVec.ofNat 20 (2 ^ 19 - 8)).toInt) % 2 ^ 64).toNat + 1024 ≤ 2 ^ 20)
    ∧ ((engine [call 0 [0] []] [] true).core 0).mx.active.valid = true ∧ ((engine [call 0 [0] []] [] false).core 0).mx.active.valid = false := by
  refine ⟨⟨runs_call _ _ _ _ _, by decide +kernel⟩, ⟨runs_call _ _ _ _ _, by decide +kernel⟩, ⟨runs_call _ _ _ _ _, rfl⟩,
    ⟨runs_call _ _ _ _ _, by decide +kernel⟩, ?_⟩
  decide +kernel
/-- The active latch of core 0 holds 128 columns of zeros. -/
def latched : State :=
  withCore fun k => { k with mx := { k.mx with active := ⟨true, 0, List.replicate 128 [], List.replicate 128 []⟩ } }
theorem meets_MatrixCycle : (-(2 ^ 127) : Int) ≤ 2 ^ 127 - 1 ∧ (2 ^ 127 - 1 : Int) < 2 ^ 127
    ∧ ((withArgs [0] (engine [call 0 [0] []] [] true)).clk.args = [0] ∧ ((withArgs [0] (engine [call 0 [0] []] [] true)).core 0).mx.awake = true
      ∧ ((withArgs [0] (engine [call 0 [0] []] [] true)).core 0).stat.stopped = false
      ∧ ((withArgs [0] (engine [call 0 [0] []] [] true)).core 0).stat.dead = false ∧ (withArgs [0] (engine [call 0 [0] []] [] true)).frac (pkgOf 0) 1 = 64)
    ∧ ((withArgs [0]).clk.args = [0] ∧ ((withArgs [0]).core 0).mx.awake = false)
    ∧ (∀ b ∈ [false, true], (([] : List Int), [(1, (0 : Int), b)]).2.getD 0 (0, 0, true) = (1, 0, b)) ∧ 3 < 4
    ∧ ((running 3).mark = false ∧ (running 3).grans = [] ∧ latched.mem.wf = true ∧ (latched.callMem 0 (running 3).seq) = latched.mem ∧ 127 < (latched.core 0).mx.active.cols.length
      ∧ 127 < (latched.core 0).mx.active.scales.length) := by decide +kernel
/-- Cluster 0 with a Chord that is decided on the bundle at 0 of this line, core 0 in a mode with this queue and pc, core 1 waiting or
not at a JOIN, started or not. -/
def chord (on : Bool) (line : BitVec 512) (wait : ChordWait) (mode : Nat) (queue : List QBundle) (pc : Nat) (join : Option Nat) : State :=
  let s := withArgs [0] (State.reset.modCluster 0 fun k => { k with chord := { k.chord with on := on, decided := true, lines := [(0, line)], wait := wait } })
  let s := s.modCore 0 fun k => { k with ident := { k.ident with mode := mode, placed := true }, fetch := { k.fetch with queue := queue },
                                          stat := { k.stat with live := 9 } }
  let s := s.modCtx 0 0 fun k => { k with pc := pc, run := { k.run with active := true } }
  let s := s.modCore 1 fun k => { k with ident := { k.ident with mode := 1, placed := true } }
  s.modCtx 1 0 fun k => { k with run := { k.run with active := true, join := join } }
/-- A line that begins with a bundle of JOIN k, or of JOIN.W k. -/
abbrev joinLine (opcode k : Nat) : BitVec 512 := BitVec.ofNat 512 (1 + (opcode * 2 ^ 26 + k * 2 ^ 18) * 2 ^ 16)
/-- Core 0 leads the Chord and its own next bundle is another. -/
abbrev leading : State :=
  (chord true 0 .none 0 [] 64 none).modCluster 0 fun k => { k with chord := { k.chord with lead := some 0 } }
/-- An attached core has 16 bundles queued. -/
abbrev full16 : State := chord true 0 .none 0 (List.replicate 16 ⟨0, 0, 0, 1, none⟩) 0 none
/-- The Chord's line is still to come, and its cluster's memory is halted. -/
abbrev noLine : State :=
  halted 1024 ((chord true 0 .none 0 [] 0 none).modCluster 0 fun k => { k with chord := { k.chord with lines := [] } })
theorem meets_ChordEvents :
    ((chord true (joinLine 8 4) .none 0 [] 0 (some 4)).chordReady 0 = true
      ∧ ((chord true (joinLine 8 4) .none 0 [] 0 (some 4)).cluster 0).chord.restarted = false
      ∧ ((chord true (joinLine 8 4) .none 0 [] 0 (some 4)).cluster 0).chord.decided = true
      ∧ joinOf (controlSlot ((chord true (joinLine 8 4) .none 0 [] 0 (some 4)).lineOf [(0, joinLine 8 4)] 0 0 0) 0) = some (4, false)
      ∧ (chord true (joinLine 8 4) .none 0 [] 0 (some 4)).attachedCores 0 = [0] ∧ (chord true (joinLine 8 4) .none 0 [] 0 (some 4)).waitingCores 0 = [1]
      ∧ ((chord true (joinLine 8 4) .none 0 [] 0 (some 4)).core 0).fetch.queue = [] ∧ ((chord true (joinLine 8 4) .none 0 [] 0 (some 4)).core 0).inStream = true
      ∧ (chord true (joinLine 8 4) .none 0 [] 0 (some 4)).resolve 0 0 = 0 ∧ ((chord true (joinLine 8 4) .none 0 [] 0 (some 4)).ctx 1 0).run.join = some 4)
    ∧ (((chord true (joinLine 8 4) .none 0 [] 0 (some 4)).meetAll 0).cluster 0).chord.on = true
    ∧ ((((chord true 0 .none 0 [] 64 none).meetAll 0).cluster 0).chord.on = false ∧ (chord true 0 .none 0 [] 64 none).chordReady 0 = true)
    ∧ (leading.attachedCores 0 = [0] ∧ (leading.cluster 0).chord.lead = some 0 ∧ ((leading.core 0).fetch.queue = [] ∧ (leading.core 0).fetch.fresh = false)
      ∧ (leading.core 0).inStream = true ∧ leading.resolve 0 (leading.ctx 0 0).pc ≠ (leading.cluster 0).chord.pc)
    ∧ ((leading.modCore 0 fun k => { k with fetch := { k.fetch with fresh := true } }).core 0).fetch.fresh = true
    ∧ ((chord true 0 .none 0 [] 64 none).attachedCores 0 = [0] ∧ (chord true 0 .none 0 [] 64 none).resolve 0 64 ≠ 0
      ∧ ((chord true 0 .none 0 [] 64 none).ctx 0 0).run.join = none ∧ joinOf (controlSlot ((chord true 0 .none 0 [] 64 none).lineOf [(0, 0)] 0 0 0) 0) = none)
    ∧ ((chord true 0 .none 0 [⟨0, 0, 0, 1, none⟩] 0 none).chordReady 0 = true ∧ ((chord true 0 .none 0 [⟨0, 0, 0, 1, none⟩] 0 none).core 0).fetch.queue ≠ [])
    ∧ (joinOf (controlSlot ((chord true (joinLine 9 4) .none 0 [] 0 (some 5)).lineOf [(0, joinLine 9 4)] 0 0 0) 0) = some (4, true)
      ∧ ((chord true (joinLine 9 4) .none 0 [] 0 (some 5)).meetAll 0).joinHeld 0 4 = true ∧ (chord true (joinLine 9 4) .none 0 [] 0 (some 5)).chordReady 0 = true
      ∧ ((chord true (joinLine 9 4) .none 0 [] 0 (some 4)).meetAll 0).joinHeld 0 4 = false)
    ∧ ((chord false 0 .none 1 [] 0 (some 4)).waitingCores 0 = [1] ∧ (chord false 0 .none 1 [] 0 (some 4)).attachedCores 0 = []
      ∧ ((chord false 0 .none 1 [] 0 (some 4)).cluster 0).chord.on = false ∧ ((chord false 0 .none 1 [] 0 (some 4)).cluster 0).chord.frozen = false
      ∧ ((chord false 0 .none 1 [] 0 (some 4)).cluster 0).chord.stopped = false)
    ∧ (((chord true 0 (.joinW 4 0 0 8) 0 [] 0 none).cluster 0).chord.wait = .joinW 4 0 0 8 ∧ (chord true 0 (.joinW 4 0 0 8) 0 [] 0 none).leader 0 = some 0
      ∧ 8 < ((chord true 0 (.joinW 4 0 0 8) 0 [] 0 none).core 0).stat.live - 0 ∧ ((chord true 0 (.joinW 4 0 0 8) 0 [] 0 none).ctx 0 0).cap = none
      ∧ ((chord true 0 (.joinW 4 0 0 8) 0 [] 0 none).core 0).fetch.queue = []) := by
  decide +kernel
/-- R35, R38, R392: a Chord that starts again, one with a full queue and one whose line is held. -/
theorem meets_chord_holds :
    (chord false 0 .none 1 [] 0 (some 4)).restartCores 0 = [1]
    ∧ ((full16.chordReady 0 = true ∧ (full16.cluster 0).chord.restarted = false ∧ (full16.cluster 0).chord.decided = true)
      ∧ ((full16.meetAll 0).cluster 0).chord.on = true ∧ (full16.meetAll 0).attachedCores 0 = [0]
      ∧ ((full16.meetAll 0).core 0).fetch.queue.length = 16
      ∧ joinOf (controlSlot ((full16.meetAll 0).lineOf [(0, 0)] 0 0 0) 0) = none)
    ∧ (noLine.chordReady 0 = true ∧ ((noLine.meetAll 0).cluster 0).chord.on = true
      ∧ ((noLine.cluster 0).chord.lines.any fun e => e.1 == 0) = false ∧ (noLine.meetAll 0).lineWaits 0 0 0 = true
      ∧ (noLine.cluster 0).chord.restarted = false ∧ (noLine.cluster 0).chord.decided = true) := by
  decide +kernel
/-- A COPY of 64 bytes from 0 to 128 by core 0. -/
def copyCmd (phase row : Nat) (handle : Option Nat) : Cmd :=
  ⟨7, ⟨some 0, 0, 0, 0, 0, 0, [], []⟩, 0, 128, 0, ⟨1, 64, 0, 0⟩, 0, none, 0, true, false, handle, [], 0, phase, row, 0, 0, 3, none, 0, 0⟩
/-- The BTE of cluster 0 with this buffer and these slots, and a handle word of core 0 at offset 512. -/
def bte (buffer : List Cmd) (slots : Tab Cmd) (cycle h : Nat) : State :=
  let s := (word (spmAddr 0 512) h).modCluster 0 fun k => { k with bte := ⟨[], buffer, slots⟩ }
  { s with clk := { s.clk with args := [0, 0], cycle := cycle }, net := ⟨8, [7], []⟩ }
theorem meets_BteEvents :
    ((withArgs [0] (bte [copyCmd 0 0 none] [] 0 0)).clk.args = [0] ∧ [copyCmd 0 0 none].filter ((withArgs [0] (bte [copyCmd 0 0 none] [] 0 0)).eligible 0) ≠ []
      ∧ Tab.find ((withArgs [0] (bte [copyCmd 0 0 none] [] 0 0)).cluster 0).bte.slots 0 = none)
    ∧ (∀ i, i < 8 → (Tab.find ((bte [] ((List.range 8).map fun i => (i, copyCmd 2 0 none)) 0 0).cluster 0).bte.slots i).isSome = true)
    ∧ ((bte [] [(0, copyCmd 1 0 (some 512))] 0 0).mem.wf = true ∧ (bte [] [(0, copyCmd 1 0 (some 512))] 0 0).clk.args = [0, 0]
      ∧ (bte [] [(0, copyCmd 1 0 (some 512))] 0 0).bteSlot 0 0 = some (copyCmd 1 0 (some 512)) ∧ (copyCmd 1 0 (some 512)).handleAt = some (spmAddr 0 512)
      ∧ hBad ((bte [] [(0, copyCmd 1 0 (some 512))] 0 0).mem.readN (spmAddr 0 512) 8) = false
      ∧ hState ((bte [] [(0, copyCmd 1 0 (some 512))] 0 0).mem.readN (spmAddr 0 512) 8) = 0
      ∧ hState ((bte [] [(0, copyCmd 1 0 (some 512))] 0 (2 ^ 63)).mem.readN (spmAddr 0 512) 8) ≠ 0
      ∧ hBad ((bte [] [(0, copyCmd 1 0 (some 512))] 0 (2 ^ 55)).mem.readN (spmAddr 0 512) 8) = true)
    ∧ ((copyCmd 1 0 (some 512)).by_.core = some 0 ∧ (copyCmd 1 0 (some 512)).ckpt = false ∧ (copyCmd 1 0 (some 512)).kind ≠ 3
      ∧ (copyCmd 1 0 (some 512)).waited + 1 ≤ (copyCmd 1 0 (some 512)).limit
      ∧ { copyCmd 1 0 (some 512) with waited := 3 }.limit < { copyCmd 1 0 (some 512) with waited := 3 }.waited + 1
      ∧ ((bte [] [(0, copyCmd 1 0 (some 512))] 4 0).die 0).efq.length < 256 ∧ (copyCmd 1 0 (some 512)).bar = none)
    ∧ ((bte [] [(0, copyCmd 2 0 none)] 0 0).bteSlot 0 0 = some (copyCmd 2 0 none) ∧ (copyCmd 2 0 none).row < (copyCmd 2 0 none).shape.rows
      ∧ (bte [] [(0, copyCmd 2 0 none)] 0 0).clusterOn 0 = true ∧ (copyCmd 2 0 none).shape.rowb ≠ 0 ∧ (copyCmd 2 0 none).by_.die / 4 < packages ∧ ((bte [] [(0, copyCmd 2 0 none)] 0 0).core 0).stat.stopped = false
      ∧ (copyCmd 2 0 none).by_.hide = [] ∧ (copyCmd 2 0 none).chunk = none ∧ ((bte [] [(0, copyCmd 2 0 none)] 0 0).part 0 0).ctl.state ≠ 3
      ∧ (copyCmd 2 0 none).off < (copyCmd 2 0 none).shape.rowb ∧ (copyCmd 2 0 none).srcAt + 64 ≤ 2 ^ 20 ∧ (copyCmd 2 0 none).dstAt + 64 ≤ 2 ^ 20)
    ∧ ((bte [] [(0, copyCmd 2 1 none)] 0 0).bteSlot 0 0 = some (copyCmd 2 1 none) ∧ (copyCmd 2 1 none).shape.rows ≤ (copyCmd 2 1 none).row)
    ∧ 128 ≤ ((bte (List.replicate 128 (copyCmd 0 0 none)) [] 0 0).cluster 0).bte.coming.length
      + ((bte (List.replicate 128 (copyCmd 0 0 none)) [] 0 0).cluster 0).bte.buffer.length := by
  decide +kernel
/-- Die 0 with this stack-engine command of core 0: a GATHER of one row of 4 bytes from HBM address 0 to offset 64. -/
def se (running : Bool) (done : Nat) (after : List Nat) : State :=
  (withArgs [0]).modDie 0 fun k => { k with se := [⟨7, ⟨some 0, 0, 0, 0, 0, 0, [], []⟩, 0, 0, 64, 0, 4, 1, 0, 0, 0, 0, 128, none, 0, after, running, done, done, 0⟩] }
/-- Stream 2 of core 0 walks one byte at offset 0, reading or writing, with these entries to write. -/
def stream (write : Bool) (l : List StreamEntry) : State :=
  withArgs [0, 2] (withCore fun k => { k with streams := [(2, { Stream.reset with bound := true, walk := some ⟨0, 1, 1, 1, 0, 0, 0, 0, write⟩, unwritten := l })] })
/-- Partition 3's page table on die 0 has its root at physical address 0, whose entry 0 is this word. -/
def pages (e : Nat) : State :=
  let s := (withArgs [0, 3, 0]).modDie 0 fun k => { k with ptroot := [(3, BitVec.ofNat 64 (2 ^ 63))] }
  word (unitAddr 4 0 0) e (s.modPkg 0 fun k => { k with own := { k.own with channels := [(0, 0x83)] } })
/-- Core 0 has these arrivals and BARINITs. -/
def arriving (l : List PendArrive) (i : List BarInit) : State := withArgs [0] (withCore fun k => { k with arrives := l, inits := i })
theorem meets_ArrivalsStacksStreamsWalks :
    (∀ l ∈ [[⟨0, 4, 1, [], 0, 8, none⟩], [⟨0, 4, 1, [], 5, 1, none⟩], [⟨1, 4, 1, [], 6, 8, none⟩],
      [⟨0, 4, 1, [], 0, 8, none⟩, ⟨0, 5, 1, [], 0, 7, none⟩], []],
      (arriving l []).mem.wf = true ∧ (arriving l []).clk.args = [0] ∧ ((arriving l []).core 0).trig = [] ∧ ((arriving l []).core 0).arrives = l
      ∧ ∀ a ∈ l, a.after = [])
    ∧ ((arriving [] [⟨0, 0, 4, 64, 5, none⟩]).mem.wf = true ∧ ((arriving [] [⟨0, 0, 4, 64, 5, none⟩]).core 0).inits = [⟨0, 0, 4, 64, 5, none⟩]
      ∧ (∀ e ∈ (arriving [] [⟨0, 0, 4, 64, 5, none⟩]).cores, e.2.snap = none ∧ (e.1 ≠ 0 → e.2.inits = []))
      ∧ (arriving [] [⟨0, 0, 4, 64, 5, none⟩]).net.fops = [] ∧ ((armed 2).core 0).trig ≠ [])
    ∧ ((se false 0 []).clk.args = [0] ∧ ((se false 0 []).die 0).se.map (fun m => (m.running, m.after)) = [(false, [])])
    ∧ (∃ i ∈ [3], i ∈ ({ se false 0 [3] with net := ⟨8, [3], []⟩ } : State).net.live)
    ∧ (((se true 1 []).die 0).se.map (fun m => (m.by_.core, m.bar, m.running, decide (m.count ≤ m.done))) = [(some 0, none, true, true)])
    ∧ ((stream false []).clk.args = [0, 2] ∧ (stream false []).mayFetch (((stream false []).core 0).stream 2) = true
      ∧ ((stream false []).core 0).stat.stopped = false
      ∧ ((stream false []).walkRead { (stream false []).issuerOf 0 0 with hide := [] } ⟨0, 1, 1, 1, 0, 0, 0, 0, false⟩ 0 1).2.toOption = some [0])
    ∧ ((stream true [⟨0, 0, 5, []⟩]).mem.wf = true
      ∧ (((stream true [⟨0, 0, 5, []⟩]).core 0).stream 2).unwritten.filter (fun e => e.after.all fun i => !(stream true [⟨0, 0, 5, []⟩]).net.live.contains i) ≠ []
      ∧ ((stream true [⟨0, 0, 5, []⟩]).core 0).stat.stopped = false
      ∧ ∀ j, j < 1 → 0 ≤ (⟨0, 1, 1, 1, 0, 0, 0, 0, true⟩ : Walk).addr j ∧ (⟨0, 1, 1, 1, 0, 0, 0, 0, true⟩ : Walk).addr j + 1 ≤ 2 ^ 20)
    ∧ ((pages 0).clk.args = [0, 3, 0] ∧ (pages 0).walkLeaf 0 3 0 = none) := by
  decide +kernel
/-- A command of an operation in progress on die 0, whose table is at HBM address 0 with rows of 4 bytes. -/
abbrev tableCmd (op group fm2 : Nat) : SeCmd := ⟨7, ⟨some 0, 0, 0, 0, 0, 0, [], []⟩, op, 4 * 2 ^ 60, 64, 0, 4, 1, group, 0, 0, fm2, 128, none, 0, [], true, 0, 0, 0⟩
/-- Stack engine 0 of die 0 serves it; the TLB holds the table's page, and channel 0 belongs to partition 0. -/
def tabled (m : SeCmd) : State :=
  ((withArgs [0, 0]).modDie 0 fun k => { k with se := [m], tlb := [⟨0, 0, 21, 0, true, true⟩] }).modPkg 0 fun k =>
    { k with own := { k.own with channels := [(0, 0x80)] } }
theorem meets_stack_rows : (∀ e ∈ [(0, 0, 0), (1, 0, 0), (2, 1, 0), (3, 0, 1)],
      (tabled (tableCmd e.1 e.2.1 e.2.2)).mem.wf = true ∧ ((tabled (tableCmd e.1 e.2.1 e.2.2)).die 0).seOpen 0 = [tableCmd e.1 e.2.1 e.2.2]
      ∧ ((tabled (tableCmd e.1 e.2.1 e.2.2)).core 0).stat.stopped = false
      ∧ (tabled (tableCmd e.1 e.2.1 e.2.2)).mem.readN (spmAddr 0 (0 + 4 * 0)) 4 = 0)
    ∧ (0 + 4 * (0 + 1) ≤ 2 ^ 20 ∧ 64 + (0 + 1) * 4 ≤ 2 ^ 20 ∧ off48 (4 * 2 ^ 60) + 0 * 4 + 4 ≤ 2 ^ 48 ∧ (4 * 2 ^ 60 + 0 * 4) % fmtBytes 0 = 0
      ∧ 4 % fmtBytes 0 = 0 ∧ (0 + 4 * ((0 + 1) * 1) ≤ 2 ^ 20) ∧ 64 + (0 + 1) * (4 * fmtBytes 0 / fmtBytes 0) ≤ 2 ^ 20) := by decide +kernel
theorem meets_stack_table : ∀ e ∈ [(0, 0, 0), (1, 0, 0), (2, 1, 0), (3, 0, 1)],
    tableAt (tabled (tableCmd e.1 e.2.1 e.2.2)) ⟨some 0, 0, 0, 0, 0, 0, [], []⟩ (4 * 2 ^ 60) 4 (fun x => unitAddr 4 0 x) := by
  have h : ∀ e ∈ [(0, 0, 0), (1, 0, 0), (2, 1, 0), (3, 0, 1)], ∀ x, x < 4 →
      ((tabled (tableCmd e.1 e.2.1 e.2.2)).die 0).tlb.find? (fun t => t.part == 0 && (off48 (4 * 2 ^ 60) + x) / 2 ^ t.size * 2 ^ t.size == t.va)
        = some ⟨0, 0, 21, 0, true, true⟩
      ∧ placePa ((tabled (tableCmd e.1 e.2.1 e.2.2)).channels 0 0) (0 / 4) (0 + (off48 (4 * 2 ^ 60) + x) % 2 ^ 21) = some (unitAddr 4 0 x)
      ∧ (tabled (tableCmd e.1 e.2.1 e.2.2)).crypts 0 (unitAddr 4 0 x) = false
      ∧ (tabled (tableCmd e.1 e.2.1 e.2.2)).placeOn (unitAddr 4 0 x) = true := by decide +kernel
  exact fun e he => ⟨by decide, by decide, fun x hx => ⟨_, (h e he x hx).1, rfl, rfl, (h e he x hx).2.1⟩, fun x hx => (h e he x hx).2.2,
    fun p _ j _ => (Nat.add_assoc _ _ _).symm, fun x y _ _ e => Nat.add_left_cancel e⟩
/-- A page of 1 GiB at physical address 0 is found as a leaf. -/
theorem meets_page_walk : ∃ a e n, (pages (2 ^ 63 + 2 ^ 62 + 2 ^ 61 + 3 * 2 ^ 55)).walkLeaf 0 3 0 = some (a, e, n) ∧ e / 2 ^ 59 % 2 = 0 :=
  ⟨unitAddr 4 0 0, 2 ^ 63 + 2 ^ 62 + 2 ^ 61 + 3 * 2 ^ 55, 30, by decide +kernel, by decide⟩
/-- A row of the GATHER moves without an error. -/
theorem meets_stack_row : ∃ f, ((se true 0 []).seOne ⟨7, ⟨some 0, 0, 0, 0, 0, 0, [], []⟩, 0, 0, 64, 0, 4, 1, 0, 0, 0, 0, 128, none, 0, [], true, 0, 0, 0⟩ 0).2 = .ok f :=
  ⟨0, by rfl⟩
/-- A fabric operation of core 0 with nothing to do, for a home in core 1's scratchpad. -/
def fop0 : Fop :=
  { kind := 0, by_ := ⟨some 0, 0, 0, 0, 0, 0, [], []⟩, src := 0, dst := 0, len := 64, bar := none, inc := 1, tag := false, rel := false, acq := false, scope := 0,
    fop := 0, wide := true, x := 1, b := 0, hpc := none, cookie := 0, after := [], stage := 1, mem := 9, off := 0, pkg := 0, dlv := [], left := [],
    data := List.replicate 64 1, val := 0, win := 7, rank := 0, round := 0, at_ := 1, born := 0, hop := 0, inBuf := 0, entered := 0, port := 0 }
/-- Its delivery, with these pieces left, the increment made or not and the barrier of core 1 or none. -/
abbrev dlv0 (left : List (Nat × Nat)) (counted : Bool) (bar : Option (Nat × Nat)) : Deliver := ⟨9, 0, 0, bar, left, counted, false⟩
/-- These operations are under way, and the event is about operation 5. -/
def onFabric (l : Tab Fop) : State := { withArgs [5] with net := ⟨8, l.map (·.1), l⟩ }
theorem under_way (f : Fop) (l : Tab Fop) (h : f.stage ≠ 0 ∧ f.stage ≠ 3 ∧ f.stage ≠ 4 ∧ f.stage ≠ 7) : underway (onFabric ((5, f) :: l)) 5 f :=
  ⟨rfl, rfl, h.1, h.2.1, h.2.2⟩
/-- The operations of the tests reach a home in the scratchpad of core 1. -/
theorem at_home (l : Tab Fop) (f : Fop) (off n : Nat) (h : off + n ≤ 2 ^ 20) : padHome (onFabric l) f 9 off n 0 1 :=
  ⟨rfl, rfl, h, ⟨rfl, .inl ⟨rfl, rfl⟩⟩, rfl, rfl, rfl⟩
theorem meets_FabricDeliveries :
    (∀ left ∈ [[(0, 64)], []], ∀ counted ∈ [false, true], underway (onFabric [(5, { fop0 with dlv := [dlv0 left counted (some (1, 31))] })]) 5
      { fop0 with dlv := [dlv0 left counted (some (1, 31))] })
    ∧ (padHome (onFabric [(5, { fop0 with dlv := [dlv0 [(0, 64)] false none] })]) { fop0 with dlv := [dlv0 [(0, 64)] false none] } 9 0 64 0 1
      ∧ (onFabric []).mem.wf = true ∧ (∀ p ∈ [(0, 64)], p.1 + p.2 ≤ fop0.len) ∧ fop0.data.length = fop0.len ∧ answers 0 = true)
    ∧ ((onFabric []).core 1).stat.stopped = false ∧ ((onFabric []).core 1).trig = [] ∧ fop0.by_.core = some 0
    ∧ underway (onFabric [(5, { fop0 with kind := 1, len := 8 })]) 5 { fop0 with kind := 1, len := 8 }
    ∧ padHome (onFabric [(5, { fop0 with kind := 1, len := 8 })]) { fop0 with kind := 1, len := 8 } 9 0 8 0 1
    ∧ underway (onFabric [(5, { fop0 with kind := 1, stage := 2, hpc := some 64 })]) 5 { fop0 with kind := 1, stage := 2, hpc := some 64 }
    ∧ (((onFabric []).core 0).takes = false ∧ ((onFabric []).core 0).arrq.length < 64
      ∧ 64 ≤ ((withCore fun k => { k with arrq := List.replicate 64 ⟨64, 8, 1⟩ }).core 0).arrq.length
      ∧ ((mayTake [] [] []).core 0).takes = true ∧ ((List.range 15).map (· + 1)).find? ((mayTake [] [] []).core 0).dormant = some 1)
    ∧ (fop0.val < 2 ^ 64 ∧ fop0.dst < 2 ^ 20 ∧ fop0.dst + fop0.len ≤ 2 ^ 20)
    ∧ (∀ left ∈ [[(0, 64)], []], underway (onFabric [(5, { fop0 with kind := 2, left := left })]) 5 { fop0 with kind := 2, left := left }) := by
  refine ⟨fun l _ c _ => under_way _ _ (by simp [fop0]), ⟨at_home _ _ _ _ (by decide), by decide +kernel⟩, by decide +kernel,
    by decide +kernel, rfl, under_way _ _ (by decide), at_home _ _ _ _ (by decide), under_way _ _ (by decide), by decide +kernel, by decide,
    fun l _ => under_way _ _ (by simp [fop0])⟩
theorem meets_FetchAndCombine : 0 < 64 ∧ 2 ^ 64 - 1 < 2 ^ 64 ∧ 2 ^ 32 - 1 < 2 ^ 32 ∧ 8 ≤ 8 ∧ 11 ≤ 11 := by decide
/-- A fetch-and-add of core 0 on the word at offset 0 of core 1's scratchpad, at a stage. -/
abbrev add0 (kind stage : Nat) : Fop := { fop0 with kind := kind, stage := stage }
/-- A request in the combining buffer of cluster 0, where it entered in a cycle at a port, or waits. -/
abbrev buffered (inBuf entered port : Nat) : Fop := { add0 3 1 with inBuf := inBuf, entered := entered, port := port }
/-- These operations are under way, in cycle 9. -/
def inCycle9 (op : Nat) (l : Tab Fop) : State :=
  { State.reset with clk := { State.reset.clk with args := [op], cycle := 9 }, net := ⟨8, l.map (·.1), l⟩ }
/-- A combined request of the buffer of cluster 0 that carries operations 3 and 4. -/
abbrev carried : Fop := { fop0 with kind := 7, stage := 2, by_ := ⟨none, 0, 0, 0, 0, 0, [], []⟩ }
/-- The combining buffer of cluster 0 holds the entry of operations 3 and 4. -/
def combined : State := (onFabric [(5, carried), (3, add0 3 3), (4, add0 3 3)]).modCluster 0 fun k => { k with comb := [⟨3, 4, 1, 5, 0⟩] }
/-- Operation 5 left for package 1 in cycle 1, and the limit has passed. -/
def late (f : Fop) : State :=
  { onFabric [(5, f)] with clk := { State.reset.clk with args := [0, 5], cycle := 2 ^ 22 + 2 } }
theorem meets_FabricAtomics :
    (∀ b ∈ [0, 1, 2], underway (inCycle9 5 [(5, buffered b 3 4)]) 5 (buffered b 3 4) ∧ (buffered b 3 4).combines = true
      ∧ (buffered b 3 4).path[(buffered b 3 4).hop]? = some 0)
    ∧ ((inCycle9 5 [(2, buffered 2 3 4), (5, buffered 1 3 4)]).net.fops.map (·.1) = [2, 5]
      ∧ (inCycle9 5 [(2, buffered 2 3 4), (5, buffered 1 3 4)]).net.fops.filter (fun e => e.2.stage == 1 && e.2.inBuf == 1 && e.2.combines
          && e.2.path[e.2.hop]? == some 0 && decide (e.2.entered < 9)) = [(5, buffered 1 3 4)]
      ∧ (inCycle9 5 [(2, buffered 2 3 4), (5, buffered 1 3 4)]).net.fops.filter (fun e => e.2.stage == 1 && e.2.inBuf == 2 && meets (buffered 1 3 4) e.2)
          = [(2, buffered 2 3 4)]
      ∧ ((inCycle9 5 []).combAt 0).length < 64 ∧ 5 < (inCycle9 5 []).net.nextOp)
    ∧ ((inCycle9 5 [(2, buffered 1 3 0), (5, buffered 1 3 4)]).net.fops.filter (fun e => e.2.stage == 1 && e.2.inBuf == 1 && e.2.combines
          && e.2.path[e.2.hop]? == some 0 && decide (e.2.entered < 9)) = [(2, buffered 1 3 0), (5, buffered 1 3 4)]
      ∧ meets (buffered 1 3 4) (buffered 1 3 0) = true ∧ (buffered 1 3 0).port < (buffered 1 3 4).port)
    ∧ (underway (onFabric [(5, { add0 3 1 with hop := 9 })]) 5 { add0 3 1 with hop := 9 } ∧ { add0 3 1 with hop := 9 }.atHome = true
      ∧ padHome (onFabric [(5, { add0 3 1 with hop := 9 })]) { add0 3 1 with hop := 9 } 9 0 8 0 1)
    ∧ (underway combined 5 carried ∧ (carried.path.flatMap combined.combAt).find? (fun e => e.carrier == 5) = some ⟨3, 4, 1, 5, 0⟩
      ∧ carried.by_.core = none ∧ combined.fop 3 = some (add0 3 3) ∧ combined.fop 4 = some (add0 3 3))
    ∧ (underway (onFabric [(5, { add0 3 2 with fop := 10 })]) 5 { add0 3 2 with fop := 10 } ∧ (add0 3 2).val < 2 ^ 64 ∧ (add0 3 2).dst + 16 ≤ 2 ^ 20)
    ∧ (underway (onFabric [(5, { add0 4 1 with left := [(124, 4)] })]) 5 { add0 4 1 with left := [(124, 4)] }
      ∧ padHome (onFabric [(5, { add0 4 1 with left := [(124, 4)] })]) { add0 4 1 with left := [(124, 4)] } 9 0 128 0 1
      ∧ (∀ p ∈ [(124, 4)], p.1 + p.2 ≤ 128 ∧ p.2 = (if fop0.wide then 4 else 2)) ∧ fop0.by_.hide = [])
    ∧ (∀ f ∈ [{ fop0 with kind := 3, pkg := 1 }, { fop0 with kind := 6, dlv := [{ dlv0 [(0, 64)] false none with pkg := 1 }] }],
      (late f).clk.args = [0, 5] ∧ (late f).fop 5 = some f ∧ f.by_.die / 4 = 0 ∧ f.at_ ≠ 0 ∧ (f.kind ≤ 5 → f.pkg ≠ 0)
      ∧ (f.kind = 6 → ∃ d ∈ f.dlv, d.pkg ≠ 0 ∧ d.left ≠ []) ∧ max 1 ((late f).pkg 0).apex.peerLimit < (late f).clk.cycle - 1) := by
  refine ⟨fun b hb => ⟨⟨rfl, rfl, by simp, by simp, by simp, by simp⟩, ?_⟩, by decide +kernel, by decide +kernel,
    ⟨under_way _ _ (by decide), by decide +kernel, at_home _ _ _ _ (by decide)⟩,
    ⟨⟨rfl, rfl, by decide, by decide, by decide, by decide⟩, by decide +kernel⟩, ⟨under_way _ _ (by decide), by decide +kernel⟩,
    ⟨under_way _ _ (by decide), at_home _ _ _ _ (by decide), by decide⟩, by decide +kernel⟩
  revert b
  decide +kernel
/-- Window 7 of package 0 has three ranks, with this round; operation 5 is the contribution of rank 0 at its root, of round n. -/
def root (r : Round) (n : Nat) : State :=
  (onFabric [(5, { fop0 with kind := 5, stage := 6, round := n })]).modApex 0 fun a =>
    { a with redwins := [(7, { RedWin.reset with w0 := BitVec.ofNat 64 (2 ^ 63 + 3 * 2 ^ 44), w1 := 1 })], rounds := [(7, r)] }
/-- Window 7 of package 0 has a timeout of 3 cycles and RADIX 2, in cycle 9. -/
def window7 (r : Round) (fops : Tab Fop) (mode : Nat) (ended : Tab Nat) : State :=
  let s := (withArgs [0, 7]).modApex 0 fun a =>
    { a with redwins := [(7, { RedWin.reset with w0 := BitVec.ofNat 64 (2 ^ 63 + 3 * 2 ^ 44 + mode * 2 ^ 34 + 2 ^ 30), w1 := 3 })], rounds := [(7, r)], roundEnds := ended }
  { s with clk := { s.clk with cycle := 9 }, net := ⟨8, [], fops⟩ }
/-- Two contributions have reached the partial of window 7. -/
abbrev gathering : State := window7 Round.reset [(5, { fop0 with kind := 5, stage := 5 }), (6, { fop0 with kind := 5, stage := 5, rank := 1 })] 1 []
/-- A round of window 7 with these contributions present and waiting. -/
abbrev roundOf (isOpen : Bool) (l w : List Contrib) : Round := ⟨isOpen, 0, none, 6, l, w⟩
/-- The result of round 0 of window 7, or what follows it, is on its way, its deliveries made. -/
abbrev resultOp (stage : Nat) : Fop := { fop0 with kind := 8, stage := stage, dlv := [], data := [1, 2], len := 1 }
theorem meets_Reductions : [1, 2].Perm [2, 1] ∧ (∀ r n, (root r n).protectedPart 0 0 = false → reaches (root r n) { fop0 with kind := 5, stage := 6, round := n } 0)
    ∧ (∀ r ∈ [Round.reset, roundOf true [⟨1, 0, [5], 2⟩] [], roundOf true [⟨0, 0, [5], 2⟩] [], roundOf true [⟨1, 0, [5], 2⟩, ⟨2, 0, [5], 3⟩] []],
      ∀ n ∈ [0, 2 ^ 31],
      underway (root r n) 5 { fop0 with kind := 5, stage := 6, round := n } ∧ (root r n).atRoot { fop0 with kind := 5, stage := 6, round := n } = true
      ∧ (root r n).protectedPart 0 0 = false ∧ ((root r n).redWin 0 7).valid = true
      ∧ ((root r n).redWin 0 7).part = 0 ∧ ((root r n).redWin 0 7).n = 3 ∧ (root r n).round 0 7 = r ∧ r.waiting = [] ∧ 5 < (root r n).net.nextOp
      ∧ (r.isOpen = false → (root r n).nextRound 0 7 = 0) ∧ r.present.length < 3)
    ∧ staleRound 0 0 = false ∧ staleRound (2 ^ 31) 0 = true ∧ staleRound 1 0 = false
    ∧ (∀ e ∈ [⟨1, 0, [5], 2⟩, (⟨2, 0, [5], 3⟩ : Contrib)], e.rank ≠ 0)
    ∧ (((onFabric [(5, { fop0 with kind := 5, stage := 6 })]).redWin 0 7).valid = false ∧ fop0.bar = none
      ∧ ((onFabric [(5, { fop0 with kind := 5, stage := 6 })]).die fop0.by_.die).efq.length < 256)
    ∧ ((window7 (roundOf true [] []) [] 0 []).clk.args = [0, 7] ∧ ((window7 (roundOf true [] []) [] 0 []).redWin 0 7).timeout = 3
      ∧ (window7 (roundOf true [] []) [] 0 []).round 0 7 = roundOf true [] [] ∧ 3 ≤ (window7 (roundOf true [] []) [] 0 []).clk.cycle - 6
      ∧ ∀ e ∈ (window7 (roundOf true [] []) [] 0 []).net.fops, ¬ (e.2.kind = 5 ∧ e.2.pkg = 0 ∧ e.2.win = 7))
    ∧ (Tab.find ((window7 Round.reset [] 0 [(7, 4)]).pkg 0).apex.roundEnds 7 = some 4 ∧ (window7 Round.reset [] 0 [(7, 4)]).roundDone 0 7 = []
      ∧ (window7 Round.reset [] 0 [(7, 4)]).groupDrains ((window7 Round.reset [] 0 [(7, 4)]).rootPkg 0 ((window7 Round.reset [] 0 [(7, 4)]).redWin 0 7)) 0 = false)
    ∧ (∀ n ∈ [1, 5, 6], (window7 Round.reset [(5, resultOp n)] 0 []).roundDone 0 7 = [(5, resultOp n)]
      ∧ (window7 Round.reset [(5, resultOp n)] 0 []).fop 5 = some (resultOp n))
    ∧ ((window7 Round.reset [] 0 []).groupOk 0 0 0 = false ∧ (group (window7 Round.reset [] 0 [])).groupOk 0 0 0 = true)
    ∧ ((gathering.redWin 0 7).mode ≠ 0 ∧ gathering.gathered 0 7 1 = [] ∧ (gathering.redWin 0 7).radix ≤ (gathering.gathered 0 7 5).length) := by
  refine ⟨by decide, fun r n h => ⟨rfl, .inl ⟨by simpa [Fop.from_, fop0] using h, by simpa [fop0] using h⟩⟩, fun r hr n hn => ⟨⟨rfl, rfl, by simp, by simp, by simp, by simp⟩, ?_⟩, by decide +kernel⟩
  revert n r
  decide +kernel
/-- Node 3 of die 0 is in a state with this count; word 0 of its descriptor, a graph that holds it, and partition 0 owns quarter 0 or not. -/
def node (st count w0 own : Nat) (l : List Nat) : State :=
  let s := (withArgs l).modSched 0 fun k =>
    { k with tdt := [(3, { NodeEnt.reset with state := st, count := count })], store := [(48, BitVec.ofNat 64 w0)],
             graphs := [(0, BitVec.ofNat 64 (2 ^ 63 + 3 * 2 ^ 32 + 2 ^ 12))], notices := [(2, ⟨0, 1, 0, 3, false⟩)] }
  s.modPkg 0 fun k => { k with own := { k.own with qvalid := own } }
theorem meets_NodeReadiness :
    ((withArgs [0]).clk.args = [0] ∧ (withArgs [0]).readyList 0 = [])
    ∧ (∀ e ∈ [(7 * 2 ^ 61, 0), (2 ^ 61, 1), (0, 0)], (node 2 0 e.1 e.2 [0]).readyList 0 = [3] ∧ Tab.find ((node 2 0 e.1 e.2 [0]).die 0).sched.saved 3 = none
      ∧ ((node 2 0 e.1 e.2 [0]).die 0).efq.length < 256)
    ∧ (node 2 0 (7 * 2 ^ 61) 0 [0]).dispatchBad 0 0 ((node 2 0 (7 * 2 ^ 61) 0 [0]).wordsFor 0 3) = some 0
    ∧ ((node 2 0 (2 ^ 61) 1 [0]).dispatchBad 0 0 ((node 2 0 (2 ^ 61) 1 [0]).descWords 0 3) = none
      ∧ nodeKind ((node 2 0 (2 ^ 61) 1 [0]).descWords 0 3) ≤ 1 ∧ (node 2 0 (2 ^ 61) 1 [0]).freeLine (0 / 4) = some 0 ∧ [0].Nodup
      ∧ (node 2 0 (2 ^ 61) 1 [0]).fit 0 3 ((node 2 0 (2 ^ 61) 1 [0]).descWords 0 3) [] = some ([0], [0]))
    ∧ ((node 2 0 0 0 [0]).dispatchBad 0 0 ((node 2 0 0 0 [0]).descWords 0 3) = none ∧ nodeKind ((node 2 0 0 0 [0]).descWords 0 3) ≤ 1
      ∧ (node 2 0 0 0 [0]).fit 0 3 ((node 2 0 0 0 [0]).descWords 0 3) [] = none)
    ∧ (∀ e ∈ [(1, 2), (1, 1), (3, 0)], (node e.1 e.2 0 0 [0, 2]).clk.args = [0, 2]
      ∧ Tab.find ((node e.1 e.2 0 0 [0, 2]).die 0).sched.notices 2 = some ⟨0, 1, 0, 3, false⟩
      ∧ (node e.1 e.2 0 0 [0, 2]).graphPart 0 3 = some 0 ∧ ((node e.1 e.2 0 0 [0, 2]).nodeEnt 0 3).state = e.1
      ∧ ((node e.1 e.2 0 0 [0, 2]).nodeEnt 0 3).count = e.2) := by decide +kernel
/-- A node's placement on core 0 with this first word of its descriptor, its code being copied or not, and this batch. -/
abbrev placed (w0 : Nat) (copying : Bool) (batch : List Nat) : Placed :=
  ⟨[0], [0], 0, copying, batch, 0, [], 0, false, some 0, false, [BitVec.ofNat 64 w0], [], [], 0⟩
/-- Node 3 of die 0 is placed so, and core 0 is its own and has ended or not. -/
def running3 (p : Placed) (mode : Nat) (started ended : Bool) (l : List Nat) : State :=
  let s := (withArgs l).modSched 0 fun k => { k with placed := [(3, p)], tdt := [(3, { NodeEnt.reset with state := 3 })] }
  let s := s.modCore 0 fun k => { k with ident := { k.ident with mode := mode, node := 3, placed := !started, started := started } }
  s.modCtx 0 0 fun k => { k with run := { k.run with ended := ended } }
/-- A core that the host started has ended, with a double trap to record or none, and this arrival queue. -/
def leaving (n : Option Nat) (q : List Arrival) : State :=
  (running3 (placed (2 ^ 61) false []) 2 true true [0]).modCore 0 fun k => { k with stat := { k.stat with dtrap := n }, arrq := q }
theorem meets_NodeLife :
    (∀ w0 ∈ [0, 2 ^ 61], (running3 (placed w0 true []) 1 false false [0, 3]).clk.args = [0, 3]
      ∧ Tab.find ((running3 (placed w0 true []) 1 false false [0, 3]).die 0).sched.placed 3 = some (placed w0 true [])
      ∧ Tab.find ((running3 (placed w0 true []) 1 false false [0, 3]).die 0).sched.saved 3 = none ∧ nodeKind (placed w0 true []).words ≤ 1)
    ∧ (∃ s1 s2 s3 l, (running3 (placed (2 ^ 61) true []) 1 false false [0, 3]).fresh.copyCode ((running3 (placed (2 ^ 61) true []) 1 false false [0, 3]).nodeIssuer 0 3)
          (placed (2 ^ 61) true []) = (s1, .ok ())
      ∧ s1.copySlots ((running3 (placed (2 ^ 61) true []) 1 false false [0, 3]).nodeIssuer 0 3) (placed (2 ^ 61) true []) = (s2, .ok ())
      ∧ s2.readBatch ((running3 (placed (2 ^ 61) true []) 1 false false [0, 3]).nodeIssuer 0 3) (placed (2 ^ 61) true []) = (s3, .ok l) ∧ s3.clk.met = false)
    ∧ (∃ s1 s2 s3 l, (running3 (placed 0 true []) 1 false false [0, 3]).fresh.copyCode ((running3 (placed 0 true []) 1 false false [0, 3]).nodeIssuer 0 3)
          (placed 0 true []) = (s1, .ok ())
      ∧ s1.copySlots ((running3 (placed 0 true []) 1 false false [0, 3]).nodeIssuer 0 3) (placed 0 true []) = (s2, .ok ())
      ∧ s2.readBatch ((running3 (placed 0 true []) 1 false false [0, 3]).nodeIssuer 0 3) (placed 0 true []) = (s3, .ok l) ∧ s3.clk.met = false)
    ∧ (Tab.find ((running3 (placed (2 ^ 61) false [64]) 1 false false [0, 3]).die 0).sched.placed 3 = some (placed (2 ^ 61) false [64])
      ∧ (placed (2 ^ 61) false [64]).batch.drop 0 = [64] ∧ (running3 (placed (2 ^ 61) false [64]) 1 false false [0, 3]).poolSize 0 + 1024 < 65536
      ∧ 64 / 2 ^ 57 % 2 ^ 7 = 0 ∧ 64 / 2 ^ 24 % 2 ^ 8 = 0 ∧ 64 % 2 = 0)
    ∧ 65536 ≤ (List.replicate 64512 (rec 0)).length + 1024
    ∧ (∀ st ∈ [true, false], (running3 (placed (2 ^ 61) false []) 2 st true [0]).clk.args = [0] ∧ ((running3 (placed (2 ^ 61) false []) 2 st true [0]).core 0).stat.stopped = false
      ∧ (running3 (placed (2 ^ 61) false []) 2 st true [0]).quiet 0 = true ∧ ((running3 (placed (2 ^ 61) false []) 2 st true [0]).core 0).ident.started = st
      ∧ ((running3 (placed (2 ^ 61) false []) 2 st true [0]).core 0).ident.placed = !st ∧ (running3 (placed (2 ^ 61) false []) 2 st true [0]).drained 0 = true
      ∧ Tab.find ((running3 (placed (2 ^ 61) false []) 2 st true [0]).die ((running3 (placed (2 ^ 61) false []) 2 st true [0]).core 0).ident.home).sched.placed
          (((running3 (placed (2 ^ 61) false []) 2 st true [0]).core 0).ident.node % 4096) = some (placed (2 ^ 61) false [])
      ∧ (placed (2 ^ 61) false []).cores.length ≤ (placed (2 ^ 61) false []).gone.length + 1)
    ∧ (∀ n ∈ [none, some 0x10F], ((leaving n []).core 0).stat.dtrap = n ∧ (leaving n []).clk.args = [0] ∧ ((leaving n []).core 0).stat.stopped = false
      ∧ (leaving n []).quiet 0 = true ∧ ((leaving n []).core 0).ident.started = true ∧ (leaving n []).drained 0 = true
      ∧ ((leaving n []).die (dieOf 0)).efq.length < 256)
    ∧ ((leaving none [⟨64, 8, 1⟩]).quiet 0 = true ∧ (leaving none [⟨64, 8, 1⟩]).drained 0 = false)
    ∧ ({ placed (2 ^ 61) false [] with cores := [0, 1] } : Placed).gone.length + 1 < ({ placed (2 ^ 61) false [] with cores := [0, 1] } : Placed).cores.length
    ∧ ((running3 (placed (2 * 2 ^ 61) false []) 1 false false [0, 3]).die 0).sched.regs.phase ≠ 2
    ∧ (nodeKind (placed (2 * 2 ^ 61) false []).words = 2 ∧ wd (placed (2 * 2 ^ 61) false []).words 12 ≤ (placed (2 * 2 ^ 61) false []).listPos) := by
  refine ⟨by decide +kernel, ⟨_, _, _, _, rfl, rfl, rfl, rfl⟩, ⟨_, _, _, _, rfl, rfl, rfl, rfl⟩, by decide +kernel, ?_, by decide +kernel, by decide +kernel, by decide +kernel, by decide,
    by decide +kernel, by decide +kernel⟩
  rw [List.length_replicate]
/-- A HOST node 3 of die 0, placed, its ring entry sent or not and its ring valid or not. -/
def hostNode (ring valid : Bool) : State :=
  (running3 { placed (4 * 2 ^ 61) false [] with cores := [], ring := ring } 1 false false [0, 3]).modPart 0 0 fun k =>
    { k with cnt := { k.cnt with nrbase := if valid then BitVec.ofNat 64 (2 ^ 63 + 2) else 0 } }
/-- The hypervisor acts on die 0 with this operand; partition 0 owns quarter 0; CORESTART runs or not. -/
def starting (v : Nat) (run : Option Nat) : State :=
  ((withArgs [16, 0, v]).modPkg 0 fun k => { k with own := { k.own with qvalid := 1 } }).modSched 0 fun k => { k with regs := { k.regs with csRun := run } }
theorem meets_HostNodesAndStarts :
    (∀ e ∈ [(false, true), (false, false), (true, true)], (hostNode e.1 e.2).clk.args = [0, 3]
      ∧ (Tab.find ((hostNode e.1 e.2).die 0).sched.placed 3).map (fun p => (p.ring, p.bad, nodeKind p.words)) = some (e.1, false, 4)
      ∧ ((hostNode e.1 e.2).part 0 0).cnt.nrbase.toNat / 2 ^ 63 % 2 = (if e.2 then 1 else 0) ∧ (hostNode e.1 e.2).ringBusy 0 0 = e.1
      ∧ ((hostNode e.1 e.2).part 0 0).cnt.ringUsed < 2 ^ 2)
    ∧ (Tab.find ((running3 { placed (4 * 2 ^ 61) false [] with cores := [], bad := true } 1 false false [0, 3]).die 0).sched.placed 3).map
        (fun p => (p.ring, p.bad, nodeKind p.words)) = some (false, true, 4)
    ∧ ((starting (2 ^ 24 - 2) none).clk.args = [16, 0, 2 ^ 24 - 2] ∧ (starting (2 ^ 24 - 2) none).exposedCore 0 ((2 ^ 24 - 2) / 2 ^ 36 % 2 ^ 12) = some 0
      ∧ ((starting (2 ^ 24 - 2) none).pkg 0).own.quarter 0 = some 0 ∧ ((starting (2 ^ 24 - 2) none).die 0).sched.regs.csRun = none
      ∧ (∀ k ∈ coresOf 0, ((starting (2 ^ 24 - 2) none).core k).ident.placed = false))
    ∧ (starting (2 ^ 47) none).exposedCore 0 (2 ^ 47 / 2 ^ 36 % 2 ^ 12) = none
    ∧ ((withArgs [16, 0, 0]).exposedCore 0 0 = some 0 ∧ ((withArgs [16, 0, 0]).pkg 0).own.quarter 0 = none)
    ∧ (∃ k ∈ coresOf 0, (((starting 0 none).modCore 5 fun k => { k with ident := { k.ident with placed := true } }).core k).ident.placed = true)
    ∧ ((starting 1 none).exposedCore 0 (1 / 2 ^ 36 % 2 ^ 12) = some 0 ∧ ((starting 0 (some 9)).die 0).sched.regs.csRun ≠ none)
    ∧ ((starting 0x76543210 none).clk.args = [16, 0, 0x76543210] ∧ (starting 0x76543210 none).reachesCluster 16 0 = true
      ∧ (∀ c ∈ coresOf 0, ((starting 0x76543210 none).core c).ident.placed = false) ∧ coreMapOk 0x76543210 = true ∧ coreMapOk 0 = false) := by decide +kernel
/-- The hypervisor writes PREEMPT of die 0 for node 3, in a state, while an operation runs or not. -/
def preempting (st : Nat) (go : Bool) : State :=
  (withArgs [16, 0, 0, 3]).modSched 0 fun k => { k with tdt := [(3, { NodeEnt.reset with state := st })], regs := { k.regs with go := go } }
/-- A stop of node 3 of die 0 is in a phase, the node placed so or not at all. -/
def stopping (phase t0 cycle : Nat) (l : Tab Placed) : State :=
  let s := (withArgs [0]).modSched 0 fun k => { k with placed := l, tdt := [(3, { NodeEnt.reset with state := 3 })], regs := { k.regs with go := true, phase := phase, runNode := 3, t0 := t0 } }
  { s with clk := { s.clk with cycle := cycle } }
theorem meets_PreemptStops :
    (∀ e ∈ [(3, false), (6, false), (3, true), (1, false)], (preempting e.1 e.2).clk.args = [16, 0, 0, 3] ∧ (preempting e.1 e.2).reachesNode 16 0 3 = true
      ∧ ((preempting e.1 e.2).die 0).sched.regs.go = e.2 ∧ ((preempting e.1 e.2).nodeEnt 0 3).state = e.1 ∧ (preempting e.1 e.2).protectedPart 0 0 = false)
    ∧ ((stopping 1 0 0 []).clk.args = [0] ∧ ((stopping 1 0 0 []).die 0).sched.regs.phase = 1
      ∧ Tab.find ((stopping 1 0 0 []).die 0).sched.placed ((stopping 1 0 0 []).die 0).sched.regs.runNode = none)
    ∧ (((stopping 1 0 0 [(3, placed 0 false [])]).die 0).sched.regs.phase = 1
      ∧ Tab.find ((stopping 1 0 0 [(3, placed 0 false [])]).die 0).sched.placed 3 = some (placed 0 false []) ∧ (placed 0 false []).live = [0]
      ∧ ((stopping 1 0 0 [(3, placed 0 false [])]).core 0).slotRun = none ∧ ((stopping 1 0 0 [(3, placed 0 false [])]).core 0).mx.uops = [])
    ∧ Tab.find ((stopping 1 0 0 [(3, { placed 0 false [] with bad := true })]).die 0).sched.placed 3 = some { placed 0 false [] with bad := true }
    ∧ (((protect (preempting 3 false)).modPart 0 0 fun k => { k with sec := { k.sec with ks := some 0 } }).part 0 0).sec.ks.isSome = true
    ∧ ((fresh1.core 0).ident.mode ≠ 2 ∧ (fresh1.ctx 0 0).recent = some ⟨[onItsWay 1 0], [(.s 1, 0)], 0, false⟩) := by decide +kernel
/-- The placement of a node of one core that has left it. -/
abbrev emptied : Placed := { placed (2 ^ 61) false [] with gone := [0] }
/-- Node 3 of die 0, saved before, is to resume on core 0. -/
def resuming : State :=
  (running3 { placed (2 ^ 61) true [] with ring := true } 2 false false [0, 3]).modSched 0 fun k => { k with saved := [(3, (0, placed (2 ^ 61) false []))] }
/-- Context entry 0 of die 0 is valid, with this counter, and names address 0 of host memory. -/
def counted (c : Nat) : State :=
  (stopping 2 0 0 [(3, placed 0 false [])]).modSched 0 fun k => { k with ctxtab := [(0, BitVec.ofNat 64 (2 ^ 63 + c)), (1, BitVec.ofNat 64 (7 * 2 ^ 60))] }
/-- Context entry 0 of die 0 is valid, saves 16 KiB, and names a place of HBM that the partition does not hold. -/
def unread : State :=
  (stopping 2 0 0 [(3, placed 0 false [])]).modSched 0 fun k => { k with ctxtab := [(0, BitVec.ofNat 64 (2 ^ 63 + 2 ^ 48)), (1, BitVec.ofNat 64 (4 * 2 ^ 60))] }
theorem meets_ImagesSavedAndRestored :
    (∀ e ∈ [(0, 1), (0, 2 ^ 20)], ((stopping 2 e.1 e.2 [(3, placed 0 false [])]).die 0).sched.regs.phase = 2
      ∧ (∀ x ∈ ((stopping 2 e.1 e.2 [(3, placed 0 false [])]).die 0).sched.placed, x.2.bad = false) ∧ (stopping 2 e.1 e.2 [(3, placed 0 false [])]).drainLimit 0 = 2 ^ 20)
    ∧ (placed 0 false []).cores ≠ []
    ∧ ((stopping 2 0 0 [(3, { placed 0 false [] with cores := [], ring := true })]).draining 0 3 { placed 0 false [] with cores := [], ring := true } = true)
    ∧ ((stopping 2 0 0 [(3, emptied)]).draining 0 3 emptied = false
      ∧ emptied.places.foldl (fun (x : State × Bool) i => ((x.1.saveOne 0 3 0 emptied i).1, x.2 && (x.1.saveOne 0 3 0 emptied i).2)) ((stopping 2 0 0 [(3, emptied)]).fresh, true)
        = ((stopping 2 0 0 [(3, emptied)]).fresh, true) ∧ (stopping 2 0 0 [(3, emptied)]).fresh.clk.met = false)
    ∧ (∀ c ∈ [0, 2 ^ 32 - 2], ((counted c).sealKey 0 ((counted c).nodeEnt 0 3).part).isSome = true
      ∧ entryOk (0 + placeQ (placed 0 false []).words 0) ((counted c).ctxEntry 0 (0 + placeQ (placed 0 false []).words 0) 0)
          ((counted c).ctxEntry 0 (0 + placeQ (placed 0 false []).words 0) 1) = true
      ∧ (counted c).ctxEntry 0 (0 + placeQ (placed 0 false []).words 0) 0 % 2 ^ 32 = c)
    ∧ (resuming.clk.args = [0, 3] ∧ Tab.find (resuming.die 0).sched.placed 3 = some { placed (2 ^ 61) true [] with ring := true }
      ∧ Tab.find (resuming.die 0).sched.saved 3 = some (0, placed (2 ^ 61) false []) ∧ nodeKind (placed (2 ^ 61) true []).words = 1
      ∧ (placed (2 ^ 61) true []).places = [0])
    ∧ resuming.fresh.checkImage 0 3 (0 + placeQ (placed (2 ^ 61) true []).words 0) = (resuming.fresh, .error 12) := by
  refine ⟨by decide +kernel, by decide, by decide +kernel, ⟨by decide +kernel, rfl, rfl⟩, by decide +kernel, by decide +kernel, by rfl⟩
/-- What a read comes to: the code of its error, or 0. -/
def readCode {α : Type} (r : State × Except Nat α) : Nat := match r.2 with
  | .error c => c
  | .ok _ => 0
theorem meets_ImagesSavedAndRestored_entry :
    entSize (unread.ctxEntry 0 0 0) ≤ 64 ∧ entryOk 0 (unread.ctxEntry 0 0 0) (unread.ctxEntry 0 0 1) = true
      ∧ 952832 + saveBytes (entSize (unread.ctxEntry 0 0 0)) + saveBytes (entSize (unread.ctxEntry 0 0 0)) / 64 + 832 = 970304 := by decide +kernel
/-- Partition 0 of package 0 is defined, protected or not, in a state. -/
def defined (l : List Nat) (prot : Bool) (state : Nat) : State :=
  (withArgs l).modPart 0 0 fun k => { k with ctl := { k.ctl with v := true, prot := prot, state := state, period := 3, grace := 3 } }
/-- The hypervisor writes with these operands, and node 3 of partition 0 is placed or not. -/
def writing (l : List Nat) (busy : Bool) : State := (withArgs (16 :: l)).modSched 0 fun k => { k with placed := if busy then [(3, placed 0 false [])] else [] }
/-- Window 0 of package 0 maps ranks from entry 0 on. -/
abbrev mapped : State := (writing [0, 0, 5] false).modApex 0 fun a => { a with redwins := [(0, { RedWin.reset with w0 := BitVec.ofNat 64 (2 ^ 63 + 2 ^ 44) })] }
/-- The counter of context entry 0 of die 0 is 5. -/
abbrev counted5 (l : List Nat) : State := (writing l false).modSched 0 fun k => { k with ctxtab := [(0, 5)] }
theorem meets_HostTableWrites :
    ((writing [0, 0, 4095, 1] true).clk.args = [16, 0, 0, 4095, 1] ∧ (writing [0, 0, 4095, 1] true).reachesPart 16 0 0 = true
      ∧ (writing [0, 0, 4095, 1] true).hasPlaced 0 0 = true)
    ∧ ((writing [0, 0, 4095, 2 ^ 48] false).hasPlaced 0 0 = false ∧ bits (2 ^ 48) 48 15 ≠ 0 ∧ bits (2 ^ 63 + 3) 48 15 = 0 ∧ bits (2 ^ 63 + 3) 13 19 = 0)
    ∧ ((writing [0, 0, 1023, 2 ^ 63] false).reachesPart 16 0 0 = true ∧ bits (2 ^ 63) 63 1 = 1 ∧ windowFieldBad (2 ^ 63) = true
      ∧ windowFieldBad (2 ^ 63 + 2 ^ 52) = false ∧ 2 ^ 63 < 2 ^ 256)
    ∧ (bits (2 ^ 12 + 2 ^ 255) 63 1 = 0 ∧ 2 ^ 12 + 2 ^ 255 < 2 ^ 256 ∧ (2 ^ 12 + 2 ^ 255).testBit 12 = true)
    ∧ ({ writing [0, 0, 0, 0] false with clk := { State.reset.clk with args := [1, 0, 0, 0, 0] } } : State).reachesPart 1 0 0 = false
    ∧ ((writing [0, 65535, 5] false).clk.args = [16, 0, 65535, 5] ∧ ((writing [0, 65535, 5] false).pkg 0).apex.mapHolder 65535 = none
      ∧ 16 = hypervisor ∧ (mapped.pkg 0).apex.mapHolder 0 = some { RedWin.reset with w0 := BitVec.ofNat 64 (2 ^ 63 + 2 ^ 44) })
    ∧ (bits (2 ^ 63) 12 13 = 0 ∧ (bits (2 ^ 63 + 2 ^ 12) 44 15 = 0 ∧ bits (2 ^ 63 + 2 ^ 12) 25 7 = 0 ∧ bits (2 ^ 63 + 2 ^ 12) 0 12 = 0
        ∧ bits (2 ^ 63 + 2 ^ 12) 12 13 = 1 ∧ bits (2 ^ 63 + 2 ^ 12) 32 12 + 1 ≤ 4096)
      ∧ ((writing [0, 255, 2 ^ 63] false).die 0).sched.graphs = [] ∧ 4096 < bits (4095 * 2 ^ 32 + 2 * 2 ^ 12) 32 12 + bits (4095 * 2 ^ 32 + 2 * 2 ^ 12) 12 13)
    ∧ ((defined [0, 255, 2 ^ 63] false 0).hasWindow (0 / 4) 0 = true ∧ bits (2 ^ 63) 59 4 = 0
      ∧ bits (Tab.get 0 ((defined [0, 255, 2 ^ 63] false 0).die 0).sched.graphs 255).toNat 63 1 = 0 ∧ 1 ≠ hypervisor)
    ∧ ((counted5 [0, 0, 0, 5, 0]).reachesCtx 16 0 0 0 = true ∧ 5 % 2 ^ 32 = (counted5 [0, 0, 0, 5, 0]).ctxEntry 0 0 0 % 2 ^ 32 ∧ entSize 5 ≤ 64
      ∧ 6 % 2 ^ 32 ≠ (counted5 [0, 0, 0, 6, 0]).ctxEntry 0 0 0 % 2 ^ 32 ∧ 64 < entSize (65 * 2 ^ 48 + 5))
    ∧ (counted5 [0, 0, 0, 5, 0]).reachesCtx 1 0 1 0 = false := by decide +kernel
/-- Reduction window 7 of package 0 is this, its round open or not. -/
def redAt (l : List Nat) (w0 : Nat) (isOpen : Bool) : State :=
  (writing l false).modApex 0 fun a => { a with redwins := [(7, { RedWin.reset with w0 := BitVec.ofNat 64 w0, w1 := 0, w2 := BitVec.ofNat 64 (6 * 2 ^ 60) })],
                                                rounds := [(7, ⟨isOpen, 0, none, 0, [], []⟩)] }
/-- A good word 0 of a window: one rank, FP32, ORDERED, RADIX 2, one element, with the identity rank map or without. -/
abbrev goodW0 (rmid : Nat) : Nat := 2 ^ 63 + rmid * 2 ^ 57 + 2 ^ 44 + 2 ^ 30 + 2 ^ 9
/-- Key-table entry 0 of die 0 sweeps or not, from PTR; slot 1 is partition 0's current one and 2 its next. -/
def keyed (l : List Nat) (sweep : Bool) (ptr own : Nat) : State :=
  ((withArgs l).modDie 0 fun k => { k with keytab := [(0, ⟨sweep, 1, 2, ptr⟩)] }).modPkg 0 fun k => { k with own := { k.own with qvalid := own } }
theorem meets_ReductionWindowsAndKeys :
    (∀ e ∈ [(goodW0 1, true), (goodW0 1, false), (2 ^ 44, false)], (redAt [0, 7, 0, goodW0 1] e.1 e.2).clk.args = [16, 0, 7, 0, goodW0 1]
      ∧ (redAt [0, 7, 0, goodW0 1] e.1 e.2).reachesRedWin 16 0 7 (((redAt [0, 7, 0, goodW0 1] e.1 e.2).redWin 0 7).writeWord 0 (goodW0 1)) = true
      ∧ ((redAt [0, 7, 0, goodW0 1] e.1 e.2).round 0 7).isOpen = e.2 ∧ ((redAt [0, 7, 0, goodW0 1] e.1 e.2).redWin 0 7).valid = decide (2 ^ 63 ≤ e.1)
      ∧ redReserved 0 (goodW0 1) = 0 ∧ (((redAt [0, 7, 0, goodW0 1] e.1 e.2).redWin 0 7).writeWord 0 (goodW0 1)).fieldBad = false)
    ∧ (((redAt [0, 7, 0, 2 ^ 63] (goodW0 1) false).redWin 0 7).writeWord 0 (2 ^ 63)).fieldBad = true
    ∧ (((redAt [0, 7, 0, goodW0 0 + 2 ^ 44] 0 false).redWin 0 7).valid = false
      ∧ (redAt [0, 7, 0, goodW0 0 + 2 ^ 44] 0 false).rankMapOk 0 (((redAt [0, 7, 0, goodW0 0 + 2 ^ 44] 0 false).redWin 0 7).writeWord 0 (goodW0 0 + 2 ^ 44)) = false
      ∧ (redAt [0, 7, 0, goodW0 0] 0 false).rankMapOk 0 (((redAt [0, 7, 0, goodW0 0] 0 false).redWin 0 7).writeWord 0 (goodW0 0)) = true)
    ∧ ((keyed [16, 0, 0, 2 ^ 48 + 3 * 2 ^ 40, 0] false 0 0).clk.args = [16, 0, 0, 2 ^ 48 + 3 * 2 ^ 40, 0]
      ∧ (keyed [16, 0, 0, 2 ^ 48 + 3 * 2 ^ 40, 0] false 0 0).reachesPart 16 (0 / 4) 0 = true ∧ bits (2 ^ 48 + 3 * 2 ^ 40) 0 38 = 0
      ∧ bits (2 ^ 48 + 3 * 2 ^ 40) 48 8 = 1 ∧ bits (2 ^ 48 + 3 * 2 ^ 40) 40 8 = 3
      ∧ (∀ n, n < 16 → (((keyed [16, 0, 0, 2 ^ 48 + 3 * 2 ^ 40, 0] false 0 0).die 0).key n).cur ≠ 3)
      ∧ ((keyed [16, 0, 0, 0, 0] true 0 0).die 0).key 0 = ⟨true, 1, 2, 0⟩ ∧ (1 : Nat) ≠ 0)
    ∧ (((keyed [0, 0] false 0 1).die 0).key 0).sweep = false
    ∧ (∀ ptr ∈ [0, 5 * 2 ^ 18 - 1], (keyed [0, 0] true ptr 1).clk.args = [0, 0] ∧ (((keyed [0, 0] true ptr 1).die 0).key 0).sweep = true
      ∧ (((keyed [0, 0] true ptr 1).die 0).key 0).ptr < (keyed [0, 0] true ptr 1).sweepLines 0 0)
    ∧ 5 * 2 ^ 18 - 1 + 1 = (keyed [0, 0] true 0 1).sweepLines 0 0 := by decide +kernel
/-- Monitor 3 of die 0 is configured for a source, in a cycle. -/
def sampling (src cycle : Nat) : State :=
  let s := (withArgs [0, 3]).modDie 0 fun k => { k with mons := [(3, { Mon.reset with cfg := BitVec.ofNat 64 (src * 2 ^ 56) })] }
  { s with clk := { s.clk with cycle := cycle } }
/-- Cluster 0 has a slot table that takes effect from cycle 9 on. -/
def slotsAt (cycle : Nat) : State :=
  let s := (withArgs [0]).modCluster 0 fun k => { k with slotsNext := some (9, []) }
  { s with clk := { s.clk with cycle := cycle } }
theorem meets_HostRegisters :
    (writing [0, 2 ^ 63] false).clk.args = [16, 0, 2 ^ 63] ∧ 16 = hypervisor
    ∧ (∀ src ∈ [6, 7, 8], (sampling src 256).clk.args = [0, 3] ∧ (Tab.get Mon.reset ((sampling src 256).die 0).mons 3).cfg ≠ 0
      ∧ bits (Tab.get Mon.reset ((sampling src 256).die 0).mons 3).cfg.toNat 56 6 = src ∧ (sampling src 256).time (0 / 4) % 256 = 0
      ∧ (sampling src 255).time (0 / 4) % 256 ≠ 0)
    ∧ ((withArgs [0]).cluster 0).slotsNext = none
    ∧ (((slotsAt 256).cluster 0).slotsNext = some (9, []) ∧ 9 ≤ (slotsAt 256).clk.cycle ∧ (slotsAt 256).time (0 / 64) % 256 = 0
      ∧ (slotsAt 10).time (0 / 64) % 256 ≠ 0 ∧ (slotsAt 0).clk.cycle < 9)
    ∧ (∀ r ∈ [0, 8, 12, 13], (writing [0, r, 15, 2 ^ 64 - 1] false).clk.args = [16, 0, r, 15, 2 ^ 64 - 1] ∧ (r < 9 ∨ r = 12 ∨ r = 13))
    ∧ ((sampling 11 (2 ^ 20)).time 0 % 256 = 0 ∧ (sampling 11 (2 ^ 20)).time 0 % 2 ^ 20 = 0 ∧ (sampling 11 256).time 0 % 2 ^ 20 ≠ 0)
    ∧ (∀ r ∈ [1, 8, 13], ({ withArgs [1, 0, r, 1, 5] with iss := State.reset.iss } : State).reachesPart 1 0 1 = false)
    ∧ (∀ r ∈ [9, 10, 11, 12, 14, 16], (writing [0, r, 255, 2 ^ 63] false).clk.args = [16, 0, r, 255, 2 ^ 63])
    ∧ ((writing [0, 15, 0, 2 ^ 57 + 3] false).reachesNode 16 0 (bits (2 ^ 57 + 3) 0 12) = true ∧ bits (2 ^ 57 + 3) 63 1 = 0
      ∧ bits (2 ^ 63 + 3 * 2 ^ 57) 63 1 = 1 ∧ bits (2 ^ 63 + 3 * 2 ^ 57) 57 2 = 3 ∧ (withArgs []).reachesNode 1 0 0 = false)
    ∧ (∀ n ∈ [0x801, 0x802, 0x803, 0x804, 0x810, 0x811, 0x812, 0x805], (writing [0, 17, 15 * 4096 + n, 5] false).clk.args = [16, 0, 17, 15 * 4096 + n, 5]
      ∧ n < 4096 ∧ (writing [0, 17, 15 * 4096 + n, 5] false).reachesCluster 16 (clusterOf 0) = true)
    ∧ (writing [4355, 10, 0, 5] false).clk.args = [16, 4355, 10, 0, 5] ∧ 4355 < packages * 4 := by decide +kernel
/-- A launch of graph 0 of package 0, which partition 0 owns and whose node 3 is in a state; the partition runs or is quiesced. -/
def launching (bytes val owner st state : Nat) : State :=
  let s := (withArgs [0, 0, bytes, val]).modSched 0 fun k =>
    { k with graphs := [(0, BitVec.ofNat 64 (2 ^ 63 + owner * 2 ^ 59 + 3 * 2 ^ 32 + 2 ^ 12))], tdt := [(3, { NodeEnt.reset with state := st })] }
  s.modPart 0 0 fun k => { k with ctl := { k.ctl with v := true, state := state } }
theorem meets_Launches : 0 < packages ∧ (launching 16 0 0 0 0).hasWindow 0 0 = true ∧ (withArgs [0, 0, 16, 0]).hasWindow 0 0 = false
    ∧ [patchAt 0 ((launching 16 0 0 4 0).graphsAt 0 0) 15 7, patchAt 0 ((launching 16 0 0 4 0).graphsAt 0 0) 15 8].filterMap id = [(0, 63, 7), (0, 63, 8)]
    ∧ (launching 16 0 0 0 0).clk.args = [0, 0, 16, 0] ∧ ¬ (8 = 16 ∧ 0 < 2 ^ 76 ∧ 0 % 16 = 0) ∧ (16 = 16 ∧ 0 < 2 ^ 76 ∧ 0 % 16 = 0)
    ∧ ((launching 16 0 0 0 0).graphsAt 0 (bits 0 56 8) ≠ [] ∧ ∀ e ∈ (launching 16 0 0 0 0).graphsAt 0 (bits 0 56 8), bits e.2 59 4 = 0)
    ∧ ¬ ((launching 16 0 1 0 0).graphsAt 0 (bits 0 56 8) ≠ [] ∧ ∀ e ∈ (launching 16 0 1 0 0).graphsAt 0 (bits 0 56 8), bits e.2 59 4 = 0)
    ∧ (launching 16 0 0 0 1).running 0 0 = false ∧ (launching 16 0 0 0 0).running 0 0 = true
    ∧ (launching 16 0 0 2 0).graphRuns ((launching 16 0 0 2 0).graphsAt 0 0) = true
    ∧ (launching 16 0 0 4 0).graphRuns ((launching 16 0 0 4 0).graphsAt 0 0) = false ∧ bits 0 64 12 = 0 ∧ bits (2 ^ 64) 64 12 ≠ 0
    ∧ patchAt 0 ((launching 16 0 0 4 0).graphsAt 0 0) 16 0 = none ∧ patchAt 0 ((launching 16 0 0 4 0).graphsAt 0 0) 15 7 = some (0, 63, 7) := by decide +kernel
theorem meets_OwnershipAndReset : 0 < packages
    ∧ (∀ b ∈ [false, true], (writing [0, 1, 0, 1] b).clk.args = [16, 0, 1, 0, 1]
      ∧ ownerChanges ((writing [0, 1, 0, 1] b).pkg 0).own (((writing [0, 1, 0, 1] b).pkg 0).own.write 1 0 1) 1 0 = [(0, none, some 0)]
      ∧ (writing [0, 1, 0, 1] b).ownerBusy 0 (0, none, some 0) = b)
    ∧ (writing [0, 2, 511, 0x80] false).clk.args = [16, 0, 2, 511, 0x80] ∧ (writing [0, 3, 63, 0x8F] false).clk.args = [16, 0, 3, 63, 0x8F]
    ∧ ((defined [16, 0, 0, 2 ^ 63 + 2 ^ 62] false 0).part 0 0).ctl.v = true ∧ (bits (2 ^ 63 + 2 ^ 62) 62 1 == 1) ≠ ((defined [16, 0, 0, 2 ^ 63 + 2 ^ 62] false 0).part 0 0).ctl.prot
    ∧ ((withArgs [16, 0, 15, 2 ^ 63 + 2 ^ 62]).part 0 15).ctl.v = false ∧ bits (2 ^ 63 + 2 ^ 62) 59 1 = 0
    ∧ ((bits (2 ^ 63 + 2 ^ 59) 62 1 == 1) = ((defined [16, 0, 0, 2 ^ 63 + 2 ^ 59] false 0).part 0 0).ctl.prot ∧ bits (2 ^ 63 + 2 ^ 59) 59 1 = 1)
    ∧ ((defined [16, 0, 0] false 0).clk.args = [16, 0, 0] ∧ (defined [16, 0, 0] false 0).reachesPart 16 0 0 = true ∧ 16 ≠ resetUnit
      ∧ ((defined [16, 0, 0] false 0).part 0 0).ctl.state ≠ 3)
    ∧ ((defined [resetUnit, 0, 0] true 3).clk.args = [resetUnit, 0, 0] ∧ ((defined [resetUnit, 0, 0] true 3).part 0 0).ctl.state = 3)
    ∧ (bits (2 ^ 63 + 2 ^ 59) 63 1 = 1 ∧ ((defined [16, 0, 0, 2 ^ 63 + 2 ^ 59] false 0).part 0 0).ctl.state ≠ 3)
    ∧ ((defined [0, 0, 0, 0] false 0).clk.args = [0, 0, 0, 0] ∧ (defined [0, 0, 0, 0] false 0).reachesPart 0 0 0 = true
      ∧ (defined [1, 0, 0, 0] false 0).reachesPart 1 0 0 = false)
    ∧ ownerChanges ⟨0, 1, [], []⟩ ((⟨0, 1, [], []⟩ : Owners).write 1 0 0) 1 0 = [(0, some 0, none)] := by
  refine ⟨by decide, by decide +kernel, by decide +kernel, by decide +kernel, ?_⟩
  decide +kernel
/-- A report of partition 0 is being formed, or not, with extensions held. -/
def reporting (l : List Nat) (report : Bool) (prot : Bool) : State :=
  (defined l prot 0).modPart 0 0 fun k => { k with sec := { k.sec with report := report } }
/-- Partition 0 in a state, in a cycle, with a heartbeat key or none. -/
def beating (l : List Nat) (state cycle : Nat) (key : Option (BitVec 256)) : State :=
  let s := (defined l true state).modPart 0 0 fun k => { k with sec := { k.sec with hbkey := key } }
  { s with clk := { s.clk with cycle := cycle } }
theorem meets_AttestationAndHeartbeats :
    ((withArgs [0, 0, 5]).hasWindow 0 0 = false ∧ (reporting [0, 0, 5] true false).hasWindow 0 0 = true ∧ (beating [0, 0, 1] 0 0 none).hasWindow 0 0 = true)
    ∧ (∀ b ∈ [false, true], (reporting [0, 0, 2 ^ 256 - 1] b false).clk.args = [0, 0, 2 ^ 256 - 1] ∧ ((reporting [0, 0, 2 ^ 256 - 1] b false).part 0 0).sec.report = b)
    ∧ ((reporting [0, 0] true false).clk.args = [0, 0] ∧ ((reporting [0, 0] true false).part 0 0).sec.heldExtends = [])
    ∧ ((reporting [0, 0, 64] false false).protectedPart 0 0 = false ∧ (reporting [0, 0, 64] false true).protectedPart 0 0 = true
      ∧ leNum ((reporting [0, 0, 64] false true).mem.bytes (unitAddr 7 0 64) 8) < 2 ^ 6)
    ∧ ((beating [0, 0, 1] 0 0 none).clk.args = [0, 0, 1] ∧ ((beating [0, 0, 1] 0 0 none).part 0 0).sec.hbkey = none)
    ∧ (∀ e ∈ [(0, 3), (0, 2), (1, 3), (1, 2), (2, 9)], (beating [0, 0] e.1 e.2 none).clk.args = [0, 0] ∧ ((beating [0, 0] e.1 e.2 none).part 0 0).ctl.v = true
      ∧ ((beating [0, 0] e.1 e.2 none).part 0 0).ctl.state = e.1 ∧ ((beating [0, 0] e.1 e.2 none).part 0 0).ctl.period = 3
      ∧ ((beating [0, 0] e.1 e.2 none).part 0 0).ctl.grace = 3 ∧ (beating [0, 0] e.1 e.2 none).clk.cycle - 0 = e.2) := by decide +kernel
theorem meets_ErrorsAndPackageReset :
    (∀ st ∈ [false, true], (running3 (placed 0 false []) 0 st false [0, 0, 64]).clk.args = [0, 0, 64]
      ∧ ((running3 (placed 0 false []) 0 st false [0, 0, 64]).core 0).ident.placed = !st
      ∧ ((running3 (placed 0 false []) 0 st false [0, 0, 64]).core 0).ident.started = st
      ∧ ((running3 (placed 0 false []) 0 st false [0, 0, 64]).die 0).efq.length < 256
      ∧ Tab.find ((running3 (placed 0 false []) 0 st false [0, 0, 64]).die 0).sched.placed 3 = some (placed 0 false []))
    ∧ (({ onFabric [(5, fop0)] with clk := { State.reset.clk with args := [1, 5, 64] } } : State).clk.args = [1, 5, 64]
      ∧ ({ onFabric [(5, fop0)] with clk := { State.reset.clk with args := [1, 5, 64] } } : State).fop 5 = some fop0 ∧ fop0.stage ≠ 0)
    ∧ ((bte [] [(0, copyCmd 2 0 none)] 0 0).fop 7 = none
      ∧ ((bte [] [(0, copyCmd 2 0 none)] 0 0).clusters.flatMap fun e =>
          (e.2.bte.slots.filter fun m => m.2.opId == 7 && m.2.phase == 2).map fun m => (e.1, m)) = [(0, 0, copyCmd 2 0 none)])
    ∧ ((se true 0 []).fop 7 = none ∧ ((se true 0 []).clusters.flatMap fun e =>
          (e.2.bte.slots.filter fun m => m.2.opId == 7 && m.2.phase == 2).map fun m => (e.1, m)) = []
      ∧ ((se true 0 []).dies.flatMap fun e => (e.2.se.filter fun m => m.running && m.opId == 7).map fun m => (e.1, m.by_.core, m.bar)) = [(0, some 0, none)])
    ∧ ((stream false []).mayFetch (((stream false []).core 0).stream 2) = true ∧ (stream false []).mayFetch (((stream false []).core 0).stream 3) = false
      ∧ 2 = 0 * 8 + 2)
    ∧ (∀ e ∈ [(0, true), (2 ^ 62, false), (0, false)], Tab.find ((running3 (placed e.1 e.2 []) 1 false false [3, 3, 64]).die 0).sched.placed 3
        = some (placed e.1 e.2 []) ∧ (running3 (placed e.1 e.2 []) 1 false false [3, 3, 64]).clk.args = [3, 3, 64] ∧ 3 = 0 * 4096 + 3)
    ∧ (nodeKind (placed (2 ^ 62) false []).words = 2 ∧ nodeKind (placed 0 false []).words = 0)
    ∧ ((State.reset.modDie 4 fun k => { k with monown := 1 }).dies.map (·.1)).Nodup
    ∧ ((withArgs [1088]).mem.wf = true ∧ (withArgs [1088]).clk.args = [1088] ∧ 1088 < packages) := by decide +kernel
/-- Island 1183 of package 0 is changing or not; port group 15 loads or not. -/
def islands (l : List Nat) (busy : Bool) : State :=
  (withArgs l).modPkg 0 fun k => { k with islands := [(1183, { Island.reset with busy := busy })], groups := [(15, { PortGroup.reset with busy := busy })] }
theorem meets_IslandsAndPortGroups : 0 < packages
    ∧ ((islands [16, 0, 0, 64] false).clk.args = [16, 0, 0, 64] ∧ 0 < 1184 ∧ 64 % 2 ^ 7 = 64 ∧ ((islands [16, 0, 0, 64] false).island 0 0).busy = false)
    ∧ ¬ (1 ≤ 0 % 2 ^ 7) ∧ (islands [15, 0, 0, 64] false).clk.args = [15, 0, 0, 64] ∧ 15 ≠ hypervisor ∧ 16 = hypervisor
    ∧ (∀ b ∈ [false, true], ((islands [0, 1183] b).island 0 1183).busy = b ∧ (islands [0, 1183] b).clk.args = [0, 1183]
      ∧ ((islands [16, 0, 15, 2 ^ 61] b).portGroup 0 15).busy = b ∧ (islands [16, 0, 15, 2 ^ 61] b).clk.args = [16, 0, 15, 2 ^ 61]
      ∧ bits (2 ^ 63 + 2 ^ 61) 61 1 = 1 ∧ bits (2 ^ 63 + 2 ^ 61) 63 1 = 1 ∧ (islands [] b).net.fops = []
      ∧ (((islands [16, 0, 15, 2 ^ 63 + 2 ^ 61] b).modPkg 0 fun k => { k with groups := [(15, { PortGroup.reset with drain := true })] }).portGroup 0 15).drain = true
      ∧ Instr.pgctlLoad ∈ [Instr.pgctlDrain, .pgctlLoad]) := by decide +kernel
theorem meets_DecodeAndEncodeAgree : (Instr.addi ⟨0, 2, 2, 1⟩).wf = true ∧ placeOf (.addi ⟨0, 2, 2, 1⟩) = .syllable .S false
    ∧ FmtFits.EM ⟨15, 15, 31⟩ = true ∧ (Instr.mloop ⟨0, 0, 65535⟩).wf = true ∧ placeOf (.mloop ⟨0, 0, 65535⟩) = .micro
    ∧ decodeSyl .S false 0x18042001 = .ok (.addi ⟨0, 2, 2, 1⟩) ∧ decodeMicro 0x1C00000000000064 = some (.mloop ⟨0, 0, 100⟩)
    ∧ (∀ f, Instr.addi ⟨0, 2, 2, 1⟩ ≠ .moncfgSnapshot f ∧ Instr.addi ⟨0, 2, 2, 1⟩ ≠ .moncfgSnapshotClear f ∧ Instr.addi ⟨0, 2, 2, 1⟩ ≠ .moncfgStop f) :=
  ⟨rfl, rfl, rfl, rfl, rfl, rfl, rfl, by simp⟩
theorem meets_SyllableFrame : placeOf (.fence ⟨0, 0⟩) = .syllable .E false ∧ ∃ t, exec (.fence ⟨0, 0⟩) State.reset = .next t := ⟨rfl, _, rfl⟩
theorem meets_FalseGuardNullifies : placeOf (.add ⟨1, 3, 1, 2⟩) = .syllable .S false ∧ ignoresGuard (.add ⟨1, 3, 1, 2⟩) = false
    ∧ State.reset.slotOff (slotOf (.add ⟨1, 3, 1, 2⟩)) (.add ⟨1, 3, 1, 2⟩) = true := by decide +kernel
theorem meets_EveryStepKeepsTheInvariant : State.reset.memOk ∧ State.reset.turnsOk = true
    ∧ ({ State.reset with clk := { State.reset.clk with agenda := [.core 557567] } } : State).turnsOk = true := ⟨rfl, rfl, by decide +kernel⟩
/-- A core about to issue the line's first bundle: core 0 in a mode, its context 0 active, the line fetched and queued. -/
def about (mode : Nat) : State :=
  let l : BitVec 512 := BitVec.ofNat 512 (2 + 0x18042001 * 2 ^ 16)
  let s := withCore fun k => { k with ident := { k.ident with mode := mode }, fetch := { k.fetch with lines := [(0, l)], queue := [⟨0, l, 0, 1, none⟩] } }
  let s := s.modCtx 0 0 fun k => { k with run := { k.run with active := true } }
  { s with clk := { s.clk with agenda := [.core 0] } }
/-- The one bundle of the line. -/
abbrev oneAddi : Bundle := ⟨[], [(1, .addi ⟨0, 2, 2, 1⟩)], []⟩
/-- The state of an attempt at it after its ADDI. -/
def attempted (mode : Nat) : State :=
  let s := turnStart (about mode) 0 []
  ((s.beginIssue 0 0 0 (s.seqNext 0 0) oneAddi).modIss fun k => { k with slot := 1 }).pushS 2 1 0 1
/-- The line of its one bundle. -/
abbrev oneLine : BitVec 512 := BitVec.ofNat 512 (2 + 0x18042001 * 2 ^ 16)
/-- The bundle of one ADDI at address 0 issues. -/
theorem issues_alone (mode : Nat) (h : mode = 0 ∨ mode = 1 ∨ mode = 2) : decodeBundle oneLine 0 = .ok oneAddi
    ∧ attempts (turnStart (about mode) 0 []) 0 0 0 oneAddi (attempted mode) ∧ (attempted mode).iss.faults = []
    ∧ (attempted mode).iss.waits = [] ∧ ((attempted mode).core 0).flying ≤ 64 := by
  refine ⟨by decide +kernel, ?_, ?_⟩ <;> rcases h with rfl | rfl | rfl
  iterate 3
    refine ⟨_, ?_, rfl⟩
    rw [if_neg (by decide +kernel)]
    exact ⟨by decide +kernel, congrArg Host.Outcome.next (by decide +kernel)⟩
  all_goals decide +kernel
/-- Core 0 is to attempt the bundle in its turn, in each mode. -/
theorem attempts_from (mode : Nat) (h : mode = 0 ∨ mode = 1 ∨ mode = 2) :
    attemptsFrom (about mode) (turnStart (about mode) 0 []) 0 0 0 oneLine ∧ runsNow (about mode) 0 := by
  have none_flying : ∀ y, ((about mode).ctx 0 y).inflight = [] := fun y => by cases y <;> rfl
  refine ⟨?_, ?_⟩ <;> rcases h with rfl | rfl | rfl
  · exact .inl ⟨rfl, rfl, ⟨rfl, fun y _ => none_flying y, rfl, rfl, rfl, rfl⟩, ⟨_, [], rfl, by decide, rfl, rfl⟩⟩
  · exact .inr (.inl ⟨.inl rfl, ⟨rfl, fun y _ => none_flying y, rfl, rfl, rfl, rfl⟩, by decide +kernel, by decide +kernel,
      ⟨_, List.mem_singleton.mpr rfl, rfl⟩, by decide +kernel⟩)
  · exact .inr (.inr ⟨rfl, by decide +kernel, none_flying, by decide +kernel, by decide +kernel, ⟨_, List.mem_singleton.mpr rfl, rfl⟩,
      by decide +kernel⟩)
  all_goals exact ⟨rfl, rfl, rfl, rfl, rfl, by decide +kernel, rfl, rfl⟩
theorem is_error {ε α : Type} (x : Except ε α) (h : x.toOption.isNone = true) : ∃ e, x = .error e := by
  cases x
  · exact ⟨_, rfl⟩
  · cases h
/-- The state that an outcome answers, if it is a next state. -/
def nextOf : Host.Outcome State Fault Refusal → Option State
  | .next t => some t
  | .fault _ => none
  | .refused _ => none
theorem answers_next {o : Host.Outcome State Fault Refusal} {t : State} (h : nextOf o = some t) : o = .next t := by
  cases o <;> simp_all [nextOf]
/-- The attempt of a bundle of one slot at address 0 of core 0. -/
theorem attempts_one {s : State} {n : Nat} {i : Instr} {b : Bundle} {t : State} (hb : b.slots = [(n, i)])
    (h : let p := (s.beginIssue 0 0 0 (s.seqNext 0 0) b).modIss fun k => { k with slot := n }
      p.iss.ctx = 0 ∧ (p.core p.iss.core).ident.mode ≠ 2 ∧ nextOf (exec i p) = some t) : attempts s 0 0 0 b t := by
  have hr : runsSlots (s.beginIssue 0 0 0 (s.seqNext 0 0) b) [(n, i)] (s.beginIssue 0 0 0 (s.seqNext 0 0) b) t :=
    ⟨t, by rw [if_neg fun hc => hc.1 h.1]; exact ⟨fun hm => absurd hm h.2.1, answers_next h.2.2⟩, rfl⟩
  unfold attempts
  rw [hb]
  by_cases h0 : n = 0 <;> simpa [h0] using hr
/-- The state in which the tests attempt a bundle, after its one slot. -/
def tried (s : State) (n : Nat) (i : Instr) : State :=
  (nextOf (exec i (((turnStart s 0 []).beginIssue 0 0 0 ((turnStart s 0 []).seqNext 0 0) ⟨[], [(n, i)], []⟩).modIss fun k =>
    { k with slot := n }))).getD State.reset
/-- A TRET at level U faults, a WAITB whose phase is not reached waits, and a bundle with an undefined header does not decode. -/
theorem meets_StepRunsTheDecodedInstruction :
    (∀ m ∈ [0, 1, 2], (about m).clk.agenda = .core 0 :: [] ∧ 0 < packages * 512)
    ∧ (∀ e ∈ State.reset.cores, e.2.snap = none ∧ e.2.inits = []) ∧ State.reset.clk.agenda = []
    ∧ (∃ f, decodeBundle (BitVec.ofNat 512 0xFFFF) 0 = .error f)
    ∧ (∃ t, attempts (turnStart atU 0 []) 0 0 0 ⟨[], [(0, .tret ⟨0⟩)], []⟩ t ∧ t.iss.faults ≠ [])
    ∧ (∃ t, attempts (turnStart State.reset 0 []) 0 0 0 ⟨[], [(7, .waitb ⟨0, 0, 1⟩)], []⟩ t ∧ t.iss.faults = [] ∧ t.iss.waits ≠ []
      ∧ (∀ y ∈ t.iss.waits, isHold y = false) ∧ (t.core 0).flying + t.withheld [(7, .waitb ⟨0, 0, 1⟩)] ≤ 64) := by
  refine ⟨by decide +kernel, by decide +kernel, rfl, is_error _ (by decide +kernel), ⟨tried atU 0 (.tret ⟨0⟩), attempts_one rfl ?_, ?_⟩,
    ⟨tried State.reset 7 (.waitb ⟨0, 0, 1⟩), attempts_one rfl ?_, ?_⟩⟩
  all_goals decide +kernel
theorem beating_args (l : List Nat) (a b : Nat) (k : Option (BitVec 256)) : (beating l a b k).clk.args = l := rfl
/-- A heartbeat of counter 1 with its code under the key 0. -/
def goodBeat : Nat := 1 + 2 ^ 64 * leNum ((hmac (keyBytes 0) (leBytes 8 1)).take 8)
theorem goodBeat_ok : (((beating [0, 0, goodBeat] 0 0 (some 0)).part 0 0).sec.hbkey == some 0
    && decide (((beating [0, 0, goodBeat] 0 0 (some 0)).part 0 0).ctl.lastCtr < goodBeat % 2 ^ 64)
    && leNum ((hmac (keyBytes 0) (leBytes 8 (goodBeat % 2 ^ 64))).take 8) == bits goodBeat 64 64) = true := by decide +kernel
/-- R397: a heartbeat of counter 1 that carries the code of its key. -/
theorem meets_heartbeat : (beating [0, 0, goodBeat] 0 0 (some 0)).clk.args = [0, 0, goodBeat]
    ∧ ((beating [0, 0, goodBeat] 0 0 (some 0)).part 0 0).sec.hbkey = some 0
    ∧ ((beating [0, 0, goodBeat] 0 0 (some 0)).part 0 0).ctl.lastCtr < goodBeat % 2 ^ 64
    ∧ leNum ((hmac (keyBytes 0) (leBytes 8 (goodBeat % 2 ^ 64))).take 8) = bits goodBeat 64 64 := by
  have h := goodBeat_ok
  rw [Bool.and_eq_true, Bool.and_eq_true] at h
  exact ⟨beating_args _ _ _ _, eq_of_beq h.1.1, of_decide_eq_true h.1.2, eq_of_beq h.2⟩
/-- A blob for model slot 0 whose sender's point is the base point, under the partition's scalar 1: 32 zero bytes, sealed. -/
def blob : List Nat :=
  sealedBlob { Part.reset.sec with ecdh := 1 } (List.replicate 8 0) (pPublic 1) (List.replicate 12 0) (List.replicate 4 0)
    (List.replicate 32 0) (List.replicate 8 0)
/-- R394: a blob that is well formed. -/
theorem meets_keyload : blob.length = 144 ∧ leNum (blob.take 8) < 2 ^ 6 ∧ leNum ((blob.drop 84).take 4) = 0 ∧ leNum (blob.drop 136) = 0 := by
  have h := sealedBlob_fields { Part.reset.sec with ecdh := 1 } (List.replicate 8 0) (pPublic 1) (List.replicate 12 0)
    (List.replicate 4 0) (List.replicate 32 0) (List.replicate 8 0) rfl (pPublic_length 1) rfl rfl rfl
  unfold blob
  rw [h.1, h.2.1, h.2.2.1, h.2.2.2]
  decide
/-- R394: its tag verifies. -/
theorem meets_keyload_tag : unwrap { Part.reset.sec with ecdh := 1 } blob = some (List.replicate 32 0) :=
  unwrap_sealed _ _ _ _ _ _ _ rfl (pPublic_length 1) rfl rfl rfl
/-- R394: a blob whose tag does not verify. -/
theorem meets_keyload_bad_tag : unwrap Part.reset.sec (List.replicate 144 0) = none := by decide +kernel
/-- FIPS 180-4: the digest of the empty message, and of "abc". -/
theorem test_sha256 : leNum (sha256 [0x61, 0x62, 0x63]) % 2 ^ 64 = 0xeacf018fbf1678ba
    ∧ leNum (sha256 []) % 2 ^ 64 = 0x141cfc9842c4b0e3 := by decide +kernel

/-! ### Single steps, with results from the rules -/

/-- What a meaning sends on its way from a state: register, value and boundaries, with the lanes it writes left out. -/
def sent (i : Instr) (s : State) : List (RegName × VecWord × Nat) :=
  match exec i s with
  | .next t => (t.ctx t.iss.core t.iss.ctx).inflight.map fun r => (r.reg, r.val, r.rem)
  | _ => []
/-- The causes a meaning raises in a state, each with its TVAL. -/
def raised (i : Instr) (s : State) : List (Nat × Word) :=
  match exec i s with
  | .next t => t.iss.faults.map fun e => (e.code, e.tval)
  | _ => []
/-- R61, R142: addition wraps. -/
theorem test_add_wraps : sent (.add ⟨0, 3, 1, 2⟩) (reg 2 1 (reg 1 (2 ^ 64 - 1))) = [(.s 3, 0, 1)] := by decide +kernel
/-- R62: -2^63 divided by -1 is -2^63, with remainder 0. -/
theorem test_div_overflow : sent (.div ⟨0, 3, 1, 2, 0⟩) (reg 2 (2 ^ 64 - 1) (reg 1 (2 ^ 63))) = [(.s 3, BitVec.ofNat 2048 (2 ^ 63), 16)]
    ∧ sent (.rem ⟨0, 3, 1, 2, 0⟩) (reg 2 (2 ^ 64 - 1) (reg 1 (2 ^ 63))) = [(.s 3, 0, 16)] := by decide +kernel
/-- R142: MULH of -1 and -1, signed and unsigned. -/
theorem test_mulh : sent (.mulh ⟨0, 3, 1, 1, 0⟩) (reg 1 (2 ^ 64 - 1)) = [(.s 3, 0, 3)]
    ∧ sent (.mulh ⟨0, 3, 1, 1, 1⟩) (reg 1 (2 ^ 64 - 1)) = [(.s 3, BitVec.ofNat 2048 (2 ^ 64 - 2), 3)] := by decide +kernel
/-- R144: MOVI.HI keeps the lower word of its destination. -/
theorem test_movi_hi : sent (.moviHi ⟨0, 1, 5⟩) (reg 1 7) = [(.s 1, BitVec.ofNat 2048 (5 * 2 ^ 32 + 7), 1)] := by decide +kernel
/-- R68, R150: 1.0 + 2^-24 is a tie, which rounds to even. -/
theorem test_fadd_tie : sent (.fadd ⟨0, 3, 1, 2, 0, 0, 0⟩) (reg 2 0x33800000 (reg 1 0x3F800000)) = [(.s 3, 0x3F800000, 4)] := by decide +kernel
/-- R65, R151: 448 is the largest E4M3, 0x7E. -/
theorem test_fcvt_e4m3 : sent (.fcvt ⟨0, 3, 1, 4, 1, 0, 0, 0⟩) (reg 1 0x43E00000) = [(.s 3, 0x7E, 4)] := by decide +kernel
/-- R129's table: the limit of TAGLIMIT after reset. -/
theorem test_csrr : sent (.csrr ⟨0, 3, 0x810⟩) State.reset = [(.s 3, 0x100000, 2)] := by decide +kernel
/-- R160: signed saturation of 16-bit elements, 0x7FFF + 0x7FFF. -/
theorem test_vadd_saturates : (sent (.vadd ⟨0, 1, 2, 2, 1, 1, 0⟩) (withCore fun k => { k with v := [(2, 0x7FFF)] })) = [(.v 1, 0x7FFF, 2)] := by decide +kernel
/-- R210: a byte load extends the sign. -/
theorem test_ld_sign : sent (.ld ⟨0, 3, 0, 0, 1, 0, 0, 0⟩) (word (spmAddr 0 0) 0x80) = [(.s 3, BitVec.ofNat 2048 (2 ^ 64 - 0x80), 4)] := by decide +kernel
/-- R207: a word that starts at the scratchpad's last byte. -/
theorem test_ld_range : raised (.ld ⟨0, 3, 1, 3, 0, 0, 0, 0⟩) (reg 1 (2 ^ 20 - 1)) = [(addressRange, BitVec.ofNat 64 (2 ^ 20 - 1))]
    ∧ raised (.ld ⟨0, 3, 1, 3, 0, 0, 0, 0⟩) (reg 1 4) = [(misaligned, 4)] := by decide +kernel
/-- R211, R194: a store sets the tag FULL and writes the bytes little-endian. -/
theorem test_st : (match exec (.st ⟨0, 1, 0, 2, 0, 0, 0, 1⟩) ((reg 1 0x11223344).setTag 0 4 false) with
  | .next t => ([4, 5, 6, 7, 8].map fun a => t.mem.read (spmAddr 0 a), t.tagFull 0 4)
  | _ => ([], false)) = ([0x44, 0x33, 0x22, 0x11, 0], true) := by decide +kernel
/-- R5, R134: at level U a write of a P-view register traps, with the word and the slot in TVAL. -/
theorem test_csrw_privilege : raised (.csrw ⟨0, 1, 0x801⟩) atU = [(privilegeViolation, BitVec.ofNat 64 (encode (.csrw ⟨0, 1, 0x801⟩) * 2 ^ 32))] := by
  decide +kernel
/-- R302's table: INCW and CAS. -/
theorem test_fetch : fetchNew 9 64 5 0 0 = 0 ∧ fetchNew 9 64 5 0 10 = 6 ∧ fetchNew 9 64 10 0 10 = 0 ∧ fetchNew 9 64 12 0 10 = 0
    ∧ fetchNew 11 64 5 9 5 = 9 ∧ fetchNew 11 64 5 9 6 = 5 := by decide
/-- R354: an arrival that reaches the target flips PHASE and starts anew. -/
theorem test_arrive : arriveWords (4 + 3 * 2 ^ 32) 0 1 = (4 + 2 ^ 24, 0, true) := by decide
/-- R374: what a TRAP leaves behind: TPC, TCAUSE with the slot, and the level. -/
theorem test_trap_entry : (let t := (withCore (fun k => { k with csr := { k.csr with tvec := 0x400 } }) atU).takeTrap 0 0 3 0x25 9 0x80
    ((t.ctx 0 0).pc, (t.ctx 0 0).csr.tpc, (t.ctx 0 0).csr.tcause, (t.ctx 0 0).csr.tval, (t.ctx 0 0).csr.ppl, (t.core 0).ident.pl))
      = (0x400, 0x80, 3 * 256 + 0x25, 9, false, true) := by decide +kernel
/-- A table word that is placed where the next step fetches it runs as the first instruction. -/
theorem test_first_step : (match step (State.reset.withFetchWord 32 0x18042001) with
  | .next t => ((t.ctx 0 0).s, (t.ctx 0 0).pc)
  | _ => ([], 0)) = ([(2, 1)], 6) := by decide +kernel
/-- R216's example: 64 words of bank 0 take 64 passes, in which bank 0 is in use and bank 1 is not. -/
theorem test_bank_passes :
    let l := (List.range 64).map fun k => 512 + 32 * k
    bankInUse l 63 0 = true ∧ bankInUse l 64 0 = false ∧ bankInUse l 0 1 = false
      ∧ passes ((List.range 64).map fun k => (k, 4096 + 256 * k)) = 64 := by decide +kernel
/-- A byte that the operation's own bundle changed from 3 to 5 is read as 3 until another write, of 5 again, follows
(R100, R256). -/
theorem test_own_store_hidden :
    let b : Issuer := ⟨some 0, 0, 0, 0, 0, 0, [⟨16, 3, 5, 1⟩], []⟩
    let a := spmAddr 0 16
    let m := State.reset.mem.writeN a 1 5
    (b.sees [(a, 1)] m).readN a 1 = 3 ∧ (b.sees (rewrote [(a, 1)] a 1) m).readN a 1 = 5 := by decide +kernel
/-- From reset every step of an idle network goes on. -/
theorem test_idle : State.reset.turnsOk = true ∧ State.reset.mem.wf = true := by decide +kernel

end Sys2Proof.Tests
end

section
namespace Sys2Proof.Machine

/-- The invariant of a step: the memory is in its canonical form, and every turn left names a core of the network. -/
def State.sound (s : State) : Prop := s.memOk ∧ s.turnsOk = true
/-- A meaning answers a next state, and a sound one. -/
def Out.sound (o : Out) : Prop := ∃ t, o = .next t ∧ t.sound

/-- What an attempt commits is sound. -/
def Attempt.sound : Attempt → Prop
  | .go t => t.sound
  | _ => True
/-- Every turn that a list of due turns holds names a core of the network. -/
def duesOk (l : List Due) : Prop := ∀ e ∈ l, e.2.ok = true

namespace State
variable {s : State}

theorem mk_sound {clk : Clock} {m : Memory} {tags : List ℕ} {cores : Tab Core} {clusters : Tab Cluster} {dies : Tab Die}
    {pkgs : Tab Pkg} {net : Net} {iss : Issue} {watch : Tab ℕ} (hm : m.wf = true) (ht : clk.agenda.all Turn.ok = true) :
    State.sound ⟨clk, m, tags, cores, clusters, dies, pkgs, net, iss, watch⟩ := ⟨hm, ht⟩
theorem next_sound (h : s.sound) : Out.sound (.next s) := ⟨s, rfl, h⟩
theorem ite_sound {t : State} {p : Prop} [Decidable p] (h : s.sound) (ht : t.sound) : (if p then s else t).sound := by
  split <;> assumption
theorem foldl_sound {α : Type} {f : State → α → State} {l : List α} (h : s.sound)
    (hf : ∀ {t a}, t.sound → (f t a).sound) : (l.foldl f s).sound :=
  l.foldlRecOn f h fun _ ht _ _ => hf ht
theorem elim_sound {α : Type} {f : α → State} {o : Option α} (h : s.sound) (hf : ∀ {a}, (f a).sound) :
    (o.elim s f).sound := by
  cases o with
  | none => exact h
  | some => exact hf
theorem Out.ite_sound {a b : Out} {p : Prop} [Decidable p] (ha : a.sound) (hb : b.sound) :
    Out.sound (if p then a else b) := by
  split <;> assumption
/-- Stated once, so that no later check of types computes the pair to see its first part. -/
theorem pair_sound {α : Type} {e : α} (h : s.sound) : (s, e).1.sound := h
theorem fst_ite {α : Type} {a b : State × α} {p : Prop} [Decidable p] (ha : a.1.sound) (hb : b.1.sound) :
    (if p then a else b).1.sound := by
  split <;> assumption
theorem snd_ite {α : Type} {a b : α × State} {p : Prop} [Decidable p] (ha : a.2.sound) (hb : b.2.sound) :
    (if p then a else b).2.sound := by
  split <;> assumption
theorem fst_foldl {α β : Type} {f : State × β → α → State × β} {l : List α} {b : β} (h : s.sound)
    (hf : ∀ {a x}, a.1.sound → (f a x).1.sound) : (l.foldl f (s, b)).1.sound :=
  l.foldlRecOn f (motive := fun a => a.1.sound) h fun _ ha _ _ => hf ha
variable {a addr c cl code core d die dst g i idx k lat n node num off op opId p part pi pkg q src time v val w who x
  : ℕ} {s : State} {b : Issuer}

/-! ### Machine/Ops -/

theorem modCore_sound {f : Core → Core} (h : s.sound) : (s.modCore c f).sound := h
theorem modCtx_sound {f : Machine.Ctx → Machine.Ctx} (h : s.sound) : (s.modCtx c x f).sound := h
theorem modCluster_sound {f : Cluster → Cluster} (h : s.sound) : (s.modCluster c f).sound := h
theorem modDie_sound {f : Die → Die} (h : s.sound) : (s.modDie d f).sound := h
theorem modSched_sound {f : Sched → Sched} (h : s.sound) : (s.modSched d f).sound := h
theorem modPkg_sound {f : Pkg → Pkg} (h : s.sound) : (s.modPkg p f).sound := h
theorem modPart_sound {f : Machine.Part → Machine.Part} (h : s.sound) : (s.modPart p n f).sound := h
theorem draw_sound (h : s.sound) : s.draw.2.sound := h
theorem newOp_sound (h : s.sound) : s.newOp.2.sound := h
theorem endOp_sound (h : s.sound) : (s.endOp i).sound := h
theorem modIss_sound {f : Issue → Issue} (h : s.sound) : (s.modIss f).sound := h
theorem setTag_sound {full : Bool} (h : s.sound) : (s.setTag core off full).sound := h
theorem setTags_sound {full : Bool} (h : s.sound) : (s.setTags core off full n).sound := by
  induction n with
  | zero => exact h
  | succ n ih => exact setTag_sound ih
theorem fillTags_sound (h : s.sound) : (s.fillTags core off n).sound := ite_sound h (setTags_sound h)
theorem fault_sound {tval : Word} (h : s.sound) : (s.fault code tval).sound := h
theorem await_sound {key : ℕ} {tval : Word} {limit : Option ℕ} (h : s.sound) : (s.await key code tval limit).sound := h
theorem pushS_sound {v : Word} {flags : BitVec 5} (h : s.sound) : (s.pushS n v flags lat).sound := h
theorem pushP_sound {v : BitVec 64} {flags : BitVec 5} (h : s.sound) : (s.pushP n v flags lat).sound := h
theorem mature_sound {l : List Result} {exposed : Bool} (h : s.sound) : (s.mature c x l exposed).sound := ite_sound h h
theorem dueArrivals_sound {l : List Result} (h : s.sound) : (s.dueArrivals c l).sound := h
theorem engineFault_sound {unit bar detail : ℕ} (h : s.sound) :
    (s.engineFault die unit code node core bar addr detail).sound := h
theorem modNode_sound {f : NodeEnt → NodeEnt} (h : s.sound) : (s.modNode die idx f).sound := h
theorem coreFault_sound {unit bar detail : ℕ} (h : s.sound) : (s.coreFault die unit code core bar addr detail).sound :=
  ite_sound h h
theorem killCore_sound (h : s.sound) : (s.killCore c).sound := by
  unfold State.killCore
  exact modCore_sound (foldl_sound h id)
theorem stopNode_sound (h : s.sound) : (s.stopNode die idx).sound := by
  unfold State.stopNode
  dsimp only
  split
  · exact h
  · exact ite_sound h (foldl_sound (foldl_sound (foldl_sound h id) killCore_sound) id)
theorem doubleTrap_sound {loc : ℕ} (h : s.sound) : (s.doubleTrap c loc code).sound :=
  ite_sound (stopNode_sound h) (modCore_sound (killCore_sound h))
theorem reflight_sound (h : s.sound) : (s.reflight c x).sound := by
  unfold State.reflight
  dsimp only
  split
  · exact h
  · exact ite_sound h h
theorem enterHandler_sound {loc : ℕ} {tval : Word} {tpc : ℕ} (h : s.sound) :
    (s.enterHandler c x loc code tval tpc).sound := modCore_sound (modCtx_sound (reflight_sound h))
theorem takeTrap_sound {loc : ℕ} {tval : Word} {tpc : ℕ} (h : s.sound) : (s.takeTrap c x loc code tval tpc).sound :=
  ite_sound (doubleTrap_sound h) (enterHandler_sound h)
theorem returnTrap_sound (h : s.sound) : (s.returnTrap c x).sound := h

/-! ### Machine/Operands -/

theorem guarded_sound {k : State → State} (h : s.sound) (hk : ∀ {t}, t.sound → (k t).sound) :
    (s.guarded g k).sound := ite_sound (hk h) h
theorem masked_sound {k : BitVec 64 → State → State} (h : s.sound) (hk : ∀ {a t}, t.sound → (k a t).sound) :
    (s.masked g k).sound := ite_sound h (hk h)
theorem modStream_sound {f : Machine.Stream → Machine.Stream} (h : s.sound) : (s.modStream c n f).sound := h
theorem pop_sound (h : s.sound) : (s.pop n).1.sound := by
  unfold State.pop
  refine fst_ite h ?_
  split
  · exact h
  · exact fst_ite h h
theorem vecOperands_sound {regs : List ℕ} (h : s.sound) : (s.vecOperands regs).1.sound := by
  induction regs with
  | nil => exact h
  | cons n l ih =>
    unfold State.vecOperands
    exact fst_ite ih (fst_ite (pop_sound ih) ih)
theorem pushStream_sound {v : VecWord} {mask : BitVec 64} {flags : BitVec 5} (h : s.sound) :
    (s.pushStream k v mask flags lat).sound := h
theorem pushV_sound {v : VecWord} {mask : BitVec 64} {flags : BitVec 5} (h : s.sound) :
    (s.pushV n v mask flags lat).sound := ite_sound (pushStream_sound (ite_sound h h)) h
theorem pushOp_sound {r : Result} (h : s.sound) : (s.pushOp r).2.sound := snd_ite h h
theorem streamPush_sound {r : Result} (h : s.sound) : (s.streamPush c n r).sound := by
  unfold State.streamPush
  extract_lets k t x s1 data e s2
  have h1 : s1.sound := pushOp_sound h
  exact ite_sound (endOp_sound (modStream_sound h1))
    (ite_sound (endOp_sound (modStream_sound h1)) (modStream_sound (modStream_sound h1)))
theorem pushResultOut_sound {r : Result} (h : s.sound) : (s.pushResultOut c r).sound :=
  elim_sound h (streamPush_sound h)
theorem visible_sound {l : List Result} (h : s.sound) : (s.visible c x l).sound :=
  foldl_sound (dueArrivals_sound (mature_sound h)) pushResultOut_sound
theorem matureNow_sound (h : s.sound) : (s.matureNow c x).sound := mature_sound h
theorem tickExposed_sound (h : s.sound) : (s.tickExposed c x).sound := matureNow_sound h
theorem landOne_sound {r : Result} (h : s.sound) : (s.landOne c x r).sound := ite_sound (pushResultOut_sound h) h
theorem landAll_sound (h : s.sound) : (s.landAll c x).sound := foldl_sound h landOne_sound
theorem tickStrand_sound (h : s.sound) : (s.tickStrand c x).sound := visible_sound h

/-! ### Machine/Csr -/

theorem resetCore_sound (h : s.sound) : (s.resetCore c).sound := modCore_sound (mk_sound (Memory.wf_zero h.1 ..) h.2)
theorem writeCoreMap_sound (h : s.sound) : (s.writeCoreMap cl v).sound := ite_sound h (foldl_sound h resetCore_sound)
theorem writeCsr_sound {v : Word} (h : s.sound) : (s.writeCsr c x n v).sound := by
  unfold State.writeCsr
  extract_lets w ctx core
  split
  case h_13 => exact writeCoreMap_sound h
  all_goals exact h

/-! ### Machine/Scalar -/

theorem scalarOp_sound {v : State → Word} (h : s.sound) : (scalarOp s g d lat v).sound :=
  next_sound (guarded_sound h id)
theorem scalarBin_sound {f : FmtSR} {op : Word → Word → Word} (h : s.sound) : (scalarBin s f lat op).sound :=
  scalarOp_sound h
theorem scalarImm_sound {imm : Word} {op : Word → Word → Word} (h : s.sound) : (scalarImm s g d a imm op).sound :=
  scalarOp_sound h
theorem execAdd_sound {f : FmtSR} (h : s.sound) : (execAdd f s).sound := scalarBin_sound h
theorem execSub_sound {f : FmtSR} (h : s.sound) : (execSub f s).sound := scalarBin_sound h
theorem execMul_sound {f : FmtSR} (h : s.sound) : (execMul f s).sound := scalarBin_sound h
theorem execMulh_sound {f : FmtSRU} (h : s.sound) : (execMulh f s).sound := scalarOp_sound h
theorem execDiv_sound {f : FmtSRU} (h : s.sound) : (execDiv f s).sound := scalarOp_sound h
theorem execRem_sound {f : FmtSRU} (h : s.sound) : (execRem f s).sound := scalarOp_sound h
theorem execAnd_sound {f : FmtSR} (h : s.sound) : (execAnd f s).sound := scalarBin_sound h
theorem execOr_sound {f : FmtSR} (h : s.sound) : (execOr f s).sound := scalarBin_sound h
theorem execXor_sound {f : FmtSR} (h : s.sound) : (execXor f s).sound := scalarBin_sound h
theorem execShl_sound {f : FmtSR} (h : s.sound) : (execShl f s).sound := scalarBin_sound h
theorem execShr_sound {f : FmtSR} (h : s.sound) : (execShr f s).sound := scalarBin_sound h
theorem execSar_sound {f : FmtSR} (h : s.sound) : (execSar f s).sound := scalarBin_sound h
theorem execMin_sound {f : FmtSR} (h : s.sound) : (execMin f s).sound := scalarBin_sound h
theorem execMax_sound {f : FmtSR} (h : s.sound) : (execMax f s).sound := scalarBin_sound h
theorem execUmin_sound {f : FmtSR} (h : s.sound) : (execUmin f s).sound := scalarBin_sound h
theorem execUmax_sound {f : FmtSR} (h : s.sound) : (execUmax f s).sound := scalarBin_sound h
theorem execClz_sound {f : FmtS1} (h : s.sound) : (execClz f s).sound := scalarOp_sound h
theorem execPopc_sound {f : FmtS1} (h : s.sound) : (execPopc f s).sound := scalarOp_sound h
theorem execAddi_sound {f : FmtSI} (h : s.sound) : (execAddi f s).sound := scalarImm_sound h
theorem execAddiWide_sound {f : FmtSIW} (h : s.sound) : (execAddiWide f s).sound := scalarImm_sound h
theorem execAndi_sound {f : FmtSI} (h : s.sound) : (execAndi f s).sound := scalarImm_sound h
theorem execAndiWide_sound {f : FmtSIW} (h : s.sound) : (execAndiWide f s).sound := scalarImm_sound h
theorem execOri_sound {f : FmtSI} (h : s.sound) : (execOri f s).sound := scalarImm_sound h
theorem execOriWide_sound {f : FmtSIW} (h : s.sound) : (execOriWide f s).sound := scalarImm_sound h
theorem execXori_sound {f : FmtSI} (h : s.sound) : (execXori f s).sound := scalarImm_sound h
theorem execXoriWide_sound {f : FmtSIW} (h : s.sound) : (execXoriWide f s).sound := scalarImm_sound h
theorem execShli_sound {f : FmtSH} (h : s.sound) : (execShli f s).sound := scalarOp_sound h
theorem execShri_sound {f : FmtSH} (h : s.sound) : (execShri f s).sound := scalarOp_sound h
theorem execSari_sound {f : FmtSH} (h : s.sound) : (execSari f s).sound := scalarOp_sound h
theorem execMovi_sound {f : FmtSL} (h : s.sound) : (execMovi f s).sound := scalarOp_sound h
theorem execMoviWide_sound {f : FmtSLW} (h : s.sound) : (execMoviWide f s).sound := scalarOp_sound h
theorem execMoviHi_sound {f : FmtSLH} (h : s.sound) : (execMoviHi f s).sound := scalarOp_sound h
theorem execSel_sound {f : FmtSS} (h : s.sound) : (execSel f s).sound := scalarOp_sound h
theorem execCmp_sound {f : FmtSC} (h : s.sound) : (execCmp f s).sound :=
  next_sound (guarded_sound h fun ht => ite_sound ht ht)
theorem execCmpi_sound {f : FmtSK} (h : s.sound) : (execCmpi f s).sound := next_sound (guarded_sound h id)
theorem execCmpiWide_sound {f : FmtSKW} (h : s.sound) : (execCmpiWide f s).sound := next_sound (guarded_sound h id)
theorem execFadd_sound {f : FmtSF} (h : s.sound) : (execFadd f s).sound := next_sound (guarded_sound h id)
theorem execFaddWide_sound {f : FmtSFW} (h : s.sound) : (execFaddWide f s).sound := next_sound (guarded_sound h id)
theorem execFmul_sound {f : FmtSF} (h : s.sound) : (execFmul f s).sound := next_sound (guarded_sound h id)
theorem execFmulWide_sound {f : FmtSFW} (h : s.sound) : (execFmulWide f s).sound := next_sound (guarded_sound h id)
theorem execFfma_sound {f : FmtSF} (h : s.sound) : (execFfma f s).sound := next_sound (guarded_sound h id)
theorem execFfmaWide_sound {f : FmtSFW} (h : s.sound) : (execFfmaWide f s).sound := next_sound (guarded_sound h id)
theorem execFcvt_sound {f : FmtSV} (h : s.sound) : (execFcvt f s).sound := next_sound (guarded_sound h id)
theorem execFcvtWide_sound {f : FmtSVW} (h : s.sound) : (execFcvtWide f s).sound := next_sound (guarded_sound h id)
theorem execCsrr_sound {f : FmtSX} (h : s.sound) : (execCsrr f s).sound := next_sound (guarded_sound h id)
theorem execCsrw_sound {f : FmtSX} (h : s.sound) : (execCsrw f s).sound :=
  next_sound (guarded_sound h fun ht => ite_sound ht (ite_sound ht (modIss_sound (ite_sound ht ht))))
theorem execMovm_sound {f : FmtSM} (h : s.sound) : (execMovm f s).sound :=
  next_sound (guarded_sound h fun ht => ite_sound ht ht)

/-! ### Machine/Vector -/

theorem vecOp_sound {regs : List ℕ} {f : State → (ℕ → VecWord) → ℕ → ℕ × BitVec 5} (h : s.sound) :
    (vecOp s g d lat w regs f).sound := next_sound (masked_sound h fun ht => pushV_sound (vecOperands_sound ht))
theorem vecInt_sound {f : FmtVI} {op : ℕ → ℕ → ℕ → ℕ} (h : s.sound) : (vecInt s f op).sound := by
  unfold vecInt
  exact vecOp_sound h
theorem vecIntW_sound {f : FmtVIW} {op : ℕ → ℕ → ℕ → ℕ} (h : s.sound) : (vecIntW s f op).sound := by
  unfold vecIntW
  exact vecOp_sound h
theorem execVadd_sound {f : FmtVI} (h : s.sound) : (execVadd f s).sound := vecInt_sound h
theorem execVaddWide_sound {f : FmtVIW} (h : s.sound) : (execVaddWide f s).sound := vecIntW_sound h
theorem execVsub_sound {f : FmtVI} (h : s.sound) : (execVsub f s).sound := vecInt_sound h
theorem execVsubWide_sound {f : FmtVIW} (h : s.sound) : (execVsubWide f s).sound := vecIntW_sound h
theorem execVmul_sound {f : FmtVI} (h : s.sound) : (execVmul f s).sound := vecInt_sound h
theorem execVmulWide_sound {f : FmtVIW} (h : s.sound) : (execVmulWide f s).sound := vecIntW_sound h
theorem execVmin_sound {f : FmtVI} (h : s.sound) : (execVmin f s).sound := vecInt_sound h
theorem execVminWide_sound {f : FmtVIW} (h : s.sound) : (execVminWide f s).sound := vecIntW_sound h
theorem execVmax_sound {f : FmtVI} (h : s.sound) : (execVmax f s).sound := vecInt_sound h
theorem execVmaxWide_sound {f : FmtVIW} (h : s.sound) : (execVmaxWide f s).sound := vecIntW_sound h
theorem execVand_sound {f : FmtVI} (h : s.sound) : (execVand f s).sound := vecInt_sound h
theorem execVandWide_sound {f : FmtVIW} (h : s.sound) : (execVandWide f s).sound := vecIntW_sound h
theorem execVor_sound {f : FmtVI} (h : s.sound) : (execVor f s).sound := vecInt_sound h
theorem execVorWide_sound {f : FmtVIW} (h : s.sound) : (execVorWide f s).sound := vecIntW_sound h
theorem execVxor_sound {f : FmtVI} (h : s.sound) : (execVxor f s).sound := vecInt_sound h
theorem execVxorWide_sound {f : FmtVIW} (h : s.sound) : (execVxorWide f s).sound := vecIntW_sound h
theorem execVshl_sound {f : FmtVI} (h : s.sound) : (execVshl f s).sound := vecInt_sound h
theorem execVshlWide_sound {f : FmtVIW} (h : s.sound) : (execVshlWide f s).sound := vecIntW_sound h
theorem execVshr_sound {f : FmtVI} (h : s.sound) : (execVshr f s).sound := vecInt_sound h
theorem execVshrWide_sound {f : FmtVIW} (h : s.sound) : (execVshrWide f s).sound := vecIntW_sound h
theorem execVsar_sound {f : FmtVI} (h : s.sound) : (execVsar f s).sound := vecInt_sound h
theorem execVsarWide_sound {f : FmtVIW} (h : s.sound) : (execVsarWide f s).sound := vecIntW_sound h
theorem vecFp_sound {f : FmtVF} {op : FpFmt → ℕ → Bool → FpVal → FpVal → ℕ × BitVec 5} (h : s.sound) :
    (vecFp s f op).sound := by
  unfold vecFp
  exact vecOp_sound h
theorem vecFpW_sound {f : FmtVFW} {op : FpFmt → ℕ → Bool → FpVal → FpVal → ℕ × BitVec 5} (h : s.sound) :
    (vecFpW s f op).sound := by
  unfold vecFpW
  exact vecOp_sound h
theorem execVaddF_sound {f : FmtVF} (h : s.sound) : (execVaddF f s).sound := vecFp_sound h
theorem execVaddFWide_sound {f : FmtVFW} (h : s.sound) : (execVaddFWide f s).sound := vecFpW_sound h
theorem execVsubF_sound {f : FmtVF} (h : s.sound) : (execVsubF f s).sound := vecFp_sound h
theorem execVsubFWide_sound {f : FmtVFW} (h : s.sound) : (execVsubFWide f s).sound := vecFpW_sound h
theorem execVmulF_sound {f : FmtVF} (h : s.sound) : (execVmulF f s).sound := vecFp_sound h
theorem execVmulFWide_sound {f : FmtVFW} (h : s.sound) : (execVmulFWide f s).sound := vecFpW_sound h
theorem execVminF_sound {f : FmtVF} (h : s.sound) : (execVminF f s).sound := vecFp_sound h
theorem execVminFWide_sound {f : FmtVFW} (h : s.sound) : (execVminFWide f s).sound := vecFpW_sound h
theorem execVmaxF_sound {f : FmtVF} (h : s.sound) : (execVmaxF f s).sound := vecFp_sound h
theorem execVmaxFWide_sound {f : FmtVFW} (h : s.sound) : (execVmaxFWide f s).sound := vecFpW_sound h
theorem execVfma_sound {f : FmtVF} (h : s.sound) : (execVfma f s).sound := by
  unfold execVfma
  exact vecOp_sound h
theorem execVfmaWide_sound {f : FmtVFW} (h : s.sound) : (execVfmaWide f s).sound := by
  unfold execVfmaWide
  exact vecOp_sound h
theorem vecFn_sound {t fzi fzo rmo : ℕ} {op : FpFmt → ℕ → Bool → FpVal → ℕ × BitVec 5} (h : s.sound) :
    (vecFn s g d a t fzi fzo rmo op).sound := by
  unfold vecFn
  exact vecOp_sound h
theorem execVexp2_sound {f : FmtVF} (h : s.sound) : (execVexp2 f s).sound := vecFn_sound h
theorem execVexp2Wide_sound {f : FmtVFW} (h : s.sound) : (execVexp2Wide f s).sound := vecFn_sound h
theorem execVlog2_sound {f : FmtVF} (h : s.sound) : (execVlog2 f s).sound := vecFn_sound h
theorem execVlog2Wide_sound {f : FmtVFW} (h : s.sound) : (execVlog2Wide f s).sound := vecFn_sound h
theorem execVrcp_sound {f : FmtVF} (h : s.sound) : (execVrcp f s).sound := vecFn_sound h
theorem execVrcpWide_sound {f : FmtVFW} (h : s.sound) : (execVrcpWide f s).sound := vecFn_sound h
theorem execVrsq_sound {f : FmtVF} (h : s.sound) : (execVrsq f s).sound := vecFn_sound h
theorem execVrsqWide_sound {f : FmtVFW} (h : s.sound) : (execVrsqWide f s).sound := vecFn_sound h
theorem execVcmp_sound {f : FmtVC} (h : s.sound) : (execVcmp f s).sound :=
  next_sound (masked_sound h fun ht => pushP_sound (vecOperands_sound ht))
theorem execVsel_sound {f : FmtVS} (h : s.sound) : (execVsel f s).sound := vecOp_sound h
theorem execVselWide_sound {f : FmtVSW} (h : s.sound) : (execVselWide f s).sound := vecOp_sound h
theorem vecConvert_sound {df sf fzi fzo rmo : ℕ} {u sat : Bool} (h : s.sound) :
    (vecConvert s g d a df sf part fzi fzo rmo u sat).sound :=
  next_sound (masked_sound h fun ht => pushV_sound (vecOperands_sound ht))
theorem execVcvt_sound {f : FmtVV} (h : s.sound) : (execVcvt f s).sound := vecConvert_sound h
theorem execVcvtWide_sound {f : FmtVVW} (h : s.sound) : (execVcvtWide f s).sound := vecConvert_sound h
theorem wholeResult_sound {f : State → BitVec 64 → VecWord → VecWord × BitVec 5} (h : s.sound) :
    (wholeResult s g d a lat f).sound :=
  Out.ite_sound (Out.ite_sound (next_sound h) (next_sound (pushV_sound h)))
    (next_sound (pushV_sound (vecOperands_sound h)))
theorem vecReduce_sound {fm kind fzi fzo rmo : ℕ} (h : s.sound) : (vecReduce s g d a fm kind fzi fzo rmo).sound :=
  wholeResult_sound h
theorem execVsum_sound {f : FmtVR} (h : s.sound) : (execVsum f s).sound := vecReduce_sound h
theorem execVsumWide_sound {f : FmtVRW} (h : s.sound) : (execVsumWide f s).sound := vecReduce_sound h
theorem execVmaxr_sound {f : FmtVR} (h : s.sound) : (execVmaxr f s).sound := vecReduce_sound h
theorem execVmaxrWide_sound {f : FmtVRW} (h : s.sound) : (execVmaxrWide f s).sound := vecReduce_sound h
theorem vecScan_sound {fm excl fzi fzo rmo : ℕ} (h : s.sound) : (vecScan s g d a fm excl fzi fzo rmo).sound :=
  wholeResult_sound h
theorem execVscan_sound {f : FmtVR} (h : s.sound) : (execVscan f s).sound := vecScan_sound h
theorem execVscanWide_sound {f : FmtVRW} (h : s.sound) : (execVscanWide f s).sound := vecScan_sound h
theorem execVperm_sound {f : FmtVP} (h : s.sound) : (execVperm f s).sound := by
  unfold execVperm
  exact vecOp_sound h
theorem execVbcast_sound {f : FmtVB} (h : s.sound) : (execVbcast f s).sound := by
  unfold execVbcast
  exact vecOp_sound h
theorem execVlane_sound {f : FmtVL} (h : s.sound) : (execVlane f s).sound :=
  next_sound
    (masked_sound h fun ht => ite_sound (ite_sound (pushS_sound (vecOperands_sound ht)) (vecOperands_sound ht))
      (pushV_sound ht))
theorem execVcmpr_sound {f : FmtVM} (h : s.sound) : (execVcmpr f s).sound := by
  unfold execVcmpr
  extract_lets m t w r el keep vals idx nv put
  have hput {t d v fl} (ht : t.sound) : (put t d v fl).sound := ite_sound ht (pushV_sound ht)
  exact next_sound (hput (hput (fst_ite h (vecOperands_sound h))))
theorem execVhash_sound {f : FmtVH} (h : s.sound) : (execVhash f s).sound := vecOp_sound h
theorem execVhashWide_sound {f : FmtVHW} (h : s.sound) : (execVhashWide f s).sound := vecOp_sound h
theorem execVvote_sound {f : FmtVO} (h : s.sound) : (execVvote f s).sound := next_sound h
theorem predOp_sound {v : State → BitVec 64} (h : s.sound) : (predOp s g d v).sound := next_sound (masked_sound h id)
theorem execPand_sound {f : FmtPL} (h : s.sound) : (execPand f s).sound := predOp_sound h
theorem execPor_sound {f : FmtPL} (h : s.sound) : (execPor f s).sound := predOp_sound h
theorem execPxor_sound {f : FmtPL} (h : s.sound) : (execPxor f s).sound := predOp_sound h
theorem execPnot_sound {f : FmtPU} (h : s.sound) : (execPnot f s).sound := predOp_sound h
theorem execPset_sound {f : FmtPS} (h : s.sound) : (execPset f s).sound := predOp_sound h
theorem execPmov_sound {f : FmtPM} (h : s.sound) : (execPmov f s).sound :=
  Out.ite_sound (predOp_sound h) (Out.ite_sound (predOp_sound h) (next_sound h))
theorem execVpopc_sound {f : FmtVN} (h : s.sound) : (execVpopc f s).sound := next_sound h

/-! ### Machine/MemInstr -/

theorem setHandle_sound {h st : ℕ} (hs : s.sound) : (s.setHandle c h st).sound :=
  mk_sound (Memory.wf_writeN hs.1 ..) hs.2
theorem checkSpm_sound {a lo hi : ℤ} {align : ℕ} (h : s.sound) : (s.checkSpm a lo hi align).1.sound :=
  fst_ite h (fst_ite h h)
theorem formAddr_sound {h b : ℕ} {off lo hi : ℤ} {align : ℕ} (hs : s.sound) :
    (s.formAddr h pi b off lo hi align).1.sound := by
  unfold State.formAddr
  extract_lets base w r
  have hr : r.1.sound := checkSpm_sound hs
  refine fst_ite (checkSpm_sound hs) (fst_ite hs (fst_ite hs ?_))
  split
  · exact hr
  · exact fst_ite (await_sound hr) (fst_ite (modIss_sound hr) hr)
theorem postInc_sound {b : ℕ} {off : ℤ} (h : s.sound) : (s.postInc pi b off).sound := ite_sound h h
theorem awaitTag_sound (h : s.sound) : (s.awaitTag a).sound := h
theorem scalarLoad_sound {b sz h : ℕ} {off : ℤ} {t : TagUse} (hs : s.sound) :
    (scalarLoad s g d b sz x pi h off t).sound := by
  unfold scalarLoad
  refine next_sound (guarded_sound hs fun ht => ?_)
  extract_lets c r
  have hr : r.1.sound := formAddr_sound ht
  split
  · exact hr
  · extract_lets v s1 s2
    have h2 : s2.sound := postInc_sound (pushS_sound hr)
    exact ite_sound (awaitTag_sound hr) (ite_sound (setTag_sound h2) h2)
theorem noteStore_sound (h : s.sound) : (s.noteStore a n).sound := h
theorem scalarStore_sound {b sz h : ℕ} {off : ℤ} {waitEmpty : Bool} (hs : s.sound) :
    (scalarStore s g d b sz pi h off waitEmpty).sound := by
  unfold scalarStore
  refine next_sound (guarded_sound hs fun ht => ?_)
  extract_lets c r
  have hr : r.1.sound := formAddr_sound ht
  split
  · exact hr
  · extract_lets s1
    have h1 : s1.sound := mk_sound (Memory.wf_writeN hr.1 ..) hr.2
    exact ite_sound (awaitTag_sound hr) (postInc_sound (setTag_sound (noteStore_sound h1)))
theorem execLd_sound {f : FmtMS} (h : s.sound) : (execLd f s).sound := scalarLoad_sound h
theorem execLdWide_sound {f : FmtMSW} (h : s.sound) : (execLdWide f s).sound := scalarLoad_sound h
theorem execSt_sound {f : FmtMS} (h : s.sound) : (execSt f s).sound := scalarStore_sound h
theorem execStWide_sound {f : FmtMSW} (h : s.sound) : (execStWide f s).sound := scalarStore_sound h
theorem execLdf_sound {f : FmtMS} (h : s.sound) : (execLdf f s).sound := scalarLoad_sound h
theorem execLdfWide_sound {f : FmtMSW} (h : s.sound) : (execLdfWide f s).sound := scalarLoad_sound h
theorem execLde_sound {f : FmtMS} (h : s.sound) : (execLde f s).sound := scalarLoad_sound h
theorem execLdeWide_sound {f : FmtMSW} (h : s.sound) : (execLdeWide f s).sound := scalarLoad_sound h
theorem execSte_sound {f : FmtMS} (h : s.sound) : (execSte f s).sound := scalarStore_sound h
theorem execSteWide_sound {f : FmtMSW} (h : s.sound) : (execSteWide f s).sound := scalarStore_sound h
theorem tagStep_sound {r : TagRun} (h : s.sound) : (s.tagStep c r).sound := modCore_sound (setTags_sound h)
theorem rangeTag_sound {b : ℕ} {len : State → ℕ} {full : Bool} (h : s.sound) : (rangeTag s g b len full).sound :=
  next_sound
    (guarded_sound h fun ht => ite_sound ht
      (ite_sound ht (ite_sound ht (ite_sound ht (modIss_sound (tagStep_sound ht))))))
theorem execTage_sound {f : FmtMT} (h : s.sound) : (execTage f s).sound := rangeTag_sound h
theorem execTageWide_sound {f : FmtMTW} (h : s.sound) : (execTageWide f s).sound := rangeTag_sound h
theorem execTagf_sound {f : FmtMT} (h : s.sound) : (execTagf f s).sound := rangeTag_sound h
theorem execTagfWide_sound {f : FmtMTW} (h : s.sound) : (execTagfWide f s).sound := rangeTag_sound h
theorem formVec_sound {h b : ℕ} {off : ℤ} {m : BitVec 64} (hs : s.sound) : (s.formVec h pi b off m).1.sound :=
  formAddr_sound hs
theorem fillLanes_sound {a : ℤ} {m : BitVec 64} (h : s.sound) : (s.fillLanes c a m n).sound := by
  induction n with
  | zero => exact h
  | succ n ih => exact ite_sound (setTag_sound ih) ih
theorem vecLoad_sound {b h : ℕ} {off : ℤ} (hs : s.sound) : (vecLoad s g v b pi h off).sound := by
  unfold vecLoad
  dsimp only
  refine next_sound (masked_sound hs (fun ht => ?_))
  split
  · exact formVec_sound ht
  · exact postInc_sound (pushV_sound (formVec_sound ht))
theorem noteLanes_sound {m : BitVec 64} (h : s.sound) : (s.noteLanes a m).sound := foldl_sound h id
theorem vecStore_sound {b h : ℕ} {off : ℤ} (hs : s.sound) : (vecStore s g v b pi h off).sound := by
  unfold vecStore
  refine next_sound (masked_sound hs fun ht => ?_)
  extract_lets r o src
  have hr : r.1.sound := formVec_sound ht
  have ho : o.1.sound := vecOperands_sound hr
  split
  · exact hr
  · extract_lets s1
    have h1 : s1.sound := mk_sound (Memory.wf_writeLanes ho.1 ..) ho.2
    exact postInc_sound (fillLanes_sound (noteLanes_sound h1))
theorem execVld_sound {f : FmtMV} (h : s.sound) : (execVld f s).sound := vecLoad_sound h
theorem execVldWide_sound {f : FmtMVW} (h : s.sound) : (execVldWide f s).sound := vecLoad_sound h
theorem execVst_sound {f : FmtMV} (h : s.sound) : (execVst f s).sound := vecStore_sound h
theorem execVstWide_sound {f : FmtMVW} (h : s.sound) : (execVstWide f s).sound := vecStore_sound h
theorem checkElems_sound {l : List (ℕ × ℕ)} (h : s.sound) : (s.checkElems n l).1.sound := by
  unfold State.checkElems
  split
  · exact h
  · split <;> exact h
theorem execVldx_sound {f : FmtMX} (h : s.sound) : (execVldx f s).sound := by
  unfold execVldx
  refine next_sound (masked_sound h fun ht => ?_)
  extract_lets w o l r v
  have hr : r.1.sound := checkElems_sound (vecOperands_sound ht)
  exact ite_sound (modIss_sound (pushV_sound hr)) hr
theorem execVstx_sound {f : FmtMX} (h : s.sound) : (execVstx f s).sound := by
  unfold execVstx
  refine next_sound (masked_sound h fun ht => ?_)
  extract_lets w o l r v s1 s2
  have hr : r.1.sound := checkElems_sound (vecOperands_sound ht)
  have h1 : s1.sound := foldl_sound hr fun hu => noteStore_sound (mk_sound (Memory.wf_writeN hu.1 ..) hu.2)
  exact ite_sound (modIss_sound (foldl_sound h1 id)) hr

/-! ### Machine/Access -/

theorem modKey_sound {f : KeyEnt → KeyEnt} (h : s.sound) : (s.modKey die part f).sound := h
theorem eraseSlot_sound {slot : ℕ} (h : s.sound) : (s.eraseSlot die slot).sound := h
theorem rekeyLine_sound {ptr : ℕ} (h : s.sound) : (s.rekeyLine die part ptr).sound :=
  ite_sound (mk_sound (Memory.wf_writeBytes h.1 ..) h.2) h
theorem sweepStep_sound (h : s.sound) : (s.sweepStep die part).sound := by
  unfold State.sweepStep
  extract_lets k n s1
  have h1 : s1.sound := ite_sound (rekeyLine_sound h) h
  exact ite_sound h (ite_sound (modKey_sound h1) (eraseSlot_sound (modKey_sound h1)))
theorem meetIf_sound {b : Bool} (h : s.sound) : (s.meetIf b).sound := ite_sound h h
theorem touch_sound (h : s.sound) : (s.touch part a).sound := meetIf_sound h
theorem unmet_sound {f : State → State} (h : s.sound) (hf : ∀ {t}, t.sound → (f t).sound) :
    (s.unmet f).sound := ite_sound h (hf h)
theorem writePlain_sound {l : List ℕ} (h : s.sound) : (s.writePlain part a l).sound := by
  unfold State.writePlain
  extract_lets s1 key old new
  have h1 : s1.sound := touch_sound h
  exact ite_sound (mk_sound (Memory.wf_writeBytes h1.1 ..) h1.2) (mk_sound (Memory.wf_writeBytes h1.1 ..) h1.2)
theorem zeroLine_sound {chans : List ℕ} {pa : ℕ} (h : s.sound) : (s.zeroLine chans die part pa n).sound := by
  unfold State.zeroLine
  split
  · exact h
  · exact writePlain_sound h
theorem zeroLines_sound {chans : List ℕ} (h : s.sound) : (s.zeroLines chans die part a n).sound := by
  induction n with
  | zero => exact h
  | succ n ih => exact zeroLine_sound ih
theorem zeroPage_sound {pa size : ℕ} (h : s.sound) : (s.zeroPage die part pa size).sound := by
  unfold State.zeroPage
  exact ite_sound (zeroLines_sound h) (mk_sound (cellsWf_filter _ h.1) h.2)
theorem enterTlb_sound {t : TlbEnt} (h : s.sound) : (s.enterTlb die t).sound := h
theorem walk_sound {va : ℕ} {r w : Bool} (h : s.sound) : (s.walk die part va r w).1.sound := by
  unfold State.walk
  extract_lets s1
  have h1 : s1.sound := elim_sound h (touch_sound h)
  split
  · exact h1
  · extract_lets s2 s3 t
    have h2 : s2.sound := touch_sound h1
    exact fst_ite h2 (enterTlb_sound (ite_sound (writePlain_sound (zeroPage_sound h2)) h2))
theorem translate_sound {va : ℕ} {r w : Bool} (h : s.sound) : (s.translate die part va r w).1.sound := by
  unfold State.translate
  extract_lets fin
  have hfin {x} (hx : x.1.sound) : (fin x).1.sound := by
    obtain ⟨t, e | e⟩ := x
    · exact hx
    · unfold fin
      dsimp only
      split <;> exact hx
  split
  · exact fst_ite h (hfin (x := (s, .ok _)) h)
  · exact hfin (walk_sound h)
theorem homePlace_sound {mem : ℕ} {r w : Bool} (h : s.sound) : (s.homePlace part mem off r w).1.sound :=
  fst_ite (translate_sound h) (fst_ite h h)
theorem locate_sound {r w : Bool} (h : s.sound) : (s.locate b a r w).1.sound := by
  unfold State.locate
  extract_lets off d x
  have hx : x.1.sound := by
    unfold x
    split
    · split <;> exact h
    · exact h
    · exact h
    · exact homePlace_sound h
    · exact translate_sound h
    · split
      · exact translate_sound h
      · exact h
    · split
      · exact homePlace_sound h
      · exact h
    · exact fst_ite h h
  split
  · exact fst_ite hx hx
  · exact hx
theorem engRead_sound (h : s.sound) : (s.engRead b a n).1.sound := by
  unfold State.engRead
  dsimp only
  refine fst_foldl h fun ht => ?_
  split
  · exact ht
  · split
    · exact locate_sound ht
    · exact touch_sound (locate_sound ht)
theorem engWrite_sound {l : List ℕ} {tag : Bool} (h : s.sound) : (s.engWrite b a l tag).1.sound := by
  unfold State.engWrite
  dsimp only
  split
  · exact locate_sound h
  · exact ite_sound (fillTags_sound (writePlain_sound (locate_sound h))) (writePlain_sound (locate_sound h))
theorem engWriteAll_sound {l : List ℕ} {tag : Bool} (h : s.sound) : (s.engWriteAll b a l tag).1.sound := by
  unfold State.engWriteAll
  refine fst_foldl h fun ht => ?_
  split
  · exact ht
  · exact engWrite_sound ht

/-! ### Machine/Start -/

theorem barrierErr_sound {b : ℕ} (h : s.sound) : (s.barrierErr c b).sound := mk_sound (Memory.wf_writeN h.1 ..) h.2
theorem addCmd_sound {m : Cmd} (h : s.sound) : (s.addCmd m).sound := h
theorem addFop_sound {f : Fop} (h : s.sound) : (s.addFop opId f).sound := by
  unfold State.addFop
  dsimp only
  split <;> exact h
theorem startRput_sound {o : TrigOp} {after : List ℕ} (h : s.sound) : (s.startRput b o opId after).sound :=
  addFop_sound h
theorem startRmcast_sound {o : TrigOp} {after : List ℕ} (h : s.sound) : (s.startRmcast b o opId after).sound :=
  addFop_sound h
theorem startRgetv_sound {o : TrigOp} {after : List ℕ} (h : s.sound) : (s.startRgetv b o opId after).sound :=
  addFop_sound h
theorem addArrive_sound {a : PendArrive} (h : s.sound) : (s.addArrive c a).sound := h
theorem fireTrigger_sound {t : Trigger} (h : s.sound) : (s.fireTrigger c i t).sound := by
  unfold State.fireTrigger
  dsimp only
  refine ite_sound h ?_
  split
  · exact endOp_sound (ite_sound (coreFault_sound h) (barrierErr_sound (coreFault_sound h)))
  · exact ite_sound (ite_sound h h)
      (ite_sound (startRput_sound h) (ite_sound (startRmcast_sound h) (startRgetv_sound h)))
theorem evalTriggers_sound {b : ℕ} (h : s.sound) : (s.evalTriggers c b).sound :=
  ite_sound h (foldl_sound h fireTrigger_sound)
theorem fireMet_sound (h : s.sound) : (s.fireMet c).sound := ite_sound h (foldl_sound h fireTrigger_sound)
theorem arrive_sound {b inc : ℕ} (h : s.sound) : (s.arrive c b inc).sound := by
  unfold State.arrive
  extract_lets a r s1
  have h1 : s1.sound := mk_sound (Memory.wf_writeN (Memory.wf_writeN h.1 ..) ..) h.2
  exact ite_sound (evalTriggers_sound h1) h1
theorem finishOp_sound {bar : Option ℕ} {inc : ℕ} (h : s.sound) : (s.finishOp b bar inc opId).sound := by
  unfold State.finishOp
  dsimp only
  refine endOp_sound ?_
  split
  · exact arrive_sound h
  · exact h
  · exact h
  · exact h
theorem failOp_sound {unit : ℕ} {bar : Option ℕ} (h : s.sound) : (s.failOp b unit code bar addr opId).sound := by
  unfold State.failOp
  extract_lets s1 s2
  have h1 : s1.sound := by
    unfold s1
    split
    · exact coreFault_sound h
    · exact h
  have h2 : s2.sound := by
    unfold s2
    split
    · exact barrierErr_sound h1
    all_goals exact h1
  exact endOp_sound h2
theorem barinit_sound {b : ℕ} (h : s.sound) : (s.barinit c b a v).sound :=
  modCore_sound (foldl_sound (mk_sound (Memory.wf_writeN (Memory.wf_writeN h.1 ..) ..) h.2) id)
theorem makeInits_sound (h : s.sound) : (s.makeInits c).sound := modCore_sound (foldl_sound h barinit_sound)
theorem applyArrivals_sound (h : s.sound) : (s.applyArrivals c).sound :=
  fireMet_sound (foldl_sound h fun ht => endOp_sound (arrive_sound ht))

/-! ### Machine/Barrier -/

theorem sample_sound {cl : Option ℕ} (h : s.sound) : (s.sample die part src cl v).sound :=
  foldl_sound h fun ht => ite_sound ht ht
theorem snapshot_sound (h : s.sound) : (s.snapshot c).sound := by
  unfold State.snapshot
  split
  · exact h
  · extract_lets k s1 s2
    have h2 : s2.sound := modCore_sound (mk_sound (Memory.wf_writeBytes h.1 ..) h.2)
    exact ite_sound (modDie_sound h2) h2
theorem monCfg_sound {f : FmtEM} (h : s.sound) : (monCfg f s).sound :=
  next_sound
    (guarded_sound h fun ht => ite_sound ht
      (ite_sound ht (ite_sound ht (ite_sound ht (ite_sound ht (ite_sound ht ht))))))
theorem execMoncfgConfigure_sound {f : FmtEM} (h : s.sound) : (execMoncfgConfigure f s).sound := monCfg_sound h
theorem execMoncfgSnapshot_sound {f : FmtEM} (h : s.sound) : (execMoncfgSnapshot f s).sound := monCfg_sound h
theorem execMoncfgSnapshotClear_sound {f : FmtEM} (h : s.sound) : (execMoncfgSnapshotClear f s).sound := monCfg_sound h
theorem execMoncfgStop_sound {f : FmtEM} (h : s.sound) : (execMoncfgStop f s).sound := monCfg_sound h
theorem markEngine_sound (h : s.sound) : (s.markEngine opId).sound := h
theorem execArrive_sound {f : FmtEBA} (h : s.sound) : (execArrive f s).sound := next_sound (guarded_sound h id)
theorem waitBar_sound {b : ℕ} {test : ℕ → ℕ → Bool} (h : s.sound) : (waitBar s g b test).sound :=
  next_sound (guarded_sound h fun ht => ite_sound ht (ite_sound ht ht))
theorem execWaitb_sound {f : FmtEBW} (h : s.sound) : (execWaitb f s).sound := waitBar_sound h
theorem execWaitbC_sound {f : FmtEBC} (h : s.sound) : (execWaitbC f s).sound := waitBar_sound h
theorem execWaitbCWide_sound {f : FmtEBCW} (h : s.sound) : (execWaitbCWide f s).sound := waitBar_sound h
theorem execWaith_sound {f : FmtEH} (h : s.sound) : (execWaith f s).sound :=
  next_sound (guarded_sound h fun ht => ite_sound ht (ite_sound ht (ite_sound ht ht)))
theorem execBarinit_sound {f : FmtEBI} (h : s.sound) : (execBarinit f s).sound := next_sound (guarded_sound h id)
theorem execTrigarm_sound {f : FmtET} (h : s.sound) : (execTrigarm f s).sound := by
  unfold execTrigarm
  dsimp only
  refine next_sound (guarded_sound h (fun ht => ite_sound ht (ite_sound ht (ite_sound ht ?_))))
  refine ite_sound ht ?_
  split
  · exact ht
  · exact ite_sound ht ht
theorem execTrigcancel_sound {f : FmtETC} (h : s.sound) : (execTrigcancel f s).sound := by
  unfold execTrigcancel
  dsimp only
  refine next_sound (guarded_sound h (fun ht => ite_sound ht ?_))
  split <;> exact ht

/-! ### Machine/Engine -/

theorem startOp_sound {rel acq : Bool} {k : State → ℕ → List ℕ → State} (h : s.sound)
    (hk : ∀ {t a1 a2}, t.sound → (k t a1 a2).sound) :
    (s.startOp rel acq k).sound := markEngine_sound (hk h)
theorem issueCmd_sound {rel acq : Bool} {k : State → ℕ → List ℕ → State} (h : s.sound)
    (hk : ∀ {t a1 a2}, t.sound → (k t a1 a2).sound) :
    (s.issueCmd rel acq k).sound := ite_sound h (startOp_sound h hk)
theorem issueFab_sound {rel acq : Bool} {k : State → ℕ → List ℕ → State} (h : s.sound)
    (hk : ∀ {t a1 a2}, t.sound → (k t a1 a2).sound) :
    (s.issueFab rel acq k).sound := ite_sound h (startOp_sound h hk)
theorem copyOp_sound {o : TrigOp} {h : Option (ℕ × ℕ)} (hs : s.sound) : (copyOp s o h time).sound := by
  unfold copyOp
  split
  · exact hs
  · exact issueCmd_sound hs id
theorem execCopy_sound {f : FmtEC} (h : s.sound) : (execCopy f s).sound := next_sound (guarded_sound h copyOp_sound)
theorem execCopyWide_sound {f : FmtECW} (h : s.sound) : (execCopyWide f s).sound :=
  next_sound (guarded_sound h copyOp_sound)
theorem copy2dOp_sound {o : TrigOp} (h : s.sound) : (copy2dOp s o time).sound := by
  unfold copy2dOp
  dsimp only
  refine ite_sound h (ite_sound h (ite_sound h ?_))
  split
  · exact h
  · exact ite_sound h (ite_sound h (ite_sound h (ite_sound h (issueCmd_sound h id))))
theorem execCopy2d_sound {f : FmtEC} (h : s.sound) : (execCopy2d f s).sound :=
  next_sound (guarded_sound h copy2dOp_sound)
theorem execCopy2dWide_sound {f : FmtECW} (h : s.sound) : (execCopy2dWide f s).sound :=
  next_sound (guarded_sound h copy2dOp_sound)
theorem tmovOp_sound {o : TrigOp} {h : Option (ℕ × ℕ)} (hs : s.sound) : (tmovOp s o h time).sound := by
  unfold tmovOp
  dsimp only
  split
  · exact hs
  · exact ite_sound hs (ite_sound hs (ite_sound hs (ite_sound hs (ite_sound hs (issueCmd_sound hs id)))))
theorem execTmov_sound {f : FmtEC} (h : s.sound) : (execTmov f s).sound := next_sound (guarded_sound h tmovOp_sound)
theorem execTmovWide_sound {f : FmtECW} (h : s.sound) : (execTmovWide f s).sound :=
  next_sound (guarded_sound h tmovOp_sound)
theorem unsealOp_sound {i : Instr} {bad : Bool} {o : TrigOp} (h : s.sound) : (unsealOp s i bad o time).sound := by
  unfold unsealOp
  dsimp only
  split
  · exact h
  · exact ite_sound h (ite_sound h (ite_sound h (ite_sound h (issueCmd_sound h id))))
theorem unsealForm_sound {i : Instr} {bad : Bool} {k : State → State} (h : s.sound)
    (hk : ∀ {t}, t.sound → (k t).sound) :
    (unsealForm s i g bad k).sound := Out.ite_sound (next_sound h) (next_sound (guarded_sound h hk))
theorem execCopyUnseal_sound {f : FmtEC} (h : s.sound) : (execCopyUnseal f s).sound := unsealForm_sound h unsealOp_sound
theorem execCopyUnsealWide_sound {f : FmtECW} (h : s.sound) : (execCopyUnsealWide f s).sound :=
  unsealForm_sound h unsealOp_sound
theorem seopOp_sound {bar : Option ℕ} {inc : ℕ} {rel acq : Bool} (h : s.sound) :
    (seopOp s d op bar inc rel acq).sound := by
  unfold seopOp
  dsimp only
  refine ite_sound h (ite_sound h (ite_sound h (ite_sound h (ite_sound h (ite_sound h ?_)))))
  split
  · exact h
  · split
    · exact h
    · exact ite_sound h (startOp_sound h id)
theorem execSeop_sound {f : FmtESE} (h : s.sound) : (execSeop f s).sound := next_sound (guarded_sound h seopOp_sound)
theorem execSeopWide_sound {f : FmtESEW} (h : s.sound) : (execSeopWide f s).sound :=
  next_sound (guarded_sound h seopOp_sound)
theorem strOff_sound (h : s.sound) : (s.strOff k).sound := by
  unfold State.strOff
  dsimp only
  refine ite_sound h ?_
  split
  · exact modStream_sound (endOp_sound (ite_sound h h))
  · exact modIss_sound (modStream_sound (endOp_sound (ite_sound h h)))
theorem execStrcfg_sound {f : FmtEK} (h : s.sound) : (execStrcfg f s).sound := by
  unfold execStrcfg
  dsimp only
  refine next_sound (guarded_sound h (fun ht => ite_sound ht (ite_sound ht (ite_sound ht ?_))))
  refine ite_sound ht ?_
  split
  · exact ht
  · exact ite_sound ht (ite_sound ht (ite_sound ht (ite_sound ht (ite_sound ht (modStream_sound (strOff_sound ht))))))
theorem execStron_sound {f : FmtEK0} (h : s.sound) : (execStron f s).sound :=
  next_sound (guarded_sound h fun ht => ite_sound ht (ite_sound ht ht))
theorem execStroff_sound {f : FmtEK0} (h : s.sound) : (execStroff f s).sound :=
  next_sound (guarded_sound h strOff_sound)
theorem execBufrel_sound {f : FmtEH} (h : s.sound) : (execBufrel f s).sound :=
  next_sound (guarded_sound h fun ht => ite_sound ht ht)
theorem rputOp_sound {o : TrigOp} (h : s.sound) : (rputOp s o).sound := by
  unfold rputOp
  split
  · exact h
  · exact issueFab_sound h startRput_sound
theorem execRput_sound {f : FmtEC} (h : s.sound) : (execRput f s).sound := next_sound (guarded_sound h rputOp_sound)
theorem execRputWide_sound {f : FmtECW} (h : s.sound) : (execRputWide f s).sound :=
  next_sound (guarded_sound h rputOp_sound)
theorem rmcastOp_sound {o : TrigOp} (h : s.sound) : (rmcastOp s o).sound := by
  unfold rmcastOp
  split
  · exact h
  · exact issueFab_sound h startRmcast_sound
theorem execRmcast_sound {f : FmtEC} (h : s.sound) : (execRmcast f s).sound :=
  next_sound (guarded_sound h rmcastOp_sound)
theorem execRmcastWide_sound {f : FmtECW} (h : s.sound) : (execRmcastWide f s).sound :=
  next_sound (guarded_sound h rmcastOp_sound)
theorem rgetvOp_sound {o : TrigOp} (h : s.sound) : (rgetvOp s o).sound := by
  unfold rgetvOp
  split
  · exact h
  · exact issueFab_sound h startRgetv_sound
theorem execRgetv_sound {f : FmtEC} (h : s.sound) : (execRgetv f s).sound := next_sound (guarded_sound h rgetvOp_sound)
theorem execRgetvWide_sound {f : FmtECW} (h : s.sound) : (execRgetvWide f s).sound :=
  next_sound (guarded_sound h rgetvOp_sound)
theorem rgetOp_sound {adr hpc ck : ℕ} {acq : Bool} {scope : ℕ} (h : s.sound) :
    (rgetOp s dst adr hpc ck acq scope).sound := by
  unfold rgetOp
  extract_lets c d a pc s1 s2
  have h1 : s1.sound := by
    unfold s1
    split
    · exact h
    · exact ite_sound h (ite_sound h h)
  have h2 : s2.sound := ite_sound h1 (ite_sound h1 h1)
  exact ite_sound h2 (issueFab_sound h addFop_sound)
theorem execRget_sound {f : FmtEG} (h : s.sound) : (execRget f s).sound := next_sound (guarded_sound h rgetOp_sound)
theorem execRgetWide_sound {f : FmtEGW} (h : s.sound) : (execRgetWide f s).sound :=
  next_sound (guarded_sound h rgetOp_sound)
theorem rfopOp_sound {adr : ℕ} {rel acq : Bool} {scope b : ℕ} (h : s.sound) :
    (rfopOp s dst adr x op w rel acq scope b).sound := by
  unfold rfopOp
  dsimp only
  split
  · exact h
  · exact ite_sound h (ite_sound h (issueFab_sound h addFop_sound))
theorem execRfop_sound {f : FmtEF} (h : s.sound) : (execRfop f s).sound := next_sound (guarded_sound h rfopOp_sound)
theorem rfopWide_sound {f : FmtEFW} (h : s.sound) : (rfopWide f s).sound := next_sound (guarded_sound h rfopOp_sound)
theorem execRfopWide_sound {f : FmtEFW} (h : s.sound) : (execRfopWide f s).sound := rfopWide_sound h
theorem execRfopIncw_sound {f : FmtEFW} (h : s.sound) : (execRfopIncw f s).sound := rfopWide_sound h
theorem execRfopBadd_sound {f : FmtEFW} (h : s.sound) : (execRfopBadd f s).sound := rfopWide_sound h
theorem execRfopCas_sound {f : FmtEFW} (h : s.sound) : (execRfopCas f s).sound := rfopWide_sound h
theorem rvatomOp_sound {t : ℕ} {bar : Option ℕ} {inc : ℕ} {rel : Bool} {scope : ℕ} (h : s.sound) :
    (rvatomOp s dst src t bar inc rel scope).sound := by
  unfold rvatomOp
  dsimp only
  split
  · exact h
  · exact ite_sound h (ite_sound h (issueFab_sound h addFop_sound))
theorem execRvatom_sound {f : FmtEA} (h : s.sound) : (execRvatom f s).sound :=
  next_sound (guarded_sound h rvatomOp_sound)
theorem execRvatomWide_sound {f : FmtEAW} (h : s.sound) : (execRvatomWide f s).sound :=
  next_sound (guarded_sound h rvatomOp_sound)
theorem rredOp_sound {win rank : ℕ} {rel : Bool} {scope : ℕ} (h : s.sound) : (rredOp s src win rank rel scope).sound :=
  by
  unfold rredOp
  dsimp only
  refine ite_sound h ?_
  split
  · exact h
  · exact ite_sound h (ite_sound h (issueFab_sound h addFop_sound))
theorem execRred_sound {f : FmtER} (h : s.sound) : (execRred f s).sound := next_sound (guarded_sound h rredOp_sound)
theorem execRredWide_sound {f : FmtERW} (h : s.sound) : (execRredWide f s).sound :=
  next_sound (guarded_sound h rredOp_sound)
theorem execFence_sound {f : FmtEN} (h : s.sound) : (execFence f s).sound := next_sound (guarded_sound h id)
theorem pMode_sound {i : Instr} {k : State → State} (h : s.sound) (hk : ∀ {t}, t.sound → (k t).sound) :
    (pMode s i g k).sound := next_sound (guarded_sound h fun ht => ite_sound (hk ht) ht)
theorem tlbRemove_sound {ds : List ℕ} {p : TlbEnt → Bool} (h : s.sound) : (s.tlbRemove ds p).sound :=
  ite_sound (foldl_sound h id) h
theorem execTlbinv_sound {f : FmtEP} (h : s.sound) : (execTlbinv f s).sound :=
  pMode_sound h fun ht => ite_sound ht (tlbRemove_sound ht)
theorem execTlbinvPart_sound {f : FmtEP0} (h : s.sound) : (execTlbinvPart f s).sound := pMode_sound h tlbRemove_sound
theorem execTlbinvPkg_sound {f : FmtEP0} (h : s.sound) : (execTlbinvPkg f s).sound := pMode_sound h tlbRemove_sound
theorem execSlotld_sound {f : FmtEP} (h : s.sound) : (execSlotld f s).sound :=
  pMode_sound h fun ht => ite_sound ht (ite_sound ht (ite_sound ht ht))
theorem slotEnd_sound {r : SlotRun} (h : s.sound) : (s.slotEnd c r).sound :=
  ite_sound (modCluster_sound (mk_sound (Memory.wf_writeN h.1 ..) h.2)) (mk_sound (Memory.wf_writeN h.1 ..) h.2)
theorem slotStep_sound {r : SlotRun} (h : s.sound) : (s.slotStep c r).sound := ite_sound (slotEnd_sound h) h
theorem execBuddyset_sound {f : FmtEP} (h : s.sound) : (execBuddyset f s).sound :=
  pMode_sound h fun ht => ite_sound ht (pushS_sound (ite_sound ht ht))

/-! ### Machine/Control -/

theorem pushRecord_sound {r : Record} {notCore until_ : ℕ} {by_ : Option ℕ} (h : s.sound) :
    (s.pushRecord d r notCore until_ by_).sound := h
theorem poolHold_sound (h : s.sound) : s.poolHold.sound := ite_sound h h
theorem ask_sound {c : Ctl} (h : s.sound) : (s.ask c).sound := h
theorem refusedIn_sound {i : Instr} {always guarded : Bool} {k : State → State} (h : s.sound)
    (hk : ∀ {t}, t.sound → (k t).sound) :
    (refusedIn s i g always guarded k).sound :=
  Out.ite_sound (next_sound h) (next_sound (guarded_sound h fun ht => ite_sound ht (hk ht)))
theorem execEmptyBundle_sound (h : s.sound) : (execEmptyBundle s).sound := next_sound h
theorem execNop_sound {f : FmtCN} (h : s.sound) : (execNop f s).sound := next_sound (guarded_sound h id)
theorem execPrep_sound {f : FmtCP} (h : s.sound) : (execPrep f s).sound :=
  Out.ite_sound (next_sound h) (next_sound (guarded_sound h id))
theorem execPrepr_sound {f : FmtCR} (h : s.sound) : (execPrepr f s).sound :=
  next_sound (guarded_sound h fun ht => ite_sound ht (ite_sound ht ht))
theorem execTrans_sound {f : FmtCT} (h : s.sound) : (execTrans f s).sound :=
  next_sound (guarded_sound h fun ht => ite_sound ht (ite_sound ht (ite_sound ht (ite_sound ht ht))))
theorem loopOp_sound {i : Instr} {l fin : ℕ} {count : State → ℕ} (h : s.sound) :
    (loopOp s i g l fin count).sound :=
      Out.ite_sound (next_sound h) (next_sound (guarded_sound h fun ht => ite_sound ht ht))
theorem execLoopImm_sound {f : FmtCLI} (h : s.sound) : (execLoopImm f s).sound := loopOp_sound h
theorem execLoopReg_sound {f : FmtCLR} (h : s.sound) : (execLoopReg f s).sound := loopOp_sound h
theorem modDomain_sound {l : ℕ} {f : Domain → Domain} (h : s.sound) : (s.modDomain p l f).sound := h
theorem leaveSync_sound (h : s.sound) : (s.leaveSync c).sound := by
  unfold State.leaveSync
  dsimp only
  split
  · split <;> exact h
  · exact h
theorem execSync_sound {f : FmtCN} (h : s.sound) : (execSync f s).sound :=
  refusedIn_sound h fun ht => ite_sound ht (ite_sound ht ht)
theorem execSyncj_sound {f : FmtCN} (h : s.sound) : (execSyncj f s).sound :=
  refusedIn_sound h fun ht => ite_sound ht (ite_sound ht ht)
theorem execSyncl_sound {f : FmtCN} (h : s.sound) : (execSyncl f s).sound :=
  refusedIn_sound h fun ht => ite_sound ht (leaveSync_sound ht)
theorem joinOp_sound {i : Instr} (h : s.sound) : (joinOp s i g k).sound := refusedIn_sound h fun ht => ite_sound ht ht
theorem execJoin_sound {f : FmtCJ} (h : s.sound) : (execJoin f s).sound := joinOp_sound h
theorem execJoinW_sound {f : FmtCJ} (h : s.sound) : (execJoinW f s).sound := joinOp_sound h
theorem execDetach_sound {f : FmtCN} (h : s.sound) : (execDetach f s).sound :=
  refusedIn_sound h fun ht => ite_sound ht ht
theorem execSmode_sound {f : FmtCM} (h : s.sound) : (execSmode f s).sound :=
  refusedIn_sound h fun ht => ite_sound ht (ite_sound ht ht)
theorem execSpawn_sound {f : FmtCS} (h : s.sound) : (execSpawn f s).sound :=
  next_sound (guarded_sound h fun ht => ite_sound ht (ite_sound ht (pushRecord_sound (poolHold_sound ht))))
theorem parkOp_sound {i : Instr} {yields : Bool} (h : s.sound) : (parkOp s i g yields).sound :=
  refusedIn_sound h fun ht => ask_sound (poolHold_sound (ite_sound ht ht))
theorem execSuspend_sound {f : FmtCN} (h : s.sound) : (execSuspend f s).sound := parkOp_sound h
theorem execYield_sound {f : FmtCN} (h : s.sound) : (execYield f s).sound := parkOp_sound h
theorem execHalt_sound {f : FmtCN} (h : s.sound) : (execHalt f s).sound :=
  next_sound (guarded_sound h fun ht => ask_sound (ite_sound (leaveSync_sound ht) ht))
theorem execTrap_sound {f : FmtCX} (h : s.sound) : (execTrap f s).sound := next_sound (guarded_sound h id)
theorem execTret_sound {f : FmtCN} (h : s.sound) : (execTret f s).sound :=
  next_sound (guarded_sound h fun ht => ite_sound ht (ite_sound ht ht))

/-! ### Machine/Boundary -/

theorem idleChord_sound (h : s.sound) : (s.idleChord cl).sound := ite_sound h h
theorem dropQueue_sound (h : s.sound) : (s.dropQueue c).sound := h
theorem leaveStream_sound (h : s.sound) : (s.leaveStream c).sound := idleChord_sound h
theorem compare_sound {chosen : ℕ} {lead : Option ℕ} (h : s.sound) : (s.compare c chosen lead).sound :=
  ite_sound (ite_sound h (leaveStream_sound h)) h
theorem compareHead_sound (h : s.sound) : (s.compareHead c).sound := by
  unfold State.compareHead
  dsimp only
  split
  · exact ite_sound (compare_sound h) h
  · exact compare_sound h
theorem turnOn_sound (h : s.sound) : (s.turnOn c).sound := h
theorem reattach_sound (h : s.sound) : (s.reattach c num).sound := h
theorem settle_sound {next : ℕ} (h : s.sound) : (s.settle next).sound := by
  unfold State.settle
  extract_lets c x ctl s1 s2 s3 s4
  have h2 : s2.sound := by
    unfold s2
    cases ctl with
    | detach => exact leaveStream_sound h
    | _ => exact h
  have h3 : s3.sound := ite_sound h2 (tickExposed_sound h2)
  cases ctl with
  | trap => exact takeTrap_sound (ite_sound (tickStrand_sound h3) h3)
  | none => exact compareHead_sound h3
  | skip => exact compareHead_sound h3
  | _ => exact h3
theorem matureTransfer_sound {p : Pending} (h : s.sound) : (s.matureTransfer c x p).sound :=
  settle_sound (ite_sound h h)
theorem execTransferMature_sound (h : s.sound) : (execTransferMature s).sound := by
  unfold execTransferMature
  dsimp only
  refine next_sound ?_
  split
  · split
    · exact matureTransfer_sound h
    · exact h
  · exact h
theorem execLoopEnd_sound (h : s.sound) : (execLoopEnd s).sound := next_sound (ite_sound (settle_sound h) h)
theorem timeoutTrap_sound {w : Wait} (h : s.sound) : (s.timeoutTrap c x w).sound := takeTrap_sound h
theorem execWaitTimeout_sound (h : s.sound) : (execWaitTimeout s).sound := by
  unfold execWaitTimeout
  dsimp only
  refine next_sound ?_
  split
  · exact timeoutTrap_sound h
  · exact h
  · exact h
theorem execTagWaitTimeout_sound (h : s.sound) : (execTagWaitTimeout s).sound := by
  unfold execTagWaitTimeout
  dsimp only
  refine next_sound ?_
  split
  · exact timeoutTrap_sound h
  · exact h
theorem execJoinTimeout_sound (h : s.sound) : (execJoinTimeout s).sound := by
  unfold execJoinTimeout
  dsimp only
  refine next_sound ?_
  split
  · exact timeoutTrap_sound h
  · exact h
  · exact h
theorem execSyncGenerationComplete_sound (h : s.sound) : (execSyncGenerationComplete s).sound :=
  next_sound (ite_sound (modDomain_sound (foldl_sound (foldl_sound h id) id)) h)
theorem arriveSync_sound (h : s.sound) : (s.arriveSync c).sound := by
  unfold State.arriveSync
  dsimp only
  refine ite_sound h ?_
  split
  · exact h
  · exact ite_sound h h
theorem takeOne_sound (h : s.sound) : (s.takeOne c x).sound := by
  unfold State.takeOne
  dsimp only
  refine ite_sound h ?_
  split
  · exact h
  · split <;> exact h
theorem execTakeRecord_sound (h : s.sound) : (execTakeRecord s).sound :=
  next_sound (ite_sound (foldl_sound h takeOne_sound) h)
theorem setFop_sound {f : Fop} (h : s.sound) : (s.setFop op f).sound := h
theorem dropFop_sound (h : s.sound) : (s.dropFop op b).sound := by
  unfold State.dropFop
  dsimp only
  split <;> exact h
theorem closeFop_sound {f : Fop} (h : s.sound) : (s.closeFop op f).sound := by
  unfold State.closeFop
  dsimp only
  refine dropFop_sound ?_
  split
  · exact sample_sound h
  · exact h
theorem endFop_sound {f : Fop} (h : s.sound) : (s.endFop op f).sound := closeFop_sound h
theorem arrival_sound {f : Fop} {a : Arrival} (h : s.sound) : (s.arrival c op f a).sound := by
  unfold State.arrival
  dsimp only
  split
  · exact endFop_sound h
  · exact ite_sound (endFop_sound h) h
theorem execArrivalOverflowPush_sound (h : s.sound) : (execArrivalOverflowPush s).sound := by
  unfold execArrivalOverflowPush
  dsimp only
  refine next_sound ?_
  split
  · exact h
  · exact ite_sound (elim_sound h (endFop_sound h)) h
theorem execTargetLinesReady_sound (h : s.sound) : (execTargetLinesReady s).sound := next_sound (ite_sound h h)

/-! ### Machine/Code -/

theorem nextEvent_sound {e : Instr} {args : List ℕ} (h : s.sound) : (s.nextEvent e args).sound :=
  ⟨h.1, by simpa [nextEvent, turnsOk, Turn.ok] using h.2⟩
theorem nextTurn_sound {t : Turn} (h : s.sound) (ht : t.ok = true) : (s.nextTurn t).sound :=
  ⟨h.1, by simpa [nextTurn, turnsOk, ht] using h.2⟩

/-! ### Machine/Chord -/

theorem modChord_sound {f : Chord → Chord} (h : s.sound) : (s.modChord cl f).sound := h
theorem chordDecide_sound (h : s.sound) : (s.chordDecide cl).sound := by
  unfold State.chordDecide
  dsimp only
  split
  · exact h
  · refine ite_sound h ?_
    split
    · exact h
    · split <;> exact h
theorem meet_sound {lead : Option ℕ} (h : s.sound) : (s.meet c a lead).sound :=
  ite_sound h (ite_sound h (compare_sound h))
theorem meetAll_sound (h : s.sound) : (s.meetAll cl).sound := foldl_sound h meet_sound
theorem multicast_sound {l : BitVec 512} {i : Option Instr} (h : s.sound) : (s.multicast cl l i).sound :=
  idleChord_sound (modChord_sound (foldl_sound (foldl_sound h id) id))
theorem holdJoin_sound (h : s.sound) : (s.holdJoin cl k).sound := by
  unfold State.holdJoin
  dsimp only
  split
  · exact h
  · split
    · exact ite_sound (ite_sound (nextEvent_sound h) h) h
    · exact h
    · exact h
theorem execChordMulticast_sound (h : s.sound) : (execChordMulticast s).sound := by
  unfold execChordMulticast
  extract_lets cl s1 s2 ch kept l i
  refine next_sound (ite_sound h (ite_sound h ?_))
  have h1 : s1.sound := chordDecide_sound h
  have h2 : s2.sound := ite_sound (meetAll_sound h1) h1
  refine ite_sound h2 ?_
  split
  · exact ite_sound (holdJoin_sound h2) (ite_sound (multicast_sound h2) h2)
  · exact ite_sound (multicast_sound h2) h2
  · exact ite_sound (multicast_sound h2) h2
theorem execChordRestart_sound (h : s.sound) : (execChordRestart s).sound := by
  unfold execChordRestart
  dsimp only
  refine next_sound ?_
  split
  · exact h
  · exact ite_sound h h
theorem execChordJoinTimeout_sound (h : s.sound) : (execChordJoinTimeout s).sound := by
  unfold execChordJoinTimeout
  dsimp only
  refine next_sound ?_
  split
  · exact ite_sound (takeTrap_sound h) h
  · exact h
  · exact h

/-! ### Machine/Bte -/

theorem carry_sound {cross : Bool} {l : List ℕ} (h : s.sound) : (s.carry part src q cross l).1.sound := by
  unfold State.carry
  dsimp only
  refine fst_ite h ?_
  split <;> exact h
theorem modSlots_sound {f : Tab Cmd → Tab Cmd} (h : s.sound) : (s.modSlots cl f).sound := h
theorem sampleCmd_sound {m : Cmd} (h : s.sound) : (s.sampleCmd cl m).sound := sample_sound h
theorem failCmd_sound {m : Cmd} (h : s.sound) : (s.failCmd cl i m code addr).sound :=
  modSlots_sound (sampleCmd_sound (failOp_sound h))
theorem beginMove_sound {m : Cmd} (h : s.sound) : (s.beginMove cl i m).sound := by
  unfold State.beginMove
  dsimp only
  split
  · split
    · exact failCmd_sound h
    · exact h
  · split
    · split
      · exact failCmd_sound (engRead_sound h)
      · split
        · exact failCmd_sound (engRead_sound h)
        · exact modSlots_sound (engRead_sound h)
    · exact h
theorem execBteRelease_sound (h : s.sound) : (execBteRelease s).sound := by
  unfold execBteRelease
  dsimp only
  refine next_sound (unmet_sound h (fun ht => ?_))
  split
  · exact ite_sound ht (beginMove_sound ht)
  · exact ht
  · exact ht
theorem entryState_sound {st : ℕ} (h : s.sound) : (s.entryState a st).sound := mk_sound (Memory.wf_writeN h.1 ..) h.2
theorem execHandleFillClaim_sound (h : s.sound) : (execHandleFillClaim s).sound := by
  unfold execHandleFillClaim
  dsimp only
  refine next_sound (unmet_sound h (fun ht => ?_))
  split
  · exact ht
  · split
    · exact ht
    · exact ite_sound ht (ite_sound (failCmd_sound ht) (ite_sound (beginMove_sound (entryState_sound ht)) ht))
theorem execBteHandleTimeout_sound (h : s.sound) : (execBteHandleTimeout s).sound := by
  unfold execBteHandleTimeout
  dsimp only
  refine next_sound ?_
  split
  · exact h
  · exact ite_sound h (ite_sound (failCmd_sound h) h)
theorem sendPiece_sound {m : Cmd} (h : s.sound) : (s.sendPiece cl i m).sound := ite_sound h h
theorem movePiece_sound {m : Cmd} (h : s.sound) : (s.movePiece cl i m).sound := by
  unfold State.movePiece
  extract_lets b n from_ to_ far r
  have hr : r.1.sound := engRead_sound h
  refine ite_sound (failCmd_sound h) (ite_sound (failCmd_sound h) (ite_sound (sendPiece_sound h) ?_))
  split
  · exact failCmd_sound hr
  · extract_lets x
    have hx : x.1.sound := carry_sound hr
    split
    · exact failCmd_sound hx
    · extract_lets y
      have hy : y.1.sound := carry_sound hx
      split
      · exact failCmd_sound hy
      · extract_lets w
        have hw : w.1.sound := engWrite_sound hy
        split
        · exact failCmd_sound hw
        · exact modSlots_sound hw
theorem execBtePieceWrite_sound (h : s.sound) : (execBtePieceWrite s).sound := by
  unfold execBtePieceWrite
  dsimp only
  refine next_sound (unmet_sound h (fun ht => ?_))
  split
  · exact ht
  · exact ite_sound (movePiece_sound ht) ht
theorem execBteCommandComplete_sound (h : s.sound) : (execBteCommandComplete s).sound := by
  unfold execBteCommandComplete
  dsimp only
  refine next_sound ?_
  split
  · exact h
  · refine ite_sound h (modSlots_sound (sampleCmd_sound (finishOp_sound ?_)))
    split
    · exact entryState_sound h
    · exact h
theorem execArriveApply_sound (h : s.sound) : (execArriveApply s).sound := next_sound (applyArrivals_sound h)
theorem modSe_sound {f : SeCmd → SeCmd} (h : s.sound) : (s.modSe d op f).sound := h
theorem seDrop_sound (h : s.sound) : (s.seDrop d op).sound := h
theorem execSeCommandStart_sound (h : s.sound) : (execSeCommandStart s).sound := by
  unfold execSeCommandStart
  dsimp only
  refine next_sound ?_
  split
  · exact h
  · exact ite_sound h h
theorem seIndex_sound {m : SeCmd} (h : s.sound) : (s.seIndex m i).1.sound := engRead_sound h
theorem seRow_sound {m : SeCmd} (h : s.sound) : (s.seRow m i).1.sound := by
  unfold State.seRow
  dsimp only
  split
  · exact seIndex_sound h
  · split
    · exact seIndex_sound h
    · split <;> exact engRead_sound (seIndex_sound h)
theorem seGroup_sound {m : SeCmd} {first : ℕ} (h : s.sound) : (s.seGroup m first n).1.sound := by
  induction n with
  | zero => exact h
  | succ n ih =>
    unfold State.seGroup
    dsimp only
    split
    · exact ih
    · split <;> exact seRow_sound ih
theorem sePut_sound {m : SeCmd} {own vals : List ℕ} (h : s.sound) : (s.sePut m a n own vals).1.sound := by
  unfold State.sePut
  dsimp only
  refine fst_foldl h fun ht => ?_
  split
  · exact ht
  · exact engWriteAll_sound ht
theorem seGather_sound {m : SeCmd} (h : s.sound) : (s.seGather m k i).1.sound := by
  unfold State.seGather
  dsimp only
  split
  · exact seIndex_sound h
  · split
    · exact seIndex_sound h
    · refine fst_foldl (seIndex_sound h) fun ht => ?_
      split
      · exact ht
      · split
        · exact engRead_sound ht
        · exact engWriteAll_sound (engRead_sound ht)
theorem seScatter_sound {m : SeCmd} (h : s.sound) : (s.seScatter m k i).1.sound := by
  unfold State.seScatter
  dsimp only
  split
  · exact seRow_sound h
  · split
    · exact engRead_sound (seRow_sound h)
    · exact sePut_sound (engRead_sound (seRow_sound h))
theorem seRowsum_sound {m : SeCmd} (h : s.sound) : (s.seRowsum m k i).1.sound := by
  unfold State.seRowsum
  dsimp only
  split
  · exact seIndex_sound h
  · refine fst_ite (seIndex_sound h) ?_
    split
    · exact seGroup_sound (seIndex_sound h)
    · exact sePut_sound (seGroup_sound (seIndex_sound h))
theorem seConvert_sound {m : SeCmd} (h : s.sound) : (s.seConvert m k i).1.sound := by
  unfold State.seConvert
  dsimp only
  refine fst_ite h ?_
  split
  · exact engRead_sound h
  · exact sePut_sound (engRead_sound h)
theorem seOne_sound {m : SeCmd} (h : s.sound) : (s.seOne m k).1.sound := by
  unfold State.seOne
  dsimp only
  split
  · exact seGather_sound h
  · exact seScatter_sound h
  · exact seRowsum_sound h
  · exact seConvert_sound h
theorem seStatus_sound {m : SeCmd} {err : Bool} (h : s.sound) : (s.seStatus m err).sound := by
  unfold State.seStatus
  dsimp only
  split
  · exact mk_sound (Memory.wf_writeN h.1 ..) h.2
  · exact engWriteAll_sound h
theorem sampleReads_sound (h : s.sound) : (s.sampleReads die part n).sound := by
  induction n with
  | zero => exact h
  | succ n ih => exact sample_sound (draw_sound ih)
theorem execSeRowOperation_sound (h : s.sound) : (execSeRowOperation s).sound := by
  unfold execSeRowOperation
  dsimp only
  refine next_sound (unmet_sound h (fun ht => ?_))
  split
  · exact ht
  · split
    · exact modSe_sound (sampleReads_sound (seOne_sound ht))
    · exact seDrop_sound (failOp_sound (seStatus_sound (sampleReads_sound (seOne_sound ht))))
theorem execSeCommandComplete_sound (h : s.sound) : (execSeCommandComplete s).sound := by
  unfold execSeCommandComplete
  dsimp only
  refine next_sound (unmet_sound h (fun ht => ?_))
  split
  · exact ht
  · exact seDrop_sound (finishOp_sound (seStatus_sound ht))
theorem walkRead_sound {w : Walk} (h : s.sound) : (s.walkRead b w n k).1.sound := by
  induction k with
  | zero => exact h
  | succ k ih =>
    unfold State.walkRead
    dsimp only
    split
    · exact ih
    · split <;> exact engRead_sound ih
theorem streamFault_sound (h : s.sound) : (s.streamFault core code addr).sound := coreFault_sound h
theorem landEntry_sound (h : s.sound) : (s.landEntry core k v).sound := ite_sound h h
theorem execStreamEntryFetch_sound (h : s.sound) : (execStreamEntryFetch s).sound := by
  unfold execStreamEntryFetch
  dsimp only
  refine next_sound (unmet_sound h (fun ht => ?_))
  split
  · exact ht
  · refine ite_sound ht (landEntry_sound ?_)
    split
    · exact walkRead_sound ht
    · exact streamFault_sound (walkRead_sound ht)
theorem walkWrite_sound {w : Walk} {v : VecWord} (h : s.sound) : (s.walkWrite b w n v k).1.sound := by
  induction k with
  | zero => exact h
  | succ k ih =>
    unfold State.walkWrite
    dsimp only
    split
    · exact ih
    · exact engWrite_sound ih
theorem execStreamEntryWrite_sound (h : s.sound) : (execStreamEntryWrite s).sound := by
  unfold execStreamEntryWrite
  dsimp only
  refine next_sound (unmet_sound h (fun ht => ?_))
  split
  · refine ite_sound ht (endOp_sound (modStream_sound ?_))
    split
    · exact walkWrite_sound ht
    · exact streamFault_sound (walkWrite_sound ht)
  · exact ht
  · exact ht
theorem execPageWalk_sound (h : s.sound) : (execPageWalk s).sound := next_sound (unmet_sound h walk_sound)

/-! ### Machine/Fabric -/

theorem failFop_sound {f : Fop} (h : s.sound) : (s.failFop op f code addr).sound := closeFop_sound (failOp_sound h)
theorem homeAt_sound {f : Fop} {mem : ℕ} {r w : Bool} (h : s.sound) : (s.homeAt f mem off r w).1.sound := by
  unfold State.homeAt
  dsimp only
  split
  · exact touch_sound (homePlace_sound (meetIf_sound h))
  · exact homePlace_sound (meetIf_sound h)
theorem carryOut_sound {f : Fop} {l : List ℕ} (h : s.sound) : (s.carryOut f pkg dst l).1.sound := carry_sound h
theorem carryBack_sound {f : Fop} {l : List ℕ} (h : s.sound) : (s.carryBack f src l).1.sound := carry_sound h
theorem homeRead_sound {f : Fop} {mem : ℕ} (h : s.sound) : (s.homeRead f mem off n).1.sound := by
  unfold State.homeRead
  dsimp only
  refine fst_foldl h fun ht => ?_
  split
  · exact ht
  · split <;> exact homeAt_sound ht
theorem homeModify_sound {f : Fop} {mem : ℕ} {g : ℕ → ℕ} (h : s.sound) : (s.homeModify f mem off n g).1.sound := by
  unfold State.homeModify
  dsimp only
  split
  · exact homeAt_sound h
  · exact writePlain_sound (homeAt_sound h)
theorem departFop_sound {f : Fop} (h : s.sound) : (s.departFop op f).sound := ite_sound h (ite_sound (ite_sound h h) h)
theorem modComb_sound {f : Fop} {g : List CombEntry → List CombEntry} (h : s.sound) : (s.modComb f g).sound :=
  foldl_sound h fun ht => ite_sound ht ht
theorem freeEntry_sound {f : Fop} (h : s.sound) : (s.freeEntry op f).sound :=
  dropFop_sound (endOp_sound (modComb_sound h))
theorem failCarried_sound (h : s.sound) : (s.failCarried code addr n op).sound := by
  induction n generalizing s op with
  | zero => exact h
  | succ n ih =>
    unfold State.failCarried
    split
    · exact h
    · refine ite_sound (failFop_sound h) ?_
      split
      · exact freeEntry_sound h
      · exact ih (ih (freeEntry_sound h))
theorem markSent_sound (h : s.sound) : (s.markSent n op).sound := by
  induction n generalizing s op with
  | zero => exact h
  | succ n ih =>
    unfold State.markSent
    split
    · exact h
    · refine ite_sound (ite_sound h h) ?_
      split
      · exact h
      · exact ih (ih h)
theorem deliverFail_sound {f : Fop} {d : Deliver} (h : s.sound) : (s.deliverFail op f i d code addr).sound :=
  ite_sound h (failFop_sound h)
theorem deliverPiece_sound {f : Fop} {d : Deliver} (h : s.sound) : (s.deliverPiece op f i d).sound := by
  unfold State.deliverPiece
  dsimp only
  split
  · exact h
  · refine ite_sound h ?_
    split
    · exact deliverFail_sound (carryOut_sound h)
    · split
      · exact deliverFail_sound (homeAt_sound (carryOut_sound h))
      · exact setFop_sound (writePlain_sound (homeAt_sound (carryOut_sound h)))
theorem deliverSome_sound {f : Fop} (h : s.sound) : (s.deliverSome op f).sound := by
  unfold State.deliverSome
  dsimp only
  split
  · exact h
  · exact deliverPiece_sound h
theorem travelling_sound {k : Fop → State} (h : s.sound) (hk : ∀ {a}, (k a).sound) : (s.travelling op k).sound := by
  unfold State.travelling
  split
  · exact h
  · exact ite_sound h hk
theorem reaching_sound {k : State → Fop → State} (h : s.sound) (hk : ∀ {t a1}, t.sound → (k t a1).sound) :
    (s.reaching op k).sound := unmet_sound h fun ht => travelling_sound ht (hk ht)
theorem execFabricWriteAtHome_sound (h : s.sound) : (execFabricWriteAtHome s).sound :=
  next_sound (reaching_sound h fun ht => ite_sound (deliverSome_sound ht) ht)
theorem execMulticastMemberDelivery_sound (h : s.sound) : (execMulticastMemberDelivery s).sound :=
  next_sound (reaching_sound h fun ht => ite_sound (deliverSome_sound ht) ht)
theorem execRemoteBarrierIncrement_sound (h : s.sound) : (execRemoteBarrierIncrement s).sound := by
  unfold execRemoteBarrierIncrement
  dsimp only
  refine next_sound (travelling_sound h (fun {_} => ?_))
  split
  · exact h
  · split
    · exact h
    · exact ite_sound (deliverFail_sound h) (arrive_sound h)
theorem execPutAcknowledge_sound (h : s.sound) : (execPutAcknowledge s).sound :=
  next_sound (travelling_sound h (ite_sound (closeFop_sound (finishOp_sound h)) h))
theorem execRgetReadAtHome_sound (h : s.sound) : (execRgetReadAtHome s).sound := by
  unfold execRgetReadAtHome
  dsimp only
  refine next_sound (reaching_sound h (fun ht => ite_sound ht ?_))
  split
  · exact failFop_sound (homeRead_sound ht)
  · split
    · exact failFop_sound (carryBack_sound (homeRead_sound ht))
    · exact setFop_sound (carryBack_sound (homeRead_sound ht))
theorem landWord_sound (h : s.sound) : (s.landWord c off v).sound :=
  setTag_sound (mk_sound (Memory.wf_writeN h.1 ..) h.2)
theorem execRgetReply_sound (h : s.sound) : (execRgetReply s).sound := by
  unfold execRgetReply
  dsimp only
  refine next_sound (travelling_sound h (fun {_} => ?_))
  split
  · exact h
  · refine ite_sound h ?_
    split
    · exact endFop_sound (landWord_sound h)
    · exact arrival_sound (landWord_sound h)
theorem landPiece_sound {f : Fop} {p : ℕ × ℕ} {l : List ℕ} (h : s.sound) : (s.landPiece c f p l).sound :=
  ite_sound (fillTags_sound (mk_sound (Memory.wf_writeBytes h.1 ..) h.2)) (mk_sound (Memory.wf_writeBytes h.1 ..) h.2)
theorem execRgetvPieceLanding_sound (h : s.sound) : (execRgetvPieceLanding s).sound := by
  unfold execRgetvPieceLanding
  dsimp only
  refine next_sound (reaching_sound h (fun ht => ?_))
  split
  · refine ite_sound ht ?_
    split
    · exact failFop_sound (homeRead_sound ht)
    · split
      · exact failFop_sound (carryBack_sound (homeRead_sound ht))
      · exact setFop_sound (landPiece_sound (carryBack_sound (homeRead_sound ht)))
  · exact ht
  · exact ht
theorem execRgetvComplete_sound (h : s.sound) : (execRgetvComplete s).sound :=
  next_sound (travelling_sound h (ite_sound (closeFop_sound (finishOp_sound h)) h))
theorem combine_sound {f : Fop} {y : ℕ} {g : Fop} {buf : ℕ} (h : s.sound) : (s.combine x f y g buf).sound :=
  setFop_sound (setFop_sound (setFop_sound (ite_sound h h)))
theorem joinBuffer_sound {f : Fop} {buf : ℕ} (h : s.sound) : (s.joinBuffer op f buf).sound := by
  unfold State.joinBuffer
  dsimp only
  split
  · exact h
  · exact ite_sound (combine_sound h) h
theorem settleBuffer_sound {buf : ℕ} (h : s.sound) : (s.settleBuffer buf).sound := foldl_sound h joinBuffer_sound
theorem execCombineRequest_sound (h : s.sound) : (execCombineRequest s).sound := by
  unfold execCombineRequest
  dsimp only
  refine next_sound (travelling_sound h (fun {_} => ?_))
  split
  · exact h
  · exact ite_sound h (ite_sound h (ite_sound (settleBuffer_sound h) (ite_sound (markSent_sound h) h)))
theorem execRfopAtHome_sound (h : s.sound) : (execRfopAtHome s).sound := by
  unfold execRfopAtHome
  dsimp only
  refine next_sound (reaching_sound h (fun ht => ite_sound ht ?_))
  split
  · exact failCarried_sound (carryOut_sound ht)
  · split
    · exact failCarried_sound (homeModify_sound (carryOut_sound ht))
    · split
      · exact failCarried_sound (carryBack_sound (homeModify_sound (carryOut_sound ht)))
      · exact setFop_sound (carryBack_sound (homeModify_sound (carryOut_sound ht)))
theorem execCombinedReplySplit_sound (h : s.sound) : (execCombinedReplySplit s).sound := by
  unfold execCombinedReplySplit
  extract_lets op give
  refine next_sound (travelling_sound h fun {f} => ite_sound h ?_)
  extract_lets t
  have hgive {t i v} (ht : t.sound) : (give t i v).sound := by
    unfold give
    split
    · exact ht
    · exact setFop_sound ht
  have ht : t.sound := freeEntry_sound h
  split
  · exact ht
  · exact hgive (hgive ht)
theorem execRfopReply_sound (h : s.sound) : (execRfopReply s).sound := by
  unfold execRfopReply
  dsimp only
  refine next_sound (travelling_sound h (fun {_} => ?_))
  split
  · exact h
  · exact ite_sound h (endFop_sound (landWord_sound (ite_sound (landWord_sound h) h)))
theorem execRvatomAtHome_sound (h : s.sound) : (execRvatomAtHome s).sound := by
  unfold execRvatomAtHome
  dsimp only
  refine next_sound (reaching_sound h (fun ht => ?_))
  split
  · refine ite_sound ht ?_
    split
    · exact failFop_sound (carryOut_sound ht)
    · split
      · exact failFop_sound (homeModify_sound (carryOut_sound ht))
      · exact setFop_sound (homeModify_sound (carryOut_sound ht))
  · exact ht
  · exact ht
theorem failureEvent_sound (h : s.sound) : (s.failureEvent pkg part).sound := h
theorem dropCarriers_sound (h : s.sound) : s.dropCarriers.sound := foldl_sound h freeEntry_sound
theorem dropMembers_sound {f : Fop} (h : s.sound) : (s.dropMembers op q f).sound := setFop_sound (foldl_sound h id)
theorem failTo_sound (h : s.sound) : (s.failTo p q).sound := by
  unfold State.failTo
  dsimp only
  refine foldl_sound ?_ (fun ht => foldl_sound ht failCmd_sound)
  refine dropCarriers_sound (foldl_sound h (fun ht => ?_))
  split
  · exact ite_sound (dropMembers_sound ht) (failFop_sound ht)
  · exact ht
theorem peerDies_sound (h : s.sound) : (s.peerDies p q).sound :=
  ite_sound (failTo_sound h) (foldl_sound (failTo_sound h) id)
theorem execPeerTimeout_sound (h : s.sound) : (execPeerTimeout s).sound := next_sound (foldl_sound h peerDies_sound)

/-! ### Machine/Matrix -/

theorem modMx_sound {f : Machine.Matrix → Machine.Matrix} (h : s.sound) : (s.modMx c f).sound := h
theorem modAcc_sound {f : Machine.Acc → Machine.Acc} (h : s.sound) : (s.modAcc c f).sound := h
theorem execMxcall_sound {f : FmtXC} (h : s.sound) : (execMxcall f s).sound := by
  unfold execMxcall
  dsimp only
  refine next_sound (guarded_sound h (fun ht => ?_))
  split
  · exact ht
  · exact ite_sound ht ht
theorem mxprogOp_sound {i : Instr} {f : FmtXP} {top low : ℕ} {put : Prog → ℕ → Word → Prog} (h : s.sound) :
    (mxprogOp s i f top low put).sound :=
  next_sound
    (guarded_sound h fun ht => ite_sound ht
      (ite_sound ht (ite_sound ht (ite_sound ht (ite_sound ht (ite_sound ht (ite_sound ht ht)))))))
theorem execMxprog_sound {f : FmtXP} (h : s.sound) : (execMxprog f s).sound := mxprogOp_sound h
theorem execMxprogTab_sound {f : FmtXP} (h : s.sound) : (execMxprogTab f s).sound := mxprogOp_sound h
theorem accBusy_sound {t : ℕ} {k : Option Call} (h : s.sound) : (s.accBusy t k).sound := by
  unfold State.accBusy
  split <;> exact h
theorem execZrd_sound {f : FmtXZ} (h : s.sound) : (execZrd f s).sound := by
  unfold execZrd
  dsimp only
  refine next_sound (masked_sound h (fun ht => ?_))
  split
  · exact accBusy_sound ht
  · exact pushV_sound ht
theorem execZwr_sound {f : FmtXZ} (h : s.sound) : (execZwr f s).sound := by
  unfold execZwr
  dsimp only
  refine next_sound (masked_sound h (fun ht => ?_))
  split
  · exact accBusy_sound ht
  · exact modAcc_sound (vecOperands_sound ht)
theorem execMxstat_sound {f : FmtXS} (h : s.sound) : (execMxstat f s).sound :=
  next_sound (guarded_sound h fun ht => ite_sound (accBusy_sound ht) (pushS_sound (ite_sound ht (ite_sound ht ht))))
theorem releaseCalls_sound (h : s.sound) : (s.releaseCalls c).sound := foldl_sound h id
theorem mxFault_sound {seq : ℕ} (h : s.sound) : (s.mxFault c seq code addr).sound :=
  coreFault_sound (foldl_sound h fun ht => endOp_sound (barrierErr_sound ht))
theorem dropShadow_sound {k : Call} (h : s.sound) : (s.dropShadow c k).sound := ite_sound h h
theorem mxFail_sound {k : Call} (h : s.sound) : (s.mxFail c k code).sound :=
  ite_sound (mxFault_sound (dropShadow_sound h)) h
theorem mxHold_sound {k : Call} (h : s.sound) : (s.mxHold c k code).sound := by
  unfold State.mxHold
  split
  · exact h
  · exact ite_sound (mxFail_sound h) h
theorem microOp_sound {f : ℕ → Call → State} (h : s.sound) (hf : ∀ {a a1}, (f a a1).sound) :
    (microOp s f).sound := by
  unfold microOp
  refine next_sound ?_
  split
  · exact h
  · exact hf
theorem execMret_sound (h : s.sound) : (execMret s).sound := microOp_sound h (releaseCalls_sound h)
theorem withBase_sound {k : Call} {sel : ℕ} {f : State → ℕ → ℕ → ℕ → State} (h : s.sound)
    (hf : ∀ {t a1 a2 a3}, t.sound → (f t a1 a2 a3).sound) :
    (s.withBase c k sel f).sound :=
  ite_sound (hf h) (ite_sound (mxFail_sound h) (ite_sound (mxHold_sound h) (hf (ite_sound (setHandle_sound h) h))))
theorem execWld_sound {f : FmtUW} (h : s.sound) : (execWld f s).sound :=
  microOp_sound h (ite_sound h (withBase_sound h id))
theorem execWswap_sound (h : s.sound) : (execWswap s).sound := microOp_sound h (ite_sound h h)
theorem execAst_sound {f : FmtUA} (h : s.sound) : (execAst f s).sound :=
  microOp_sound h (ite_sound h (ite_sound (mxFail_sound h) (withBase_sound h id)))
theorem execZclr_sound {f : FmtUT} (h : s.sound) : (execZclr f s).sound := microOp_sound h (ite_sound h h)
theorem execZgrid_sound {f : FmtUG} (h : s.sound) : (execZgrid f s).sound := microOp_sound h (ite_sound h h)
theorem execZcvt_sound {f : FmtUC} (h : s.sound) : (execZcvt f s).sound := microOp_sound h (ite_sound h h)
theorem execMloop_sound {f : FmtUL} (h : s.sound) : (execMloop f s).sound := microOp_sound h (ite_sound h h)
theorem execMend_sound (h : s.sound) : (execMend s).sound := by
  unfold execMend
  refine microOp_sound h (fun {_ _} => ?_)
  split
  · exact h
  · exact ite_sound h h
theorem execMarrive_sound {f : FmtUR} (h : s.sound) : (execMarrive f s).sound :=
  microOp_sound h
    (ite_sound (ite_sound h (arrive_sound h)) (ite_sound h (arrive_sound (ite_sound (releaseCalls_sound h) h))))
theorem execMwait_sound {f : FmtUM} (h : s.sound) : (execMwait f s).sound :=
  microOp_sound h (ite_sound (mxFail_sound h) (ite_sound h (mxHold_sound h)))
theorem execMinc_sound {f : FmtUI} (h : s.sound) : (execMinc f s).sound := microOp_sound h h
theorem writeRow_sound {u : Uop} (h : s.sound) : (s.writeRow c u i).sound := by
  unfold State.writeRow
  extract_lets k r a b w s1 s2
  have h1 : s1.sound := mk_sound (Memory.wf_writeBytes (Memory.wf_writeBytes h.1 ..) ..) h.2
  exact modCtx_sound (ite_sound (fillTags_sound (fillTags_sound h1)) h1)
theorem stepRow_sound {u : Uop} (h : s.sound) : (s.stepRow c i u).sound :=
  ite_sound (ite_sound h h) (ite_sound h (writeRow_sound h))
theorem stepUop_sound (h : s.sound) : (s.stepUop c i).sound := by
  unfold State.stepUop
  dsimp only
  split
  · exact h
  · refine ite_sound h ?_
    split
    · exact ite_sound (mxFault_sound h) h
    · exact ite_sound h (stepRow_sound h)
theorem mxDispatch_sound (h : s.sound) : (s.mxDispatch c).sound := by
  unfold State.mxDispatch
  dsimp only
  split
  · exact h
  · split
    · split
      · exact h
      · exact nextEvent_sound h
    · exact h
theorem mxTick_sound (h : s.sound) : (s.mxTick c).sound := by
  unfold State.mxTick
  extract_lets s1 s2 s3 early s4
  have h4 : s4.sound := releaseCalls_sound (foldl_sound h stepUop_sound)
  exact ite_sound h4 (mxDispatch_sound h4)
theorem lastStep_sound (h : s.sound) : (s.lastStep c i).sound := by
  unfold State.lastStep
  dsimp only
  split
  · exact h
  · exact ite_sound h (stepRow_sound h)
theorem finishUop_sound (h : s.sound) : (s.finishUop c i n).sound := by
  induction n generalizing s with
  | zero => exact h
  | succ n ih =>
    unfold State.finishUop
    split
    · exact h
    · exact ite_sound (ih (stepRow_sound h)) h
theorem stopMatrix_sound (h : s.sound) : (s.stopMatrix c).sound := by
  unfold State.stopMatrix
  exact modMx_sound (modAcc_sound (foldl_sound (foldl_sound h lastStep_sound) finishUop_sound))
theorem execMicroopComplete_sound (h : s.sound) : (execMicroopComplete s).sound :=
  next_sound (ite_sound h (ite_sound (mxTick_sound h) h))

/-! ### Machine/Reduce -/

theorem modRedWin_sound {f : RedWin → RedWin} (h : s.sound) : (s.modRedWin pkg w f).sound := h
theorem finalise_sound {timedOut : Bool} (h : s.sound) : (s.finalise pkg w timedOut).sound := h
theorem acceptOne_sound {c : Contrib} (h : s.sound) : (s.acceptOne pkg w c).sound :=
  ite_sound (ite_sound h h) (ite_sound (ite_sound h h) (ite_sound h h))
theorem closeRred_sound (h : s.sound) : (s.closeRred op).sound := elim_sound h (endFop_sound h)
theorem acceptWaiting_sound {c : Contrib} (h : s.sound) : (s.acceptWaiting pkg w c).sound :=
  ite_sound (acceptOne_sound h) (closeRred_sound (acceptOne_sound h))
theorem settleRounds_sound (h : s.sound) : (s.settleRounds pkg w n).sound := by
  induction n generalizing s with
  | zero => exact h
  | succ n ih =>
    unfold State.settleRounds
    refine ite_sound (ih (finalise_sound h)) ?_
    split
    · exact ih (acceptWaiting_sound h)
    · dsimp only
      split
      · exact h
      · exact ih (acceptWaiting_sound h)
theorem carryContrib_sound {f : Fop} (h : s.sound) : (s.carryContrib op f).1.sound := carry_sound h
theorem execContributionAtRoot_sound (h : s.sound) : (execContributionAtRoot s).sound := by
  unfold execContributionAtRoot
  dsimp only
  refine next_sound (travelling_sound h (fun {_} => ite_sound h (ite_sound (failFop_sound h) ?_)))
  split
  · exact failFop_sound (carryContrib_sound h)
  · exact ite_sound (setFop_sound (acceptOne_sound (carryContrib_sound h)))
      (settleRounds_sound (closeRred_sound (acceptOne_sound (carryContrib_sound h))))
theorem advanceAll_sound {l : List (ℕ × Fop)} {stage : ℕ} (h : s.sound) : (s.advanceAll l stage).sound :=
  foldl_sound h id
theorem execCruPartialForward_sound (h : s.sound) : (execCruPartialForward s).sound := by
  unfold execCruPartialForward
  extract_lets pkg win s1 l d
  have h1 : s1.sound := advanceAll_sound h
  have hd : d.2.sound := draw_sound h1
  exact next_sound (ite_sound h (ite_sound h1 (ite_sound (advanceAll_sound hd) hd)))
theorem flushPartials_sound (h : s.sound) : (s.flushPartials pkg w num).sound := by
  unfold State.flushPartials
  dsimp only
  refine foldl_sound h fun ht => ?_
  split
  · exact failFop_sound (carryContrib_sound ht)
  · exact closeRred_sound (acceptOne_sound (carryContrib_sound ht))
theorem execRoundTimeout_sound (h : s.sound) : (execRoundTimeout s).sound :=
  next_sound (ite_sound (settleRounds_sound (finalise_sound (flushPartials_sound h))) h)
theorem endRound_sound (h : s.sound) : (s.endRound pkg w num).sound := ite_sound h h
theorem roundNext_sound {f : Fop} (h : s.sound) : (s.roundNext op f).sound := by
  unfold State.roundNext
  extract_lets pkg part n m dlv res s1 next s2 s3 s4
  have h1 : s1.sound := ite_sound h h
  have h3 : s3.sound := endRound_sound (foldl_sound h1 id)
  have h4 : s4.sound := foldl_sound h3 id
  exact ite_sound h
    (ite_sound (ite_sound (setFop_sound h4) (dropFop_sound (endOp_sound (modRedWin_sound h3)))) (dropFop_sound h))
theorem execRoundEndMessage_sound (h : s.sound) : (execRoundEndMessage s).sound := by
  unfold execRoundEndMessage
  dsimp only
  refine next_sound ?_
  split
  · split
    · exact h
    · exact ite_sound h h
  · refine roundNext_sound ?_
    split
    · exact h
    · exact ite_sound h h

/-! ### Machine/Sched -/

theorem readyNode_sound (h : s.sound) : (s.readyNode die idx).sound := h
theorem sendNotice_sound {n : Notice} (h : s.sound) : (s.sendNotice dst n).sound := ite_sound (nextEvent_sound h) h
theorem signal_sound {words : List Word} {fail : Bool} (h : s.sound) : (s.signal die idx words fail).sound :=
  foldl_sound h sendNotice_sound
theorem takeNotice_sound {f : Notice → State → State} (h : s.sound) (hf : ∀ {a t}, t.sound → (f a t).sound) :
    (s.takeNotice die i f).sound := by
  unfold State.takeNotice
  dsimp only
  split
  · exact h
  · exact ite_sound (hf h) h
theorem execDecrement_sound (h : s.sound) : (execDecrement s).sound :=
  next_sound (takeNotice_sound h fun ht => ite_sound ht (ite_sound ht ht))
theorem execFailureNotice_sound (h : s.sound) : (execFailureNotice s).sound :=
  next_sound (takeNotice_sound h fun ht => ite_sound ht (signal_sound ht))
theorem openRouters_sound {cls : List ℕ} (h : s.sound) : (s.openRouters cls).sound := foldl_sound h id
theorem completeNode_sound {words : List Word} {bad : Bool} (h : s.sound) : (s.completeNode die idx words bad).sound :=
  by
  unfold State.completeNode
  extract_lets e bad1 node p since pkg left s1 s2 s3 s4 s5 s6
  have h2 : s2.sound := sample_sound (foldl_sound h id)
  have h3 : s3.sound := by
    clear_value p
    unfold s3
    split
    · exact h2
    · refine ite_sound (openRouters_sound ?_) ?_ <;> split <;> exact h2
  have h5 : s5.sound := modNode_sound (modSched_sound h3)
  exact signal_sound (ite_sound (failureEvent_sound h5) h5)
theorem schedFault_sound (h : s.sound) : (s.schedFault die idx code addr).sound := h
theorem failDispatch_sound {words : List Word} (h : s.sound) : (s.failDispatch die idx words code addr).sound :=
  completeNode_sound h
theorem claimCores_sound {l : List Word} {cores gone : List ℕ} (h : s.sound) :
    (s.claimCores die idx l cores gone).sound := foldl_sound h id
theorem enterPlaced_sound {p : Placed} (h : s.sound) : (s.enterPlaced die idx p).sound := h
theorem placeCores_sound {l : List Word} {noDies : List ℕ} {t : State} (h : s.sound)
    (e : s.placeCores die idx l noDies = some t) : t.sound := by
  unfold State.placeCores at e
  split at e
  · cases e
    exact enterPlaced_sound (claimCores_sound h)
  · cases e
  · cases e
theorem placeList_sound {l : List Word} {t : State} (h : s.sound) (e : s.placeList die idx l = some t) : t.sound := by
  simp only [State.placeList, Option.ite_none_left_eq_some] at e
  obtain ⟨-, e⟩ := e
  split at e
  · cases e
    exact enterPlaced_sound h
  · cases e
    exact enterPlaced_sound (modSched_sound (foldl_sound h addCmd_sound))
theorem consider_sound {bl : Blocking} (h : s.sound) : (s.consider die bl idx).1.sound := by
  unfold State.consider
  dsimp only
  split
  · exact failDispatch_sound h
  · split
    next e =>
      split at e
      · cases e
      · split at e
        · exact placeCores_sound h e
        · exact placeList_sound h e
    next => exact h
theorem execSchedulerDispatch_sound (h : s.sound) : (execSchedulerDispatch s).sound :=
  next_sound (fst_foldl h consider_sound)
theorem execPriorityAging_sound (h : s.sound) : (execPriorityAging s).sound := next_sound (foldl_sound h id)
theorem execSkipLimit_sound (h : s.sound) : (execSkipLimit s).sound := next_sound h
theorem writeCode_sound {l : List ℕ} (h : s.sound) : (s.writeCode part cl off l).sound := foldl_sound h writePlain_sound
theorem loadSlots_sound {l cls : List ℕ} {t : State} (h : s.sound) (e : s.loadSlots l cls = some t) : t.sound := by
  unfold State.loadSlots at e
  dsimp only at e
  split at e
  · cases e
    exact foldl_sound h id
  · cases e
theorem copyCode_sound {p : Placed} (h : s.sound) : (s.copyCode b p).1.sound := by
  unfold State.copyCode
  dsimp only
  refine fst_ite h ?_
  split
  · exact engRead_sound h
  · exact foldl_sound (engRead_sound h) writeCode_sound
theorem copySlots_sound {p : Placed} (h : s.sound) : (s.copySlots b p).1.sound := by
  unfold State.copySlots
  extract_lets a n r
  have hr : r.1.sound := engRead_sound h
  refine fst_ite h (fst_ite (openRouters_sound h) (fst_ite h ?_))
  split
  · exact hr
  · split
    next e => exact loadSlots_sound hr e
    next => exact hr
theorem readBatch_sound {p : Placed} (h : s.sound) : (s.readBatch b p).1.sound := by
  unfold State.readBatch
  dsimp only
  refine fst_ite h ?_
  split <;> exact engRead_sound h
theorem freeCores_sound {p : Placed} (h : s.sound) : (s.freeCores p).sound := foldl_sound h id
theorem startCores_sound {p : Placed} (h : s.sound) : (s.startCores p).sound :=
  ite_sound (foldl_sound (foldl_sound h id) id) (foldl_sound h id)
theorem execCodeCopyComplete_sound (h : s.sound) : (execCodeCopyComplete s).sound := by
  unfold execCodeCopyComplete
  extract_lets die node
  refine next_sound (unmet_sound h fun ht => ?_)
  split
  · exact ht
  · extract_lets b fails resumes r1 r2 r3
    have hfails {t e} (ht : t.sound) : (fails t e).sound := failDispatch_sound (freeCores_sound ht)
    have h1 : r1.1.sound := copyCode_sound ht
    have h2 : r2.1.sound := copySlots_sound h1
    have h3 : r3.1.sound := readBatch_sound h2
    refine ite_sound ht (ite_sound (completeNode_sound (freeCores_sound ht)) ?_)
    split
    · exact hfails h1
    · split
      · exact hfails h2
      · refine ite_sound (modSched_sound h2) ?_
        split
        · exact hfails h3
        · exact modSched_sound (startCores_sound h3)
theorem pushBatch_sound {at_ r : ℕ} (h : s.sound) : (s.pushBatch die node at_ r).sound := ite_sound h h
theorem pushRoom_sound {l : List ℕ} (h : s.sound) : (s.pushRoom die node a l i).1.sound := by
  induction l generalizing s i with
  | nil => exact h
  | cons r l ih => exact fst_ite (ih (pushBatch_sound h)) h
theorem execBatchPush_sound (h : s.sound) : (execBatchPush s).sound := by
  unfold execBatchPush
  dsimp only
  refine next_sound ?_
  split
  · exact h
  · exact ite_sound h (modSched_sound (pushRoom_sound h))
theorem endCoreOps_sound (h : s.sound) : (s.endCoreOps c).sound := foldl_sound h id
theorem freeCore_sound (h : s.sound) : (s.freeCore c).sound := h
theorem idleCore_sound (h : s.sound) : (s.idleCore c).sound := h
theorem leaveNode_sound {p : Placed} (h : s.sound) : (s.leaveNode c idx i p).sound := by
  unfold State.leaveNode
  extract_lets k die1 disc s1 s2 p1 s3 s4
  have h1 : s1.sound := modNode_sound (endCoreOps_sound (leaveSync_sound h))
  have h3 : s3.sound := modSched_sound (idleChord_sound (freeCore_sound h1))
  exact ite_sound h3 (completeNode_sound (foldl_sound h3 fun ht => ite_sound ht ht))
theorem endStart_sound (h : s.sound) : (s.endStart c).sound := by
  unfold State.endStart
  extract_lets die1 s1
  have h1 : s1.sound := modSched_sound (idleCore_sound (endCoreOps_sound h))
  exact elim_sound h1 (engineFault_sound h1)
theorem execCoreLeaveNode_sound (h : s.sound) : (execCoreLeaveNode s).sound := by
  unfold execCoreLeaveNode
  dsimp only
  refine next_sound (ite_sound h (ite_sound (ite_sound (endStart_sound h) h) (ite_sound h ?_)))
  split
  · exact h
  · exact ite_sound h (leaveNode_sound h)
theorem badEntry_sound {p : Placed} (h : s.sound) : (s.badEntry die idx code addr p).sound := h
theorem listNext_sound {p : Placed} (h : s.sound) : (s.listNext die idx op p).sound := h
theorem listCopy_sound {p : Placed} {l : List ℕ} (h : s.sound) : (s.listCopy b idx a p l).sound := by
  unfold State.listCopy
  dsimp only
  split
  · exact h
  · refine ite_sound h ?_
    split <;> exact h
theorem listStack_sound {p : Placed} {l : List ℕ} (h : s.sound) : (s.listStack b idx a p l).sound := by
  unfold State.listStack
  dsimp only
  refine ite_sound h (ite_sound h ?_)
  split
  · exact badEntry_sound (engRead_sound h)
  · exact ite_sound (badEntry_sound (engRead_sound h)) (listNext_sound (modDie_sound (newOp_sound (engRead_sound h))))
theorem issueEntry_sound {p : Placed} (h : s.sound) : (s.issueEntry die idx p).sound := by
  unfold State.issueEntry
  extract_lets b xfer n a r
  refine ite_sound h ?_
  have hr : r.1.sound := engRead_sound h
  split
  · exact hr
  · exact ite_sound (listCopy_sound hr) (listStack_sound hr)
theorem execEngineNodeComplete_sound (h : s.sound) : (execEngineNodeComplete s).sound := by
  unfold execEngineNodeComplete
  dsimp only
  refine next_sound (unmet_sound h (fun ht => ?_))
  split
  · exact ht
  · exact ite_sound ht (ite_sound ht (ite_sound (issueEntry_sound ht) (ite_sound (completeNode_sound ht) ht)))
theorem execNotifyRingWrite_sound (h : s.sound) : (execNotifyRingWrite s).sound := by
  unfold execNotifyRingWrite
  dsimp only
  refine next_sound ?_
  split
  · exact h
  · exact ite_sound h
      (ite_sound (completeNode_sound h)
        (ite_sound (failDispatch_sound h)
          (ite_sound h
            (ite_sound (failDispatch_sound h)
              (modSched_sound (mk_sound (Memory.wf_writeN (Memory.wf_writeN h.1 ..) ..) h.2))))))
theorem execNotifyAck_sound (h : s.sound) : (execNotifyAck s).sound := by
  unfold execNotifyAck
  dsimp only
  refine next_sound ?_
  split
  · exact h
  · exact ite_sound (completeNode_sound h) h
theorem modRegs_sound {f : SchedRegs → SchedRegs} (h : s.sound) : (s.modRegs die f).sound := h
theorem execCorestartGo_sound (h : s.sound) : (execCorestartGo s).sound := by
  unfold execCorestartGo
  dsimp only
  refine next_sound (ite_sound h ?_)
  split
  · exact h
  · split
    · exact h
    · exact ite_sound h h
theorem execCoreMapWrite_sound (h : s.sound) : (execCoreMapWrite s).sound :=
  next_sound (ite_sound (writeCoreMap_sound h) h)

/-! ### Machine/ImageData -/

theorem numberCore_sound (h : s.sound) : (s.numberCore c).sound := h
theorem addSaved_sound {m : Cmd} (h : s.sound) : (s.addSaved c m).sound := addCmd_sound (snd_ite h h)

/-! ### Machine/Image -/

theorem refusePreempt_sound (h : s.sound) : (s.refusePreempt die node).sound := by
  unfold State.refusePreempt
  dsimp only
  split <;> exact h
theorem preemptGo_sound {base : ℕ} {start : State → State} (h : s.sound) (hstart : ∀ {t}, t.sound → (start t).sound) :
    (s.preemptGo die op base node start).sound := ite_sound (refusePreempt_sound h) (hstart h)
theorem preemptEnd_sound {fail : Bool} (h : s.sound) : (s.preemptEnd die fail).sound := h
theorem execPreemptRequeue_sound (h : s.sound) : (execPreemptRequeue s).sound :=
  next_sound (ite_sound (preemptGo_sound h id) h)
theorem execPreemptPark_sound (h : s.sound) : (execPreemptPark s).sound :=
  next_sound (ite_sound (preemptGo_sound h id) h)
theorem execPreemptResume_sound (h : s.sound) : (execPreemptResume s).sound :=
  next_sound (ite_sound (preemptGo_sound h id) h)
theorem stopCore_sound (h : s.sound) : (s.stopCore c).sound :=
  modCore_sound (foldl_sound (elim_sound (stopMatrix_sound h) (slotEnd_sound (stopMatrix_sound h))) reflight_sound)
theorem pullCmds_sound {cls : List ℕ} {mine : Cmd → Bool} (h : s.sound) : (s.pullCmds cls mine).1.sound :=
  fst_foldl h id
theorem stopForSave_sound {p : Placed} (h : s.sound) : (s.stopForSave die idx p).sound := by
  unfold State.stopForSave
  dsimp only
  refine modRegs_sound (modSched_sound (pullCmds_sound ?_))
  split
  · exact modDomain_sound (ite_sound (foldl_sound (foldl_sound h stopCore_sound) id) (foldl_sound h stopCore_sound))
  · exact ite_sound (foldl_sound (foldl_sound h stopCore_sound) id) (foldl_sound h stopCore_sound)
theorem execPreemptStop_sound (h : s.sound) : (execPreemptStop s).sound := by
  unfold execPreemptStop
  dsimp only
  refine next_sound (ite_sound h ?_)
  split
  · exact h
  · exact ite_sound h (ite_sound (nextEvent_sound (nextEvent_sound h)) (stopForSave_sound h))
theorem abandon_sound {p : Placed} (h : s.sound) : (s.abandon die idx p).sound :=
  foldl_sound
    (foldl_sound (foldl_sound h fun ht => foldl_sound ht failCmd_sound) fun ht => modDie_sound
      (foldl_sound ht fun hu => failOp_sound (seStatus_sound hu))) failFop_sound
theorem execDrainTimeout_sound (h : s.sound) : (execDrainTimeout s).sound := by
  unfold execDrainTimeout
  dsimp only
  refine next_sound (foldl_sound ?_ abandon_sound)
  split
  · exact ite_sound (abandon_sound h) h
  · exact h
theorem saveOne_sound {base : ℕ} {p : Placed} (h : s.sound) : (s.saveOne die idx base p i).1.sound := by
  unfold State.saveOne
  dsimp only
  split
  · exact h
  · refine fst_ite h ?_
    split
    · exact schedFault_sound (engWriteAll_sound h)
    · exact modSched_sound (engWriteAll_sound h)
theorem releasePlaced_sound {p : Placed} (h : s.sound) : (s.releasePlaced die idx p).sound := by
  unfold State.releasePlaced
  dsimp only
  refine modSched_sound ?_
  split
  · exact modPkg_sound (ite_sound (openRouters_sound (foldl_sound (foldl_sound h id) id)) (foldl_sound h id))
  · exact ite_sound (openRouters_sound (foldl_sound (foldl_sound h id) id)) (foldl_sound h id)
theorem execImageSave_sound (h : s.sound) : (execImageSave s).sound := by
  unfold execImageSave
  extract_lets die
  refine next_sound (unmet_sound h fun ht => ?_)
  extract_lets r
  refine ite_sound ht ?_
  split
  · exact ht
  · extract_lets x gone freed freed1 s1 s2
    have hx : x.1.sound := fst_foldl ht saveOne_sound
    have hfreed : freed1.sound :=
      foldl_sound (foldl_sound (foldl_sound hx id) fun hu => freeCore_sound (endCoreOps_sound hu)) fun hu =>
        ite_sound hu hu
    have h1 : s1.sound := modSched_sound (releasePlaced_sound hx)
    exact ite_sound ht (ite_sound (preemptEnd_sound (completeNode_sound hfreed))
      (preemptEnd_sound (ite_sound (modNode_sound h1) (readyNode_sound h1))))
theorem checkImage_sound (h : s.sound) : (s.checkImage die idx n).1.sound := by
  unfold State.checkImage
  extract_lets pkg part w0 w1 d size r
  have hr : r.1.sound := by
    obtain ⟨m, hm⟩ : ∃ m, r = s.engRead (s.nodeIssuer die idx) w1 m := ⟨_, rfl⟩
    exact hm ▸ engRead_sound h
  refine fst_ite h ?_
  split
  · exact pair_sound hr
  · refine fst_ite (pair_sound hr) (fst_ite (pair_sound hr) ?_)
    split
    · exact pair_sound hr
    · extract_lets k
      split <;> exact pair_sound hr
theorem restoreSpm_sound {i : Image} (h : s.sound) : (s.restoreSpm c i).sound := by
  unfold State.restoreSpm
  extract_lets m s1
  have hm : m.wf = true := Memory.wf_zero h.1 ..
  have h1 : s1.sound :=
    mk_sound (List.foldlRecOn (motive :=
      fun m : Memory => m.wf = true) _ _ hm fun _ hm _ _ => Memory.wf_write hm ..) h.2
  exact foldl_sound h1 setTag_sound
theorem refetchQueue_sound (h : s.sound) : (s.refetchQueue c).sound := h
theorem rearm_sound (h : s.sound) : (s.rearm c).sound := h
theorem rewatch_sound {i : Image} (h : s.sound) : (s.rewatch c i).sound := h
theorem loadImage_sound {i : Image} (h : s.sound) : (s.loadImage c i).sound := by
  unfold State.loadImage
  extract_lets now s1 s2 s3 s4
  have h3 : s3.sound :=
    rearm_sound (refetchQueue_sound (rewatch_sound (numberCore_sound (modCore_sound (restoreSpm_sound h)))))
  exact foldl_sound (ite_sound h3 (matureNow_sound h3)) addSaved_sound
theorem execImageRestore_sound (h : s.sound) : (execImageRestore s).sound := by
  unfold execImageRestore
  extract_lets die node
  refine next_sound (unmet_sound h fun ht => ?_)
  split
  · extract_lets x s1 s2 s3
    have hx : x.1.sound := by
      refine fst_foldl ht fun hu => ?_
      extract_lets n y
      have hy : y.1.sound := checkImage_sound hu
      split
      · exact schedFault_sound hy
      · exact hy
    have h1 : s1.sound := completeNode_sound (freeCores_sound hx)
    have h2 : s2.sound := foldl_sound hx loadImage_sound
    have h3 : s3.sound := by
      refine ite_sound (foldl_sound h2 fun hu => ?_) h2
      split <;> exact hu
    exact ite_sound ht (ite_sound (completeNode_sound (freeCores_sound ht))
      (ite_sound (ite_sound (modRegs_sound h1) h1) (modSched_sound h3)))
  · exact ht
  · exact ht

/-! ### Machine/Host -/

theorem checkPartner_sound (h : s.sound) : (s.checkPartner pkg part d).sound := ite_sound h h
theorem execDieTableWrite_sound (h : s.sound) : (execDieTableWrite s).sound :=
  next_sound (ite_sound h (ite_sound h (ite_sound h (foldl_sound h checkPartner_sound))))
theorem execWindowTableWrite_sound (h : s.sound) : (execWindowTableWrite s).sound :=
  next_sound (ite_sound h (ite_sound h h))
theorem writeRound_sound {win : ℕ} (h : s.sound) : (s.writeRound pkg win val).sound := ite_sound h h
theorem execReductionWindowWrite_sound (h : s.sound) : (execReductionWindowWrite s).sound :=
  next_sound (ite_sound h (ite_sound h (ite_sound h (ite_sound h (ite_sound (writeRound_sound h) h)))))
theorem execRankMapWrite_sound (h : s.sound) : (execRankMapWrite s).sound := by
  unfold execRankMapWrite
  dsimp only
  refine next_sound (ite_sound h ?_)
  split <;> exact h
theorem execGraphTableWrite_sound (h : s.sound) : (execGraphTableWrite s).sound :=
  next_sound (ite_sound h (ite_sound h h))
theorem execContextTableWrite_sound (h : s.sound) : (execContextTableWrite s).sound :=
  next_sound (ite_sound h (ite_sound h h))
theorem execKeyTableWrite_sound (h : s.sound) : (execKeyTableWrite s).sound := next_sound (ite_sound h (ite_sound h h))
theorem execSweepRekey_sound (h : s.sound) : (execSweepRekey s).sound := next_sound (sweepStep_sound h)
theorem execDeadPeerClear_sound (h : s.sound) : (execDeadPeerClear s).sound := next_sound (ite_sound h h)
theorem execEfqPop_sound (h : s.sound) : (execEfqPop s).sound := next_sound (ite_sound h h)
theorem execMonownWrite_sound (h : s.sound) : (execMonownWrite s).sound := next_sound (ite_sound h h)
theorem execMonitorPeriodicSample_sound (h : s.sound) : (execMonitorPeriodicSample s).sound :=
  next_sound (ite_sound h (ite_sound h (ite_sound h (ite_sound h (ite_sound h h)))))
theorem execSlotTableEffect_sound (h : s.sound) : (execSlotTableEffect s).sound := by
  unfold execSlotTableEffect
  dsimp only
  refine next_sound ?_
  split
  · exact h
  · exact ite_sound h h
theorem launchNode_sound {seq : ℕ} (h : s.sound) : (s.launchNode die idx part seq).sound := ite_sound h h
theorem startGraph_sound {gs : List (ℕ × ℕ)} {ps : List (ℕ × ℕ × ℕ)} (h : s.sound) :
    (s.startGraph pkg part gs ps).sound :=
  foldl_sound (modPart_sound (foldl_sound h id)) fun ht => foldl_sound ht launchNode_sound
theorem execLaunch_sound (h : s.sound) : (execLaunch s).sound :=
  next_sound
    (ite_sound h
      (ite_sound h (ite_sound h (ite_sound h (ite_sound h (ite_sound h (ite_sound h (startGraph_sound h))))))))
theorem partReg_sound {f : Machine.Part → Machine.Part} (h : s.sound) : (s.partReg who pkg part f).sound :=
  ite_sound h h
theorem coreReg_sound (h : s.sound) : (s.coreReg who c x n v).sound := ite_sound (writeCsr_sound h) h
theorem storeWord_sound (h : s.sound) : (s.storeWord who die idx val).sound := ite_sound h h
theorem plainReg_sound {unit reg : ℕ} (h : s.sound) : (s.plainReg who unit reg idx val).sound := by
  unfold State.plainReg
  split
  · exact ite_sound h h
  · exact ite_sound h h
  · exact ite_sound h h
  · exact ite_sound h h
  · exact ite_sound h h
  · exact h
theorem execRegisterWrite_sound (h : s.sound) : (execRegisterWrite s).sound :=
  next_sound
    (ite_sound (partReg_sound h)
      (ite_sound (ite_sound h h)
        (ite_sound (storeWord_sound h)
          (ite_sound (ite_sound h (ite_sound (ite_sound (refusePreempt_sound h) h) h))
            (ite_sound (coreReg_sound h) (plainReg_sound h))))))

/-! ### Machine/Secure -/

theorem zeroCore_sound (h : s.sound) : (s.zeroCore c).sound := modCore_sound (mk_sound (Memory.wf_zero h.1 ..) h.2)
theorem zeroQuarter_sound (h : s.sound) : (s.zeroQuarter pkg q).sound := by
  have hf {s : State} {a n : ℕ} {tags : List ℕ} (h : s.sound) : State.sound { s with mem := s.mem.zero a n, tags :=
    tags } :=
    ⟨Memory.wf_zero h.1 .., h.2⟩
  unfold State.zeroQuarter
  exact hf (foldl_sound h fun ht => hf (foldl_sound ht fun hu => ite_sound (zeroCore_sound hu) (hf hu)))
theorem measureOwners_sound {parts : List ℕ} (h : s.sound) : (s.measureOwners pkg parts).sound := foldl_sound h id
theorem measureNew_sound (h : s.sound) : (s.measureNew pkg part).sound := h
theorem random256_sound (h : s.sound) : s.random256.2.sound := h
theorem freshKeys_sound (h : s.sound) : (s.freshKeys pkg part).sound :=
  modPart_sound (random256_sound (foldl_sound h id))
theorem eraseKeys_sound (h : s.sound) : (s.eraseKeys pkg part).sound :=
  modPart_sound (ite_sound (foldl_sound h fun ht => ite_sound ht ht) h)
theorem resetNodes_sound (h : s.sound) : (s.resetNodes die part).sound := by
  unfold State.resetNodes
  extract_lets s1
  have h1 : s1.sound := by
    refine foldl_sound h fun ht => ?_
    extract_lets s2 s3
    have h2 : s2.sound := stopNode_sound ht
    refine completeNode_sound ?_
    unfold s3
    split
    · exact h2
    · exact foldl_sound (foldl_sound (foldl_sound h2 fun hu => freeCore_sound (endCoreOps_sound hu)) id)
        fun hu => ite_sound hu hu
  exact foldl_sound h1 id
theorem resetStarted_sound (h : s.sound) : (s.resetStarted die part).sound := by
  unfold State.resetStarted
  split
  · exact h
  · exact ite_sound (modRegs_sound (idleCore_sound (endCoreOps_sound (killCore_sound h)))) h
theorem dropEngineOps_sound (h : s.sound) : (s.dropEngineOps pkg part).sound := foldl_sound h id
theorem dropFabric_sound {of_ : Fop → Bool} (h : s.sound) : (s.dropFabric pkg of_).sound := by
  unfold State.dropFabric
  extract_lets own s1 keep s2 s3 rest
  have h1 : s1.sound := foldl_sound h id
  exact mk_sound h1.1 h1.2
theorem clearTables_sound (h : s.sound) : (s.clearTables pkg part).sound := h
theorem dropCopies_sound (h : s.sound) : (s.dropCopies pkg part).sound := h
theorem quell_sound (h : s.sound) : (s.quell pkg part).sound :=
  openRouters_sound
    (dropFabric_sound
      (dropCopies_sound (dropEngineOps_sound (foldl_sound h fun ht => resetStarted_sound (resetNodes_sound ht)))))
theorem beginReset_sound (h : s.sound) : (s.beginReset pkg part).sound := modPart_sound (quell_sound h)
theorem resetPart_sound (h : s.sound) : (s.resetPart pkg part).sound := by
  unfold State.resetPart
  extract_lets s1 s2 s3 s4 now
  have h3 : s3.sound := eraseKeys_sound (clearTables_sound (foldl_sound (quell_sound h) zeroQuarter_sound))
  exact modPart_sound (ite_sound (measureNew_sound (freshKeys_sound h3)) h3)
theorem execFunctionLevelReset_sound (h : s.sound) : (execFunctionLevelReset s).sound :=
  next_sound (ite_sound (ite_sound (resetPart_sound h) h) (ite_sound (beginReset_sound h) h))
theorem definePart_sound {prot : Bool} (h : s.sound) : (s.definePart pkg part prot).sound :=
  measureNew_sound (ite_sound (freshKeys_sound h) h)
theorem execPctlDefine_sound (h : s.sound) : (execPctlDefine s).sound :=
  next_sound
    (ite_sound h
      (ite_sound h
        (ite_sound (beginReset_sound (ite_sound (definePart_sound h) h)) (ite_sound (definePart_sound h) h))))
theorem emptyCore_sound (h : s.sound) : (s.emptyCore c).sound := ite_sound h (modCore_sound (foldl_sound h id))
theorem passQuarter_sound {old : Option ℕ} (h : s.sound) : (s.passQuarter pkg q old).sound := by
  unfold State.passQuarter
  extract_lets cls die1 s1 s2
  have h2 : s2.sound := openRouters_sound (zeroQuarter_sound (foldl_sound h emptyCore_sound))
  split
  · exact h2
  · exact modDie_sound (dropFabric_sound (dropEngineOps_sound h2))
theorem changeOwners_sound {kind : ℕ} {new : Owners} {l : List (ℕ × Option ℕ × Option ℕ)} (h : s.sound) :
    (s.changeOwners pkg kind new l).sound := by
  unfold State.changeOwners
  extract_lets s1 s2 s3
  have h3 : s3.sound := foldl_sound (ite_sound (foldl_sound h passQuarter_sound) h) id
  exact ite_sound h3 (measureOwners_sound h3)
theorem execOwnershipWrite_sound (h : s.sound) : (execOwnershipWrite s).sound := by
  unfold execOwnershipWrite
  dsimp only
  refine next_sound (ite_sound h ?_)
  split
  · exact h
  · exact changeOwners_sound h
theorem writeReport_sound (h : s.sound) : (s.writeReport pkg part).sound :=
  foldl_sound (modPart_sound (ite_sound h (mk_sound (Memory.wf_writeBytes h.1 ..) h.2))) id
theorem execQnonceWrite_sound (h : s.sound) : (execQnonceWrite s).sound :=
  next_sound (ite_sound h (modPart_sound (ite_sound (writeReport_sound h) h)))
theorem execReportWritten_sound (h : s.sound) : (execReportWritten s).sound :=
  next_sound (ite_sound (writeReport_sound h) h)
theorem execExtendWrite_sound (h : s.sound) : (execExtendWrite s).sound := next_sound (ite_sound h h)
theorem execKeyload_sound (h : s.sound) : (execKeyload s).sound := by
  unfold execKeyload
  dsimp only
  refine next_sound (ite_sound h (ite_sound h (ite_sound h (ite_sound h ?_))))
  split <;> exact h
theorem execHeartbeat_sound (h : s.sound) : (execHeartbeat s).sound := next_sound (ite_sound h h)
theorem execHeartbeatPeriodExpiry_sound (h : s.sound) : (execHeartbeatPeriodExpiry s).sound :=
  next_sound (ite_sound h h)
theorem execGraceExpiry_sound (h : s.sound) : (execGraceExpiry s).sound :=
  next_sound (ite_sound (foldl_sound (modPart_sound (eraseKeys_sound h)) fun ht => foldl_sound ht stopNode_sound) h)
theorem coreError_sound (h : s.sound) : (s.coreError c addr).sound :=
  ite_sound (failureEvent_sound (stopNode_sound h)) (ite_sound (failureEvent_sound (killCore_sound h)) h)
theorem opError_sound (h : s.sound) : (s.opError op addr).sound := by
  unfold State.opError
  split
  · exact ite_sound h (failureEvent_sound (failCarried_sound h))
  · split
    · exact failureEvent_sound (failCmd_sound h)
    · split
      · exact h
      · exact failureEvent_sound (seDrop_sound (failOp_sound (seStatus_sound h)))
theorem streamError_sound (h : s.sound) : (s.streamError c k addr).sound :=
  ite_sound (failureEvent_sound (landEntry_sound (streamFault_sound h))) h
theorem schedError_sound (h : s.sound) : (s.schedError die node addr).sound := by
  unfold State.schedError
  dsimp only
  split
  · exact h
  · exact ite_sound (failureEvent_sound (failDispatch_sound (freeCores_sound h))) (ite_sound h h)
theorem execUncorrectableError_sound (h : s.sound) : (execUncorrectableError s).sound := by
  unfold execUncorrectableError
  dsimp only
  refine next_sound ?_
  split
  · exact coreError_sound h
  · exact opError_sound h
  · exact streamError_sound h
  · exact schedError_sound h
theorem execPackageReset_sound (h : s.sound) : (execPackageReset s).sound := by
  unfold execPackageReset
  extract_lets pkg s1 ops s2 s3 now fw
  have h3 : s3.sound := foldl_sound (foldl_sound (dropFabric_sound h) id) dropEngineOps_sound
  refine next_sound (ite_sound h ?_)
  clear_value s3
  exact (mk_sound (cellsWf_filter _ h3.1) h3.2)
theorem execIslctlWrite_sound (h : s.sound) : (execIslctlWrite s).sound := next_sound (ite_sound h (ite_sound h h))
theorem execIslandChangeDone_sound (h : s.sound) : (execIslandChangeDone s).sound := next_sound (ite_sound h h)
theorem writePgctl_sound (h : s.sound) : (s.writePgctl who pkg g val).sound := ite_sound h h
theorem execPgctlDrain_sound (h : s.sound) : (execPgctlDrain s).sound := next_sound (writePgctl_sound h)
theorem execPgctlLoad_sound (h : s.sound) : (execPgctlLoad s).sound := next_sound (writePgctl_sound h)
theorem execFirmwareLoadDone_sound (h : s.sound) : (execFirmwareLoadDone s).sound :=
  next_sound (ite_sound h (ite_sound h (foldl_sound h id)))

/-! ### Machine/Dispatch -/

theorem exec_sound (i : Instr) (h : s.sound) : Out.sound (exec i s) :=
  match i with
  | .emptyBundle => execEmptyBundle_sound h
  | .nop _ => execNop_sound h
  | .prep _ => execPrep_sound h
  | .prepr _ => execPrepr_sound h
  | .trans _ => execTrans_sound h
  | .loopImm _ => execLoopImm_sound h
  | .loopReg _ => execLoopReg_sound h
  | .sync _ => execSync_sound h
  | .syncj _ => execSyncj_sound h
  | .syncl _ => execSyncl_sound h
  | .join _ => execJoin_sound h
  | .joinW _ => execJoinW_sound h
  | .detach _ => execDetach_sound h
  | .smode _ => execSmode_sound h
  | .spawn _ => execSpawn_sound h
  | .suspend _ => execSuspend_sound h
  | .yield _ => execYield_sound h
  | .halt _ => execHalt_sound h
  | .trap _ => execTrap_sound h
  | .tret _ => execTret_sound h
  | .add _ => execAdd_sound h
  | .sub _ => execSub_sound h
  | .mul _ => execMul_sound h
  | .mulh _ => execMulh_sound h
  | .div _ => execDiv_sound h
  | .rem _ => execRem_sound h
  | .addi _ => execAddi_sound h
  | .addiWide _ => execAddiWide_sound h
  | .movi _ => execMovi_sound h
  | .moviWide _ => execMoviWide_sound h
  | .moviHi _ => execMoviHi_sound h
  | .and _ => execAnd_sound h
  | .or _ => execOr_sound h
  | .xor _ => execXor_sound h
  | .shl _ => execShl_sound h
  | .shr _ => execShr_sound h
  | .sar _ => execSar_sound h
  | .min _ => execMin_sound h
  | .max _ => execMax_sound h
  | .umin _ => execUmin_sound h
  | .umax _ => execUmax_sound h
  | .clz _ => execClz_sound h
  | .popc _ => execPopc_sound h
  | .sel _ => execSel_sound h
  | .cmp _ => execCmp_sound h
  | .cmpi _ => execCmpi_sound h
  | .cmpiWide _ => execCmpiWide_sound h
  | .andi _ => execAndi_sound h
  | .andiWide _ => execAndiWide_sound h
  | .ori _ => execOri_sound h
  | .oriWide _ => execOriWide_sound h
  | .xori _ => execXori_sound h
  | .xoriWide _ => execXoriWide_sound h
  | .shli _ => execShli_sound h
  | .shri _ => execShri_sound h
  | .sari _ => execSari_sound h
  | .fadd _ => execFadd_sound h
  | .faddWide _ => execFaddWide_sound h
  | .fmul _ => execFmul_sound h
  | .fmulWide _ => execFmulWide_sound h
  | .ffma _ => execFfma_sound h
  | .ffmaWide _ => execFfmaWide_sound h
  | .fcvt _ => execFcvt_sound h
  | .fcvtWide _ => execFcvtWide_sound h
  | .csrr _ => execCsrr_sound h
  | .csrw _ => execCsrw_sound h
  | .movm _ => execMovm_sound h
  | .ld _ => execLd_sound h
  | .ldWide _ => execLdWide_sound h
  | .st _ => execSt_sound h
  | .stWide _ => execStWide_sound h
  | .ldf _ => execLdf_sound h
  | .ldfWide _ => execLdfWide_sound h
  | .lde _ => execLde_sound h
  | .ldeWide _ => execLdeWide_sound h
  | .ste _ => execSte_sound h
  | .steWide _ => execSteWide_sound h
  | .tage _ => execTage_sound h
  | .tageWide _ => execTageWide_sound h
  | .tagf _ => execTagf_sound h
  | .tagfWide _ => execTagfWide_sound h
  | .vld _ => execVld_sound h
  | .vldWide _ => execVldWide_sound h
  | .vst _ => execVst_sound h
  | .vstWide _ => execVstWide_sound h
  | .vldx _ => execVldx_sound h
  | .vstx _ => execVstx_sound h
  | .vadd _ => execVadd_sound h
  | .vaddWide _ => execVaddWide_sound h
  | .vsub _ => execVsub_sound h
  | .vsubWide _ => execVsubWide_sound h
  | .vmul _ => execVmul_sound h
  | .vmulWide _ => execVmulWide_sound h
  | .vmin _ => execVmin_sound h
  | .vminWide _ => execVminWide_sound h
  | .vmax _ => execVmax_sound h
  | .vmaxWide _ => execVmaxWide_sound h
  | .vand _ => execVand_sound h
  | .vandWide _ => execVandWide_sound h
  | .vor _ => execVor_sound h
  | .vorWide _ => execVorWide_sound h
  | .vxor _ => execVxor_sound h
  | .vxorWide _ => execVxorWide_sound h
  | .vshl _ => execVshl_sound h
  | .vshlWide _ => execVshlWide_sound h
  | .vshr _ => execVshr_sound h
  | .vshrWide _ => execVshrWide_sound h
  | .vsar _ => execVsar_sound h
  | .vsarWide _ => execVsarWide_sound h
  | .vcmp _ => execVcmp_sound h
  | .vsel _ => execVsel_sound h
  | .vselWide _ => execVselWide_sound h
  | .vcvt _ => execVcvt_sound h
  | .vcvtWide _ => execVcvtWide_sound h
  | .vperm _ => execVperm_sound h
  | .vbcast _ => execVbcast_sound h
  | .vaddF _ => execVaddF_sound h
  | .vaddFWide _ => execVaddFWide_sound h
  | .vsubF _ => execVsubF_sound h
  | .vsubFWide _ => execVsubFWide_sound h
  | .vmulF _ => execVmulF_sound h
  | .vmulFWide _ => execVmulFWide_sound h
  | .vfma _ => execVfma_sound h
  | .vfmaWide _ => execVfmaWide_sound h
  | .vminF _ => execVminF_sound h
  | .vminFWide _ => execVminFWide_sound h
  | .vmaxF _ => execVmaxF_sound h
  | .vmaxFWide _ => execVmaxFWide_sound h
  | .vsum _ => execVsum_sound h
  | .vsumWide _ => execVsumWide_sound h
  | .vmaxr _ => execVmaxr_sound h
  | .vmaxrWide _ => execVmaxrWide_sound h
  | .vscan _ => execVscan_sound h
  | .vscanWide _ => execVscanWide_sound h
  | .vlane _ => execVlane_sound h
  | .vpopc _ => execVpopc_sound h
  | .vcmpr _ => execVcmpr_sound h
  | .vhash _ => execVhash_sound h
  | .vhashWide _ => execVhashWide_sound h
  | .vvote _ => execVvote_sound h
  | .vexp2 _ => execVexp2_sound h
  | .vexp2Wide _ => execVexp2Wide_sound h
  | .vlog2 _ => execVlog2_sound h
  | .vlog2Wide _ => execVlog2Wide_sound h
  | .vrcp _ => execVrcp_sound h
  | .vrcpWide _ => execVrcpWide_sound h
  | .vrsq _ => execVrsq_sound h
  | .vrsqWide _ => execVrsqWide_sound h
  | .pand _ => execPand_sound h
  | .por _ => execPor_sound h
  | .pxor _ => execPxor_sound h
  | .pnot _ => execPnot_sound h
  | .pset _ => execPset_sound h
  | .pmov _ => execPmov_sound h
  | .mxcall _ => execMxcall_sound h
  | .mxprog _ => execMxprog_sound h
  | .mxprogTab _ => execMxprogTab_sound h
  | .zrd _ => execZrd_sound h
  | .zwr _ => execZwr_sound h
  | .mxstat _ => execMxstat_sound h
  | .copy _ => execCopy_sound h
  | .copyWide _ => execCopyWide_sound h
  | .copy2d _ => execCopy2d_sound h
  | .copy2dWide _ => execCopy2dWide_sound h
  | .tmov _ => execTmov_sound h
  | .tmovWide _ => execTmovWide_sound h
  | .seop _ => execSeop_sound h
  | .seopWide _ => execSeopWide_sound h
  | .copyUnseal _ => execCopyUnseal_sound h
  | .copyUnsealWide _ => execCopyUnsealWide_sound h
  | .strcfg _ => execStrcfg_sound h
  | .stron _ => execStron_sound h
  | .stroff _ => execStroff_sound h
  | .bufrel _ => execBufrel_sound h
  | .rput _ => execRput_sound h
  | .rputWide _ => execRputWide_sound h
  | .rget _ => execRget_sound h
  | .rgetWide _ => execRgetWide_sound h
  | .rgetv _ => execRgetv_sound h
  | .rgetvWide _ => execRgetvWide_sound h
  | .rfop _ => execRfop_sound h
  | .rfopWide _ => execRfopWide_sound h
  | .rfopIncw _ => execRfopIncw_sound h
  | .rfopBadd _ => execRfopBadd_sound h
  | .rfopCas _ => execRfopCas_sound h
  | .rvatom _ => execRvatom_sound h
  | .rvatomWide _ => execRvatomWide_sound h
  | .rred _ => execRred_sound h
  | .rredWide _ => execRredWide_sound h
  | .rmcast _ => execRmcast_sound h
  | .rmcastWide _ => execRmcastWide_sound h
  | .fence _ => execFence_sound h
  | .arrive _ => execArrive_sound h
  | .waitb _ => execWaitb_sound h
  | .waitbC _ => execWaitbC_sound h
  | .waitbCWide _ => execWaitbCWide_sound h
  | .waith _ => execWaith_sound h
  | .barinit _ => execBarinit_sound h
  | .trigarm _ => execTrigarm_sound h
  | .trigcancel _ => execTrigcancel_sound h
  | .moncfgConfigure _ => execMoncfgConfigure_sound h
  | .moncfgSnapshot _ => execMoncfgSnapshot_sound h
  | .moncfgSnapshotClear _ => execMoncfgSnapshotClear_sound h
  | .moncfgStop _ => execMoncfgStop_sound h
  | .tlbinv _ => execTlbinv_sound h
  | .tlbinvPart _ => execTlbinvPart_sound h
  | .tlbinvPkg _ => execTlbinvPkg_sound h
  | .slotld _ => execSlotld_sound h
  | .buddyset _ => execBuddyset_sound h
  | .mret => execMret_sound h
  | .wld _ => execWld_sound h
  | .wswap => execWswap_sound h
  | .ast _ => execAst_sound h
  | .zclr _ => execZclr_sound h
  | .zgrid _ => execZgrid_sound h
  | .zcvt _ => execZcvt_sound h
  | .mloop _ => execMloop_sound h
  | .mend => execMend_sound h
  | .marrive _ => execMarrive_sound h
  | .mwait _ => execMwait_sound h
  | .minc _ => execMinc_sound h
  | .chordMulticast => execChordMulticast_sound h
  | .chordRestart => execChordRestart_sound h
  | .joinTimeout => execJoinTimeout_sound h
  | .chordJoinTimeout => execChordJoinTimeout_sound h
  | .transferMature => execTransferMature_sound h
  | .loopEnd => execLoopEnd_sound h
  | .syncGenerationComplete => execSyncGenerationComplete_sound h
  | .waitTimeout => execWaitTimeout_sound h
  | .tagWaitTimeout => execTagWaitTimeout_sound h
  | .takeRecord => execTakeRecord_sound h
  | .arrivalOverflowPush => execArrivalOverflowPush_sound h
  | .schedulerDispatch => execSchedulerDispatch_sound h
  | .batchPush => execBatchPush_sound h
  | .priorityAging => execPriorityAging_sound h
  | .skipLimit => execSkipLimit_sound h
  | .coreLeaveNode => execCoreLeaveNode_sound h
  | .engineNodeComplete => execEngineNodeComplete_sound h
  | .decrement => execDecrement_sound h
  | .failureNotice => execFailureNotice_sound h
  | .notifyRingWrite => execNotifyRingWrite_sound h
  | .notifyAck => execNotifyAck_sound h
  | .corestartGo => execCorestartGo_sound h
  | .coreMapWrite => execCoreMapWrite_sound h
  | .preemptRequeue => execPreemptRequeue_sound h
  | .preemptPark => execPreemptPark_sound h
  | .preemptResume => execPreemptResume_sound h
  | .preemptStop => execPreemptStop_sound h
  | .drainTimeout => execDrainTimeout_sound h
  | .imageSave => execImageSave_sound h
  | .imageRestore => execImageRestore_sound h
  | .bteRelease => execBteRelease_sound h
  | .handleFillClaim => execHandleFillClaim_sound h
  | .bteHandleTimeout => execBteHandleTimeout_sound h
  | .bteCommandComplete => execBteCommandComplete_sound h
  | .arriveApply => execArriveApply_sound h
  | .seCommandStart => execSeCommandStart_sound h
  | .seCommandComplete => execSeCommandComplete_sound h
  | .streamEntryFetch => execStreamEntryFetch_sound h
  | .streamEntryWrite => execStreamEntryWrite_sound h
  | .pageWalk => execPageWalk_sound h
  | .fabricWriteAtHome => execFabricWriteAtHome_sound h
  | .remoteBarrierIncrement => execRemoteBarrierIncrement_sound h
  | .putAcknowledge => execPutAcknowledge_sound h
  | .multicastMemberDelivery => execMulticastMemberDelivery_sound h
  | .rgetReadAtHome => execRgetReadAtHome_sound h
  | .rgetReply => execRgetReply_sound h
  | .rgetvComplete => execRgetvComplete_sound h
  | .combineRequest => execCombineRequest_sound h
  | .rfopAtHome => execRfopAtHome_sound h
  | .combinedReplySplit => execCombinedReplySplit_sound h
  | .rfopReply => execRfopReply_sound h
  | .rvatomAtHome => execRvatomAtHome_sound h
  | .cruPartialForward => execCruPartialForward_sound h
  | .contributionAtRoot => execContributionAtRoot_sound h
  | .roundTimeout => execRoundTimeout_sound h
  | .roundEndMessage => execRoundEndMessage_sound h
  | .peerTimeout => execPeerTimeout_sound h
  | .slotTableEffect => execSlotTableEffect_sound h
  | .monitorPeriodicSample => execMonitorPeriodicSample_sound h
  | .uncorrectableError => execUncorrectableError_sound h
  | .packageReset => execPackageReset_sound h
  | .dieTableWrite => execDieTableWrite_sound h
  | .windowTableWrite => execWindowTableWrite_sound h
  | .reductionWindowWrite => execReductionWindowWrite_sound h
  | .rankMapWrite => execRankMapWrite_sound h
  | .graphTableWrite => execGraphTableWrite_sound h
  | .contextTableWrite => execContextTableWrite_sound h
  | .keyTableWrite => execKeyTableWrite_sound h
  | .sweepRekey => execSweepRekey_sound h
  | .deadPeerClear => execDeadPeerClear_sound h
  | .ownershipWrite => execOwnershipWrite_sound h
  | .pctlDefine => execPctlDefine_sound h
  | .functionLevelReset => execFunctionLevelReset_sound h
  | .launch => execLaunch_sound h
  | .heartbeat => execHeartbeat_sound h
  | .heartbeatPeriodExpiry => execHeartbeatPeriodExpiry_sound h
  | .graceExpiry => execGraceExpiry_sound h
  | .qnonceWrite => execQnonceWrite_sound h
  | .extendWrite => execExtendWrite_sound h
  | .keyload => execKeyload_sound h
  | .efqPop => execEfqPop_sound h
  | .monownWrite => execMonownWrite_sound h
  | .islctlWrite => execIslctlWrite_sound h
  | .islandChangeDone => execIslandChangeDone_sound h
  | .pgctlDrain => execPgctlDrain_sound h
  | .pgctlLoad => execPgctlLoad_sound h
  | .firmwareLoadDone => execFirmwareLoadDone_sound h
  | .registerWrite => execRegisterWrite_sound h
  | .btePieceWrite => execBtePieceWrite_sound h
  | .seRowOperation => execSeRowOperation_sound h
  | .rgetvPieceLanding => execRgetvPieceLanding_sound h
  | .microopComplete => execMicroopComplete_sound h
  | .targetLinesReady => execTargetLinesReady_sound h
  | .codeCopyComplete => execCodeCopyComplete_sound h
  | .reportWritten => execReportWritten_sound h


/-! ### Machine/Bundle -/

theorem runSlot_sound {acc : State × Bool} {e : ℕ × Instr} (h : acc.1.sound) : (runSlot s acc e).1.sound := by
  obtain ⟨t, ht, hs⟩ := exec_sound e.2 (modIss_sound (f := fun k => { k with slot := e.1 }) h)
  unfold runSlot
  extract_lets s1
  refine fst_ite (fault_sound h) (fst_ite h ?_)
  rw [ht]
  exact hs
theorem attempt_sound {l : BitVec 512} (h : s.sound) : (s.attempt c x a l).sound := by
  unfold State.attempt
  split
  · trivial
  · extract_lets s0 r beyond
    have hr : r.1.sound := fst_foldl h runSlot_sound
    split
    · trivial
    · split
      · trivial
      · split
        · trivial
        · split
          · trivial
          · exact hr
theorem sampleWaits_sound {now : List Wait} (h : s.sound) : (s.sampleWaits c x now).sound :=
  foldl_sound h fun ht => ite_sound (sample_sound ht) ht
theorem waiting_sound {l : List SlotWait} {syncs : Bool} (h : s.sound) : (s.waiting c x l syncs).sound := by
  unfold State.waiting
  extract_lets live now s1 s2
  have h1 : s1.sound := modCtx_sound (sampleWaits_sound h)
  have h2 : s2.sound := ite_sound (arriveSync_sound h1) h1
  exact ite_sound (nextEvent_sound h2) (ite_sound (nextEvent_sound h2) h2)
theorem notReady_sound (h : s.sound) : (s.notReady c x).sound := modCtx_sound (sampleWaits_sound h)
theorem land_sound (h : s.sound) : (s.land c).sound := ite_sound h (landAll_sound h)
theorem drainTick_sound (h : s.sound) : (s.drainTick c).sound :=
  ite_sound (landAll_sound (tickExposed_sound (landAll_sound h))) (landAll_sound h)
theorem suffixEntry_sound {off : ℕ → Bool} {e : ℕ × ℕ} (h : s.sound) : (s.suffixEntry c x off e).sound := by
  unfold State.suffixEntry
  dsimp only
  refine ite_sound h ?_
  split
  · exact h
  · exact ite_sound h h
theorem applyEff_sound {e : Eff} (h : s.sound) : (s.applyEff c x e).sound := by
  unfold State.applyEff
  dsimp only
  split
  · exact mk_sound (Memory.wf_writeN h.1 ..) h.2
  · exact writeCsr_sound h
  · exact ite_sound (setHandle_sound h) h
  · exact ite_sound (addArrive_sound (setHandle_sound h)) (setHandle_sound h)
theorem popQueue_sound {order : ℕ} {slots : List (ℕ × Instr)} (h : s.sound) : (s.popQueue c order slots).sound := by
  unfold State.popQueue
  dsimp only
  split <;> exact h
theorem arriveFirst_sound {l : List Eff} (h : s.sound) : (s.arriveFirst c l).sound :=
  ite_sound (applyArrivals_sound h) h
theorem haltCtx_sound (h : s.sound) : (s.haltCtx c x).sound := by
  unfold State.haltCtx
  extract_lets exposed s1 s2
  have h1 : s1.sound := ite_sound (tickExposed_sound h) h
  exact ite_sound (idleChord_sound (dropQueue_sound (modCtx_sound h1))) (modCtx_sound h1)
theorem toBoundary_sound {r : Record} (h : s.sound) : (s.toBoundary c x r).sound := by
  unfold State.toBoundary
  extract_lets k path tick
  have hpath {t} (ht : t.sound) : (path t).sound := by
    refine ite_sound (nextEvent_sound ht) ?_
    cases t.iss.ctl with
    | skip => exact settle_sound ht
    | halt | suspend | tret | join => exact ht
    | _ => exact ite_sound (nextEvent_sound ht) (settle_sound ht)
  have htick {t} (ht : t.sound) : (tick t).sound := ite_sound ht (tickExposed_sound ht)
  cases s.iss.ctl with
  | halt => exact haltCtx_sound h
  | suspend => exact h
  | tret =>
    have ht := returnTrap_sound (c := c) (x := x) (htick h)
    exact compareHead_sound (ite_sound ht (matureNow_sound ht))
  | join =>
    have ht := htick h
    exact ite_sound (turnOn_sound (reattach_sound (modCtx_sound ht))) (modCtx_sound ht)
  | _ => exact hpath h
theorem keepInits_sound {t : State} (h : s.sound) : (s.keepInits t c x).sound :=
  ⟨List.foldlRecOn (motive := fun m : Memory => m.wf = true) _ _ h.1 fun _ hm _ _ => Memory.wf_writeN hm .., h.2⟩
theorem commit_sound {t : State} {b : Bundle} (h : s.sound) : (s.commit t c x b).sound := by
  unfold State.commit
  extract_lets order off rec_ s1 s2 s3 dup l s4 s5 s6 s7 s8 words s9
  have h4 : s4.sound := foldl_sound (foldl_sound (sampleWaits_sound h) suffixEntry_sound) applyEff_sound
  have h5 : s5.sound := keepInits_sound (foldl_sound (arriveFirst_sound h4) applyEff_sound)
  have h6 : s6.sound := ite_sound (modCtx_sound h5) h5
  have h7 : s7.sound := ite_sound (popQueue_sound h6) h6
  have h9 : s9.sound := modCore_sound (modCtx_sound h7)
  exact toBoundary_sound (ite_sound (nextTurn_sound h9 rfl) h9)
theorem loadLine_sound (h : s.sound) : (s.loadLine c a).sound := ite_sound h h
theorem faultTrap_sound {f : SlotFault} (h : s.sound) : (s.faultTrap c x a f).sound := takeTrap_sound h
theorem heldCycle_sound (h : s.sound) : (s.heldCycle c).sound := ite_sound h (drainTick_sound h)
theorem act_sound {l : BitVec 512} {r : Attempt} (h : s.sound) (hr : r.sound) : (s.act c x a l r).sound := by
  unfold State.act
  cases r with
  | trap => exact faultTrap_sound h
  | hazard => exact notReady_sound h
  | full => exact heldCycle_sound (notReady_sound h)
  | waits => exact ite_sound (heldCycle_sound (waiting_sound h)) (waiting_sound h)
  | go =>
    dsimp only
    split
    · exact commit_sound hr
    · exact faultTrap_sound h
theorem fetchLine_sound (h : s.sound) : (s.fetchLine c a).sound := ite_sound h (ite_sound h (loadLine_sound h))
theorem issuePrivate_sound (h : s.sound) : (s.issuePrivate c x).sound := by
  have hf := fetchLine_sound (c := c) (a := s.resolve c (s.ctx c x).pc) h
  unfold State.issuePrivate
  exact ite_sound hf (act_sound hf (attempt_sound hf))
theorem issueQueue_sound (h : s.sound) : (s.issueQueue c).sound := by
  unfold State.issueQueue
  split
  · exact h
  · exact ite_sound (act_sound h (attempt_sound h)) h
theorem turnExposed_sound (h : s.sound) : (s.turnExposed c).sound :=
  ite_sound (drainTick_sound h)
    (ite_sound h
      (ite_sound (waiting_sound h)
        (ite_sound (ite_sound (nextEvent_sound h) h) (ite_sound (issueQueue_sound h) (issuePrivate_sound h)))))
theorem awaitLine_sound (h : s.sound) : (s.awaitLine c x).sound := h
theorem later_sound {r : Attempt} (h : r.sound) : r.later.sound := by
  cases r <;> exact h
theorem turnStrand_sound (h : s.sound) : (s.turnStrand c).sound := by
  unfold State.turnStrand
  extract_lets seen
  have hs : seen.1.sound := by
    refine fst_foldl h fun ht => ?_
    extract_lets a full s1 l r
    have h1 : s1.sound := fetchLine_sound ht
    have hr : r.sound := attempt_sound h1
    refine fst_ite (waiting_sound ht) (fst_ite (awaitLine_sound h1) (fst_ite h1 (fst_ite h1 (act_sound h1 ?_))))
    split
    · exact hr
    · exact later_sound hr
  split
  · exact hs
  · exact issuePrivate_sound hs
theorem tickContexts_sound (h : s.sound) : (s.tickContexts c).sound := foldl_sound h tickStrand_sound
theorem coreTurn_sound (h : s.sound) : (s.coreTurn c).sound := by
  unfold State.coreTurn
  extract_lets k s1 t s2 s3 s4 s5 s6
  refine ite_sound h ?_
  have ht : t.1.sound := h
  refine ite_sound ht ?_
  have h2 : s2.sound := by
    unfold s2
    split
    · exact tagStep_sound ht
    · exact ht
  have h3 : s3.sound := by
    unfold s3
    split
    · exact slotStep_sound h2
    · exact h2
  have h4 : s4.sound := tickContexts_sound h3
  have h5 : s5.sound := ite_sound h4 (land_sound h4)
  exact ite_sound (ite_sound (drainTick_sound (modCore_sound h5)) (modCore_sound h5))
    (ite_sound (turnStrand_sound h5) (turnExposed_sound h5))

/-! ### Machine/Cycle -/

theorem thaw_sound (h : s.sound) : s.thaw.sound := h
theorem snapshots_sound (h : s.sound) : s.snapshots.sound := foldl_sound h snapshot_sound
theorem initAll_sound (h : s.sound) : s.initAll.sound := foldl_sound h makeInits_sound
theorem departAll_sound (h : s.sound) : s.departAll.sound := foldl_sound h departFop_sound
@[simp] theorem duesOk_append {a b : List Due} : duesOk (a ++ b) ↔ duesOk a ∧ duesOk b := List.forall_mem_append
@[simp] theorem duesOk_flatMap {α : Type} {l : List α} {f : α → List Due} :
    duesOk (l.flatMap f) ↔ ∀ a ∈ l, duesOk (f a) := by
  simp only [duesOk, List.mem_flatMap, forall_exists_index, and_imp]
  exact forall_comm.trans (forall_congr' fun _ => forall_comm)
@[simp] theorem duesOk_map {α : Type} {l : List α} {f : α → Due} : duesOk (l.map f) ↔ ∀ a ∈ l, (f a).2.ok = true :=
  List.forall_mem_map
@[simp] theorem duesOk_cons {e : Due} {l : List Due} : duesOk (e :: l) ↔ e.2.ok = true ∧ duesOk l :=
  List.forall_mem_cons
@[simp] theorem duesOk_nil : duesOk [] := fun _ h => nomatch h
@[simp] theorem duesOk_onlyIf {p : Bool} {l : List Due} : duesOk (onlyIf p l) ↔ (p = true → duesOk l) := by
  cases p <;> simp [onlyIf]
@[simp] theorem event_ok {e : Instr} {args : List ℕ} : (Turn.event e args).ok = true := rfl
@[simp] theorem now_ok {e : Instr} {args : List ℕ} : (now_ e args).2.ok = true := rfl
@[simp] theorem some_ok {e : Instr} {args : List ℕ} : (some_ e args).2.ok = true := rfl
theorem coreTurns_ok {l : Tab Core} : duesOk (coreTurns l) := by
  simp +contextual [coreTurns, Turn.ok]
theorem settleDue_ok {l : List Due} (h : duesOk l) : (settleDue n l).all Turn.ok = true := by
  induction l generalizing n with
  | nil => rfl
  | cons e l ih =>
    obtain ⟨free, t⟩ := e
    obtain ⟨ht, hl⟩ := duesOk_cons.1 h
    cases free with
    | false => simpa [settleDue, ht] using ih hl
    | true =>
      simp only [settleDue]
      split
      · simpa using ih hl
      · simpa [ht] using ih hl
theorem hostTurns_ok {l : List (Option (Instr × List ℕ))} : (hostTurns l).all Turn.ok = true := by
  unfold hostTurns
  split
  · split <;> rfl
  · rfl
  · rfl
theorem chordTurns_ok {k : Cluster} : duesOk (s.chordTurns cl k) := by
  unfold chordTurns
  split
  · simp
  · split <;> simp
theorem bteTurns_ok {k : Cluster} : duesOk (s.bteTurns cl k) := by
  unfold bteTurns
  dsimp only
  split <;> simp
theorem streamTurns_ok {k : Core} : duesOk (s.streamTurns c k) := by
  unfold streamTurns
  split <;> simp
theorem turns_ok : duesOk s.turns := by
  simp [turns, targetTurns, slotTurns, chordTurns_ok, takeTurns, coreTurns_ok, ownTurns, bteTurns_ok, seTurns,
    streamTurns_ok, fopTurns, cmdTurns, roundTurns, pkgTurns, partTurns, leaveTurns, dieTurns, noticeTurns, readyTurns,
    placedTurns, preemptTurns, periodTurns]
theorem newCycle_sound (h : s.sound) : s.newCycle.sound := by
  unfold State.newCycle
  extract_lets host src clk s1 l n src2
  have h0 : State.sound { s with clk := clk } := mk_sound h.1 rfl
  have h1 : s1.sound := departAll_sound (thaw_sound (initAll_sound (snapshots_sound h0)))
  refine mk_sound h1.1 ?_
  rw [List.all_append, hostTurns_ok, settleDue_ok turns_ok, Bool.and_self]
/-- Each kind of turn is run from a sound state, and a core's turn is one of the network's. -/
theorem step_sound (h : s.sound) : Out.sound (step s) := by
  obtain ⟨hm, ht⟩ := h
  unfold turnsOk at ht
  unfold step
  split
  · exact next_sound (newCycle_sound ⟨hm, by simp_all [turnsOk]⟩)
  all_goals
    rename_i e
    rw [e, List.all_cons, Bool.and_eq_true] at ht
    obtain ⟨hc, hl⟩ := ht
  · rw [if_pos (of_decide_eq_true hc)]
    exact next_sound (coreTurn_sound (mk_sound hm hl))
  · exact next_sound (land_sound (mk_sound hm hl))
  · exact exec_sound _ (mk_sound hm hl)
/-- Settles O60: no operation that a turn runs writes memory but by the writes that keep it canonical, and the turns that
a cycle lists name only cores that are there. -/
theorem everyStepKeepsTheInvariant : Obligations.EveryStepKeepsTheInvariant := fun _ hm ht => step_sound ⟨hm, ht⟩

end State
end Sys2Proof.Machine
end

section
/-! # The system registers (O5)

The register file of a context is what it reads: its and its core's system registers, and its scalar, predicate, v and m
registers. Of all that a commit does only the deferred write of a system register reaches the file; the rest, the arrivals
that a write of BARBASE lets go first among it, leaves the file as it was. -/

namespace Sys2Proof.Machine

/-- The register file of a context is the same in both states. -/
def keepsFile (s t : State) (c x : ℕ) : Prop :=
  (t.core c).csr = (s.core c).csr ∧ (t.ctx c x).csr = (s.ctx c x).csr ∧ sameRegisters s t c x

namespace State
variable {a c d i n x : ℕ} {s t u : State} {v : Word}

/-! ### The rules of composition -/

theorem keepsFile_refl : keepsFile s s c x := ⟨rfl, rfl, fun _ => rfl, fun _ => rfl, fun _ => rfl, fun _ => rfl⟩
theorem sameRegisters_trans (h : sameRegisters s t c x) (g : sameRegisters t u c x) : sameRegisters s u c x := by
  obtain ⟨hs, hp, hv, hm⟩ := h
  obtain ⟨gs, gp, gv, gm⟩ := g
  exact ⟨fun n => (gs n).trans (hs n), fun n => (gp n).trans (hp n), fun n => (gv n).trans (hv n),
    fun n => (gm n).trans (hm n)⟩
theorem keepsFile_trans (h : keepsFile s t c x) (g : keepsFile t u c x) : keepsFile s u c x :=
  ⟨g.1.trans h.1, g.2.1.trans h.2.1, sameRegisters_trans h.2.2 g.2.2⟩
theorem keepsFile_ite {p : Prop} [Decidable p] (h : keepsFile s t c x) (g : keepsFile s u c x) :
    keepsFile s (if p then t else u) c x := by
  split <;> assumption
theorem keepsFile_foldl {α : Type} {f : State → α → State} {l : List α} (h : keepsFile s t c x)
    (hf : ∀ {u a}, keepsFile s u c x → keepsFile s (f u a) c x) : keepsFile s (l.foldl f t) c x :=
  l.foldlRecOn f (motive := fun u => keepsFile s u c x) h fun _ hu _ _ => hf hu
theorem keepsFile_modCore {f : Core → Core} (h : keepsFile s t c x)
    (hf : ∀ k, (f k).ctxs = k.ctxs ∧ (f k).csr = k.csr ∧ (f k).v = k.v ∧ (f k).m = k.m) :
    keepsFile s (t.modCore d f) c x := by
  refine keepsFile_trans h ?_
  obtain ⟨h1, h2, h3, h4⟩ := hf (t.core d)
  by_cases hd : c = d
  · subst hd
    simp [keepsFile, sameRegisters, ctx, Core.ctx, h1, h2, h3, h4]
  · simp [keepsFile, sameRegisters, ctx, hd]
theorem keepsFile_modCtx {f : Machine.Ctx → Machine.Ctx} (h : keepsFile s t c x)
    (hf : ∀ k, (f k).csr = k.csr ∧ (f k).s = k.s ∧ (f k).p = k.p) : keepsFile s (t.modCtx d i f) c x := by
  refine keepsFile_trans h ?_
  obtain ⟨h1, h2, h3⟩ := hf (t.ctx d i)
  by_cases hd : c = d ∧ x = i
  · obtain ⟨rfl, rfl⟩ := hd
    simp [keepsFile, sameRegisters, Ctx.readS, Ctx.readP, h1, h2, h3]
  · simp [keepsFile, sameRegisters, hd]

/-! ### What the arrivals due at a boundary leave unchanged -/

theorem keepsFile_coreFault {die unit code core bar addr detail : ℕ} (h : keepsFile s t c x) :
    keepsFile s (t.coreFault die unit code core bar addr detail) c x := keepsFile_ite h h
theorem keepsFile_addArrive {r : PendArrive} (h : keepsFile s t c x) : keepsFile s (t.addArrive d r) c x :=
  keepsFile_modCore h fun _ => ⟨rfl, rfl, rfl, rfl⟩
theorem keepsFile_addFop {f : Fop} (h : keepsFile s t c x) : keepsFile s (t.addFop i f) c x := by
  unfold addFop
  dsimp only
  split
  · exact keepsFile_modCore h fun _ => ⟨rfl, rfl, rfl, rfl⟩
  · exact h
theorem keepsFile_fireTrigger {r : Trigger} (h : keepsFile s t c x) : keepsFile s (t.fireTrigger d i r) c x := by
  unfold fireTrigger
  extract_lets src b s1 net s2 after s3
  have h1 : keepsFile s s1 c x := keepsFile_modCore h fun _ => ⟨rfl, rfl, rfl, rfl⟩
  have h2 : keepsFile s s2 c x := h1
  have h3 : keepsFile s s3 c x := keepsFile_coreFault h2
  refine keepsFile_ite (keepsFile_addArrive h2) ?_
  split
  · exact keepsFile_ite h3 h3
  · exact keepsFile_ite (keepsFile_ite h2 (keepsFile_modCore h fun _ => ⟨rfl, rfl, rfl, rfl⟩))
      (keepsFile_ite (keepsFile_addFop h2) (keepsFile_ite (keepsFile_addFop h2) (keepsFile_addFop h2)))
theorem keepsFile_fireMet (h : keepsFile s t c x) : keepsFile s (t.fireMet d) c x :=
  keepsFile_ite h (keepsFile_foldl h keepsFile_fireTrigger)
theorem keepsFile_evalTriggers (h : keepsFile s t c x) : keepsFile s (t.evalTriggers d i) c x :=
  keepsFile_ite h (keepsFile_foldl h keepsFile_fireTrigger)
theorem keepsFile_arrive (h : keepsFile s t c x) : keepsFile s (t.arrive d i n) c x := by
  unfold arrive
  extract_lets a r s1
  have h1 : keepsFile s s1 c x := h
  exact keepsFile_ite (keepsFile_evalTriggers h1) h1
theorem keepsFile_applyArrivals (h : keepsFile s t c x) : keepsFile s (t.applyArrivals d) c x :=
  keepsFile_fireMet (keepsFile_foldl (keepsFile_modCore h fun _ => ⟨rfl, rfl, rfl, rfl⟩) keepsFile_arrive)
theorem keepsFile_arriveFirst {l : List Eff} (h : keepsFile s t c x) : keepsFile s (t.arriveFirst d l) c x :=
  keepsFile_ite (keepsFile_applyArrivals h) h

/-! ### What a commit leaves unchanged -/

theorem keepsFile_sampleWaits {now : List Wait} (h : keepsFile s t c x) : keepsFile s (t.sampleWaits d i now) c x :=
  keepsFile_foldl h fun hu => keepsFile_ite (keepsFile_foldl hu fun hw => keepsFile_ite hw hw) hu
theorem keepsFile_popQueue {l : List (ℕ × Instr)} (h : keepsFile s t c x) : keepsFile s (t.popQueue d n l) c x := by
  unfold popQueue
  split
  · exact h
  · exact keepsFile_modCore h fun _ => ⟨rfl, rfl, rfl, rfl⟩
theorem foldl_iss {α : Type} {f : State → α → State} {l : List α} (hf : ∀ t a, (f t a).iss = t.iss) :
    (l.foldl f s).iss = s.iss :=
  l.foldlRecOn f (motive := fun t => t.iss = s.iss) rfl fun _ ht _ _ => (hf ..).trans ht
theorem sample_iss {die part src : ℕ} {cl : Option ℕ} : (s.sample die part src cl n).iss = s.iss :=
  foldl_iss fun _ _ => by split <;> rfl
theorem sampleWaits_iss {now : List Wait} : (s.sampleWaits c x now).iss = s.iss :=
  foldl_iss fun _ _ => by
    dsimp only
    split
    · exact sample_iss
    · rfl
theorem commit_csr {slot : ℕ} {b : Bundle} (hb : b.suffix = []) (hd : s.iss.defer = [.csr slot n v]) :
    ∃ a u r, keepsFile s a c x ∧ keepsFile (a.writeCsr c x n v) u c x ∧ s.commit t c x b = u.toBoundary c x r := by
  unfold commit
  extract_lets order off rec_ s1 s2 s3 dup l s4 s5 s6 s7 s8 words s9
  have hl : s3.iss.defer = [.csr slot n v] := by
    simpa only [s3, hb, List.foldl_nil, s2, sampleWaits_iss] using hd
  have h3 : keepsFile s s3 c x := by
    simp only [s3, hb, List.foldl_nil]
    exact keepsFile_sampleWaits keepsFile_refl
  have h4 : s4 = s3 := by simp [s4, l, hl, Eff.isCsr]
  have h5 : s5 = ((s4.arriveFirst c l).writeCsr c x n v).keepInits t c x := by
    simp [s5, l, hl, Eff.isCsr, applyEff]
  have h6 : s6 = s5 := by simp [s6, dup, hl, csrNums, distinct]
  have ha : keepsFile s (s4.arriveFirst c l) c x := keepsFile_arriveFirst (h4 ▸ h3)
  generalize s4.arriveFirst c l = a at h5 ha
  have h7 : keepsFile (a.writeCsr c x n v) s7 c x := by
    have h : keepsFile (a.writeCsr c x n v) s6 c x := by
      rw [h6, h5]
      exact keepsFile_refl
    exact keepsFile_ite (keepsFile_popQueue h) h
  have h9 : keepsFile (a.writeCsr c x n v) s9 c x :=
    keepsFile_modCore (keepsFile_modCtx h7 fun _ => ⟨rfl, rfl, rfl⟩) fun _ => ⟨rfl, rfl, rfl, rfl⟩
  refine ⟨a, _, rec_, ha, ?_, rfl⟩
  exact keepsFile_ite h9 h9

/-! ### What a write of a system register gives -/

theorem sameRegisters_writeCsr (hn : n ≠ 0x820) : sameRegisters s (s.writeCsr c x n v) c x := by
  unfold writeCsr
  dsimp only
  split
  case h_13 => exact absurd rfl hn
  all_goals simp [sameRegisters, ctx, Core.ctx, Ctx.readS, Ctx.readP, modCtx]
/-- The registers of a context, or of its core, whose fields software writes, but TSTAT, of which it only clears bits. -/
def fieldCsrs : List ℕ := [0x002, 0x010, 0x011, 0x020, 0x801, 0x802, 0x803, 0x804, 0x810, 0x811, 0x812]
/-- What such a register of context x reads as after a write of w (R129, R134). -/
def csrKept (x n w : ℕ) : ℕ :=
  match n with
  | 0x002 => x + bits w 8 8 * 256 + bits w 16 1 * 65536
  | 0x010 => w % 2 ^ 2
  | 0x011 => w % 2 ^ 5
  | 0x020 => bits w 9 11 * 2 ^ 9
  | 0x801 => bits w 1 23 * 2
  | 0x802 => w % 2 ^ 24
  | 0x803 => w % 2 ^ 12
  | 0x804 => w
  | _ => w % 2 ^ 32
theorem csrValue_of_keepsFile (hn : n ∈ fieldCsrs) (h : keepsFile s t c x) : csrValue t c x n = csrValue s c x n := by
  have hk : (t.core c).csr = (s.core c).csr := h.1
  have hx : ((t.core c).ctx x).csr = ((s.core c).ctx x).csr := h.2.1
  simp only [fieldCsrs, List.mem_cons, List.not_mem_nil, or_false] at hn
  rcases hn with rfl | rfl | rfl | rfl | rfl | rfl | rfl | rfl | rfl | rfl | rfl <;> simp [csrValue, hk, hx]
theorem setWidth_setWidth {k : ℕ} : (v.setWidth k).setWidth 64 = BitVec.ofNat 64 (v.toNat % 2 ^ k) := by
  rw [← BitVec.ofNat_toNat, BitVec.toNat_setWidth]
theorem csrValue_writeCsr (hn : n ∈ fieldCsrs) :
    csrValue (s.writeCsr c x n v) c x n = BitVec.ofNat 64 (csrKept x n v.toNat) := by
  simp only [fieldCsrs, List.mem_cons, List.not_mem_nil, or_false] at hn
  rcases hn with rfl | rfl | rfl | rfl | rfl | rfl | rfl | rfl | rfl | rfl | rfl <;>
    simp [csrValue, writeCsr, csrKept, bits, modCtx, Core.ctx, setWidth_setWidth]
theorem csrValue_written (hn : n ∈ fieldCsrs) (h : keepsFile (s.writeCsr c x n v) t c x) :
    csrValue t c x n = BitVec.ofNat 64 (csrKept x n v.toNat) :=
  (csrValue_of_keepsFile hn h).trans (csrValue_writeCsr hn)
theorem tstat_written (h : keepsFile s t c x) (hu : keepsFile (t.writeCsr c x 0x018 v) u c x) :
    (u.ctx c x).csr.wcoll = ((s.ctx c x).csr.wcoll && bits v.toNat 0 1 == 0)
      ∧ (u.ctx c x).csr.tcoll = ((s.ctx c x).csr.tcoll && bits v.toNat 1 1 == 0) := by
  rw [hu.2.1, ← h.2.1]
  simp [writeCsr]

/-! ### The instructions -/

theorem exec_csrr {f : FmtSX} : exec (.csrr f) s = execCsrr f s := rfl
theorem exec_csrw {f : FmtSX} : exec (.csrw f) s = execCsrw f s := rfl
theorem exec_movm {f : FmtSM} : exec (.movm f) s = execMovm f s := rfl

theorem guarded_of_guard0 {g : ℕ} {k : State → State} (h : s.guard0 g = true) : s.guarded g k = k s := if_pos h

/-- Settles O5: a commit reaches the register file by the deferred write alone. -/
theorem systemRegisterAccess : Obligations.SystemRegisterAccess := by
  unfold Obligations.SystemRegisterAccess
  refine ⟨fun f s hg hp => ?_, fun f s hg hp hn => ?_, fun f s hg hn => ?_, fun f s hg => ?_, ?_⟩
  · have hr : (decide (0x800 ≤ f.csr) && !(s.core s.iss.core).ident.pl) = false := by
      rcases hp with hp | hp
      · rw [hp, Bool.not_true, Bool.and_false]
      · rw [decide_eq_false (by omega), Bool.false_and]
    refine ⟨?_, fun hn => ?_⟩
    · rw [exec_csrr, execCsrr, guarded_of_guard0 hg, csrRead, if_neg (by simpa using hr)]
    · rw [exec_csrw, execCsrw, guarded_of_guard0 hg]
      simp [hr, hn]
  · simp [exec_csrr, exec_csrw, execCsrr, execCsrw, csrRead, guarded_of_guard0 hg, hp, hn]
  · refine ⟨fun hv => ?_, fun hv ha => ?_, fun hv ha => ?_⟩
    · simp [exec_csrw, execCsrw, guarded_of_guard0 hg, hn, hv]
    · simp [exec_csrw, execCsrw, guarded_of_guard0 hg, hn, hv, ha]
    · simp [exec_csrw, execCsrw, guarded_of_guard0 hg, hn, hv, ha]
  · refine ⟨fun hd => ?_, fun hd => ?_⟩ <;> simp [exec_movm, execMovm, guarded_of_guard0 hg, hd]
  · intro s t c x slot n v b hb hd w
    obtain ⟨a, u, r, ha, hu, hc⟩ := commit_csr (t := t) (c := c) (x := x) hb hd
    have hw (h : n ∈ fieldCsrs) := csrValue_written h hu
    refine ⟨u, r, hc, ?_, ?_, ?_, ?tstat, ?_, ?_, ?_, ?_, ?tval, ?limits, ?registers⟩
    case tstat =>
      rintro rfl
      exact tstat_written ha hu
    case registers =>
      exact fun hn => sameRegisters_trans ha.2.2 (sameRegisters_trans (sameRegisters_writeCsr hn) hu.2.2)
    case limits =>
      intro hn
      simp only [List.mem_cons, List.not_mem_nil, or_false] at hn
      rcases hn with rfl | rfl | rfl <;> exact hw (by decide)
    case tval =>
      rintro rfl
      simpa [csrKept] using hw (by decide)
    all_goals
      rintro rfl
      exact hw (by decide)

end State
end Sys2Proof.Machine
end

section
/-! # The P-mode instructions (O30)

Each is `pMode` of its effect: one lemma says what level U and level P make of it, and one lemma for each effect says what it
does. -/

namespace Sys2Proof.Machine
namespace State
variable {c d g : ℕ} {s t : State} {i : Instr} {k : State → State} {p : TlbEnt → Bool} {ds : List ℕ} {f : FmtEP}
  {f0 : FmtEP0}

theorem exec_tlbinv : exec (.tlbinv f) s = execTlbinv f s := rfl
theorem exec_tlbinvPart : exec (.tlbinvPart f0) s = execTlbinvPart f0 s := rfl
theorem exec_tlbinvPkg : exec (.tlbinvPkg f0) s = execTlbinvPkg f0 s := rfl
theorem exec_slotld : exec (.slotld f) s = execSlotld f s := rfl
theorem exec_buddyset : exec (.buddyset f) s = execBuddyset f s := rfl

theorem pMode_user (hg : s.guard0 g = true) (hp : (s.core s.iss.core).ident.pl = false) :
    pMode s i g k = .next (s.fault privilegeViolation (s.wordTval i)) := by
  simp [pMode, guarded_of_guard0 hg, hp]
theorem pMode_privileged (hg : s.guard0 g = true) (hp : (s.core s.iss.core).ident.pl = true) :
    pMode s i g k = .next (k s) := by
  simp [pMode, guarded_of_guard0 hg, hp]

/-! ### TLBINV -/

theorem foldl_tlbDrop_frame : (ds.foldl (fun s d => s.tlbDrop d p) s).mem = s.mem
    ∧ (ds.foldl (fun s d => s.tlbDrop d p) s).iss = s.iss :=
  ds.foldlRecOn (motive := fun t : State => t.mem = s.mem ∧ t.iss = s.iss) _ ⟨rfl, rfl⟩ fun _ ht _ _ => ht
theorem mem_tlb_foldl_tlbDrop {e : TlbEnt} :
    e ∈ ((ds.foldl (fun s d => s.tlbDrop d p) s).die d).tlb ↔ e ∈ (s.die d).tlb ∧ ¬ (d ∈ ds ∧ p e = true) := by
  induction ds generalizing s with
  | nil => simp
  | cons a l ih =>
    rw [List.foldl_cons, ih]
    by_cases h : d = a
    · subst h
      simp [tlbDrop]
      tauto
    · simp [tlbDrop, h]
theorem tlbRemove_on (h : ∀ d ∈ ds, s.dieOn d = true) : (s.tlbRemove ds p).mem = s.mem ∧ (s.tlbRemove ds p).iss = s.iss
    ∧ ∀ d e, e ∈ ((s.tlbRemove ds p).die d).tlb ↔ e ∈ (s.die d).tlb ∧ ¬ (d ∈ ds ∧ p e = true) := by
  rw [tlbRemove, if_pos (List.all_eq_true.2 h)]
  exact ⟨foldl_tlbDrop_frame.1, foldl_tlbDrop_frame.2, fun _ _ => mem_tlb_foldl_tlbDrop⟩
theorem tlbRemove_waits (hd : d ∈ ds) (h : s.dieOn d = false) (he : exec i s = .next (s.tlbRemove ds p)) :
    waitsForRoom i s 18 := by
  have hall : ¬ ds.all s.dieOn = true := fun ha => by simp [List.all_eq_true.1 ha d hd] at h
  exact ⟨_, he, by simp [tlbRemove, hall, await, modIss]⟩
theorem mem_packageDies {pkg : ℕ} : d ∈ (List.range 4).map (pkg * 4 + ·) ↔ d / 4 = pkg := by
  simp only [List.mem_map, List.mem_range]
  refine ⟨fun ⟨j, hj, e⟩ => by omega, fun h => ⟨d % 4, by omega, by omega⟩⟩

/-! ### SLOTLD -/

/-- The status that SLOTLD writes (R339). -/
theorem slotStatus_eq_zero {bad owns locked : Prop} [Decidable bad] [Decidable owns] [Decidable locked] :
    (if bad then 1 else if owns then 2 else if locked then 3 else 0) = 0 ↔ ¬ bad ∧ ¬ owns ∧ ¬ locked := by
  split_ifs <;> simp_all
theorem modIss_core {f : Issue → Issue} : (s.modIss f).core c = s.core c := rfl
theorem slotStep_runs {r : SlotRun} (h : 1 < r.left) :
    s.slotStep c r = s.modCore c fun k => { k with slotRun := some { r with left := r.left - 1 } } := if_neg (by omega)
theorem slotStep_ends {r : SlotRun} (h : r.left ≤ 1) : s.slotStep c r = s.slotEnd c r := if_pos h
theorem slotEnd_mem {r : SlotRun} : (s.slotEnd c r).mem = s.mem.writeN r.at_ 8 r.status := by
  unfold slotEnd
  dsimp only
  split <;> rfl
theorem slotEnd_clusters {r : SlotRun} (h : r.status ≠ 0) : (s.slotEnd c r).clusters = s.clusters := by
  simp [slotEnd, h]
theorem slotEnd_cluster {r : SlotRun} (h : r.status = 0) :
    ((s.slotEnd c r).cluster r.cluster).slotsNext = some (s.clk.cycle, r.table) := by
  simp [slotEnd, h]
theorem slotEnd_core {r : SlotRun} : ((s.slotEnd c r).core c).slotRun = none := by
  unfold slotEnd
  dsimp only
  split <;> simp [core, modCluster, modCore]


/-! ### BUDDYSET -/

theorem pushS_inflight {n lat : ℕ} {v : Word} {fl : BitVec 5} (hi : t.iss = s.iss) (hc : t.cores = s.cores) :
    ∃ r, ((t.pushS n v fl lat).ctx s.iss.core s.iss.ctx).inflight = (s.ctx s.iss.core s.iss.ctx).inflight ++ [r]
      ∧ r.reg = .s n ∧ r.val.setWidth 64 = v ∧ r.rem = lat := by
  have hx : t.ctx s.iss.core s.iss.ctx = s.ctx s.iss.core s.iss.ctx := by rw [ctx, core, hc]; rfl
  refine ⟨⟨.s n, v.setWidth 2048, BitVec.allOnes 64, fl, lat, s.iss.slot, (s.ctx s.iss.core s.iss.ctx).run.issued, none,
    none⟩, ?_, rfl, ?_, rfl⟩
  · rw [← hi, pushS, pushResult_ctx, hi, hx]
  · simp
theorem modSched_partner {part : ℕ} {v : Word} :
    Tab.get 0 ((s.modSched d fun k => { k with partner := Tab.set k.partner part v }).die d).sched.partner part = v := by
  simp [modSched]

/-- Settles O30: in each clause the hypotheses choose one branch of the effect. -/
theorem privilegedTables : Obligations.PrivilegedTables := by
  unfold Obligations.PrivilegedTables
  refine ⟨fun s i g hi hg hp => ?user, fun s f hg hp => ?page, fun s f hg hp => ?partition, fun s f hg hp => ?slotld,
    fun s c r hm => ?slotStep, fun s f hg hp => ?buddyset⟩
  case user =>
    rcases hi with ⟨f, hi, rfl⟩ | ⟨f, hi, rfl⟩
    · simp only [List.mem_cons, List.not_mem_nil, or_false] at hi
      rcases hi with rfl | rfl | rfl <;> exact pMode_user hg hp
    · simp only [List.mem_cons, List.not_mem_nil, or_false] at hi
      rcases hi with rfl | rfl <;> exact pMode_user hg hp
  case page =>
    intro c v
    have he := exec_tlbinv.trans (pMode_privileged (i := .tlbinv f) hg hp)
    refine ⟨fun hv => ?_, fun hv hd => ?_, fun hv hd => ?_⟩
    · exact he.trans (congrArg _ (if_pos hv))
    · exact tlbRemove_waits (List.mem_singleton_self _) hd (he.trans (congrArg _ (if_neg (by omega))))
    · obtain ⟨hmem, hiss, htlb⟩ := tlbRemove_on (ds := [dieOf c]) (by simpa using hd)
      refine ⟨_, he.trans (congrArg _ (if_neg (by omega))), hmem, hiss, fun e => (htlb ..).trans ?_⟩
      simp [c, v, eq_comm (b := e.va)]
  case partition =>
    intro c all
    have he := exec_tlbinvPart.trans (pMode_privileged (i := .tlbinvPart f) hg hp)
    have he4 := exec_tlbinvPkg.trans (pMode_privileged (i := .tlbinvPkg f) hg hp)
    refine ⟨fun hd => ?_, fun hd => ?_, fun hd => ?_, fun hd => ?_⟩
    · exact tlbRemove_waits (List.mem_singleton_self _) hd he
    · obtain ⟨d, hc, hd⟩ : ∃ d, d / 4 = pkgOf c ∧ s.dieOn d = false := by simpa [all] using hd
      exact tlbRemove_waits (mem_packageDies.2 hc) hd he4
    · obtain ⟨hmem, hiss, htlb⟩ := tlbRemove_on (ds := [dieOf c]) (by simpa using hd)
      exact ⟨_, he, hmem, hiss, fun d e => (htlb ..).trans (by simp [c])⟩
    · obtain ⟨hmem, hiss, htlb⟩ := tlbRemove_on fun d hc => hd d (mem_packageDies.1 hc)
      exact ⟨_, he4, hmem, hiss, fun d e => (htlb ..).trans (by rw [mem_packageDies, beq_iff_eq])⟩
  case slotld =>
    intro c off w cl tab
    have he := exec_slotld.trans (pMode_privileged (i := .slotld f) hg hp)
    refine ⟨fun h1 => ?_, fun h1 h2 => ?_, fun h1 h2 h3 => ?_, fun h1 h2 h3 => ?_⟩
    · exact he.trans (congrArg _ (if_pos h1))
    · exact he.trans (congrArg _ ((if_neg (by omega)).trans (if_pos h2)))
    · exact he.trans (congrArg _ ((if_neg (by omega)).trans ((if_neg (by simpa using h2)).trans (if_pos h3))))
    · rw [he]
      extract_lets v off' a w' img cl' part tab' st
      rw [if_neg (not_lt.2 h1), if_neg (not_not.2 h2), if_neg (not_not.2 h3)]
      refine ⟨_, st, rfl, rfl, rfl, rfl, rfl, ?_, slotStatus_eq_zero.trans ?_⟩
      · rw [modIss_core, modCore_core, if_pos rfl]
        rfl
      · simp only [ne_eq, not_or, not_not, not_lt, Bool.not_eq_true', Bool.not_eq_true, Bool.not_eq_false]
        rfl
  case slotStep =>
    intro t
    refine ⟨fun h => ?_, fun h => ?_⟩
    · rw [show t = _ from slotStep_runs h]
      exact ⟨rfl, rfl, by simp⟩
    · rw [show t = _ from slotStep_ends h, slotEnd_mem]
      exact ⟨slotEnd_core, Memory.readN_writeN hm .., fun _ ha => Memory.read_writeN_outside hm _ ha, slotEnd_cluster,
        slotEnd_clusters⟩
  case buddyset =>
    intro c l part
    have he := exec_buddyset.trans (pMode_privileged (i := .buddyset f) hg hp)
    refine ⟨fun hl => he.trans (congrArg _ (if_pos hl)), fun hl => ?_⟩
    rw [he]
    extract_lets v l' e st s1
    rw [if_neg (not_le.2 hl)]
    have hs1 : s1.mem = s.mem ∧ s1.cores = s.cores ∧ s1.iss = s.iss := by
      unfold s1
      split <;> exact ⟨rfl, rfl, rfl⟩
    obtain ⟨hmem, hcores, hiss⟩ := hs1
    obtain ⟨r, hr, hreg, hval, hrem⟩ := pushS_inflight (n := f.a) (v := BitVec.ofNat 64 st) (fl := 0) (lat := 2) hiss hcores
    refine ⟨_, st, r, rfl, hmem, hr, hreg, hval, hrem, fun h => ?_, fun h => ?_, fun h => ?_, fun h => ?_⟩
    · simp only [st, show l' = l from rfl, h]
    · simp only [st, show l' = l from rfl, h, if_true]
    · unfold s1
      rw [if_pos h]
      exact modSched_partner
    · unfold s1
      rw [if_neg h]
      rfl

end State
end Sys2Proof.Machine
end

section
/-! # The host's registers (O48)

One lemma says what each of the host's events does, or each group of registers, in terms of the operands that the event
carries; the fields follow from it. -/

namespace Sys2Proof.Machine

theorem find_filter_of_key {α : Type} {t : Tab α} {p : ℕ → Bool} {k : ℕ} :
    Tab.find (t.filter fun e => p e.1) k = if p k then Tab.find t k else none := by
  induction t with
  | nil => simp [Tab.find]
  | cons e l ih =>
    obtain ⟨i, v⟩ := e
    by_cases hi : i = k
    · subst hi
      cases hp : p i <;> simp [hp, ih, Tab.find]
    · cases hp : p i <;> simp [hp, ih, Tab.find, hi]
theorem get_of_absent {α : Type} {d : α} {t : Tab α} {k : ℕ} (h : ∀ e ∈ t, e.1 ≠ k) : Tab.get d t k = d := by
  induction t with
  | nil => rfl
  | cons e l ih =>
    obtain ⟨i, v⟩ := e
    rw [Tab.get, if_neg (h _ List.mem_cons_self)]
    exact ih fun e he => h e (List.mem_cons_of_mem _ he)
/-- A table of entries from a on that leaves out the zeros reads as the list that it was made of. -/
theorem get_zip_range {w a n k : ℕ} {l : List (BitVec w)} (hk : k < n) :
    Tab.get 0 (((List.range' a n).zip l).filter fun e => e.2 != 0) (a + k) = l.getD k 0 := by
  induction n generalizing a k l with
  | zero => omega
  | succ n ih =>
    cases l with
    | nil => simp [Tab.get]
    | cons b l =>
      rw [List.range'_succ, List.zip_cons_cons, List.filter_cons]
      cases k with
      | zero =>
        split
        · simp [Tab.get]
        · next hb =>
          rw [get_of_absent]
          · have hb : b = 0 := by simpa using hb
            simp [hb]
          · intro e he
            have := List.mem_range'.1 (List.of_mem_zip (List.mem_of_mem_filter he)).1
            omega
      | succ k =>
        have hrest := ih (a := a + 1) (k := k) (l := l) (by omega)
        rw [Nat.add_right_comm] at hrest
        split
        · rw [Tab.get, if_neg (by omega)]
          exact hrest
        · exact hrest

namespace State
variable {cl d die idx k mon n reg unit val who x : ℕ} {s t : State}

theorem exec_efqPop : exec .efqPop s = execEfqPop s := rfl
theorem exec_monownWrite : exec .monownWrite s = execMonownWrite s := rfl
theorem exec_monitorPeriodicSample : exec .monitorPeriodicSample s = execMonitorPeriodicSample s := rfl
theorem exec_slotTableEffect : exec .slotTableEffect s = execSlotTableEffect s := rfl
theorem exec_registerWrite : exec .registerWrite s = execRegisterWrite s := rfl
theorem reachesAll_hypervisor {pkg : ℕ} (h : pkg < packages) : reachesAll hypervisor pkg = true := by
  simp [reachesAll, h]
theorem reachesAll_other {pkg : ℕ} (h : who ≠ hypervisor) : reachesAll who pkg = false := by
  simp [reachesAll, h]

/-! ### Fault queue, monitors and slot tables -/

theorem efqPop_hypervisor (ha : s.clk.args = [hypervisor, die, val]) (hd : die < packages * 4) :
    exec .efqPop s = .next (if bits val 63 1 = 1 then s.modDie die fun k => { k with efq := k.efq.drop 1 } else s) := by
  rw [exec_efqPop, execEfqPop]
  simp [arg, ha, reachesAll_hypervisor (Nat.div_lt_of_lt_mul (Nat.mul_comm .. ▸ hd))]
theorem monownWrite_hypervisor (ha : s.clk.args = [hypervisor, die, val]) (hd : die < packages * 4) :
    exec .monownWrite s = .next (s.modDie die fun k => { k with
      monown := BitVec.ofNat 64 val
      mons := k.mons.filter fun e => k.monOwner e.1 == bits val (4 * e.1) 4 }) := by
  rw [exec_monownWrite, execMonownWrite]
  simp [arg, ha, reachesAll_hypervisor (Nat.div_lt_of_lt_mul (Nat.mul_comm .. ▸ hd))]
/-- A monitor takes samples, in order. -/
def takeSamples (s : State) (die mon : ℕ) (l : List ℕ) : State :=
  s.modDie die fun k => { k with mons := Tab.upd Mon.reset k.mons mon fun m => l.foldl Mon.sample m }
theorem takeSamples_mon {l : List ℕ} : Tab.get Mon.reset ((s.takeSamples die mon l).die die).mons mon =
    l.foldl Mon.sample (Tab.get Mon.reset (s.die die).mons mon) := by
  simp [takeSamples]
theorem monitorPeriodicSample_off (ha : s.clk.args = [die, mon]) (ht : s.time (die / 4) % 256 ≠ 0) :
    exec .monitorPeriodicSample s = .next s := by
  have h20 : s.time (die / 4) % 2 ^ 20 ≠ 0 := by omega
  rw [exec_monitorPeriodicSample, execMonitorPeriodicSample]
  simp [arg, ha, ht, -Nat.reducePow, h20]
theorem monitorPeriodicSample_on (ha : s.clk.args = [die, mon]) (ht : s.time (die / 4) % 256 = 0)
    (hm : (Tab.get Mon.reset (s.die die).mons mon).cfg ≠ 0) : exec .monitorPeriodicSample s = .next (
      let owner := (s.die die).monOwner mon
      let w := (Tab.get Mon.reset (s.die die).mons mon).cfg.toNat
      if bits w 56 6 = 6 then
        s.takeSamples die mon ((s.driftCores die owner w).map fun c => (s.core c).fetch.queue.length)
      else if bits w 56 6 = 7 then
        s.takeSamples die mon [((s.die die).sched.pool.filter fun e => e.r.node / 4096 == owner).length]
      else if bits w 56 6 = 8 then
        s.takeSamples die mon [((s.die die).sched.tdt.filter fun e => e.2.state == 2 && e.2.part == owner).length]
      else if bits w 56 6 = 11 ∧ s.time (die / 4) % 2 ^ 20 = 0 then s.draw.2.takeSamples die mon [Config.choice s.draw.1]
      else s) := by
  have hw : ¬ (Tab.get Mon.reset (s.die die).mons mon).cfg.toNat = 0 := fun h => hm (BitVec.eq_of_toNat_eq h)
  rw [exec_monitorPeriodicSample, execMonitorPeriodicSample]
  simp only [arg, ha, List.getD_cons_zero, List.getD_cons_succ, hw, ht, if_false, and_true]
  rfl
theorem slotTableEffect_empty (ha : s.clk.args = [cl]) (h : (s.cluster cl).slotsNext = none) :
    exec .slotTableEffect s = .next s := by
  rw [exec_slotTableEffect, execSlotTableEffect]
  simp [arg, ha, h]
theorem slotTableEffect_loaded {at_ : ℕ} {l : List (BitVec 32)} (ha : s.clk.args = [cl])
    (h : (s.cluster cl).slotsNext = some (at_, l)) : exec .slotTableEffect s = .next (
      if at_ ≤ s.clk.cycle ∧ s.time (cl / 64) % 256 = 0 then
        s.modCluster cl fun k => { k with slots := ((List.range 256).zip l).filter fun e => e.2 != 0, slotsNext := none }
      else s) := by
  rw [exec_slotTableEffect, execSlotTableEffect]
  simp [arg, ha, h]

/-! ### Registers of a partition -/

theorem keepsCores_refl : keepsCores s s := ⟨rfl, rfl, rfl⟩
theorem keepsCores_ite {u : State} {p : Prop} [Decidable p] (h : keepsCores s t) (hu : keepsCores s u) :
    keepsCores s (if p then t else u) := by
  split <;> assumption

/-- The fields of NRBASE, and zeros between them (R318). -/
theorem nrbase_fields (v : ℕ) :
    let w := BitVec.ofNat 64 (bits v 63 1 * 2 ^ 63 + bits v 12 44 * 2 ^ 12 + v % 16)
    bits w.toNat 63 1 = bits v 63 1 ∧ bits w.toNat 56 7 = 0 ∧ bits w.toNat 12 44 = bits v 12 44 ∧ bits w.toNat 4 8 = 0
      ∧ bits w.toNat 0 4 = bits v 0 4 := by
  simp only [BitVec.toNat_ofNat, bits]
  omega
theorem write_ctl {p : Machine.Part} {now : ℕ} (h : reg ≠ 2) : (p.write reg val now).ctl = p.ctl := by
  unfold Part.write
  split
  case h_2 => exact absurd rfl h
  all_goals rfl

/-! ### Register writes -/

section
variable (ha : s.clk.args = [who, unit, reg, idx, val]) (hv : val < 2 ^ 64)
include ha hv
theorem registerWrite_eq : exec .registerWrite s = .next (
    if (1 ≤ reg ∧ reg ≤ 8) ∨ reg = 13 then s.partReg who unit idx fun p => p.write reg val s.clk.cycle
    else if reg = 9 then
      (if s.reachesPart who (unit / 4) idx then
        s.modDie unit fun k =>
          { k with ptroot := Tab.set k.ptroot idx (BitVec.ofNat 64 (bits val 63 1 * 2 ^ 63 + bits val 21 16 * 2 ^ 21)) }
      else s)
    else if reg = 14 then s.storeWord who unit idx val
    else if reg = 15 then
      (if !s.reachesNode who unit (bits val 0 12) then s
      else if bits val 63 1 = 1 then (if bits val 57 2 = 3 then s.refusePreempt unit (bits val 0 12) else s)
      else s.modRegs unit fun r => r.fields val)
    else if reg = 17 then s.coreReg who unit (idx / 4096) (idx % 4096) val
    else s.plainReg who unit reg idx val) := by
  rw [exec_registerWrite, execRegisterWrite]
  simp only [arg, ha, Nat.mod_eq_of_lt hv, List.getD_cons_zero, List.getD_cons_succ]
theorem registerWrite_part (hr : 1 ≤ reg ∧ reg ≤ 8 ∨ reg = 13) :
    exec .registerWrite s = .next (s.partReg who unit idx fun p => p.write reg val s.clk.cycle) := by
  rw [registerWrite_eq ha hv, if_pos hr]
theorem registerWrite_plain (hr : reg = 0 ∨ 10 ≤ reg ∧ reg ≤ 12 ∨ reg = 16) :
    exec .registerWrite s = .next (s.plainReg who unit reg idx val) := by
  rw [registerWrite_eq ha hv, if_neg (by omega), if_neg (by omega), if_neg (by omega), if_neg (by omega), if_neg (by omega)]
end
theorem partReg_reached {p n : ℕ} {f : Machine.Part → Machine.Part} (h : s.reachesPart who p n = true) :
    s.partReg who p n f = s.modPart p n f := if_pos h
theorem partReg_unreached {p n : ℕ} {f : Machine.Part → Machine.Part} (h : s.reachesPart who p n = false) :
    s.partReg who p n f = s := if_neg (by simp [h])


/-! ### Registers of a package and of a die -/

theorem plainReg_peerLimit (h : unit < packages) :
    s.plainReg hypervisor unit 0 idx val = s.modApex unit fun a => { a with peerLimit := val % 2 ^ 32 } :=
  if_pos (reachesAll_hypervisor h)
theorem plainReg_group (h : unit < packages) (hi : idx < 256) : s.plainReg hypervisor unit 11 idx val =
    s.modApex unit fun a => { a with groups := Tab.set a.groups idx (groupWord val) } :=
  if_pos (by simp [reachesAll_hypervisor h, hi])
theorem plainReg_member (h : unit < packages) (hi : idx < 65536) : s.plainReg hypervisor unit 12 idx val =
    s.modApex unit fun a => { a with members := Tab.set a.members idx (val % 65536) } :=
  if_pos (by simp [reachesAll_hypervisor h, hi])
theorem plainReg_drainlimit (h : unit / 4 < packages) : s.plainReg hypervisor unit 10 idx val =
    s.modRegs unit fun r => { r with drainlimit := val % 2 ^ 32 } :=
  if_pos (reachesAll_hypervisor h)
theorem plainReg_coreStart (h : unit / 4 < packages) : s.plainReg hypervisor unit 16 idx val =
    if bits val 63 1 = 0 then s.modRegs unit fun r => { r with csRefused := true } else s := by
  simp [plainReg, reachesAll_hypervisor h]
theorem plainReg_other (h : who ≠ hypervisor) : s.plainReg who unit reg idx val = s := by
  unfold plainReg
  split <;> simp [reachesAll_other h]
theorem modRegs_regs {f : SchedRegs → SchedRegs} : ((s.modRegs die f).die die).sched.regs = f (s.die die).sched.regs := by
  simp [modRegs, modSched]
theorem keepsCores_modRegs {f : SchedRegs → SchedRegs} : keepsCores s (s.modRegs die f) := ⟨rfl, rfl, rfl⟩

/-! ### The node store and PREEMPT -/

theorem storeWord_hypervisor (hd : die < packages * 4) (hi : idx < 65536) : s.storeWord hypervisor die idx val =
    s.modSched die fun k => { k with store := Tab.set k.store idx (BitVec.ofNat 64 val) } :=
  if_pos (by simp [hd, hi, hasWindow])
theorem refuse_die {p q code : ℕ} : (s.refuse p q code n).die d = s.die d := rfl
theorem keepsCores_refusePreempt : keepsCores s (s.refusePreempt die n) := by
  unfold refusePreempt
  dsimp only
  split
  · exact ⟨rfl, rfl, rfl⟩
  · exact keepsCores_modRegs
theorem refusePreempt_regs :
    ((s.refusePreempt die n).die die).sched.regs = { (s.die die).sched.regs with refused := true } := by
  unfold refusePreempt
  dsimp only
  split
  · rw [refuse_die, modRegs_regs]
  · exact modRegs_regs
theorem refusePreempt_tbl {p : ℕ} (h : s.graphPart die n = some p) : ((s.refusePreempt die n).part (die / 4) p).tbl =
    ⟨true, min 65535 ((s.part (die / 4) p).tbl.count + 1), n % 65536, 11⟩ := by
  have hg : (s.modRegs die fun r => { r with refused := true }).graphPart die n = some p := by
    simpa [graphPart, modRegs, modSched] using h
  unfold refusePreempt
  simp only [hg, refuse, modPart_part, and_self, if_true]
  rfl

/-! ### P-view registers of a core -/

theorem coreReg_reached (hc : unit < packages * 512) (hr : s.reachesCluster who (clusterOf unit) = true)
    (hn : n ∈ pViewRegs) : s.coreReg who unit x n val = s.writeCsr unit x n (BitVec.ofNat 64 val) :=
  if_pos (by simp [hc, hr, hn])
theorem coreReg_unlisted (hn : n ∉ pViewRegs) : s.coreReg who unit x n val = s := if_neg (by simp [hn])
theorem writeCsr_frame {v : Word} (hn : n ∈ pViewRegs) : (s.writeCsr unit x n v).mem = s.mem
    ∧ (s.writeCsr unit x n v).tags = s.tags ∧ (∀ y, y ≠ x → (s.writeCsr unit x n v).ctx unit y = s.ctx unit y)
    ∧ ∀ d, d ≠ unit → (s.writeCsr unit x n v).core d = s.core d := by
  simp only [pViewRegs, List.mem_cons, List.not_mem_nil, or_false] at hn
  rcases hn with rfl | rfl | rfl | rfl | rfl | rfl | rfl <;>
    exact ⟨rfl, rfl, fun y hy => by simp [writeCsr, hy, ctx, Core.ctx, modCtx], fun d hd => by simp [writeCsr, modCtx, hd]⟩

/-- Settles O48: each clause is one event or one group of registers. -/
theorem hostRegisters : Obligations.HostRegisters := by
  unfold Obligations.HostRegisters
  refine fun s who => ⟨fun die val ha hd hw => ⟨?efqPop, ?monown⟩, fun die mon ha => ?periodic, fun cl ha => ?slotTable,
    fun unit idx val reg hv ha => ⟨fun hr => ?partition, fun hr hp => ?ptroot, fun hr hw hu h11 h12 => ?package,
      fun hr hw hu => ?die, fun hr hw => ?unreached, fun hr hw hu hi => ?store, fun hr => ?preempt,
      fun x n hr hi hn hu hc => ?core⟩⟩
  case efqPop =>
    subst hw
    refine ⟨_, efqPop_hypervisor ha hd, keepsCores_ite ⟨rfl, rfl, rfl⟩ keepsCores_refl, ?_⟩
    split <;> simp
  case monown =>
    subst hw
    refine ⟨_, monownWrite_hypervisor ha hd, ⟨rfl, rfl, rfl⟩, by simp, fun m => ?_⟩
    rw [modDie_die, if_pos rfl]
    simpa using find_filter_of_key (t := (s.die die).mons) (p := fun i => (s.die die).monOwner i == bits val (4 * i) 4)
  case periodic =>
    intro m src
    simp only [m, src]
    refine ⟨monitorPeriodicSample_off ha, fun hm ht => ⟨_, monitorPeriodicSample_on ha ht hm, ?_⟩⟩
    refine ⟨keepsCores_ite ⟨rfl, rfl, rfl⟩ (keepsCores_ite ⟨rfl, rfl, rfl⟩ (keepsCores_ite ⟨rfl, rfl, rfl⟩
      (keepsCores_ite ⟨rfl, rfl, rfl⟩ keepsCores_refl))), fun h => ?_, fun h => ?_, fun h => ?_, fun h => ?_, fun h => ?_⟩
    · rw [if_pos h, takeSamples_mon, List.foldl_map]
    · rw [if_neg (by omega), if_pos h, takeSamples_mon, List.foldl_cons, List.foldl_nil]
    · rw [if_neg (by omega), if_neg (by omega), if_pos h, takeSamples_mon, List.foldl_cons, List.foldl_nil]
    · rw [if_neg (by omega), if_neg (by omega), if_neg (by omega)]
      by_cases h20 : s.time (die / 4) % 2 ^ 20 = 0
      · rw [if_pos ⟨h, h20⟩, if_pos h20, takeSamples_mon]
        rfl
      · rw [if_neg fun h' => h20 h'.2, if_neg h20]
    · rw [if_neg (by omega), if_neg (by omega), if_neg (by omega), if_neg (by omega)]
  case slotTable =>
    refine ⟨slotTableEffect_empty ha, fun at_ l h => ⟨fun h1 h2 => ?_, fun h1 => ?_⟩⟩
    · refine ⟨_, (slotTableEffect_loaded ha h).trans (congrArg _ (if_pos ⟨h1, h2⟩)), ⟨rfl, rfl, rfl⟩, by simp,
        fun k hk => ?_, fun q hq => by simp [hq]⟩
      rw [modCluster_cluster, if_pos rfl]
      simpa [List.range_eq_range'] using get_zip_range (a := 0) (l := l) hk
    · exact (slotTableEffect_loaded ha h).trans (congrArg _ (if_neg (by omega)))
  case partition =>
    refine ⟨fun hp => ?_, fun hp => ?_⟩
    · rw [registerWrite_part ha hv hr, partReg_unreached hp]
    · refine ⟨_, (registerWrite_part ha hv hr).trans (congrArg _ (partReg_reached hp)), ⟨rfl, rfl, rfl⟩, rfl, ?_⟩
      rw [modPart_part, if_pos ⟨rfl, rfl⟩]
      refine ⟨?_, ?_, ?nrbase, ?_, ?_, ?_, ?_, ?_, ?_, ?ctl, fun q hq => by simp [modPart, hq]⟩
      case nrbase =>
        rintro rfl
        exact ⟨_, rfl, nrbase_fields val⟩
      case ctl => exact write_ctl
      all_goals
        rintro rfl
        simp [Part.write]
  case ptroot =>
    have he := registerWrite_eq ha hv
    rw [if_neg (by omega), if_pos hr, if_pos hp] at he
    exact ⟨_, he, ⟨rfl, rfl, rfl⟩, by simp, fun j hj => by simp [hj]⟩
  case package =>
    subst hw
    rw [registerWrite_plain ha hv (by omega)]
    rcases hr with rfl | rfl | rfl
    · rw [plainReg_peerLimit hu]
      exact ⟨_, rfl, ⟨rfl, rfl, rfl⟩, rfl, by simp [modApex], by simp, by simp⟩
    · rw [plainReg_group hu (h11 rfl)]
      exact ⟨_, rfl, ⟨rfl, rfl, rfl⟩, rfl, by simp, by simp +contextual [modApex, groupWord], by simp⟩
    · rw [plainReg_member hu (h12 rfl)]
      exact ⟨_, rfl, ⟨rfl, rfl, rfl⟩, rfl, by simp, by simp, by simp +contextual [modApex]⟩
  case die =>
    subst hw
    rw [registerWrite_plain ha hv (by omega)]
    rcases hr with rfl | rfl
    · rw [plainReg_drainlimit (by omega)]
      exact ⟨_, rfl, keepsCores_modRegs, fun _ => modRegs_regs, by simp, by simp⟩
    · rw [plainReg_coreStart (by omega)]
      refine ⟨_, rfl, keepsCores_ite keepsCores_modRegs keepsCores_refl, by simp, fun _ h => ?_, fun _ h => ?_⟩
      · rw [if_pos h, modRegs_regs]
      · rw [if_neg (by omega)]
  case unreached => rw [registerWrite_plain ha hv hr, plainReg_other hw]
  case store =>
    subst hw
    have he := registerWrite_eq ha hv
    rw [if_neg (by omega), if_neg (by omega), if_pos hr, storeWord_hypervisor hu hi] at he
    exact ⟨_, he, ⟨rfl, rfl, rfl⟩, by simp [modSched], fun j hj => by simp [modSched, hj]⟩
  case preempt =>
    intro n
    have he := registerWrite_eq ha hv
    rw [if_neg (by omega), if_neg (by omega), if_neg (by omega), if_pos hr] at he
    refine ⟨fun hp => ?_, fun hp => ⟨fun h0 => ?_, fun h1 h3 => ?_⟩⟩
    · rw [he, if_pos (by simpa using hp)]
    · rw [if_neg (by simpa using hp), if_neg (by omega)] at he
      exact ⟨_, he, keepsCores_modRegs, modRegs_regs⟩
    · rw [if_neg (by simpa using hp), if_pos h1, if_pos h3] at he
      refine ⟨_, he, keepsCores_refusePreempt, refusePreempt_regs, fun part hpart => ?_⟩
      rw [refusePreempt_tbl hpart, Nat.mod_eq_of_lt]
      have : n < 2 ^ 12 := Nat.mod_lt _ (by norm_num)
      omega
  case core =>
    have he := registerWrite_eq ha hv
    rw [if_neg (by omega), if_neg (by omega), if_neg (by omega), if_neg (by omega), if_pos hr, show idx / 4096 = x by omega,
      show idx % 4096 = n by omega] at he
    refine ⟨fun h => by rw [he, coreReg_unlisted h], ?_⟩
    by_cases hm : n ∈ pViewRegs
    · rw [coreReg_reached hu hc hm] at he
      obtain ⟨hmem, htags, hctx, hcore⟩ := writeCsr_frame (s := s) (unit := unit) (x := x) (v := BitVec.ofNat 64 val) hm
      refine ⟨_, he, hmem, htags, ?_, ?_, ?_, ?_, ?_, ?_, ?_, hctx, hcore⟩
      all_goals
        rintro rfl
        simp [writeCsr, bits]
      omega
    · rw [coreReg_unlisted hm] at he
      refine ⟨s, he, rfl, rfl, ?_, ?_, ?_, ?_, ?_, ?_, ?_, fun _ _ => rfl, fun _ _ => rfl⟩
      all_goals
        rintro rfl
        exact absurd (by decide) hm

end State
end Sys2Proof.Machine
end

section
/-! # HOST nodes, host starts and CORE_MAP (O43)

What completes a node is one change of its entry and of its die's placements: everything before and after it keeps the node
tables, which `keepsNodes` says. Of each event one lemma for each outcome says which operation it is. -/

namespace Sys2Proof.Machine

@[simp] theorem Tab.find_set_self {α : Type} {t : Tab α} {k : ℕ} {v : α} : Tab.find (Tab.set t k v) k = some v := by
  induction t with
  | nil => simp [Tab.set, Tab.find]
  | cons e l ih =>
    obtain ⟨i, w⟩ := e
    simp only [Tab.set]
    split
    · simp [Tab.find]
    · next hi =>
      split
      · simp [Tab.find]
      · simpa [Tab.find, hi] using ih
@[simp] theorem Tab.find_del_self {α : Type} {t : Tab α} {k : ℕ} : Tab.find (Tab.del t k) k = none := by
  induction t with
  | nil => rfl
  | cons e l ih =>
    obtain ⟨i, w⟩ := e
    by_cases hi : i = k <;> simpa [Tab.del, Tab.find, hi] using ih
theorem bits_from_zero {x n : ℕ} : bits x 0 n = x % 2 ^ n := by
  rw [bits, pow_zero, Nat.div_one]
/-- Memory, the tails of the partitions' rings, and every die's node entries and placements are the same in both states. -/
def keepsNodes (s t : State) : Prop :=
  t.mem = s.mem ∧ (∀ p n, (t.part p n).cnt.tail = (s.part p n).cnt.tail)
    ∧ ∀ d, (t.die d).sched.tdt = (s.die d).sched.tdt ∧ (t.die d).sched.placed = (s.die d).sched.placed

namespace State
variable {c cl d i pc v who : ℕ} {s t u : State} {p : Placed}

/-! ### What keeps the node tables -/

theorem keepsNodes_refl : keepsNodes s s := ⟨rfl, fun _ _ => rfl, fun _ => ⟨rfl, rfl⟩⟩
theorem keepsNodes_trans (h : keepsNodes s t) (g : keepsNodes t u) : keepsNodes s u := by
  obtain ⟨hm, ht, hd⟩ := h
  obtain ⟨gm, gt, gd⟩ := g
  exact ⟨gm.trans hm, fun p n => (gt p n).trans (ht p n), fun d => ⟨(gd d).1.trans (hd d).1, (gd d).2.trans (hd d).2⟩⟩
theorem keepsNodes_ite {q : Prop} [Decidable q] (h : keepsNodes s t) (g : keepsNodes s u) :
    keepsNodes s (if q then t else u) := by
  split <;> assumption
theorem keepsNodes_foldl {α : Type} {f : State → α → State} {l : List α} (hf : ∀ t a, keepsNodes t (f t a)) :
    keepsNodes s (l.foldl f s) :=
  l.foldlRecOn f keepsNodes_refl fun _ ht _ _ => keepsNodes_trans ht (hf _ _)
theorem keepsNodes_modDie {f : Die → Die} (ht : ∀ k, (f k).sched.tdt = k.sched.tdt)
    (hp : ∀ k, (f k).sched.placed = k.sched.placed) : keepsNodes s (s.modDie d f) := by
  refine ⟨rfl, fun _ _ => rfl, fun e => ?_⟩
  rw [modDie_die]
  split
  · next he => exact he ▸ ⟨ht _, hp _⟩
  · exact ⟨rfl, rfl⟩
theorem keepsNodes_modPkg {n : ℕ} {f : Pkg → Pkg} (hf : ∀ k, (f k).parts = k.parts) : keepsNodes s (s.modPkg n f) := by
  refine ⟨rfl, fun q _ => ?_, fun _ => ⟨rfl, rfl⟩⟩
  rw [part, modPkg_pkg]
  split
  · next hq => rw [hf, hq, part]
  · rfl
theorem keepsNodes_failureEvent {pkg n : ℕ} : keepsNodes s (s.failureEvent pkg n) := by
  refine ⟨rfl, fun q m => ?_, fun _ => ⟨rfl, rfl⟩⟩
  rw [failureEvent, modPart_part]
  split
  · next h => rw [h.1, h.2]
  · rfl
theorem keepsNodes_sample {n src k : ℕ} {o : Option ℕ} : keepsNodes s (s.sample d n src o k) :=
  keepsNodes_foldl fun _ _ => keepsNodes_ite (keepsNodes_modDie (fun _ => rfl) fun _ => rfl) keepsNodes_refl
theorem keepsNodes_openRouters {l : List ℕ} : keepsNodes s (s.openRouters l) := keepsNodes_foldl fun _ _ => keepsNodes_refl
theorem keepsNodes_sendNotice {n : Notice} : keepsNodes s (s.sendNotice d n) :=
  have h : keepsNodes s (s.modSched d fun k => { k with notices := Tab.set k.notices (Tab.fresh (s.die d).sched.notices) n }) :=
    keepsNodes_modDie (fun _ => rfl) fun _ => rfl
  keepsNodes_ite h h
theorem keepsNodes_signal {l : List Word} {fail : Bool} : keepsNodes s (s.signal d i l fail) :=
  keepsNodes_foldl fun _ _ => keepsNodes_sendNotice

/-! ### Completing a node -/

/-- A completed node is in STATE 5 or 4 and no longer placed; memory and the rings' tails stay (R59, R342). -/
theorem completeNode_result {l : List Word} {bad : Bool} :
    let t := s.completeNode d i l bad
    t.mem = s.mem ∧ (∀ q n, (t.part q n).cnt.tail = (s.part q n).cnt.tail)
      ∧ (t.nodeEnt d i).state = (if bad = true ∨ (s.nodeEnt d i).engerr ≠ 0 then 5 else 4)
      ∧ Tab.find (t.die d).sched.placed i = none := by
  unfold completeNode
  extract_lets e bad' node p since pkg left s1 s2 s3 s4 s5 s6 t
  have h1 : keepsNodes s s1 := keepsNodes_foldl fun _ _ => keepsNodes_modDie (fun _ => rfl) fun _ => rfl
  have h2 : keepsNodes s1 s2 := keepsNodes_sample
  have h3 : keepsNodes s s3 := by
    refine keepsNodes_trans h1 (keepsNodes_trans h2 ?_)
    clear_value p s2
    unfold s3
    split
    · exact keepsNodes_refl
    · refine keepsNodes_ite (keepsNodes_trans ?_ keepsNodes_openRouters) ?_ <;>
      · split
        · exact keepsNodes_modPkg fun _ => rfl
        · exact keepsNodes_refl
  have h5 : keepsNodes s5 s6 := keepsNodes_ite keepsNodes_failureEvent keepsNodes_refl
  have h6 : keepsNodes s5 t := keepsNodes_trans h5 keepsNodes_signal
  obtain ⟨hm, ht, -⟩ := h3
  obtain ⟨gm, gt, gd⟩ := h6
  refine ⟨gm.trans hm, fun q n => (gt q n).trans (ht q n), ?_, ?_⟩
  · rw [nodeEnt, (gd d).1]
    change (s5.nodeEnt d i).state = _
    simp [s5, bad', e]
  · rw [(gd d).2]
    simp [s5, s4, modNode, modSched]
theorem failDispatch_result {l : List Word} {code addr : ℕ} :
    (s.failDispatch d i l code addr).mem = s.mem ∧ ((s.failDispatch d i l code addr).nodeEnt d i).state = 5 := by
  obtain ⟨hm, -, hs, -⟩ := (s.schedFault d i code addr).completeNode_result (d := d) (i := i) (l := l) (bad := true)
  exact ⟨hm, hs.trans (if_pos (.inl rfl))⟩

/-! ### HOST nodes -/

theorem exec_notifyRingWrite : exec .notifyRingWrite s = execNotifyRingWrite s := rfl
theorem exec_notifyAck : exec .notifyAck s = execNotifyAck s := rfl

section
variable (ha : s.clk.args = [d, i]) (hp : Tab.find (s.die d).sched.placed i = some p) (hk : nodeKind p.words = 4)
include ha hp hk
theorem notifyRingWrite_bad (hr : p.ring = false) (hb : p.bad = true) :
    exec .notifyRingWrite s = .next (s.completeNode d i p.words true) := by
  simp [exec_notifyRingWrite, execNotifyRingWrite, arg, ha, hp, hk, hr, hb]
theorem notifyRingWrite_invalid (hr : p.ring = false) (hb : p.bad = false)
    (hv : bits (s.part (d / 4) (s.nodeEnt d i).part).cnt.nrbase.toNat 63 1 = 0) :
    exec .notifyRingWrite s = .next (s.failDispatch d i p.words 2 0) := by
  simp [exec_notifyRingWrite, execNotifyRingWrite, arg, ha, hp, hk, hr, hb, hv]
/-- What the device writes into a ring that has room, where the host lets it (R401). -/
theorem notifyRingWrite_writes (hr : p.ring = false) (hb : p.bad = false) :
    let e := s.nodeEnt d i
    let c := (s.part (d / 4) e.part).cnt
    let size := 2 ^ (c.nrbase.toNat % 2 ^ 4)
    let a := unitAddr 7 (d / 4) (bits c.nrbase.toNat 12 44 * 2 ^ 12 + 16 * (c.tail % size))
    bits c.nrbase.toNat 63 1 = 1 → s.ringBusy (d / 4) e.part = false → c.ringUsed < size →
    Config.hostRefuses s.clk.ctr = false → ∃ t, exec .notifyRingWrite s = .next t
      ∧ t.mem = (s.mem.writeN a 8 (wd p.words 11)).writeN (a + 8) 8 (e.seq * 2 ^ 32 + d % 4 * 2 ^ 16 + s.nodeId d i)
      ∧ Tab.find (t.die d).sched.placed i = some { p with ring := true } := by
  intro e c size a hv hbusy hroom hh
  have hh' : Config.hostRefuses s.draw.1 = false := hh
  have hsize : 2 ^ bits c.nrbase.toNat 0 4 = size := by rw [bits_from_zero]
  have ha8 : ∀ o, unitAddr 7 (d / 4) (o + 8) = unitAddr 7 (d / 4) o + 8 := fun _ => (Nat.add_assoc ..).symm
  simp only [exec_notifyRingWrite, execNotifyRingWrite, arg, ha, List.getD_cons_zero, List.getD_cons_succ, hp]
  rw [if_neg (by simp [hk, hr]), if_neg (by simp [hb]), if_neg fun h => absurd (hv.symm.trans h) one_ne_zero,
    hsize, if_neg (by simpa using And.intro hbusy hroom), if_neg (by simp [hh']), ha8]
  exact ⟨_, rfl, rfl, by simp [modSched]⟩
theorem notifyAck_completes (hr : p.ring = true) :
    exec .notifyAck s = .next ((s.modPart (d / 4) (s.nodeEnt d i).part fun k =>
      { k with cnt := { k.cnt with tail := (k.cnt.tail + 1) % 2 ^ 32 } }).completeNode d i p.words p.bad) := by
  simp [exec_notifyAck, execNotifyAck, arg, ha, hp, hk, hr]
end

/-! ### Host starts -/

theorem exec_corestartGo : exec .corestartGo s = execCorestartGo s := rfl

section
variable (ha : s.clk.args = [hypervisor, d, v]) (hd : d < packages * 4)
include ha hd
/-- The host start is refused, whichever of the conditions of R131 fails. -/
theorem corestartGo_refused
    (h : s.exposedCore d (bits v 36 12) = none
      ∨ (s.exposedCore d (bits v 36 12) = some c
        ∧ ((s.pkg (d / 4)).own.quarter (clusterOf c % 64 / 16 * 4 + quarterOf (clusterOf c)) = none
          ∨ ∃ k ∈ coresOf (clusterOf c), (s.core k).ident.placed = true))
      ∨ (s.die d).sched.regs.csRun ≠ none ∨ v % 2 ^ 24 % 2 = 1) :
    exec .corestartGo s = .next (s.modRegs d fun r => { r with csRefused := true }) := by
  rw [exec_corestartGo, execCorestartGo]
  simp only [arg, ha, List.getD_cons_zero, List.getD_cons_succ, bits_from_zero]
  rw [if_neg (by simp [hd])]
  split
  · rfl
  · next c' hc' =>
    split
    · rfl
    · next part hpart =>
      rw [if_pos]
      rw [hc'] at h
      obtain h | ⟨h, hn | hk⟩ | h | h := h
      · cases h
      · cases h
        cases hpart.symm.trans hn
      · cases h
        simpa using .inr hk
      · simp [Option.isSome_iff_ne_none.2 h]
      · simp only [h, beq_self_eq_true, Bool.or_true, Bool.true_or]
theorem corestartGo_starts {part : ℕ} (hc : s.exposedCore d (bits v 36 12) = some c)
    (ho : (s.pkg (d / 4)).own.quarter (clusterOf c % 64 / 16 * 4 + quarterOf (clusterOf c)) = some part)
    (hr : (s.die d).sched.regs.csRun = none) (hpc : v % 2 ^ 24 % 2 = 0)
    (hk : ∀ k ∈ coresOf (clusterOf c), (s.core k).ident.placed = false) :
    exec .corestartGo s = .next (s.startCore d c part (v % 2 ^ 24) v) := by
  have hnone : ((coresOf (clusterOf c)).any fun k => (s.core k).ident.placed) = false := by simpa using hk
  rw [exec_corestartGo, execCorestartGo]
  simp only [arg, ha, List.getD_cons_zero, List.getD_cons_succ, bits_from_zero, hc, ho]
  rw [if_neg (by simp [hd]), if_neg (by rw [hr, hpc, hnone]; decide)]
end
theorem startCore_regs {part : ℕ} : ((s.startCore d c part pc v).die d).sched.regs =
    { (s.die d).sched.regs with csRefused := false, csRun := some c, csCore := bits v 36 12, csPc := pc } := by
  rw [startCore, die, modCore_dies]
  exact modRegs_regs
/-- The started core, the registers of its die, and the cores that it leaves alone (R131). -/
theorem startCore_result {part : ℕ} (hpc : pc % 2 = 0) (hlt : pc < 2 ^ 24) :
    let t := s.startCore d c part pc v
    t.mem = s.mem ∧ (t.core c).ident = ⟨1, true, 0, 0, 0, part, false, true, d⟩ ∧ (t.ctx c 0).pc = pc
      ∧ (t.ctx c 0).run.active = true ∧ (t.core c).csr.tvec = pc ∧ (t.die d).sched.regs.csRun = some c
      ∧ (t.die d).sched.regs.csRefused = false ∧ ∀ k, k ≠ c → t.core k = s.core k := by
  have htvec : pc / 2 * 2 % 2 ^ 24 = pc := by omega
  refine ⟨rfl, ?_, ?_, ?_, ?_, ?_, ?_, fun k hk => ?_⟩
  · simp [startCore, Core.startAt, Core.fresh]
  · simp [startCore, ctx, Core.ctx, Core.startAt, Tab.get]
  · simp [startCore, ctx, Core.ctx, Core.startAt, Tab.get]
  · simpa [startCore, Core.startAt, Core.fresh] using htvec
  · rw [startCore_regs]
  · rw [startCore_regs]
  · rw [startCore, modCore_core, if_neg hk]
    rfl

/-! ### CORE_MAP -/

theorem exec_coreMapWrite : exec .coreMapWrite s = execCoreMapWrite s := rfl
theorem coreMapWrite_eq (ha : s.clk.args = [who, cl, v]) (hr : s.reachesCluster who cl = true) (hc : cl < packages * 64) :
    exec .coreMapWrite s = .next (s.writeCoreMap cl v) := by
  simp [exec_coreMapWrite, execCoreMapWrite, arg, ha, hr, hc]
theorem writeCoreMap_refused (h : (∃ c ∈ coresOf cl, (s.core c).ident.placed = true) ∨ coreMapOk v = false) :
    s.writeCoreMap cl v = s.modCluster cl fun k => { k with
      coreMap := BitVec.ofNat 64
        ((s.cluster cl).coreMap.toNat % 2 ^ 62 + bits (s.cluster cl).coreMap.toNat 63 1 * 2 ^ 63 + 2 ^ 62) } := by
  rw [writeCoreMap, if_pos (by simpa using h)]
theorem resetCores_cluster {l : List ℕ} {n : ℕ} :
    (l.foldl (fun s i => s.resetCore (cl * 8 + i)) s).cluster n = s.cluster n :=
  l.foldlRecOn (motive := fun t : State => t.cluster n = s.cluster n) _ rfl fun _ ht _ _ => ht
theorem resetCores_core {l : List ℕ} : (l.foldl (fun s i => s.resetCore (cl * 8 + i)) s).core (cl * 8 + i) =
    if i ∈ l then Core.reset else s.core (cl * 8 + i) := by
  induction l generalizing s with
  | nil => rfl
  | cons j l ih =>
    rw [List.foldl_cons, ih]
    by_cases hl : i ∈ l
    · simp [hl]
    · by_cases hj : i = j
      · simp [hj, resetCore]
      · rw [if_neg hl, if_neg (by simp [hl, hj]), resetCore, modCore_core, if_neg (by omega)]
        rfl
/-- The map that an accepted write leaves, and the cores that it moves or leaves in place (R11, R20). -/
theorem writeCoreMap_accepted (hp : ∀ c ∈ coresOf cl, (s.core c).ident.placed = false) (hv : coreMapOk v = true) :
    let old := (s.cluster cl).coreMap.toNat
    ((s.writeCoreMap cl v).cluster cl).coreMap = BitVec.ofNat 64 (bits old 63 1 * 2 ^ 63 + v % 2 ^ 41)
      ∧ ∀ i, i < 8 → (s.writeCoreMap cl v).core (cl * 8 + i) =
        if bits old (4 * i) 4 = bits v (4 * i) 4 then s.core (cl * 8 + i) else Core.reset := by
  have hnone : ¬ (((coresOf cl).any fun c => (s.core c).ident.placed) || !coreMapOk v) = true := by simpa [hv] using hp
  rw [writeCoreMap, if_neg hnone]
  refine ⟨by simp [resetCores_cluster], fun i hi => ?_⟩
  rw [resetCores_core]
  by_cases h : bits (s.cluster cl).coreMap.toNat (4 * i) 4 = bits v (4 * i) 4
  · simp [h, core]
  · simp [h, hi]

/-- Settles O43, event by event: each clause is one outcome of the event, and what it leaves is read off the operation that
it comes to. -/
theorem hostNodesAndStarts : Obligations.HostNodesAndStarts := by
  unfold Obligations.HostNodesAndStarts
  refine ⟨?node, ?start, ?map⟩
  case node =>
    intro s d i p ha hp hk e c size a
    refine ⟨notifyRingWrite_writes ha hp hk, fun hr hb hv => ?_, fun hr hb => ?_, fun hr => ?_⟩
    · exact ⟨_, notifyRingWrite_invalid ha hp hk hr hb hv, failDispatch_result⟩
    · obtain ⟨hm, -, hs, hn⟩ := completeNode_result (s := s) (d := d) (i := i) (l := p.words) (bad := true)
      exact ⟨_, notifyRingWrite_bad ha hp hk hr hb, hm, hs.trans (if_pos (.inl rfl)), hn⟩
    · obtain ⟨hm, ht, hs, -⟩ := completeNode_result (d := d) (i := i) (l := p.words) (bad := p.bad)
        (s := s.modPart (d / 4) e.part fun k => { k with cnt := { k.cnt with tail := (k.cnt.tail + 1) % 2 ^ 32 } })
      refine ⟨_, notifyAck_completes ha hp hk hr, hm, ?_, hs⟩
      rw [ht, modPart_part, if_pos ⟨rfl, rfl⟩]
  case start =>
    intro s d v c ha hd pc cl owner found
    refine ⟨fun h => ⟨_, corestartGo_refused ha hd h, rfl, rfl, modRegs_regs⟩, fun part hc ho hr hpc hk => ?_⟩
    exact ⟨_, corestartGo_starts ha hd hc ho hr hpc hk, startCore_result hpc (Nat.mod_lt _ (by norm_num))⟩
  case map =>
    intro s who cl v ha hr hc old
    have hold : old < 2 ^ 64 := BitVec.isLt _
    rw [coreMapWrite_eq ha hr hc]
    refine ⟨fun h => ⟨_, rfl, ?_⟩, fun hp hv => ⟨_, rfl, ?_⟩⟩
    · rw [writeCoreMap_refused h]
      refine ⟨rfl, rfl, ?_⟩
      rw [modCluster_cluster, if_pos rfl, BitVec.toNat_ofNat]
      change (old % 2 ^ 62 + bits old 63 1 * 2 ^ 63 + 2 ^ 62) % 2 ^ 64 = _
      simp only [bits]
      omega
    · obtain ⟨hmap, hcores⟩ := writeCoreMap_accepted hp hv
      refine ⟨?_, hcores⟩
      rw [hmap, BitVec.toNat_ofNat]
      change (bits old 63 1 * 2 ^ 63 + v % 2 ^ 41) % 2 ^ 64 = _
      simp only [bits]
      omega

end State
end Sys2Proof.Machine
end

section
/-! # What a syllable leaves as it was (O57)

`State.issues` says of a state reached from a first one what an instruction may have done meanwhile: registers, pc, agenda and
cycle as they were, results in flight of its own destinations only, memory and tags as it stores. One lemma per operation that
the syllables share says that the operation keeps it; a syllable's frame is then their composition. -/

namespace Sys2Proof.Machine

/-- What of a context an instruction could see, the results in flight apart. -/
def Ctx.seen (k : Ctx) : Tab Word × Tab PVal × CtxCsr × ℕ := (k.s, k.p, k.csr, k.pc)
/-- What of a core's own registers an instruction could see. -/
def Core.seen (k : Core) : Tab VecWord × Tab Word × CoreCsr × CoreIdent := (k.v, k.m, k.csr, k.ident)
/-- A result that the instruction may send on its way: for a register it writes, for the stream bound to one, or flags. -/
def RegName.sentBy (r : RegName) (i : Instr) : Prop :=
  r ∈ regWrites i ∨ r = .flagsOnly ∨ ∃ k, r = .push k ∧ .v (k + 56) ∈ regWrites i
/-- What a syllable may have done from state s on that led to state t. -/
def State.issues (s : State) (i : Instr) (t : State) : Prop :=
  (t.iss.core = s.iss.core ∧ t.iss.ctx = s.iss.ctx)
  ∧ (∀ c, (t.core c).seen = (s.core c).seen)
  ∧ (∀ c x, (t.ctx c x).seen = (s.ctx c x).seen)
  ∧ (∀ c x, ∀ r ∈ (t.ctx c x).inflight, r ∈ (s.ctx c x).inflight ∨ (c = s.iss.core ∧ x = s.iss.ctx ∧ r.reg.sentBy i))
  ∧ (storesBytes i = false → t.mem = s.mem) ∧ (changesTags i = false → t.tags = s.tags)
  ∧ t.clk.agenda = s.clk.agenda ∧ t.clk.cycle = s.clk.cycle
/-- An instruction's outcome is a next state that it may lead to. -/
def Out.issues (s : State) (i : Instr) (o : Out) : Prop := ∃ t, o = .next t ∧ s.issues i t

namespace State
variable {i : Instr} {s₀ s : State} {a b c d die g k lat n off op p part pi sz tb v w x : ℕ}

theorem issues_refl : s.issues i s :=
  ⟨⟨rfl, rfl⟩, fun _ => rfl, fun _ _ => rfl, fun _ _ _ hr => .inl hr, fun _ => rfl, fun _ => rfl, rfl, rfl⟩
theorem next_issues (h : s₀.issues i s) : Out.issues s₀ i (.next s) := ⟨s, rfl, h⟩
theorem ite_issues {t : State} {q : Prop} [Decidable q] (h : s₀.issues i s) (ht : s₀.issues i t) :
    s₀.issues i (if q then s else t) := by
  split <;> assumption
theorem Out.ite_issues {o u : Out} {q : Prop} [Decidable q] (ho : Out.issues s₀ i o) (hu : Out.issues s₀ i u) :
    Out.issues s₀ i (if q then o else u) := by
  split <;> assumption
theorem fst_ite_issues {α : Type} {u t : State × α} {q : Prop} [Decidable q] (hu : s₀.issues i u.1)
    (ht : s₀.issues i t.1) : s₀.issues i (if q then u else t).1 := by
  split <;> assumption
theorem foldl_issues {α : Type} {f : State → α → State} {l : List α} (h : s₀.issues i s)
    (hf : ∀ {t e}, s₀.issues i t → s₀.issues i (f t e)) : s₀.issues i (l.foldl f s) :=
  l.foldlRecOn f h fun _ ht _ _ => hf ht

/-! ### The state's operations -/

theorem modCore_issues {f : Core → Core} (h : s₀.issues i s)
    (hf : ∀ k, (f k).seen = k.seen ∧ (f k).ctxs = k.ctxs) :
    s₀.issues i (s.modCore c f) := by
  obtain ⟨hiss, hcore, hctx, hres, hrest⟩ := h
  have hctxs (e y) : (s.modCore c f).ctx e y = s.ctx e y := by
    rw [State.ctx, State.modCore_core]
    split
    · next he => rw [Core.ctx, (hf _).2, he]; rfl
    · rfl
  refine ⟨hiss, fun e => ?_, fun e y => hctxs e y ▸ hctx e y, fun e y => hctxs e y ▸ hres e y, hrest⟩
  rw [State.modCore_core]
  split
  · next he => rw [(hf _).1, he, hcore]
  · exact hcore e
theorem modCtx_issues_of {f : Machine.Ctx → Machine.Ctx} (h : s₀.issues i s) (hf : ∀ k, (f k).seen = k.seen)
    (hr : ∀ k, ∀ r ∈ (f k).inflight, r ∈ k.inflight ∨ (c = s₀.iss.core ∧ x = s₀.iss.ctx ∧ r.reg.sentBy i)) :
    s₀.issues i (s.modCtx c x f) := by
  obtain ⟨hiss, hcore, hctx, hres, hrest⟩ := h
  refine ⟨hiss, fun e => ?_, fun e y => ?_, fun e y r hm => ?_, hrest⟩
  · rw [← hcore e, State.modCtx, State.modCore_core]
    split
    · next he => rw [he]; rfl
    · rfl
  · rw [← hctx e y, State.modCtx_ctx]
    split
    · next he => rw [hf, he.1, he.2]
    · rfl
  · rw [State.modCtx_ctx] at hm
    split at hm
    · next he =>
      obtain ⟨rfl, rfl⟩ := he
      exact (hr _ r hm).elim (hres _ _ r) .inr
    · exact hres e y r hm
theorem modCtx_issues {f : Machine.Ctx → Machine.Ctx} (h : s₀.issues i s)
    (hf : ∀ k, (f k).seen = k.seen ∧ (f k).inflight = k.inflight) :
    s₀.issues i (s.modCtx c x f) :=
  modCtx_issues_of h (fun k => (hf k).1) fun k _ hr => .inl ((hf k).2 ▸ hr)
theorem modIss_issues {f : Issue → Issue} (h : s₀.issues i s)
    (hf : ∀ k, (f k).core = k.core ∧ (f k).ctx = k.ctx) : s₀.issues i (s.modIss f) := by
  obtain ⟨⟨hc, hx⟩, hrest⟩ := h
  exact ⟨⟨(hf _).1.trans hc, (hf _).2.trans hx⟩, hrest⟩
theorem mem_issues {m : Memory} (hs : storesBytes i = true) (h : s₀.issues i s) :
    s₀.issues i { s with mem := m } := by
  obtain ⟨hiss, hcore, hctx, hres, -, hrest⟩ := h
  exact ⟨hiss, hcore, hctx, hres, fun hn => absurd (hn.symm.trans hs) Bool.false_ne_true, hrest⟩
theorem setTag_issues {full : Bool} (ht : changesTags i = true) (h : s₀.issues i s) :
    s₀.issues i (s.setTag c off full) := by
  obtain ⟨hiss, hcore, hctx, hres, hmem, -, hrest⟩ := h
  exact ⟨hiss, hcore, hctx, hres, hmem, fun hn => absurd (hn.symm.trans ht) Bool.false_ne_true, hrest⟩
theorem setTags_issues {full : Bool} (ht : changesTags i = true) (h : s₀.issues i s) :
    s₀.issues i (s.setTags c off full n) := by
  induction n with
  | zero => exact h
  | succ n ih => exact setTag_issues ht ih
theorem modCluster_issues {f : Cluster → Cluster} (h : s₀.issues i s) : s₀.issues i (s.modCluster c f) := h
theorem modDie_issues {f : Die → Die} (h : s₀.issues i s) : s₀.issues i (s.modDie d f) := h
theorem modSched_issues {f : Sched → Sched} (h : s₀.issues i s) : s₀.issues i (s.modSched d f) := h
theorem modPart_issues {f : Machine.Part → Machine.Part} (h : s₀.issues i s) : s₀.issues i (s.modPart p n f) := h
theorem endOp_issues (h : s₀.issues i s) : s₀.issues i (s.endOp n) := h
theorem newOp_issues (h : s₀.issues i s) : s₀.issues i s.newOp.2 := h
theorem fault_issues {code : ℕ} {tval : Word} (h : s₀.issues i s) : s₀.issues i (s.fault code tval) :=
  modIss_issues h fun _ => ⟨rfl, rfl⟩
theorem await_issues {key code : ℕ} {tval : Word} {limit : Option ℕ} (h : s₀.issues i s) :
    s₀.issues i (s.await key code tval limit) := modIss_issues h fun _ => ⟨rfl, rfl⟩
theorem pushResult_issues {reg : RegName} {val : VecWord} {mask : BitVec 64} {flags : BitVec 5} (hd : reg.sentBy i)
    (h : s₀.issues i s) : s₀.issues i (s.pushResult reg val mask flags lat) :=
  modCtx_issues_of h (fun _ => rfl) fun k r hr => (List.mem_append.mp hr).imp id fun he => by
    rw [List.mem_singleton.mp he]
    exact ⟨h.1.1, h.1.2, hd⟩
theorem pushS_issues {val : Word} {flags : BitVec 5} (hd : .s d ∈ regWrites i) (h : s₀.issues i s) :
    s₀.issues i (s.pushS d val flags lat) := pushResult_issues (.inl hd) h
theorem pushP_issues {val : BitVec 64} {flags : BitVec 5} (hd : .p d ∈ regWrites i) (h : s₀.issues i s) :
    s₀.issues i (s.pushP d val flags lat) := pushResult_issues (.inl hd) h
theorem guarded_issues {f : State → State} (h : s₀.issues i s) (hf : s₀.issues i (f s)) :
    s₀.issues i (s.guarded g f) := ite_issues hf h
theorem masked_issues {f : BitVec 64 → State → State} (h : s₀.issues i s) (hf : ∀ m, s₀.issues i (f m s)) :
    s₀.issues i (s.masked g f) := ite_issues h (hf _)
theorem modStream_issues {f : Machine.Stream → Machine.Stream} (h : s₀.issues i s) : s₀.issues i (s.modStream c n f) :=
  modCore_issues h fun _ => ⟨rfl, rfl⟩
theorem pop_issues (h : s₀.issues i s) : s₀.issues i (s.pop n).1 := by
  unfold State.pop
  refine fst_ite_issues (modStream_issues h) ?_
  split
  · exact modStream_issues h
  · exact fst_ite_issues (modStream_issues h) (await_issues h)
theorem vecOperands_issues {regs : List ℕ} (h : s₀.issues i s) : s₀.issues i (s.vecOperands regs).1 := by
  induction regs with
  | nil => exact h
  | cons n l ih =>
    unfold State.vecOperands
    exact fst_ite_issues ih (fst_ite_issues (pop_issues ih) ih)
theorem pushStream_issues {val : VecWord} {mask : BitVec 64} {flags : BitVec 5} (hd : .v (k + 56) ∈ regWrites i)
    (h : s₀.issues i s) : s₀.issues i (s.pushStream k val mask flags lat) :=
  modCtx_issues_of (newOp_issues h) (fun _ => rfl) fun q r hr => (List.mem_append.mp hr).imp id fun he => by
    rw [List.mem_singleton.mp he]
    exact ⟨h.1.1, h.1.2, .inr (.inr ⟨k, rfl, hd⟩)⟩
theorem pushV_issues {val : VecWord} {mask : BitVec 64} {flags : BitVec 5} (hd : .v d ∈ regWrites i)
    (h : s₀.issues i s) : s₀.issues i (s.pushV d val mask flags lat) := by
  unfold State.pushV
  dsimp only
  split
  · next hb =>
    have hge : 56 ≤ d := of_decide_eq_true (Bool.and_eq_true_iff.mp hb).1
    exact pushStream_issues (by rwa [Nat.sub_add_cancel hge]) (ite_issues (await_issues h) h)
  · exact pushResult_issues (.inl hd) h


/-! ### Scalar, vector and predicate instructions -/

theorem scalarOp_issues {f : State → Word} (hd : .s d ∈ regWrites i) (h : s₀.issues i s) :
    Out.issues s₀ i (scalarOp s g d lat f) := next_issues (guarded_issues h (pushS_issues hd h))
theorem execCmp_issues {f : FmtSC} (h : s₀.issues (.cmp f) s) : Out.issues s₀ (.cmp f) (execCmp f s) :=
  next_issues (guarded_issues h (ite_issues (pushP_issues (.head _) h) (pushP_issues (.head _) h)))
theorem execCsrw_issues {f : FmtSX} (h : s₀.issues i s) : Out.issues s₀ i (execCsrw f s) :=
  next_issues (guarded_issues h (ite_issues (fault_issues h) (ite_issues (fault_issues h)
    (modIss_issues (ite_issues (await_issues h) h) fun _ => ⟨rfl, rfl⟩))))
theorem mem_sel2_first {r q : RegName} (h : n = 0) : r ∈ sel2 n r q := by simp [sel2, h]
theorem mem_sel2_second {r q : RegName} (h : ¬n = 0) : q ∈ sel2 n r q := by simp [sel2, h]
theorem mem_sel3_first {r q e : RegName} (h : n = 0) : r ∈ sel3 n r q e := by simp [sel3, h]
theorem mem_sel3_second {r e : RegName} (h : n = 1) : r ∈ sel3 n r r e := by simp [sel3, h]
theorem mem_sel3_third {r q e : RegName} (h0 : ¬n = 0) (h1 : ¬n = 1) : e ∈ sel3 n r q e := by simp [sel3, h0, h1]
theorem execMovm_issues {f : FmtSM} (h : s₀.issues (.movm f) s) : Out.issues s₀ (.movm f) (execMovm f s) := by
  unfold execMovm
  refine next_issues (guarded_issues h ?_)
  split
  · next hd => exact pushResult_issues (.inl (mem_sel2_first hd)) h
  · next hd => exact pushS_issues (mem_sel2_second hd) h
theorem vecOp_issues {regs : List ℕ} {f : State → (ℕ → VecWord) → ℕ → ℕ × BitVec 5} (hd : .v d ∈ regWrites i)
    (h : s₀.issues i s) : Out.issues s₀ i (vecOp s g d lat w regs f) :=
  next_issues (masked_issues h fun _ => pushV_issues hd (vecOperands_issues h))
theorem vecInt_issues {f : FmtVI} {o : ℕ → ℕ → ℕ → ℕ} (hd : .v f.d ∈ regWrites i) (h : s₀.issues i s) :
    Out.issues s₀ i (vecInt s f o) := by
  unfold vecInt
  exact vecOp_issues hd h
theorem vecIntW_issues {f : FmtVIW} {o : ℕ → ℕ → ℕ → ℕ} (hd : .v f.d ∈ regWrites i) (h : s₀.issues i s) :
    Out.issues s₀ i (vecIntW s f o) := by
  unfold vecIntW
  exact vecOp_issues hd h
theorem vecFp_issues {f : FmtVF} {o : FpFmt → ℕ → Bool → FpVal → FpVal → ℕ × BitVec 5} (hd : .v f.d ∈ regWrites i) (h : s₀.issues i s) :
    Out.issues s₀ i (vecFp s f o) := by
  unfold vecFp
  exact vecOp_issues hd h
theorem vecFpW_issues {f : FmtVFW} {o : FpFmt → ℕ → Bool → FpVal → FpVal → ℕ × BitVec 5} (hd : .v f.d ∈ regWrites i) (h : s₀.issues i s) :
    Out.issues s₀ i (vecFpW s f o) := by
  unfold vecFpW
  exact vecOp_issues hd h
theorem vecFn_issues {t fzi fzo rmo : ℕ} {o : FpFmt → ℕ → Bool → FpVal → ℕ × BitVec 5} (hd : .v d ∈ regWrites i) (h : s₀.issues i s) :
    Out.issues s₀ i (vecFn s g d a t fzi fzo rmo o) := by
  unfold vecFn
  exact vecOp_issues hd h
theorem execVfma_issues {f : FmtVF} (hd : .v f.d ∈ regWrites i) (h : s₀.issues i s) :
    Out.issues s₀ i (execVfma f s) := by
  unfold execVfma
  exact vecOp_issues hd h
theorem execVfmaWide_issues {f : FmtVFW} (hd : .v f.d ∈ regWrites i) (h : s₀.issues i s) :
    Out.issues s₀ i (execVfmaWide f s) := by
  unfold execVfmaWide
  exact vecOp_issues hd h
theorem execVperm_issues {f : FmtVP} (hd : .v f.d ∈ regWrites i) (h : s₀.issues i s) :
    Out.issues s₀ i (execVperm f s) := by
  unfold execVperm
  exact vecOp_issues hd h
theorem execVbcast_issues {f : FmtVB} (hd : .v f.d ∈ regWrites i) (h : s₀.issues i s) :
    Out.issues s₀ i (execVbcast f s) := by
  unfold execVbcast
  exact vecOp_issues hd h
theorem vecConvert_issues {df sf fzi fzo rmo : ℕ} {u sat : Bool} (hd : .v d ∈ regWrites i) (h : s₀.issues i s) :
    Out.issues s₀ i (vecConvert s g d a df sf part fzi fzo rmo u sat) :=
  next_issues (masked_issues h fun _ => pushV_issues hd (vecOperands_issues h))
theorem execVcmp_issues {f : FmtVC} (h : s₀.issues (.vcmp f) s) : Out.issues s₀ (.vcmp f) (execVcmp f s) :=
  next_issues (masked_issues h fun _ => pushP_issues (.head _) (vecOperands_issues h))
theorem wholeResult_issues {f : State → BitVec 64 → VecWord → VecWord × BitVec 5} (hd : .v d ∈ regWrites i)
    (h : s₀.issues i s) : Out.issues s₀ i (wholeResult s g d a lat f) :=
  Out.ite_issues (Out.ite_issues (next_issues h) (next_issues (pushV_issues hd h)))
    (next_issues (pushV_issues hd (vecOperands_issues h)))
theorem vecReduce_issues {fm kind fzi fzo rmo : ℕ} (hd : .v d ∈ regWrites i) (h : s₀.issues i s) :
    Out.issues s₀ i (vecReduce s g d a fm kind fzi fzo rmo) := by
  unfold vecReduce
  exact wholeResult_issues hd h
theorem vecScan_issues {fm excl fzi fzo rmo : ℕ} (hd : .v d ∈ regWrites i) (h : s₀.issues i s) :
    Out.issues s₀ i (vecScan s g d a fm excl fzi fzo rmo) := by
  unfold vecScan
  exact wholeResult_issues hd h
theorem execVlane_issues {f : FmtVL} (h : s₀.issues (.vlane f) s) : Out.issues s₀ (.vlane f) (execVlane f s) := by
  unfold execVlane
  refine next_issues (masked_issues h fun _ => ?_)
  dsimp only
  split
  · next hd =>
    exact ite_issues (pushS_issues (mem_sel2_first hd) (vecOperands_issues h)) (vecOperands_issues h)
  · next hd => exact pushV_issues (mem_sel2_second hd) h
theorem execVcmpr_issues {f : FmtVM} (h : s₀.issues (.vcmpr f) s) : Out.issues s₀ (.vcmpr f) (execVcmpr f s) := by
  unfold execVcmpr
  extract_lets m t w r el keep vals idx nv put
  have hput {t d v fl} (hd : .v d ∈ regWrites (.vcmpr f)) (ht : s₀.issues (.vcmpr f) t) :
      s₀.issues (.vcmpr f) (put t d v fl) := ite_issues ht (pushV_issues hd ht)
  exact next_issues (hput (.tail _ (.head _)) (hput (.head _) (fst_ite_issues h (vecOperands_issues h))))
theorem predOp_issues {f : State → BitVec 64} (hd : .p d ∈ regWrites i) (h : s₀.issues i s) :
    Out.issues s₀ i (predOp s g d f) := next_issues (masked_issues h fun _ => pushP_issues hd h)
theorem execPmov_issues {f : FmtPM} (h : s₀.issues (.pmov f) s) : Out.issues s₀ (.pmov f) (execPmov f s) := by
  unfold execPmov
  split
  · next h0 => exact predOp_issues (mem_sel3_first h0) h
  split
  · next h1 => exact predOp_issues (mem_sel3_second h1) h
  · next h0 h1 => exact next_issues (pushS_issues (mem_sel3_third h0 h1) h)

/-! ### Scratchpad accesses -/

theorem checkSpm_issues {q lo hi : ℤ} {align : ℕ} (h : s₀.issues i s) : s₀.issues i (s.checkSpm q lo hi align).1 :=
  fst_ite_issues (fault_issues h) (fst_ite_issues (fault_issues h) h)
theorem formAddr_issues {n : ℕ} {q lo hi : ℤ} {align : ℕ} (h : s₀.issues i s) :
    s₀.issues i (s.formAddr n pi b q lo hi align).1 := by
  unfold State.formAddr
  extract_lets base w r
  have hr : s₀.issues i r.1 := checkSpm_issues h
  refine fst_ite_issues (checkSpm_issues h) (fst_ite_issues (fault_issues h) (fst_ite_issues (fault_issues h) ?_))
  split
  · exact hr
  · exact fst_ite_issues (await_issues hr) (fst_ite_issues (modIss_issues hr fun _ => ⟨rfl, rfl⟩) hr)
theorem postInc_issues {q : ℤ} (hb : baseWrites pi b ⊆ regWrites i) (h : s₀.issues i s) :
    s₀.issues i (s.postInc pi b q) := by
  unfold State.postInc
  split
  · exact h
  · next hpi => exact pushS_issues (hb (by simp [baseWrites, hpi])) h
theorem awaitTag_issues (h : s₀.issues i s) : s₀.issues i (s.awaitTag a) := await_issues h
theorem noteStore_issues (h : s₀.issues i s) : s₀.issues i (s.noteStore a n) := modIss_issues h fun _ => ⟨rfl, rfl⟩
theorem scalarLoad_issues {n : ℕ} {q : ℤ} {t : TagUse} (hd : [.s d] ++ baseWrites pi b ⊆ regWrites i)
    (ht : t = .take → changesTags i = true) (h : s₀.issues i s) :
    Out.issues s₀ i (scalarLoad s g d b sz x pi n q t) := by
  unfold scalarLoad
  refine next_issues (guarded_issues h ?_)
  extract_lets c r
  have hr : s₀.issues i r.1 := formAddr_issues h
  split
  · exact hr
  · extract_lets v s1 s2
    have h2 : s₀.issues i s2 := postInc_issues (fun _ hm => hd (.tail _ hm)) (pushS_issues (hd (.head _)) hr)
    refine ite_issues (awaitTag_issues hr) ?_
    split
    · next htake => exact setTag_issues (ht htake) h2
    · exact h2
theorem changesTags_of_storesBytes (hs : storesBytes i = true) : changesTags i = true := by simp [changesTags, hs]
theorem scalarStore_issues {n : ℕ} {q : ℤ} {waitEmpty : Bool} (hb : baseWrites pi b ⊆ regWrites i)
    (hs : storesBytes i = true) (h : s₀.issues i s) :
    Out.issues s₀ i (scalarStore s g d b sz pi n q waitEmpty) := by
  unfold scalarStore
  refine next_issues (guarded_issues h ?_)
  extract_lets c r
  have hr : s₀.issues i r.1 := formAddr_issues h
  split
  · exact hr
  · exact ite_issues (awaitTag_issues hr) (postInc_issues hb
      (setTag_issues (changesTags_of_storesBytes hs) (noteStore_issues (mem_issues hs hr))))
theorem tagStep_issues {r : TagRun} (ht : changesTags i = true) (h : s₀.issues i s) : s₀.issues i (s.tagStep c r) :=
  modCore_issues (setTags_issues ht h) fun _ => ⟨rfl, rfl⟩
theorem rangeTag_issues {len : State → ℕ} {full : Bool} (ht : changesTags i = true) (h : s₀.issues i s) :
    Out.issues s₀ i (rangeTag s g b len full) :=
  next_issues (guarded_issues h (ite_issues (fault_issues h) (ite_issues (fault_issues h) (ite_issues (fault_issues h)
    (ite_issues (fault_issues h) (modIss_issues (tagStep_issues ht h) fun _ => ⟨rfl, rfl⟩))))))
theorem fillLanes_issues {q : ℤ} {m : BitVec 64} (ht : changesTags i = true) (h : s₀.issues i s) :
    s₀.issues i (s.fillLanes c q m n) := by
  induction n with
  | zero => exact h
  | succ n ih => exact ite_issues (setTag_issues ht ih) ih
theorem vecLoad_issues {n : ℕ} {q : ℤ} (hd : [.v v] ++ baseWrites pi b ⊆ regWrites i) (h : s₀.issues i s) :
    Out.issues s₀ i (vecLoad s g v b pi n q) := by
  unfold vecLoad
  refine next_issues (masked_issues h fun _ => ?_)
  dsimp only
  split
  · exact formAddr_issues h
  · exact postInc_issues (fun _ hm => hd (.tail _ hm)) (pushV_issues (hd (.head _)) (formAddr_issues h))
theorem noteLanes_issues {m : BitVec 64} (h : s₀.issues i s) : s₀.issues i (s.noteLanes a m) :=
  foldl_issues h noteStore_issues
theorem vecStore_issues {n : ℕ} {q : ℤ} (hb : baseWrites pi b ⊆ regWrites i) (hs : storesBytes i = true)
    (h : s₀.issues i s) : Out.issues s₀ i (vecStore s g v b pi n q) := by
  unfold vecStore
  refine next_issues (masked_issues h fun _ => ?_)
  extract_lets r o src
  have hr : s₀.issues i r.1 := formAddr_issues h
  have ho : s₀.issues i o.1 := vecOperands_issues hr
  split
  · exact hr
  · exact postInc_issues hb (fillLanes_issues (changesTags_of_storesBytes hs) (noteLanes_issues (mem_issues hs ho)))
theorem checkElems_issues {l : List (ℕ × ℕ)} (h : s₀.issues i s) : s₀.issues i (s.checkElems n l).1 := by
  unfold State.checkElems
  split
  · exact fault_issues h
  · split
    · exact fault_issues h
    · exact h
theorem execVldx_issues {f : FmtMX} (h : s₀.issues (.vldx f) s) : Out.issues s₀ (.vldx f) (execVldx f s) := by
  unfold execVldx
  refine next_issues (masked_issues h fun _ => ?_)
  extract_lets w o l r v
  have hr : s₀.issues (.vldx f) r.1 := checkElems_issues (vecOperands_issues h)
  exact ite_issues (modIss_issues (pushV_issues (.head _) hr) fun _ => ⟨rfl, rfl⟩) hr
theorem execVstx_issues {f : FmtMX} (h : s₀.issues (.vstx f) s) : Out.issues s₀ (.vstx f) (execVstx f s) := by
  unfold execVstx
  refine next_issues (masked_issues h fun _ => ?_)
  extract_lets w o l r v s1 s2
  have hr : s₀.issues (.vstx f) r.1 := checkElems_issues (vecOperands_issues h)
  have h1 : s₀.issues (.vstx f) s1 := foldl_issues hr fun ht => noteStore_issues (mem_issues rfl ht)
  exact ite_issues (modIss_issues (foldl_issues h1 (setTag_issues rfl)) fun _ => ⟨rfl, rfl⟩) hr

/-! ### Engine and fabric instructions, barriers, triggers and monitors -/

theorem placeOp_issues {acq : Bool} (h : s₀.issues i s) : s₀.issues i (s.placeOp c x acq n) :=
  modCtx_issues h fun _ => ⟨rfl, rfl⟩
theorem ctxOp_issues {acq : Bool} (h : s₀.issues i s) : s₀.issues i (s.ctxOp c x acq).2 :=
  placeOp_issues (newOp_issues h)
theorem armOp_issues {acq : Bool} (h : s₀.issues i s) : s₀.issues i (s.armOp c x acq).2 := placeOp_issues (s := { s with
  net := { s.net with nextOp := s.net.nextOp + 1 } }) h
theorem markEngine_issues (h : s₀.issues i s) : s₀.issues i (s.markEngine n) := modIss_issues h fun _ => ⟨rfl, rfl⟩
theorem startOp_issues {rel acq : Bool} {f : State → ℕ → List ℕ → State} (h : s₀.issues i s)
    (hf : ∀ {t n l}, s₀.issues i t → s₀.issues i (f t n l)) : s₀.issues i (s.startOp rel acq f) :=
  markEngine_issues (hf (ctxOp_issues h))
theorem queueFull_issues (h : s₀.issues i s) : s₀.issues i (s.queueFull n) := await_issues h
theorem issueCmd_issues {rel acq : Bool} {f : State → ℕ → List ℕ → State} (h : s₀.issues i s)
    (hf : ∀ {t n l}, s₀.issues i t → s₀.issues i (f t n l)) : s₀.issues i (s.issueCmd rel acq f) :=
  ite_issues (queueFull_issues h) (startOp_issues h hf)
theorem issueFab_issues {rel acq : Bool} {f : State → ℕ → List ℕ → State} (h : s₀.issues i s)
    (hf : ∀ {t n l}, s₀.issues i t → s₀.issues i (f t n l)) : s₀.issues i (s.issueFab rel acq f) :=
  ite_issues (queueFull_issues h) (startOp_issues h hf)
theorem addFop_issues {f : Fop} (h : s₀.issues i s) : s₀.issues i (s.addFop n f) := by
  unfold State.addFop
  dsimp only
  split
  · exact modCore_issues (s := { s with net := _ }) h fun _ => ⟨rfl, rfl⟩
  · exact h
theorem addArrive_issues {e : PendArrive} (h : s₀.issues i s) : s₀.issues i (s.addArrive c e) :=
  modCore_issues h fun _ => ⟨rfl, rfl⟩
theorem monCfg_issues {f : FmtEM} (h : s₀.issues i s) : Out.issues s₀ i (monCfg f s) :=
  next_issues (guarded_issues h (ite_issues (fault_issues h) (ite_issues (fault_issues h) (ite_issues (fault_issues h)
    (ite_issues (fault_issues h) (ite_issues (modDie_issues h)
      (ite_issues (modDie_issues h) (modCore_issues h fun _ => ⟨rfl, rfl⟩))))))))
theorem execArrive_issues {f : FmtEBA} (h : s₀.issues i s) : Out.issues s₀ i (execArrive f s) :=
  next_issues (guarded_issues h (markEngine_issues (addArrive_issues (ctxOp_issues h))))
theorem waitBar_issues {test : ℕ → ℕ → Bool} (h : s₀.issues i s) : Out.issues s₀ i (waitBar s g b test) :=
  next_issues (guarded_issues h (ite_issues (fault_issues h) (ite_issues h (await_issues h))))
theorem execWaitb_issues {f : FmtEBW} (h : s₀.issues i s) : Out.issues s₀ i (execWaitb f s) := waitBar_issues h
theorem execWaitbC_issues {f : FmtEBC} (h : s₀.issues i s) : Out.issues s₀ i (execWaitbC f s) := waitBar_issues h
theorem execWaitbCWide_issues {f : FmtEBCW} (h : s₀.issues i s) : Out.issues s₀ i (execWaitbCWide f s) :=
  waitBar_issues h
theorem execWaith_issues {f : FmtEH} (h : s₀.issues i s) : Out.issues s₀ i (execWaith f s) :=
  next_issues (guarded_issues h (ite_issues (fault_issues h) (ite_issues (await_issues h)
    (ite_issues (modIss_issues h fun _ => ⟨rfl, rfl⟩) h))))
theorem execBarinit_issues {f : FmtEBI} (h : s₀.issues i s) : Out.issues s₀ i (execBarinit f s) :=
  next_issues (guarded_issues h (modCore_issues h fun _ => ⟨rfl, rfl⟩))
theorem execTrigarm_issues {f : FmtET} (h : s₀.issues (.trigarm f) s) : Out.issues s₀ (.trigarm f) (execTrigarm f s) := by
  unfold execTrigarm
  dsimp only
  refine next_issues (guarded_issues h (ite_issues (fault_issues h) (ite_issues (fault_issues h)
    (ite_issues (fault_issues h) (ite_issues (fault_issues h) ?_)))))
  split
  · exact fault_issues h
  · exact ite_issues (await_issues h) (pushS_issues (.head _) (modCore_issues (armOp_issues h) fun _ => ⟨rfl, rfl⟩))
theorem execTrigcancel_issues {f : FmtETC} (h : s₀.issues i s) : Out.issues s₀ i (execTrigcancel f s) := by
  unfold execTrigcancel
  dsimp only
  refine next_issues (guarded_issues h (ite_issues (fault_issues h) ?_))
  split
  · exact h
  · exact endOp_issues (modCore_issues h fun _ => ⟨rfl, rfl⟩)
theorem copyOp_issues {o : TrigOp} {e : Option (ℕ × ℕ)} (h : s₀.issues i s) : s₀.issues i (copyOp s o e n) := by
  unfold copyOp
  split
  · exact fault_issues h
  · exact issueCmd_issues h modCluster_issues
theorem copy2dOp_issues {o : TrigOp} (h : s₀.issues i s) : s₀.issues i (copy2dOp s o n) := by
  unfold copy2dOp
  dsimp only
  refine ite_issues (fault_issues h) (ite_issues (fault_issues h) (ite_issues (fault_issues h) ?_))
  split
  · exact fault_issues h
  · exact ite_issues (fault_issues h) (ite_issues (fault_issues h) (ite_issues (fault_issues h)
      (ite_issues (fault_issues h) (issueCmd_issues h modCluster_issues))))
theorem tmovOp_issues {o : TrigOp} {e : Option (ℕ × ℕ)} (h : s₀.issues i s) : s₀.issues i (tmovOp s o e n) := by
  unfold tmovOp
  dsimp only
  split
  · exact fault_issues h
  · exact ite_issues (fault_issues h) (ite_issues (fault_issues h) (ite_issues (fault_issues h)
      (ite_issues (fault_issues h) (ite_issues (fault_issues h) (issueCmd_issues h modCluster_issues)))))
theorem unsealOp_issues {j : Instr} {bad : Bool} {o : TrigOp} (h : s₀.issues i s) :
    s₀.issues i (unsealOp s j bad o n) := by
  unfold unsealOp
  dsimp only
  split
  · exact fault_issues h
  · exact ite_issues (fault_issues h) (ite_issues (fault_issues h) (ite_issues (fault_issues h)
      (ite_issues (fault_issues h) (issueCmd_issues h modCluster_issues))))
theorem unsealForm_issues {j : Instr} {bad : Bool} {f : State → State} (h : s₀.issues i s) (hf : s₀.issues i (f s)) :
    Out.issues s₀ i (unsealForm s j g bad f) :=
  Out.ite_issues (next_issues (fault_issues h)) (next_issues (guarded_issues h hf))
theorem seopOp_issues {bar : Option ℕ} {inc : ℕ} {rel acq : Bool} (h : s₀.issues i s) :
    s₀.issues i (seopOp s d op bar inc rel acq) := by
  unfold seopOp
  dsimp only
  refine ite_issues (fault_issues h) (ite_issues (fault_issues h) (ite_issues (fault_issues h)
    (ite_issues (fault_issues h) (ite_issues (fault_issues h) (ite_issues (fault_issues h) ?_)))))
  split
  · exact fault_issues h
  · split
    · exact fault_issues h
    · exact ite_issues (queueFull_issues h) (startOp_issues h modDie_issues)
theorem strOff_issues (h : s₀.issues i s) : s₀.issues i (s.strOff k) := by
  unfold State.strOff
  extract_lets c t s1 s2
  have h2 : s₀.issues i s2 := modStream_issues (endOp_issues (ite_issues (queueFull_issues h) h))
  refine ite_issues h ?_
  split
  · exact h2
  · exact modIss_issues h2 fun _ => ⟨rfl, rfl⟩
theorem execStrcfg_issues {f : FmtEK} (h : s₀.issues i s) : Out.issues s₀ i (execStrcfg f s) := by
  unfold execStrcfg
  dsimp only
  refine next_issues (guarded_issues h (ite_issues (fault_issues h) (ite_issues (fault_issues h)
    (ite_issues (fault_issues h) (ite_issues (fault_issues h) ?_)))))
  split
  · exact fault_issues h
  · exact ite_issues (fault_issues h) (ite_issues (fault_issues h) (ite_issues (fault_issues h)
      (ite_issues (fault_issues h) (ite_issues (fault_issues h) (modStream_issues (strOff_issues h))))))
theorem execStron_issues {f : FmtEK0} (h : s₀.issues i s) : Out.issues s₀ i (execStron f s) :=
  next_issues (guarded_issues h (ite_issues h (ite_issues (modStream_issues h) (modStream_issues (ctxOp_issues h)))))
theorem execBufrel_issues {f : FmtEH} (h : s₀.issues i s) : Out.issues s₀ i (execBufrel f s) :=
  next_issues (guarded_issues h (ite_issues (fault_issues h) (modIss_issues h fun _ => ⟨rfl, rfl⟩)))
theorem rputOp_issues {o : TrigOp} (h : s₀.issues i s) : s₀.issues i (rputOp s o) := by
  unfold rputOp
  split
  · exact fault_issues h
  · exact issueFab_issues h addFop_issues
theorem rmcastOp_issues {o : TrigOp} (h : s₀.issues i s) : s₀.issues i (rmcastOp s o) := by
  unfold rmcastOp
  split
  · exact fault_issues h
  · exact issueFab_issues h addFop_issues
theorem rgetvOp_issues {o : TrigOp} (h : s₀.issues i s) : s₀.issues i (rgetvOp s o) := by
  unfold rgetvOp
  split
  · exact fault_issues h
  · exact issueFab_issues h addFop_issues
theorem rgetOp_issues {dst adr hpc ck : ℕ} {acq : Bool} {scope : ℕ} (h : s₀.issues i s) :
    s₀.issues i (rgetOp s dst adr hpc ck acq scope) := by
  unfold rgetOp
  extract_lets c d a pc s1 s2
  have h1 : s₀.issues i s1 := by
    unfold s1
    split
    · exact fault_issues h
    · exact ite_issues (fault_issues h) (ite_issues (fault_issues h) h)
  have h2 : s₀.issues i s2 := ite_issues (fault_issues h1) (ite_issues (fault_issues h1) h1)
  exact ite_issues h2 (issueFab_issues h addFop_issues)
theorem rfopOp_issues {dst adr : ℕ} {rel acq : Bool} {scope : ℕ} (h : s₀.issues i s) :
    s₀.issues i (rfopOp s dst adr x op w rel acq scope b) := by
  unfold rfopOp
  dsimp only
  split
  · exact fault_issues h
  · exact ite_issues (fault_issues h) (ite_issues (fault_issues h) (issueFab_issues h addFop_issues))
theorem rfopWide_issues {f : FmtEFW} (h : s₀.issues i s) : Out.issues s₀ i (rfopWide f s) :=
  next_issues (guarded_issues h (rfopOp_issues h))
theorem rvatomOp_issues {dst src t : ℕ} {bar : Option ℕ} {inc : ℕ} {rel : Bool} {scope : ℕ} (h : s₀.issues i s) :
    s₀.issues i (rvatomOp s dst src t bar inc rel scope) := by
  unfold rvatomOp
  dsimp only
  split
  · exact fault_issues h
  · exact ite_issues (fault_issues h) (ite_issues (fault_issues h) (issueFab_issues h addFop_issues))
theorem rredOp_issues {src win rank : ℕ} {rel : Bool} {scope : ℕ} (h : s₀.issues i s) :
    s₀.issues i (rredOp s src win rank rel scope) := by
  unfold rredOp
  dsimp only
  refine ite_issues (fault_issues h) ?_
  split
  · exact fault_issues h
  · exact ite_issues (fault_issues h) (ite_issues (fault_issues h) (issueFab_issues h addFop_issues))
theorem execFence_issues {f : FmtEN} (h : s₀.issues i s) : Out.issues s₀ i (execFence f s) :=
  next_issues (guarded_issues h (modCtx_issues h fun _ => ⟨rfl, rfl⟩))
theorem pMode_issues {j : Instr} {f : State → State} (h : s₀.issues i s) (hf : s₀.issues i (f s)) :
    Out.issues s₀ i (pMode s j g f) := next_issues (guarded_issues h (ite_issues hf (fault_issues h)))
theorem tlbRemove_issues {ds : List ℕ} {q : TlbEnt → Bool} (h : s₀.issues i s) : s₀.issues i (s.tlbRemove ds q) :=
  ite_issues (foldl_issues h modDie_issues) (await_issues h)
theorem execSlotld_issues {f : FmtEP} (h : s₀.issues i s) : Out.issues s₀ i (execSlotld f s) :=
  pMode_issues h (ite_issues (fault_issues h) (ite_issues (fault_issues h) (ite_issues (fault_issues h)
    (modIss_issues (modCore_issues h fun _ => ⟨rfl, rfl⟩) fun _ => ⟨rfl, rfl⟩))))
theorem execBuddyset_issues {f : FmtEP} (h : s₀.issues (.buddyset f) s) :
    Out.issues s₀ (.buddyset f) (execBuddyset f s) :=
  pMode_issues h (ite_issues (fault_issues h) (pushS_issues (.head _) (ite_issues (modSched_issues h) h)))

/-! ### Control instructions -/

theorem ask_issues {q : Ctl} (h : s₀.issues i s) : s₀.issues i (s.ask q) := modIss_issues h fun _ => ⟨rfl, rfl⟩
theorem refusedIn_issues {j : Instr} {always guarded : Bool} {f : State → State} (h : s₀.issues i s)
    (hf : s₀.issues i (f s)) : Out.issues s₀ i (refusedIn s j g always guarded f) :=
  Out.ite_issues (next_issues (fault_issues h)) (next_issues (guarded_issues h (ite_issues (fault_issues h) hf)))
theorem setTarget_issues (h : s₀.issues i s) : s₀.issues i (s.setTarget tb a) := modCtx_issues h fun _ => ⟨rfl, rfl⟩
theorem execPrep_issues {f : FmtCP} (h : s₀.issues i s) : Out.issues s₀ i (execPrep f s) :=
  Out.ite_issues (next_issues (fault_issues h)) (next_issues (guarded_issues h (setTarget_issues h)))
theorem execPrepr_issues {f : FmtCR} (h : s₀.issues i s) : Out.issues s₀ i (execPrepr f s) :=
  next_issues (guarded_issues h (ite_issues (fault_issues h) (ite_issues (fault_issues h) (setTarget_issues h))))
theorem execTrans_issues {f : FmtCT} (h : s₀.issues i s) : Out.issues s₀ i (execTrans f s) :=
  next_issues (guarded_issues h (ite_issues (fault_issues h) (ite_issues (await_issues h) (ite_issues h
    (ite_issues (fault_issues h) (modCtx_issues h fun _ => ⟨rfl, rfl⟩))))))
theorem modLoop_issues {l : ℕ} {f : LoopReg → LoopReg} (h : s₀.issues i s) : s₀.issues i (s.modLoop l f) :=
  modIss_issues (modCtx_issues h fun k => by split <;> exact ⟨rfl, rfl⟩) fun _ => ⟨rfl, rfl⟩
theorem loopOp_issues {j : Instr} {l fin : ℕ} {count : State → ℕ} (h : s₀.issues i s) :
    Out.issues s₀ i (loopOp s j g l fin count) :=
  Out.ite_issues (next_issues (fault_issues h))
    (next_issues (guarded_issues h (ite_issues (ask_issues (modLoop_issues h)) (modLoop_issues h))))
theorem leaveSync_issues (h : s₀.issues i s) : s₀.issues i (s.leaveSync c) := by
  unfold State.leaveSync
  extract_lets s1
  have h1 : s₀.issues i s1 := modCore_issues h fun _ => ⟨rfl, rfl⟩
  refine ite_issues ?_ h
  split <;> exact h1
theorem execSync_issues {f : FmtCN} (h : s₀.issues i s) : Out.issues s₀ i (execSync f s) :=
  refusedIn_issues h (ite_issues h (ite_issues (modCore_issues h fun _ => ⟨rfl, rfl⟩)
    (await_issues (modIss_issues h fun _ => ⟨rfl, rfl⟩))))
theorem execSyncj_issues {f : FmtCN} (h : s₀.issues i s) : Out.issues s₀ i (execSyncj f s) :=
  refusedIn_issues h (ite_issues h (ite_issues (modCore_issues h fun _ => ⟨rfl, rfl⟩)
    (modCore_issues h fun _ => ⟨rfl, rfl⟩)))
theorem execSyncl_issues {f : FmtCN} (h : s₀.issues i s) : Out.issues s₀ i (execSyncl f s) :=
  refusedIn_issues h (ite_issues h (leaveSync_issues h))
theorem joinOp_issues {j : Instr} (h : s₀.issues i s) : Out.issues s₀ i (joinOp s j g k) :=
  refusedIn_issues h (ite_issues (ask_issues h) h)
theorem execDetach_issues {f : FmtCN} (h : s₀.issues i s) : Out.issues s₀ i (execDetach f s) :=
  refusedIn_issues h (ite_issues (ask_issues h) h)
theorem execSmode_issues {f : FmtCM} (h : s₀.issues i s) : Out.issues s₀ i (execSmode f s) :=
  refusedIn_issues h (ite_issues h (ite_issues (await_issues h) (ask_issues h)))
theorem poolHold_issues (h : s₀.issues i s) : s₀.issues i s.poolHold := ite_issues h (await_issues h)
theorem execSpawn_issues {f : FmtCS} (h : s₀.issues i s) : Out.issues s₀ i (execSpawn f s) :=
  next_issues (guarded_issues h (ite_issues (fault_issues h) (ite_issues (fault_issues h)
    (modSched_issues (poolHold_issues h)))))
theorem parkOp_issues {j : Instr} {yields : Bool} (h : s₀.issues i s) : Out.issues s₀ i (parkOp s j g yields) :=
  refusedIn_issues h (ask_issues (poolHold_issues (ite_issues h (await_issues h))))
theorem execHalt_issues {f : FmtCN} (h : s₀.issues i s) : Out.issues s₀ i (execHalt f s) :=
  next_issues (guarded_issues h (ask_issues (ite_issues (leaveSync_issues h) h)))
theorem execTret_issues {f : FmtCN} (h : s₀.issues i s) : Out.issues s₀ i (execTret f s) :=
  next_issues (guarded_issues h (ite_issues (fault_issues h) (ite_issues (ask_issues h) (await_issues h))))

/-! ### Matrix instructions -/

theorem modMx_issues {f : Machine.Matrix → Machine.Matrix} (h : s₀.issues i s) : s₀.issues i (s.modMx c f) :=
  modCore_issues h fun _ => ⟨rfl, rfl⟩
theorem modAcc_issues {f : Machine.Acc → Machine.Acc} (h : s₀.issues i s) : s₀.issues i (s.modAcc c f) :=
  modCore_issues h fun _ => ⟨rfl, rfl⟩
theorem execMxcall_issues {f : FmtXC} (h : s₀.issues i s) : Out.issues s₀ i (execMxcall f s) := by
  unfold execMxcall
  dsimp only
  refine next_issues (guarded_issues h ?_)
  split
  · exact fault_issues h
  · exact ite_issues (await_issues h) (modMx_issues (ctxOp_issues h))
theorem mxprogOp_issues {j : Instr} {f : FmtXP} {top low : ℕ} {put : Prog → ℕ → Word → Prog} (h : s₀.issues i s) :
    Out.issues s₀ i (mxprogOp s j f top low put) := by
  unfold mxprogOp
  refine next_issues (guarded_issues h ?_)
  extract_lets c a b n vendor p s1 s2
  have h2 : s₀.issues i s2 := modIss_issues (modCore_issues h fun _ => ⟨rfl, rfl⟩) fun _ => ⟨rfl, rfl⟩
  exact ite_issues (fault_issues h) (ite_issues (fault_issues h) (ite_issues (fault_issues h)
    (ite_issues (fault_issues h) (ite_issues (fault_issues h) (ite_issues (await_issues h)
      (ite_issues (modPart_issues h2) h2))))))
theorem execMxprog_issues {f : FmtXP} (h : s₀.issues i s) : Out.issues s₀ i (execMxprog f s) := mxprogOp_issues h
theorem execMxprogTab_issues {f : FmtXP} (h : s₀.issues i s) : Out.issues s₀ i (execMxprogTab f s) := mxprogOp_issues h
theorem accBusy_issues {t : ℕ} {o : Option Call} (h : s₀.issues i s) : s₀.issues i (s.accBusy t o) := by
  unfold State.accBusy
  split
  · exact h
  · exact fault_issues h
theorem execZrd_issues {f : FmtXZ} (h : s₀.issues (.zrd f) s) : Out.issues s₀ (.zrd f) (execZrd f s) := by
  unfold execZrd
  dsimp only
  refine next_issues (masked_issues h fun _ => ?_)
  split
  · exact accBusy_issues h
  · exact pushV_issues (.head _) h
theorem execZwr_issues {f : FmtXZ} (h : s₀.issues i s) : Out.issues s₀ i (execZwr f s) := by
  unfold execZwr
  dsimp only
  refine next_issues (masked_issues h fun _ => ?_)
  split
  · exact accBusy_issues h
  · exact modAcc_issues (vecOperands_issues h)
theorem execMxstat_issues {f : FmtXS} (h : s₀.issues (.mxstat f) s) : Out.issues s₀ (.mxstat f) (execMxstat f s) :=
  next_issues (guarded_issues h (ite_issues (accBusy_issues h)
    (pushS_issues (.head _) (ite_issues h (ite_issues (modMx_issues h) (modAcc_issues h))))))

/-! ### Every syllable -/

theorem exec_issues_control {wide : Bool} (hp : placeOf i = .syllable .C wide) (h : s₀.issues i s) :
    Out.issues s₀ i (exec i s) := by
  unfold exec
  cases i with
  | nop _ => exact next_issues (guarded_issues h h)
  | prep _ => exact execPrep_issues h
  | prepr _ => exact execPrepr_issues h
  | trans _ => exact execTrans_issues h
  | loopImm _ => exact loopOp_issues h
  | loopReg _ => exact loopOp_issues h
  | sync _ => exact execSync_issues h
  | syncj _ => exact execSyncj_issues h
  | syncl _ => exact execSyncl_issues h
  | join _ => exact joinOp_issues h
  | joinW _ => exact joinOp_issues h
  | detach _ => exact execDetach_issues h
  | smode _ => exact execSmode_issues h
  | spawn _ => exact execSpawn_issues h
  | suspend _ => exact parkOp_issues h
  | yield _ => exact parkOp_issues h
  | halt _ => exact execHalt_issues h
  | trap _ => exact next_issues (guarded_issues h (ask_issues h))
  | tret _ => exact execTret_issues h
  | _ => nomatch hp
theorem exec_issues_scalar {wide : Bool} (hp : placeOf i = .syllable .S wide) (h : s₀.issues i s) :
    Out.issues s₀ i (exec i s) := by
  unfold exec
  cases i with
  | add _ => exact scalarOp_issues (.head _) h
  | sub _ => exact scalarOp_issues (.head _) h
  | mul _ => exact scalarOp_issues (.head _) h
  | mulh _ => exact scalarOp_issues (.head _) h
  | div _ => exact scalarOp_issues (.head _) h
  | rem _ => exact scalarOp_issues (.head _) h
  | addi _ => exact scalarOp_issues (.head _) h
  | addiWide _ => exact scalarOp_issues (.head _) h
  | movi _ => exact scalarOp_issues (.head _) h
  | moviWide _ => exact scalarOp_issues (.head _) h
  | moviHi _ => exact scalarOp_issues (.head _) h
  | and _ => exact scalarOp_issues (.head _) h
  | or _ => exact scalarOp_issues (.head _) h
  | xor _ => exact scalarOp_issues (.head _) h
  | shl _ => exact scalarOp_issues (.head _) h
  | shr _ => exact scalarOp_issues (.head _) h
  | sar _ => exact scalarOp_issues (.head _) h
  | min _ => exact scalarOp_issues (.head _) h
  | max _ => exact scalarOp_issues (.head _) h
  | umin _ => exact scalarOp_issues (.head _) h
  | umax _ => exact scalarOp_issues (.head _) h
  | clz _ => exact scalarOp_issues (.head _) h
  | popc _ => exact scalarOp_issues (.head _) h
  | sel _ => exact scalarOp_issues (.head _) h
  | cmp _ => exact execCmp_issues h
  | cmpi _ => exact next_issues (guarded_issues h (pushP_issues (.head _) h))
  | cmpiWide _ => exact next_issues (guarded_issues h (pushP_issues (.head _) h))
  | andi _ => exact scalarOp_issues (.head _) h
  | andiWide _ => exact scalarOp_issues (.head _) h
  | ori _ => exact scalarOp_issues (.head _) h
  | oriWide _ => exact scalarOp_issues (.head _) h
  | xori _ => exact scalarOp_issues (.head _) h
  | xoriWide _ => exact scalarOp_issues (.head _) h
  | shli _ => exact scalarOp_issues (.head _) h
  | shri _ => exact scalarOp_issues (.head _) h
  | sari _ => exact scalarOp_issues (.head _) h
  | fadd _ => exact next_issues (guarded_issues h (pushS_issues (.head _) h))
  | faddWide _ => exact next_issues (guarded_issues h (pushS_issues (.head _) h))
  | fmul _ => exact next_issues (guarded_issues h (pushS_issues (.head _) h))
  | fmulWide _ => exact next_issues (guarded_issues h (pushS_issues (.head _) h))
  | ffma _ => exact next_issues (guarded_issues h (pushS_issues (.head _) h))
  | ffmaWide _ => exact next_issues (guarded_issues h (pushS_issues (.head _) h))
  | fcvt _ => exact next_issues (guarded_issues h (pushS_issues (.head _) h))
  | fcvtWide _ => exact next_issues (guarded_issues h (pushS_issues (.head _) h))
  | csrr _ => exact next_issues (guarded_issues h (pushS_issues (.head _) h))
  | csrw _ => exact execCsrw_issues h
  | movm _ => exact execMovm_issues h
  | _ => nomatch hp
theorem exec_issues_scratchpad {wide : Bool} (hp : placeOf i = .syllable .M wide) (h : s₀.issues i s) :
    Out.issues s₀ i (exec i s) := by
  unfold exec
  cases i with
  | ld _ => exact scalarLoad_issues (List.Subset.refl _) nofun h
  | ldWide _ => exact scalarLoad_issues (List.Subset.refl _) nofun h
  | st _ => exact scalarStore_issues (List.Subset.refl _) rfl h
  | stWide _ => exact scalarStore_issues (List.Subset.refl _) rfl h
  | ldf _ => exact scalarLoad_issues (List.Subset.refl _) nofun h
  | ldfWide _ => exact scalarLoad_issues (List.Subset.refl _) nofun h
  | lde _ => exact scalarLoad_issues (List.Subset.refl _) (fun _ => rfl) h
  | ldeWide _ => exact scalarLoad_issues (List.Subset.refl _) (fun _ => rfl) h
  | ste _ => exact scalarStore_issues (List.Subset.refl _) rfl h
  | steWide _ => exact scalarStore_issues (List.Subset.refl _) rfl h
  | tage _ => exact rangeTag_issues rfl h
  | tageWide _ => exact rangeTag_issues rfl h
  | tagf _ => exact rangeTag_issues rfl h
  | tagfWide _ => exact rangeTag_issues rfl h
  | vld _ => exact vecLoad_issues (List.Subset.refl _) h
  | vldWide _ => exact vecLoad_issues (List.Subset.refl _) h
  | vst _ => exact vecStore_issues (List.Subset.refl _) rfl h
  | vstWide _ => exact vecStore_issues (List.Subset.refl _) rfl h
  | vldx _ => exact execVldx_issues h
  | vstx _ => exact execVstx_issues h
  | _ => nomatch hp
theorem exec_issues_vector {wide : Bool} (hp : placeOf i = .syllable .V wide) (h : s₀.issues i s) :
    Out.issues s₀ i (exec i s) := by
  unfold exec
  cases i with
  | vadd _ => exact vecInt_issues (.head _) h
  | vaddWide _ => exact vecIntW_issues (.head _) h
  | vsub _ => exact vecInt_issues (.head _) h
  | vsubWide _ => exact vecIntW_issues (.head _) h
  | vmul _ => exact vecInt_issues (.head _) h
  | vmulWide _ => exact vecIntW_issues (.head _) h
  | vmin _ => exact vecInt_issues (.head _) h
  | vminWide _ => exact vecIntW_issues (.head _) h
  | vmax _ => exact vecInt_issues (.head _) h
  | vmaxWide _ => exact vecIntW_issues (.head _) h
  | vand _ => exact vecInt_issues (.head _) h
  | vandWide _ => exact vecIntW_issues (.head _) h
  | vor _ => exact vecInt_issues (.head _) h
  | vorWide _ => exact vecIntW_issues (.head _) h
  | vxor _ => exact vecInt_issues (.head _) h
  | vxorWide _ => exact vecIntW_issues (.head _) h
  | vshl _ => exact vecInt_issues (.head _) h
  | vshlWide _ => exact vecIntW_issues (.head _) h
  | vshr _ => exact vecInt_issues (.head _) h
  | vshrWide _ => exact vecIntW_issues (.head _) h
  | vsar _ => exact vecInt_issues (.head _) h
  | vsarWide _ => exact vecIntW_issues (.head _) h
  | vcmp _ => exact execVcmp_issues h
  | vsel _ => exact vecOp_issues (.head _) h
  | vselWide _ => exact vecOp_issues (.head _) h
  | vcvt _ => exact vecConvert_issues (.head _) h
  | vcvtWide _ => exact vecConvert_issues (.head _) h
  | vperm _ => exact execVperm_issues (.head _) h
  | vbcast _ => exact execVbcast_issues (.head _) h
  | vaddF _ => exact vecFp_issues (.head _) h
  | vaddFWide _ => exact vecFpW_issues (.head _) h
  | vsubF _ => exact vecFp_issues (.head _) h
  | vsubFWide _ => exact vecFpW_issues (.head _) h
  | vmulF _ => exact vecFp_issues (.head _) h
  | vmulFWide _ => exact vecFpW_issues (.head _) h
  | vfma _ => exact execVfma_issues (.head _) h
  | vfmaWide _ => exact execVfmaWide_issues (.head _) h
  | vminF _ => exact vecFp_issues (.head _) h
  | vminFWide _ => exact vecFpW_issues (.head _) h
  | vmaxF _ => exact vecFp_issues (.head _) h
  | vmaxFWide _ => exact vecFpW_issues (.head _) h
  | vsum _ => exact vecReduce_issues (.head _) h
  | vsumWide _ => exact vecReduce_issues (.head _) h
  | vmaxr _ => exact vecReduce_issues (.head _) h
  | vmaxrWide _ => exact vecReduce_issues (.head _) h
  | vscan _ => exact vecScan_issues (.head _) h
  | vscanWide _ => exact vecScan_issues (.head _) h
  | vlane _ => exact execVlane_issues h
  | vpopc _ => exact next_issues (pushS_issues (.head _) h)
  | vcmpr _ => exact execVcmpr_issues h
  | vhash _ => exact vecOp_issues (.head _) h
  | vhashWide _ => exact vecOp_issues (.head _) h
  | vvote _ => exact next_issues (pushP_issues (.head _) h)
  | vexp2 _ => exact vecFn_issues (.head _) h
  | vexp2Wide _ => exact vecFn_issues (.head _) h
  | vlog2 _ => exact vecFn_issues (.head _) h
  | vlog2Wide _ => exact vecFn_issues (.head _) h
  | vrcp _ => exact vecFn_issues (.head _) h
  | vrcpWide _ => exact vecFn_issues (.head _) h
  | vrsq _ => exact vecFn_issues (.head _) h
  | vrsqWide _ => exact vecFn_issues (.head _) h
  | pand _ => exact predOp_issues (.head _) h
  | por _ => exact predOp_issues (.head _) h
  | pxor _ => exact predOp_issues (.head _) h
  | pnot _ => exact predOp_issues (.head _) h
  | pset _ => exact predOp_issues (.head _) h
  | pmov _ => exact execPmov_issues h
  | _ => nomatch hp
theorem exec_issues_matrix {wide : Bool} (hp : placeOf i = .syllable .X wide) (h : s₀.issues i s) :
    Out.issues s₀ i (exec i s) := by
  unfold exec
  cases i with
  | mxcall _ => exact execMxcall_issues h
  | mxprog _ => exact execMxprog_issues h
  | mxprogTab _ => exact execMxprogTab_issues h
  | zrd _ => exact execZrd_issues h
  | zwr _ => exact execZwr_issues h
  | mxstat _ => exact execMxstat_issues h
  | _ => nomatch hp
theorem exec_issues_engine {wide : Bool} (hp : placeOf i = .syllable .E wide) (h : s₀.issues i s) :
    Out.issues s₀ i (exec i s) := by
  unfold exec
  cases i with
  | copy _ => exact next_issues (guarded_issues h (copyOp_issues h))
  | copyWide _ => exact next_issues (guarded_issues h (copyOp_issues h))
  | copy2d _ => exact next_issues (guarded_issues h (copy2dOp_issues h))
  | copy2dWide _ => exact next_issues (guarded_issues h (copy2dOp_issues h))
  | tmov _ => exact next_issues (guarded_issues h (tmovOp_issues h))
  | tmovWide _ => exact next_issues (guarded_issues h (tmovOp_issues h))
  | seop _ => exact next_issues (guarded_issues h (seopOp_issues h))
  | seopWide _ => exact next_issues (guarded_issues h (seopOp_issues h))
  | copyUnseal _ => exact unsealForm_issues h (unsealOp_issues h)
  | copyUnsealWide _ => exact unsealForm_issues h (unsealOp_issues h)
  | strcfg _ => exact execStrcfg_issues h
  | stron _ => exact execStron_issues h
  | stroff _ => exact next_issues (guarded_issues h (strOff_issues h))
  | bufrel _ => exact execBufrel_issues h
  | rput _ => exact next_issues (guarded_issues h (rputOp_issues h))
  | rputWide _ => exact next_issues (guarded_issues h (rputOp_issues h))
  | rget _ => exact next_issues (guarded_issues h (rgetOp_issues h))
  | rgetWide _ => exact next_issues (guarded_issues h (rgetOp_issues h))
  | rgetv _ => exact next_issues (guarded_issues h (rgetvOp_issues h))
  | rgetvWide _ => exact next_issues (guarded_issues h (rgetvOp_issues h))
  | rfop _ => exact next_issues (guarded_issues h (rfopOp_issues h))
  | rfopWide _ => exact rfopWide_issues h
  | rfopIncw _ => exact rfopWide_issues h
  | rfopBadd _ => exact rfopWide_issues h
  | rfopCas _ => exact rfopWide_issues h
  | rvatom _ => exact next_issues (guarded_issues h (rvatomOp_issues h))
  | rvatomWide _ => exact next_issues (guarded_issues h (rvatomOp_issues h))
  | rred _ => exact next_issues (guarded_issues h (rredOp_issues h))
  | rredWide _ => exact next_issues (guarded_issues h (rredOp_issues h))
  | rmcast _ => exact next_issues (guarded_issues h (rmcastOp_issues h))
  | rmcastWide _ => exact next_issues (guarded_issues h (rmcastOp_issues h))
  | fence _ => exact execFence_issues h
  | arrive _ => exact execArrive_issues h
  | waitb _ => exact execWaitb_issues h
  | waitbC _ => exact execWaitbC_issues h
  | waitbCWide _ => exact execWaitbCWide_issues h
  | waith _ => exact execWaith_issues h
  | barinit _ => exact execBarinit_issues h
  | trigarm _ => exact execTrigarm_issues h
  | trigcancel _ => exact execTrigcancel_issues h
  | moncfgConfigure _ => exact monCfg_issues h
  | moncfgSnapshot _ => exact monCfg_issues h
  | moncfgSnapshotClear _ => exact monCfg_issues h
  | moncfgStop _ => exact monCfg_issues h
  | tlbinv _ => exact pMode_issues h (ite_issues (fault_issues h) (tlbRemove_issues h))
  | tlbinvPart _ => exact pMode_issues h (tlbRemove_issues h)
  | tlbinvPkg _ => exact pMode_issues h (tlbRemove_issues h)
  | slotld _ => exact execSlotld_issues h
  | buddyset _ => exact execBuddyset_issues h
  | _ => nomatch hp
/-- A syllable sends results for its destinations on their way and changes no register that can be seen (R25, R100). -/
theorem exec_issues {cl : Cls} {wide : Bool} (hp : placeOf i = .syllable cl wide) (h : s₀.issues i s) :
    Out.issues s₀ i (exec i s) :=
  match cl, hp with
  | .C, hp => exec_issues_control hp h
  | .S, hp => exec_issues_scalar hp h
  | .M, hp => exec_issues_scratchpad hp h
  | .V, hp => exec_issues_vector hp h
  | .X, hp => exec_issues_matrix hp h
  | .E, hp => exec_issues_engine hp h

end State

theorem Ctx.readS_of_seen {k q : Ctx} (h : k.seen = q.seen) (n : ℕ) : k.readS n = q.readS n := by
  simp only [Ctx.seen, Prod.mk.injEq] at h
  rw [Ctx.readS, Ctx.readS, h.1]
theorem Ctx.readP_of_seen {k q : Ctx} (h : k.seen = q.seen) (n : ℕ) : k.readP n = q.readP n := by
  simp only [Ctx.seen, Prod.mk.injEq] at h
  rw [Ctx.readP, Ctx.readP, h.2.1]

/-- Settles O57: the state a syllable leads to is one that it may issue into (`State.exec_issues`), read field by field. -/
theorem syllableFrame : Obligations.SyllableFrame := by
  unfold Obligations.SyllableFrame
  intro i s t cl wide hp he
  obtain ⟨u, hu, -, hcore, hctx, hres, hrest⟩ := State.exec_issues hp (State.issues_refl (s := s))
  obtain rfl : t = u := by simpa using he.symm.trans hu
  refine ⟨fun c x n => ⟨Ctx.readS_of_seen (hctx c x) n, Ctx.readP_of_seen (hctx c x) n⟩, fun c x => ?_, fun c => ?_,
    hres, hrest⟩
  · obtain ⟨-, -, hcsr, hpc⟩ : _ ∧ _ ∧ _ ∧ _ := by simpa only [Ctx.seen, Prod.mk.injEq] using hctx c x
    exact ⟨hcsr, hpc⟩
  · simpa only [Core.seen, Prod.mk.injEq] using hcore c

end Sys2Proof.Machine
end

section
/-! # What a boundary's results leave as they were

`samePath` says that what decides which bundles a core issues next is unchanged: memory, the clock, the tables, the issue record
and, of every core and context, all but its registers, its results in flight and what those push or arrive at. Results that
become visible keep it, in every mode (R25, R26, R95, R217), so an address leads on to the same bundle before and after. -/

namespace Sys2Proof.Machine

/-- What results that become visible leave of a core as it was. -/
def Core.path (k : Core) : CoreIdent × CoreCsr × CoreFetch × CoreStat := (k.ident, k.csr, k.fetch, k.stat)
/-- What results that become visible leave of a context as it was. -/
def Ctx.path (k : Ctx) : ℕ × Option Capture × List Pending × CtxRun × LoopReg × LoopReg :=
  (k.pc, k.cap, k.pend, k.run, k.l0, k.l1)
/-- What decides where the cores' next bundles come from is the same in two states. -/
def samePath (s t : State) : Prop :=
  (t.mem = s.mem ∧ t.clk = s.clk ∧ t.clusters = s.clusters ∧ t.dies = s.dies ∧ t.pkgs = s.pkgs ∧ t.iss = s.iss)
  ∧ (∀ c, (t.core c).path = (s.core c).path) ∧ ∀ c x, (t.ctx c x).path = (s.ctx c x).path

namespace State
variable {s t : State} {c d x n : ℕ}

theorem samePath_refl : samePath s s := ⟨⟨rfl, rfl, rfl, rfl, rfl, rfl⟩, fun _ => rfl, fun _ _ => rfl⟩
theorem samePath_ite {u : State} {q : Prop} [Decidable q] (h : samePath s t) (g : samePath s u) :
    samePath s (if q then t else u) := by
  split <;> assumption
theorem samePath_foldl {α : Type} {f : State → α → State} {l : List α} (h : samePath s t)
    (hf : ∀ {u a}, samePath s u → samePath s (f u a)) : samePath s (l.foldl f t) :=
  l.foldlRecOn f (motive := fun u => samePath s u) h fun _ hu _ _ => hf hu
theorem samePath_modCore {f : Core → Core} (h : samePath s t)
    (hf : ∀ k, (f k).path = k.path ∧ ∀ y, ((f k).ctx y).path = (k.ctx y).path) : samePath s (t.modCore d f) := by
  obtain ⟨hrest, hcore, hctx⟩ := h
  refine ⟨hrest, fun e => ?_, fun e y => ?_⟩
  · rw [← hcore e, State.modCore_core]
    split
    · next he => rw [he, (hf _).1]
    · rfl
  · rw [← hctx e y, State.ctx, State.modCore_core]
    split
    · next he => rw [he, (hf _).2]; rfl
    · rfl
theorem samePath_modCtx {f : Machine.Ctx → Machine.Ctx} (h : samePath s t)
    (hf : ∀ k, (f k).path = k.path) : samePath s (t.modCtx d x f) :=
  samePath_modCore h fun k => ⟨rfl, fun y => by
    rw [Core.ctx, Tab.get_upd]
    split
    · next hy => rw [hf, hy]; rfl
    · rfl⟩

end State

theorem Ctx.writeS_path (k : Ctx) (n : ℕ) (v : Word) : (k.writeS n v).path = k.path := by
  unfold Ctx.writeS; split <;> rfl
theorem Ctx.writeP_path (k : Ctx) (n : ℕ) (b : BitVec 64) : (k.writeP n b).path = k.path := by
  unfold Ctx.writeP; split <;> rfl
theorem Core.updCtx_path {f : Ctx → Ctx} (hf : ∀ q, (f q).path = q.path) (k : Core) (x y : ℕ) :
    (Core.ctx { k with ctxs := Tab.upd Ctx.reset k.ctxs x f } y).path = (k.ctx y).path := by
  rw [Core.ctx, Tab.get_upd]
  split
  · next hy => rw [hf, hy]; rfl
  · rfl
theorem applyReg_path (k : Core) (x : ℕ) (r : Result) :
    (applyReg k x r).path = k.path ∧ ∀ y, ((applyReg k x r).ctx y).path = (k.ctx y).path := by
  unfold applyReg
  split
  · exact ⟨rfl, Core.updCtx_path (fun q => q.writeS_path _ _) k x⟩
  · exact ⟨rfl, Core.updCtx_path (fun q => q.writeP_path _ _) k x⟩
  all_goals exact ⟨rfl, fun _ => rfl⟩
theorem foldl_applyReg_path (l : List Result) (k : Core) (x : ℕ) :
    (l.foldl (fun k r => applyReg k x r) k).path = k.path
      ∧ ∀ y, ((l.foldl (fun k r => applyReg k x r) k).ctx y).path = (k.ctx y).path := by
  induction l generalizing k with
  | nil => exact ⟨rfl, fun _ => rfl⟩
  | cons r l ih =>
    obtain ⟨hcore, hctx⟩ := applyReg_path k x r
    obtain ⟨gcore, gctx⟩ := ih (applyReg k x r)
    exact ⟨gcore.trans hcore, fun y => (gctx y).trans (hctx y)⟩
theorem foldl_orFlags_path (l : List Result) (k : Ctx) : (l.foldl (fun k r => k.orFlags r.flags) k).path = k.path := by
  induction l generalizing k with
  | nil => rfl
  | cons r l ih => exact ih _

namespace State
variable {s t : State} {c d x n : ℕ}

theorem samePath_mature {l : List Result} {exposed : Bool} (h : samePath s t) : samePath s (t.mature c x l exposed) := by
  unfold State.mature
  extract_lets l' s1 s2
  have h1 : samePath s s1 := samePath_modCore h fun k => foldl_applyReg_path l' k x
  have h2 : samePath s s2 := samePath_modCtx h1 (foldl_orFlags_path l')
  exact samePath_ite (samePath_modCtx h2 fun _ => rfl) h2
theorem samePath_dueArrivals {l : List Result} (h : samePath s t) : samePath s (t.dueArrivals c l) :=
  samePath_modCore h fun _ => ⟨rfl, fun _ => rfl⟩
theorem samePath_modStream {f : Machine.Stream → Machine.Stream} (h : samePath s t) : samePath s (t.modStream c n f) :=
  samePath_modCore h fun _ => ⟨rfl, fun _ => rfl⟩
theorem samePath_pushOp {r : Result} (h : samePath s t) : samePath s (t.pushOp r).2 := by
  unfold State.pushOp
  dsimp only
  split <;> exact h
theorem samePath_streamPush {r : Result} (h : samePath s t) : samePath s (t.streamPush c n r) := by
  unfold State.streamPush
  extract_lets k q p s1 data e s2
  have h1 : samePath s s1 := samePath_pushOp h
  exact samePath_ite (samePath_modStream h1) (samePath_ite (samePath_modStream h1)
    (samePath_modStream (samePath_modStream h1)))
theorem samePath_pushResultOut {r : Result} (h : samePath s t) : samePath s (t.pushResultOut c r) := by
  unfold State.pushResultOut
  cases r.reg.stream? with
  | none => exact h
  | some n => exact samePath_streamPush h
theorem samePath_visible {l : List Result} (h : samePath s t) : samePath s (t.visible c x l) :=
  samePath_foldl (samePath_dueArrivals (samePath_mature h)) samePath_pushResultOut
theorem samePath_matureNow (h : samePath s t) : samePath s (t.matureNow c x) := samePath_mature (samePath_modCtx h fun _ => rfl)
theorem samePath_tickExposed (h : samePath s t) : samePath s (t.tickExposed c x) := samePath_matureNow (samePath_modCtx h fun _ => rfl)
theorem samePath_tickStrand (h : samePath s t) : samePath s (t.tickStrand c x) := samePath_visible (samePath_modCtx h fun _ => rfl)

/-! ### The address a bundle goes on at -/

theorem readPlain_congr (hm : t.mem = s.mem) (hd : t.dies = s.dies) (hp : t.pkgs = s.pkgs) (part a : ℕ) :
    t.readPlain part a n = s.readPlain part a n := by
  obtain ⟨clk, mem, tags, cores, clusters, dies, pkgs, net, iss, watch⟩ := s
  obtain ⟨clk', mem', tags', cores', clusters', dies', pkgs', net', iss', watch'⟩ := t
  obtain rfl : mem' = mem := hm
  obtain rfl : dies' = dies := hd
  obtain rfl : pkgs' = pkgs := hp
  rfl
theorem lineOf_congr (hm : t.mem = s.mem) (hd : t.dies = s.dies) (hp : t.pkgs = s.pkgs) {l : List (ℕ × BitVec 512)}
    {part cl a : ℕ} : t.lineOf l part cl a = s.lineOf l part cl a := by
  simp only [State.lineOf, State.codeLine, readPlain_congr hm hd hp]
theorem pastMarkers_congr (hm : t.mem = s.mem) (hd : t.dies = s.dies) (hp : t.pkgs = s.pkgs) {l : List (ℕ × BitVec 512)}
    {part cl a : ℕ} : t.pastMarkers l part cl n a = s.pastMarkers l part cl n a := by
  induction n generalizing a with
  | zero => rfl
  | succ n ih => simp only [State.pastMarkers, lineOf_congr hm hd hp, ih]
/-- A core resolves an address alike in states with the same memory, tables and Chords where its own control state is. -/
theorem resolve_congr (hm : t.mem = s.mem) (hcl : t.clusters = s.clusters) (hd : t.dies = s.dies) (hp : t.pkgs = s.pkgs)
    (hc : (t.core c).path = (s.core c).path) (a : ℕ) : t.resolve c a = s.resolve c a := by
  obtain ⟨hident, -, hfetch, hstat⟩ : _ ∧ _ ∧ _ ∧ _ := by simpa only [Core.path, Prod.mk.injEq] using hc
  have hin : (t.core c).inStream = (s.core c).inStream := by simp only [Core.inStream, hident, hstat]
  have hlines : t.linesOf c = s.linesOf c := by
    rw [State.linesOf, State.linesOf, hin, State.cluster, State.cluster, hcl, hfetch]
  rw [State.resolve, State.resolve, hlines, hident, pastMarkers_congr hm hd hp]
theorem resolve_samePath (h : samePath s t) (c a : ℕ) : t.resolve c a = s.resolve c a := by
  obtain ⟨⟨hm, -, hcl, hd, hp, -⟩, hcore, -⟩ := h
  exact resolve_congr hm hcl hd hp (hcore c) a

end State
end Sys2Proof.Machine
end

section
/-! # The modes' instructions, and where a boundary leads (O14) -/

namespace Sys2Proof.Machine

theorem exec_of_join {f : FmtCJ} {s : State} {i : Instr} (hi : i ∈ [Instr.join f, .joinW f]) :
    exec i s = joinOp s i f.g f.k := by
  simp only [List.mem_cons, List.not_mem_nil, or_false] at hi
  rcases hi with rfl | rfl <;> rfl
theorem exec_smode (f : FmtCM) (s : State) : exec (.smode f) s = execSmode f s := rfl
theorem exec_halt (f : FmtCN) (s : State) : exec (.halt f) s = execHalt f s := rfl

section
variable {s : State} {i : Instr} {g : ℕ} {always guarded : Bool} {k : State → State}

theorem guarded_of_true (h : s.guard0 g = true) : s.guarded g k = k s := if_pos h
theorem refusedIn_always (h : always = true) : refusedIn s i g always guarded k = .next (s.inContext i) := if_pos h
theorem refusedIn_guarded (hg : s.guard0 g = true) (h : guarded = true) :
    refusedIn s i g always guarded k = .next (s.inContext i) := by
  simp only [refusedIn, State.guarded, hg, h, if_true, ite_self]
theorem refusedIn_goes (hg : s.guard0 g = true) (ha : always = false) (hb : guarded = false) :
    refusedIn s i g always guarded k = .next (k s) := by
  simp only [refusedIn, State.guarded, hg, ha, hb, if_true, Bool.false_eq_true, if_false]
end

namespace State
variable {s t : State} {c d x n next : ℕ}

theorem idleChord_core : (s.idleChord d).core = s.core := by unfold State.idleChord; split <;> rfl
@[simp] theorem idleChord_ctx : (s.idleChord d).ctx = s.ctx := by unfold State.idleChord; split <;> rfl
@[simp] theorem idleChord_mem : (s.idleChord d).mem = s.mem := by unfold State.idleChord; split <;> rfl
theorem leaveStream_core : ((s.leaveStream c).core c).fetch.queue = [] ∧ ((s.leaveStream c).core c).ident.mode = 1 := by
  rw [State.leaveStream, idleChord_core]
  simp [State.dropQueue]
theorem modCore_ctx_of {f : Core → Core} (hf : ∀ k, (f k).ctxs = k.ctxs) :
    (s.modCore c f).ctx d x = s.ctx d x := by
  rw [State.ctx, State.modCore_core]
  split
  · next hd => rw [Core.ctx, hf, hd]; rfl
  · rfl
@[simp] theorem dropQueue_ctx : (s.dropQueue c).ctx d x = s.ctx d x := modCore_ctx_of fun _ => rfl
@[simp] theorem dropQueue_mem : (s.dropQueue c).mem = s.mem := rfl
@[simp] theorem leaveStream_ctx : (s.leaveStream c).ctx d x = s.ctx d x := by
  rw [State.leaveStream, idleChord_ctx, modCore_ctx_of, dropQueue_ctx]
  exact fun _ => rfl
@[simp] theorem leaveStream_mem : (s.leaveStream c).mem = s.mem := by rw [State.leaveStream, idleChord_mem]; rfl
@[simp] theorem compare_mem {a : ℕ} {l : Option ℕ} : (s.compare c a l).mem = s.mem := by
  unfold State.compare
  dsimp only
  split
  · split
    · rfl
    · exact leaveStream_mem
  · rfl
@[simp] theorem compareHead_mem : (s.compareHead c).mem = s.mem := by
  unfold State.compareHead
  split
  · dsimp only
    split
    · exact compare_mem
    · rfl
  · exact compare_mem
/-- A comparison changes a context's next address only for the leader that chose it (R35, R36). -/
theorem compare_pc {a : ℕ} {l : Option ℕ} : ((s.compare c a l).ctx c x).pc = (s.ctx c x).pc
    ∨ (s.core c).inStream = true ∧ l = some c ∧ ((s.compare c a l).ctx c x).pc = a := by
  unfold State.compare
  extract_lets k
  split
  · next hk =>
    have hin : k.inStream = true := by simp only [Bool.and_eq_true] at hk; exact hk.1.1.2
    split
    · next hl =>
      rcases eq_or_ne x 0 with rfl | hx
      · exact .inr ⟨hin, hl, by simp⟩
      · exact .inl (by simp [hx])
    · exact .inl (by rw [leaveStream_ctx])
  · exact .inl rfl
/-- An attached core goes on at its own address, or where its own decision for the Chord said (R35, R36). -/
theorem compareHead_goesTo (hcl : t.clusters = s.clusters) (hin : (t.core c).inStream = (s.core c).inStream)
    (hf : (t.core c).fetch = (s.core c).fetch) (hpc : (t.ctx c x).pc = next % 2 ^ 24) :
    goesTo s (t.compareHead c) c x next := by
  unfold goesTo State.compareHead
  rw [← hin, ← hf, show s.cluster (clusterOf c) = t.cluster (clusterOf c) by rw [State.cluster, State.cluster, hcl]]
  cases (t.core c).fetch.queue.head? with
  | none =>
    dsimp only
    split
    · next hd =>
      rcases compare_pc (s := t) (c := c) (x := x) (a := (t.cluster (clusterOf c)).chord.pc)
        (l := (t.cluster (clusterOf c)).chord.lead) with hp | ⟨hi, hl, hp⟩
      · exact .inl (hp.trans hpc)
      · exact .inr ⟨hi, hd, hl, hp⟩
    · exact .inl hpc
  | some b =>
    rcases compare_pc (s := t) (c := c) (x := x) (a := b.addr) (l := b.lead) with hp | ⟨hi, hl, hp⟩
    · exact .inl (hp.trans hpc)
    · exact .inr ⟨hi, hl, hp⟩

/-! ### The boundary settles -/

/-- The results' step of a boundary: none in STRAND mode (R25, R26). -/
def boundaryTick (s : State) (c x : ℕ) : State := if (s.core c).ident.mode = 2 then s else s.tickExposed c x
theorem samePath_boundaryTick : samePath s (s.boundaryTick c x) :=
  samePath_ite samePath_refl (samePath_tickExposed samePath_refl)
theorem boundaryTick_core : ((s.boundaryTick c x).core d).ident = (s.core d).ident
    ∧ ((s.boundaryTick c x).core d).csr = (s.core d).csr ∧ ((s.boundaryTick c x).core d).fetch = (s.core d).fetch
    ∧ ((s.boundaryTick c x).core d).stat = (s.core d).stat := by
  simpa only [Core.path, Prod.mk.injEq] using (samePath_boundaryTick (s := s) (c := c) (x := x)).2.1 d
@[simp] theorem boundaryTick_mem : (s.boundaryTick c x).mem = s.mem := samePath_boundaryTick.1.1

/-- The boundary's results, then the next bundle's address. -/
def steppedTo (s : State) (c x next : ℕ) : State :=
  (s.boundaryTick c x).modCtx c x fun k => { k with pc := next % 2 ^ 24 }
@[simp] theorem steppedTo_mem : (s.steppedTo c x next).mem = s.mem := boundaryTick_mem
@[simp] theorem steppedTo_pc : ((s.steppedTo c x next).ctx c x).pc = next % 2 ^ 24 := by simp [State.steppedTo]
theorem steppedTo_core : ((s.steppedTo c x next).core d).path = (s.core d).path := by
  rw [State.steppedTo, State.modCtx, State.modCore_core, ← samePath_boundaryTick.2.1 d]
  split
  · next hd => rw [hd]; rfl
  · rfl
theorem steppedTo_ident : ((s.steppedTo c x next).core d).ident = (s.core d).ident := congrArg (·.1) steppedTo_core
theorem steppedTo_csr : ((s.steppedTo c x next).core d).csr = (s.core d).csr := congrArg (·.2.1) steppedTo_core
theorem steppedTo_fetch : ((s.steppedTo c x next).core d).fetch = (s.core d).fetch := congrArg (·.2.2.1) steppedTo_core
theorem steppedTo_stat : ((s.steppedTo c x next).core d).stat = (s.core d).stat := congrArg (·.2.2.2) steppedTo_core
theorem steppedTo_inStream : ((s.steppedTo c x next).core d).inStream = (s.core d).inStream := by
  simp only [Core.inStream, steppedTo_ident, steppedTo_stat]
theorem steppedTo_clusters : (s.steppedTo c x next).clusters = s.clusters := samePath_boundaryTick.1.2.2.1
theorem steppedTo_cap : ((s.steppedTo c x next).ctx c x).cap = (s.ctx c x).cap := by
  rw [State.steppedTo, State.modCtx_ctx, if_pos ⟨rfl, rfl⟩]
  exact congrArg (·.2.1) (samePath_boundaryTick.2.2 c x)

/-- The boundary is over. -/
def closed (s : State) : State := s.modIss fun k => { k with open_ := false }

theorem settle_detach (h : s.iss.ctl = .detach) :
    s.settle next = (s.closed.leaveStream s.iss.core).steppedTo s.iss.core s.iss.ctx next := by
  simp only [State.settle, h]
  rfl
theorem settle_mode {m : ℕ} (h : s.iss.ctl = .mode m) :
    s.settle next = ((s.closed.modCore s.iss.core fun k => { k with ident := { k.ident with mode := m } }).modCtx s.iss.core 0
      fun t => { t with cap := t.cap.map fun g => { g with results := recount m g.results } }).steppedTo
        s.iss.core s.iss.ctx next := by
  simp only [State.settle, h]
  rfl
theorem settle_none (h : s.iss.ctl = .none) :
    s.settle next = (s.closed.steppedTo s.iss.core s.iss.ctx next).compareHead s.iss.core := by
  simp only [State.settle, h]
  rfl
theorem settle_trap {m : ℕ} (h : s.iss.ctl = .trap m) : ∃ u, samePath (s.closed.steppedTo s.iss.core s.iss.ctx next) u
    ∧ s.settle next = u.takeTrap s.iss.core s.iss.ctx 0 softwareTrap (BitVec.ofNat 64 m) (u.resolve s.iss.core next) := by
  refine ⟨let v := s.closed.steppedTo s.iss.core s.iss.ctx next
    if (v.core s.iss.core).ident.mode = 2 then v.tickStrand s.iss.core s.iss.ctx else v,
    samePath_ite (samePath_tickStrand samePath_refl) samePath_refl, ?_⟩
  simp only [State.settle, h]
  rfl
theorem resolve_steppedTo {a : ℕ} : (s.closed.steppedTo c x next).resolve d a = s.resolve d a :=
  have h : samePath s.closed (s.closed.boundaryTick c x) := samePath_boundaryTick
  have ⟨⟨hm, _, hcl, hd, hp, _⟩, _⟩ := h
  resolve_congr (t := s.closed.steppedTo c x next) (s := s) hm hcl hd hp steppedTo_core a

end State
end Sys2Proof.Machine
end

section
namespace Sys2Proof.Machine
namespace State
variable {s t : State} {c d x n next : ℕ} {r : Record}

/-! ### What a decided bundle's boundary comes to -/

theorem toBoundary_halt (h : s.iss.ctl = .halt) : s.toBoundary c x r = s.haltCtx c x := by simp only [State.toBoundary, h]
theorem haltCtx_ctx : ((s.haltCtx c x).ctx c x).run.active = false ∧ ((s.haltCtx c x).ctx c x).run.ended = true
    ∧ ((s.haltCtx c x).ctx c x).pend = [] := by
  unfold State.haltCtx
  extract_lets exposed s1 s2
  have h2 : (s2.ctx c x).run.active = false ∧ (s2.ctx c x).run.ended = true ∧ (s2.ctx c x).pend = [] := by simp [s2]
  split
  · rwa [idleChord_ctx, dropQueue_ctx]
  · exact h2
theorem haltCtx_mem : (s.haltCtx c x).mem = s.mem := by
  unfold State.haltCtx
  extract_lets exposed s1 s2
  have h2 : s2.mem = s.mem := by
    change s1.mem = s.mem
    unfold s1
    split
    · exact tickExposed_mem s c x
    · rfl
  split
  · rwa [idleChord_mem, dropQueue_mem]
  · exact h2
theorem haltCtx_queue : ((s.haltCtx c 0).core c).fetch.queue = [] := by
  unfold State.haltCtx
  rw [if_pos rfl, idleChord_core]
  simp [State.dropQueue]

/-- Context x waits at a JOIN (R37). -/
def joining (s : State) (c x n : ℕ) : State :=
  (s.boundaryTick c x).modCtx c x fun k =>
    { k with run := { k.run with join := some n, waits :=
      [⟨19 * 16, joinTimeout, 0, 0, (s.core c).stat.live, max 1 (s.core c).csr.joinlimit⟩] } }
theorem toBoundary_join (h : s.iss.ctl = .join n) : s.toBoundary c x r =
    (let q := (s.cluster (clusterOf c)).chord
      if q.joined = some (n, s.clk.cycle) && q.serves (s.core c) then ((s.joining c x n).reattach c q.num).turnOn c
      else s.joining c x n) := by
  have hp : samePath s (s.boundaryTick c x) := samePath_boundaryTick
  obtain ⟨⟨-, hclk, hcl, -⟩, -⟩ := hp
  have hq : (s.joining c x n).cluster (clusterOf c) = s.cluster (clusterOf c) := congrArg (fun l => Tab.get _ l _) hcl
  have hk : ((s.joining c x n).core c).ident = (s.core c).ident := by
    rw [State.joining, modCtx_core_ident]
    exact boundaryTick_core.1
  have hs (q : Chord) : q.serves ((s.joining c x n).core c) = q.serves (s.core c) := by simp only [Chord.serves, hk]
  have ht : (s.joining c x n).clk = s.clk := hclk
  simp only [State.toBoundary, h]
  rw [← hs, ← hq, ← ht]
  rfl
theorem reattach_ctx : ((s.reattach c n).ctx c 0).run.join = none ∧ ((s.reattach c n).ctx c 0).pend = []
    ∧ ((s.reattach c n).core c).ident.mode = 0 := by
  simp [State.reattach]
theorem turnOn_core : (s.turnOn c).core = s.core := rfl
theorem turnOn_ctx : (s.turnOn c).ctx = s.ctx := rfl
theorem joining_join : ((s.joining c x n).ctx c x).run.join = some n := by simp [State.joining]
theorem joining_mode : ((s.joining c x n).core c).ident.mode = (s.core c).ident.mode := by
  rw [State.joining, modCtx_core_ident]
  exact congrArg (·.mode) boundaryTick_core.1
/-- With no transfer due and no loop at its end, a bundle's boundary settles at the address in sequence (R178, R181). -/
theorem toBoundary_settles (hp : duePending (s.ctx c x).pend = none) (hl : (s.ctx c x).loopEndsAt s.iss.addr = false)
    (h : s.iss.ctl = .none ∨ s.iss.ctl = .detach ∨ (∃ m, s.iss.ctl = .mode m) ∨ ∃ n, s.iss.ctl = .trap n) :
    s.toBoundary c x r = (s.modIss fun k => { k with open_ := true }).settle s.iss.next := by
  rcases h with h | h | ⟨m, h⟩ | ⟨m, h⟩ <;>
    simp only [State.toBoundary, h, hp, hl, Option.isSome_none, State.modIss_iss, Bool.false_eq_true, if_false]

end State

/-! ### The claims -/

theorem joinOp_cases {s : State} {i : Instr} {g k : ℕ} :
    (s.mode = 2 → joinOp s i g k = .next (s.inContext i))
    ∧ (s.guard0 g = true → s.inHandler = false → (s.core s.iss.core).ident.started = false →
        (s.mode = 1 → joinOp s i g k = .next (s.ask (.join k))) ∧ (s.mode = 0 → joinOp s i g k = .next s))
    ∧ (s.guard0 g = true → s.inHandler = true ∨ (s.core s.iss.core).ident.started = true →
        joinOp s i g k = .next (s.inContext i)) := by
  refine ⟨fun h => refusedIn_always (by simp [h]), fun hg hh hs => ⟨fun h => ?_, fun h => ?_⟩, fun hg h =>
    refusedIn_guarded hg (by rcases h with h | h <;> simp [h])⟩
  all_goals
    rw [joinOp, refusedIn_goes hg (by simp [h]) (by simp [hh, hs])]
    simp [h]
theorem execDetach_cases {s : State} {f : FmtCN} :
    (s.mode = 2 → execDetach f s = .next (s.inContext (.detach f)))
    ∧ (s.guard0 f.g = true → s.inHandler = false → (s.core s.iss.core).ident.started = false →
        (s.mode = 0 → execDetach f s = .next (s.ask .detach)) ∧ (s.mode = 1 → execDetach f s = .next s))
    ∧ (s.guard0 f.g = true → s.inHandler = true ∨ (s.core s.iss.core).ident.started = true →
        execDetach f s = .next (s.inContext (.detach f))) := by
  refine ⟨fun h => refusedIn_always (by simp [h]), fun hg hh hs => ⟨fun h => ?_, fun h => ?_⟩, fun hg h =>
    refusedIn_guarded hg (by rcases h with h | h <;> simp [h])⟩
  all_goals
    rw [execDetach, refusedIn_goes hg (by simp [h]) (by simp [hh, hs])]
    simp [h]
theorem execSmode_refused {s : State} {f : FmtCM} (h : s.mode = 0 ∨ s.iss.ctx ≠ 0 ∨ (s.guard0 f.g = true ∧ s.inHandler = true)) :
    execSmode f s = .next (s.inContext (.smode f)) := by
  rcases h with h | h | ⟨hg, hh⟩
  · exact refusedIn_always (by simp [h])
  · exact refusedIn_always (by simp [h])
  · exact refusedIn_guarded hg hh
/-- SMODE does nothing in its own mode, waits for results and for the other contexts, and else asks for the mode (R30). -/
theorem execSmode_goes {s : State} {f : FmtCM} (hg : s.guard0 f.g = true) (hm : s.mode ≠ 0) (hx : s.iss.ctx = 0)
    (hh : s.inHandler = false) : execSmode f s = .next (if f.mode = s.mode then s
      else if !(s.ctx s.iss.core 0).earlier.isEmpty || (f.mode == 1 && !(s.core s.iss.core).othersDormant) then
        s.await 12 waitTimeout 0 (some (s.waitLimit s.iss.core))
      else s.ask (.mode f.mode)) :=
  refusedIn_goes hg (by simp [hm, hx]) hh

/-- Settles O14: one lemma says what each instruction asks for, and one where each request's boundary leads. -/
theorem modesAndNop : Obligations.ModesAndNop := by
  unfold Obligations.ModesAndNop
  refine ⟨⟨fun f s i hi => ?_, fun f s => execDetach_cases, fun f s => ⟨execSmode_refused, fun hg hm hx hh => ?_⟩,
    fun f s hg hx => ?_, fun f s hg hx => ?_, fun f s hg => congrArg Host.Outcome.next (guarded_of_true hg)⟩,
    fun s c x r => ⟨fun h => ?_, fun n h hm => ?_, State.toBoundary_settles⟩,
    fun s next => ⟨fun h => ?_, fun m h => ?_, fun n h hcap => ?_, fun h => ?_⟩,
    fun s f => ⟨rfl, congrArg Host.Outcome.next (ite_self s)⟩⟩
  · rw [exec_of_join hi]
    exact joinOp_cases
  · rw [exec_smode, execSmode_goes hg hm hx hh]
    refine ⟨fun h => by rw [if_pos h], fun h he ho => ?_, fun h he => ⟨_, rfl, ?_⟩⟩
    · rw [if_neg h, if_neg]
      rcases eq_or_ne f.mode 1 with h1 | h1 <;> simp [he, h1, ho]
    · rw [if_neg h, if_pos (by simp [he])]
      rfl
  · rw [exec_halt, execHalt, guarded_of_true hg, if_neg hx]
  · rw [exec_halt, execHalt, guarded_of_true hg, if_pos hx]
  · rw [State.toBoundary_halt h]
    obtain ⟨ha, he, hp⟩ := State.haltCtx_ctx (s := s) (c := c) (x := x)
    exact ⟨ha, he, hp, State.haltCtx_mem, fun hx => hx ▸ State.haltCtx_queue⟩
  · rw [State.toBoundary_join h]
    refine ⟨fun hq => ?_, fun hj hs hx => ?_⟩
    · rw [if_neg (by rcases hq with hq | hq <;> simp [hq])]
      exact ⟨State.joining_join, State.joining_mode.trans hm⟩
    · rw [if_pos (by simp [hj, hs]), State.turnOn_ctx, State.turnOn_core]
      obtain ⟨h1, h2, h3⟩ := State.reattach_ctx (s := s.joining c x n) (c := c) (n := (s.cluster (clusterOf c)).chord.num)
      exact ⟨h1, h3, h2⟩
  · obtain ⟨hq, hm⟩ := State.leaveStream_core (s := s.closed) (c := s.iss.core)
    rw [State.settle_detach h, State.steppedTo_ident, State.steppedTo_fetch, State.steppedTo_mem, State.leaveStream_mem]
    exact ⟨hm, hq, State.steppedTo_pc, rfl⟩
  · rw [State.settle_mode h, State.steppedTo_ident, State.steppedTo_mem]
    exact ⟨by simp, State.steppedTo_pc, rfl⟩
  · obtain ⟨u, hu, he⟩ := State.settle_trap (next := next) h
    have hc : (u.ctx s.iss.core s.iss.ctx).cap = none :=
      (congrArg (·.2.1) (hu.2.2 _ _)).trans ((State.steppedTo_cap (s := s.closed)).trans hcap)
    have hv : (u.core s.iss.core).csr = (s.core s.iss.core).csr :=
      (congrArg (·.2.1) (hu.2.1 _)).trans (State.steppedTo_csr (s := s.closed))
    rw [he, State.takeTrap_enters _ _ _ _ _ _ _ hc, State.enterHandler_ctx, State.enterHandler_ident, State.enterHandler_mem,
      hu.1.1, State.steppedTo_mem, State.resolve_samePath hu, State.resolve_steppedTo, hv]
    exact ⟨by simp, rfl, rfl, rfl, rfl, rfl⟩
  · rw [State.settle_none h, State.compareHead_mem, State.steppedTo_mem]
    exact ⟨State.compareHead_goesTo State.steppedTo_clusters State.steppedTo_inStream State.steppedTo_fetch
      State.steppedTo_pc, rfl⟩

end Sys2Proof.Machine
end

section
/-! # Records of continuations: SPAWN, SUSPEND and YIELD (O17)

`keepsIssue` follows the issue record and the cycle through a commit, so that what the control slot asked for still stands when
the boundary is reached. -/

namespace Sys2Proof.Machine

/-- The issue record and the cycle are those of an earlier state. -/
def keepsIssue (s t : State) : Prop := t.iss = s.iss ∧ t.clk.cycle = s.clk.cycle

namespace State
variable {s t : State} {c x n i d pri node now : ℕ}

theorem keepsIssue_refl : keepsIssue s s := ⟨rfl, rfl⟩
theorem keepsIssue_ite {u : State} {q : Prop} [Decidable q] (h : keepsIssue s t) (g : keepsIssue s u) :
    keepsIssue s (if q then t else u) := by
  split <;> assumption
theorem keepsIssue_foldl {α : Type} {f : State → α → State} {l : List α} (h : keepsIssue s t)
    (hf : ∀ {u a}, keepsIssue s u → keepsIssue s (f u a)) : keepsIssue s (l.foldl f t) :=
  l.foldlRecOn f (motive := fun u => keepsIssue s u) h fun _ hu _ _ => hf hu
theorem keepsIssue_addFop {f : Fop} (h : keepsIssue s t) : keepsIssue s (t.addFop i f) := by
  unfold State.addFop
  dsimp only
  split <;> exact h
theorem keepsIssue_fireTrigger {r : Trigger} (h : keepsIssue s t) : keepsIssue s (t.fireTrigger d i r) := by
  unfold State.fireTrigger
  extract_lets src b s1 net s2 after s3
  have h3 : keepsIssue s s3 := keepsIssue_ite h h
  refine keepsIssue_ite h ?_
  split
  · exact keepsIssue_ite h3 h3
  · exact keepsIssue_ite (keepsIssue_ite h h)
      (keepsIssue_ite (keepsIssue_addFop h) (keepsIssue_ite (keepsIssue_addFop h) (keepsIssue_addFop h)))
theorem keepsIssue_fireMet (h : keepsIssue s t) : keepsIssue s (t.fireMet d) :=
  keepsIssue_ite h (keepsIssue_foldl h keepsIssue_fireTrigger)
theorem keepsIssue_evalTriggers (h : keepsIssue s t) : keepsIssue s (t.evalTriggers d i) :=
  keepsIssue_ite h (keepsIssue_foldl h keepsIssue_fireTrigger)
theorem keepsIssue_arrive (h : keepsIssue s t) : keepsIssue s (t.arrive d i n) := by
  unfold State.arrive
  extract_lets a r s1
  have h1 : keepsIssue s s1 := h
  exact keepsIssue_ite (keepsIssue_evalTriggers h1) h1
theorem keepsIssue_applyArrivals (h : keepsIssue s t) : keepsIssue s (t.applyArrivals d) :=
  keepsIssue_fireMet (keepsIssue_foldl h keepsIssue_arrive)
theorem keepsIssue_sampleWaits {l : List Wait} (h : keepsIssue s t) : keepsIssue s (t.sampleWaits d i l) :=
  keepsIssue_foldl h fun hu => keepsIssue_ite (keepsIssue_foldl hu fun hw => keepsIssue_ite hw hw) hu
theorem keepsIssue_suffixEntry {off : ℕ → Bool} {e : ℕ × ℕ} (h : keepsIssue s t) :
    keepsIssue s (t.suffixEntry c x off e) := by
  unfold State.suffixEntry
  refine keepsIssue_ite h ?_
  split
  · exact h
  · exact keepsIssue_ite h h
theorem keepsIssue_writeCsr {v : Word} (h : keepsIssue s t) : keepsIssue s (t.writeCsr c x n v) := by
  unfold State.writeCsr
  extract_lets w ctx core
  split
  case h_13 => exact keepsIssue_ite h (keepsIssue_foldl h id)
  all_goals exact h
theorem keepsIssue_applyEff {e : Eff} (h : keepsIssue s t) : keepsIssue s (t.applyEff c x e) := by
  cases e with
  | bytes => exact h
  | csr => exact keepsIssue_writeCsr h
  | handleFull => exact keepsIssue_ite h h
  | handleFree => exact keepsIssue_ite h h
theorem keepsIssue_popQueue {l : List (ℕ × Instr)} (h : keepsIssue s t) : keepsIssue s (t.popQueue d n l) := by
  unfold State.popQueue
  split <;> exact h
/-- A commit reaches the boundary with the slots' requests as they were, and with the record its context forms (R46). -/
theorem commit_toBoundary {b : Bundle} : ∃ u, keepsIssue s u
    ∧ s.commit t c x b = u.toBoundary c x (s.formRecord c x s.iss.next (s.ctx c x).csr.pri) := by
  unfold State.commit
  extract_lets order off rec_ s1 s2 s3 dup l s4 s5 s6 s7 s8 words s9
  have h2 : keepsIssue s s2 := keepsIssue_sampleWaits keepsIssue_refl
  have h3 : keepsIssue s s3 := keepsIssue_foldl h2 keepsIssue_suffixEntry
  have h4 : keepsIssue s s4 := keepsIssue_foldl h3 keepsIssue_applyEff
  have ha : keepsIssue s (s4.arriveFirst c l) := keepsIssue_ite (keepsIssue_applyArrivals h4) h4
  have h5 : keepsIssue s s5 := keepsIssue_foldl (f := fun s e => s.applyEff c x e) ha keepsIssue_applyEff
  have h6 : keepsIssue s s6 := keepsIssue_ite h5 h5
  have h7 : keepsIssue s s7 := keepsIssue_ite (keepsIssue_popQueue h6) h6
  have h9 : keepsIssue s s9 := h7
  refine ⟨_, ?_, rfl⟩
  exact keepsIssue_ite h9 h9

/-! ### SPAWN and parking -/

theorem poolHold_of_room (h : s.poolSize (dieOf s.iss.core) + 1024 < 65536) : s.poolHold = s := if_pos h
theorem pushRecord_pool {r : Record} {by_ : Option ℕ} :
    ((s.pushRecord d r n now by_).die d).sched.pool
      = (s.die d).sched.pool ++ [⟨r, (s.die d).sched.poolNext, n, now, by_.map fun c => (c, s.clk.cycle)⟩] := by
  simp [State.pushRecord, State.modSched]
@[simp] theorem pushRecord_core {r : Record} {by_ : Option ℕ} : (s.pushRecord d r n now by_).core = s.core := rfl
theorem toBoundary_suspend {r : Record} {y : Bool} (h : s.iss.ctl = .suspend y) :
    s.toBoundary c x r = s.park c x r y := by
  simp only [State.toBoundary, h]
theorem park_ctx {r : Record} {y : Bool} : ((s.park c x r y).ctx c x).run.active = false ∧ ((s.park c x r y).ctx c x).pend = []
    ∧ (s.park c x r y).mem = s.mem := by
  simp only [State.park, State.modCtx_ctx, and_self, if_true, true_and]
  rfl

end State

theorem exec_spawn (f : FmtCS) (s : State) : exec (.spawn f) s = execSpawn f s := rfl
/-- SPAWN with room in the pool: a record at its end (R46, R186). -/
theorem execSpawn_pushes {f : FmtCS} {s : State} (hg : s.guard0 f.g = true) (hv : (s.readS f.s).toNat < 2 ^ 24)
    (he : (s.readS f.s).toNat % 2 = 0) (hp : s.poolSize (dieOf s.iss.core) + 1024 < 65536) :
    execSpawn f s = .next (s.pushRecord (dieOf s.iss.core)
      (s.formRecord s.iss.core s.iss.ctx (s.readS f.s).toNat f.pri) 0 0 (some s.iss.core)) := by
  rw [execSpawn, guarded_of_true hg, if_neg (by omega), if_neg (by omega), State.poolHold_of_room hp]
theorem exec_of_park {f : FmtCN} {s : State} {p : Instr × Bool} (hp : p ∈ [(Instr.suspend f, false), (Instr.yield f, true)]) :
    exec p.1 s = parkOp s p.1 f.g p.2 := by
  simp only [List.mem_cons, List.not_mem_nil, or_false] at hp
  rcases hp with rfl | rfl <;> rfl

/-- Settles O17: SPAWN's record and a parked context's are pushed at the pool's end, the latter from the request that the
commit carries to the boundary. -/
theorem spawnAndPark : Obligations.SpawnAndPark := by
  unfold Obligations.SpawnAndPark
  refine ⟨fun f s hg => ⟨fun hv he hp => ?_, fun hv => ?_, fun hv he => ?_⟩, fun f s p hp => ⟨fun hx => ?_, fun hg hx hr hroom => ?_⟩,
    fun s t c x b y h => ?_, fun s c x r y h => ?_⟩
  · rw [exec_spawn, execSpawn_pushes hg hv he hp]
    exact ⟨_, _, rfl, rfl, rfl, State.pushRecord_pool, Nat.mod_eq_of_lt hv, rfl, rfl, rfl, rfl⟩
  · rw [exec_spawn, execSpawn, guarded_of_true hg, if_pos hv]
  · rw [exec_spawn, execSpawn, guarded_of_true hg, if_neg (by omega), if_pos he]
  · rw [exec_of_park hp]
    exact refusedIn_always (by simp [hx])
  · rw [exec_of_park hp, parkOp, refusedIn_goes hg (by simp [hx]) rfl]
    simp only [hr, List.isEmpty_nil, if_true, State.poolHold_of_room hroom]
  · obtain ⟨u, ⟨hiss, hcycle⟩, he⟩ := State.commit_toBoundary (s := s) (t := t) (c := c) (x := x) (b := b)
    exact ⟨u, _, he, hiss ▸ h, hcycle, rfl, rfl, rfl, rfl, rfl⟩
  · rw [State.toBoundary_suspend h]
    obtain ⟨ha, hp, hm⟩ := State.park_ctx (s := s) (c := c) (x := x) (r := r) (y := y)
    refine ⟨ha, hp, hm, _, State.pushRecord_pool, rfl, fun hy => ?_, fun hy => ?_⟩
    · rw [hy]; rfl
    · rw [hy]; exact ⟨rfl, rfl⟩

end Sys2Proof.Machine
end

section
/-! # SYNC and its generations (O18) -/

namespace Sys2Proof.Machine

/-! ### Folds over cores and numbers -/

theorem State.foldl_modCore_core {f : Core → Core} (hf : ∀ k, f (f k) = f k) (l : List ℕ) (s : State) (c : ℕ) :
    (l.foldl (fun s e => s.modCore e f) s).core c = if c ∈ l then f (s.core c) else s.core c := by
  induction l generalizing s with
  | nil => rfl
  | cons e l ih =>
    rw [List.foldl_cons, ih, State.modCore_core]
    rcases eq_or_ne c e with rfl | hc
    · simp [hf]
    · simp [hc]
theorem foldl_max_le {α : Type} (g : α → ℕ) (l : List α) (d : ℕ) :
    d ≤ l.foldl (fun t c => max t (g c)) d ∧ ∀ c ∈ l, g c ≤ l.foldl (fun t c => max t (g c)) d := by
  induction l generalizing d with
  | nil => exact ⟨le_rfl, nofun⟩
  | cons e l ih =>
    obtain ⟨hd, hl⟩ := ih (max d (g e))
    refine ⟨(le_max_left ..).trans hd, fun c hc => ?_⟩
    rcases List.mem_cons.mp hc with rfl | hc
    · exact (le_max_right ..).trans hd
    · exact hl c hc
theorem foldl_max_mem {α : Type} (g : α → ℕ) (l : List α) (d : ℕ) :
    l.foldl (fun t c => max t (g c)) d = d ∨ ∃ c ∈ l, l.foldl (fun t c => max t (g c)) d = g c := by
  induction l generalizing d with
  | nil => exact .inl rfl
  | cons e l ih =>
    rcases ih (max d (g e)) with h | ⟨c, hc, h⟩
    · rcases max_choice d (g e) with hm | hm
      · exact .inl (h.trans hm)
      · exact .inr ⟨e, .head _, h.trans hm⟩
    · exact .inr ⟨c, .tail _ hc, h⟩

/-! ### The instructions -/

theorem exec_sync (f : FmtCN) (s : State) : exec (.sync f) s = execSync f s := rfl
theorem exec_syncj (f : FmtCN) (s : State) : exec (.syncj f) s = execSyncj f s := rfl
theorem exec_syncl (f : FmtCN) (s : State) : exec (.syncl f) s = execSyncl f s := rfl
theorem exec_syncGenerationComplete (s : State) : exec .syncGenerationComplete s = execSyncGenerationComplete s := rfl

section
variable {f : FmtCN} {s : State} {i : Instr}

/-- What each of the three does where it is not refused. -/
theorem execSync_goes (hg : s.guard0 f.g = true) (hx : s.iss.ctx = 0) (hh : s.inHandler = false) :
    execSync f s = .next (
      let c := s.iss.core
      let k := (s.core c).sync
      if (s.core c).ident.started || (!k.member && !k.pendJ) then s
      else if k.go.any fun t => decide (t ≤ s.time (pkgOf c)) then
        s.modCore c fun q => { q with sync := { q.sync with arrived := none, go := none } }
      else (s.modIss fun i => { i with syncs := true }).await 11 waitTimeout 0 (some (s.waitLimit c))) :=
  refusedIn_goes hg (by simp [hx]) hh
theorem execSyncj_goes (hg : s.guard0 f.g = true) (hx : s.iss.ctx = 0) (hh : s.inHandler = false) :
    execSyncj f s = .next (
      let c := s.iss.core
      if (s.core c).ident.started || (s.core c).sync.member then s
      else if s.syncOpen c then s.modCore c fun q => { q with sync := { q.sync with pendJ := true } }
      else s.modCore c fun q => { q with sync := { q.sync with member := true } }) :=
  refusedIn_goes hg (by simp [hx]) hh
theorem execSyncl_goes (hg : s.guard0 f.g = true) (hx : s.iss.ctx = 0) (hh : s.inHandler = false) :
    execSyncl f s = .next (if (s.core s.iss.core).ident.started then s else s.leaveSync s.iss.core) :=
  refusedIn_goes hg (by simp [hx]) hh
theorem exec_sync_refused (hi : i ∈ [Instr.sync f, .syncj f, .syncl f])
    (h : s.iss.ctx ≠ 0 ∨ (s.guard0 f.g = true ∧ s.inHandler = true)) : exec i s = .next (s.inContext i) := by
  have key {k : State → State} : refusedIn s i f.g (s.iss.ctx != 0) s.inHandler k = .next (s.inContext i) := by
    rcases h with h | ⟨hg, hh⟩
    · exact refusedIn_always (by simp [h])
    · exact refusedIn_guarded hg hh
  simp only [List.mem_cons, List.not_mem_nil, or_false] at hi
  rcases hi with rfl | rfl | rfl <;> exact key
theorem exec_sync_started (hi : i ∈ [Instr.sync f, .syncj f, .syncl f]) (hg : s.guard0 f.g = true) (hx : s.iss.ctx = 0)
    (hh : s.inHandler = false) (hs : (s.core s.iss.core).ident.started = true) : exec i s = .next s := by
  simp only [List.mem_cons, List.not_mem_nil, or_false] at hi
  rcases hi with rfl | rfl | rfl
  · rw [exec_sync, execSync_goes hg hx hh]; simp [hs]
  · rw [exec_syncj, execSyncj_goes hg hx hh]; simp [hs]
  · rw [exec_syncl, execSyncl_goes hg hx hh]; simp [hs]
theorem leaveSync_member (c : ℕ) : ((s.leaveSync c).core c).sync.member = false := by
  unfold State.leaveSync
  extract_lets s1
  have h1 : (s1.core c).sync.member = false := by simp [s1]
  split
  · split
    · exact h1
    · exact h1
  · next h => exact Bool.eq_false_iff.mpr h
end

/-! ### A generation -/

/-- A member of a complete generation is told when to issue. -/
def Core.told (n : ℕ) (k : Core) : Core := { k with sync := { k.sync with arrived := none, go := some n } }
/-- A core whose SYNCJ was pending is a member. -/
def Core.joins (k : Core) : Core := { k with sync := { k.sync with member := true, pendJ := false } }
/-- The TIME at which the members of a generation issue, for the arrivals in state s (R42). -/
def State.resumeAt (s : State) (p l : ℕ) : ℕ :=
  ((s.domainCores p l).filter fun c => (s.core c).sync.member).foldl
    (fun t c => max t ((s.core c).sync.arrived.getD 0)) (Tab.get ⟨0, false, 0⟩ (s.pkg p).domains l).removed + 8

section
variable {s : State} {p l c : ℕ}

/-- A complete generation: every member is told the TIME, then the pending SYNCJs are made. -/
theorem execSyncGenerationComplete_core (ha : s.clk.args = [p, l])
    (ho : (Tab.get ⟨0, false, 0⟩ (s.pkg p).domains l).isOpen = true)
    (hm : ∀ c ∈ s.domainCores p l, (s.core c).sync.member = true → (s.core c).sync.arrived.isSome = true) :
    ∃ t, exec .syncGenerationComplete s = .next t ∧ ∀ c ∈ s.domainCores p l,
      let k := if (s.core c).sync.member then (s.core c).told (s.resumeAt p l) else s.core c
      t.core c = if (s.core c).sync.pendJ then k.joins else k := by
  rw [exec_syncGenerationComplete, execSyncGenerationComplete]
  have h0 : s.arg 0 = p := by simp [State.arg, ha]
  have h1 : s.arg 1 = l := by simp [State.arg, ha]
  rw [h0, h1]
  extract_lets cores members d t s1 joining s2
  have hall : d.isOpen && members.all (fun c => (s.core c).sync.arrived.isSome) := by
    simp only [Bool.and_eq_true, List.all_eq_true]
    exact ⟨ho, fun c hc => hm c (List.mem_filter.mp hc).1 (List.mem_filter.mp hc).2⟩
  refine ⟨_, congrArg _ (if_pos hall), fun c hc => ?_⟩
  have hs1 : s1.core c = if (s.core c).sync.member then (s.core c).told (s.resumeAt p l) else s.core c := by
    rw [show s1.core c = _ from State.foldl_modCore_core (f := Core.told (s.resumeAt p l)) (fun _ => rfl) members s c]
    simp only [members, List.mem_filter, cores, hc, true_and]
  have hp : (s1.core c).sync.pendJ = (s.core c).sync.pendJ := by rw [hs1]; split <;> rfl
  have hs2 : s2.core c = if (s.core c).sync.pendJ then (s1.core c).joins else s1.core c := by
    rw [show s2.core c = _ from State.foldl_modCore_core (f := Core.joins) (fun _ => rfl) joining s1 c]
    simp only [joining, List.mem_filter, cores, hc, true_and, hp]
  rw [← hs1]
  exact hs2
/-- The common TIME is 8 ticks after the latest arrival or removal. -/
theorem resumeAt_spec : (∀ c ∈ s.domainCores p l, (s.core c).sync.member = true → ∀ a, (s.core c).sync.arrived = some a →
      a + 8 ≤ s.resumeAt p l)
    ∧ (Tab.get ⟨0, false, 0⟩ (s.pkg p).domains l).removed + 8 ≤ s.resumeAt p l := by
  obtain ⟨hd, hl⟩ := foldl_max_le (fun c => (s.core c).sync.arrived.getD 0)
    ((s.domainCores p l).filter fun c => (s.core c).sync.member) (Tab.get ⟨0, false, 0⟩ (s.pkg p).domains l).removed
  refine ⟨fun c hc hm a ha => Nat.add_le_add_right ?_ 8, Nat.add_le_add_right hd 8⟩
  simpa [ha] using hl c (List.mem_filter.mpr ⟨hc, hm⟩)
theorem resumeAt_attained
    (hm : ∀ c ∈ s.domainCores p l, (s.core c).sync.member = true → (s.core c).sync.arrived.isSome = true) :
    s.resumeAt p l = (Tab.get ⟨0, false, 0⟩ (s.pkg p).domains l).removed + 8
      ∨ ∃ c ∈ s.domainCores p l, (s.core c).sync.member = true ∧ ∃ a, (s.core c).sync.arrived = some a
        ∧ s.resumeAt p l = a + 8 := by
  rcases foldl_max_mem (fun c => (s.core c).sync.arrived.getD 0)
    ((s.domainCores p l).filter fun c => (s.core c).sync.member) (Tab.get ⟨0, false, 0⟩ (s.pkg p).domains l).removed
    with h | ⟨c, hc, h⟩
  · exact .inl (congrArg (· + 8) h)
  · obtain ⟨hc, hmem⟩ := List.mem_filter.mp hc
    obtain ⟨a, ha⟩ := Option.isSome_iff_exists.mp (hm c hc hmem)
    refine .inr ⟨c, hc, hmem, a, ha, congrArg (· + 8) (h.trans ?_)⟩
    simp [ha]
end

/-- Settles O18: the three instructions by their cases, and a complete generation by what it makes of each core. -/
theorem syncGenerations : Obligations.SyncGenerations := by
  unfold Obligations.SyncGenerations
  refine ⟨fun f s => ⟨fun i hi => ⟨exec_sync_refused hi, exec_sync_started hi⟩, fun hg hx hh hs => ?_⟩, fun s p l ha ho hm => ?_⟩
  · rw [exec_sync, exec_syncj, exec_syncl, execSync_goes hg hx hh, execSyncj_goes hg hx hh, execSyncl_goes hg hx hh]
    refine ⟨fun hn hp => ?_, fun hn t ht hle => ⟨_, rfl, ?_⟩, fun hn hgo => ⟨_, rfl, ?_⟩, fun hn ho => ⟨_, rfl, ?_⟩,
      fun hn ho => ⟨_, rfl, ?_⟩, ⟨_, rfl, ?_⟩⟩
    · simp [hn, hp]
    · simp [hs, hn, ht, hle]
    · simp only [hs, hn, hgo, Bool.not_true, Bool.false_and, Bool.or_self, Bool.false_eq_true, if_false, Option.any_none]
      exact ⟨rfl, rfl⟩
    · simp [hs, hn, ho]
    · simp [hs, hn, ho]
    · simp only [hs, Bool.false_eq_true, if_false]
      exact leaveSync_member _
  · obtain ⟨t, ht, hcore⟩ := execSyncGenerationComplete_core ha ho hm
    obtain ⟨hle, hrem⟩ := resumeAt_spec (s := s) (p := p) (l := l)
    refine ⟨t, s.resumeAt p l, ht, fun c hc hmem => ?_, hrem, resumeAt_attained hm, fun c hc hp => ?_⟩
    · rw [hcore c hc, if_pos hmem]
      refine ⟨?_, ?_, hle c hc hmem⟩ <;> split
      · rfl
      · rfl
      · rfl
      · exact hmem
    · rw [hcore c hc, if_pos hp]
      exact ⟨rfl, rfl⟩

end Sys2Proof.Machine
end

section
/-! # Which dormant context takes which record or arrival (O23) -/

namespace Sys2Proof.Machine

/-! ### A context that starts -/

section
variable {k : Ctx} {n : ℕ} {regs : List Word}

/-- The scalar registers of a context that starts with seven words (R47). -/
theorem Ctx.readS_of_started (h : k.s = (List.range 7).foldl (fun t i => Tab.set t (i + 1) (regs.getD i 0)) []) :
    k.readS n = if 1 ≤ n ∧ n ≤ 7 then regs.getD (n - 1) 0 else 0 := by
  have hget : Tab.get 0 k.s n = if 1 ≤ n ∧ n ≤ 7 then regs.getD (n - 1) 0 else 0 := by
    rw [h]
    simp only [List.range_succ, List.range_zero, List.nil_append, List.cons_append, List.foldl_cons, List.foldl_nil,
      Tab.get_set, Tab.get]
    by_cases hn : 1 ≤ n ∧ n ≤ 7
    · obtain ⟨h1, h7⟩ := hn
      interval_cases n <;> rfl
    · rw [if_neg hn]
      repeat rw [if_neg (by omega)]
  unfold Ctx.readS
  split
  · next h0 => rw [if_neg (by omega)]
  · exact hget
theorem Tab.get_filter_of_not {α : Type} (d : α) (t : Tab α) {f : ℕ × α → Bool} (hf : ∀ v, f (n, v) = false) :
    Tab.get d (t.filter f) n = d := by
  induction t with
  | nil => rfl
  | cons e t ih =>
    obtain ⟨i, v⟩ := e
    rw [List.filter_cons]
    split
    · next h =>
      rw [Tab.get, if_neg (by rintro rfl; exact absurd (h.symm.trans (hf v)) (by simp)), ih]
    · exact ih
/-- Its predicates p1 to p7 are cleared (R47). -/
theorem Ctx.readP_of_started {t : Tab PVal} (h : k.p = t.filter fun e => decide (8 ≤ e.1)) (h1 : 1 ≤ n) (h7 : n ≤ 7) :
    k.readP n = ⟨0, true⟩ := by
  rw [Ctx.readP, if_neg (by omega), h]
  exact Tab.get_filter_of_not _ _ fun _ => decide_eq_false (by omega)
end

/-! ### One context takes -/

namespace State
variable {s : State} {c x y : ℕ}

theorem takeOne_idle (h : (s.core c).dormant x = false) : s.takeOne c x = s := by
  rw [State.takeOne, if_pos (by simp [h])]
theorem takeOne_mem : (s.takeOne c x).mem = s.mem := by
  unfold State.takeOne
  extract_lets k pool
  split
  · rfl
  · split
    · rfl
    · split <;> rfl
/-- Another context of the core stays as it is. -/
theorem takeOne_other (h : x ≠ y) : (s.takeOne c y).ctx c x = s.ctx c x := by
  have key (t : State) (f) : (t.modCtx c y f).ctx c x = t.ctx c x := by simp [h]
  unfold State.takeOne
  extract_lets k pool
  split
  · rfl
  split
  · rw [key, modCore_ctx_of]
    exact fun _ => rfl
  · split
    · rfl
    · rw [key]; rfl
theorem takeOne_arrival {a : Arrival} {l : List Arrival} (hd : (s.core c).dormant x = true) (hq : (s.core c).arrq = a :: l) :
    (s.takeOne c x).ctx c x = (s.ctx c x).start a.pc [BitVec.ofNat 64 a.off, a.cookie] 0 0 s.clk.cycle := by
  rw [State.takeOne, if_neg (by simp [hd])]
  simp only [hq, modCtx_ctx, and_self, if_true]
  rw [modCore_ctx_of]
  exacts [rfl, fun _ => rfl]
/-- The record that a core's contexts take next: the oldest of its node with priority 1, or else with 0 (R49). -/
def nextRecord (s : State) (c : ℕ) : Option PoolRec :=
  firstSome [findRecord (s.die (dieOf c)).sched.pool (s.core c).ident.node 1 c s.clk.cycle,
    findRecord (s.die (dieOf c)).sched.pool (s.core c).ident.node 0 c s.clk.cycle]
theorem takeOne_record {e : PoolRec} (hd : (s.core c).dormant x = true) (hq : (s.core c).arrq = [])
    (he : s.nextRecord c = some e) : ∃ n, (s.takeOne c x).ctx c x =
      (let t := (s.ctx c x).start e.r.pc [e.r.s1, e.r.s2, e.r.s3, e.r.s4, e.r.s5, e.r.s6, e.r.s7] e.r.group e.r.pri s.clk.cycle
       { t with run := { t.run with tookAt := n } }) := by
  rw [State.takeOne, if_neg (by simp [hd])]
  unfold State.nextRecord at he
  simp only [hq, he, modCtx_ctx, and_self, if_true]
  exact ⟨_, rfl⟩
/-- The dormant contexts take in increasing number: the lowest as if it were alone. -/
theorem foldl_takeOne (h1 : 1 ≤ x) (h15 : x ≤ 15) (hlow : ∀ y, 1 ≤ y → y < x → (s.core c).dormant y = false) :
    let t := (List.range 15).foldl (fun s i => s.takeOne c (i + 1)) s
    t.ctx c x = (s.takeOne c x).ctx c x ∧ t.mem = s.mem := by
  obtain ⟨a, b, hl⟩ := List.append_of_mem (List.mem_range.mpr (show x - 1 < 15 by omega))
  have hp := List.pairwise_lt_range (n := 15)
  rw [hl, List.pairwise_append, List.pairwise_cons] at hp
  obtain ⟨-, ⟨hb, -⟩, ha⟩ := hp
  have hidle : a.foldl (fun s i => s.takeOne c (i + 1)) s = s :=
    a.foldlRecOn _ (motive := fun t : State => t = s) rfl fun t ht i hi => by
      have hi := ha i hi (x - 1) (.head _)
      rw [ht]
      exact takeOne_idle (hlow (i + 1) (by omega) (by omega))
  have hrest (u : State) : (b.foldl (fun s i => s.takeOne c (i + 1)) u).ctx c x = u.ctx c x
      ∧ (b.foldl (fun s i => s.takeOne c (i + 1)) u).mem = u.mem :=
    b.foldlRecOn _ (motive := fun t : State => t.ctx c x = u.ctx c x ∧ t.mem = u.mem) ⟨rfl, rfl⟩ fun t ht i hi => by
      have hi := hb i hi
      exact ⟨(takeOne_other (by omega)).trans ht.1, takeOne_mem.trans ht.2⟩
  intro t
  have ht : t = b.foldl (fun s i => s.takeOne c (i + 1)) (s.takeOne c x) := by
    simp only [t, hl, List.foldl_append, hidle, List.foldl_cons, Nat.sub_add_cancel h1]
  rw [ht]
  exact ⟨(hrest _).1, (hrest _).2.trans takeOne_mem⟩

/-! ### An arrival that the queue turned away -/

/-- What sampling a completed operation and its leaving do not touch. -/
theorem sample_frame {die part src v : ℕ} {cl : Option ℕ} : (s.sample die part src cl v).core = s.core
    ∧ (s.sample die part src cl v).net = s.net ∧ ∀ d, ((s.sample die part src cl v).die d).sched = (s.die d).sched :=
  (List.range 16).foldlRecOn _ (motive := fun t : State => t.core = s.core ∧ t.net = s.net
      ∧ ∀ d, (t.die d).sched = (s.die d).sched) ⟨rfl, rfl, fun _ => rfl⟩ fun t ht m _ => by
    split
    · refine ⟨ht.1, ht.2.1, fun d => ?_⟩
      rw [modDie_die, ← ht.2.2 d]
      split
      · next hd => rw [hd]
      · rfl
    · exact ht
theorem dropFop_frame {op : ℕ} {b : Issuer} : (∀ d, ((s.dropFop op b).core d).overflow = (s.core d).overflow)
    ∧ (s.dropFop op b).net.live = s.net.live ∧ (s.dropFop op b).fop op = none ∧ (s.dropFop op b).die = s.die := by
  have hf : Tab.find (Tab.del s.net.fops op) op = none := Tab.find_del_self
  unfold State.dropFop
  dsimp only
  split
  · refine ⟨fun d => ?_, rfl, hf, rfl⟩
    rw [modCore_core]
    split
    · next hd => rw [hd]; rfl
    · rfl
  · exact ⟨fun _ => rfl, rfl, hf, rfl⟩
theorem endFop_frame {op : ℕ} {f : Fop} : (∀ d, ((s.endFop op f).core d).overflow = (s.core d).overflow)
    ∧ completed (s.endFop op f) op ∧ ∀ d, ((s.endFop op f).die d).sched = (s.die d).sched := by
  unfold State.endFop State.closeFop
  extract_lets u
  have hu : u.core = s.core ∧ u.net = (s.endOp op).net ∧ ∀ d, (u.die d).sched = (s.die d).sched := by
    unfold u
    split
    · exact sample_frame
    · exact ⟨rfl, rfl, fun _ => rfl⟩
  obtain ⟨hcore, hnet, hdie⟩ := hu
  obtain ⟨hover, hlive, hfop, hdies⟩ := dropFop_frame (s := u) (op := op) (b := f.by_)
  refine ⟨fun d => (hover d).trans (by rw [hcore]), ⟨hfop, ?_⟩, fun d => by rw [hdies, hdie]⟩
  rw [hlive, hnet]
  simp [State.endOp]

end State

theorem exec_takeRecord (s : State) : exec .takeRecord s = execTakeRecord s := rfl
theorem exec_arrivalOverflowPush (s : State) : exec .arrivalOverflowPush s = execArrivalOverflowPush s := rfl

/-- Settles O23: the lowest dormant context takes as if alone, and starts from what it took. -/
theorem recordsTaken : Obligations.RecordsTaken := by
  unfold Obligations.RecordsTaken
  refine ⟨fun s c x ha ht h1 h15 hd hlow => ?_, fun s c op a l ha ho hroom => ?_⟩
  · have hexec : exec .takeRecord s = .next ((List.range 15).foldl (fun s i => s.takeOne c (i + 1)) s) := by
      rw [exec_takeRecord, execTakeRecord, show s.arg 0 = c by simp [State.arg, ha]]
      exact congrArg _ (if_pos ht)
    obtain ⟨hctx, hmem⟩ := State.foldl_takeOne h1 h15 hlow
    refine ⟨fun a l hq => ⟨_, hexec, ?_⟩, fun e hq he => ⟨_, hexec, ?_⟩⟩
    · rw [hctx, State.takeOne_arrival hd hq, hmem, Ctx.readS_of_started rfl, Ctx.readS_of_started rfl,
        Ctx.readS_of_started rfl]
      exact ⟨rfl, rfl, rfl, rfl, rfl, rfl⟩
    · have hnext : s.nextRecord c = some e := by
        rcases he with he | ⟨hn, he⟩
        · simp only [State.nextRecord, he, firstSome]
        · simp only [State.nextRecord, hn, he, firstSome]
      obtain ⟨n, hn⟩ := State.takeOne_record hd hq hnext
      have hread (m : ℕ) : ((s.takeOne c x).ctx c x).readS m = if 1 ≤ m ∧ m ≤ 7 then
          [e.r.s1, e.r.s2, e.r.s3, e.r.s4, e.r.s5, e.r.s6, e.r.s7].getD (m - 1) 0 else 0 := by
        rw [hn]
        exact Ctx.readS_of_started rfl
      rw [hctx, hmem]
      refine ⟨by rw [hn]; rfl, by rw [hn]; rfl, by simp [hread], by rw [hn]; rfl, by rw [hn]; rfl, rfl,
        fun m hm => by rw [hread, if_neg (by omega)], ?_⟩
      rw [hn]
      exact ⟨fun m => Ctx.readP_of_started rfl, rfl, rfl, fun _ => rfl⟩
  · obtain ⟨u, hu, hcore, hpool, hfop⟩ : ∃ u : State, exec .arrivalOverflowPush s = .next ((u.fop op).elim u (u.endFop op))
        ∧ (u.core c).overflow = l ∧ (∃ e, (u.die (dieOf c)).sched.pool = (s.die (dieOf c)).sched.pool ++ [e] ∧ e.r.pc = a.pc
          ∧ e.r.s1 = BitVec.ofNat 64 a.off ∧ e.r.s2 = a.cookie ∧ e.r.node = (s.core c).ident.node) ∧ u.fop op = s.fop op := by
      rw [exec_arrivalOverflowPush, execArrivalOverflowPush, show s.arg 0 = c by simp [State.arg, ha]]
      simp only [ho, hroom, if_true]
      refine ⟨_, rfl, ?_, ⟨_, State.pushRecord_pool, rfl, rfl, rfl, ?_⟩, rfl⟩
      · simp
      · simp
    obtain ⟨e, hpool, hrec⟩ := hpool
    rw [hu]
    cases hop : s.fop op with
    | none =>
      rw [hfop, hop]
      exact ⟨u, e, rfl, hcore, hpool, hrec.1, hrec.2.1, hrec.2.2.1, hrec.2.2.2, nofun⟩
    | some f =>
      obtain ⟨hover, hdone, hsched⟩ := State.endFop_frame (s := u) (op := op) (f := f)
      rw [hfop, hop]
      refine ⟨u.endFop op f, e, rfl, (hover c).trans hcore, ?_, hrec.1, hrec.2.1, hrec.2.2.1, hrec.2.2.2, fun _ _ => hdone⟩
      rw [hsched, hpool]

end Sys2Proof.Machine
end

section
/-! # Results that become visible (O21)

The results that mature at a boundary are written in the order of R139, which is a permutation of them sorted by bundle and slot;
a register then holds what the last one that names it wrote. -/

namespace Sys2Proof.Machine

/-! ### The order of R139 -/

theorem resultBefore_iff {a b : Result} :
    resultBefore a b = true ↔ a.order < b.order ∨ (a.order = b.order ∧ a.slot ≤ b.slot) := by
  simp [resultBefore]
theorem insertResult_perm (r : Result) (l : List Result) : (insertResult r l).Perm (r :: l) := by
  induction l with
  | nil => exact .refl _
  | cons q l ih =>
    unfold insertResult
    split
    · exact (ih.cons q).trans (.swap ..)
    · exact .refl _
theorem sortResults_perm (l : List Result) : (sortResults l).Perm l := by
  suffices h : ∀ acc, (l.foldl (fun acc r => insertResult r acc) acc).Perm (acc ++ l) from h []
  induction l with
  | nil => simp
  | cons r l ih =>
    intro acc
    exact (ih _).trans (((insertResult_perm r acc).append_right l).trans (List.perm_middle.symm))
theorem insertResult_pairwise (r : Result) (l : List Result) (h : l.Pairwise fun a b => resultBefore a b = true) :
    (insertResult r l).Pairwise fun a b => resultBefore a b = true := by
  induction l with
  | nil => simp [insertResult]
  | cons q l ih =>
    obtain ⟨hq, hl⟩ := List.pairwise_cons.mp h
    unfold insertResult
    split
    · next hqr =>
      refine List.pairwise_cons.mpr ⟨fun e he => ?_, ih hl⟩
      rcases List.mem_cons.mp ((insertResult_perm r l).mem_iff.mp he) with rfl | he
      · exact hqr
      · exact hq e he
    · next hqr =>
      have hrq : resultBefore r q = true := by rw [resultBefore_iff] at hqr ⊢; omega
      refine List.pairwise_cons.mpr ⟨fun e he => ?_, h⟩
      rcases List.mem_cons.mp he with rfl | he
      · exact hrq
      · have hqe := hq e he
        rw [resultBefore_iff] at hrq hqe ⊢
        omega
theorem sortResults_pairwise (l : List Result) : (sortResults l).Pairwise fun a b => resultBefore a b = true :=
  l.foldlRecOn _ (motive := fun acc : List Result => acc.Pairwise fun a b => resultBefore a b = true) .nil
    fun acc h r _ => insertResult_pairwise r acc h
/-- Where a list's one element stands among the sorted ones: those after it are not before it by R139. -/
theorem sortResults_split {a b : List Result} {r : Result} : ∃ u v, sortResults (a ++ r :: b) = u ++ r :: v
    ∧ (∀ q, q ∈ u ∨ q ∈ v → q ∈ a ++ b) ∧ ∀ q ∈ v, resultBefore r q = true := by
  have hperm := sortResults_perm (a ++ r :: b)
  obtain ⟨u, v, huv⟩ := List.append_of_mem (hperm.mem_iff.mpr (List.mem_append_right a (.head b)))
  have hrest : (u ++ v).Perm (a ++ b) := by
    rw [huv] at hperm
    exact (List.perm_cons r).mp (List.perm_middle.symm.trans (hperm.trans List.perm_middle))
  refine ⟨u, v, huv, fun q hq => hrest.mem_iff.mp (List.mem_append.mpr hq), ?_⟩
  have hp := sortResults_pairwise (a ++ r :: b)
  rw [huv, List.pairwise_append, List.pairwise_cons] at hp
  exact hp.2.1.1
theorem collides_of_two {g : RegName} {l : List Result} (hg : writesReg g = true)
    (h : 2 ≤ l.countP fun r => r.reg == g) : collides l = true := by
  induction l with
  | nil => simp at h
  | cons r l ih =>
    rw [collides, Bool.or_eq_true]
    rcases eq_or_ne r.reg g with hr | hr
    · rw [List.countP_cons_of_pos (by simp [hr])] at h
      obtain ⟨q, hq, hqg⟩ := List.countP_pos_iff.mp (show 0 < l.countP fun r => r.reg == g by omega)
      refine .inl ?_
      rw [hr, hg, Bool.true_and, List.any_eq_true]
      exact ⟨q, hq, hqg⟩
    · rw [List.countP_cons_of_neg (by simp [hr])] at h
      exact .inr (ih h)

/-! ### Lanes -/

theorem ofLanes_lt (l : List (BitVec 32)) : ofLanes l < 2 ^ (32 * l.length) := by
  induction l with
  | nil => simp [ofLanes]
  | cons b l ih =>
    have hb := b.isLt
    rw [ofLanes, List.length_cons, Nat.mul_succ, Nat.pow_add]
    have : ofLanes l + 1 ≤ 2 ^ (32 * l.length) := ih
    nlinarith
theorem ofLanes_div (l : List (BitVec 32)) (i : ℕ) : ofLanes l / 2 ^ (32 * i) % 2 ^ 32 = (l.getD i 0).toNat := by
  induction l generalizing i with
  | nil => simp [ofLanes]
  | cons b l ih =>
    have hb := b.isLt
    cases i with
    | zero => simp only [ofLanes, Nat.mul_zero, pow_zero, Nat.div_one, List.getD_cons_zero]; omega
    | succ i =>
      rw [List.getD_cons_succ, ← ih i, Nat.mul_succ, Nat.add_comm (32 * i), Nat.pow_add, ← Nat.div_div_eq_div_mul]
      congr 2
      rw [ofLanes]
      omega
theorem lane_mergeLanes (old new : VecWord) (mask : BitVec 64) {i : ℕ} (hi : i < 64) :
    lane (mergeLanes old new mask) i = if mask.getLsbD i then lane new i else lane old i := by
  unfold mergeLanes
  split
  · next h => rw [h, if_pos (BitVec.getLsbD_allOnes.trans (decide_eq_true hi))]
  · have hlt := ofLanes_lt ((List.range 64).map fun i => if mask.getLsbD i then lane new i else lane old i)
    have hdiv := ofLanes_div ((List.range 64).map fun i => if mask.getLsbD i then lane new i else lane old i) i
    simp only [List.length_map, List.length_range, Nat.reduceMul] at hlt
    apply BitVec.eq_of_toNat_eq
    rw [lane, BitVec.toNat_ofNat, BitVec.toNat_ofNat, Nat.mod_eq_of_lt hlt, hdiv]
    simp [List.getD_eq_getElem?_getD, hi]

/-! ### One result written, and a list of them -/

section
variable {k : Core} {x n : ℕ} {r : Result}

theorem applyReg_readS_of_ne (h : r.reg ≠ .s n) : ((applyReg k x r).ctx x).readS n = (k.ctx x).readS n := by
  unfold applyReg
  split
  · next m hm =>
    have hmn : n ≠ m := by rintro rfl; exact h hm
    simp [Core.ctx, Ctx.readS_writeS, hmn]
  · next m hm =>
    simp only [Core.ctx, Tab.get_upd, if_true, Ctx.writeP]
    split <;> rfl
  all_goals rfl
theorem applyReg_readP_of_ne (h : r.reg ≠ .p n) : ((applyReg k x r).ctx x).readP n = (k.ctx x).readP n := by
  unfold applyReg
  split
  · next m hm =>
    simp only [Core.ctx, Tab.get_upd, if_true, Ctx.writeS]
    split <;> rfl
  · next m hm =>
    have hmn : n ≠ m := by rintro rfl; exact h hm
    simp [Core.ctx, Ctx.readP_writeP, hmn]
  all_goals rfl
theorem applyReg_v_of_ne (h : r.reg ≠ .v n) : Tab.get 0 (applyReg k x r).v n = Tab.get 0 k.v n := by
  unfold applyReg
  split
  case h_3 m hm =>
    have hmn : n ≠ m := by rintro rfl; exact h hm
    simp [hmn]
  all_goals rfl
theorem applyReg_m_of_ne (h : r.reg ≠ .m n) : Tab.get 0 (applyReg k x r).m n = Tab.get 0 k.m n := by
  unfold applyReg
  split
  case h_4 m hm =>
    have hmn : n ≠ m := by rintro rfl; exact h hm
    simp [hmn]
  all_goals rfl
theorem applyReg_readS (h : r.reg = .s n) (hn : n ≠ 0) : ((applyReg k x r).ctx x).readS n = r.val.setWidth 64 := by
  simp [applyReg, h, Core.ctx, Ctx.readS_writeS, hn]
theorem applyReg_readP (h : r.reg = .p n) (hn : n ≠ 0) :
    ((applyReg k x r).ctx x).readP n = ⟨r.val.setWidth 64, uniform (r.val.setWidth 64)⟩ := by
  simp [applyReg, h, Core.ctx, Ctx.readP_writeP, hn]
theorem applyReg_v (h : r.reg = .v n) : Tab.get 0 (applyReg k x r).v n = mergeLanes (Tab.get 0 k.v n) r.val r.mask := by
  simp [applyReg, h]
theorem applyReg_m (h : r.reg = .m n) : Tab.get 0 (applyReg k x r).m n = r.val.setWidth 64 := by
  simp [applyReg, h]
end

/-- The results of a list written in the order of R139. -/
def Core.writeAll (k : Core) (x : ℕ) (l : List Result) : Core := (sortResults l).foldl (fun k r => applyReg k x r) k
/-- What no result of the list names is unchanged. -/
theorem Core.writeAll_of_ne {α : Type} (obs : Core → α) (g : RegName) {x : ℕ}
    (hobs : ∀ k (r : Result), r.reg ≠ g → obs (applyReg k x r) = obs k) {l : List Result} (k : Core)
    (h : ∀ r ∈ l, r.reg ≠ g) : obs (k.writeAll x l) = obs k :=
  (sortResults l).foldlRecOn _ (motive := fun q : Core => obs q = obs k) rfl fun q hq r hr =>
    (hobs q r (h r ((sortResults_perm l).mem_iff.mp hr))).trans hq
/-- What one result of the list names is what that result makes of it, where every other that names it is written before. -/
theorem Core.writeAll_last {α : Type} (obs : Core → α) (g : RegName) {x : ℕ}
    (hobs : ∀ k (r : Result), r.reg ≠ g → obs (applyReg k x r) = obs k) {a b : List Result} {r : Result} (k : Core)
    (h : ∀ q ∈ a ++ b, q.reg = g → resultBefore r q = false) : ∃ q, obs (k.writeAll x (a ++ r :: b)) = obs (applyReg q x r)
      ∧ ((∀ q ∈ a ++ b, q.reg ≠ g) → obs q = obs k) := by
  obtain ⟨u, v, huv, hmem, hv⟩ := sortResults_split (a := a) (b := b) (r := r)
  have hnot : ∀ q ∈ v, q.reg ≠ g := fun q hq hg =>
    Bool.false_ne_true ((h q (hmem q (.inr hq)) hg).symm.trans (hv q hq))
  refine ⟨u.foldl (fun k r => applyReg k x r) k, ?_, fun hall => ?_⟩
  · rw [Core.writeAll, huv, List.foldl_append, List.foldl_cons]
    exact v.foldlRecOn _ (motive := fun q : Core => obs q = obs (applyReg _ x r)) rfl fun q hq e he =>
      (hobs q e (hnot e he)).trans hq
  · exact u.foldlRecOn _ (motive := fun q : Core => obs q = obs k) rfl fun q hq e he =>
      (hobs q e (hall e (hmem e (.inl he)))).trans hq

/-! ### A boundary of an exposed mode -/

/-- The results that mature at a context's boundary, as they stand then. -/
def Ctx.maturing (k : Ctx) : List Result := (countDown k.inflight).filter fun r => r.rem == 0
theorem Ctx.mem_maturing {k : Ctx} {q : Result} (h : q ∈ k.maturing) :
    ∃ r ∈ k.inflight, r.rem ≤ 1 ∧ q = { r with rem := r.rem - 1 } := by
  simp only [Ctx.maturing, countDown, List.mem_filter, List.mem_map, beq_iff_eq] at h
  obtain ⟨⟨r, hr, rfl⟩, h0⟩ := h
  exact ⟨r, hr, by simp only at h0; omega, rfl⟩
theorem Ctx.maturing_split {k : Ctx} {a b : List Result} {r : Result} (hl : k.inflight = a ++ r :: b) (hr : r.rem ≤ 1) :
    ∃ u v, k.maturing = u ++ { r with rem := r.rem - 1 } :: v
      ∧ ∀ q ∈ u ++ v, ∃ e ∈ a ++ b, e.rem ≤ 1 ∧ q = { e with rem := e.rem - 1 } := by
  have h0 : r.rem - 1 = 0 := by omega
  refine ⟨(countDown a).filter fun r => r.rem == 0, (countDown b).filter fun r => r.rem == 0, ?_, fun q hq => ?_⟩
  · simp [Ctx.maturing, hl, countDown, h0]
  · rw [← List.filter_append] at hq
    exact Ctx.mem_maturing (k := { k with inflight := a ++ b }) (by simpa [Ctx.maturing, countDown] using hq)
theorem Ctx.mem_maturing_of {k : Ctx} {r : Result} (h : r ∈ k.inflight) (hr : r.rem ≤ 1) :
    { r with rem := r.rem - 1 } ∈ k.maturing :=
  List.mem_filter.mpr ⟨List.mem_map_of_mem h, by simp only [beq_iff_eq]; omega⟩

/-- What the boundary shows of a core that the results of one register alone decide. -/
structure Core.Shows {α : Type} (obs : Core → α) (g : RegName) (x : ℕ) : Prop where
  ofCtx : ∀ (k : Core) (f : Ctx → Ctx), (∀ t, (f t).s = t.s ∧ (f t).p = t.p) →
    obs { k with ctxs := Tab.upd Ctx.reset k.ctxs x f } = obs k
  others : ∀ k (r : Result), r.reg ≠ g → obs (applyReg k x r) = obs k
theorem Core.shows_s (n x : ℕ) : Core.Shows (fun k => (k.ctx x).readS n) (.s n) x where
  ofCtx k f hf := by simp only [Core.ctx, Tab.get_upd, if_true, Ctx.readS, hf]
  others _ _ h := applyReg_readS_of_ne h
theorem Core.shows_p (n x : ℕ) : Core.Shows (fun k => (k.ctx x).readP n) (.p n) x where
  ofCtx k f hf := by simp only [Core.ctx, Tab.get_upd, if_true, Ctx.readP, hf]
  others _ _ h := applyReg_readP_of_ne h
theorem Core.shows_v (n x : ℕ) : Core.Shows (fun k => Tab.get 0 k.v n) (.v n) x where
  ofCtx _ _ _ := rfl
  others _ _ h := applyReg_v_of_ne h
theorem Core.shows_m (n x : ℕ) : Core.Shows (fun k => Tab.get 0 k.m n) (.m n) x where
  ofCtx _ _ _ := rfl
  others _ _ h := applyReg_m_of_ne h

theorem foldl_orFlags_regs (l : List Result) (k : Ctx) :
    (l.foldl (fun k r => k.orFlags r.flags) k).s = k.s ∧ (l.foldl (fun k r => k.orFlags r.flags) k).p = k.p :=
  l.foldlRecOn _ (motive := fun t : Ctx => t.s = k.s ∧ t.p = k.p) ⟨rfl, rfl⟩ fun _ h _ _ => h
theorem foldl_orFlags_flags (l : List Result) (k : Ctx) (b : ℕ) :
    (l.foldl (fun k r => k.orFlags r.flags) k).csr.flags.getLsbD b = true
      ↔ k.csr.flags.getLsbD b = true ∨ ∃ r ∈ l, r.flags.getLsbD b = true := by
  induction l generalizing k with
  | nil => simp
  | cons r l ih => rw [List.foldl_cons, ih]; simp [Ctx.orFlags, or_assoc]
theorem applyReg_inflight_csr (k : Core) (x : ℕ) (r : Result) :
    ((applyReg k x r).ctx x).inflight = (k.ctx x).inflight ∧ ((applyReg k x r).ctx x).csr = (k.ctx x).csr := by
  unfold applyReg
  split
  · simp only [Core.ctx, Tab.get_upd, if_true, Ctx.writeS]
    split <;> exact ⟨rfl, rfl⟩
  · simp only [Core.ctx, Tab.get_upd, if_true, Ctx.writeP]
    split <;> exact ⟨rfl, rfl⟩
  all_goals exact ⟨rfl, rfl⟩
theorem Core.writeAll_inflight_csr (k : Core) (x : ℕ) (l : List Result) :
    ((k.writeAll x l).ctx x).inflight = (k.ctx x).inflight ∧ ((k.writeAll x l).ctx x).csr = (k.ctx x).csr :=
  (sortResults l).foldlRecOn _ (motive := fun q : Core => (q.ctx x).inflight = (k.ctx x).inflight
    ∧ (q.ctx x).csr = (k.ctx x).csr) ⟨rfl, rfl⟩ fun q hq r _ =>
      ⟨(applyReg_inflight_csr q x r).1.trans hq.1, (applyReg_inflight_csr q x r).2.trans hq.2⟩

namespace State
variable {s : State} {c x : ℕ} {α : Type} {obs : Core → α} {g : RegName} {l : List Result}

theorem modCtx_shows (h : Core.Shows obs g x) {f : Machine.Ctx → Machine.Ctx} (hf : ∀ t, (f t).s = t.s ∧ (f t).p = t.p) :
    obs ((s.modCtx c x f).core c) = obs (s.core c) := by
  rw [State.modCtx, State.modCore_core, if_pos rfl, h.ofCtx _ _ hf]
theorem mature_shows (h : Core.Shows obs g x) {e : Bool} :
    obs ((s.mature c x l e).core c) = obs ((s.core c).writeAll x l) := by
  unfold State.mature
  extract_lets l' s1 s2
  have h1 : s1.core c = (s.core c).writeAll x l := (State.modCore_core _ _ _ _).trans (if_pos rfl)
  have h2 : obs (s2.core c) = obs (s1.core c) := modCtx_shows h (foldl_orFlags_regs l')
  rw [← h1, ← h2]
  split
  · exact modCtx_shows h fun _ => ⟨rfl, rfl⟩
  · rfl
theorem mature_mem_tags {e : Bool} : (s.mature c x l e).mem = s.mem ∧ (s.mature c x l e).tags = s.tags := by
  unfold State.mature
  dsimp only
  split <;> exact ⟨rfl, rfl⟩
/-- What of its context a boundary's results change besides the registers. -/
theorem mature_ctx {t : State} (ht : s.mature c x l true = t) :
    (t.ctx c x).inflight = (s.ctx c x).inflight
    ∧ (∀ b, (t.ctx c x).csr.flags.getLsbD b = true
      ↔ (s.ctx c x).csr.flags.getLsbD b = true ∨ ∃ r ∈ l, r.flags.getLsbD b = true)
    ∧ (collides (sortResults l) = true → (t.ctx c x).csr.wcoll = true) := by
  subst ht
  unfold State.mature
  extract_lets l' s1 s2
  obtain ⟨hin, hcsr⟩ := (s.core c).writeAll_inflight_csr x l
  have h1 : s1.core c = (s.core c).writeAll x l := (State.modCore_core _ _ _ _).trans (if_pos rfl)
  have h2 : s2.ctx c x = l'.foldl (fun k r => k.orFlags r.flags) (s1.ctx c x) := by simp [s2]
  have hflight : (s2.ctx c x).inflight = (s.ctx c x).inflight := by
    refine Eq.trans ?_ ((congrArg (fun k : Core => (k.ctx x).inflight) h1).trans hin)
    rw [h2]
    exact l'.foldlRecOn _ (motive := fun t : Machine.Ctx => t.inflight = (s1.ctx c x).inflight) rfl fun _ h _ _ => h
  have hflags : ∀ b, (s2.ctx c x).csr.flags.getLsbD b = true
      ↔ (s.ctx c x).csr.flags.getLsbD b = true ∨ ∃ r ∈ l, r.flags.getLsbD b = true := fun b => by
    rw [h2, foldl_orFlags_flags, State.ctx, h1, hcsr]
    simp only [l', (sortResults_perm l).mem_iff]
    rfl
  split
  · exact ⟨by simpa using hflight, by simpa using hflags, by simp⟩
  · next hno => exact ⟨hflight, hflags, fun hc => absurd hc (by simpa using hno)⟩
/-- A boundary of an exposed mode is the results' that mature, at a state with these out of flight. -/
theorem tickExposed_eq (s : State) (c x : ℕ) : ∃ u : State, s.tickExposed c x = u.mature c x (s.ctx c x).maturing true
    ∧ (u.mem = s.mem ∧ u.tags = s.tags)
    ∧ (u.ctx c x).inflight = ((s.ctx c x).inflight.filter fun r => decide (1 < r.rem)).map (fun r => { r with rem := r.rem - 1 })
    ∧ (u.ctx c x).csr = (s.ctx c x).csr
    ∧ ∀ {α : Type} {obs : Core → α} {g : RegName}, Core.Shows obs g x → obs (u.core c) = obs (s.core c) := by
  have hfilter : (countDown (s.ctx c x).inflight).filter (fun r => r.rem != 0)
      = ((s.ctx c x).inflight.filter fun r => decide (1 < r.rem)).map fun r => { r with rem := r.rem - 1 } := by
    rw [countDown, List.filter_map]
    congr 2
    funext r
    rw [Function.comp, bne, Bool.eq_iff_iff, Bool.not_eq_true', beq_eq_false_iff_ne, decide_eq_true_iff]
    exact ⟨fun h => by simp only at h; omega, fun h => by simp only; omega⟩
  have hdue : ((s.modCtx c x fun k => { k with inflight := countDown k.inflight, recent := none }).ctx c x).inflight
      = countDown (s.ctx c x).inflight := by simp
  rw [State.tickExposed, State.matureNow, hdue]
  refine ⟨_, rfl, ⟨rfl, rfl⟩, ?_, ?_, fun h => ?_⟩
  · rw [← hfilter]; simp
  · simp
  · exact (modCtx_shows h (by exact fun _ => ⟨rfl, rfl⟩)).trans (modCtx_shows h (by exact fun _ => ⟨rfl, rfl⟩))
theorem tickExposed_of_ne (h : Core.Shows obs g x) (hno : ∀ r ∈ (s.ctx c x).inflight, r.rem ≤ 1 → r.reg ≠ g) :
    obs ((s.tickExposed c x).core c) = obs (s.core c) := by
  obtain ⟨u, hu, -, -, -, hshows⟩ := tickExposed_eq s c x
  rw [hu, mature_shows h, Core.writeAll_of_ne obs g h.others, hshows h]
  intro q hq
  obtain ⟨r, hr, hrem, rfl⟩ := Ctx.mem_maturing hq
  exact hno r hr hrem
/-- What a register holds after a boundary is what the one maturing result that is not before another of its own makes of it. -/
theorem tickExposed_last (h : Core.Shows obs g x) {a b : List Result} {r : Result} (hl : (s.ctx c x).inflight = a ++ r :: b)
    (hr : r.rem ≤ 1) (hlast : ∀ q ∈ a ++ b, q.rem ≤ 1 → q.reg = g → resultBefore r q = false) :
    ∃ q, obs ((s.tickExposed c x).core c) = obs (applyReg q x { r with rem := r.rem - 1 })
      ∧ ((∀ q ∈ a ++ b, q.rem ≤ 1 → q.reg ≠ g) → obs q = obs (s.core c)) := by
  obtain ⟨k, hk, -, -, -, hshows⟩ := tickExposed_eq s c x
  obtain ⟨u, v, huv, hmem⟩ := Ctx.maturing_split hl hr
  obtain ⟨q, hq, hold⟩ := Core.writeAll_last obs g h.others (a := u) (b := v) (r := { r with rem := r.rem - 1 }) (k.core c)
    fun q hq hg => by
      obtain ⟨e, he, hrem, rfl⟩ := hmem q hq
      exact hlast e he hrem hg
  refine ⟨q, ?_, fun hno => ?_⟩
  · rw [hk, mature_shows h, huv, hq]
  · rw [← hshows h]
    refine hold fun q hq => ?_
    obtain ⟨e, he, hrem, rfl⟩ := hmem q hq
    exact hno e he hrem
theorem tickExposed_wcoll (hg : writesReg g = true) {a b d : List Result} {q r : Result}
    (hl : (s.ctx c x).inflight = a ++ q :: b ++ r :: d) (hq : q.rem ≤ 1) (hr : r.rem ≤ 1) (hqg : q.reg = g) (hrg : r.reg = g) :
    ((s.tickExposed c x).ctx c x).csr.wcoll = true := by
  obtain ⟨u, hu, -⟩ := tickExposed_eq s c x
  refine (mature_ctx hu.symm).2.2 (collides_of_two hg ?_)
  have hq0 : q.rem - 1 = 0 := by omega
  have hr0 : r.rem - 1 = 0 := by omega
  rw [(sortResults_perm _).countP_eq, Ctx.maturing, hl]
  simp [countDown, hq0, hr0, hqg, hrg]
  omega
end State

/-- Settles O21, by the results that mature sorted by R139: what a register shows is left by the last of them that names it. -/
theorem resultsBecomeVisible : Obligations.ResultsBecomeVisible := by
  unfold Obligations.ResultsBecomeVisible
  intro s c x l t
  obtain ⟨u, hu, ⟨hmem, htags⟩, hin, hcsr, -⟩ := State.tickExposed_eq s c x
  obtain ⟨hflight, hflags, -⟩ := State.mature_ctx hu.symm
  have halone : ∀ {g : RegName} {a b : List Result} {r : Result}, (∀ q ∈ a ++ b, q.rem ≤ 1 → q.reg ≠ g) →
      ∀ q ∈ a ++ b, q.rem ≤ 1 → q.reg = g → resultBefore r q = false := fun h q hq hrem hg => absurd hg (h q hq hrem)
  refine ⟨?_, ?_, hflight.trans hin, fun n => State.tickExposed_of_ne (Core.shows_s n x),
    fun n => State.tickExposed_of_ne (Core.shows_p n x), fun n => State.tickExposed_of_ne (Core.shows_v n x),
    fun n a b r hl hr hrg hn hno => ?_, fun n => State.tickExposed_of_ne (Core.shows_m n x),
    fun n a b r hl hr hrg hn hno => ?_, fun n a b r hl hr hrg hno i hi => ?_, fun n a b r hl hr hrg hno => ?_,
    fun n a b r hl hr hrg hn hlater => ?_, rfl, fun b => ?_,
    fun n a b d q r hl hq hr hqg hrg hn => State.tickExposed_wcoll (g := .s n) (by simpa [writesReg] using hn) hl hq hr hqg hrg,
    fun a b d q r hl hq hr hqr hw => State.tickExposed_wcoll hw hl hq hr hqr rfl⟩
  · exact (congrArg State.mem hu).trans (State.mature_mem_tags.1.trans hmem)
  · exact (congrArg State.tags hu).trans (State.mature_mem_tags.2.trans htags)
  · obtain ⟨q, hq, -⟩ := State.tickExposed_last (Core.shows_s n x) hl hr (halone hno)
    exact hq.trans (applyReg_readS hrg hn)
  · obtain ⟨q, hq, -⟩ := State.tickExposed_last (Core.shows_p n x) hl hr (halone hno)
    exact hq.trans (applyReg_readP hrg hn)
  · obtain ⟨q, hq, hold⟩ := State.tickExposed_last (Core.shows_v n x) hl hr (halone hno)
    rw [hq, applyReg_v (r := { r with rem := r.rem - 1 }) hrg, lane_mergeLanes _ _ _ hi, hold hno]
  · obtain ⟨q, hq, -⟩ := State.tickExposed_last (Core.shows_m n x) hl hr (halone hno)
    exact hq.trans (applyReg_m hrg)
  · obtain ⟨q, hq, -⟩ := State.tickExposed_last (Core.shows_s n x) hl hr fun q hq hrem hg => by
      have := hlater q hq hrem hg
      rw [Bool.eq_false_iff, Ne, resultBefore_iff]
      omega
    exact hq.trans (applyReg_readS hrg hn)
  · rw [hflags, hcsr]
    refine or_congr_right ⟨fun ⟨q, hq, hb⟩ => ?_, fun ⟨r, hr, hrem, hb⟩ => ⟨_, Ctx.mem_maturing_of hr hrem, hb⟩⟩
    obtain ⟨r, hr, hrem, rfl⟩ := Ctx.mem_maturing hq
    exact ⟨r, hr, hrem, hb⟩

end Sys2Proof.Machine
end

section
/-! # The Chord's turn (O34)

What every core meets is the Chord's plan: its next address and lines, which no other core's leaving changes. -/

namespace Sys2Proof.Machine

/-- What the leaving of a core leaves of a Chord: all but that it runs, what it waits for and its transfers. -/
def Chord.plan (h : Chord) : Chord := { h with on := false, wait := .none, trans := [] }
/-- Memory, time, tables and the Chords' plans are the same in two states. -/
def samePlan (s t : State) : Prop :=
  (t.mem = s.mem ∧ t.clk = s.clk ∧ t.dies = s.dies ∧ t.pkgs = s.pkgs)
  ∧ ∀ cl, (t.cluster cl).chord.plan = (s.cluster cl).chord.plan

namespace State
variable {s t u : State} {c d x n cl a : ℕ} {lead : Option ℕ}

/-! ### A fold over the cores of a cluster -/

theorem coresOf_nodup : (coresOf cl).Nodup :=
  List.nodup_range.map fun i j h => by simpa using h
theorem attachedCores_nodup : (s.attachedCores cl).Nodup := coresOf_nodup.filter _
theorem foldl_core_of_not_mem {F : State → ℕ → State} (hF : ∀ s c d, d ≠ c → (F s c).core d = s.core d) {l : List ℕ}
    (hc : c ∉ l) : (l.foldl F s).core c = s.core c :=
  l.foldlRecOn F (motive := fun u : State => u.core c = s.core c) rfl fun u hu d hd =>
    (hF u d c (ne_of_mem_of_not_mem hd hc).symm).trans hu
/-- In a fold that changes each core in its own turn, a core is what its turn makes of it. -/
theorem foldl_core_once {F : State → ℕ → State} {P : State → Prop} (hF : ∀ s c d, d ≠ c → (F s c).core d = s.core d)
    (hP : ∀ u d, P u → P (F u d)) (h : P s) {l : List ℕ} (hl : l.Nodup) (hc : c ∈ l) :
    ∃ u, P u ∧ u.core c = s.core c ∧ (l.foldl F s).core c = (F u c).core c := by
  induction l generalizing s with
  | nil => cases hc
  | cons e l ih =>
    obtain ⟨he, hl⟩ := List.nodup_cons.mp hl
    rcases List.mem_cons.mp hc with rfl | hc
    · exact ⟨s, h, rfl, foldl_core_of_not_mem hF he⟩
    · obtain ⟨u, hu, hcore, hfold⟩ := ih (hP s e h) hl hc
      exact ⟨u, hu, hcore.trans (hF s e c (ne_of_mem_of_not_mem hc he)), hfold⟩

/-! ### The Chord's plan -/

theorem samePlan_refl : samePlan s s := ⟨⟨rfl, rfl, rfl, rfl⟩, fun _ => rfl⟩
theorem samePlan_modCore {f : Core → Core} (h : samePlan s t) : samePlan s (t.modCore c f) := h
theorem samePlan_idleChord (h : samePlan s t) : samePlan s (t.idleChord cl) := by
  unfold State.idleChord
  split
  · refine ⟨h.1, fun d => (Eq.trans ?_ (h.2 d))⟩
    rw [State.modCluster_cluster]
    split
    · next hd => rw [hd]; rfl
    · rfl
  · exact h
theorem samePlan_compare (h : samePlan s t) : samePlan s (t.compare c a lead) := by
  unfold State.compare
  dsimp only
  split
  · split
    · exact samePlan_modCore h
    · exact samePlan_idleChord (samePlan_modCore (samePlan_modCore h))
  · exact h
theorem samePlan_meet (h : samePlan s t) : samePlan s (t.meet c a lead) := by
  unfold State.meet
  dsimp only
  split
  · exact h
  · split
    · exact samePlan_modCore h
    · exact samePlan_compare h
theorem samePlan_meetAll : samePlan s (s.meetAll cl) :=
  (s.attachedCores cl).foldlRecOn _ (motive := samePlan s) samePlan_refl fun _ h _ _ => samePlan_meet h
theorem resolve_samePlan (h : samePlan s t) (hc : t.core c = s.core c) : t.resolve c a = s.resolve c a := by
  obtain ⟨⟨hm, -, hd, hp⟩, hplan⟩ := h
  have hkept : (t.cluster (clusterOf c)).chord.lines = (s.cluster (clusterOf c)).chord.lines :=
    (congrArg Chord.lines (hplan (clusterOf c)) :)
  have hlines : t.linesOf c = s.linesOf c := by rw [State.linesOf, State.linesOf, hc, hkept]
  rw [State.resolve, State.resolve, hlines, hc, pastMarkers_congr hm hd hp]

/-! ### A core meets the Chord's next address -/

theorem leaveStream_core_of_ne (h : d ≠ c) : (s.leaveStream c).core d = s.core d := by
  rw [State.leaveStream, idleChord_core, State.modCore_core, if_neg h, State.dropQueue, State.modCore_core, if_neg h]
theorem compare_core_of_ne (h : d ≠ c) : (s.compare c a lead).core d = s.core d := by
  unfold State.compare
  dsimp only
  split
  · split
    · rw [State.modCtx, State.modCore_core, if_neg h]
    · exact leaveStream_core_of_ne h
  · rfl
theorem meet_core_of_ne (h : d ≠ c) : (s.meet c a lead).core d = s.core d := by
  unfold State.meet
  dsimp only
  split
  · rfl
  · split
    · rw [State.modCtx, State.modCore_core, if_neg h]
    · exact compare_core_of_ne h
theorem meet_queued (h : (s.core c).fetch.queue ≠ []) : s.meet c a lead = s := by simp [State.meet, h]
theorem meet_fresh (h : (s.core c).fetch.queue = []) (hf : (s.core c).fetch.fresh = true) :
    s.meet c a lead = s.modCtx c 0 fun k => { k with pc := a } := by simp [State.meet, h, hf]
theorem meet_compare (h : (s.core c).fetch.queue = []) (hf : (s.core c).fetch.fresh = false) :
    s.meet c a lead = s.compare c a lead := by simp [State.meet, h, hf]
theorem compare_same (h : s.resolve c (s.ctx c 0).pc = a) : s.compare c a lead = s := by
  have h' : s.resolve c ((s.core c).ctx 0).pc = a := h
  simp [State.compare, h']
theorem compare_away (hatt : (s.core c).attached = true) (hin : (s.core c).inStream = true) (hf : (s.core c).fetch.fresh = false)
    (h : s.resolve c (s.ctx c 0).pc ≠ a) : s.compare c a lead
      = if lead = some c then s.modCtx c 0 fun t => { t with pc := a } else s.leaveStream c := by
  have h' : s.resolve c ((s.core c).ctx 0).pc ≠ a := h
  simp [State.compare, hatt, hin, hf, h']
/-- Each attached core meets the Chord's address in a turn of its own, with the Chord's plan and its own state as they were. -/
theorem meetAll_core (hc : c ∈ s.attachedCores cl) : ∃ u, samePlan s u ∧ u.core c = s.core c ∧ (s.meetAll cl).core c
    = (u.meet c (s.cluster cl).chord.pc (s.cluster cl).chord.lead).core c :=
  foldl_core_once (F := fun s c => s.meet c _ _) (P := samePlan s) (fun _ _ _ h => meet_core_of_ne h)
    (fun _ _ h => samePlan_meet h) samePlan_refl attachedCores_nodup hc
theorem attached_of_mem (hc : c ∈ s.attachedCores cl) : (s.core c).attached = true := (List.mem_filter.mp hc).2
theorem mode_of_attached (h : (s.core c).attached = true) : (s.core c).ident.mode = 0 := by
  simp only [Core.attached, Bool.and_eq_true, beq_iff_eq] at h
  exact h.1.2
/-- What each attached core comes to at the Chord's next address (R35, R36, R38). -/
theorem meetAll_spec (hc : c ∈ s.attachedCores cl) {q : State} (hq : s.meetAll cl = q) :
    let h := (s.cluster cl).chord
    let f := (s.core c).fetch
    let away := s.resolve c (s.ctx c 0).pc ≠ h.pc
    (f.queue ≠ [] → q.core c = s.core c)
    ∧ (f.queue = [] → f.fresh = true → (q.ctx c 0).pc = h.pc ∧ (q.core c).ident.mode = 0)
    ∧ (f.queue = [] → f.fresh = false → (s.core c).inStream = true →
        (¬ away → q.core c = s.core c)
        ∧ (away → h.lead = some c → (q.ctx c 0).pc = h.pc ∧ (q.core c).ident.mode = 0 ∧ (q.core c).fetch = f)
        ∧ (away → h.lead ≠ some c → (q.core c).ident.mode = 1 ∧ (q.core c).fetch.queue = [] ∧ (q.ctx c 0).pc = (s.ctx c 0).pc)) := by
  intro h f away
  obtain ⟨u, hu, hcore, hmeet⟩ := meetAll_core hc
  have hatt := attached_of_mem hc
  have hmode := mode_of_attached hatt
  have hctx : u.ctx c 0 = s.ctx c 0 := congrArg (·.ctx 0) hcore
  have hres : u.resolve c (u.ctx c 0).pc = s.resolve c (s.ctx c 0).pc := by rw [resolve_samePlan hu hcore, hctx]
  rw [hq] at hmeet
  have hqctx : q.ctx c 0 = (u.meet c h.pc h.lead).ctx c 0 := congrArg (·.ctx 0) hmeet
  rw [hmeet, hqctx]
  simp only [f, ← hcore] at *
  refine ⟨fun hne => ?_, fun he hf => ?_, fun he hf hin => ?_⟩
  · rw [meet_queued hne]
  · rw [meet_fresh he hf]; simp [hmode]
  · rw [meet_compare he hf]
    refine ⟨fun hno => ?_, fun haway hl => ?_, fun haway hl => ?_⟩
    · rw [compare_same (hres.trans (not_not.mp hno))]
    · rw [compare_away hatt hin hf (hres ▸ haway), if_pos hl]; simp [hmode, h]
    · rw [compare_away hatt hin hf (hres ▸ haway), if_neg hl, leaveStream_ctx, hctx]
      exact ⟨leaveStream_core.2, leaveStream_core.1, rfl⟩

/-! ### A multicast -/

theorem waitingCores_congr (hident : ∀ c, (t.core c).ident = (s.core c).ident) (hctx : ∀ c, t.ctx c 0 = s.ctx c 0)
    (hplan : (t.cluster cl).chord.plan = (s.cluster cl).chord.plan) : t.waitingCores cl = s.waitingCores cl := by
  have hnode : (t.cluster cl).chord.node = (s.cluster cl).chord.node := (congrArg Chord.node hplan :)
  have hhome : (t.cluster cl).chord.home = (s.cluster cl).chord.home := (congrArg Chord.home hplan :)
  simp only [State.waitingCores, State.detachedCores, Core.detached, Chord.serves, hident, hctx, hnode, hhome]
theorem detached_of_waiting (hc : c ∈ s.waitingCores cl) : (s.core c).ident.mode = 1 := by
  have hd := (List.mem_filter.mp (List.mem_filter.mp hc).1).2
  simp only [Core.detached, Bool.and_eq_true, beq_iff_eq] at hd
  exact hd.1.2
theorem reattach_core_of_ne (h : d ≠ c) : (s.reattach c n).core d = s.core d := by
  rw [State.reattach, State.modCtx, State.modCore_core, if_neg h, State.modCore_core, if_neg h]
theorem multicast_spec {l : BitVec 512} {i : Option Instr} (ht : s.multicast cl l i = t) :
    t.mem = s.mem ∧ (t.cluster cl).chord.num = (s.cluster cl).chord.num + 1
    ∧ (t.cluster cl).chord.last = (s.cluster cl).chord.pc ∧ (t.cluster cl).chord.decided = false
    ∧ (∀ c ∈ s.attachedCores cl, (t.core c).ident.mode = 0 ∧ (t.core c).fetch.queue = (s.core c).fetch.queue
        ++ [⟨(s.cluster cl).chord.pc, l, s.clk.cycle + 2, (s.cluster cl).chord.num + 1, (s.cluster cl).chord.lead⟩])
    ∧ (∀ c ∈ s.waitingCores cl, ∀ k w, joinOf i = some (k, w) → (s.ctx c 0).run.join = some k →
        (t.core c).ident.mode = 0 ∧ (t.ctx c 0).run.join = none ∧ (t.ctx c 0).pend = []) := by
  unfold State.multicast at ht
  extract_lets h a n s1 again s2 s3 at ht
  have hs1 : s1.mem = s.mem ∧ ∀ c, (s1.core c).ident = (s.core c).ident ∧ s1.ctx c 0 = s.ctx c 0 :=
    List.foldlRecOn _ _ (motive := fun u : State => u.mem = s.mem ∧ ∀ c, (u.core c).ident = (s.core c).ident
      ∧ u.ctx c 0 = s.ctx c 0) ⟨rfl, fun _ => ⟨rfl, rfl⟩⟩ fun u hu d _ => ⟨hu.1, fun c => ⟨by
        rw [← (hu.2 c).1, State.modCore_core]
        split
        · next he => rw [he]
        · rfl, Eq.trans (modCore_ctx_of fun _ => rfl) (hu.2 c).2⟩⟩
  have hplan1 : (s1.cluster cl).chord = (s.cluster cl).chord :=
    List.foldlRecOn _ _ (motive := fun u : State => (u.cluster cl).chord = (s.cluster cl).chord) rfl fun _ hu _ _ => hu
  obtain ⟨hmem1, hcore1⟩ := hs1
  have hwait : s1.waitingCores cl = s.waitingCores cl :=
    waitingCores_congr (fun c => (hcore1 c).1) (fun c => (hcore1 c).2) (congrArg Chord.plan hplan1)
  have hsub : ∀ c ∈ again, c ∈ s.waitingCores cl := fun c hc => by
    rw [← hwait]
    revert hc
    simp only [again]
    split
    · exact fun hc => (List.mem_filter.mp hc).1
    · exact fun hc => absurd hc List.not_mem_nil
  have hcore3 : t.core = s2.core := by rw [← ht, idleChord_core]; rfl
  have hctx3 : t.ctx = s2.ctx := by rw [← ht, idleChord_ctx]; rfl
  have hs2 : s2.mem = s1.mem ∧ (s2.cluster cl).chord = (s1.cluster cl).chord :=
    again.foldlRecOn _ (motive := fun u : State => u.mem = s1.mem ∧ (u.cluster cl).chord = (s1.cluster cl).chord) ⟨rfl, rfl⟩
      fun _ hu _ _ => hu
  have hchord : (t.cluster cl).chord.plan = (s3.cluster cl).chord.plan := by
    rw [← ht]; exact (samePlan_idleChord samePlan_refl).2 cl
  have hs3 : (s3.cluster cl).chord.num = n ∧ (s3.cluster cl).chord.last = a ∧ (s3.cluster cl).chord.decided = false := by
    simp [s3, State.modChord]
  refine ⟨?_, (congrArg Chord.num hchord :).trans hs3.1, (congrArg Chord.last hchord :).trans hs3.2.1,
    (congrArg Chord.decided hchord :).trans hs3.2.2, fun c hc => ?_, fun c hc k w hk hj => ?_⟩
  · rw [← ht, idleChord_mem]
    exact hs2.1.trans hmem1
  · have hmode := mode_of_attached (attached_of_mem hc)
    have hnot : c ∉ again := fun hm => by simp [detached_of_waiting (hsub c hm)] at hmode
    rw [hcore3, foldl_core_of_not_mem (fun s e d hd => reattach_core_of_ne hd) hnot, (hcore1 c).1]
    obtain ⟨u, hclk, hcore, hfold⟩ := foldl_core_once (P := fun u => u.clk = s.clk) (fun u e d hd =>
      (State.modCore_core _ _ _ _).trans (if_neg hd)) (fun _ _ h => h) rfl attachedCores_nodup hc
    refine ⟨hmode, (congrArg (fun k : Core => k.fetch.queue) hfold).trans ?_⟩
    simp only [State.modCore_core, if_true, hcore, hclk]
    rfl
  · have hmem : c ∈ again := by
      simp only [again, hk]
      exact List.mem_filter.mpr ⟨hwait ▸ hc, by rw [(hcore1 c).2, hj]; exact beq_self_eq_true _⟩
    have hnodup : again.Nodup := by
      simp only [again, hk]
      exact ((coresOf_nodup.filter _).filter _).filter _
    obtain ⟨u, -, -, hfold⟩ := foldl_core_once (P := fun _ => True) (F := fun s c => s.reattach c n)
      (fun s e d hd => reattach_core_of_ne hd) (fun _ _ _ => trivial) trivial (s := s1) hnodup hmem
    obtain ⟨hjoin, hpend, hmode⟩ := reattach_ctx (s := u) (c := c) (n := n)
    rw [hcore3, hctx3, show s2.core c = _ from hfold, show s2.ctx c 0 = _ from congrArg (·.ctx 0) hfold]
    exact ⟨hmode, hjoin, hpend⟩

/-! ### The turn of a Chord that has decided -/

theorem drifts_iff : s.drifts cl = true ↔ ∀ c ∈ s.attachedCores cl, (s.core c).fetch.queue.length < 16 := by
  simp [State.drifts]
theorem holdJoin_spec (ht : s.holdJoin cl n = t) : t.cores = s.cores ∧ t.mem = s.mem
    ∧ (t.cluster cl).chord.num = (s.cluster cl).chord.num ∧ (t.cluster cl).chord.pc = (s.cluster cl).chord.pc := by
  subst ht
  have hfresh (w : ChordWait) : let u := s.modChord cl fun h => { h with wait := w }
      u.cores = s.cores ∧ u.mem = s.mem ∧ (u.cluster cl).chord.num = (s.cluster cl).chord.num
      ∧ (u.cluster cl).chord.pc = (s.cluster cl).chord.pc := by simp [State.modChord]
  unfold State.holdJoin
  split
  · exact ⟨rfl, rfl, rfl, rfl⟩
  · dsimp only
    split
    · split
      · split <;> exact ⟨rfl, rfl, rfl, rfl⟩
      · exact hfresh _
    all_goals exact hfresh _
theorem chordDecide_decided (h : (s.cluster cl).chord.decided = true) : s.chordDecide cl = s := by
  unfold State.chordDecide
  dsimp only
  split
  · rfl
  · rw [if_pos (by simp [h])]
/-- What a Chord that has decided and that nothing holds does once every core has met its address. -/
def chordTurn (q : State) (cl : ℕ) : State :=
  let h := (q.cluster cl).chord
  let l := q.lineOf h.lines (q.chordPart cl) cl h.pc
  let i := controlSlot l h.pc
  match joinOf i with
  | some (k, true) => if q.joinHeld cl k then q.holdJoin cl k else if q.drifts cl then q.multicast cl l i else q
  | some (_, false) => if q.drifts cl then q.multicast cl l i else q
  | none => if q.drifts cl then q.multicast cl l i else q
/-- The place of a line that the Chord does not keep is held (R392, R410). -/
def lineHeld (q : State) (cl : ℕ) : Bool :=
  !((q.cluster cl).chord.lines.any fun e => e.1 == (q.cluster cl).chord.pc % 2 ^ 24 / 64 * 64)
    && q.lineWaits (q.chordPart cl) cl (q.cluster cl).chord.pc
theorem exec_chordMulticast (harg : s.arg 0 = cl) (hr : s.chordReady cl = true) (hre : (s.cluster cl).chord.restarted = false)
    (hd : (s.cluster cl).chord.decided = true) {q : State} (hq : s.meetAll cl = q) :
    exec .chordMulticast s = .next (if (q.cluster cl).chord.on && !q.lineHeld cl then q.chordTurn cl else q) := by
  have hdq : (q.cluster cl).chord.decided = true := by
    rw [← hq]; exact (congrArg Chord.decided (samePlan_meetAll.2 cl) :).trans hd
  have hcond : (!(q.cluster cl).chord.decided || !(q.cluster cl).chord.on || q.lineHeld cl)
      = !((q.cluster cl).chord.on && !q.lineHeld cl) := by rw [hdq]; simp
  show execChordMulticast s = _
  rw [execChordMulticast, harg, if_neg (by simp [hr]), hre, Bool.false_and, if_neg Bool.false_ne_true,
    chordDecide_decided hd]
  dsimp only
  rw [if_pos hd, hq]
  refine congrArg _ (Eq.trans (congrArg (fun b : Bool => if b then q else q.chordTurn cl) hcond) ?_)
  cases (q.cluster cl).chord.on && !q.lineHeld cl <;> rfl
theorem exec_chordRestart {r : List ℕ} (harg : s.arg 0 = cl) (hc : s.restartCores cl = c :: r) (hatt : s.attachedCores cl = [])
    (hon : (s.cluster cl).chord.on = false) (hfr : (s.cluster cl).chord.frozen = false)
    (hst : (s.cluster cl).chord.stopped = false) : exec .chordRestart s = .next (s.modChord cl fun h =>
      { h with node := (s.core c).ident.node, home := (s.core c).ident.home
               lines := if h.serves (s.core c) then h.lines else []
               on := true, pc := s.resolve c (s.ctx c 0).pc, decided := true, lead := none, l0 := (s.ctx c 0).l0
               l1 := (s.ctx c 0).l1, trans := [], wait := .none, restarted := true }) := by
  show execChordRestart s = _
  rw [execChordRestart, harg, hc, List.head?_cons]
  exact congrArg _ (if_neg (by simp [hon, hfr, hst, hatt]))
theorem exec_chordJoinTimeout {k start limit : ℕ} (harg : s.arg 0 = cl) (hw : (s.cluster cl).chord.wait = .joinW k c start limit)
    (hon : (s.cluster cl).chord.on = true) (hl : s.leader cl = some c) (hlim : limit < (s.core c).stat.live - start)
    (hq : (s.core c).fetch.queue = []) : exec .chordJoinTimeout s = .next
      (((s.modChord cl fun h => { h with wait := .none }).takeTrap c 0 0 joinTimeout (BitVec.ofNat 64 (s.joinMissing cl k))
        (s.cluster cl).chord.pc)) := by
  have hmiss : (s.modChord cl fun h => { h with wait := .none }).joinMissing cl k = s.joinMissing cl k := by
    rw [State.joinMissing, State.joinMissing, show (s.modChord cl _).detachedCores cl = s.detachedCores cl by
      simp [State.detachedCores, State.modChord, Chord.serves, State.core]]
    rfl
  show execChordJoinTimeout s = _
  rw [execChordJoinTimeout, harg]
  dsimp only
  rw [hw]
  dsimp only
  rw [if_pos (by simp [hon, hl, hlim, hq]), hmiss]
theorem chordTurn_held {k : ℕ} {l : BitVec 512} (hl : s.lineOf (s.cluster cl).chord.lines (s.chordPart cl) cl (s.cluster cl).chord.pc = l)
    (hj : joinOf (controlSlot l (s.cluster cl).chord.pc) = some (k, true)) (hheld : s.joinHeld cl k = true) :
    s.chordTurn cl = s.holdJoin cl k := by
  simp only [chordTurn, hl, hj, hheld, if_true]
theorem chordTurn_goes {l : BitVec 512} (hl : s.lineOf (s.cluster cl).chord.lines (s.chordPart cl) cl (s.cluster cl).chord.pc = l)
    (hj : ∀ k, joinOf (controlSlot l (s.cluster cl).chord.pc) = some (k, true) → s.joinHeld cl k = false) :
    s.chordTurn cl = if s.drifts cl then s.multicast cl l (controlSlot l (s.cluster cl).chord.pc) else s := by
  simp only [chordTurn, hl]
  split
  · next k hk => rw [hj k hk, if_neg Bool.false_ne_true]
  · rfl
  · rfl

end State

/-- Settles O34, by the cores' meeting of the Chord's address one by one, and then the multicast. -/
theorem chordEvents : Obligations.ChordEvents := by
  unfold Obligations.ChordEvents
  intro s cl hargs h q l i held room
  have harg : s.arg 0 = cl := by simp [State.arg, hargs]
  refine ⟨fun hno => ?_, fun c hc => State.meetAll_spec hc rfl, fun hr hre hd => ?_, fun c r hc hatt hon hfr hst => ?_,
    fun k c start limit hw hon hl hlim hq hcap => ?_⟩
  · show execChordMulticast s = _
    rw [execChordMulticast, harg, if_pos (by simp [hno])]
  · have hexec : exec .chordMulticast s = .next (if (q.cluster cl).chord.on && !q.lineHeld cl then q.chordTurn cl else q) :=
      State.exec_chordMulticast harg hr hre hd rfl
    obtain ⟨⟨hmem, hclk, -, -⟩, hplan⟩ : samePlan s q := State.samePlan_meetAll
    have hpc : (q.cluster cl).chord.pc = h.pc := (congrArg Chord.pc (hplan cl) :)
    have hlines : (q.cluster cl).chord.lines = h.lines := (congrArg Chord.lines (hplan cl) :)
    have hdec : (q.cluster cl).chord.decided = true := (congrArg Chord.decided (hplan cl) :).trans hd
    have hnum : (q.cluster cl).chord.num = h.num := (congrArg Chord.num (hplan cl) :)
    have hlead : (q.cluster cl).chord.lead = h.lead := (congrArg Chord.lead (hplan cl) :)
    have hline : q.lineOf (q.cluster cl).chord.lines (q.chordPart cl) cl (q.cluster cl).chord.pc = l := by rw [hlines, hpc]
    have hheld : q.lineHeld cl = true ↔ held := by simp [State.lineHeld, held, hpc, hlines]
    have hgo (hon : (q.cluster cl).chord.on = true) (hno : ¬held) : exec .chordMulticast s = .next (q.chordTurn cl) := by
      rw [hexec, if_pos (by simp [hon, ← Bool.not_eq_true, hheld, hno])]
    have hstay (h : (q.cluster cl).chord.on = false ∨ held) : exec .chordMulticast s = .next q := by
      rw [hexec, if_neg]
      rcases h with h | h
      · simp [h]
      · simp [hheld.mpr h]
    refine ⟨hstay, fun hon hj hroom => ?_, fun hon hj hno hroom => ?_, fun k hon hno hj hk => ?_⟩
    · by_cases hno : held
      · exact hstay (.inr hno)
      · rw [hgo hon hno, State.chordTurn_goes hline (by rwa [hpc]), if_neg (fun h => hroom (State.drifts_iff.mp h))]
    · obtain ⟨hm, hn, hlast, hd', hatt, hwait⟩ := State.multicast_spec (s := q) (cl := cl) (l := l) (i := i) rfl
      refine ⟨_, ?_, hm.trans hmem, hn.trans (by rw [hnum]), hlast.trans hpc, hd', ?_, hwait⟩
      · rw [hgo hon hno, State.chordTurn_goes hline (by rwa [hpc]), if_pos (State.drifts_iff.mpr hroom), hpc]
      · rwa [hpc, hclk, hnum, hlead] at hatt
    · obtain ⟨hcores, hm, hn, hp⟩ := State.holdJoin_spec (s := q) (cl := cl) (n := k) rfl
      refine ⟨_, ?_, hcores, hm.trans hmem, hn.trans hnum, hp.trans hpc⟩
      rw [hgo hon hno, State.chordTurn_held hline (by rwa [hpc]) hk]
  · exact ⟨_, State.exec_chordRestart harg hc hatt hon hfr hst, rfl, rfl, by simp [State.modChord]⟩
  · refine ⟨_, State.exec_chordJoinTimeout harg hw hon hl hlim hq, ?_⟩
    rw [State.takeTrap_enters _ _ _ _ _ _ _ (show ((s.modChord cl _).ctx c 0).cap = none from hcap), State.enterHandler_ident, State.enterHandler_ctx, State.enterHandler_mem]
    exact ⟨by simp [joinTimeout], rfl, rfl, rfl, rfl, rfl⟩

end Sys2Proof.Machine
end

section
/-! # Node tables and what a node's completion leaves (O41, O42)

A node's completion changes its own entry and the tables of the schedulers; `keepsUnits` says that it leaves the cores, the
fault queues and the host registers of the dies as they were. -/

namespace Sys2Proof.Machine

theorem Tab.get_eq_find {α : Type} (d : α) (t : Tab α) (k : ℕ) : Tab.get d t k = (Tab.find t k).getD d := by
  induction t with
  | nil => rfl
  | cons e l ih =>
    obtain ⟨i, v⟩ := e
    by_cases hi : i = k
    · simp [Tab.get, Tab.find, hi]
    · simp [Tab.get, Tab.find, hi, ih]
theorem Tab.mem_of_find {α : Type} {t : Tab α} {k : ℕ} {v : α} (h : Tab.find t k = some v) : (k, v) ∈ t := by
  induction t with
  | nil => cases h
  | cons e l ih =>
    obtain ⟨i, w⟩ := e
    by_cases hi : i = k
    · simp only [Tab.find, hi, if_true, Option.some.injEq] at h
      simp [hi, h]
    · simp only [Tab.find, hi, if_false] at h
      exact List.mem_cons_of_mem _ (ih h)
theorem Tab.find_map {α : Type} (t : Tab α) (f : α → α) (k : ℕ) :
    Tab.find (t.map fun e => (e.1, f e.2)) k = (Tab.find t k).map f := by
  induction t with
  | nil => rfl
  | cons e l ih =>
    obtain ⟨i, v⟩ := e
    by_cases hi : i = k
    · simp [Tab.find, hi]
    · simpa [Tab.find, hi] using ih

namespace State
variable {s t u : State} {c d i j k n : ℕ}

@[simp] theorem modSched_sched {f : Sched → Sched} : ((s.modSched d f).die d).sched = f (s.die d).sched := by
  rw [State.modSched, State.modDie_die, if_pos rfl]
theorem modSched_nodeEnt {f : Sched → Sched} (hf : ∀ k, (f k).tdt = k.tdt) :
    (s.modSched n f).nodeEnt d i = s.nodeEnt d i := by
  rw [State.nodeEnt, State.modSched, State.modDie_die]
  split
  · next hd => rw [hf, hd]; rfl
  · rfl

/-! ### What keeps the units -/

/-- Cores, a die's fault queue and its host registers are the same, and whether a wait has been met. -/
def keepsUnits (s t : State) : Prop :=
  t.cores = s.cores ∧ t.clk.met = s.clk.met
  ∧ ∀ d, (t.die d).efq = (s.die d).efq ∧ (t.die d).sched.regs = (s.die d).sched.regs
theorem keepsUnits_refl : keepsUnits s s := ⟨rfl, rfl, fun _ => ⟨rfl, rfl⟩⟩
theorem keepsUnits_ite {q : Prop} [Decidable q] (h : keepsUnits s t) (g : keepsUnits s u) :
    keepsUnits s (if q then t else u) := by
  split <;> assumption
theorem keepsUnits_foldl {α : Type} {f : State → α → State} {l : List α} (h : keepsUnits s t)
    (hf : ∀ {u a}, keepsUnits s u → keepsUnits s (f u a)) : keepsUnits s (l.foldl f t) :=
  l.foldlRecOn f (motive := fun u => keepsUnits s u) h fun _ hu _ _ => hf hu
theorem keepsUnits_modDie {f : Die → Die} (h : keepsUnits s t)
    (hf : ∀ k, (f k).efq = k.efq ∧ (f k).sched.regs = k.sched.regs) :
    keepsUnits s (t.modDie d f) := by
  obtain ⟨hcores, hmet, hdie⟩ := h
  refine ⟨hcores, hmet, fun e => ?_⟩
  rw [← (hdie e).1, ← (hdie e).2, State.modDie_die]
  split
  · next he => exact he ▸ hf _
  · exact ⟨rfl, rfl⟩
theorem keepsUnits_sendNotice {m : Notice} (h : keepsUnits s t) : keepsUnits s (t.sendNotice d m) :=
  keepsUnits_ite (keepsUnits_modDie h fun _ => ⟨rfl, rfl⟩) (keepsUnits_modDie h fun _ => ⟨rfl, rfl⟩)
theorem keepsUnits_signal {l : List Word} {fail : Bool} (h : keepsUnits s t) : keepsUnits s (t.signal d i l fail) :=
  keepsUnits_foldl h keepsUnits_sendNotice

/-! ### Completing a node -/

/-- What the entry of a node that completes becomes, and that the units stay (R59, R342, R343). -/
theorem completeNode_units {l : List Word} {bad : Bool} (ht : s.completeNode d i l bad = t) : keepsUnits s t
    ∧ (t.nodeEnt d i).err = ((s.nodeEnt d i).err || (bad || (s.nodeEnt d i).engerr != 0)) := by
  subst ht
  unfold completeNode
  extract_lets e bad' node p since pkg left s1 s2 s3 s4 s5 s6
  have h1 : keepsUnits s s1 := keepsUnits_foldl keepsUnits_refl fun h => keepsUnits_modDie h fun _ => ⟨rfl, rfl⟩
  have h2 : keepsUnits s s2 := keepsUnits_foldl h1 fun h => keepsUnits_ite (keepsUnits_modDie h fun _ => ⟨rfl, rfl⟩) h
  have g1 : keepsNodes s s1 := keepsNodes_foldl fun _ _ => keepsNodes_modDie (fun _ => rfl) fun _ => rfl
  have g2 : keepsNodes s s2 := keepsNodes_trans g1 keepsNodes_sample
  have h3 : keepsUnits s s3 ∧ keepsNodes s s3 := by
    clear_value p s2
    unfold s3
    split
    · exact ⟨h2, g2⟩
    · extract_lets s3'
      have h3' : keepsUnits s s3' ∧ keepsNodes s s3' := by
        unfold s3'
        split
        · exact ⟨h2, keepsNodes_trans g2 (keepsNodes_modPkg fun _ => rfl)⟩
        · exact ⟨h2, g2⟩
      split
      · exact ⟨keepsUnits_foldl h3'.1 fun h => h, keepsNodes_trans h3'.2 keepsNodes_openRouters⟩
      · exact h3'
  have h5 : keepsUnits s s5 := keepsUnits_modDie (keepsUnits_modDie h3.1 fun _ => ⟨rfl, rfl⟩) fun _ => ⟨rfl, rfl⟩
  have h6 : keepsUnits s s6 := keepsUnits_ite h5 h5
  have g6 : keepsNodes s5 (s6.signal d i l bad') :=
    keepsNodes_trans (keepsNodes_ite keepsNodes_failureEvent keepsNodes_refl) keepsNodes_signal
  refine ⟨keepsUnits_signal h6, ?_⟩
  rw [State.nodeEnt, (g6.2.2 d).1]
  change (s5.nodeEnt d i).err = _
  have he : s4.nodeEnt d i = s.nodeEnt d i :=
    Eq.trans (modSched_nodeEnt fun _ => rfl) (congrArg (Tab.get NodeEnt.reset · i) (h3.2.2.2 d).1)
  simp [s5, he, bad', e]

/-! ### A fold over places -/

/-- In a fold that changes the core of each place in its own turn, a core is changed by its own place alone. -/
theorem foldl_modCore_places {g : ℕ → ℕ} {f : ℕ → Core → Core} {l : List ℕ} (hl : (l.map g).Nodup) :
    (∀ j ∈ l, (l.foldl (fun s i => s.modCore (g i) (f i)) s).core (g j) = f j (s.core (g j)))
    ∧ ∀ c ∉ l.map g, (l.foldl (fun s i => s.modCore (g i) (f i)) s).core c = s.core c := by
  induction l generalizing s with
  | nil => exact ⟨nofun, fun _ _ => rfl⟩
  | cons e l ih =>
    rw [List.map_cons, List.nodup_cons] at hl
    obtain ⟨hin, hout⟩ := ih (s := s.modCore (g e) (f e)) hl.2
    refine ⟨fun j hj => ?_, fun c hc => ?_⟩
    · rw [List.foldl_cons]
      rcases List.mem_cons.mp hj with rfl | hj
      · rw [hout _ hl.1, State.modCore_core, if_pos rfl]
      · rw [hin j hj, State.modCore_core, if_neg fun h : g j = g e => hl.1 (h ▸ List.mem_map_of_mem hj)]
    · rw [List.map_cons, List.mem_cons, not_or] at hc
      rw [List.foldl_cons, hout c hc.2, State.modCore_core, if_neg hc.1]
theorem range_map_getD (l : List ℕ) : ((List.range l.length).map fun i => l.getD i 0) = l := by
  refine List.ext_getElem (by simp) fun i h _ => ?_
  simp only [List.length_map, List.length_range] at h
  simp [h]

end State
end Sys2Proof.Machine
end

section
/-! # Ageing, dispatch and notices of a die's scheduler (O41) -/

namespace Sys2Proof.Machine

/-- A ready node's entry after an ageing turn (R55). -/
def NodeEnt.aged (e : NodeEnt) (pri time : ℕ) : NodeEnt :=
  { e with epri := min 7 (pri + (time + 2 ^ 44 - e.rtime) % 2 ^ 44 / 2 ^ 20) }

namespace State
variable {s t u : State} {d i j k : ℕ}

/-! ### Ageing and skipping -/

theorem exec_priorityAging : exec .priorityAging s = execPriorityAging s := rfl
theorem exec_skipLimit (ha : s.arg 0 = d) : exec .skipLimit s = .next (s.modSched d fun k =>
    { k with skipped := k.skipped.map fun e => if 2 ^ 22 ≤ s.clk.cycle - e.2 then (e.1, 0) else e }) := by
  rw [← ha]
  rfl
theorem exec_schedulerDispatch : exec .schedulerDispatch s = execSchedulerDispatch s := rfl
@[simp] theorem wordsFor_modNode {f : NodeEnt → NodeEnt} : (s.modNode d i f).wordsFor d j = s.wordsFor d j := by
  simp [State.wordsFor, State.descWords, State.modNode]
/-- A node's entry in an ageing turn: every listed node ages once, however often it is listed. -/
theorem foldl_age_nodeEnt {time : ℕ} (l : List (ℕ × NodeEnt)) :
    let t := l.foldl (fun (s : State) e => s.modNode d e.1 fun n => n.aged (nodePri (s.wordsFor d e.1)) time) s
    t.mem = s.mem ∧ t.cores = s.cores ∧ t.nodeEnt d i = if i ∈ l.map Prod.fst
      then (s.nodeEnt d i).aged (nodePri (s.wordsFor d i)) time else s.nodeEnt d i := by
  induction l generalizing s with
  | nil => exact ⟨rfl, rfl, rfl⟩
  | cons e l ih =>
    obtain ⟨hm, hc, hn⟩ := ih (s := s.modNode d e.1 fun n => n.aged (nodePri (s.wordsFor d e.1)) time)
    refine ⟨hm, hc, hn.trans ?_⟩
    rw [wordsFor_modNode, State.modNode_nodeEnt]
    by_cases hi : i = e.1
    · subst hi
      simp [NodeEnt.aged]
    · simp only [hi, and_false, if_false, List.map_cons, List.mem_cons, false_or]
theorem nodeEnt_mem (h : (s.nodeEnt d i).state = 2) : (i, s.nodeEnt d i) ∈ (s.die d).sched.tdt := by
  rw [State.nodeEnt, Tab.get_eq_find] at h ⊢
  cases hf : Tab.find (s.die d).sched.tdt i with
  | none => rw [hf] at h; cases h
  | some e => exact Tab.mem_of_find hf

/-! ### Dispatch -/

theorem failDispatch_units {l : List Word} {code a : ℕ} (hroom : (s.die d).efq.length < 256)
    (ht : s.failDispatch d i l code a = t) : t.cores = s.cores ∧ (t.nodeEnt d i).err = true ∧ ∃ r,
      (t.die d).efq = (s.die d).efq ++ [r] ∧ r.w0 = efWord 5 code (s.nodeId d i) 0 0 ∧ r.w2 = BitVec.ofNat 64 a := by
  obtain ⟨⟨hcores, -, hdie⟩, herr⟩ := completeNode_units ht
  have hefq : ((s.schedFault d i code a).die d).efq = (s.die d).efq
      ++ [⟨efWord 5 code (s.nodeId d i) 0 0, BitVec.ofNat 64 (s.time (d / 4)), BitVec.ofNat 64 a, BitVec.ofNat 64 0⟩] := by
    simp [State.schedFault, State.countError, State.modNode, State.modSched, State.engineFault, hroom]
  exact ⟨hcores, herr.trans (by simp), _, ((hdie d).1.trans hefq), rfl, rfl⟩
theorem efWord_unit {unit code node core bar : ℕ} (hu : unit < 2 ^ 8) (hc : code < 2 ^ 8) :
    (efWord unit code node core bar).toNat / 2 ^ 48 = unit * 256 + code := by
  rw [efWord, BitVec.toNat_ofNat]
  omega
theorem schedulerDispatch_one (ha : s.arg 0 = d) (h : s.readyList d = [i]) :
    exec .schedulerDispatch s = .next (s.consider d [] i).1 := by
  rw [exec_schedulerDispatch, execSchedulerDispatch, ha, h]
  rfl
theorem consider_bad {a : ℕ} (h : s.dispatchBad d (s.nodeEnt d i).part (s.wordsFor d i) = some a) :
    (s.consider d [] i).1 = s.failDispatch d i (s.wordsFor d i) 5 a := by
  simp only [State.consider, h]

section
variable {l : List Word} (hl : s.descWords d i = l) (hsaved : Tab.find (s.die d).sched.saved i = none)
  (hok : s.dispatchBad d (s.nodeEnt d i).part l = none) (hk : nodeKind l ≤ 1)
include hl hsaved hok hk
theorem consider_cores : (s.consider d [] i).1 = match s.placeCores d i l [] with
    | some t => t
    | none => s.modSched d fun q =>
      { q with skipped := Tab.set q.skipped i ((Tab.find (s.die d).sched.skipped i).getD s.clk.cycle) } := by
  have hw : s.wordsFor d i = l := by rw [State.wordsFor, hsaved, hl]
  have hkept : keptDies [] d (s.nodeEnt d i).part = [] := rfl
  have hbar : barred [] (nodeKind l) (s.nodeEnt d i).part = false := rfl
  simp only [State.consider, hw, hok, hkept, hbar, hk, if_true, Bool.false_eq_true, if_false]
  cases s.placeCores d i l [] <;> rfl
end
/-- The state in which a node of cores with nothing saved is placed (R44, R56 to R58). -/
theorem placeCores_some {l : List Word} {cores cls : List ℕ} {line : ℕ} (hsaved : Tab.find (s.die d).sched.saved i = none)
    (hfit : s.fit d i l [] = some (cores, cls)) (hline : s.freeLine (d / 4) = some line) :
    s.placeCores d i l [] = some (((s.modPkg (d / 4) fun k =>
      { k with domains := Tab.set k.domains line ⟨s.nodeId d i, false, 0⟩ }).claimCores d i l cores []).enterPlaced d i
        (s.newPlaced l cores cls true (some line))) := by
  simp [State.placeCores, hfit, hline, hsaved]
theorem enterPlaced_spec {p : Placed} (ht : s.enterPlaced d i p = t) : t.mem = s.mem ∧ t.tags = s.tags
    ∧ t.core = s.core ∧ (t.nodeEnt d i).state = 3 ∧ Tab.find (t.die d).sched.placed i = some p := by
  subst ht
  refine ⟨rfl, rfl, rfl, by simp [State.enterPlaced], ?_⟩
  simp [State.enterPlaced, State.modNode]
theorem claimCores_spec {l : List Word} {cores : List ℕ} (hcores : cores.Nodup) (ht : s.claimCores d i l cores [] = t) :
    t.mem = s.mem ∧ t.tags = s.tags
    ∧ (∀ j, j < cores.length → (t.core (cores.getD j 0)).ident = ⟨1, false, cores.getD j 0 % 8,
        if nodeKind l = 0 then lclusterAt l j else 0, s.nodeId d i, (s.nodeEnt d i).part, true, false, d⟩)
    ∧ ∀ c, c ∉ cores → t.core c = s.core c := by
  subst ht
  unfold State.claimCores
  extract_lets node part places
  have hplaces : places = List.range cores.length := by simp [places]
  rw [hplaces]
  obtain ⟨hin, hout⟩ := foldl_modCore_places (s := s) (g := fun i => cores.getD i 0) (l := List.range cores.length)
    (f := fun i k => { k.fresh ⟨1, false, cores.getD i 0 % 8, if nodeKind l = 0 then lclusterAt l i else 0, node, part, true,
      false, d⟩ (codeOff l) with sync := ⟨true, false, none, none⟩ }) (by rwa [range_map_getD])
  refine ⟨?_, ?_, fun j hj => ?_, fun c hc => ?_⟩
  · exact (List.range _).foldlRecOn _ (motive := fun u : State => u.mem = s.mem) rfl fun _ h _ _ => h
  · exact (List.range _).foldlRecOn _ (motive := fun u : State => u.tags = s.tags) rfl fun _ h _ _ => h
  · exact congrArg Core.ident (hin j (List.mem_range.mpr hj))
  · exact hout c (by rwa [range_map_getD])

/-! ### Notices -/

/-- A notice is out of its die's table. -/
def unnoticed (s : State) (d k : ℕ) : State := s.modSched d fun q => { q with notices := Tab.del q.notices k }
theorem unnoticed_nodeEnt : (s.unnoticed d k).nodeEnt d i = s.nodeEnt d i := modSched_nodeEnt fun _ => rfl
theorem unnoticed_find : Tab.find ((s.unnoticed d k).die d).sched.notices k = none := by simp [unnoticed]
section
variable {n : Notice} (ha : s.clk.args = [d, k]) (hn : Tab.find (s.die d).sched.notices k = some n)
  (hg : s.graphPart d n.idx = some n.part)
include hn hg
theorem takeNotice_eq {f : Notice → State → State} : s.takeNotice d k f = f n (s.unnoticed d k) := by
  have hg' : (s.unnoticed d k).graphPart d n.idx = some n.part := by
    rw [← hg]; simp [unnoticed, State.graphPart]
  simp only [State.takeNotice, hn]
  exact if_pos hg'
include ha
theorem exec_decrement : exec .decrement s = .next (
    if (s.nodeEnt d n.idx).state ≠ 1 then (s.unnoticed d k).modNode d n.idx fun e => { e with err := true }
    else if (s.nodeEnt d n.idx).count ≤ 1 then
      ((s.unnoticed d k).modNode d n.idx fun e => { e with count := e.count - 1 }).readyNode d n.idx
    else (s.unnoticed d k).modNode d n.idx fun e => { e with count := e.count - 1 }) := by
  show execDecrement s = _
  simp only [execDecrement, State.arg, ha, List.getD_cons_zero, List.getD_cons_succ, takeNotice_eq hn hg, unnoticed_nodeEnt]
theorem exec_failureNotice : exec .failureNotice s = .next (
    if (s.nodeEnt d n.idx).state ≠ 1 then s.unnoticed d k
    else ((s.unnoticed d k).modNode d n.idx fun e => { e with state := 5, err := true }).signal d n.idx
      ((s.unnoticed d k).descWords d n.idx) true) := by
  show execFailureNotice s = _
  simp only [execFailureNotice, State.arg, ha, List.getD_cons_zero, List.getD_cons_succ, takeNotice_eq hn hg, unnoticed_nodeEnt]
end
@[simp] theorem descWords_modNode {f : NodeEnt → NodeEnt} : (s.modNode d i f).descWords d j = s.descWords d j := by
  simp [State.descWords, State.modNode]
theorem readyNode_spec (ht : s.readyNode d i = t) : (∀ k, Tab.find (t.die d).sched.notices k = Tab.find (s.die d).sched.notices k)
    ∧ t.nodeEnt d i = { s.nodeEnt d i with
        state := 2, rtime := s.time (d / 4) % 2 ^ 44, epri := nodePri (s.descWords d i) } := by
  subst ht
  refine ⟨fun k => by simp [State.readyNode, State.modNode], ?_⟩
  rw [State.readyNode, State.modNode_nodeEnt, if_pos ⟨rfl, rfl⟩, modSched_nodeEnt]
  exact fun _ => rfl
theorem signal_nodeEnt {l : List Word} {fail : Bool} : (s.signal d i l fail).nodeEnt d j = s.nodeEnt d j :=
  congrArg (Tab.get NodeEnt.reset · j) ((keepsNodes_signal (s := s)).2.2 d).1

end State

/-- Settles O41, event by event: each clause is one outcome of the event. -/
theorem nodeReadiness : Obligations.NodeReadiness := by
  unfold Obligations.NodeReadiness
  constructor
  · intro s d hargs time
    have harg : s.arg 0 = d := by simp [State.arg, hargs]
    refine ⟨?age, ?skip, ?none, ?bad, ?place⟩
    case age =>
      have hfold (i : ℕ) := State.foldl_age_nodeEnt (s := s) (d := d) (i := i) (time := time)
        ((s.die d).sched.tdt.filter fun e => e.2.state == 2)
      refine ⟨_, by rw [State.exec_priorityAging, execPriorityAging, harg]; rfl, (hfold 0).1, (hfold 0).2.1, fun i hi => ?_,
        fun i hi => ?_⟩
      · refine (hfold i).2.2.trans (if_pos ?_)
        exact List.mem_map_of_mem (f := Prod.fst) (List.mem_filter.mpr ⟨State.nodeEnt_mem hi, by simp [hi]⟩)
      · refine (hfold i).2.2.trans (if_neg fun hm => ?_)
        obtain ⟨e, he, rfl⟩ := List.mem_map.mp hm
        obtain ⟨he, h2⟩ := List.mem_filter.mp he
        exact hi e he rfl (by simpa using h2)
    case skip =>
      refine ⟨_, State.exec_skipLimit harg, rfl, rfl, fun i => ?_⟩
      rw [State.modSched_sched, ← Tab.find_map]
      refine congrArg (Tab.find · i) (List.map_congr_left fun e _ => ?_)
      split <;> rfl
    case none =>
      intro hr
      rw [State.exec_schedulerDispatch, execSchedulerDispatch, harg, hr]
      rfl
    case bad =>
      intro i a hr hbad hroom
      obtain ⟨hcores, herr, r, hefq, hw0, hw2⟩ := State.failDispatch_units (l := s.wordsFor d i) (code := 5) (a := a) hroom rfl
      refine ⟨_, r, ?_, State.failDispatch_result.2, herr, hcores, hefq, ?_, hw2⟩
      · rw [State.schedulerDispatch_one harg hr, State.consider_bad hbad]
      · rw [hw0, State.efWord_unit (by norm_num) (by norm_num)]
    case place =>
      intro i hr hsaved part l
      have hone := State.schedulerDispatch_one harg hr
      refine ⟨fun cores cls line hok hk hfit hline hnd => ?_, fun hok hk hfit => ?_⟩
      · rw [State.consider_cores rfl hsaved hok hk, State.placeCores_some hsaved hfit hline] at hone
        obtain ⟨hm, htag, hcore, hstate, hplaced⟩ := State.enterPlaced_spec (rfl : State.enterPlaced _ d i _ = _)
        obtain ⟨gm, gtag, gin, gout⟩ := State.claimCores_spec (s := s.modPkg (d / 4) _) (d := d) (i := i) (l := l) hnd rfl
        refine ⟨_, _, hone, hm.trans gm, htag.trans gtag, hstate, hplaced, rfl, rfl, rfl, rfl, rfl, ?_, ?_⟩
        · rw [hcore]; exact gin
        · rw [hcore]; exact gout
      · rw [State.consider_cores rfl hsaved hok hk, show s.placeCores d i l [] = none by simp [State.placeCores, hfit]] at hone
        exact ⟨_, hone, State.modSched_nodeEnt fun _ => rfl, rfl, rfl, by simp⟩
  · intro s d k n hargs hn hg e
    refine ⟨fun h1 hc => ?_, fun h1 hc => ?_, fun h1 => ?_, fun h1 => ?_, fun h1 => ?_⟩
    · refine ⟨_, (State.exec_decrement hargs hn hg).trans
        (congrArg _ ((if_neg (not_not.mpr h1)).trans (if_neg (not_le.mpr hc)))), ?_, ?_⟩
      · simp [State.unnoticed_nodeEnt, e]
      · simp [State.modNode, State.unnoticed_find]
    · obtain ⟨hnot, hent⟩ := State.readyNode_spec (s := (s.unnoticed d k).modNode d n.idx fun e => { e with count := e.count - 1 })
        (d := d) (i := n.idx) rfl
      refine ⟨_, (State.exec_decrement hargs hn hg).trans (congrArg _ ((if_neg (not_not.mpr h1)).trans (if_pos hc))),
        hent.trans ?_, (hnot k).trans ?_⟩
      · have hdesc : (s.unnoticed d k).descWords d n.idx = s.descWords d n.idx := by simp [State.unnoticed, State.descWords]
        have htime : ((s.unnoticed d k).modNode d n.idx fun e => { e with count := e.count - 1 }).time (d / 4) = s.time (d / 4) := rfl
        simp [hdesc, htime, State.unnoticed_nodeEnt, e]
      · simp [State.modNode, State.unnoticed_find]
    · refine ⟨_, (State.exec_decrement hargs hn hg).trans (congrArg _ (if_pos h1)), ?_⟩
      simp [State.unnoticed_nodeEnt, e]
    · refine ⟨_, (State.exec_failureNotice hargs hn hg).trans (congrArg _ (if_neg (not_not.mpr h1))), ?_⟩
      rw [State.signal_nodeEnt]
      simp [State.unnoticed_nodeEnt, e]
    · exact ⟨_, (State.exec_failureNotice hargs hn hg).trans (congrArg _ (if_pos h1)), State.unnoticed_nodeEnt⟩

end Sys2Proof.Machine
end

section
/-! # How a node's cores start, how its records are pushed and how it ends (O42) -/

namespace Sys2Proof.Machine

/-- A core of a node as it starts (R58). -/
def Placed.starts (p : Placed) (now : ℕ) (k : Core) : Core :=
  { k.startAt (entryPc p.words) now with ident := { k.ident with mode := if nodeKind p.words = 0 then 0 else 2 } }
/-- The Chord of a cluster of a LOCK node as it starts (R56). -/
def Placed.chord (p : Placed) (s : State) (cl : ℕ) : Chord :=
  { Chord.reset with on := true, pc := entryPc p.words, decided := true,
                     node := (s.core (cl * 8)).ident.node, home := (s.core (cl * 8)).ident.home }

namespace State
variable {s t u : State} {c cl d i k n r : ℕ} {p : Placed}

/-! ### The cores start -/

theorem foldl_modChord_on {f : State → ℕ → Chord} {pc : ℕ} (hf : ∀ s cl, (f s cl).on = true ∧ (f s cl).pc = pc) (l : List ℕ)
    (hcl : cl ∈ l ∨ (s.cluster cl).chord.on = true ∧ (s.cluster cl).chord.pc = pc) :
    ((l.foldl (fun s cl => s.modChord cl fun _ => f s cl) s).cluster cl).chord.on = true
    ∧ ((l.foldl (fun s cl => s.modChord cl fun _ => f s cl) s).cluster cl).chord.pc = pc := by
  induction l generalizing s with
  | nil => exact hcl.resolve_left List.not_mem_nil
  | cons e l ih =>
    refine ih (or_iff_not_imp_left.mpr fun hl => ?_)
    simp only [State.modChord, State.modCluster_cluster]
    rcases eq_or_ne cl e with rfl | he
    · rw [if_pos rfl]; exact hf s cl
    · rw [if_neg he]
      exact hcl.resolve_left (List.not_mem_cons_of_ne_of_not_mem he hl)
/-- The cores and the Chords of a node that starts; the tables stay (R56 to R58). -/
theorem startCores_spec (ht : s.startCores p = t) : t.mem = s.mem ∧ t.clk = s.clk
    ∧ (∀ c ∈ p.cores, t.core c = p.starts s.clk.cycle (s.core c))
    ∧ (nodeKind p.words = 0 → ∀ cl ∈ p.clusters, (t.cluster cl).chord.on = true ∧ (t.cluster cl).chord.pc = entryPc p.words) := by
  subst ht
  unfold State.startCores
  extract_lets now pc mode s1
  have h1 : s1.mem = s.mem ∧ s1.clk = s.clk :=
    p.cores.foldlRecOn _ (motive := fun u : State => u.mem = s.mem ∧ u.clk = s.clk) ⟨rfl, rfl⟩ fun _ h _ _ => h
  have hcore : ∀ c ∈ p.cores, s1.core c = p.starts s.clk.cycle (s.core c) := fun c hc =>
    (State.foldl_modCore_core (f := p.starts s.clk.cycle) (fun _ => rfl) p.cores s c).trans (if_pos hc)
  split
  · refine ⟨?_, ?_, fun c hc => ?_, fun _ cl hcl => foldl_modChord_on (f := p.chord) (fun _ _ => ⟨rfl, rfl⟩) _ (.inl hcl)⟩
    · exact p.clusters.foldlRecOn _ (motive := fun u : State => u.mem = s.mem) h1.1 fun _ h _ _ => h
    · exact p.clusters.foldlRecOn _ (motive := fun u : State => u.clk = s.clk) h1.2 fun _ h _ _ => h
    · exact p.clusters.foldlRecOn _ (motive := fun u : State => u.core c = p.starts s.clk.cycle (s.core c)) (hcore c hc)
        fun _ h _ _ => h
  · next hm => exact ⟨h1.1, h1.2, hcore, fun hk => absurd (if_pos hk) hm⟩
theorem unmet_eq {f : State → State} (h : f s.fresh = t) (hm : t.clk.met = false) : s.unmet f = t := by
  subst h
  exact if_neg (show ¬(f s.fresh).clk.met = true by rw [hm]; exact Bool.false_ne_true)
theorem codeCopyComplete_starts {s1 s2 s3 : State} {l : List ℕ} (ha : s.clk.args = [d, i])
    (hp : Tab.find (s.die d).sched.placed i = some p) (hc : p.copying = true) (hr : p.ring = false) (hb : p.bad = false)
    (hs : Tab.find (s.die d).sched.saved i = none) (h1 : s.fresh.copyCode (s.nodeIssuer d i) p = (s1, .ok ()))
    (h2 : s1.copySlots (s.nodeIssuer d i) p = (s2, .ok ())) (h3 : s2.readBatch (s.nodeIssuer d i) p = (s3, .ok l))
    (hmet : s3.clk.met = false) : exec .codeCopyComplete s = .next ((s3.startCores p).modSched d fun k =>
      { k with placed := Tab.set k.placed i { p with copying := false, batch := l } }) := by
  have hclk : (s3.startCores p).clk = s3.clk := (startCores_spec rfl).2.1
  show execCodeCopyComplete s = _
  have hp' : Tab.find (s.fresh.die d).sched.placed i = some p := hp
  have hs' : Tab.find (s.fresh.die d).sched.saved i = none := hs
  have hb' : s.fresh.nodeIssuer d i = s.nodeIssuer d i := rfl
  rw [execCodeCopyComplete]
  simp only [State.arg, ha, List.getD_cons_zero, List.getD_cons_succ]
  refine congrArg _ (unmet_eq ?_ (t := State.modSched _ d _) ((congrArg Clock.met hclk).trans hmet))
  simp [hp', hs', hb', hc, hr, hb, h1, h2, h3]

/-! ### A batch's records -/

theorem pushBatch_pushes (h7 : r / 2 ^ 57 % 2 ^ 7 = 0) (h8 : r / 2 ^ 24 % 2 ^ 8 = 0) (h1 : r % 2 = 0) :
    s.pushBatch d i k r = s.pushRecord d ⟨r / 2 ^ 56 % 2, r / 2 ^ 48 % 2 ^ 8, s.nodeId d i, r % 2 ^ 24,
      BitVec.ofNat 64 (r / 2 ^ 64), BitVec.ofNat 64 (r / 2 ^ 128), BitVec.ofNat 64 (r / 2 ^ 192), BitVec.ofNat 64 (r / 2 ^ 256),
      BitVec.ofNat 64 (r / 2 ^ 320), BitVec.ofNat 64 (r / 2 ^ 384), BitVec.ofNat 64 (r / 2 ^ 448)⟩ 0 0 none := by
  have h56 : r % 2 ^ 64 / 2 ^ 56 % 2 ^ 1 = r / 2 ^ 56 % 2 := by omega
  have h48 : r % 2 ^ 64 / 2 ^ 48 % 2 ^ 8 = r / 2 ^ 48 % 2 ^ 8 := by omega
  have h0 : r % 2 ^ 64 / 2 ^ 0 % 2 ^ 24 = r % 2 ^ 24 := by omega
  unfold State.pushBatch
  extract_lets w f
  rw [if_neg (by simp only [bits, w]; omega)]
  simp only [bits, w, h56, h48, h0, f, Nat.reduceMul]

/-- A batch's last record is considered (R57): pushed where the pool has room for it. -/
theorem batchPush_last (ha : s.clk.args = [d, i]) (hp : Tab.find (s.die d).sched.placed i = some p) (hc : p.copying = false)
    (hb : p.bad = false) (hlast : p.batch.drop p.batchPos = [r]) : exec .batchPush s = .next (
      if s.poolSize d + 1024 < 65536 then (s.pushBatch d i (wd p.words 14 + 64 * p.batchPos) r).modSched d fun k =>
        { k with placed := Tab.set k.placed i { p with batchPos := p.batchPos + 1 } }
      else s.modSched d fun k => { k with placed := Tab.set k.placed i { p with batchPos := p.batchPos } }) := by
  show execBatchPush s = _
  rw [execBatchPush]
  simp only [State.arg, ha, List.getD_cons_zero, List.getD_cons_succ, hp]
  rw [if_neg (by simp [hc, hb])]
  simp only [hlast, State.pushRoom]
  split <;> rfl

/-! ### A core leaves -/

theorem idleChord_dies : (s.idleChord cl).dies = s.dies := by unfold State.idleChord; split <;> rfl
theorem leaveSync_frame (ht : s.leaveSync c = t) : t.mem = s.mem ∧ t.dies = s.dies ∧ ∀ e, (t.core e).ident = (s.core e).ident := by
  subst ht
  unfold State.leaveSync
  split
  · extract_lets s'
    have h : s'.mem = s.mem ∧ s'.dies = s.dies ∧ ∀ e, (s'.core e).ident = (s.core e).ident := by
      refine ⟨rfl, rfl, fun e => ?_⟩
      simp only [s', State.modCore_core]
      split
      · next he => rw [he]
      · rfl
    split <;> exact h
  · exact ⟨rfl, rfl, fun _ => rfl⟩
theorem endCoreOps_frame (ht : s.endCoreOps c = t) : t.mem = s.mem ∧ t.dies = s.dies ∧ t.cores = s.cores ∧ t.pkgs = s.pkgs := by
  subst ht
  exact List.foldlRecOn _ _ (motive := fun u : State => u.mem = s.mem ∧ u.dies = s.dies ∧ u.cores = s.cores ∧ u.pkgs = s.pkgs)
    ⟨rfl, rfl, rfl, rfl⟩ fun _ h _ _ => h
/-- A host start ends (R131, R376). -/
theorem endStart_spec (ht : s.endStart c = t) : (t.core c).ident = CoreIdent.reset ∧ (t.core c).csr.barbase = 0x7FE
    ∧ (t.die (dieOf c)).sched.regs.csRun = none ∧ t.mem = s.mem
    ∧ ((s.core c).stat.dtrap = none → (t.die (dieOf c)).efq = (s.die (dieOf c)).efq)
    ∧ ∀ n, (s.core c).stat.dtrap = some n → (s.die (dieOf c)).efq.length < 256 → ∃ r,
        (t.die (dieOf c)).efq = (s.die (dieOf c)).efq ++ [r] ∧ r.w0.toNat / 2 ^ 48 = 5 * 256 + 15 ∧ r.w3 = BitVec.ofNat 64 n := by
  subst ht
  unfold State.endStart
  extract_lets die s'
  obtain ⟨hmem, hdies, -, -⟩ := endCoreOps_frame (rfl : s.endCoreOps c = _)
  have hm : s'.mem = s.mem := hmem
  have hcore : s'.core c = ((s.endCoreOps c).core c).fresh CoreIdent.reset 0 := by
    show ((s.endCoreOps c).idleCore c).core c = _
    rw [State.idleCore, State.modCore_core, if_pos rfl]
  have hident : (s'.core c).ident = CoreIdent.reset ∧ (s'.core c).csr.barbase = 0x7FE := by rw [hcore]; exact ⟨rfl, rfl⟩
  have hefq : (s'.die die).efq = (s.die die).efq ∧ (s'.die die).sched.regs.csRun = none := by
    have hd : ((s.endCoreOps c).idleCore c).die die = s.die die := congrArg (Tab.get Die.reset · die) hdies
    simp [s', State.modSched, hd]
  cases hdt : (s.core c).stat.dtrap with
  | none => exact ⟨hident.1, hident.2, hefq.2, hm, fun _ => hefq.1, nofun⟩
  | some m =>
    have hdie : ∀ u : State, ((u.engineFault die 5 15 0 0 0 0 m).die die).sched = (u.die die).sched := fun u => by
      simp only [State.engineFault, State.modDie_die, if_true]
      split <;> rfl
    refine ⟨hident.1, hident.2, ?_, hm, nofun, fun n hn hroom => ?_⟩
    · exact (congrArg (·.regs.csRun) (hdie s')).trans hefq.2
    · cases hn
      refine ⟨⟨efWord 5 15 0 0 0, BitVec.ofNat 64 (s'.time (die / 4)), BitVec.ofNat 64 0, BitVec.ofNat 64 m⟩, ?_,
        efWord_unit (by norm_num) (by norm_num), rfl⟩
      rw [← hefq.1] at hroom ⊢
      simp [State.engineFault, hroom, die]
/-- A core that leaves its node is idle, and the node completes with the last (R59). -/
theorem leaveNode_spec {q : ℕ} (hd : (s.core c).ident.home = d) (hb : p.bad = false) (ht : s.leaveNode c i q p = t) :
    (t.core c).ident = CoreIdent.reset ∧ t.mem = s.mem
    ∧ (p.gone.length + 1 < p.cores.length → (t.nodeEnt d i).state = (s.nodeEnt d i).state
      ∧ Tab.find (t.die d).sched.placed i = some { p with gone := q :: p.gone })
    ∧ (p.cores.length ≤ p.gone.length + 1 → (t.nodeEnt d i).state = (if (s.nodeEnt d i).engerr = 0 then 4 else 5)
      ∧ Tab.find (t.die d).sched.placed i = none) := by
  subst ht
  unfold State.leaveNode
  extract_lets k die disc s1 s2 p' s3 s4
  obtain rfl : die = d := hd
  obtain ⟨hm, hdies, hident⟩ := leaveSync_frame (rfl : s.leaveSync c = _)
  obtain ⟨gm, gdies, gcores, -⟩ := endCoreOps_frame (rfl : (s.leaveSync c).endCoreOps c = _)
  have hnode : s1.nodeEnt die i = { s.nodeEnt die i with disc := min 65535 ((s.nodeEnt die i).disc + disc) } := by
    have hsame : ((s.leaveSync c).endCoreOps c).nodeEnt die i = s.nodeEnt die i :=
      congrArg (fun t => Tab.get NodeEnt.reset (Tab.get Die.reset t die).sched.tdt i) (gdies.trans hdies)
    simp [s1, hsame]
  have hdie2 : s2.dies = s1.dies := idleChord_dies
  have hm2 : s2.mem = s.mem := by
    rw [show s2 = State.idleChord _ _ from rfl, idleChord_mem]
    exact gm.trans hm
  have hcore2 : (s2.core c).ident = CoreIdent.reset := by
    simp only [s2, idleChord_core, State.freeCore, State.modCore_core, if_true]
    rfl
  have hnode3 : s3.nodeEnt die i = s1.nodeEnt die i := Eq.trans (modSched_nodeEnt fun _ => rfl)
    (congrArg (fun t => Tab.get NodeEnt.reset (Tab.get Die.reset t die).sched.tdt i) hdie2)
  have hplaced3 : Tab.find (s3.die die).sched.placed i = some p' := by simp [s3]
  split
  · next hlt =>
    refine ⟨hcore2, hm2, fun _ => ⟨by rw [hnode3, hnode], hplaced3⟩, fun hle => ?_⟩
    simp only [p', List.length_cons] at hlt
    omega
  · next hlt =>
    have h4 : s4.cores = s3.cores ∧ s4.dies = s3.dies ∧ s4.mem = s3.mem :=
      p'.clusters.foldlRecOn _ (motive := fun u : State => u.cores = s3.cores ∧ u.dies = s3.dies ∧ u.mem = s3.mem)
        ⟨rfl, rfl, rfl⟩ fun _ h _ _ => by split <;> exact h
    obtain ⟨hcores4, hdies4, hm4⟩ := h4
    have hnode4 : s4.nodeEnt die i = s3.nodeEnt die i :=
      congrArg (fun t => Tab.get NodeEnt.reset (Tab.get Die.reset t die).sched.tdt i) hdies4
    obtain ⟨hmem, -, hstate, hnone⟩ := completeNode_result (s := s4) (d := die) (i := i) (l := p'.words) (bad := p'.bad)
    obtain ⟨⟨hcores, -, -⟩, -⟩ := completeNode_units (rfl : s4.completeNode die i p'.words p'.bad = _)
    refine ⟨?_, hmem.trans (hm4.trans hm2), fun hgt => ?_, fun _ => ⟨?_, hnone⟩⟩
    · exact (congrArg (fun t => (Tab.get Core.reset t c).ident) (hcores.trans hcores4)).trans hcore2
    · simp only [p', List.length_cons] at hlt
      omega
    · rw [hstate, hnode4, hnode3, hnode, show p'.bad = false from hb]
      by_cases he : (s.nodeEnt die i).engerr = 0 <;> simp [he]

theorem exec_coreLeaveNode : exec .coreLeaveNode s = execCoreLeaveNode s := rfl
section
variable (ha : s.clk.args = [c]) (hst : (s.core c).stat.stopped = false) (hq : s.quiet c = true)
include ha hst hq
theorem coreLeaveNode_start (hs : (s.core c).ident.started = true) (hd : s.drained c = true) :
    exec .coreLeaveNode s = .next (s.endStart c) := by
  simp [exec_coreLeaveNode, execCoreLeaveNode, State.arg, ha, hst, hq, hs, hd]
theorem coreLeaveNode_stays (hd : s.drained c = false) : exec .coreLeaveNode s = .next s := by
  simp only [exec_coreLeaveNode, execCoreLeaveNode, State.arg, ha, List.getD_cons_zero, hst, hq, hd, Bool.not_true, Bool.or_self,
    Bool.not_false, Bool.or_true, Bool.false_eq_true, if_false, if_true]
  refine congrArg _ ?_
  split
  · rfl
  · split
    · rfl
    · split <;> rfl
theorem coreLeaveNode_leaves (hs : (s.core c).ident.started = false) (hpl : (s.core c).ident.placed = true)
    (hp : Tab.find (s.die (s.core c).ident.home).sched.placed ((s.core c).ident.node % 4096) = some p) (hc : p.copying = false)
    (hpos : p.batch.length ≤ p.batchPos) (hd : s.drained c = true) : exec .coreLeaveNode s
      = .next (s.leaveNode c ((s.core c).ident.node % 4096) (indexIn c p.cores) p) := by
  simp [exec_coreLeaveNode, execCoreLeaveNode, State.arg, ha, hst, hq, hs, hpl, hp, hc, hd, Nat.not_lt.mpr hpos]
end

/-! ### A list node is done -/

theorem engineNodeComplete_done (ha : s.clk.args = [d, i]) (hp : Tab.find (s.die d).sched.placed i = some p)
    (hk : nodeKind p.words = 2 ∨ nodeKind p.words = 3) (hpos : wd p.words 12 ≤ p.listPos) (hops : ∀ k ∈ p.ops, k ∉ s.net.live)
    (hrun : (s.die d).sched.regs.phase ≠ 2 ∨ (s.die d).sched.regs.runNode ≠ i ∨ p.bad = true) :
    exec .engineNodeComplete s = .next (s.fresh.completeNode d i p.words (p.bad || (s.nodeEnt d i).engerr != 0)) := by
  have hmet := (completeNode_units (rfl : s.fresh.completeNode d i p.words (p.bad || (s.nodeEnt d i).engerr != 0) = _)).1.2.1
  have hp' : Tab.find (s.fresh.die d).sched.placed i = some p := hp
  have hr' : (s.fresh.die d).sched.regs = (s.die d).sched.regs := rfl
  have he' : s.fresh.nodeEnt d i = s.nodeEnt d i := rfl
  have hdone : s.fresh.done p.ops = true := by
    rw [State.done, List.all_eq_true]
    exact fun k hk => by simpa [State.fresh] using hops k hk
  show execEngineNodeComplete s = _
  rw [execEngineNodeComplete]
  simp only [State.arg, ha, List.getD_cons_zero, List.getD_cons_succ]
  refine congrArg _ (unmet_eq ?_ hmet)
  simp only [hp', hr', he']
  rw [if_neg (by omega), if_neg (by rcases hrun with h | h | h <;> simp [h]), if_neg (by simp [Nat.not_lt.mpr hpos]), if_pos hdone]

end State

/-- Settles O42, event by event: each clause is one outcome of the event. -/
theorem nodeLife : Obligations.NodeLife := by
  unfold Obligations.NodeLife
  refine ⟨?copy, ?batch, ?leave, ?list⟩
  case copy =>
    intro s s1 s2 s3 d i p l ha hp hc hr hb hs hk h1 h2 h3 hmet
    obtain ⟨hm, -, hcore, hchord⟩ := State.startCores_spec (s := s3) (p := p) rfl
    refine ⟨_, State.codeCopyComplete_starts ha hp hc hr hb hs h1 h2 h3 hmet, hm, by simp, fun c hc => ?_, hchord⟩
    have hctx : ∀ u : State, (u.modSched d fun k =>
        { k with placed := Tab.set k.placed i { p with copying := false, batch := l } }).core = u.core := fun _ => rfl
    rw [State.ctx, hctx, hcore c hc]
    exact ⟨rfl, rfl, rfl, fun n => by simp [Ctx.readS, Placed.starts, Core.startAt, Core.ctx, Tab.get, Ctx.reset]⟩
  case batch =>
    intro s d i r p ha hp hc hb hlast
    rw [State.batchPush_last ha hp hc hb hlast]
    refine ⟨fun hroom h7 h8 h1 => ?_, fun hfull => ?_⟩
    · rw [if_pos hroom, State.pushBatch_pushes h7 h8 h1]
      have hpool {u : State} {q : Placed} : ((u.modSched d fun k => { k with placed := Tab.set k.placed i q }).die d).sched.pool
          = (u.die d).sched.pool := by rw [State.modSched_sched]
      exact ⟨_, _, rfl, hpool.trans State.pushRecord_pool, rfl, rfl, rfl, rfl, rfl, rfl, by simp, rfl⟩
    · rw [if_neg (by omega)]
      exact ⟨_, rfl, by simp, rfl⟩
  case leave =>
    intro s c ha hst hq
    refine ⟨fun hs hd => ⟨_, State.coreLeaveNode_start ha hst hq hs hd, State.endStart_spec rfl⟩,
      State.coreLeaveNode_stays ha hst hq, ?_⟩
    intro p d i hs hpl hp hc hb hpos hd
    obtain ⟨hident, hm, hmore, hlast⟩ := State.leaveNode_spec (s := s) (c := c) (i := i) (q := indexIn c p.cores) rfl hb rfl
    have hexec := State.coreLeaveNode_leaves ha hst hq hs hpl hp hc hpos hd
    refine ⟨fun hlt => ⟨_, _, hexec, hident, hm, hmore hlt⟩, fun hle => ⟨_, hexec, hident, hm, hlast hle⟩⟩
  case list =>
    intro s d i p ha hp hk hpos hops hrun
    obtain ⟨hm, -, hstate, hnone⟩ := State.completeNode_result (s := s.fresh) (d := d) (i := i) (l := p.words)
      (bad := p.bad || (s.nodeEnt d i).engerr != 0)
    refine ⟨_, State.engineNodeComplete_done ha hp hk hpos hops hrun, hm, hnone, hstate.trans ?_⟩
    have he : s.fresh.nodeEnt d i = s.nodeEnt d i := rfl
    rw [he]
    cases p.bad <;> simp

end Sys2Proof.Machine
end

section
/-! # A step runs what was decoded (O56)

A core's turn comes to one attempt at one bundle (`turn_acts`); the attempt runs the slots as `runsSlots` says; and each outcome
of an attempt is acted upon in one way. -/

namespace Sys2Proof.Machine

/-! ### The turn that begins an attempt -/

theorem Tab.set_set {α : Type} (t : Tab α) (k : ℕ) (v w : α) : Tab.set (Tab.set t k v) k w = Tab.set t k w := by
  induction t with
  | nil => simp [Tab.set]
  | cons e l ih =>
    obtain ⟨i, a⟩ := e
    by_cases hi : i = k
    · simp [Tab.set, hi]
    · by_cases hk : k < i
      · simp [Tab.set, hi, hk]
      · simp [Tab.set, hi, hk, ih]

namespace State
variable {s t u v : State} {c d x y a : ℕ} {w : List Turn}

theorem modCore_modCore {f g : Core → Core} : (s.modCore c f).modCore c g = s.modCore c fun k => g (f k) := by
  simp only [State.modCore, Tab.upd, Tab.get_set, if_true, Tab.set_set]
theorem turnStart_core : (turnStart s c w).core c
    = { s.core c with stat := { (s.core c).stat with live := (s.core c).stat.live + 1 } } :=
  (State.modCore_core _ _ _ _).trans (if_pos rfl)
theorem turnStart_ctx : (turnStart s c w).ctx d x = s.ctx d x := modCore_ctx_of fun _ => rfl
theorem turnStart_islandTick (hcredit : (s.core c).stat.credit = 0) (hfrac : s.frac (pkgOf c) (2 * (c % 512)) = 64) :
    (turnStart s c w).islandTick c = (turnStart s c w, true) := by
  have hf : (turnStart s c w).frac (pkgOf c) (2 * (c % 512)) = 64 := hfrac
  unfold State.islandTick
  simp only [turnStart_core, hcredit, hf, Nat.zero_add, Nat.mod_self, le_refl, decide_true]
  rw [turnStart, modCore_modCore]
  refine Prod.ext ?_ rfl
  simp only [State.modCore, Tab.upd]
  congr 2
  rw [show Tab.get Core.reset s.cores c = s.core c from rfl, hcredit]
theorem turnStart_tickContexts (hquiet : ∀ y, (s.core c).ident.mode = 2 ∨ y ≠ 0 → (s.ctx c y).inflight = []) :
    (turnStart s c w).tickContexts c = turnStart s c w := by
  have hnone : ((List.range 16).filter fun x => (((turnStart s c w).core c).ident.mode == 2 || x != 0)
      && !((turnStart s c w).ctx c x).inflight.isEmpty) = [] := by
    refine List.filter_eq_nil_iff.mpr fun y _ h => ?_
    simp only [turnStart_core, turnStart_ctx, Bool.and_eq_true, Bool.or_eq_true, beq_iff_eq, bne_iff_ne, ne_eq,
      Bool.not_eq_true', List.isEmpty_eq_false_iff] at h
    exact h.2 (hquiet y h.1)
  rw [State.tickContexts, hnone]
  rfl
/-- A core that runs with its island's clock comes to its turn's attempt in the state `turnStart` (R2, R26, R217). -/
theorem coreTurn_attempts (h : runsNow s c) (hquiet : ∀ y, (s.core c).ident.mode = 2 ∨ y ≠ 0 → (s.ctx c y).inflight = [])
    (hland : (s.core c).ident.mode ≠ 2 → (s.ctx c 0).unlanded = []) :
    State.coreTurn { s with clk := { s.clk with agenda := w } } c
      = if (s.core c).ident.mode = 2 then (turnStart s c w).turnStrand c else (turnStart s c w).turnExposed c := by
  obtain ⟨hfrozen, hstopped, hdead, hstall, hcredit, hfrac, htag, hslot⟩ := h
  have hs : State.core { s with clk := { s.clk with agenda := w } } c = s.core c := rfl
  have hf : State.frac { s with clk := { s.clk with agenda := w } } (pkgOf c) (2 * (c % 512)) = 64 := hfrac
  have hgo : (if (s.core c).ident.mode = 2 then turnStart s c w else (turnStart s c w).land c) = turnStart s c w := by
    split
    · rfl
    · next hm => rw [State.land, turnStart_ctx, hland hm]; rfl
  unfold State.coreTurn
  dsimp only
  rw [hs, hf, if_neg (by simp [hfrozen, hstopped, hdead])]
  have hu : State.modCore { s with clk := { s.clk with agenda := w } } c
    (fun k => { k with stat := { k.stat with live := k.stat.live + 1 } }) = turnStart s c w := rfl
  rw [hu, turnStart_islandTick hcredit hfrac, if_neg (by simp), htag, hslot]
  dsimp only
  rw [turnStart_tickContexts hquiet, hgo, if_neg (by rw [turnStart_core]; simp [hstall])]

/-! ### The attempt of a turn -/

theorem hasLine_of_mem {l : List (ℕ × BitVec 512)} (hl : (s.core c).fetch.lines = l) (h : ∃ e ∈ l, e.1 = a % 2 ^ 24 / 64 * 64) :
    s.hasLine c a = true := by
  obtain ⟨e, he, ha⟩ := h
  rw [State.hasLine, hl, List.any_eq_true]
  exact ⟨e, he, by simpa using ha⟩
theorem fetchLine_kept (h : s.hasLine c a = true) : s.fetchLine c a = s := if_pos h
/-- A context whose line is there attempts the bundle at its own address (R24). -/
theorem issuePrivate_acts (h : s.hasLine c (s.resolve c (s.ctx c x).pc) = true)
    (hm : headerAt (s.peekLine c (s.resolve c (s.ctx c x).pc)) (s.resolve c (s.ctx c x).pc) ≠ skipMarker) :
    s.issuePrivate c x = s.act c x (s.resolve c (s.ctx c x).pc) (s.peekLine c (s.resolve c (s.ctx c x).pc))
      (s.attempt c x (s.resolve c (s.ctx c x).pc) (s.peekLine c (s.resolve c (s.ctx c x).pc))) := by
  rw [State.issuePrivate, fetchLine_kept h, if_neg (by simp [h, hm])]
theorem insertCtx_congr {k k' : Core} (h : ∀ y, k'.ctx y = k.ctx y) (l : List ℕ) : insertCtx k' x l = insertCtx k x l := by
  induction l with
  | nil => rfl
  | cons y l ih => simp only [insertCtx, h, ih]
theorem issueOrder_congr {k k' : Core} (h : ∀ y, k'.ctx y = k.ctx y) : k'.issueOrder = k.issueOrder := by
  simp only [Core.issueOrder, h, insertCtx_congr h]
/-- The one active context of a core in STRAND mode attempts its bundle, whether that can issue or waits (R50). -/
theorem turnStrand_acts (hx : (s.core c).issueOrder = [x]) (hin : (s.ctx c x).inflight = [])
    (h : s.hasLine c (s.resolve c (s.ctx c x).pc) = true)
    (hm : headerAt (s.peekLine c (s.resolve c (s.ctx c x).pc)) (s.resolve c (s.ctx c x).pc) ≠ skipMarker) :
    s.turnStrand c = s.act c x (s.resolve c (s.ctx c x).pc) (s.peekLine c (s.resolve c (s.ctx c x).pc))
      (s.attempt c x (s.resolve c (s.ctx c x).pc) (s.peekLine c (s.resolve c (s.ctx c x).pc))) := by
  have hpush : s.pushWaits c ((s.ctx c x).inflight.filter fun r => r.rem == 0) = [] := by rw [hin]; rfl
  unfold State.turnStrand
  simp only [hx, List.foldl_cons, List.foldl_nil, hpush, List.isEmpty_nil, Bool.not_true, Bool.false_eq_true, if_false,
    fetchLine_kept h, h, hm, List.nil_append, if_true]
  rw [← issuePrivate_acts h hm]
  cases hr : (s.attempt c x (s.resolve c (s.ctx c x).pc) (s.peekLine c (s.resolve c (s.ctx c x).pc))).ready with
  | true =>
    have hpick : (if (s.core c).sync.go.isSome && [x].contains 0 then some 0 else [x].head?) = some x := by
      by_cases hx0 : x = 0
      · simp [hx0]
      · simp [Ne.symm hx0]
    simp only [if_true, hpick]
  | false =>
    simp only [Bool.false_eq_true, if_false, List.contains_nil, Bool.and_false, List.head?_nil]
theorem turnExposed_acts (hended : (s.ctx c 0).run.ended = false) (hactive : (s.ctx c 0).run.active = true)
    (hland : (s.ctx c 0).unlanded = []) (hjoin : (s.ctx c 0).run.join = none) :
    s.turnExposed c = if (s.core c).inStream then s.issueQueue c else s.issuePrivate c 0 := by
  simp [State.turnExposed, hended, hactive, hland, hjoin]
theorem issueQueue_acts {q : QBundle} {l : List QBundle} (hq : (s.core c).fetch.queue = q :: l) (hr : q.readyAt ≤ s.clk.cycle) :
    s.issueQueue c = s.act c 0 q.addr q.line (s.attempt c 0 q.addr q.line) := by
  rw [State.issueQueue, hq]
  exact if_pos hr
/-- A step at a core's turn acts on the attempt of the bundle that the turn finds (R24, R26, R32). -/
theorem turn_acts {l : BitVec 512} (hagenda : s.clk.agenda = .core c :: w) (hc : c < packages * 512) (hrun : runsNow s c)
    (h : attemptsFrom s (turnStart s c w) c x a l) :
    step s = .next ((turnStart s c w).act c x a l ((turnStart s c w).attempt c x a l)) := by
  have hstep : step s = .next (State.coreTurn { s with clk := { s.clk with agenda := w } } c) := by
    simp only [step, hagenda, if_pos hc]
  have hlines : ((turnStart s c w).core c).fetch.lines = (s.core c).fetch.lines := by rw [turnStart_core]
  rw [hstep]
  refine congrArg _ ?_
  rcases h with ⟨hmode, hhandler, ⟨rfl, hin, hland, hended, hactive, hjoin⟩, q, r, hq, hready, rfl, rfl⟩ |
    ⟨hmode, ⟨rfl, hin, hland, hended, hactive, hjoin⟩, rfl, rfl, hline, hmark⟩ | ⟨hmode, hx, hin, rfl, rfl, hline, hmark⟩
  · rw [coreTurn_attempts hrun (fun y hy => hin y (hy.resolve_left (by omega))) (fun _ => hland), if_neg (by omega),
      turnExposed_acts (by rwa [turnStart_ctx]) (by rwa [turnStart_ctx]) (by rwa [turnStart_ctx]) (by rwa [turnStart_ctx]),
      if_pos (by rw [turnStart_core]; simp [Core.inStream, hmode, hhandler])]
    exact issueQueue_acts (by rw [turnStart_core]; exact hq) hready
  · have hno : ((turnStart s c w).core c).inStream = false := by
      rw [turnStart_core]
      rcases hmode with hm | ⟨-, hh⟩
      · simp [Core.inStream, hm]
      · simp [Core.inStream, hh]
    rw [coreTurn_attempts hrun (fun y hy => hin y (hy.resolve_left (by omega))) (fun _ => hland), if_neg (by omega),
      turnExposed_acts (by rwa [turnStart_ctx]) (by rwa [turnStart_ctx]) (by rwa [turnStart_ctx]) (by rwa [turnStart_ctx]),
      if_neg (by rw [hno]; exact Bool.false_ne_true)]
    rw [← turnStart_ctx (s := s) (c := c) (w := w)] at hline hmark ⊢
    exact issuePrivate_acts (hasLine_of_mem hlines hline) hmark
  · have horder : ((turnStart s c w).core c).issueOrder = [x] := (issueOrder_congr fun y => turnStart_ctx).trans hx
    rw [coreTurn_attempts hrun (fun y _ => hin y) (fun h => absurd hmode h), if_pos hmode]
    rw [← turnStart_ctx (s := s) (c := c) (w := w)] at hline hmark ⊢
    exact turnStrand_acts horder (by rw [turnStart_ctx]; exact hin x) (hasLine_of_mem hlines hline) hmark

/-! ### What an attempt comes to -/

theorem runSlot_of {s0 : State} {n : ℕ} {i : Instr} (hu : let p := s.modIss fun k => { k with slot := n }
    if p.iss.ctx ≠ 0 ∧ refusedScalar i = true then u = p.fault illegalInContext (p.wordTval i)
    else ((p.core p.iss.core).ident.mode = 2 → s0.hazard n i = false) ∧ exec i p = .next u) :
    runSlot s0 (s, false) (n, i) = (u, false) := by
  unfold runSlot
  dsimp only at hu ⊢
  by_cases hr : (s.modIss fun k => { k with slot := n }).iss.ctx ≠ 0 ∧ refusedScalar i = true
  · rw [if_pos hr] at hu
    rw [if_pos (by simpa using hr), hu]
  · rw [if_neg hr] at hu
    obtain ⟨hz, hexec⟩ := hu
    rw [if_neg (by simpa using hr), if_neg, hexec]
    simp only [Bool.and_eq_true, beq_iff_eq, not_and]
    intro hm
    rw [hz hm]
    exact Bool.false_ne_true
theorem foldl_runSlot {s0 : State} {l : List (ℕ × Instr)} (h : runsSlots s0 l s t) :
    l.foldl (runSlot s0) (s, false) = (t, false) := by
  induction l generalizing s with
  | nil => rw [show t = s from h]; rfl
  | cons e l ih =>
    obtain ⟨u, hu, hl⟩ := h
    rw [List.foldl_cons, runSlot_of hu]
    exact ih hl
theorem pickFault_reports {l : List SlotFault} (h : l ≠ []) : ∃ f, pickFault l = some f ∧ reportedOf l f := by
  induction l with
  | nil => exact absurd rfl h
  | cons f l ih =>
    rcases eq_or_ne l [] with rfl | hl
    · exact ⟨f, rfl, .head _, fun g hg => by rw [List.mem_singleton.mp hg]; exact .inr ⟨rfl, le_rfl⟩⟩
    · obtain ⟨g, hg, hmem, hmin⟩ := ih hl
      rw [pickFault, hg]
      dsimp only
      split
      · next hfg =>
        refine ⟨f, rfl, .head _, fun e he => ?_⟩
        rcases List.mem_cons.mp he with rfl | he
        · exact .inr ⟨rfl, le_rfl⟩
        · have := hmin e he
          omega
      · next hfg =>
        refine ⟨g, rfl, .tail _ hmem, fun e he => ?_⟩
        rcases List.mem_cons.mp he with rfl | he
        · omega
        · exact hmin e he
section
variable {l : BitVec 512} {b : Bundle}
theorem attempt_error {f : SlotFault} (hd : decodeBundle l a = .error f) : s.attempt c x a l = .trap f := by
  simp only [State.attempt, hd]
variable (hd : decodeBundle l a = .ok b) (ht : attempts s c x a b t)
include hd ht
theorem attempt_traps {f : SlotFault} (hf : pickFault t.iss.faults = some f) : s.attempt c x a l = .trap f := by
  have hfold : (slotOrder b.slots).foldl (runSlot _) _ = _ := foldl_runSlot ht
  simp [State.attempt, hd, hfold, hf]
theorem attempt_waits (hf : t.iss.faults = []) (hw : t.iss.waits ≠ []) (hhold : ∀ y ∈ t.iss.waits, isHold y = false)
    (hroom : (t.core c).flying + t.withheld b.slots ≤ 64) :
    s.attempt c x a l = .waits t.iss.waits t.iss.syncs false := by
  have hfold : (slotOrder b.slots).foldl (runSlot _) _ = _ := foldl_runSlot ht
  have hnone : t.iss.waits.any isHold = false := List.any_eq_false.mpr fun y hy => by simp [hhold y hy]
  simp [State.attempt, hd, hfold, hf, pickFault, hw, hnone, Nat.not_lt.mpr hroom]
theorem attempt_goes (hf : t.iss.faults = []) (hw : t.iss.waits = []) (hroom : (t.core c).flying ≤ 64) :
    s.attempt c x a l = .go t := by
  have hfold : (slotOrder b.slots).foldl (runSlot _) _ = _ := foldl_runSlot ht
  have hheld : t.withheld b.slots = 0 := by simp [State.withheld, hw]
  simp [State.attempt, hd, hfold, hf, pickFault, hw, hheld, Nat.not_lt.mpr hroom]
end

/-! ### A trap, and waits -/

theorem reflight_tags : (s.reflight c x).tags = s.tags := by
  unfold State.reflight
  split
  · rfl
  · split <;> rfl
theorem enterHandler_core {loc code tpc : ℕ} {tval : Word} (ht : s.enterHandler c x loc code tval tpc = t) :
    (t.core c).v = ((s.reflight c x).core c).v ∧ (t.core c).m = ((s.reflight c x).core c).m := by
  subst ht
  simp [State.enterHandler, State.modCtx]
theorem trapsWith_faultTrap {f : SlotFault} : trapsWith s (s.faultTrap c x a f) c x a f := by
  refine ⟨rfl, fun hcap => ?_⟩
  rw [State.faultTrap, takeTrap_enters _ _ _ _ _ _ _ hcap]
  obtain ⟨hv, hm⟩ := enterHandler_core (rfl : s.enterHandler c x f.loc f.code f.tval a = _)
  rw [enterHandler_ctx, enterHandler_mem]
  refine ⟨rfl, rfl, rfl, rfl, reflight_tags, fun hfresh => ?_⟩
  rw [sameRegisters, enterHandler_ctx, hv, hm, reflight_self _ _ _ hfresh]
  exact ⟨fun _ => rfl, fun _ => rfl, fun _ => rfl, fun _ => rfl⟩
theorem waitsOn_of_cores (hm : t.mem = s.mem) (ht : t.tags = s.tags) (hc : t.cores = s.cores) : waitsOn s t c x := by
  have hcore : t.core = s.core := by unfold State.core; rw [hc]
  have hctx : t.ctx = s.ctx := by unfold State.ctx; rw [hcore]
  unfold waitsOn sameRegisters
  rw [hcore, hctx]
  exact ⟨hm, ht, ⟨fun _ => rfl, fun _ => rfl, fun _ => rfl, fun _ => rfl⟩, rfl, rfl, rfl, rfl⟩
theorem waitsOn_trans (h : waitsOn s t c x) (g : waitsOn t u c x) : waitsOn s u c x := by
  obtain ⟨hm, ht, ⟨hs, hp, hv, hmx⟩, hin, hpc, his, hq⟩ := h
  obtain ⟨gm, gt, ⟨gs, gp, gv, gmx⟩, gin, gpc, gis, gq⟩ := g
  exact ⟨gm.trans hm, gt.trans ht, ⟨fun n => (gs n).trans (hs n), fun n => (gp n).trans (hp n), fun n => (gv n).trans (hv n),
    fun n => (gmx n).trans (hmx n)⟩, gin.trans hin, gpc.trans hpc, gis.trans his, gq.trans hq⟩
theorem waitsOn_modRun {f : CtxRun → CtxRun} (hf : ∀ r, (f r).issued = r.issued) :
    waitsOn s (s.modCtx c x fun k => { k with run := f k.run }) c x := by
  refine ⟨rfl, rfl, ⟨fun n => ?_, fun n => ?_, fun n => ?_, fun n => ?_⟩, ?_, ?_, ?_, ?_⟩ <;> simp [Ctx.readS, Ctx.readP, hf]
theorem waitsOn_modSync {f : SyncState → SyncState} : waitsOn s (s.modCore c fun k => { k with sync := f k.sync }) c x := by
  refine ⟨rfl, rfl, ⟨fun n => ?_, fun n => ?_, fun n => ?_, fun n => ?_⟩, ?_, ?_, ?_, ?_⟩ <;> simp [State.ctx, Core.ctx]
theorem waitsOn_sampleWaits {l : List Wait} : waitsOn s (s.sampleWaits c x l) c x := by
  have hsample (u : State) {die part src v : ℕ} {cl : Option ℕ} : (u.sample die part src cl v).mem = u.mem
      ∧ (u.sample die part src cl v).tags = u.tags ∧ (u.sample die part src cl v).cores = u.cores :=
    (List.range 16).foldlRecOn _ (motive := fun t : State => t.mem = u.mem ∧ t.tags = u.tags ∧ t.cores = u.cores)
      ⟨rfl, rfl, rfl⟩ fun _ h _ _ => by split <;> exact h
  refine List.foldlRecOn _ _ (motive := fun t : State => waitsOn s t c x) (waitsOn_of_cores rfl rfl rfl) fun t ht w _ => ?_
  dsimp only
  split
  · exact waitsOn_trans ht (waitsOn_of_cores (hsample t).1 (hsample t).2.1 (hsample t).2.2)
  · exact ht
theorem waitsOn_arriveSync : waitsOn s (s.arriveSync c) c x := by
  unfold State.arriveSync
  dsimp only
  split
  · exact waitsOn_of_cores rfl rfl rfl
  · split
    · exact (waitsOn_modSync (f := fun q => { q with arrived := some (s.time (pkgOf c)) }))
    · split
      · exact waitsOn_trans (waitsOn_modSync (f := fun q => { q with arrived := some (s.time (pkgOf c)) })) (waitsOn_of_cores rfl rfl rfl)
      · exact (waitsOn_modSync (f := fun q => { q with arrived := some (s.time (pkgOf c)) }))
theorem waitsOn_waiting {l : List SlotWait} {syncs : Bool} : waitsOn s (s.waiting c x l syncs) c x := by
  unfold State.waiting
  extract_lets live now s1 s2
  have h1 : waitsOn s s1 c x := waitsOn_trans waitsOn_sampleWaits
    (waitsOn_modRun (f := fun r => { r with waits := now, readySince := s.clk.cycle + 1 }) fun _ => rfl)
  have h2 : waitsOn s s2 c x := by
    unfold s2
    split
    · exact waitsOn_trans h1 waitsOn_arriveSync
    · exact h1
  split
  · exact waitsOn_trans h2 (waitsOn_of_cores rfl rfl rfl)
  · split
    · exact waitsOn_trans h2 (waitsOn_of_cores rfl rfl rfl)
    · exact h2

/-! ### A new cycle -/

theorem snapshot_clk : (s.snapshot c).clk = s.clk := by
  unfold State.snapshot
  split
  · rfl
  · dsimp only
    split
    · rw [State.modDie_clk, State.modCore_clk]
    · rw [State.modCore_clk]
theorem endOps_clk {l : List ℕ} : (l.foldl (fun s i => s.endOp i) s).clk = s.clk :=
  l.foldlRecOn _ (motive := fun t : State => t.clk = s.clk) rfl fun _ h _ _ => h
theorem barinit_clk {b k v : ℕ} : (s.barinit c b k v).clk = s.clk := by
  unfold State.barinit
  dsimp only
  rw [State.modCore_clk, endOps_clk]
theorem makeInits_clk : (s.makeInits c).clk = s.clk := by
  unfold State.makeInits
  dsimp only
  rw [State.modCore_clk]
  exact List.foldlRecOn _ _ (motive := fun t : State => t.clk = s.clk) rfl fun _ h _ _ => barinit_clk.trans h
theorem departFop_frame {op : ℕ} {f : Fop} : (s.departFop op f).clk = s.clk ∧ (s.departFop op f).mem = s.mem := by
  unfold State.departFop
  split
  · exact ⟨rfl, rfl⟩
  · split
    · split <;> exact ⟨rfl, rfl⟩
    · exact ⟨rfl, rfl⟩
/-- What a cycle's start does before its turns are listed. -/
theorem departAll_frame (ht : s.snapshots.initAll.thaw.departAll = t) : t.clk = s.clk
    ∧ ((∀ e ∈ s.cores, e.2.snap = none ∧ e.2.inits = []) → t.mem = s.mem) := by
  subst ht
  have hsnap : (s.snapshots).clk = s.clk :=
    List.foldlRecOn _ _ (motive := fun t : State => t.clk = s.clk) rfl fun _ h _ _ => snapshot_clk.trans h
  have hinit : (s.snapshots.initAll).clk = s.clk :=
    List.foldlRecOn _ _ (motive := fun t : State => t.clk = s.clk) hsnap fun _ h _ _ => makeInits_clk.trans h
  obtain ⟨hclk, hmem⟩ : s.snapshots.initAll.thaw.departAll.clk = s.clk
      ∧ s.snapshots.initAll.thaw.departAll.mem = s.snapshots.initAll.mem :=
    List.foldlRecOn _ _ (motive := fun t : State => t.clk = s.clk ∧ t.mem = s.snapshots.initAll.mem) ⟨hinit, rfl⟩
      fun _ h _ _ => ⟨departFop_frame.1.trans h.1, departFop_frame.2.trans h.2⟩
  refine ⟨hclk, fun hnone => hmem.trans ?_⟩
  have hnosnap : (s.cores.filter fun e => e.2.snap.isSome) = [] :=
    List.filter_eq_nil_iff.mpr fun e he => by simp [(hnone e he).1]
  have hsame : s.snapshots = s := by rw [State.snapshots, hnosnap]; rfl
  have hnoinit : (s.cores.filter fun e => !e.2.inits.isEmpty) = [] :=
    List.filter_eq_nil_iff.mpr fun e he => by simp [(hnone e he).2]
  rw [hsame, State.initAll, hnoinit]
  rfl
theorem newCycle_spec (ht : s.newCycle = t) : t.clk.cycle = s.clk.cycle + 1
    ∧ ((∀ e ∈ s.cores, e.2.snap = none ∧ e.2.inits = []) → t.mem = s.mem) := by
  subst ht
  unfold State.newCycle
  dsimp only
  generalize ht : State.departAll _ = u
  obtain ⟨hclk, hmem⟩ := departAll_frame ht
  exact ⟨congrArg Clock.cycle hclk, hmem⟩

end State

/-- Settles O56: a core's turn comes to one attempt, which runs the slots, and one action on what it comes to. -/
theorem stepRunsTheDecodedInstruction : Obligations.StepRunsTheDecodedInstruction := by
  unfold Obligations.StepRunsTheDecodedInstruction
  refine ⟨fun s i a l h => by simp only [step, h], fun s h => ⟨s.newCycle, by simp only [step, h], State.newCycle_spec rfl⟩, ?_⟩
  intro s c w hagenda hc hrun u x a l hfrom
  have hstep : step s = .next (u.act c x a l (u.attempt c x a l)) := State.turn_acts hagenda hc hrun hfrom
  refine ⟨fun f hd => ?_, fun b t hd ht => ⟨fun hf => ?_, fun hf hw hhold hroom => ?_, fun hf hw hroom => ?_⟩⟩
  · rw [State.attempt_error hd] at hstep
    exact ⟨_, hstep, State.trapsWith_faultTrap⟩
  · obtain ⟨f, hpick, hrep⟩ := State.pickFault_reports hf
    rw [State.attempt_traps hd ht hpick] at hstep
    exact ⟨f, _, hrep, hstep, State.trapsWith_faultTrap⟩
  · rw [State.attempt_waits hd ht hf hw hhold hroom] at hstep
    exact ⟨_, hstep, State.waitsOn_waiting⟩
  · rw [State.attempt_goes hd ht hf hw hroom] at hstep
    simpa only [State.act, hd] using hstep

end Sys2Proof.Machine
end

section
/-! # Integer division, the upper half of a product and the counts of bits (O2) -/

namespace Sys2Proof.Machine

/-- A scalar operation under a true guard sends its result. -/
theorem scalarOp_on {s : State} {g d lat : ℕ} {v : State → Word} (h : s.guard0 g = true) :
    scalarOp s g d lat v = .next (s.pushS d (v s) 0 lat) := by
  rw [scalarOp, State.guarded_of_guard0 h]

theorem exec_div (f : FmtSRU) (s : State) : exec (.div f) s = execDiv f s := rfl
theorem exec_rem (f : FmtSRU) (s : State) : exec (.rem f) s = execRem f s := rfl
theorem exec_mulh (f : FmtSRU) (s : State) : exec (.mulh f) s = execMulh f s := rfl
theorem exec_clz (f : FmtS1) (s : State) : exec (.clz f) s = execClz f s := rfl
theorem exec_popc (f : FmtS1) (s : State) : exec (.popc f) s = execPopc f s := rfl

/-! ### Quotient and remainder (R62) -/

theorem divide_zero (u : Bool) (a : Word) : divide u a 0 = BitVec.allOnes 64 := rfl
theorem remainder_zero (u : Bool) (a : Word) : remainder u a 0 = a := rfl
theorem divide_unsigned {a b : Word} (h : b ≠ 0) : (divide true a b).toNat = a.toNat / b.toNat := by
  rw [divide, if_neg h, if_pos rfl, BitVec.toNat_ofNat, Nat.mod_eq_of_lt (Nat.lt_of_le_of_lt (Nat.div_le_self _ _) a.isLt)]
theorem remainder_unsigned {a b : Word} (h : b ≠ 0) : (remainder true a b).toNat = a.toNat % b.toNat := by
  rw [remainder, if_neg h, if_pos rfl, BitVec.toNat_ofNat, Nat.mod_eq_of_lt (Nat.lt_of_le_of_lt (Nat.mod_le _ _) a.isLt)]
theorem divide_signed {a b : Word} (h : b ≠ 0) : divide false a b = BitVec.ofInt 64 (a.toInt.tdiv b.toInt) := by
  rw [divide, if_neg h, if_neg Bool.false_ne_true]
theorem remainder_signed {a b : Word} (h : b ≠ 0) : remainder false a b = BitVec.ofInt 64 (a.toInt.tmod b.toInt) := by
  rw [remainder, if_neg h, if_neg Bool.false_ne_true]
/-- The remainder of a truncated quotient has the dividend's sign. -/
theorem tmod_sign {a b : ℤ} : a.tmod b = 0 ∨ (a.tmod b < 0 ↔ a < 0) := by
  rcases lt_or_ge a 0 with ha | ha
  · have hle : a.tmod b ≤ 0 := by
      have := Int.tmod_nonneg (a := -a) b (by omega)
      rw [Int.neg_tmod] at this
      omega
    omega
  · have := Int.tmod_nonneg b ha
    omega

/-! ### The upper half of a product (R142) -/

theorem mulhUnsigned_toNat (a b : Word) : (mulhUnsigned a b).toNat = a.toNat * b.toNat / 2 ^ 64 := by
  have h : a.toNat * b.toNat < 2 ^ 64 * 2 ^ 64 := Nat.mul_lt_mul'' a.isLt b.isLt
  rw [mulhUnsigned, BitVec.toNat_ofNat, Nat.mod_eq_of_lt (Nat.div_lt_of_lt_mul h)]
theorem mulhSigned_toInt (a b : Word) : (mulhSigned a b).toInt = a.toInt * b.toInt / 2 ^ 64 := by
  have h : |a.toInt * b.toInt| ≤ 2 ^ 63 * 2 ^ 63 := by
    rw [abs_mul]
    have hx (x : Word) : |x.toInt| ≤ 2 ^ 63 := abs_le.mpr ⟨x.le_toInt, x.toInt_lt.le⟩
    exact mul_le_mul (hx a) (hx b) (abs_nonneg _) (by norm_num)
  obtain ⟨hlo, hhi⟩ := abs_le.mp h
  rw [mulhSigned]
  exact BitVec.toInt_ofInt_eq_self (by norm_num) (by omega) (by omega)

/-! ### Leading zeros and one bits (R142) -/

theorem bitLen_pos {m : ℕ} (h : m ≠ 0) : bitLen m = m.log2 + 1 := if_neg h
/-- The number of bits of a number that is not 0 says between which powers of two it lies. -/
theorem bitLen_spec {m : ℕ} (h : m ≠ 0) : 0 < bitLen m ∧ 2 ^ (bitLen m - 1) ≤ m ∧ m < 2 ^ bitLen m := by
  rw [bitLen_pos h]
  exact ⟨Nat.succ_pos _, Nat.log2_self_le h, Nat.lt_log2_self⟩
theorem bitLen_le {m n : ℕ} (h : m < 2 ^ n) : bitLen m ≤ n := by
  rcases eq_or_ne m 0 with rfl | h0
  · exact Nat.zero_le _
  · rw [bitLen_pos h0]
    exact (Nat.log2_lt h0).mpr h

/-- Settles O2: the results of R62 and R142, operation by operation. -/
theorem scalarDivisionAndCounts : Obligations.ScalarDivisionAndCounts := by
  unfold Obligations.ScalarDivisionAndCounts
  refine ⟨fun f s hg => ?_, fun f s hg => ?_⟩
  · generalize ha : s.readS f.a = a
    generalize hb : s.readS f.b = b
    refine ⟨divide (f.u != 0) a b, remainder (f.u != 0) a b, if f.u = 0 then mulhSigned a b else mulhUnsigned a b,
      ?_, ?_, ?_, fun h0 => ?_, fun h0 hu => ?_, fun h0 hu => ?_, fun hu => ?_, fun hu => ?_⟩
    · rw [exec_div, execDiv, scalarOp_on hg, ha, hb]
    · rw [exec_rem, execRem, scalarOp_on hg, ha, hb]
    · rw [exec_mulh, execMulh, scalarOp_on hg, ha, hb]
    · subst h0
      exact ⟨divide_zero _ _, remainder_zero _ _⟩
    · rw [bne_iff_ne.mpr hu, divide_unsigned h0, remainder_unsigned h0]
      exact ⟨(Nat.div_add_mod' _ _).symm, Nat.mod_lt _ (Nat.pos_of_ne_zero fun h => h0 (BitVec.toNat_inj.mp h))⟩
    · simp only [hu, bne_self_eq_false]
      refine ⟨a.toInt.tdiv b.toInt, a.toInt.tmod b.toInt, ?_, ?_, tmod_sign, divide_signed h0, remainder_signed h0⟩
      · rw [mul_comm, Int.mul_tdiv_add_tmod]
      · rw [Int.natAbs_tmod]
        exact Nat.mod_lt _ (Int.natAbs_pos.mpr fun h => h0 (BitVec.toInt_inj.mp h))
    · rw [if_neg hu, mulhUnsigned_toNat]
    · rw [if_pos hu, mulhSigned_toInt]
  · generalize ha : s.readS f.a = a
    refine ⟨64 - bitLen a.toNat, Nat.sub_le _ _, ?_, fun h => ?_, fun h => ?_, ?_⟩
    · rw [exec_clz, execClz, scalarOp_on hg, ha, clz]
    · rw [h]
      rfl
    · have h0 : a.toNat ≠ 0 := fun h' => h (BitVec.toNat_inj.mp h')
      obtain ⟨hpos, hlo, hhi⟩ := bitLen_spec h0
      have hle : bitLen a.toNat ≤ 64 := bitLen_le a.isLt
      rw [show 63 - (64 - bitLen a.toNat) = bitLen a.toNat - 1 by omega,
        show 64 - (64 - bitLen a.toNat) = bitLen a.toNat by omega]
      exact ⟨by omega, hlo, hhi⟩
    · rw [exec_popc, execPopc, scalarOp_on hg, ha, popc, List.countP_eq_length_filter]

end Sys2Proof.Machine
end

section
/-! # What the encodings of the floating-point formats denote (O6) -/

namespace Sys2Proof.Machine

/-- An encoding whose exponent field is all ones, in a format with infinities. -/
theorem FpFmt.value_of_ones {f : FpFmt} {x : ℕ} (hf : f.e4m3 = false) (hx : x < 2 ^ f.width)
    (he : x / 2 ^ f.fw % 2 ^ f.ew = 2 ^ f.ew - 1) : f.value false x =
      if x % 2 ^ f.fw = 0 then .inf (decide (2 ^ (f.ew + f.fw) ≤ x)) else .nan (decide (x % 2 ^ f.fw < 2 ^ (f.fw - 1))) := by
  simp [FpFmt.value, hf, he, Nat.mod_eq_of_lt hx, FpFmt.signBit]
/-- E4M3 has one NaN in each half of its encodings. -/
theorem value_e4m3_nan {x : ℕ} (hx : x < 256) (h : x % 128 = 127) : fpE4m3.value false x = .nan false := by
  have he : x / 8 % 16 = 15 := by omega
  have hf : x % 8 = 7 := by omega
  simp [FpFmt.value, fpE4m3, FpFmt.width, Nat.mod_eq_of_lt hx, he, hf]
theorem value_e4m3_finite {x : ℕ} (hx : x < 256) (h : x % 128 ≠ 127) : ∃ n m e, fpE4m3.value false x = .fin n m e := by
  have hn : (x / 8 % 16 == 15 && x % 8 == 7) = false := by
    rw [Bool.and_eq_false_iff, beq_eq_false_iff_ne, beq_eq_false_iff_ne]
    omega
  by_cases h0 : x / 8 % 16 = 0 <;> simp [FpFmt.value, fpE4m3, FpFmt.width, Nat.mod_eq_of_lt hx, hn, h0]

/-- Settles O6: E4M3's special encodings, its largest number, and the special encodings of the other formats. -/
theorem smallFloatEncodings : Obligations.SmallFloatEncodings := by
  unfold Obligations.SmallFloatEncodings
  refine ⟨fun x hx => ⟨value_e4m3_nan hx, value_e4m3_finite hx⟩, ⟨14, 5, by decide, by decide, by decide⟩, ?_⟩
  intro f hf x hx he
  have hno : f.e4m3 = false := by
    simp only [List.mem_cons, List.not_mem_nil, or_false] at hf
    rcases hf with rfl | rfl | rfl | rfl <;> rfl
  rw [FpFmt.value_of_ones hno hx he]
  exact ⟨fun h => if_pos h, fun h => if_neg h⟩

end Sys2Proof.Machine
end

section
/-! # Scalar floating point (O4)

`roundMag` is the one rounding of a magnitude (`wholeOf_roundMag`); the encodings of a format count its magnitudes upwards
(`magnitude_strictMono`), so `FpFmt.round` delivers what `roundedTo` says (`FpFmt.round_roundedTo`). -/

namespace Sys2Proof.Machine

/-! ### Rounding a magnitude to a whole number (R67) -/

/-- A magnitude with a sign. -/
def signed {α : Type} [Neg α] (neg : Bool) (x : α) : α := if neg then -x else x
@[simp] theorem signed_true {α : Type} [Neg α] (x : α) : signed true x = -x := rfl
@[simp] theorem signed_false {α : Type} [Neg α] (x : α) : signed false x = x := rfl
theorem signed_div (neg : Bool) (x y : ℝ) : signed neg x / y = signed neg (x / y) := by
  cases neg <;> simp [signed, neg_div]
theorem signed_mul (neg : Bool) (x y : ℝ) : signed neg x * y = signed neg (x * y) := by
  cases neg <;> simp [signed]
theorem abs_signed (neg : Bool) {x : ℝ} (h : 0 ≤ x) : |signed neg x| = x := by
  cases neg <;> simp [signed, abs_of_nonneg h]
theorem signed_cast (neg : Bool) (n : ℕ) : ((signed neg (n : ℤ) : ℤ) : ℝ) = signed neg (n : ℝ) := by
  cases neg <;> simp [signed]
theorem signed_inj {neg : Bool} {x y : ℝ} : signed neg x = signed neg y ↔ x = y := by
  cases neg <;> simp [signed]

/-- The whole part and the lost fraction of m * 2^k. -/
theorem shiftExact_spec (m : ℕ) (k : ℤ) : (shiftExact m k).2.1 < (shiftExact m k).2.2
    ∧ (m : ℝ) * 2 ^ k = (shiftExact m k).1 + ((shiftExact m k).2.1 : ℝ) / (shiftExact m k).2.2 := by
  unfold shiftExact
  split
  · next hk =>
    obtain ⟨n, rfl⟩ := Int.eq_ofNat_of_zero_le hk
    simp
  · next hk =>
    obtain ⟨n, hn⟩ := Int.eq_ofNat_of_zero_le (show 0 ≤ -k by omega)
    obtain rfl : k = -(n : ℤ) := by omega
    have hpos : 0 < 2 ^ n := Nat.two_pow_pos n
    simp only [neg_neg, Int.toNat_natCast, Nat.mod_lt _ hpos, true_and]
    have hdm : ((m / 2 ^ n : ℕ) : ℝ) * (2 : ℝ) ^ n + ((m % 2 ^ n : ℕ) : ℝ) = m := by
      exact_mod_cast Nat.div_add_mod' m (2 ^ n)
    rw [zpow_neg, zpow_natCast]
    push_cast at hdm ⊢
    field_simp
    linarith

/-- A magnitude q + φ rounded to the nearest whole number, ties to even. -/
theorem wholeOf_nearest {neg up : Bool} {q : ℕ} {φ : ℝ} (h0 : 0 ≤ φ) (h1 : φ < 1)
    (hup : up = true ↔ 1 / 2 < φ ∨ φ = 1 / 2 ∧ q % 2 = 1) :
    wholeOf 0 (signed neg (q + φ)) (signed neg ((if up then q + 1 else q : ℕ) : ℤ)) := by
  have hdist (n : ℕ) : |signed neg ((q : ℝ) + φ) - ((signed neg (n : ℤ) : ℤ) : ℝ)| = |(q : ℝ) + φ - n| := by
    cases neg
    · simp [signed]
    · rw [signed_cast, ← abs_neg]
      simp only [signed, if_true]
      congr 1
      ring
  have heven (n : ℕ) : (signed neg (n : ℤ) : ℤ) % 2 = 0 ↔ n % 2 = 0 := by
    cases neg <;> simp only [signed, if_true, Bool.false_eq_true, if_false] <;> omega
  rw [wholeOf, hdist, heven]
  cases up with
  | false =>
    have hno : ¬ (1 / 2 < φ ∨ φ = 1 / 2 ∧ q % 2 = 1) := fun h => Bool.false_ne_true (hup.mpr h)
    rw [if_neg Bool.false_ne_true, add_sub_cancel_left, abs_of_nonneg h0]
    exact ⟨not_lt.mp fun h => hno (.inl h), fun h => by by_contra hq; exact hno (.inr ⟨h, by omega⟩)⟩
  | true =>
    have hyes := hup.mp rfl
    have hd : |(q : ℝ) + φ - ((q + 1 : ℕ) : ℝ)| = 1 - φ := by
      push_cast
      rw [add_sub_add_left_eq_sub, abs_sub_comm, abs_of_pos (by linarith)]
    rw [if_pos rfl, hd]
    refine ⟨by rcases hyes with h | ⟨h, -⟩ <;> linarith, fun h => ?_⟩
    rcases hyes with h' | ⟨-, hq⟩
    · linarith
    · omega
/-- A magnitude q + φ of which the next whole number is taken where something is lost and the direction says so. -/
theorem wholeOf_directed {mode : ℕ} {neg up : Bool} {q : ℕ} {φ : ℝ} (hm : mode = 1 ∨ mode = 2 ∨ mode = 3) (h0 : 0 ≤ φ) (h1 : φ < 1)
    (hup : up = true ↔ 0 < φ ∧ (mode = 2 ∧ neg = false ∨ mode = 3 ∧ neg = true)) :
    wholeOf mode (signed neg (q + φ)) (signed neg ((if up then q + 1 else q : ℕ) : ℤ)) := by
  have hfloor : ⌊(q : ℝ) + φ⌋ = q := Int.floor_eq_iff.mpr ⟨by push_cast; linarith, by push_cast; linarith⟩
  have hceil : ⌈(q : ℝ) + φ⌉ = ((if 0 < φ then q + 1 else q : ℕ) : ℤ) := by
    rw [Int.ceil_eq_iff]
    split <;> push_cast <;> constructor <;> linarith
  have hpos : (0 : ℝ) ≤ q + φ := add_nonneg q.cast_nonneg h0
  rcases hm with rfl | rfl | rfl
  · obtain rfl : up = false := by simpa using hup
    cases neg with
    | false => exact ⟨fun _ => hfloor.symm, fun h => absurd hpos (not_le.mpr h)⟩
    | true =>
      rw [signed_true, signed_true, if_neg Bool.false_ne_true]
      refine ⟨fun h => ?_, fun _ => by rw [Int.ceil_neg, hfloor]⟩
      have hx : (q : ℝ) + φ = 0 := le_antisymm (neg_nonneg.mp h) hpos
      rw [← hfloor, hx, neg_zero, Int.floor_zero, neg_zero]
  · cases neg with
    | false =>
      obtain rfl : up = decide (0 < φ) := Bool.eq_iff_iff.mpr (by simpa using hup)
      simp [wholeOf, hceil]
    | true =>
      obtain rfl : up = false := by simpa using hup
      rw [signed_true, signed_true, if_neg Bool.false_ne_true, wholeOf, Int.ceil_neg, hfloor]
  · cases neg with
    | false =>
      obtain rfl : up = false := by simpa using hup
      simp [wholeOf, hfloor]
    | true =>
      obtain rfl : up = decide (0 < φ) := Bool.eq_iff_iff.mpr (by simpa using hup)
      rw [signed_true, signed_true, wholeOf, Int.floor_neg, hceil]
      · simp
      all_goals omega

/-- The next whole number is taken only where something is lost. -/
theorem pos_of_up {mode q : ℕ} {neg : Bool} {φ : ℝ} (h : if mode = 0 then 1 / 2 < φ ∨ φ = 1 / 2 ∧ q % 2 = 1
    else 0 < φ ∧ mode ≠ 1 ∧ if mode = 2 then neg = false else neg = true) : 0 < φ := by
  by_cases hm : mode = 0
  · rw [if_pos hm] at h
    rcases h with h | ⟨h, -⟩ <;> linarith
  · rw [if_neg hm] at h
    exact h.1
/-- What `roundMag` does with the whole part q and the fraction φ of a magnitude. -/
theorem roundMag_cases (mode : ℕ) (neg : Bool) (m : ℕ) (k : ℤ) : ∃ (q : ℕ) (φ : ℝ) (up : Bool),
    (m : ℝ) * 2 ^ k = q + φ ∧ 0 ≤ φ ∧ φ < 1
    ∧ (roundMag mode neg m k false).1 = (if up then q + 1 else q) ∧ ((roundMag mode neg m k false).2 = false ↔ φ = 0)
    ∧ (up = true ↔ if mode = 0 then 1 / 2 < φ ∨ φ = 1 / 2 ∧ q % 2 = 1
        else 0 < φ ∧ mode ≠ 1 ∧ if mode = 2 then neg = false else neg = true) := by
  obtain ⟨hr, hx⟩ := shiftExact_spec m k
  rw [roundMag, hx]
  generalize shiftExact m k = s at *
  obtain ⟨q, r, d⟩ := s
  dsimp only at *
  have hd : (0 : ℝ) < d := by exact_mod_cast Nat.zero_lt_of_lt hr
  have hzero : (r : ℝ) / d = 0 ↔ r = 0 := by rw [div_eq_zero_iff, or_iff_left hd.ne', Nat.cast_eq_zero]
  have hpos : (0 : ℝ) < r / d ↔ r ≠ 0 := by rw [div_pos_iff_of_pos_right hd, Nat.cast_pos, Nat.pos_iff_ne_zero]
  have hhalf : (1 / 2 : ℝ) < r / d ↔ d < 2 * r := by
    rw [lt_div_iff₀ hd, div_mul_eq_mul_div, one_mul, div_lt_iff₀ two_pos, mul_comm (r : ℝ)]
    exact_mod_cast Iff.rfl
  have htie : (r : ℝ) / d = 1 / 2 ↔ 2 * r = d := by
    rw [div_eq_div_iff hd.ne' two_ne_zero, one_mul, mul_comm (r : ℝ)]
    exact_mod_cast Iff.rfl
  refine ⟨q, r / d, _, rfl, by positivity, by rw [div_lt_one hd]; exact_mod_cast hr, rfl, by simp [hzero], ?_⟩
  rw [hhalf, htie, hpos]
  split_ifs <;> simp [*]
/-- `roundMag` rounds as its mode says. -/
theorem wholeOf_roundMag {mode : ℕ} (hm : mode < 4) (neg : Bool) (m : ℕ) (k : ℤ) :
    wholeOf mode (signed neg ((m : ℝ) * 2 ^ k)) (signed neg ((roundMag mode neg m k false).1 : ℤ)) := by
  obtain ⟨q, φ, up, hx, h0, h1, hr, -, hup⟩ := roundMag_cases mode neg m k
  rw [hx, hr]
  rcases Nat.eq_zero_or_pos mode with rfl | hmode
  · exact wholeOf_nearest h0 h1 hup
  · have hdir : mode = 1 ∨ mode = 2 ∨ mode = 3 := by omega
    refine wholeOf_directed hdir h0 h1 ?_
    rcases hdir with rfl | rfl | rfl <;> simpa using hup
/-- It reports a loss where the whole number is not the magnitude. -/
theorem roundMag_exact {mode : ℕ} {neg : Bool} {m : ℕ} {k : ℤ} :
    (roundMag mode neg m k false).2 = false ↔ ((roundMag mode neg m k false).1 : ℝ) = m * 2 ^ k := by
  obtain ⟨q, φ, up, hx, h0, h1, hr, hexact, hup⟩ := roundMag_cases mode neg m k
  rw [hexact, hr, hx]
  cases up with
  | false => simp
  | true => exact iff_of_false (pos_of_up (hup.mp rfl)).ne' (by rw [if_pos rfl]; push_cast; linarith)
/-- A rounded magnitude lies between the same whole numbers as the magnitude. -/
theorem le_roundMag {mode m a : ℕ} {neg : Bool} {k : ℤ} (h : (a : ℝ) ≤ m * 2 ^ k) : a ≤ (roundMag mode neg m k false).1 := by
  obtain ⟨q, φ, up, hx, -, h1, hr, -, -⟩ := roundMag_cases mode neg m k
  have haq : (a : ℝ) < (q + 1 : ℕ) := by push_cast; linarith
  rw [Nat.cast_lt] at haq
  rw [hr]
  split <;> omega
theorem roundMag_le {mode m b : ℕ} {neg : Bool} {k : ℤ} (h : (m : ℝ) * 2 ^ k ≤ b) : (roundMag mode neg m k false).1 ≤ b := by
  obtain ⟨q, φ, up, hx, h0, -, hr, -, hup⟩ := roundMag_cases mode neg m k
  rw [hr]
  split
  · next h1 =>
    have : (q : ℝ) < b := by linarith [pos_of_up (hup.mp h1)]
    exact_mod_cast this
  · have : (q : ℝ) ≤ b := by linarith
    exact_mod_cast this

/-! ### The magnitudes of a format, in the order of their encodings (R64, R65) -/

/-- The formats of R64. -/
def fpFormats : List FpFmt := [fp32, fpBf16, fp16, fpE4m3, fpE5m2]

namespace FpFmt
variable {t : FpFmt}

/-- The magnitude that an encoding without sign denotes, its exponent field read without a largest one. -/
noncomputable def magnitude (t : FpFmt) (n : ℕ) : ℝ :=
  if n < 2 ^ t.fw then n * 2 ^ (t.emin - t.fw)
  else ((2 ^ t.fw + n % 2 ^ t.fw : ℕ) : ℝ) * 2 ^ (t.emin - t.fw + (n / 2 ^ t.fw : ℕ) - 1)

/-- A significand of at most 2^(fw+1) counts on from the b-th binade's first encoding; only the lowest has one below 2^fw. -/
theorem magnitude_binade {a b : ℕ} (ha : a ≤ 2 ^ (t.fw + 1)) (hb : b = 0 ∨ 2 ^ t.fw ≤ a) :
    t.magnitude (a + b * 2 ^ t.fw) = a * 2 ^ (t.emin - t.fw + b) := by
  have hp : 0 < 2 ^ t.fw := Nat.two_pow_pos _
  have hp2 : 2 ^ (t.fw + 1) = 2 ^ t.fw + 2 ^ t.fw := by rw [pow_succ, mul_two]
  generalize he : t.emin - (t.fw : ℤ) = e
  unfold magnitude
  rw [he]
  generalize hN : 2 ^ t.fw = N at *
  rcases lt_or_ge a N with hlt | hge
  · obtain rfl : b = 0 := hb.resolve_right (not_le.mpr hlt)
    simp [hlt]
  · have hbig : ¬ a + b * N < N := not_lt.mpr (hge.trans (Nat.le_add_right _ _))
    obtain ⟨c, rfl⟩ := Nat.exists_eq_add_of_le hge
    rw [if_neg hbig, show N + c + b * N = c + (b + 1) * N by ring, Nat.add_mul_mod_self_right, Nat.add_mul_div_right _ _ hp]
    rcases (show c < N ∨ c = N by omega) with hc | rfl
    · rw [Nat.mod_eq_of_lt hc, Nat.div_eq_of_lt hc]
      congr 2
      push_cast
      ring
    · rw [Nat.mod_self, Nat.div_self hp, show e + ((1 + (b + 1) : ℕ) : ℤ) - 1 = e + b + 1 by push_cast; ring, zpow_add_one₀ two_ne_zero]
      push_cast
      ring
/-- The magnitudes go up with the encodings. -/
theorem magnitude_strictMono : StrictMono t.magnitude := by
  refine strictMono_nat_of_lt_succ fun n => ?_
  have hp : 0 < 2 ^ t.fw := Nat.two_pow_pos _
  have hp2 : 2 ^ (t.fw + 1) = 2 ^ t.fw + 2 ^ t.fw := by rw [pow_succ, mul_two]
  obtain ⟨a, b, ha, hb, rfl⟩ : ∃ a b, a < 2 ^ (t.fw + 1) ∧ (b = 0 ∨ 2 ^ t.fw ≤ a) ∧ n = a + b * 2 ^ t.fw := by
    rcases lt_or_ge n (2 ^ t.fw) with h | h
    · exact ⟨n, 0, by omega, .inl rfl, by simp⟩
    · have hdiv : 1 ≤ n / 2 ^ t.fw := (Nat.one_le_div_iff hp).mpr h
      refine ⟨2 ^ t.fw + n % 2 ^ t.fw, n / 2 ^ t.fw - 1, ?_, .inr (Nat.le_add_right _ _), ?_⟩
      · have := Nat.mod_lt n hp
        omega
      · rw [Nat.sub_mul, one_mul]
        have := Nat.div_add_mod' n (2 ^ t.fw)
        have := Nat.mul_le_mul_right (2 ^ t.fw) hdiv
        omega
  rw [show a + b * 2 ^ t.fw + 1 = a + 1 + b * 2 ^ t.fw by ring, magnitude_binade ha.le hb, magnitude_binade ha (hb.imp_right Nat.le_succ_of_le)]
  exact mul_lt_mul_of_pos_right (by push_cast; linarith) (zpow_pos two_pos _)

/-- The fields of an encoding with its sign bit. -/
theorem fields_signed {n : ℕ} (hn : n < t.signBit) (neg : Bool) : let x := (if neg then t.signBit else 0) + n
    x < 2 ^ t.width ∧ decide (t.signBit ≤ x) = neg ∧ x / 2 ^ t.fw % 2 ^ t.ew = n / 2 ^ t.fw ∧ x % 2 ^ t.fw = n % 2 ^ t.fw := by
  have hw : 2 ^ t.width = t.signBit + t.signBit := by
    rw [signBit, width, Nat.add_assoc, Nat.add_comm, pow_succ, mul_two]
  have hs : t.signBit = 2 ^ t.ew * 2 ^ t.fw := pow_add _ _ _
  have hp : 0 < 2 ^ t.fw := Nat.two_pow_pos _
  have hq : n / 2 ^ t.fw < 2 ^ t.ew := Nat.div_lt_of_lt_mul (by rw [mul_comm, ← hs]; exact hn)
  cases neg with
  | false => simp [hw, hn, Nat.mod_eq_of_lt hq]; omega
  | true =>
    refine ⟨by simp only [if_true]; omega, by simp, ?_, ?_⟩
    · rw [if_pos rfl, hs, Nat.add_comm, Nat.add_mul_div_right _ _ hp, Nat.add_mod_right, Nat.mod_eq_of_lt hq]
    · rw [if_pos rfl, hs, Nat.add_comm, Nat.add_mul_mod_self_right]
theorem maxFinite_lt (ht : t ∈ fpFormats) : t.maxFinite < t.signBit := by
  revert t
  decide
/-- Up to the largest finite encoding no exponent and fraction field is set aside for a NaN or an infinity. -/
theorem not_special (ht : t ∈ fpFormats) {n : ℕ} (hn : n ≤ t.maxFinite) :
    (t.e4m3 && n / 2 ^ t.fw == 15 && n % 2 ^ t.fw == 7) = false ∧ (!t.e4m3 && n / 2 ^ t.fw == 2 ^ t.ew - 1) = false := by
  simp only [fpFormats, List.mem_cons, List.not_mem_nil, or_false] at ht
  rcases ht with rfl | rfl | rfl | rfl | rfl <;>
    simp only [fp32, fpBf16, fp16, fpE4m3, fpE5m2, maxFinite, if_true, Bool.false_eq_true, if_false] at hn <;>
    simp [fp32, fpBf16, fp16, fpE4m3, fpE5m2] <;> omega
theorem fpNumber_fin (neg : Bool) (m : ℕ) (e : ℤ) : ((fpNumber (.fin neg m e) : ℚ) : ℝ) = signed neg ((m : ℝ) * 2 ^ e) := by
  cases neg <;> simp [fpNumber]
/-- What a finite encoding denotes. -/
theorem value_finite (ht : t ∈ fpFormats) {n : ℕ} (hn : n ≤ t.maxFinite) (neg : Bool) : ∃ (m : ℕ) (e : ℤ),
    t.value false ((if neg then t.signBit else 0) + n) = .fin neg m e
    ∧ ((fpNumber (.fin neg m e) : ℚ) : ℝ) = signed neg (t.magnitude n) := by
  obtain ⟨hx, hneg, he, hf⟩ := fields_signed (hn.trans_lt (maxFinite_lt ht)) neg
  obtain ⟨h4, hno⟩ := not_special ht hn
  unfold value magnitude
  simp only [Nat.mod_eq_of_lt hx, hneg, he, hf, h4, hno, Bool.false_eq_true, if_false]
  have hp : 0 < 2 ^ t.fw := Nat.two_pow_pos _
  rcases lt_or_ge n (2 ^ t.fw) with h | h
  · rw [if_pos (Nat.div_eq_of_lt h), if_pos h]
    exact ⟨_, _, rfl, by rw [fpNumber_fin, Nat.mod_eq_of_lt h]⟩
  · have h1 : 1 ≤ n / 2 ^ t.fw := (Nat.one_le_div_iff hp).mpr h
    rw [if_neg (by omega), if_neg (not_lt.mpr h)]
    refine ⟨_, _, rfl, ?_⟩
    rw [fpNumber_fin]
    congr 3
    rw [emin]
    ring

end FpFmt

/-! ### The one rounding (R67, R71, R72) -/

/-- The place of a number's leading bit. -/
theorem bitLen_real {m : ℕ} (h : m ≠ 0) : (2 : ℝ) ^ ((bitLen m : ℤ) - 1) ≤ m ∧ (m : ℝ) < 2 ^ (bitLen m : ℤ) := by
  obtain ⟨hpos, hlo, hhi⟩ := bitLen_spec h
  obtain ⟨b, hb⟩ := Nat.exists_eq_succ_of_ne_zero hpos.ne'
  rw [hb] at hlo hhi ⊢
  rw [Nat.succ_eq_add_one, Nat.cast_succ, add_sub_cancel_right, zpow_natCast]
  exact ⟨by exact_mod_cast hlo, by exact_mod_cast hhi⟩
theorem leading_bit {m : ℕ} (h : m ≠ 0) (e : ℤ) : (2 : ℝ) ^ (e + bitLen m - 1) ≤ m * 2 ^ e ∧ (m : ℝ) * 2 ^ e < 2 ^ (e + bitLen m) := by
  obtain ⟨hlo, hhi⟩ := bitLen_real h
  have hp : (0 : ℝ) < 2 ^ e := zpow_pos two_pos e
  rw [show e + bitLen m - 1 = bitLen m - 1 + e by ring, add_comm e, zpow_add₀ two_ne_zero, zpow_add₀ two_ne_zero]
  exact ⟨mul_le_mul_of_nonneg_right hlo hp.le, mul_lt_mul_of_pos_right hhi hp⟩
theorem below_power {n : ℕ} (h : n ≠ 0) {a b : ℤ} : (n : ℝ) * 2 ^ a < 2 ^ b ↔ (bitLen n : ℤ) + a ≤ b := by
  obtain ⟨hlo, hhi⟩ := leading_bit h a
  refine ⟨fun hlt => ?_, fun hle => hhi.trans_le (zpow_le_zpow_right₀ one_le_two (by omega))⟩
  have := (zpow_lt_zpow_iff_right₀ (one_lt_two : (1 : ℝ) < 2)).mp (hlo.trans_lt hlt)
  omega
/-- Rounding's outcomes, in terms of the encoding that the rounded significand counts to. -/
theorem FpFmt.round_eq {t : FpFmt} {rm m j : ℕ} {fzo neg : Bool} {e k q : ℤ} (hm : m ≠ 0) (hk : k = e + bitLen m - 1)
    (hq : q = max (k - t.fw) (t.emin - t.fw)) (hj : q = t.emin - t.fw + j) : t.round rm fzo neg m e false =
      let u := (roundMag rm neg m (e - (k - t.fw)) false).1
      let r := roundMag rm neg m (e - q) false
      let sg := if neg then t.signBit else 0
      let tiny := (bitLen u : ℤ) + (k - t.fw) ≤ t.emin
      if tiny ∧ fzo = true then (sg, flagUF ||| flagNX)
      else if t.maxFinite < r.1 + j * 2 ^ t.fw then
        (sg + if t.e4m3 = false ∧ (rm = 0 ∨ (rm = 2 ∧ neg = false) ∨ (rm = 3 ∧ neg = true)) then t.infBits else t.maxFinite,
          flagOF ||| flagNX)
      else (sg + (r.1 + j * 2 ^ t.fw), if r.2 then (if tiny then flagUF ||| flagNX else flagNX) else 0) := by
  subst hk
  rw [FpFmt.round]
  dsimp only
  rw [if_neg hm, ← hq]
  generalize roundMag rm neg m (e - q) false = r
  have henc : (r.1 : ℤ) + (q - (t.emin - t.fw)) * 2 ^ t.fw = ((r.1 + j * 2 ^ t.fw : ℕ) : ℤ) := by
    rw [hj, add_sub_cancel_left]
    push_cast
    ring
  rw [henc, Int.toNat_natCast]
  simp only [Bool.and_eq_true, decide_eq_true_eq, Nat.cast_lt]
  congr 2
  cases t.e4m3 <;> simp [or_assoc]

/-- The significand of a number whose leading bit is at place k, at a step of 2^q. -/
theorem significand_le {rm m F : ℕ} {neg : Bool} {e k q : ℤ} (h : (m : ℝ) * 2 ^ e < 2 ^ (k + 1)) (hq : k - F ≤ q) :
    (roundMag rm neg m (e - q) false).1 ≤ 2 ^ (F + 1) := by
  refine roundMag_le ?_
  rw [zpow_sub₀ two_ne_zero, ← mul_div_assoc, div_le_iff₀ (zpow_pos two_pos q), Nat.cast_pow, Nat.cast_two, ← zpow_natCast,
    ← zpow_add₀ two_ne_zero]
  exact h.le.trans (zpow_le_zpow_right₀ one_le_two (by push_cast; omega))
theorem le_significand {rm m F : ℕ} {neg : Bool} {e k q : ℤ} (h : (2 : ℝ) ^ k ≤ m * 2 ^ e) (hq : q ≤ k - F) :
    2 ^ F ≤ (roundMag rm neg m (e - q) false).1 := by
  refine le_roundMag ?_
  rw [zpow_sub₀ two_ne_zero, ← mul_div_assoc, le_div_iff₀ (zpow_pos two_pos q), Nat.cast_pow, Nat.cast_two, ← zpow_natCast,
    ← zpow_add₀ two_ne_zero]
  exact (zpow_le_zpow_right₀ one_le_two (by omega)).trans h

/-- A number that is not 0 is rounded once. -/
theorem FpFmt.round_roundedTo {t : FpFmt} (ht : t ∈ fpFormats) {rm m : ℕ} (hrm : rm < 4) (hm : m ≠ 0) (fzo neg : Bool) (e : ℤ) :
    roundedTo t rm fzo (signed neg ((m : ℝ) * 2 ^ e)) (t.round rm fzo neg m e false) := by
  obtain ⟨hlo, hhi⟩ := leading_bit hm e
  generalize hk : e + (bitLen m : ℤ) - 1 = k at hlo
  rw [show e + (bitLen m : ℤ) = k + 1 by omega] at hhi
  have hpos : (0 : ℝ) < m * 2 ^ e := (zpow_pos two_pos k).trans_le hlo
  obtain ⟨q, hq⟩ : ∃ q, q = max (k - t.fw) (t.emin - t.fw) := ⟨_, rfl⟩
  obtain ⟨j, hj⟩ : ∃ j : ℕ, q = t.emin - t.fw + j := ⟨(q - (t.emin - t.fw)).toNat, by omega⟩
  have hwhole (p : ℤ) : wholeOf rm (signed neg ((m : ℝ) * 2 ^ e) / 2 ^ p) (signed neg ((roundMag rm neg m (e - p) false).1 : ℤ)) := by
    rw [signed_div, mul_div_assoc, ← zpow_sub₀ two_ne_zero]
    exact wholeOf_roundMag hrm neg m _
  have hu0 : (roundMag rm neg m (e - (k - t.fw)) false).1 ≠ 0 :=
    ((Nat.two_pow_pos _).trans_le (le_significand hlo le_rfl)).ne'
  have hsig : t.magnitude ((roundMag rm neg m (e - q) false).1 + j * 2 ^ t.fw) = (roundMag rm neg m (e - q) false).1 * 2 ^ q := by
    rw [hj, FpFmt.magnitude_binade (hj ▸ significand_le hhi (by omega))]
    rcases Nat.eq_zero_or_pos j with h | h
    · exact .inl h
    · exact .inr (hj ▸ le_significand hlo (by omega))
  have hexact : (roundMag rm neg m (e - q) false).2 = false ↔ ((roundMag rm neg m (e - q) false).1 : ℝ) * 2 ^ q = m * 2 ^ e := by
    rw [roundMag_exact, zpow_sub₀ two_ne_zero, ← mul_div_assoc, eq_div_iff (zpow_pos two_pos q).ne']
  have hu := hwhole (k - t.fw)
  have hv := hwhole q
  rw [FpFmt.round_eq hm hk.symm hq hj]
  generalize roundMag rm neg m (e - (k - t.fw)) false = u at *
  generalize roundMag rm neg m (e - q) false = r at *
  have hbeyond : ((fpNumber (t.value false t.maxFinite) : ℚ) : ℝ) < r.1 * 2 ^ q ↔ t.maxFinite < r.1 + j * 2 ^ t.fw := by
    obtain ⟨M, E, hval, hmax⟩ := FpFmt.value_finite ht le_rfl false
    rw [if_neg Bool.false_ne_true, Nat.zero_add] at hval
    rw [hval, hmax, signed_false, ← hsig, FpFmt.magnitude_strictMono.lt_iff_lt]
  have htiny : |((signed neg (u.1 : ℤ) : ℤ) : ℝ)| * 2 ^ (k - (t.fw : ℤ)) < 2 ^ t.emin ↔ (bitLen u.1 : ℤ) + (k - t.fw) ≤ t.emin := by
    rw [signed_cast, abs_signed neg (Nat.cast_nonneg _), below_power hu0]
  have hd : ((signed neg (r.1 : ℤ) : ℤ) : ℝ) * 2 ^ q = signed neg ((r.1 : ℝ) * 2 ^ q) := by rw [signed_cast, signed_mul]
  have hlost : signed neg ((r.1 : ℝ) * 2 ^ q) = signed neg ((m : ℝ) * 2 ^ e) ↔ r.2 = false := signed_inj.trans hexact.symm
  refine ⟨k, signed neg (u.1 : ℤ), signed neg (r.1 : ℤ), neg, ?_⟩
  dsimp only
  rw [← hq, abs_signed neg hpos.le, hd, abs_signed neg (mul_nonneg r.1.cast_nonneg (zpow_pos two_pos q).le), hbeyond, htiny, ne_eq, hlost]
  refine ⟨hlo, hhi, ?_, hu, hv, fun h => if_pos h, fun h hb => by rw [if_neg h, if_pos hb], fun h hb => ?_⟩
  · cases neg <;> simp [hpos, hpos.le]
  · rw [if_neg h, if_neg hb]
    have hle : r.1 + j * 2 ^ t.fw ≤ t.maxFinite := not_lt.mp hb
    obtain ⟨M, E, hval, hnum⟩ := FpFmt.value_finite ht hle neg
    refine ⟨(FpFmt.fields_signed (hle.trans_lt (FpFmt.maxFinite_lt ht)) neg).1, ⟨M, E, hval, by rw [hnum, hsig]⟩,
      fun hr => by simp [hr], fun hr htn => ?_, fun hr htn => ?_⟩
    · rw [if_pos (Bool.eq_true_of_not_eq_false hr), if_pos htn]
    · rw [if_pos (Bool.eq_true_of_not_eq_false hr), if_neg htn]
/-- So is any number, a zero keeping its sign. -/
theorem FpFmt.round_roundsOnce {t : FpFmt} (ht : t ∈ fpFormats) {rm : ℕ} (hrm : rm < 4) (fzo neg : Bool) (m : ℕ) (e : ℤ) :
    roundsOnce t rm fzo ((fpNumber (.fin neg m e) : ℚ) : ℝ) neg (t.round rm fzo neg m e false) := by
  rw [FpFmt.fpNumber_fin]
  rcases eq_or_ne m 0 with rfl | hm
  · exact ⟨fun h => absurd (by cases neg <;> simp) h, fun _ => rfl⟩
  · refine ⟨fun _ => round_roundedTo ht hrm hm fzo neg e, fun h => absurd ?_ hm⟩
    cases neg <;> simpa [(zpow_pos (two_pos : (0 : ℝ) < 2) e).ne'] using h

/-! ### Sums and products (R67, R74) -/

/-- A sum of two numbers is formed exactly. -/
theorem addDyadic_eq (n1 n2 : Bool) (m1 m2 : ℕ) (e1 e2 : ℤ) : ((addDyadic n1 m1 e1 n2 m2 e2).1 : ℚ) * 2 ^ (addDyadic n1 m1 e1 n2 m2 e2).2
    = fpNumber (.fin n1 m1 e1) + fpNumber (.fin n2 m2 e2) := by
  have hterm {n : Bool} {m : ℕ} {e d : ℤ} (h : d ≤ e) :
      (((if n then -((m : ℤ) * 2 ^ (e - d).toNat) else (m : ℤ) * 2 ^ (e - d).toNat : ℤ)) : ℚ) * 2 ^ d = fpNumber (.fin n m e) := by
    obtain ⟨k, hk⟩ := Int.eq_ofNat_of_zero_le (show 0 ≤ e - d by omega)
    obtain rfl : e = d + k := by omega
    cases n <;> simp [fpNumber, zpow_add₀] <;> ring
  rw [addDyadic]
  dsimp only
  rw [Int.cast_add, add_mul, hterm (min_le_left _ _), hterm (min_le_right _ _)]
theorem fpNumber_sign (v e : ℤ) : fpNumber (.fin (decide (v < 0)) v.natAbs e) = (v : ℚ) * 2 ^ e := by
  rcases lt_or_ge v 0 with h | h
  · have : ((v.natAbs : ℤ) : ℚ) = -v := by rw [Int.ofNat_natAbs_of_nonpos h.le]; push_cast; ring
    rw [Int.cast_natCast] at this
    simp [fpNumber, h, this]
  · have : ((v.natAbs : ℤ) : ℚ) = v := by rw [Int.natAbs_of_nonneg h]
    rw [Int.cast_natCast] at this
    simp [fpNumber, not_lt.mpr h, this]
theorem fpNumber_mul (n1 n2 : Bool) (m1 m2 : ℕ) (e1 e2 : ℤ) :
    fpNumber (.fin (n1 != n2) (m1 * m2) (e1 + e2)) = fpNumber (.fin n1 m1 e1) * fpNumber (.fin n2 m2 e2) := by
  cases n1 <;> cases n2 <;> simp [fpNumber, zpow_add₀] <;> ring
section
variable {t : FpFmt} (ht : t ∈ fpFormats) {rm : ℕ} (hrm : rm < 4)
include ht hrm
/-- A sum is rounded once, and an exact zero has the sign of R74. -/
theorem FpFmt.roundSum_roundsOnce (fzo n1 n2 : Bool) (m1 m2 : ℕ) (e1 e2 : ℤ) : roundsOnce t rm fzo
    ((fpNumber (.fin n1 m1 e1) + fpNumber (.fin n2 m2 e2) : ℚ) : ℝ) (if n1 = n2 then n1 else rm == 3)
    (t.roundSum rm fzo n1 m1 e1 n2 m2 e2) := by
  rw [← addDyadic_eq, FpFmt.roundSum]
  generalize addDyadic n1 m1 e1 n2 m2 e2 = s
  rcases eq_or_ne s.1 0 with h | h
  · exact ⟨fun hne => absurd (by simp [h]) hne, fun _ => by simp [h]⟩
  · have hne : (((s.1 : ℚ) * 2 ^ s.2 : ℚ) : ℝ) ≠ 0 := by
      rw [Rat.cast_ne_zero]
      exact mul_ne_zero (Int.cast_ne_zero.mpr h) (zpow_pos two_pos _).ne'
    rw [← fpNumber_sign] at hne ⊢
    rw [if_neg h]
    exact ⟨(FpFmt.round_roundsOnce ht hrm fzo _ _ _).1, fun h0 => absurd h0 hne⟩
theorem FpFmt.mul_roundsOnce (fzo n1 n2 : Bool) (m1 m2 : ℕ) (e1 e2 : ℤ) : roundsOnce t rm fzo
    ((fpNumber (.fin n1 m1 e1) * fpNumber (.fin n2 m2 e2) : ℚ) : ℝ) (n1 != n2) (t.mul rm fzo (.fin n1 m1 e1) (.fin n2 m2 e2)) := by
  rw [← fpNumber_mul]
  exact FpFmt.round_roundsOnce ht hrm fzo _ _ _
theorem FpFmt.fma_roundsOnce (fzo n1 n2 n3 : Bool) (m1 m2 m3 : ℕ) (e1 e2 e3 : ℤ) : roundsOnce t rm fzo
    ((fpNumber (.fin n1 m1 e1) * fpNumber (.fin n2 m2 e2) + fpNumber (.fin n3 m3 e3) : ℚ) : ℝ)
    (if (n1 != n2) = n3 then n1 != n2 else rm == 3) (t.fma rm fzo (.fin n1 m1 e1) (.fin n2 m2 e2) (.fin n3 m3 e3)) := by
  rw [← fpNumber_mul]
  exact FpFmt.roundSum_roundsOnce ht hrm fzo _ _ _ _ _ _
end

/-! ### Operands that are no numbers (R73) -/

@[simp] theorem FpVal.nv_inf (n : Bool) : (FpVal.inf n).nv = 0 := rfl
@[simp] theorem FpVal.nv_fin (n : Bool) (m : ℕ) (e : ℤ) : (FpVal.fin n m e).nv = 0 := rfl
@[simp] theorem FpVal.neg_inf (n : Bool) : (FpVal.inf n).neg = n := rfl
@[simp] theorem FpVal.neg_fin (n : Bool) (m : ℕ) (e : ℤ) : (FpVal.fin n m e).neg = n := rfl
/-- An infinite product plus an addend. -/
theorem FpFmt.addInf_eq (t : FpFmt) (c : FpVal) (p : Bool) (nv : BitVec 5) : FpFmt.fma.addInf t c p nv =
    if c.isNan then (t.nanBits, nv) else if fpInfinite c && c.neg != p then (t.nanBits, flagNV) else (t.infOf p, 0) := by
  cases c with
  | nan s => rfl
  | inf n => cases n <;> cases p <;> rfl
  | fin n m e => rfl
theorem specialResults_hold (t : FpFmt) (rm : ℕ) (z : Bool) (a b c : FpVal) : specialResults t rm z a b c := by
  refine ⟨fun h => ?_, ?_, ?_, ?_, ?_, ?_⟩
  · cases a <;> cases b <;> simp_all [FpVal.isNan, FpFmt.add, FpFmt.mul, FpFmt.fma]
  · rintro n k rfl rfl
    cases n <;> cases k <;> rfl
  · cases a <;> cases b <;> simp [FpVal.isNan, fpInfinite, FpFmt.add]
  · cases a <;> cases b <;> simp [fpInfinite, fpZero, FpFmt.mul, FpFmt.fma] <;> intro h <;> simp [h]
  · cases a <;> cases b <;> simp +contextual [FpVal.isNan, fpInfinite, fpZero, FpFmt.mul, FpFmt.fma, FpFmt.addInf_eq]
  · cases a <;> cases b <;> cases c <;> simp [FpVal.isNan, fpInfinite, FpFmt.fma]

/-! ### Compares (R74, R148, R149) -/

theorem fpCompare_none {x y : FpVal} : fpCompare x y = none ↔ x.isNan = true ∨ y.isNan = true := by
  cases x <;> cases y <;> simp [fpCompare, FpVal.isNan]
/-- A compare's result tells which operand lies below the other. -/
theorem fpCompare_some {x y : FpVal} {c : ℤ} (h : fpCompare x y = some c) : (c < 0 ↔ fpBelow x y) ∧ (0 < c ↔ fpBelow y x) := by
  match x, y with
  | .nan _, _ => simp [fpCompare] at h
  | .inf _, .nan _ => simp [fpCompare] at h
  | .fin .., .nan _ => simp [fpCompare] at h
  | .inf p, .inf q => 
    cases p <;> cases q <;> simp [fpCompare] at h <;> subst h <;> simp [fpBelow]
  | .inf p, .fin .. => 
    cases p <;> simp [fpCompare] at h <;> subst h <;> simp [fpBelow]
  | .fin .., .inf p => 
    cases p <;> simp [fpCompare] at h <;> subst h <;> simp [fpBelow]
  | .fin n1 m1 e1, .fin n2 m2 e2 =>
    obtain rfl : (addDyadic n1 m1 e1 (!n2) m2 e2).1 = c := by simpa [fpCompare] using h
    have hsum := addDyadic_eq n1 (!n2) m1 m2 e1 e2
    have hneg : fpNumber (.fin (!n2) m2 e2) = -fpNumber (.fin n2 m2 e2) := by cases n2 <;> simp [fpNumber]
    have hp : (0 : ℚ) < 2 ^ (addDyadic n1 m1 e1 (!n2) m2 e2).2 := zpow_pos two_pos _
    rw [hneg, ← sub_eq_add_neg] at hsum
    rw [fpBelow, fpBelow, ← sub_neg (a := fpNumber (.fin n1 m1 e1)), ← sub_pos (b := fpNumber (.fin n2 m2 e2)), ← hsum, mul_pos_iff_of_pos_right hp, mul_neg_iff]
    simp [hp, hp.le]
theorem not_below_of_nan {x y : FpVal} (h : x.isNan = true ∨ y.isNan = true) : ¬ fpBelow x y ∧ ¬ fpBelow y x := by
  cases x <;> cases y <;> simp_all [FpVal.isNan, fpBelow]
/-- The model's condition is the comparison of R148. -/
theorem condFp_iff (cond : ℕ) (x y : FpVal) : condFp cond x y = true ↔ fpCondition cond x y := by
  unfold condFp fpCondition
  cases h : fpCompare x y with
  | none =>
    have hnan := fpCompare_none.mp h
    obtain ⟨hxy, hyx⟩ := not_below_of_nan hnan
    have ho : ¬ (x.isNan = false ∧ y.isNan = false) := fun ⟨hx, hy⟩ => by simp [hx, hy] at hnan
    dsimp only
    split <;> simp_all
  | some c =>
    have ho : x.isNan = false ∧ y.isNan = false := by
      simpa [not_or] using mt fpCompare_none.mpr (by simp [h] : fpCompare x y ≠ none)
    obtain ⟨hlt, hgt⟩ := fpCompare_some h
    dsimp only
    rw [← hlt, ← hgt, and_iff_right ho]
    split
    case h_1 =>
      simp only [beq_iff_eq, not_lt]
      omega
    case h_7 => split <;> simp_all
    all_goals simp [ho]

/-! ### The instructions -/

theorem exec_fcvt (f : FmtSV) (s : State) : exec (.fcvt f) s = execFcvt f s := rfl
theorem exec_fcvtWide (f : FmtSVW) (s : State) : exec (.fcvtWide f) s = execFcvtWide f s := rfl
theorem exec_cmp (f : FmtSC) (s : State) : exec (.cmp f) s = execCmp f s := rfl
/-- The three operations of a short form under a true guard. -/
theorem exec_fp {f : FmtSF} {s : State} (hg : s.guard0 f.g = true) :
    exec (.fadd f) s = .next (s.pushFp f.d ((fpOfT f.t).add (s.roundMode 0) (f.fzo != 0) (s.fpS f.t f.fzi f.a) (s.fpS f.t f.fzi f.b)))
    ∧ exec (.fmul f) s = .next (s.pushFp f.d ((fpOfT f.t).mul (s.roundMode 0) (f.fzo != 0) (s.fpS f.t f.fzi f.a) (s.fpS f.t f.fzi f.b)))
    ∧ exec (.ffma f) s = .next (s.pushFp f.d ((fpOfT f.t).fma (s.roundMode 0) (f.fzo != 0) (s.fpS f.t f.fzi f.a) (s.fpS f.t f.fzi f.b)
      (s.fpS f.t f.fzi f.d))) :=
  ⟨congrArg _ (if_pos hg), congrArg _ (if_pos hg), congrArg _ (if_pos hg)⟩
theorem exec_fpWide {f : FmtSFW} {s : State} (hg : s.guard0 f.g = true) :
    exec (.faddWide f) s = .next (s.pushFp f.d ((fpOfT f.t).add (s.roundMode f.rmo) (f.fzo != 0) (s.fpS f.t f.fzi f.a)
      (s.fpS f.t f.fzi f.b)))
    ∧ exec (.fmulWide f) s = .next (s.pushFp f.d ((fpOfT f.t).mul (s.roundMode f.rmo) (f.fzo != 0) (s.fpS f.t f.fzi f.a)
      (s.fpS f.t f.fzi f.b)))
    ∧ exec (.ffmaWide f) s = .next (s.pushFp f.d ((fpOfT f.t).fma (s.roundMode f.rmo) (f.fzo != 0) (s.fpS f.t f.fzi f.a)
      (s.fpS f.t f.fzi f.b) (s.fpS f.t f.fzi f.sc))) :=
  ⟨congrArg _ (if_pos hg), congrArg _ (if_pos hg), congrArg _ (if_pos hg)⟩
theorem placeConverted_eq (df u x : ℕ) : placeConverted df (u != 0) x =
    if fmtInt df = true ∧ u = 0 then BitVec.ofInt 64 (BitVec.ofNat (fmtBits df) x).toInt else BitVec.ofNat 64 x := by
  unfold placeConverted
  refine if_congr ?_ rfl rfl
  simp

/-- Settles O4: the instructions deliver what the format's operations do, and those round once. -/
theorem scalarFloatResults : Obligations.ScalarFloatResults := by
  unfold Obligations.ScalarFloatResults
  refine ⟨⟨?short, ?wide, ?cvt, ?cvtWide⟩, ?cmp, ?once, specialResults_hold⟩
  case short =>
    intro f s hg v rm p hp
    obtain ⟨hadd, hmul, hfma⟩ := exec_fp hg
    simp only [List.mem_cons, List.not_mem_nil, or_false] at hp
    rcases hp with rfl | rfl | rfl
    · exact hadd
    · exact hmul
    · exact hfma
  case wide =>
    intro f s hg v rm p hp
    obtain ⟨hadd, hmul, hfma⟩ := exec_fpWide hg
    simp only [List.mem_cons, List.not_mem_nil, or_false] at hp
    rcases hp with rfl | rfl | rfl
    · exact hadd
    · exact hmul
    · exact hfma
  case cvt =>
    intro f s hg
    refine ⟨_, _, _, rfl, ?_, (placeConverted_eq _ _ _)⟩
    rw [exec_fcvt, execFcvt, State.guarded_of_guard0 hg]
    rfl
  case cvtWide =>
    intro f s hg
    refine ⟨_, _, _, rfl, ?_, (placeConverted_eq _ _ _)⟩
    rw [exec_fcvtWide, execFcvtWide, State.guarded_of_guard0 hg]
    rfl
  case cmp =>
    intro f s hg hf x y
    refine ⟨condFp f.cond x y, ?_, fun hnan => ?_, fun h0 => ?_, condFp_iff _ _ _⟩
    · rw [exec_cmp, execCmp, State.guarded_of_guard0 hg]
      dsimp only
      rw [if_neg (by omega)]
      rfl
    · simp [condFp, fpCompare_none.mpr hnan]
    · rw [condFp, h0]
      dsimp only
      split <;> simp_all
  case once =>
    intro t ht rm z n1 n2 n3 m1 m2 m3 e1 e2 e3 hrm
    exact ⟨FpFmt.roundSum_roundsOnce ht hrm .., FpFmt.mul_roundsOnce ht hrm .., FpFmt.fma_roundsOnce ht hrm ..⟩

end Sys2Proof.Machine
end

section
/-! # The matrix engine's cycle (O33) -/

namespace Sys2Proof.Machine

/-! ### Contributions (R81 to R83) -/

theorem clamp128_eq (v : ℤ) : (clamp128 v).1 = max (-(2 ^ 127)) (min (2 ^ 127 - 1) v)
    ∧ (clamp128 v).2 = decide (v < -(2 ^ 127) ∨ 2 ^ 127 ≤ v) := by
  unfold clamp128
  split
  · next h => exact ⟨by dsimp only; omega, (decide_eq_true (.inr h)).symm⟩
  · split
    · next h => exact ⟨by dsimp only; omega, (decide_eq_true (.inl h)).symm⟩
    · exact ⟨by dsimp only; omega, (decide_eq_false (by omega)).symm⟩
theorem nearestEven_iff {r : ℚ} {n : ℤ} : nearestEven r n ↔ wholeOf 0 (r : ℝ) n := by
  have hdist : |(r : ℝ) - n| = ((|r - n| : ℚ) : ℝ) := by push_cast; rfl
  have hhalf : (1 / 2 : ℝ) = ((1 / 2 : ℚ) : ℝ) := by norm_num
  rw [nearestEven, wholeOf, hdist, hhalf, Rat.cast_le, Rat.cast_inj]
/-- RoundRNE of R6 is the nearest whole number, ties to even. -/
theorem nearestEven_roundRNE (v k : ℤ) : nearestEven ((v : ℚ) * 2 ^ k) (roundRNE v k) := by
  have hr : roundRNE v k = signed (decide (v < 0)) ((roundMag 0 (decide (v < 0)) v.natAbs k false).1 : ℤ) := by
    by_cases h : v < 0 <;> simp [roundRNE, h, roundMag]
  rw [nearestEven_iff, hr, ← fpNumber_sign, FpFmt.fpNumber_fin]
  exact wholeOf_roundMag (by norm_num) _ _ _
theorem getD_drop {α : Type} (l : List α) (n i : ℕ) (d : α) : (l.drop n).getD i d = l.getD (n + i) d := by
  simp [List.getD_eq_getElem?_getD]
theorem getD_zipWith {α β γ : Type} {f : α → β → γ} {a : List α} {b : List β} {n : ℕ} {x : α} {y : β} {z : γ} (ha : n < a.length)
    (hb : n < b.length) : (List.zipWith f a b).getD n z = f (a.getD n x) (b.getD n y) := by
  simp [List.getD_eq_getElem?_getD, ha, hb]
/-- A sum of products over the first k elements, absent ones being 0 (R81). -/
theorem dot_take (k : ℕ) (a b : List ℤ) : dot (a.take k) (b.take k) = ∑ i ∈ Finset.range k, a.getD i 0 * b.getD i 0 := by
  have hdot (x y : List ℤ) : dot x y = (List.zipWith (· * ·) x y).sum := List.sum_eq_foldl.symm
  rw [hdot]
  induction k generalizing a b with
  | zero => rfl
  | succ k ih =>
    rw [Finset.sum_range_succ']
    match a, b with
    | [], _ => simp
    | _ :: _, [] => simp
    | x :: a, y :: b => simp [ih, add_comm]
theorem columnAdds_getD (g : ℤ) (act : List ℤ × List (ℕ × ℤ × Bool)) (col : List ℤ) (sc : List (ℕ × ℤ × Bool)) {j : ℕ} (hj : j < 4) :
    (columnAdds g act col sc).getD j none =
      let x := act.2.getD j (0, 0, true)
      let w := sc.getD j (0, 0, true)
      if x.2.2 || w.2.2 then none
      else some (roundRNE ((∑ i ∈ Finset.range 32, act.1.getD (32 * j + i) 0 * col.getD (32 * j + i) 0) * x.1 * w.1) (x.2.1 + w.2.1 - g)) := by
  simp only [columnAdds, List.getD_eq_getElem?_getD, List.getElem?_map, List.getElem?_range hj, Option.map_some, Option.getD_some,
    dot_take, List.getElem?_drop]

/-! ### What a cycle leaves of the accumulator -/

/-- The accumulator store and the clock of a core's matrix engine are as they were. -/
def keepsAcc (s t : State) (c : ℕ) : Prop := (t.core c).acc = (s.core c).acc ∧ (t.core c).mx.clock = (s.core c).mx.clock

namespace State
variable {s t u : State} {c d : ℕ}

theorem keepsAcc_refl : keepsAcc s s c := ⟨rfl, rfl⟩
theorem keepsAcc_trans (h : keepsAcc s t c) (g : keepsAcc t u c) : keepsAcc s u c := ⟨g.1.trans h.1, g.2.trans h.2⟩
theorem keepsAcc_of_cores (h : t.cores = s.cores) : keepsAcc s t c := by
  have hc : t.core = s.core := by unfold State.core; rw [h]
  rw [keepsAcc, hc]
  exact ⟨rfl, rfl⟩
theorem keepsAcc_foldl {α : Type} {f : State → α → State} {l : List α} (hf : ∀ t a, keepsAcc t (f t a) c) :
    keepsAcc s (l.foldl f s) c :=
  l.foldlRecOn f (motive := fun t => keepsAcc s t c) keepsAcc_refl fun t ht a _ => keepsAcc_trans ht (hf t a)
theorem keepsAcc_modMx {f : Matrix → Matrix} (hf : ∀ m, (f m).clock = m.clock) : keepsAcc s (s.modMx d f) c := by
  unfold keepsAcc State.modMx
  rw [State.modCore_core]
  split
  · next h => rw [h]; exact ⟨rfl, hf _⟩
  · exact ⟨rfl, rfl⟩
theorem keepsAcc_coreFault {die unit code core bar addr detail : ℕ} : keepsAcc s (s.coreFault die unit code core bar addr detail) c := by
  unfold State.coreFault
  dsimp only
  split <;> exact keepsAcc_of_cores rfl
theorem fillTags_cores {off n : ℕ} : (s.fillTags d off n).cores = s.cores := by
  have h (full : Bool) (o k : ℕ) : (s.setTags d o full k).cores = s.cores := by
    induction k with
    | zero => rfl
    | succ k ih => exact ih
  unfold State.fillTags
  split
  · rfl
  · exact h _ _ _

/-! ### The parts of a cycle -/

theorem keepsAcc_mxFault {seq code addr : ℕ} : keepsAcc s (s.mxFault d seq code addr) c := by
  unfold State.mxFault
  extract_lets m i gone s1 s2
  have h1 : keepsAcc s s1 c := keepsAcc_modMx fun _ => rfl
  have h2 : keepsAcc s s2 c := keepsAcc_trans h1 (keepsAcc_foldl fun _ _ => keepsAcc_of_cores rfl)
  exact keepsAcc_trans h2 keepsAcc_coreFault
theorem keepsAcc_writeRow {v : Uop} {i : ℕ} : keepsAcc s (s.writeRow d v i) c := by
  unfold State.writeRow
  extract_lets k r a b w s1 s2
  have h2 : s2.cores = s.cores := by
    unfold s2
    split
    · rw [fillTags_cores, fillTags_cores]
    · rfl
  refine keepsAcc_trans (keepsAcc_of_cores h2) ?_
  rw [keepsAcc, State.modCtx_core_acc, State.modCtx_core_mx]
  exact ⟨rfl, rfl⟩
theorem keepsAcc_enterRow {v : Uop} {i : ℕ} : keepsAcc s (s.enterRow d v i) c := keepsAcc_modMx fun _ => rfl
theorem keepsAcc_stepRow {v : Uop} {i : ℕ} : keepsAcc s (s.stepRow d i v) c := by
  unfold State.stepRow
  extract_lets u' s1
  have h1 : keepsAcc s s1 c := keepsAcc_modMx fun _ => rfl
  refine keepsAcc_trans h1 ?_
  split
  · split
    · exact keepsAcc_refl
    · exact keepsAcc_modMx fun _ => rfl
  · split
    · exact keepsAcc_enterRow
    · exact keepsAcc_writeRow
theorem keepsAcc_stepUop {i : ℕ} : keepsAcc s (s.stepUop d i) c := by
  unfold State.stepUop
  extract_lets m clk s1
  have h1 : keepsAcc s s1 c := keepsAcc_of_cores rfl
  split
  · exact keepsAcc_refl
  · split
    · exact keepsAcc_refl
    · split
      · split
        · exact keepsAcc_mxFault
        · exact keepsAcc_refl
      · extract_lets ahead late
        split
        · exact keepsAcc_trans h1 (keepsAcc_modMx fun _ => rfl)
        · exact keepsAcc_trans h1 keepsAcc_stepRow
theorem keepsAcc_releaseCalls : keepsAcc s (s.releaseCalls d) c := by
  unfold State.releaseCalls
  extract_lets m fin s'
  have h' : keepsAcc s s' c := keepsAcc_modMx fun _ => rfl
  exact keepsAcc_trans h' (keepsAcc_foldl fun _ _ => keepsAcc_of_cores rfl)
theorem keepsAcc_mxDispatch : keepsAcc s (s.mxDispatch d) c := by
  unfold State.mxDispatch
  dsimp only
  split
  · exact keepsAcc_refl
  · split
    · split <;> exact keepsAcc_of_cores rfl
    · exact keepsAcc_refl
theorem addFlows_spec : ((s.addFlows c).core c).mx.clock = (s.core c).mx.clock ∧ ((s.addFlows c).core c).acc =
    ((s.core c).mx.flows.filter fun f => decide (f.due < (s.core c).mx.clock)).foldl Acc.add (s.core c).acc := by
  simp [State.addFlows, State.modMx, State.modAcc]
/-- A cycle of the array moves the clock by one and adds the contributions whose cycle has passed (R238). -/
theorem mxTick_spec (ht : s.mxTick c = t) : (t.core c).mx.clock = (s.core c).mx.clock + 1 ∧ (t.core c).acc =
    ((s.core c).mx.flows.filter fun f => decide (f.due ≤ (s.core c).mx.clock)).foldl Acc.add (s.core c).acc := by
  subst ht
  unfold State.mxTick
  extract_lets s1 s2 s3 early s4
  have h2 : (s2.core c).mx.clock = (s.core c).mx.clock + 1 ∧ (s2.core c).acc =
      ((s.core c).mx.flows.filter fun f => decide (f.due ≤ (s.core c).mx.clock)).foldl Acc.add (s.core c).acc := by
    obtain ⟨hclock, hacc⟩ := addFlows_spec (s := s1) (c := c)
    have h1 : (s1.core c).mx.clock = (s.core c).mx.clock + 1 ∧ (s1.core c).mx.flows = (s.core c).mx.flows
        ∧ (s1.core c).acc = (s.core c).acc := by simp [s1, State.modMx]
    refine ⟨hclock.trans h1.1, hacc.trans ?_⟩
    simp only [h1, Nat.lt_succ_iff]
  have h4 : keepsAcc s2 s4 c := keepsAcc_trans (keepsAcc_foldl fun _ _ => keepsAcc_stepUop) keepsAcc_releaseCalls
  have h5 : keepsAcc s2 (if early then s4 else s4.mxDispatch c) c := by
    split
    · exact h4
    · exact keepsAcc_trans h4 keepsAcc_mxDispatch
  exact ⟨h5.2.trans h2.1, h5.1.trans h2.2⟩

theorem exec_microopComplete : exec .microopComplete s = execMicroopComplete s := rfl
theorem microopComplete_idle (ha : s.clk.args = [c]) (h : (s.core c).mx.awake = false) : exec .microopComplete s = .next s := by
  simp [exec_microopComplete, execMicroopComplete, State.arg, ha, h]
theorem microopComplete_ticks (ha : s.clk.args = [c]) (hw : (s.core c).mx.awake = true) (hs : (s.core c).stat.stopped = false)
    (hd : (s.core c).stat.dead = false) (hf : s.frac (pkgOf c) (2 * (c % 512) + 1) = 64) : exec .microopComplete s = .next
      ((s.modMx c fun m => { m with credit := ((s.core c).mx.credit + 64) % 64, live := m.live + 1 }).mxTick c) := by
  simp [exec_microopComplete, execMicroopComplete, State.arg, ha, hw, hs, hd, hf]

/-! ### A row enters the array (R234) -/

theorem leBytes_readN (m : Memory) (a n : ℕ) : leBytes n (m.readN a n) = m.bytes a n := by
  induction n generalizing a with
  | zero => rfl
  | succ n ih =>
    have h := (m.read a).isLt
    rw [Memory.readN, Memory.bytes, leBytes, Nat.add_mul_mod_self_left, Nat.mod_eq_of_lt h, Nat.add_mul_div_left _ _ (by norm_num),
      Nat.div_eq_of_lt h, Nat.zero_add, ih]
/-- A row of an AST that gathers nothing and has read no granule before sets out with the contributions of its bytes. -/
theorem enterRow_eq {v : Uop} {i : ℕ} (hmark : v.mark = false) (hgrans : v.grans = []) (hmem : s.callMem c v.seq = s.mem) :
    let row := (((v.base : ℤ) + (64 * v.str * i : ℕ)) % 2 ^ 64).toNat
    let act := vectorIn v.fm v.fz (s.mem.bytes (spmAddr c row) (rowBytes v.fm))
      (if v.fm ≤ 1 then s.mem.bytes (spmAddr c (v.scl + 8 * v.sstr * i)) 8 else [])
    let adds := List.zipWith (columnAdds ((s.core c).acc.grid v.tile) act) (s.core c).mx.active.cols (s.core c).mx.active.scales
    s.enterRow c v i = s.modMx c fun m => { m with flows := m.flows ++ [⟨v.seq, m.clock + 135, v.tile, v.row0 + i, adds⟩] } := by
  have hx : s.rowIndex c v i = i := by simp [State.rowIndex, hmark]
  have hg (a : ℕ) : s.granRead c v a 8 = s.mem.readN (spmAddr c a) 8 := by simp [State.granRead, hgrans, Tab.find, hmem]
  unfold State.enterRow
  simp only [hx, hg, hmem, leBytes_readN, scaled, decide_eq_true_eq, add64]
  push_cast
  rfl

end State

/-- Settles O33: contributions, a cycle, the sums of a row, and the row's entry. -/
theorem matrixCycle : Obligations.MatrixCycle := by
  unfold Obligations.MatrixCycle
  refine ⟨?contribution, ?cycle, fun s c ha h => State.microopComplete_idle ha h, ?sums, ?row⟩
  case contribution =>
    intro e o v _ _
    obtain ⟨hval, hover⟩ := clamp128_eq (e.a + v)
    exact ⟨rfl, rfl, hval, by rw [← hover]; rfl⟩
  case cycle =>
    intro s c ha hw hs hd hf
    obtain ⟨hclock, hacc⟩ := State.mxTick_spec (c := c) (rfl : (s.modMx c fun m =>
      { m with credit := ((s.core c).mx.credit + 64) % 64, live := m.live + 1 }).mxTick c = _)
    refine ⟨_, State.microopComplete_ticks ha hw hs hd hf, ?_, ?_⟩
    · simpa [State.modMx] using hclock
    · simpa [State.modMx] using hacc
  case sums =>
    intro g act col sc j hj x w sum r
    have hr : r = _ := columnAdds_getD g act col sc hj
    refine ⟨fun h => ?_, fun hx hw => ⟨_, ?_, nearestEven_roundRNE _ _⟩⟩
    · rw [hr]
      exact if_pos ((Bool.or_eq_true _ _).mpr h)
    · rw [hr]
      exact if_neg fun h => ((Bool.or_eq_true _ _).mp h).elim (fun h => Bool.false_ne_true (hx.symm.trans h))
        fun h => Bool.false_ne_true (hw.symm.trans h)
  case row =>
    intro s c i u hmark hgrans _ hmem m row act
    have henter := State.enterRow_eq (i := i) hmark hgrans hmem
    refine ⟨⟨u.seq, m.clock + 135, u.tile, u.row0 + i, _⟩, ?_, rfl, rfl, rfl, rfl, ?_, fun n hn hn' => getD_zipWith hn hn'⟩
    · rw [henter, State.modMx, State.modCore_core, if_pos rfl]
    · rw [henter, State.modMx, State.modCore_core, if_pos rfl]

end Sys2Proof.Machine
end

section
/-! # What a round's contributions come to (O40, first part)

An exact round takes its contributions in the order of their ranks (`byRank_eq_of_perm`); an ordered one combines them in the tree
whose nodes are `vecNode`, element by element those of `orderedNode`. -/

namespace Sys2Proof.Machine

/-! ### An exact round does not depend on order (R89, R90) -/

theorem insertRank_perm (c : Contrib) (l : List Contrib) : (insertRank c l).Perm (c :: l) := by
  induction l with
  | nil => exact .refl _
  | cons d l ih =>
    rw [insertRank]
    split
    · exact (ih.cons d).trans (.swap c d l)
    · exact .refl _
theorem insertRank_pairwise {c : Contrib} {l : List Contrib} (h : l.Pairwise fun a b => a.rank ≤ b.rank) :
    (insertRank c l).Pairwise fun a b => a.rank ≤ b.rank := by
  induction l with
  | nil => exact List.pairwise_singleton _ _
  | cons d l ih =>
    obtain ⟨hd, hl⟩ := List.pairwise_cons.mp h
    rw [insertRank]
    split
    · next hle =>
      refine List.pairwise_cons.mpr ⟨fun b hb => ?_, ih hl⟩
      rcases List.mem_cons.mp ((insertRank_perm c l).subset hb) with rfl | hb
      · exact hle
      · exact hd b hb
    · next hlt =>
      refine List.pairwise_cons.mpr ⟨fun b hb => ?_, h⟩
      rcases List.mem_cons.mp hb with rfl | hb
      · omega
      · exact (Nat.le_of_lt (not_le.mp hlt)).trans (hd b hb)
theorem byRank_spec (l : List Contrib) : (byRank l).Perm l ∧ (byRank l).Pairwise fun a b => a.rank ≤ b.rank := by
  have h (l acc : List Contrib) (hacc : acc.Pairwise fun a b => a.rank ≤ b.rank) :
      (l.foldl (fun acc c => insertRank c acc) acc).Perm (l ++ acc)
      ∧ (l.foldl (fun acc c => insertRank c acc) acc).Pairwise fun a b => a.rank ≤ b.rank := by
    induction l generalizing acc with
    | nil => exact ⟨.refl _, hacc⟩
    | cons c l ih =>
      obtain ⟨hperm, hsorted⟩ := ih _ (insertRank_pairwise hacc)
      exact ⟨hperm.trans (((insertRank_perm c acc).append_left l).trans List.perm_middle), hsorted⟩
  simpa [byRank] using h l [] .nil
theorem byRank_eq_of_perm {l l' : List Contrib} (h : l.Perm l') (hn : (l.map (·.rank)).Nodup) : byRank l = byRank l' := by
  obtain ⟨hp, hs⟩ := byRank_spec l
  obtain ⟨hp', hs'⟩ := byRank_spec l'
  refine List.Perm.eq_of_pairwise (fun a b ha hb hab hba => ?_) hs hs' (hp.trans (h.trans hp'.symm))
  exact List.inj_on_of_nodup_map hn (hp.subset ha) (h.symm.subset (hp'.subset hb)) (le_antisymm hab hba)

/-! ### An exact round is rounded once (R89) -/

theorem clampSum_of_small {v : ℤ} (h : |v| < 2 ^ 127) : clampSum v = (v, false) := by
  obtain ⟨hlo, hhi⟩ := abs_lt.mp h
  rw [clampSum, if_neg (by omega), if_neg (by omega)]
theorem foldl_exactStep {l : List ℤ} {a : ℤ} (h : |a| + ((l.map Int.natAbs).sum : ℕ) < 2 ^ 127) :
    l.foldl (exactStep 0) (a, false) = (a + l.sum, false) := by
  induction l generalizing a with
  | nil => simp
  | cons x l ih =>
    have hx : |a + x| ≤ |a| + x.natAbs := by
      rw [Int.natCast_natAbs]
      exact abs_add_le a x
    rw [List.map_cons, List.sum_cons, Nat.cast_add] at h
    have hs : exactStep 0 (a, false) x = (a + x, false) := by
      simp [exactStep, clampSum_of_small (show |a + x| < 2 ^ 127 by omega)]
    rw [List.foldl_cons, hs, ih (by omega), List.sum_cons, add_assoc]
theorem exactCombine_sum {l : List ℤ} (h : (l.map Int.natAbs).sum < 2 ^ 127) : exactCombine 0 l = (l.sum, false) := by
  cases l with
  | nil => rfl
  | cons a l =>
    rw [exactCombine, List.sum_cons]
    refine foldl_exactStep ?_
    rw [List.map_cons, List.sum_cons] at h
    rw [Int.abs_eq_natAbs]
    omega
theorem exactEl_rounds {out : ℕ} {w : ℤ} {xs : List ℕ} {qs : List ℤ} (hl : qs.length = xs.length)
    (hq : ∀ i, i < xs.length → gridQ w (xs.getD i 0) = some (qs.getD i 0, false)) (hs : (qs.map Int.natAbs).sum < 2 ^ 127) :
    exactEl 0 out w xs = (let r := (if out = 1 then fpBf16 else fp32).round 0 false (decide (qs.sum < 0)) qs.sum.natAbs w false
      (r.1, r.2, false)) := by
  have hmap : xs.map (gridQ w) = qs.map fun q => some (q, false) := by
    refine List.ext_getElem (by simp [hl]) fun i hi hi' => ?_
    have hx : i < xs.length := by simpa using hi
    simpa [List.getD_eq_getElem?_getD, hx, hl.symm ▸ hx] using hq i hx
  have hall : (qs.map fun q => (some (q, false) : Option (ℤ × Bool))).filterMap id = qs.map fun q => (q, false) := by
    simp [List.filterMap_map]
  unfold exactEl
  simp only [hmap, hall, List.map_map, Function.comp_def, List.map_id', exactCombine_sum hs]
  simp

/-! ### The ordered tree (R88, R313) -/

/-- Node j of level n of the tree over the leaves. -/
def vecNode (fmt op : ℕ) (leaf : ℕ → Option (List ℕ) × BitVec 5) : ℕ → ℕ → Option (List ℕ) × BitVec 5
  | 0, j => leaf j
  | n + 1, j => combineVec fmt op (vecNode fmt op leaf n (2 * j)) (vecNode fmt op leaf n (2 * j + 1))
section
variable {fmt op : ℕ} {leaf : ℕ → Option (List ℕ) × BitVec 5}

theorem combineLevel_range (m : ℕ) (F : ℕ → Option (List ℕ) × BitVec 5) : combineLevel fmt op ((List.range (2 * m)).map F) =
    (List.range m).map fun j => combineVec fmt op (F (2 * j)) (F (2 * j + 1)) := by
  induction m generalizing F with
  | zero => rfl
  | succ m ih =>
    rw [show 2 * (m + 1) = 2 * m + 1 + 1 by ring, List.range_succ_eq_map, List.range_succ_eq_map, List.range_succ_eq_map]
    simp only [List.map_cons, List.map_map, combineLevel]
    exact congrArg _ (ih fun j => F (j + 1 + 1))
theorem vecNode_shift (n j : ℕ) : vecNode fmt op (vecNode fmt op leaf 1) n j = vecNode fmt op leaf (n + 1) j := by
  induction n generalizing j with
  | zero => rfl
  | succ n ih => rw [vecNode, ih, ih]; rfl
theorem combineTree_range (n : ℕ) : combineTree fmt op n ((List.range (2 ^ n)).map leaf) = [vecNode fmt op leaf n 0] := by
  induction n generalizing leaf with
  | zero => rfl
  | succ n ih =>
    rw [combineTree, pow_succ, mul_comm, combineLevel_range, ← vecNode_shift]
    exact ih
/-- A node is absent where every leaf below it is. -/
theorem vecNode_none {n j : ℕ} (h : (vecNode fmt op leaf n j).1 = none) {p : ℕ} (hp : p / 2 ^ n = j) : (leaf p).1 = none := by
  induction n generalizing j with
  | zero =>
    obtain rfl : p = j := by simpa using hp
    exact h
  | succ n ih =>
    rw [pow_succ, ← Nat.div_div_eq_div_mul] at hp
    have hboth : (vecNode fmt op leaf n (2 * j)).1 = none ∧ (vecNode fmt op leaf n (2 * j + 1)).1 = none := by
      rw [vecNode, combineVec] at h
      revert h
      cases (vecNode fmt op leaf n (2 * j)).1 <;> cases (vecNode fmt op leaf n (2 * j + 1)).1 <;> simp
    rcases (show p / 2 ^ n = 2 * j ∨ p / 2 ^ n = 2 * j + 1 by omega) with h' | h'
    · exact ih hboth.1 h'
    · exact ih hboth.2 h'
/-- A vector holds, element by element, what the trees over the elements come to. -/
def elementwise (len : ℕ) (v : Option (List ℕ)) (x : ℕ → Option ℕ) : Prop :=
  match v with
  | none => ∀ i, i < len → x i = none
  | some l => l.length = len ∧ ∀ i, i < len → x i = some (l.getD i 0)
theorem elementwise_combine {len : ℕ} {a b : Option (List ℕ) × BitVec 5} {x y : ℕ → Option ℕ × BitVec 5}
    (ha : elementwise len a.1 fun i => (x i).1) (hb : elementwise len b.1 fun i => (y i).1) :
    elementwise len (combineVec fmt op a b).1 fun i => (redCombine (combineEl fmt op) (x i) (y i)).1 := by
  obtain ⟨a, f⟩ := a
  obtain ⟨b, g⟩ := b
  have hred (p q : Option ℕ × BitVec 5) : (redCombine (combineEl fmt op) p q).1 = match p.1, q.1 with
      | none, v => v
      | some u, none => some u
      | some u, some v => some (combineEl fmt op u v).1 := by
    obtain ⟨p, _⟩ := p
    obtain ⟨q, _⟩ := q
    cases p <;> cases q <;> rfl
  simp only [hred]
  cases a with
  | none => 
    have : (combineVec fmt op (none, f) (b, g)).1 = b := by cases b <;> rfl
    rw [this]
    cases b with
    | none => exact fun i hi => by simp [ha i hi, hb i hi]
    | some l => exact ⟨hb.1, fun i hi => by simp [ha i hi, hb.2 i hi]⟩
  | some k => 
    cases b with
    | none => exact ⟨ha.1, fun i hi => by simp [ha.2 i hi, hb i hi]⟩
    | some l =>
      refine ⟨by simp [ha.1, hb.1], fun i hi => ?_⟩
      simp only [ha.2 i hi, hb.2 i hi]
      simp [List.getD_eq_getElem?_getD, ha.1, hb.1, hi]
theorem vecNode_elementwise {len : ℕ} {el : ℕ → ℕ → Option ℕ} (h : ∀ p, elementwise len (leaf p).1 fun i => el i p) (n j : ℕ) :
    elementwise len (vecNode fmt op leaf n j).1 fun i => (orderedNode (combineEl fmt op) (el i) n j).1 := by
  induction n generalizing j with
  | zero => exact h j
  | succ n ih => exact elementwise_combine (ih _) (ih _)
end

/-! ### What a round answers (R313) -/

theorem entryElems_length (r : RedWin) (c : Contrib) : (entryElems r c).length = r.len := by simp [entryElems]
/-- The contribution that stands at a leaf position. -/
def State.leafElems (s : State) (pkg : ℕ) (r : RedWin) (l : List Contrib) (p : ℕ) : Option (List ℕ) × BitVec 5 :=
  ((l.find? fun c => s.leafOf pkg r c.rank == p).map (entryElems r), 0)
theorem State.leafElems_elementwise (s : State) (pkg : ℕ) (r : RedWin) (l : List Contrib) (p : ℕ) :
    elementwise r.len (s.leafElems pkg r l p).1 fun i =>
      (l.find? fun c => s.leafOf pkg r c.rank == p).map fun c => (entryElems r c).getD i 0 := by
  rw [leafElems]
  cases l.find? fun c => s.leafOf pkg r c.rank == p with
  | none => exact fun _ _ => rfl
  | some c => exact ⟨entryElems_length r c, fun _ _ => rfl⟩
theorem State.reduceRound_exact_perm {s : State} {pkg d d' : ℕ} {r : RedWin} {l l' : List Contrib} (hf : r.fmt = 3) (h : l.Perm l')
    (hn : (l.map (·.rank)).Nodup) : s.reduceRound pkg r l d = s.reduceRound pkg r l' d' := by
  rw [reduceRound, reduceRound, if_pos hf, if_pos hf, byRank_eq_of_perm h hn]
theorem State.reduceRound_ordered {s : State} {pkg d : ℕ} {r : RedWin} {l : List Contrib} (hm : r.mode = 0) (hf : r.fmt ≠ 3) :
    (s.reduceRound pkg r l d).1 = ((vecNode r.fmt r.op (s.leafElems pkg r l) (clog2 r.n) 0).1.getD []).map fun x =>
      if r.fmt = 2 then x else if r.out = 1 then (fpBf16.convert 0 false (fp32.value false (canon32 x))).1 else canon32 x := by
  have htree : combineTree r.fmt r.op (clog2 r.n) ((List.range (2 ^ clog2 r.n)).map fun p =>
      ((l.find? fun c => s.leafOf pkg r c.rank == p).map (entryElems r), 0)) = _ := combineTree_range (leaf := s.leafElems pkg r l) _
  rw [reduceRound, if_neg hf]
  simp only [hm, if_true, htree, List.headD_cons]
  by_cases h2 : r.fmt = 2
  · simp [h2]
  · by_cases ho : r.out = 1 <;> simp [h2, ho]
/-- The elements of an ordered round with a contribution at one of its leaves. -/
theorem State.reduceRound_elements {s : State} {pkg d : ℕ} {r : RedWin} {l : List Contrib} (hm : r.mode = 0) (hf : r.fmt ≠ 3)
    (hex : ∃ c ∈ l, s.leafOf pkg r c.rank < 2 ^ clog2 r.n) :
    let leaf := fun (i p : ℕ) => (l.find? fun c => s.leafOf pkg r c.rank == p).map fun c => (entryElems r c).getD i 0
    let res := (s.reduceRound pkg r l d).1
    res.length = r.len ∧ ∀ i, i < r.len →
      let x := (orderedNode (combineEl r.fmt r.op) (leaf i) (clog2 r.n) 0).1.getD 0
      res.getD i 0 = if r.fmt = 2 then x else if r.out = 1 then (fpBf16.convert 0 false (fp32.value false (canon32 x))).1
        else canon32 x := by
  intro leaf res
  have hres : res = _ := reduceRound_ordered hm hf
  have hel := vecNode_elementwise (fmt := r.fmt) (op := r.op) (s.leafElems_elementwise pkg r l) (clog2 r.n) 0
  cases hv : (vecNode r.fmt r.op (s.leafElems pkg r l) (clog2 r.n) 0).1 with
  | none =>
    obtain ⟨c, hc, hlt⟩ := hex
    have habsent := vecNode_none hv (Nat.div_eq_of_lt hlt)
    rw [leafElems, Option.map_eq_none_iff, List.find?_eq_none] at habsent
    exact absurd (beq_self_eq_true _) (habsent c hc)
  | some k =>
    rw [hv] at hel hres
    obtain ⟨hlen, hget⟩ := hel
    refine ⟨by simp [hres, hlen], fun i hi => ?_⟩
    have hx : (orderedNode (combineEl r.fmt r.op) (leaf i) (clog2 r.n) 0).1 = some (k.getD i 0) := hget i hi
    dsimp only
    rw [hx, hres]
    simp [List.getD_eq_getElem?_getD, hlen, hi]
end Sys2Proof.Machine
end

section
/-! # A contribution at its root (O40, second part)

What counts packets, completes operations and delivers leaves the Apex tables, the clock and memory alone (`State.sameApex`), so a
contribution meets at its root the window and the round that stood there; a round that is full finalises once
(`State.settleRounds_full`), and any other rests (`State.settleRounds_idle`). -/

namespace Sys2Proof.Machine

theorem Tab.find_set {α : Type} {t : Tab α} {k j : ℕ} {v : α} :
    Tab.find (Tab.set t k v) j = if j = k then some v else Tab.find t j := by
  by_cases hj : j = k
  · rw [hj, if_pos rfl, Tab.find_set_self]
  · rw [if_neg hj]
    have hk : ¬ k = j := fun h => hj h.symm
    induction t with
    | nil => simp [Tab.set, Tab.find, hk]
    | cons e l ih =>
      obtain ⟨i, w⟩ := e
      rw [Tab.set]
      split
      · next hi => simp [Tab.find, hi, hk]
      · split
        · simp [Tab.find, hk]
        · simp [Tab.find, ih]

theorem exec_contributionAtRoot {s : State} : exec .contributionAtRoot s = execContributionAtRoot s := rfl

/-! ### A payload and its words (R390) -/

theorem leNum_leBytes4 (x : ℕ) : leNum (leBytes 4 x) = x % 2 ^ 32 := by
  simp only [leBytes, leNum]
  omega
theorem chunks_words {l : List ℕ} {n : ℕ} (h : l.length ≤ n) :
    (chunks 4 n (l.flatMap (leBytes 4))).map leNum = l.map (· % 2 ^ 32) := by
  induction l generalizing n with
  | nil => cases n <;> simp [chunks]
  | cons x l ih =>
    obtain ⟨m, rfl⟩ : ∃ m, n = m + 1 := ⟨n - 1, by simp at h; omega⟩
    have hlen := leBytes_length 4 x
    have hne : (leBytes 4 x ++ l.flatMap (leBytes 4)).isEmpty = false := rfl
    rw [List.flatMap_cons, chunks, hne, if_neg Bool.false_ne_true, List.take_left' hlen, List.drop_left' hlen, List.map_cons,
      List.map_cons, ih (by simpa using h), leNum_leBytes4]
theorem tensorElems_words (l : List ℕ) : tensorElems 4 (l.flatMap (leBytes 4)) = l.map (· % 2 ^ 32) := by
  have hlen : l.length ≤ (l.flatMap (leBytes 4)).length := by
    simp [List.length_flatMap, leBytes_length]
    omega
  exact chunks_words hlen

/-- An operation's contribution as its root has it, its elements the words of the payload. -/
def Fop.arrived (op : ℕ) (f : Fop) : Contrib := ⟨f.rank, f.round, f.data.map (· % 2 ^ 32), op⟩
/-- The tables of an Apex: all but its windows and what their rounds have come to. -/
def Apex.tables (a : Apex) : Apex := { a with redwins := [], rounds := [], roundEnds := [] }
theorem Apex.tables_fields {a b : Apex} (h : a.tables = b.tables) : a.dies = b.dies ∧ a.windows = b.windows
    ∧ a.rankmap = b.rankmap ∧ a.groups = b.groups ∧ a.members = b.members ∧ a.dead = b.dead := by
  simp only [tables, Apex.mk.injEq] at h
  tauto

namespace State
variable {s t u : State} {p w part op : ℕ} {f : Fop} {c : Contrib}

/-! ### What leaves the Apex tables alone -/

/-- Two states agree on the clock, on memory and on every Apex. -/
def sameApex (s t : State) : Prop := t.clk = s.clk ∧ t.mem = s.mem ∧ ∀ q, (t.pkg q).apex = (s.pkg q).apex
theorem sameApex.refl (s : State) : s.sameApex s := ⟨rfl, rfl, fun _ => rfl⟩
theorem sameApex.trans (h : s.sameApex t) (h' : t.sameApex u) : s.sameApex u :=
  ⟨h'.1.trans h.1, h'.2.1.trans h.2.1, fun q => (h'.2.2 q).trans (h.2.2 q)⟩
theorem sameApex.redWin (h : s.sameApex t) : t.redWin p w = s.redWin p w := by
  rw [State.redWin, State.redWin, h.2.2]
theorem sameApex.round (h : s.sameApex t) : t.round p w = s.round p w := by
  rw [State.round, State.round, h.2.2]
theorem sameApex.nextRound (h : s.sameApex t) : t.nextRound p w = s.nextRound p w := by
  rw [State.nextRound, State.nextRound, h.round, h.redWin]
theorem sameApex_countPacket (s : State) (die : ℕ) : s.sameApex (s.countPacket die) :=
  ⟨rfl, rfl, fun q => by rw [countPacket, modPkg_pkg]; split <;> simp_all⟩
theorem sample_rest {die src v : ℕ} {cl : Option ℕ} : (s.sample die part src cl v).clk = s.clk
    ∧ (s.sample die part src cl v).mem = s.mem ∧ (s.sample die part src cl v).pkgs = s.pkgs
    ∧ ∀ d, ((s.sample die part src cl v).die d).efq = (s.die d).efq :=
  (List.range 16).foldlRecOn _ (motive := fun t : State => t.clk = s.clk ∧ t.mem = s.mem ∧ t.pkgs = s.pkgs
      ∧ ∀ d, (t.die d).efq = (s.die d).efq) ⟨rfl, rfl, rfl, fun _ => rfl⟩ fun t ht m _ => by
    obtain ⟨hclk, hmem, hpkgs, hefq⟩ := ht
    split
    · refine ⟨hclk, hmem, hpkgs, fun d => ?_⟩
      rw [modDie_die, ← hefq d]
      split
      · next hd => rw [hd]
      · rfl
    · exact ⟨hclk, hmem, hpkgs, hefq⟩
theorem dropFop_rest {b : Issuer} : (s.dropFop op b).clk = s.clk ∧ (s.dropFop op b).mem = s.mem
    ∧ (s.dropFop op b).pkgs = s.pkgs ∧ (s.dropFop op b).net.nextOp = s.net.nextOp := by
  unfold dropFop
  dsimp only
  split <;> exact ⟨rfl, rfl, rfl, rfl⟩
theorem closeFop_rest : (s.closeFop op f).clk = s.clk ∧ (s.closeFop op f).mem = s.mem ∧ (s.closeFop op f).pkgs = s.pkgs
    ∧ (s.closeFop op f).net.nextOp = s.net.nextOp ∧ (s.closeFop op f).fop op = none
    ∧ (s.closeFop op f).net.live = s.net.live ∧ ∀ d, ((s.closeFop op f).die d).efq = (s.die d).efq := by
  unfold closeFop
  extract_lets v
  have hv : v.clk = s.clk ∧ v.mem = s.mem ∧ v.pkgs = s.pkgs ∧ v.net = s.net ∧ ∀ d, (v.die d).efq = (s.die d).efq := by
    unfold v
    split
    · obtain ⟨hclk, hmem, hpkgs, hefq⟩ := sample_rest (s := s)
      exact ⟨hclk, hmem, hpkgs, sample_frame.2.1, hefq⟩
    · exact ⟨rfl, rfl, rfl, rfl, fun _ => rfl⟩
  obtain ⟨hclk, hmem, hpkgs, hnet, hefq⟩ := hv
  obtain ⟨dclk, dmem, dpkgs, dnext⟩ := dropFop_rest (s := v) (op := op) (b := f.by_)
  obtain ⟨-, dlive, dfop, ddie⟩ := dropFop_frame (s := v) (op := op) (b := f.by_)
  exact ⟨dclk.trans hclk, dmem.trans hmem, dpkgs.trans hpkgs, dnext.trans (by rw [hnet]), dfop,
    dlive.trans (by rw [hnet]), fun d => by rw [ddie, hefq]⟩
theorem sameApex_of_pkgs (hclk : t.clk = s.clk) (hmem : t.mem = s.mem) (h : t.pkgs = s.pkgs) : s.sameApex t :=
  ⟨hclk, hmem, fun q => by rw [pkg, pkg, h]⟩
theorem sameApex_endFop (s : State) (op : ℕ) (f : Fop) : s.sameApex (s.endFop op f) := by
  obtain ⟨hclk, hmem, hpkgs, -⟩ := closeFop_rest (s := s.endOp op) (op := op) (f := f)
  exact sameApex_of_pkgs hclk hmem hpkgs
theorem endFop_nextOp : (s.endFop op f).net.nextOp = s.net.nextOp := by
  obtain ⟨-, -, -, hnext, -⟩ := closeFop_rest (s := s.endOp op) (op := op) (f := f)
  exact hnext
theorem sameApex_closeRred (s : State) (op : ℕ) : s.sameApex (s.closeRred op) := by
  rw [closeRred]
  cases s.fop op with
  | none => exact .refl s
  | some f => exact sameApex_endFop s op f
theorem closeRred_nextOp : (s.closeRred op).net.nextOp = s.net.nextOp := by
  rw [closeRred]
  cases s.fop op with
  | none => rfl
  | some f => exact endFop_nextOp
theorem completed_closeRred (h : s.fop op = some f) : completed (s.closeRred op) op := by
  rw [closeRred, h]
  exact endFop_frame.2.1
/-- A contribution whose payload arrives as it was sent (R390). -/
theorem carryContrib_linked (h : linked s f.by_.part f.from_ f.pkg) : ∃ u, s.sameApex u ∧ u.net = s.net
    ∧ s.carryContrib op f = (u, some (f.arrived op)) := by
  have hc {u : State} (hu : s.carry f.by_.part f.by_.die f.pkg true (f.data.flatMap (leBytes 4)) =
      (u, some (f.data.flatMap (leBytes 4)))) :
      s.carryContrib op f = (u, some (f.arrived op)) := by
    rw [carryContrib, hu]
    simp [Fop.contrib, Fop.arrived, tensorElems_words]
  by_cases hprot : s.protectedPart f.from_ f.by_.part = false ∧ s.protectedPart f.pkg f.by_.part = false
  · exact ⟨s, .refl s, rfl, hc (carry_plain _ _ _ _ _ _ (.inr hprot))⟩
  · have hprot' : s.protectedPart f.from_ f.by_.part = true ∨ s.protectedPart f.pkg f.by_.part = true := by
      simpa [or_iff_not_imp_left] using hprot
    obtain hnone | ⟨k, hfrom, hto⟩ | ⟨heq, hnone⟩ := h
    · exact absurd hnone hprot
    · exact ⟨_, sameApex_countPacket s f.by_.die, rfl, hc (carry_sealed s _ _ _ _ k hprot' hfrom hto)⟩
    · refine ⟨s, .refl s, rfl, hc ?_⟩
      have hdie : f.by_.die / 4 = f.pkg := heq
      rw [heq] at hnone hprot'
      simp only [or_self] at hprot'
      simp [carry, hdie, hprot', hnone]

/-! ### A round and its window after an update -/

/-- What an update of an Apex leaves alone. -/
theorem modApex_apex_of {α : Type} (φ : Apex → α) {g : Apex → Apex} {q : ℕ} (h : ∀ a, φ (g a) = φ a := by intro; rfl) :
    φ ((s.modApex p g).pkg q).apex = φ (s.pkg q).apex := by
  rw [modApex, modPkg_pkg]
  split
  · next hq => rw [hq]; exact h _
  · rfl
theorem modApex_part {g : Apex → Apex} : (s.modApex p g).part = s.part := by
  funext q n
  simp only [State.part, modApex, modPkg_pkg]
  split <;> simp_all

@[simp] theorem setRound_round {q : Round} : (s.setRound p w q).round p w = q := by
  simp [setRound, State.round, modApex]
@[simp] theorem setRound_redWin {q : Round} {p' w' : ℕ} : (s.setRound p w q).redWin p' w' = s.redWin p' w' :=
  modApex_apex_of (fun a => Tab.get RedWin.reset a.redwins w')
@[simp] theorem modRedWin_redWin {g : RedWin → RedWin} : (s.modRedWin p w g).redWin p w = g (s.redWin p w) := by
  simp [modRedWin, State.redWin, modApex]
@[simp] theorem modRedWin_round {g : RedWin → RedWin} {p' w' : ℕ} : (s.modRedWin p w g).round p' w' = s.round p' w' :=
  modApex_apex_of (fun a => Tab.get Round.reset a.rounds w')

/-! ### One contribution (R312) -/

theorem acceptOne_opens (ho : (s.round p w).isOpen = false) (h : staleRound c.round (s.nextRound p w) = false) :
    s.acceptOne p w c = s.setRound p w { s.round p w with
      isOpen := true, num := c.round, openedAt := s.clk.cycle, present := [c] } := by
  simp [acceptOne, ho, h]
theorem acceptOne_past (ho : (s.round p w).isOpen = false) (h : staleRound c.round (s.nextRound p w) = true) :
    s.acceptOne p w c = s.countLate p w := by
  simp [acceptOne, ho, h]
theorem acceptOne_joins (ho : (s.round p w).isOpen = true) (hn : (s.round p w).num = c.round)
    (h : ∀ e ∈ (s.round p w).present, e.rank ≠ c.rank) :
    s.acceptOne p w c = s.setRound p w { s.round p w with present := (s.round p w).present ++ [c] } := by
  simpa [acceptOne, ho, hn] using fun e he he' => absurd he' (h e he)
theorem acceptOne_late (ho : (s.round p w).isOpen = true)
    (h : ((s.round p w).num = c.round ∧ ∃ e ∈ (s.round p w).present, e.rank = c.rank)
      ∨ ((s.round p w).num ≠ c.round ∧ staleRound c.round (s.round p w).num = true)) :
    s.acceptOne p w c = s.countLate p w := by
  rcases h with ⟨hn, h⟩ | ⟨hn, h⟩
  · simpa [acceptOne, ho, hn] using fun h' => absurd h (by simpa using h')
  · simp [acceptOne, ho, Ne.symm hn, h]
theorem acceptOne_waits (ho : (s.round p w).isOpen = true) (hn : (s.round p w).num ≠ c.round)
    (h : staleRound c.round (s.round p w).num = false) :
    s.acceptOne p w c = s.setRound p w { s.round p w with waiting := (s.round p w).waiting ++ [c] } := by
  simp [acceptOne, ho, Ne.symm hn, h]

/-! ### What reads the Apex tables -/

section
variable (h : (t.pkg p).apex.tables = (s.pkg p).apex.tables)
include h

theorem leafOf_congr : t.leafOf p = s.leafOf p := by
  obtain ⟨-, -, hrankmap, -, -, -⟩ := Apex.tables_fields h
  funext r rank
  rw [leafOf, leafOf, hrankmap]
theorem logicalDie_congr : t.logicalDie p = s.logicalDie p := by
  obtain ⟨hdies, -, -, -, -, -⟩ := Apex.tables_fields h
  funext part l
  rw [logicalDie, logicalDie, hdies]
theorem windowEnt_congr : t.windowEnt p = s.windowEnt p := by
  obtain ⟨-, hwindows, -, -, -, -⟩ := Apex.tables_fields h
  funext part w
  rw [windowEnt, windowEnt, hwindows]
theorem windowHome_congr : t.windowHome p = s.windowHome p := by
  funext part w off
  rw [windowHome, windowHome, windowEnt_congr h, logicalDie_congr h]
theorem windowBarrier_congr : t.windowBarrier p = s.windowBarrier p := by
  funext part w
  rw [windowBarrier, windowBarrier, windowEnt_congr h, logicalDie_congr h]
theorem delivery_congr : t.delivery p = s.delivery p := by
  funext part w off n bar
  simp only [delivery, windowHome_congr h, windowBarrier_congr h]
theorem homeDelivery_congr : t.homeDelivery p = s.homeDelivery p := by
  funext part a n
  rw [homeDelivery, homeDelivery, delivery_congr h]
theorem reduceRound_congr : t.reduceRound p = s.reduceRound p := by
  funext r l d
  simp only [reduceRound, leafOf_congr h]
theorem groupOk_congr : t.groupOk p = s.groupOk p := by
  obtain ⟨-, -, -, hgroups, -, -⟩ := Apex.tables_fields h
  funext part g
  rw [groupOk, groupOk, hgroups]
theorem roundMembers_congr : t.roundMembers p = s.roundMembers p := by
  obtain ⟨-, -, -, hgroups, hmembers, hdead⟩ := Apex.tables_fields h
  funext part g off n
  simp only [roundMembers, liveMembers, groupMembers, memberDead, memberBad, windowBad, peerDead, delivery_congr h,
    windowHome_congr h, windowBarrier_congr h, windowEnt_congr h, logicalDie_congr h, hgroups, hmembers, hdead]
end

/-! ### A round finalises (R314) -/

/-- The round closes, and its result is on its way to the home, with the record behind it (R314, R315). -/
theorem finalise_spec (s : State) (p w : ℕ) (timedOut : Bool) :
    let r := s.redWin p w
    let q := s.round p w
    let y := s.reduceRound p r q.present s.clk.ctr
    let res := y.1.flatMap (leBytes (redBytes r.out))
    let t := s.finalise p w timedOut
    ∃ g : Fop, t.mem = s.mem
      ∧ t.round p w = { q with isOpen := false, num := (q.num + 1) % 2 ^ 32, present := [], closing := some q.num }
      ∧ (t.redWin p w).round = r.round ∧ t.net.live = s.net.nextOp :: s.net.live
      ∧ (∀ o, t.fop o = if o = s.net.nextOp then some g else s.fop o)
      ∧ g.kind = 8 ∧ g.stage = 1 ∧ g.len = res.length ∧ g.data = res ++ statusRecord r q.num q.present timedOut y.2.2 y.2.1
      ∧ g.round = q.num ∧ g.dlv = s.homeDelivery p r.part r.w2.toNat res.length := by
  intro r q y res t
  refine ⟨_, rfl, ?_, ?_, rfl, fun o => Tab.find_set, rfl, rfl, rfl, rfl, rfl, rfl⟩
  · simp [t, finalise, q]
  · simp [t, finalise]
    rfl
theorem settleRounds_idle {n : ℕ} (hf : s.roundFull p w = false) (hw : (s.round p w).waiting = []) :
    s.settleRounds p w n = s := by
  cases n with
  | zero => rfl
  | succ n =>
    rw [settleRounds, hf, if_neg Bool.false_ne_true]
    split
    · next hw' => rw [hw] at hw'; cases hw'
    · simp [hw]
theorem settleRounds_finalised {n : ℕ} {timedOut : Bool} (hw : (s.round p w).waiting = []) :
    (s.finalise p w timedOut).settleRounds p w n = s.finalise p w timedOut := by
  obtain ⟨g, -, hround, -⟩ := finalise_spec s p w timedOut
  refine settleRounds_idle ?_ ?_
  · rw [roundFull, hround]
    rfl
  · rw [hround]
    exact hw
theorem settleRounds_full (hf : s.roundFull p w = true) (hw : (s.round p w).waiting = []) :
    s.settleRounds p w settleMax = s.finalise p w false := by
  rw [settleMax, settleRounds, if_pos hf, settleRounds_finalised hw]


/-! ### An operation that fails (R295) -/

theorem coreFault_efq {die unit code core bar addr detail : ℕ} (h : (s.die die).efq.length < 256) :
    (s.coreFault die unit code core bar addr detail).pkgs = s.pkgs
    ∧ ∃ e : EfRec, ((s.coreFault die unit code core bar addr detail).die die).efq = (s.die die).efq ++ [e]
      ∧ e.w0 = efWord unit code (s.core core).ident.node (s.physCore core) bar := by
  have hfault : ((s.engineFault die unit code (s.core core).ident.node (s.physCore core) bar addr detail).die die).efq =
      (s.die die).efq ++ [⟨efWord unit code (s.core core).ident.node (s.physCore core) bar, BitVec.ofNat 64 (s.time (die / 4)),
        BitVec.ofNat 64 addr, BitVec.ofNat 64 detail⟩] := by
    rw [engineFault, modDie_die, if_pos rfl, if_pos h]
  unfold coreFault
  dsimp only
  split
  · refine ⟨rfl, _, Eq.trans ?_ hfault, rfl⟩
    simp only [countError, modNode, modSched, modDie_die]
    split
    · next hd => rw [hd]
    · rfl
  · exact ⟨rfl, _, hfault, rfl⟩
theorem failFop_spec {k code addr : ℕ} (hcore : f.by_.core = some k) (hbar : f.bar = none) (hcode : code < 2 ^ 8)
    (h : (s.die f.by_.die).efq.length < 256) : completed (s.failFop op f code addr) op
    ∧ (s.failFop op f code addr).pkgs = s.pkgs ∧ ∃ e : EfRec, ((s.failFop op f code addr).die f.by_.die).efq =
        (s.die f.by_.die).efq ++ [e] ∧ e.w0.toNat / 2 ^ 48 = 3 * 256 + code := by
  have hfail : s.failOp f.by_ 3 code f.bar addr op = (s.coreFault f.by_.die 3 code k 0 addr 0).endOp op := by
    simp only [failOp, hcore, hbar, Option.getD_none]
  obtain ⟨hpkgs, e, hefq, hw0⟩ := coreFault_efq (unit := 3) (code := code) (core := k) (bar := 0) (addr := addr) (detail := 0) h
  rw [failFop, hfail]
  obtain ⟨-, -, cpkgs, -, cfop, clive, cefq⟩ :=
    closeFop_rest (s := (s.coreFault f.by_.die 3 code k 0 addr 0).endOp op) (op := op) (f := f)
  refine ⟨⟨cfop, ?_⟩, cpkgs.trans hpkgs, e, (cefq _).trans hefq, ?_⟩
  · rw [clive]
    simp [endOp]
  · rw [hw0, efWord_unit (by decide) hcode]

/-! ### A contribution reaches its root (R295, R312) -/

theorem arg_underway (h : underway s op f) : s.arg 0 = op := by simp [arg, h.1]
theorem travelling_underway {k : Fop → State} (h : underway s op f) : s.travelling op k = k f := by
  obtain ⟨-, hfop, h0, h3, h4, h7⟩ := h
  simp [travelling, hfop, h0, h3, h4, h7]
theorem acceptOne_net : (s.acceptOne p w c).net = s.net := by
  unfold acceptOne
  dsimp only
  repeat' split
  all_goals rfl
theorem sameApex.tables (h : s.sameApex t) : (t.pkg p).apex.tables = (s.pkg p).apex.tables := by rw [h.2.2]
theorem setRound_tables {q : Round} {p' : ℕ} : ((s.setRound p w q).pkg p').apex.tables = (s.pkg p').apex.tables :=
  modApex_apex_of Apex.tables

section
variable (hunder : underway s op f) (hkind : f.kind = 5) (hroot : s.atRoot f = true) (hreach : reaches s f f.pkg)
include hunder hkind hroot hreach

theorem contribution_refused (h : (s.redWin f.pkg f.win).valid = false ∨ (s.redWin f.pkg f.win).part ≠ f.by_.part
    ∨ (s.redWin f.pkg f.win).n ≤ f.rank) : exec .contributionAtRoot s = .next (s.failFop op f 2 f.win) := by
  rw [exec_contributionAtRoot, execContributionAtRoot, arg_underway hunder, travelling_underway hunder]
  dsimp only
  rw [if_neg (by simp [hkind, hroot, hreach.1]), if_pos (by simpa [or_assoc] using h)]

variable (hvalid : (s.redWin f.pkg f.win).valid = true) (hpart : (s.redWin f.pkg f.win).part = f.by_.part)
  (hrank : f.rank < (s.redWin f.pkg f.win).n)
include hvalid hpart hrank

/-- The contribution arrives as it was sent, over what its packet has counted. -/
theorem contribution_arrives : ∃ u, s.sameApex u ∧ u.net = s.net ∧ exec .contributionAtRoot s = .next (
    if s.mustWait f.pkg f.win (f.arrived op) then (u.acceptOne f.pkg f.win (f.arrived op)).setFop op { f with stage := 7 }
    else ((u.acceptOne f.pkg f.win (f.arrived op)).closeRred op).settleRounds f.pkg f.win settleMax) := by
  obtain ⟨u, happ, hnet, hcarry⟩ := carryContrib_linked (op := op) hreach.2
  refine ⟨u, happ, hnet, ?_⟩
  rw [exec_contributionAtRoot, execContributionAtRoot, arg_underway hunder, travelling_underway hunder]
  dsimp only
  rw [if_neg (by simp [hkind, hroot, hreach.1]), if_neg (by simp [hvalid, hpart, hrank]), hcarry]
/-- The contribution is taken, and the round that then stands at the root rests. -/
theorem contribution_rests {q : Round} {r : RedWin}
    (hwait : s.mustWait f.pkg f.win (f.arrived op) = false)
    (h : ∀ u, s.sameApex u → (u.acceptOne f.pkg f.win (f.arrived op)).round f.pkg f.win = q
      ∧ (u.acceptOne f.pkg f.win (f.arrived op)).redWin f.pkg f.win = r)
    (hw : q.waiting = []) (hfull : q.isOpen = true → q.present.length < r.n) :
    ∃ t, exec .contributionAtRoot s = .next t ∧ completed t op ∧ t.round f.pkg f.win = q ∧ t.redWin f.pkg f.win = r := by
  obtain ⟨u, happ, hnet, hexec⟩ := contribution_arrives hunder hkind hroot hreach hvalid hpart hrank
  obtain ⟨hq, hr⟩ := h u happ
  have hclose := sameApex_closeRred (u.acceptOne f.pkg f.win (f.arrived op)) op
  have hround := hclose.round (p := f.pkg) (w := f.win)
  have hwin := hclose.redWin (p := f.pkg) (w := f.win)
  rw [hq] at hround
  rw [hr] at hwin
  have hfop : (u.acceptOne f.pkg f.win (f.arrived op)).fop op = some f := by
    rw [fop, acceptOne_net, hnet]
    exact hunder.2.1
  rw [hexec]
  simp only [hwait, Bool.false_eq_true, if_false]
  rw [settleRounds_idle (by simpa [roundFull, hround, hwin] using hfull) (by rw [hround, hw])]
  exact ⟨_, rfl, completed_closeRred hfop, hround, hwin⟩
theorem contribution_opens (ho : (s.round f.pkg f.win).isOpen = false)
    (hnew : staleRound f.round (s.nextRound f.pkg f.win) = false) (hwait : (s.round f.pkg f.win).waiting = [])
    (hone : 1 < (s.redWin f.pkg f.win).n) : ∃ t, exec .contributionAtRoot s = .next t ∧ completed t op
      ∧ t.round f.pkg f.win = { s.round f.pkg f.win with
          isOpen := true, num := f.round, openedAt := s.clk.cycle, present := [f.arrived op] }
      ∧ t.redWin f.pkg f.win = s.redWin f.pkg f.win := by
  refine contribution_rests hunder hkind hroot hreach hvalid hpart hrank (by simp [mustWait, ho]) (fun u happ => ?_) hwait
    fun _ => hone
  rw [acceptOne_opens (by rw [happ.round, ho]) (by rw [happ.nextRound]; exact hnew), setRound_round, setRound_redWin,
    happ.round, happ.redWin, happ.1]
  exact ⟨rfl, rfl⟩
theorem contribution_joins (ho : (s.round f.pkg f.win).isOpen = true) (hnum : (s.round f.pkg f.win).num = f.round)
    (hnew : ∀ e ∈ (s.round f.pkg f.win).present, e.rank ≠ f.rank) (hwait : (s.round f.pkg f.win).waiting = [])
    (hmore : (s.round f.pkg f.win).present.length + 1 < (s.redWin f.pkg f.win).n) :
    ∃ t, exec .contributionAtRoot s = .next t ∧ completed t op ∧ t.round f.pkg f.win = { s.round f.pkg f.win with
        present := (s.round f.pkg f.win).present ++ [f.arrived op] } ∧ t.redWin f.pkg f.win = s.redWin f.pkg f.win := by
  refine contribution_rests hunder hkind hroot hreach hvalid hpart hrank (by simp [mustWait, hnum, Fop.arrived])
    (fun u happ => ?_) hwait fun _ => by simpa using hmore
  rw [acceptOne_joins (by rw [happ.round, ho]) (by rw [happ.round]; exact hnum) (by rw [happ.round]; exact hnew),
    setRound_round, setRound_redWin, happ.round, happ.redWin]
  exact ⟨rfl, rfl⟩
/-- A contribution that its round no longer takes is counted in LATE (R312). -/
theorem contribution_late (hwait : (s.round f.pkg f.win).waiting = [])
    (hmore : (s.round f.pkg f.win).isOpen = true → (s.round f.pkg f.win).present.length < (s.redWin f.pkg f.win).n)
    (hpast : if (s.round f.pkg f.win).isOpen = true then
        ((s.round f.pkg f.win).num = f.round ∧ ∃ e ∈ (s.round f.pkg f.win).present, e.rank = f.rank)
          ∨ ((s.round f.pkg f.win).num ≠ f.round ∧ staleRound f.round (s.round f.pkg f.win).num = true)
      else staleRound f.round (s.nextRound f.pkg f.win) = true) :
    ∃ t, exec .contributionAtRoot s = .next t ∧ completed t op ∧ t.round f.pkg f.win = s.round f.pkg f.win
      ∧ t.redWin f.pkg f.win = { s.redWin f.pkg f.win with
          late := min (2 ^ 32 - 1) ((s.redWin f.pkg f.win).late + 1) } := by
  have hgo : s.mustWait f.pkg f.win (f.arrived op) = false := by
    cases ho : (s.round f.pkg f.win).isOpen with
    | false => simp [mustWait, ho]
    | true =>
      rw [ho, if_pos rfl] at hpast
      rcases hpast with ⟨hnum, -⟩ | ⟨-, hstale⟩
      · simp [mustWait, hnum, Fop.arrived]
      · simp [mustWait, Fop.arrived, hstale]
  refine contribution_rests hunder hkind hroot hreach hvalid hpart hrank hgo (fun u happ => ?_) hwait hmore
  have hcount : u.acceptOne f.pkg f.win (f.arrived op) = u.countLate f.pkg f.win := by
    cases ho : (s.round f.pkg f.win).isOpen with
    | false =>
      rw [ho, if_neg Bool.false_ne_true] at hpast
      exact acceptOne_past (by rw [happ.round, ho]) (by rw [happ.nextRound]; exact hpast)
    | true =>
      rw [ho, if_pos rfl] at hpast
      exact acceptOne_late (by rw [happ.round, ho]) (by rw [happ.round]; exact hpast)
  rw [hcount, countLate, modRedWin_round, modRedWin_redWin, happ.round, happ.redWin]
  exact ⟨rfl, rfl⟩
/-- A contribution to a later round waits at the root (R312). -/
theorem contribution_waits (ho : (s.round f.pkg f.win).isOpen = true) (hnum : (s.round f.pkg f.win).num ≠ f.round)
    (hnew : staleRound f.round (s.round f.pkg f.win).num = false) (hwait : (s.round f.pkg f.win).waiting = []) :
    ∃ t, exec .contributionAtRoot s = .next t ∧ t.fop op = some { f with stage := 7 } ∧ t.net.live = s.net.live
      ∧ t.round f.pkg f.win = { s.round f.pkg f.win with waiting := [f.arrived op] }
      ∧ t.redWin f.pkg f.win = s.redWin f.pkg f.win := by
  obtain ⟨u, happ, hnet, hexec⟩ := contribution_arrives hunder hkind hroot hreach hvalid hpart hrank
  have hgo : s.mustWait f.pkg f.win (f.arrived op) = true := by simp [mustWait, Fop.arrived, ho, Ne.symm hnum, hnew]
  rw [hgo, if_pos rfl, acceptOne_waits (by rw [happ.round, ho]) (by rw [happ.round]; exact hnum)
    (by rw [happ.round]; exact hnew)] at hexec
  refine ⟨_, hexec, Tab.find_set_self, (congrArg Net.live hnet :), ?_, ?_⟩
  · exact setRound_round.trans (by rw [happ.round, hwait, List.nil_append])
  · exact setRound_redWin.trans happ.redWin
/-- The contribution that makes the round complete (R314). -/
theorem contribution_completes (hop : op < s.net.nextOp) (ho : (s.round f.pkg f.win).isOpen = true)
    (hnum : (s.round f.pkg f.win).num = f.round) (hnew : ∀ e ∈ (s.round f.pkg f.win).present, e.rank ≠ f.rank)
    (hwait : (s.round f.pkg f.win).waiting = [])
    (hlast : (s.round f.pkg f.win).present.length + 1 = (s.redWin f.pkg f.win).n) :
    let r := s.redWin f.pkg f.win
    let q := s.round f.pkg f.win
    let l := q.present ++ [f.arrived op]
    let y := s.reduceRound f.pkg r l s.clk.ctr
    let res := y.1.flatMap (leBytes (redBytes r.out))
    ∃ t g, exec .contributionAtRoot s = .next t ∧ completed t op ∧ t.mem = s.mem
      ∧ t.round f.pkg f.win = { q with isOpen := false, num := (q.num + 1) % 2 ^ 32, present := [], closing := some q.num }
      ∧ (t.redWin f.pkg f.win).round = r.round ∧ t.fop s.net.nextOp = some g ∧ g.kind = 8 ∧ g.stage = 1 ∧ g.len = res.length
      ∧ g.data = res ++ statusRecord r q.num l false y.2.2 y.2.1 ∧ g.round = q.num
      ∧ g.dlv = s.homeDelivery f.pkg r.part r.w2.toNat res.length := by
  obtain ⟨u, happ, hnet, hexec⟩ := contribution_arrives hunder hkind hroot hreach hvalid hpart hrank
  have hround := happ.round (p := f.pkg) (w := f.win)
  have hjoin : u.acceptOne f.pkg f.win (f.arrived op) = _ :=
    acceptOne_joins (by rw [hround, ho]) (by rw [hround]; exact hnum) (by rw [hround]; exact hnew)
  have hgo : s.mustWait f.pkg f.win (f.arrived op) = false := by simp [mustWait, hnum, Fop.arrived]
  rw [hgo, if_neg Bool.false_ne_true, hjoin, hround] at hexec
  generalize hv : (u.setRound f.pkg f.win { s.round f.pkg f.win with
    present := (s.round f.pkg f.win).present ++ [f.arrived op] }).closeRred op = v at hexec
  have hclose := hv ▸ sameApex_closeRred _ op
  have hvclk : v.clk = s.clk := hclose.1.trans happ.1
  have hvmem : v.mem = s.mem := hclose.2.1.trans happ.2.1
  have hvwin : v.redWin f.pkg f.win = s.redWin f.pkg f.win := by rw [hclose.redWin, setRound_redWin, happ.redWin]
  have hvround : v.round f.pkg f.win = { s.round f.pkg f.win with
      present := (s.round f.pkg f.win).present ++ [f.arrived op] } := by rw [hclose.round, setRound_round]
  have hvtab : (v.pkg f.pkg).apex.tables = (s.pkg f.pkg).apex.tables :=
    hclose.tables.trans (setRound_tables.trans happ.tables)
  have hvnext : v.net.nextOp = s.net.nextOp := by
    rw [← hv, closeRred_nextOp]
    exact congrArg Net.nextOp hnet
  have hfop : (u.setRound f.pkg f.win { s.round f.pkg f.win with
      present := (s.round f.pkg f.win).present ++ [f.arrived op] }).fop op = some f :=
    (congrArg (fun n : Net => Tab.find n.fops op) hnet).trans hunder.2.1
  obtain ⟨hgone, hlive⟩ : completed v op := hv ▸ completed_closeRred hfop
  rw [settleRounds_full (by simp [roundFull, hvround, hvwin, ho, hlast]) (by rw [hvround, hwait])] at hexec
  obtain ⟨g, tmem, tround, twin, tlive, tfop, gkind, gstage, glen, gdata, ground, gdlv⟩ := finalise_spec v f.pkg f.win false
  rw [hvround, hvwin, hvclk, reduceRound_congr hvtab] at glen gdata gdlv
  rw [homeDelivery_congr hvtab] at gdlv
  rw [hvround] at tround ground
  rw [hvnext] at tlive tfop
  refine ⟨_, g, hexec, ⟨?_, ?_⟩, tmem.trans hvmem, tround, twin.trans (by rw [hvwin]), ?_, gkind, gstage, glen, gdata, ground, gdlv⟩
  · rw [tfop, if_neg hop.ne, hgone]
  · rw [tlive]
    simp [hop.ne, hlive]
  · rw [tfop, if_pos rfl]
end

end State
end Sys2Proof.Machine
end

section
/-! # A round after its result (O40, third part)

A round that lasts too long closes with what is present; the round-end messages, the digest and the multicast follow the status
record (`State.reported`); a package's contributions wait in its partial. -/

namespace Sys2Proof.Machine

theorem exec_roundTimeout {s : State} : exec .roundTimeout s = execRoundTimeout s := rfl
theorem exec_roundEndMessage {s : State} : exec .roundEndMessage s = execRoundEndMessage s := rfl
theorem exec_cruPartialForward {s : State} : exec .cruPartialForward s = execCruPartialForward s := rfl

theorem Tab.keys_set {α : Type} {t : Tab α} {k j : ℕ} {v : α} (h : j ∈ t.map (·.1)) : j ∈ (Tab.set t k v).map (·.1) := by
  induction t with
  | nil => cases h
  | cons e l ih =>
    obtain ⟨i, x⟩ := e
    rw [List.map_cons, List.mem_cons] at h
    rw [Tab.set]
    split
    · next hi => simpa [hi] using h
    · split
      · simpa using Or.inr h
      · rcases h with rfl | h
        · simp
        · simpa using Or.inr (by simpa using ih h)

/-- A contribution that has gone on to a stage. -/
def Fop.advanced (now stage : ℕ) (f : Fop) : Fop :=
  { f with stage := stage, at_ := if stage = 6 ∧ f.at_ = 0 then now else f.at_ }

namespace State
variable {s t u : State} {p w part op : ℕ} {f : Fop}

theorem arg_pair {a b : ℕ} (h : s.clk.args = [a, b]) : s.arg 0 = a ∧ s.arg 1 = b := by simp [arg, h]

/-! ### A round that lasts too long (R314) -/

theorem flushPartials_none {num : ℕ} (h : ∀ e ∈ s.net.fops, ¬(e.2.kind = 5 ∧ e.2.pkg = p ∧ e.2.win = w)) :
    s.flushPartials p w num = s := by
  rw [flushPartials, List.filter_eq_nil_iff.mpr fun e he hgo => h e he (by simp_all), List.foldl_nil]
theorem roundTimeout_rests (ha : s.clk.args = [p, w]) (h : (s.round p w).isOpen = false ∨ (s.redWin p w).timeout = 0
    ∨ s.clk.cycle - (s.round p w).openedAt < (s.redWin p w).timeout) : exec .roundTimeout s = .next s := by
  obtain ⟨h0, h1⟩ := arg_pair ha
  rw [exec_roundTimeout, execRoundTimeout, h0, h1]
  refine congrArg _ (if_neg fun hgo => ?_)
  simp only [Bool.and_eq_true, bne_iff_ne, decide_eq_true_eq] at hgo
  obtain ⟨⟨hopen, ht⟩, hlast⟩ := hgo
  rcases h with h | h | h
  · rw [h] at hopen
    cases hopen
  · exact ht h
  · omega
theorem roundTimeout_closes (ha : s.clk.args = [p, w]) (hopen : (s.round p w).isOpen = true)
    (ht : (s.redWin p w).timeout ≠ 0) (hlast : (s.redWin p w).timeout ≤ s.clk.cycle - (s.round p w).openedAt)
    (hwait : (s.round p w).waiting = []) (hnone : ∀ e ∈ s.net.fops, ¬(e.2.kind = 5 ∧ e.2.pkg = p ∧ e.2.win = w)) :
    exec .roundTimeout s = .next (s.finalise p w true) := by
  obtain ⟨h0, h1⟩ := arg_pair ha
  rw [exec_roundTimeout, execRoundTimeout, h0, h1]
  dsimp only
  rw [if_pos (by simp [hopen, ht, hlast]), flushPartials_none hnone, settleRounds_finalised hwait]

/-! ### Partials (R310) -/

theorem advanceAll_cons (e : ℕ × Fop) (l : List (ℕ × Fop)) (stage : ℕ) :
    s.advanceAll (e :: l) stage = (s.setFop e.1 (e.2.advanced s.clk.cycle stage)).advanceAll l stage := rfl
theorem advanceAll_mem {l : List (ℕ × Fop)} {stage : ℕ} : (s.advanceAll l stage).mem = s.mem := by
  induction l generalizing s with
  | nil => rfl
  | cons e l ih => rw [advanceAll_cons, ih]; rfl
/-- Entries of one number are one, so each goes on as it stands. -/
theorem advanceAll_fop {l : List (ℕ × Fop)} {stage : ℕ} {e : ℕ × Fop} (hone : ∀ a ∈ l, a.1 = e.1 → a = e)
    (he : e ∈ l ∨ s.fop e.1 = some (e.2.advanced s.clk.cycle stage)) :
    (s.advanceAll l stage).fop e.1 = some (e.2.advanced s.clk.cycle stage) := by
  induction l generalizing s with
  | nil => exact he.resolve_left (by simp)
  | cons a l ih =>
    rw [advanceAll_cons]
    refine ih (s := s.setFop a.1 (a.2.advanced s.clk.cycle stage)) (fun x hx => hone x (.tail _ hx)) ?_
    by_cases ha : a.1 = e.1
    · obtain rfl := hone a (.head _) ha
      exact .inr Tab.find_set_self
    · rcases he with he | he
      · exact .inl ((List.mem_cons.mp he).resolve_left fun h => ha (h ▸ rfl))
      · exact .inr (Tab.find_set.trans (by rw [if_neg (Ne.symm ha)]; exact he))
theorem cruPartialForward_rests (ha : s.clk.args = [p, w]) (hm : (s.redWin p w).mode = 0) :
    exec .cruPartialForward s = .next s := by
  obtain ⟨h0, h1⟩ := arg_pair ha
  rw [exec_cruPartialForward, execCruPartialForward, h0, h1]
  exact congrArg _ (if_pos hm)
/-- The partial goes on once RADIX contributions have gathered in it. -/
theorem cruPartialForward_advances (ha : s.clk.args = [p, w]) (hm : (s.redWin p w).mode ≠ 0) (hnone : s.gathered p w 1 = [])
    (hradix : (s.redWin p w).radix ≤ (s.gathered p w 5).length)
    (hone : ∀ a b, a ∈ s.net.fops → b ∈ s.net.fops → a.1 = b.1 → a = b) :
    ∃ t, exec .cruPartialForward s = .next t ∧ t.mem = s.mem
      ∧ ∀ e ∈ s.gathered p w 5, t.fop e.1 = some
          { e.2 with stage := 6, at_ := if e.2.at_ = 0 then s.clk.cycle else e.2.at_ } := by
  suffices h : ∃ t, exec .cruPartialForward s = .next t ∧ t.mem = s.mem
      ∧ ∀ e ∈ s.gathered p w 5, t.fop e.1 = some (e.2.advanced s.clk.cycle 6) by simpa [Fop.advanced] using h
  obtain ⟨h0, h1⟩ := arg_pair ha
  rw [exec_cruPartialForward, execCruPartialForward, h0, h1]
  dsimp only
  rw [if_neg hm, hnone, show s.advanceAll [] 5 = s from rfl]
  split
  · next hempty =>
    rw [List.isEmpty_iff.mp hempty]
    exact ⟨_, rfl, rfl, nofun⟩
  · rw [if_pos (.inl hradix)]
    exact ⟨_, rfl, advanceAll_mem, fun e he => advanceAll_fop (s := s.draw.2) (fun a ha =>
      hone a e (List.mem_of_mem_filter ha) (List.mem_of_mem_filter he)) (.inl he)⟩

/-! ### After the result (R315, R316) -/

/-- Two states agree on the clock, on memory and on the tables of every Apex. -/
def sameTables (s t : State) : Prop :=
  t.clk = s.clk ∧ t.mem = s.mem ∧ ∀ q, (t.pkg q).apex.tables = (s.pkg q).apex.tables
theorem sameTables.trans (h : s.sameTables t) (h' : t.sameTables u) : s.sameTables u :=
  ⟨h'.1.trans h.1, h'.2.1.trans h.2.1, fun q => (h'.2.2 q).trans (h.2.2 q)⟩
theorem sameApex.sameTables (h : s.sameApex t) : s.sameTables t := ⟨h.1, h.2.1, fun _ => h.tables⟩

theorem sameTables_modApex {q : ℕ} {g : Apex → Apex} (h : ∀ a : Apex, (g a).tables = a.tables := by intro; rfl) : s.sameTables (s.modApex q g) :=
  ⟨rfl, rfl, fun _ => modApex_apex_of Apex.tables h⟩
theorem sameApex_digest {res : List ℕ} {num present : ℕ} : s.sameApex (s.digest p part w res num present) :=
  ⟨rfl, rfl, fun q => by rw [digest, modPart, modPkg_pkg]; split <;> simp_all⟩
/-- The round-end messages to a list of packages. -/
def tellRoundEnd (s : State) (l : List ℕ) (w next : ℕ) : State :=
  l.foldl (fun (s : State) q => s.modApex q fun a => { a with roundEnds := Tab.set a.roundEnds w next }) s
theorem tellRoundEnd_rest {l : List ℕ} {next : ℕ} : s.sameTables (s.tellRoundEnd l w next)
    ∧ (∀ q x, (s.tellRoundEnd l w next).redWin q x = s.redWin q x) ∧ (s.tellRoundEnd l w next).part = s.part := by
  refine l.foldlRecOn _ (motive := fun t : State => s.sameTables t ∧ (∀ q x, t.redWin q x = s.redWin q x) ∧ t.part = s.part)
    ⟨⟨rfl, rfl, fun _ => rfl⟩, fun _ _ => rfl, rfl⟩ fun t ht a _ => ?_
  obtain ⟨htab, hwin, hpart⟩ := ht
  exact ⟨htab.trans sameTables_modApex, fun q x =>
    (modApex_apex_of (fun a => Tab.get RedWin.reset a.redwins x)).trans (hwin q x), modApex_part.trans hpart⟩
theorem tellRoundEnd_find {l : List ℕ} {next q : ℕ} (h : q ∈ l ∨ Tab.find (s.pkg q).apex.roundEnds w = some next) :
    Tab.find ((s.tellRoundEnd l w next).pkg q).apex.roundEnds w = some next := by
  induction l generalizing s with
  | nil => exact h.resolve_left (by simp)
  | cons a l ih =>
    refine ih (s := s.modApex a fun a => { a with roundEnds := Tab.set a.roundEnds w next }) ?_
    simp only [modApex, modPkg_pkg]
    by_cases hq : q = a
    · rw [if_pos hq]
      exact .inr Tab.find_set_self
    · rw [if_neg hq]
      exact h.imp (fun h => (List.mem_cons.mp h).resolve_left hq) id
theorem endRound_rest {num : ℕ} : s.sameTables (s.endRound p w num)
    ∧ (s.endRound p w num).redWin p w = { s.redWin p w with
        round := (s.redWin p w).heldRound.getD ((num + 1) % 2 ^ 32), heldRound := none }
    ∧ (s.endRound p w num).part = s.part
    ∧ ∀ q, ((s.endRound p w num).pkg q).apex.roundEnds = (s.pkg q).apex.roundEnds := by
  unfold endRound
  extract_lets q v
  have hv : s.sameTables v := sameTables_modApex
  have hpart : v.part = s.part := modApex_part
  have hends (q : ℕ) : (v.pkg q).apex.roundEnds = (s.pkg q).apex.roundEnds := modApex_apex_of Apex.roundEnds
  split
  · exact ⟨hv.trans sameTables_modApex, by rw [setRound_redWin, modRedWin_redWin], modApex_part.trans hpart,
      fun q => (modApex_apex_of Apex.roundEnds).trans (hends q)⟩
  · exact ⟨hv, modRedWin_redWin, hpart, hends⟩
/-- The root once the status record of a round's message has arrived: the digest counts the round, the other packages are
told, and ROUND is the next. -/
def reported (s : State) (f : Fop) : State :=
  let t := if f.wide then s.digest f.from_ f.by_.part f.win (f.data.drop (f.data.length - f.len)) f.round f.val else s
  (t.tellRoundEnd (t.copyHolders f.from_ f.win f.by_.part) f.win ((f.round + 1) % 2 ^ 32)).endRound f.from_ f.win f.round
theorem copyHolders_digest {q x num present y : ℕ} {res : List ℕ} (h : q ∈ s.copyHolders p w part) :
    q ∈ (s.digest y x w res num present).copyHolders p w part := by
  rw [copyHolders, List.mem_filter] at h ⊢
  obtain ⟨hkey, hwin⟩ := h
  rw [sameApex_digest.redWin]
  exact ⟨Tab.keys_set hkey, hwin⟩
theorem reported_spec (s : State) (f : Fop) : s.sameTables (s.reported f)
    ∧ (s.reported f).redWin f.from_ f.win = { s.redWin f.from_ f.win with
        round := (s.redWin f.from_ f.win).heldRound.getD ((f.round + 1) % 2 ^ 32), heldRound := none }
    ∧ (∀ q ∈ s.copyHolders f.from_ f.win f.by_.part,
        Tab.find ((s.reported f).pkg q).apex.roundEnds f.win = some ((f.round + 1) % 2 ^ 32))
    ∧ ((s.reported f).part f.from_ f.by_.part).cnt.rdcnt =
        (if f.wide then ((s.part f.from_ f.by_.part).cnt.rdcnt + 1) % 2 ^ 32 else (s.part f.from_ f.by_.part).cnt.rdcnt) := by
  unfold reported
  extract_lets t
  have ht : s.sameApex t ∧ (∀ q ∈ s.copyHolders f.from_ f.win f.by_.part, q ∈ t.copyHolders f.from_ f.win f.by_.part)
      ∧ (t.part f.from_ f.by_.part).cnt.rdcnt =
        (if f.wide then ((s.part f.from_ f.by_.part).cnt.rdcnt + 1) % 2 ^ 32 else (s.part f.from_ f.by_.part).cnt.rdcnt) := by
    unfold t
    split
    · exact ⟨sameApex_digest, fun _ => copyHolders_digest, by rw [digest, modPart_part, if_pos ⟨rfl, rfl⟩]⟩
    · exact ⟨.refl s, fun _ => id, rfl⟩
  obtain ⟨happ, hcopies, hcount⟩ := ht
  obtain ⟨ttab, twin, tpart⟩ := tellRoundEnd_rest (s := t) (l := t.copyHolders f.from_ f.win f.by_.part) (w := f.win)
    (next := (f.round + 1) % 2 ^ 32)
  obtain ⟨etab, ewin, epart, eends⟩ := endRound_rest (p := f.from_) (w := f.win) (num := f.round)
    (s := t.tellRoundEnd (t.copyHolders f.from_ f.win f.by_.part) f.win ((f.round + 1) % 2 ^ 32))
  refine ⟨happ.sameTables.trans (ttab.trans etab), by rw [ewin, twin, happ.redWin], fun q hq => ?_, by rw [epart, tpart, hcount]⟩
  rw [eends]
  exact tellRoundEnd_find (.inl (hcopies q hq))

/-! ### A round's message goes on (R315, R316) -/

theorem completed_dropFop {b : Issuer} : completed ((s.endOp op).dropFop op b) op := by
  obtain ⟨-, hlive, hfop, -⟩ := dropFop_frame (s := s.endOp op) (op := op) (b := b)
  refine ⟨hfop, ?_⟩
  rw [hlive]
  simp [endOp]
theorem dropFop_mem {b : Issuer} : ((s.endOp op).dropFop op b).mem = s.mem := by
  obtain ⟨-, hmem, -⟩ := dropFop_rest (s := s.endOp op) (op := op) (b := b)
  exact hmem
theorem roundNext_ends (h1 : f.stage ≠ 1) (h5 : f.stage ≠ 5) : s.roundNext op f = (s.endOp op).dropFop op f.by_ := by
  simp [roundNext, h1, h5]
/-- The faults of the members that refuse a round's result. -/
def refuseMembers (s : State) (f : Fop) : State :=
  (s.badMembers f.from_ f.by_.part f.fop f.x f.len).foldl (fun (s : State) m =>
    s.engineFault f.by_.die 3 2 0 0 0 (6 * 2 ^ 60 + m.2.2.2 * 2 ^ 48 + f.x) 0) s
theorem refuseMembers_rest : (s.refuseMembers f).mem = s.mem ∧ (s.refuseMembers f).clk = s.clk
    ∧ (s.refuseMembers f).pkgs = s.pkgs :=
  List.foldlRecOn _ _ (motive := fun t : State => t.mem = s.mem ∧ t.clk = s.clk ∧ t.pkgs = s.pkgs) ⟨rfl, rfl, rfl⟩
    fun _ ht _ _ => ht
theorem roundNext_reports (h : f.stage = 5) : s.roundNext op f =
    if (s.reported f).groupOk f.from_ f.by_.part f.fop then
      ((s.reported f).refuseMembers f).setFop op { f with
        stage := 6, data := f.data.drop (f.data.length - f.len), at_ := ((s.reported f).refuseMembers f).clk.cycle,
        dlv := ((s.reported f).refuseMembers f).roundMembers f.from_ f.by_.part f.fop f.x f.len }
    else (((s.reported f).modRedWin f.from_ f.win fun r => { r with w0 := r.w0 ||| BitVec.ofNat 64 (2 ^ 58) }).endOp op).dropFop
      op f.by_ := by
  rw [roundNext, if_neg (by simp [h]), if_pos h]
  rfl
/-- The multicast of a round's result where its group is the window's. -/
theorem roundNext_multicasts (h : f.stage = 5) (hok : s.groupOk f.from_ f.by_.part f.fop = true) :
    let t := s.roundNext op f
    t.mem = s.mem ∧ t.pkgs = (s.reported f).pkgs ∧ t.fop op = some { f with
      stage := 6, data := f.data.drop (f.data.length - f.len), at_ := s.clk.cycle,
      dlv := s.roundMembers f.from_ f.by_.part f.fop f.x f.len } := by
  intro t
  obtain ⟨⟨hclk, hmem, htab⟩, -⟩ := reported_spec s f
  obtain ⟨rmem, rclk, rpkgs⟩ := refuseMembers_rest (s := s.reported f) (f := f)
  have hrtab : (((s.reported f).refuseMembers f).pkg f.from_).apex.tables = (s.pkg f.from_).apex.tables := by
    rw [pkg, rpkgs]
    exact htab _
  have ht : t = _ := roundNext_reports h
  rw [groupOk_congr (htab _), if_pos hok, roundMembers_congr hrtab, rclk, hclk] at ht
  rw [ht]
  exact ⟨rmem.trans hmem, rpkgs, Tab.find_set_self⟩
/-- A group that is not the window's suppresses the multicast, with ERR. -/
theorem roundNext_suppressed (h : f.stage = 5) (hno : s.groupOk f.from_ f.by_.part f.fop = false) :
    let t := s.roundNext op f
    completed t op ∧ t.mem = s.mem ∧ t.pkgs =
      ((s.reported f).modRedWin f.from_ f.win fun r => { r with w0 := r.w0 ||| BitVec.ofNat 64 (2 ^ 58) }).pkgs := by
  intro t
  obtain ⟨⟨-, hmem, htab⟩, -⟩ := reported_spec s f
  have ht : t = _ := roundNext_reports h
  rw [groupOk_congr (htab _), hno, if_neg Bool.false_ne_true] at ht
  rw [ht]
  exact ⟨completed_dropFop, dropFop_mem.trans hmem, dropFop_rest.2.2.1⟩

theorem pkg_of_pkgs {q : ℕ} (h : t.pkgs = s.pkgs) : t.pkg q = s.pkg q := by rw [pkg, pkg, h]
theorem roundNext_spec (h : f.stage = 5) :
    let r := s.redWin f.from_ f.win
    let t := s.roundNext op f
    t.mem = s.mem ∧ (t.redWin f.from_ f.win).round = r.heldRound.getD ((f.round + 1) % 2 ^ 32)
      ∧ (∀ q ∈ s.copyHolders f.from_ f.win f.by_.part,
          Tab.find (t.pkg q).apex.roundEnds f.win = some ((f.round + 1) % 2 ^ 32))
      ∧ (t.part f.from_ f.by_.part).cnt.rdcnt =
          (if f.wide then ((s.part f.from_ f.by_.part).cnt.rdcnt + 1) % 2 ^ 32 else (s.part f.from_ f.by_.part).cnt.rdcnt)
      ∧ (s.groupOk f.from_ f.by_.part f.fop = true → (t.redWin f.from_ f.win).w0 = r.w0 ∧ t.fop op = some { f with
          stage := 6, data := f.data.drop (f.data.length - f.len), at_ := s.clk.cycle,
          dlv := s.roundMembers f.from_ f.by_.part f.fop f.x f.len })
      ∧ (s.groupOk f.from_ f.by_.part f.fop = false → completed t op ∧ (t.redWin f.from_ f.win).w0.getLsbD 58 = true) := by
  intro r t
  obtain ⟨-, hwin, hends, hcount⟩ := reported_spec s f
  cases hg : s.groupOk f.from_ f.by_.part f.fop with
  | true =>
    obtain ⟨hmem, hpkgs, hfop⟩ := roundNext_multicasts (op := op) h hg
    have hpkg (q : ℕ) : t.pkg q = (s.reported f).pkg q := pkg_of_pkgs hpkgs
    have htwin : t.redWin f.from_ f.win = (s.reported f).redWin f.from_ f.win := by rw [State.redWin, hpkg, State.redWin]
    refine ⟨hmem, by rw [htwin, hwin], fun q hq => by rw [hpkg, hends q hq], by rw [State.part, hpkg]; exact hcount,
      fun _ => ⟨by rw [htwin, hwin], hfop⟩, nofun⟩
  | false =>
    obtain ⟨hdone, hmem, hpkgs⟩ := roundNext_suppressed (op := op) h hg
    have hpkg (q : ℕ) : t.pkg q = ((s.reported f).modRedWin f.from_ f.win fun r =>
      { r with w0 := r.w0 ||| BitVec.ofNat 64 (2 ^ 58) }).pkg q := pkg_of_pkgs hpkgs
    have htwin : t.redWin f.from_ f.win = _ := (by rw [State.redWin, hpkg]; rfl : _ = State.redWin _ _ _).trans modRedWin_redWin
    refine ⟨hmem, by rw [htwin, hwin], fun q hq => ?_, ?_, nofun, fun _ => ⟨hdone, ?_⟩⟩
    · rw [hpkg, ← hends q hq]
      exact congrArg (Tab.find · _) (modApex_apex_of Apex.roundEnds)
    · rw [State.part, hpkg, ← hcount]
      exact congrArg (fun k => (k f.from_ f.by_.part : Part).cnt.rdcnt) modApex_part
    · rw [htwin]
      simp
theorem roundEndMessage_next {l : List (ℕ × Fop)} (ha : s.clk.args = [p, w]) (hdone : s.roundDone p w = (op, f) :: l)
    (hnone : Tab.find (s.pkg p).apex.roundEnds w = none) :
    exec .roundEndMessage s = .next (s.roundNext op f) ∧ f.from_ = p ∧ f.win = w := by
  obtain ⟨h0, h1⟩ := arg_pair ha
  have hmem : (op, f) ∈ s.roundDone p w := hdone ▸ .head _
  rw [roundDone, List.mem_filter] at hmem
  simp only [Bool.and_eq_true, beq_iff_eq] at hmem
  obtain ⟨-, ⟨⟨-, hfrom⟩, hwin⟩, -⟩ := hmem
  refine ⟨?_, hfrom, hwin⟩
  rw [exec_roundEndMessage, execRoundEndMessage, h0, h1]
  simp only [hnone, hdone, List.head?_cons]
/-- A package that has received a round-end message. -/
def receiveRoundEnd (s : State) (p w n : ℕ) : State :=
  (s.modRedWin p w fun r => { r with round := n }).modApex p fun a => { a with roundEnds := Tab.del a.roundEnds w }
theorem roundEndMessage_received {n : ℕ} (ha : s.clk.args = [p, w]) (hsome : Tab.find (s.pkg p).apex.roundEnds w = some n)
    (hdrain : s.groupDrains (s.rootPkg p (s.redWin p w)) p = false) (hdone : s.roundDone p w = []) :
    ∃ t, exec .roundEndMessage s = .next t ∧ t.redWin p w = { s.redWin p w with round := n }
      ∧ Tab.find (t.pkg p).apex.roundEnds w = none ∧ t.mem = s.mem := by
  obtain ⟨h0, h1⟩ := arg_pair ha
  refine ⟨s.receiveRoundEnd p w n, ?_, ?_, ?_, rfl⟩
  · have hstill : (s.receiveRoundEnd p w n).roundDone p w = [] := hdone
    rw [receiveRoundEnd] at hstill
    rw [exec_roundEndMessage, execRoundEndMessage, h0, h1]
    simp only [hsome, hdrain, Bool.false_eq_true, if_false, hstill]
    rfl
  · exact (modApex_apex_of fun a => Tab.get RedWin.reset a.redwins w).trans modRedWin_redWin
  · rw [receiveRoundEnd, modApex, modPkg_pkg, if_pos rfl]
    exact Tab.find_del_self

end State
/-- Settles O40: a round's result by its tree or its exact sum; contributions, timeouts, round-end messages and partials event
by event. -/
theorem reductions : Obligations.Reductions := by
  unfold Obligations.Reductions
  refine ⟨fun s pkg r l l' d d' hf h hn => State.reduceRound_exact_perm hf h hn, fun out w xs qs hl hq hs =>
    exactEl_rounds hl hq hs, fun s pkg r l d hm hf hex => State.reduceRound_elements hm hf hex,
    fun s op f hunder hkind hroot hreach => ?_, fun s p w ha => ?_⟩
  · refine ⟨fun k hcore hbar hroom hbad => ?_, fun hvalid hpart hrank hwait hone hop => ⟨fun ho hnew => ?_, fun ho hpast => ?_,
      fun ho hless => ⟨fun hnum hnew hmore => ?_, fun hpast => ?_, fun hnum hnew => ?_, fun hnum hnew hlast => ?_⟩⟩⟩
    · obtain ⟨hdone, hpkgs, e, hefq, hw0⟩ := State.failFop_spec (code := 2) (addr := f.win) (op := op) hcore hbar (by decide) hroom
      refine ⟨_, e, State.contribution_refused hunder hkind hroot hreach hbad, hdone, ?_, ?_, hefq, hw0⟩
      · rw [State.round, State.pkg, hpkgs]
        rfl
      · rw [State.redWin, State.pkg, hpkgs]
        rfl
    · obtain ⟨t, hexec, hdone, hround, hwin⟩ :=
        State.contribution_opens hunder hkind hroot hreach hvalid hpart hrank ho hnew hwait hone
      exact ⟨t, hexec, hdone, hround, congrArg RedWin.late hwin⟩
    · obtain ⟨t, hexec, hdone, hround, hwin⟩ := State.contribution_late hunder hkind hroot hreach hvalid hpart hrank hwait
        (by simp [ho]) (by simpa [ho] using hpast)
      exact ⟨t, hexec, hdone, hround, congrArg RedWin.late hwin⟩
    · obtain ⟨t, hexec, hdone, hround, hwin⟩ :=
        State.contribution_joins hunder hkind hroot hreach hvalid hpart hrank ho hnum hnew hwait hmore
      exact ⟨t, hexec, hdone, hround, congrArg RedWin.late hwin⟩
    · obtain ⟨t, hexec, hdone, hround, hwin⟩ := State.contribution_late hunder hkind hroot hreach hvalid hpart hrank hwait
        (fun _ => hless) (by rw [if_pos ho]; exact hpast)
      exact ⟨t, hexec, hdone, hround, congrArg RedWin.late hwin⟩
    · obtain ⟨t, hexec, hfop, hlive, hround, hwin⟩ :=
        State.contribution_waits hunder hkind hroot hreach hvalid hpart hrank ho hnum hnew hwait
      exact ⟨t, hexec, hfop, hlive, hround, congrArg RedWin.late hwin⟩
    · exact State.contribution_completes hunder hkind hroot hreach hvalid hpart hrank hop ho hnum hnew hwait hlast
  · refine ⟨fun hopen ht hlast hwait hnone => ?_, State.roundTimeout_rests ha, fun n hsome hdrain hdone =>
      State.roundEndMessage_received ha hsome hdrain hdone, fun op f l hdone hnone hfop => ?_,
      fun hm hempty hradix hone => ?_, State.cruPartialForward_rests ha⟩
    · obtain ⟨g, hmem, hround, hwin, -, hfop, hkind, hstage, -, hdata, -⟩ := State.finalise_spec s p w true
      exact ⟨_, g, State.roundTimeout_closes ha hopen ht hlast hwait hnone, hround, hwin, hmem, by rw [hfop, if_pos rfl], hkind,
        hstage, hdata⟩
    · obtain ⟨hexec, rfl, rfl⟩ := State.roundEndMessage_next ha hdone hnone
      refine ⟨fun h1 => ⟨_, hexec, ?_⟩, fun h5 => ⟨_, hexec, ?_⟩, fun h6 => ⟨_, hexec, ?_⟩⟩
      · rw [State.roundNext, if_pos h1]
        exact ⟨rfl, Tab.find_set_self⟩
      · exact State.roundNext_spec h5
      · rw [State.roundNext_ends (by simp [h6]) (by simp [h6])]
        exact ⟨State.completed_dropFop, State.dropFop_mem⟩
    · exact State.cruPartialForward_advances ha hm hempty hradix hone

end Sys2Proof.Machine
end

section
/-! # Fields of a word, and the formats (O55, first part)

Every word of the model is a number of fixed bits plus each field's value at its place. Where the fields do not overlap and the
fixed bits leave room for them, each field holds what was put into it (`map_bits_packed`), so every format's record is read back
from its word (`ReadsBack`). -/

namespace Sys2Proof
variable {base x v lo n lo' n' : ℕ} {p q : ℕ × ℕ} {L : List (ℕ × ℕ)} {vs : List ℕ}

theorem bits_add_same (hx : bits x lo n = 0) (hv : v < 2 ^ n) : bits (x + v * 2 ^ lo) lo n = v := by
  rw [bits, Nat.add_mul_div_right _ _ (Nat.two_pow_pos lo), Nat.add_mod, show x / 2 ^ lo % 2 ^ n = 0 from hx,
    Nat.zero_add, Nat.mod_mod, Nat.mod_eq_of_lt hv]
theorem bits_add_below (h : lo' + n' ≤ lo) : bits (x + v * 2 ^ lo) lo' n' = bits x lo' n' := by
  obtain ⟨k, rfl⟩ := Nat.exists_eq_add_of_le h
  rw [bits, bits, show v * 2 ^ (lo' + n' + k) = v * 2 ^ k * 2 ^ n' * 2 ^ lo' by ring,
    Nat.add_mul_div_right _ _ (Nat.two_pow_pos lo'), Nat.add_mul_mod_self_right]
theorem bits_add_above (hx : bits x lo n = 0) (hv : v < 2 ^ n) (h : lo + n ≤ lo') :
    bits (x + v * 2 ^ lo) lo' n' = bits x lo' n' := by
  obtain ⟨k, rfl⟩ := Nat.exists_eq_add_of_le h
  have hdvd : 2 ^ n ∣ x / 2 ^ lo := Nat.dvd_of_mod_eq_zero hx
  rw [bits, bits, pow_add, pow_add, ← Nat.div_div_eq_div_mul, ← Nat.div_div_eq_div_mul, ← Nat.div_div_eq_div_mul,
    ← Nat.div_div_eq_div_mul, Nat.add_mul_div_right _ _ (Nat.two_pow_pos lo), Nat.add_div_of_dvd_right hdvd,
    Nat.div_eq_of_lt hv, Nat.add_zero]

/-! ### A list of fields -/

/-- Two fields, each given by its low bit and its width, do not overlap. -/
def apart (p q : ℕ × ℕ) : Bool := decide (p.1 + p.2 ≤ q.1) || decide (q.1 + q.2 ≤ p.1)
/-- The fields do not overlap, and a word has no bit set in them. -/
def vacant (base : ℕ) : List (ℕ × ℕ) → Bool
  | [] => true
  | p :: L => bits base p.1 p.2 == 0 && L.all (apart p) && vacant base L
/-- Every value fits its field, and b holds. -/
def fitsFrom (b : Bool) : List (ℕ × ℕ) → List ℕ → Bool
  | [], [] => b
  | p :: L, v :: vs => fitsFrom (b && decide (v < 2 ^ p.2)) L vs
  | _, _ => false
/-- The word with each value put into its field above the fixed bits, as every `fmtEnc` of the model writes it. -/
def packed (base : ℕ) : List (ℕ × ℕ) → List ℕ → ℕ
  | p :: L, v :: vs => packed (base + v * 2 ^ p.1) L vs
  | _, _ => base

theorem fitsFrom_and {b c : Bool} (h : fitsFrom (b && c) L vs = true) : c = true ∧ fitsFrom b L vs = true := by
  induction L generalizing vs b c with
  | nil => cases vs <;> simp_all [fitsFrom]
  | cons p L ih =>
    cases vs with
    | nil => simp [fitsFrom] at h
    | cons v vs =>
      rw [fitsFrom, Bool.and_right_comm] at h
      exact ih h
theorem bits_add_apart (hx : bits x p.1 p.2 = 0) (hv : v < 2 ^ p.2) (h : apart p q = true) :
    bits (x + v * 2 ^ p.1) q.1 q.2 = bits x q.1 q.2 := by
  rw [apart, Bool.or_eq_true, decide_eq_true_iff, decide_eq_true_iff] at h
  exact h.elim (bits_add_above hx hv) bits_add_below
theorem vacant_add (hx : bits x p.1 p.2 = 0) (hv : v < 2 ^ p.2) (hp : L.all (apart p) = true) (h : vacant x L = true) :
    vacant (x + v * 2 ^ p.1) L = true := by
  induction L with
  | nil => rfl
  | cons q L ih =>
    simp only [vacant, List.all_cons, Bool.and_eq_true] at h hp ⊢
    obtain ⟨⟨hq, hL⟩, hc⟩ := h
    exact ⟨⟨(bits_add_apart hx hv hp.1).symm ▸ hq, hL⟩, ih hp.2 hc⟩
/-- A field that overlaps none of the others holds what the fixed bits have there. -/
theorem bits_packed_apart (hc : vacant base L = true) (hf : fitsFrom true L vs = true) (hq : L.all (apart q) = true) :
    bits (packed base L vs) q.1 q.2 = bits base q.1 q.2 := by
  induction L generalizing base vs with
  | nil => rfl
  | cons p L ih =>
    cases vs with
    | nil => rfl
    | cons v vs =>
      simp only [vacant, List.all_cons, Bool.and_eq_true, beq_iff_eq] at hc hq
      obtain ⟨⟨hp, hL⟩, hc⟩ := hc
      obtain ⟨hv, hf⟩ := fitsFrom_and hf
      have hv : v < 2 ^ p.2 := of_decide_eq_true hv
      rw [packed, ih (vacant_add hp hv hL hc) hf hq.2, bits_add_apart hp hv ((Bool.or_comm ..).trans hq.1)]
/-- Every field of a word holds the value put into it. -/
theorem map_bits_packed (hc : vacant base L = true) (hf : fitsFrom true L vs = true) :
    (L.map fun p => bits (packed base L vs) p.1 p.2) = vs := by
  induction L generalizing base vs with
  | nil => cases vs <;> simp_all [fitsFrom]
  | cons p L ih =>
    cases vs with
    | nil => simp [fitsFrom] at hf
    | cons v vs =>
      simp only [vacant, Bool.and_eq_true, beq_iff_eq] at hc
      obtain ⟨⟨hp, hL⟩, hc⟩ := hc
      obtain ⟨hv, hf⟩ := fitsFrom_and hf
      have hv : v < 2 ^ p.2 := of_decide_eq_true hv
      have hc := vacant_add hp hv hL hc
      rw [packed, List.map_cons, ih hc hf, bits_packed_apart hc hf hL, bits_add_same hp hv]

/-! ### Records and their words -/

/-- What takes one number for each field of the list and gives an F. -/
abbrev Maker (F : Type) : List (ℕ × ℕ) → Type
  | [] => F
  | _ :: L => ℕ → Maker F L
/-- The record of the values, one for each field. -/
def make {F : Type} : (L : List (ℕ × ℕ)) → Maker F L → List ℕ → F
  | [], mk, _ => mk
  | _ :: L, mk, vs => make L (mk (vs.headD 0)) vs.tail

/-- A record of a format whose values fit is read back from its word, and the field of the opcode, n bits from bit lo, keeps the
fixed bits, where these leave room for the format's fields L. -/
abbrev ReadsBack {F : Type} (lo n : ℕ) (L : List (ℕ × ℕ)) (of : ℕ → F) (enc : ℕ → F → ℕ) (fits : F → Bool) : Prop :=
  ∀ base f, fits f = true → (vacant base L && L.all (apart (lo, n))) = true →
    of (enc base f) = f ∧ bits (enc base f) lo n = base / 2 ^ lo % 2 ^ n

/-- A format whose reading, writing and widths are those of a list of fields, each by computation, is read back. -/
theorem readsBack {F : Type} {of : ℕ → F} {enc : ℕ → F → ℕ} {fits : F → Bool} (mk : Maker F L) (vals : F → List ℕ)
    (h : ∀ w f, of w = make L mk (L.map fun p => bits w p.1 p.2) ∧ enc w f = packed w L (vals f)
      ∧ fits f = fitsFrom true L (vals f) ∧ make L mk (vals f) = f) :
    ReadsBack lo n L of enc fits := by
  intro base f hf hr
  obtain ⟨hc, hq⟩ := Bool.and_eq_true_iff.1 hr
  obtain ⟨-, henc, hfits, hmake⟩ := h base f
  rw [hfits] at hf
  rw [(h _ f).1, henc, map_bits_packed hc hf, hmake]
  exact ⟨rfl, bits_packed_apart (q := (lo, n)) hc hf hq⟩

/-! ### The formats (R103 to R111, R232) -/

@[simp] theorem readsBack_CN : ReadsBack 26 6 [(22, 4)] fmtOfCN fmtEncCN FmtFits.CN :=
  readsBack FmtCN.mk (fun f => [f.g]) fun _ _ => ⟨rfl, rfl, rfl, rfl⟩
@[simp] theorem readsBack_CP : ReadsBack 26 6 [(22, 4), (19, 3), (0, 19)] fmtOfCP fmtEncCP FmtFits.CP :=
  readsBack FmtCP.mk (fun f => [f.g, f.tb, f.off]) fun _ _ => ⟨rfl, rfl, rfl, rfl⟩
@[simp] theorem readsBack_CR : ReadsBack 26 6 [(22, 4), (19, 3), (14, 5)] fmtOfCR fmtEncCR FmtFits.CR :=
  readsBack FmtCR.mk (fun f => [f.g, f.tb, f.sa]) fun _ _ => ⟨rfl, rfl, rfl, rfl⟩
@[simp] theorem readsBack_CT : ReadsBack 26 6 [(22, 4), (19, 3), (14, 5), (12, 2), (11, 1)]
    fmtOfCT fmtEncCT FmtFits.CT :=
  readsBack FmtCT.mk (fun f => [f.g, f.tb, f.p, f.d, f.lk]) fun _ _ => ⟨rfl, rfl, rfl, rfl⟩
@[simp] theorem readsBack_CLI : ReadsBack 26 6 [(22, 4), (21, 1), (11, 10), (0, 10)] fmtOfCLI fmtEncCLI FmtFits.CLI :=
  readsBack FmtCLI.mk (fun f => [f.g, f.l, f.fin, f.cnt]) fun _ _ => ⟨rfl, rfl, rfl, rfl⟩
@[simp] theorem readsBack_CLR : ReadsBack 26 6 [(22, 4), (21, 1), (11, 10), (5, 5)] fmtOfCLR fmtEncCLR FmtFits.CLR :=
  readsBack FmtCLR.mk (fun f => [f.g, f.l, f.fin, f.s]) fun _ _ => ⟨rfl, rfl, rfl, rfl⟩
@[simp] theorem readsBack_CJ : ReadsBack 26 6 [(22, 4), (18, 4)] fmtOfCJ fmtEncCJ FmtFits.CJ :=
  readsBack FmtCJ.mk (fun f => [f.g, f.k]) fun _ _ => ⟨rfl, rfl, rfl, rfl⟩
@[simp] theorem readsBack_CM : ReadsBack 26 6 [(22, 4), (20, 2)] fmtOfCM fmtEncCM FmtFits.CM :=
  readsBack FmtCM.mk (fun f => [f.g, f.mode]) fun _ _ => ⟨rfl, rfl, rfl, rfl⟩
@[simp] theorem readsBack_CS : ReadsBack 26 6 [(22, 4), (17, 5), (16, 1)] fmtOfCS fmtEncCS FmtFits.CS :=
  readsBack FmtCS.mk (fun f => [f.g, f.s, f.pri]) fun _ _ => ⟨rfl, rfl, rfl, rfl⟩
@[simp] theorem readsBack_CX : ReadsBack 26 6 [(22, 4), (14, 8)] fmtOfCX fmtEncCX FmtFits.CX :=
  readsBack FmtCX.mk (fun f => [f.g, f.code]) fun _ _ => ⟨rfl, rfl, rfl, rfl⟩
@[simp] theorem readsBack_SR : ReadsBack 26 6 [(22, 4), (17, 5), (12, 5), (7, 5)] fmtOfSR fmtEncSR FmtFits.SR :=
  readsBack FmtSR.mk (fun f => [f.g, f.d, f.a, f.b]) fun _ _ => ⟨rfl, rfl, rfl, rfl⟩
@[simp] theorem readsBack_SRU : ReadsBack 26 6 [(22, 4), (17, 5), (12, 5), (7, 5), (0, 1)]
    fmtOfSRU fmtEncSRU FmtFits.SRU :=
  readsBack FmtSRU.mk (fun f => [f.g, f.d, f.a, f.b, f.u]) fun _ _ => ⟨rfl, rfl, rfl, rfl⟩
@[simp] theorem readsBack_SI : ReadsBack 26 6 [(22, 4), (17, 5), (12, 5), (0, 12)] fmtOfSI fmtEncSI FmtFits.SI :=
  readsBack FmtSI.mk (fun f => [f.g, f.d, f.a, f.i]) fun _ _ => ⟨rfl, rfl, rfl, rfl⟩
@[simp] theorem readsBack_SIW : ReadsBack 26 6 [(22, 4), (17, 5), (12, 5), (32, 32)] fmtOfSIW fmtEncSIW FmtFits.SIW :=
  readsBack FmtSIW.mk (fun f => [f.g, f.d, f.a, f.i]) fun _ _ => ⟨rfl, rfl, rfl, rfl⟩
@[simp] theorem readsBack_SL : ReadsBack 26 6 [(22, 4), (17, 5), (0, 17)] fmtOfSL fmtEncSL FmtFits.SL :=
  readsBack FmtSL.mk (fun f => [f.g, f.d, f.i]) fun _ _ => ⟨rfl, rfl, rfl, rfl⟩
@[simp] theorem readsBack_SLW : ReadsBack 26 6 [(22, 4), (17, 5), (15, 1), (32, 32)] fmtOfSLW fmtEncSLW FmtFits.SLW :=
  readsBack FmtSLW.mk (fun f => [f.g, f.d, f.h, f.i]) fun _ _ => ⟨rfl, rfl, rfl, rfl⟩
@[simp] theorem readsBack_SLH : ReadsBack 26 6 [(22, 4), (17, 5), (32, 32)] fmtOfSLH fmtEncSLH FmtFits.SLH :=
  readsBack FmtSLH.mk (fun f => [f.g, f.d, f.i]) fun _ _ => ⟨rfl, rfl, rfl, rfl⟩
@[simp] theorem readsBack_S1 : ReadsBack 26 6 [(22, 4), (17, 5), (12, 5)] fmtOfS1 fmtEncS1 FmtFits.S1 :=
  readsBack FmtS1.mk (fun f => [f.g, f.d, f.a]) fun _ _ => ⟨rfl, rfl, rfl, rfl⟩
@[simp] theorem readsBack_SS : ReadsBack 26 6 [(22, 4), (17, 5), (12, 5), (7, 5), (2, 5)]
    fmtOfSS fmtEncSS FmtFits.SS :=
  readsBack FmtSS.mk (fun f => [f.g, f.d, f.a, f.b, f.p]) fun _ _ => ⟨rfl, rfl, rfl, rfl⟩
@[simp] theorem readsBack_SC : ReadsBack 26 6 [(22, 4), (17, 5), (12, 5), (7, 5), (3, 4), (2, 1), (1, 1)]
    fmtOfSC fmtEncSC FmtFits.SC :=
  readsBack FmtSC.mk (fun f => [f.g, f.pd, f.a, f.b, f.cond, f.f, f.fzi]) fun _ _ => ⟨rfl, rfl, rfl, rfl⟩
@[simp] theorem readsBack_SK : ReadsBack 26 6 [(22, 4), (17, 5), (12, 5), (8, 4), (0, 8)]
    fmtOfSK fmtEncSK FmtFits.SK :=
  readsBack FmtSK.mk (fun f => [f.g, f.pd, f.a, f.cond, f.i]) fun _ _ => ⟨rfl, rfl, rfl, rfl⟩
@[simp] theorem readsBack_SKW : ReadsBack 26 6 [(22, 4), (17, 5), (12, 5), (8, 4), (32, 32)]
    fmtOfSKW fmtEncSKW FmtFits.SKW :=
  readsBack FmtSKW.mk (fun f => [f.g, f.pd, f.a, f.cond, f.i]) fun _ _ => ⟨rfl, rfl, rfl, rfl⟩
@[simp] theorem readsBack_SH : ReadsBack 26 6 [(22, 4), (17, 5), (12, 5), (0, 6)] fmtOfSH fmtEncSH FmtFits.SH :=
  readsBack FmtSH.mk (fun f => [f.g, f.d, f.a, f.n]) fun _ _ => ⟨rfl, rfl, rfl, rfl⟩
@[simp] theorem readsBack_SF : ReadsBack 26 6 [(22, 4), (17, 5), (12, 5), (7, 5), (5, 2), (4, 1), (3, 1)]
    fmtOfSF fmtEncSF FmtFits.SF :=
  readsBack FmtSF.mk (fun f => [f.g, f.d, f.a, f.b, f.t, f.fzi, f.fzo]) fun _ _ => ⟨rfl, rfl, rfl, rfl⟩
@[simp] theorem readsBack_SFW : ReadsBack 26 6 [(22, 4), (17, 5), (12, 5), (7, 5), (5, 2), (4, 1), (3, 1), (59, 5), (56, 3)]
    fmtOfSFW fmtEncSFW FmtFits.SFW :=
  readsBack FmtSFW.mk (fun f => [f.g, f.d, f.a, f.b, f.t, f.fzi, f.fzo, f.sc, f.rmo]) fun _ _ => ⟨rfl, rfl, rfl, rfl⟩
@[simp] theorem readsBack_SV : ReadsBack 26 6 [(22, 4), (17, 5), (12, 5), (8, 4), (4, 4), (3, 1), (2, 1), (1, 1)]
    fmtOfSV fmtEncSV FmtFits.SV :=
  readsBack FmtSV.mk (fun f => [f.g, f.d, f.a, f.df, f.sf, f.fzi, f.fzo, f.u]) fun _ _ => ⟨rfl, rfl, rfl, rfl⟩
@[simp] theorem readsBack_SVW : ReadsBack 26 6
    [(22, 4), (17, 5), (12, 5), (8, 4), (4, 4), (3, 1), (2, 1), (1, 1), (56, 3), (55, 1)]
    fmtOfSVW fmtEncSVW FmtFits.SVW :=
  readsBack FmtSVW.mk (fun f => [f.g, f.d, f.a, f.df, f.sf, f.fzi, f.fzo, f.u, f.rmo, f.sat]) fun _ _ => ⟨rfl, rfl, rfl, rfl⟩
@[simp] theorem readsBack_SX : ReadsBack 26 6 [(22, 4), (17, 5), (5, 12)] fmtOfSX fmtEncSX FmtFits.SX :=
  readsBack FmtSX.mk (fun f => [f.g, f.r, f.csr]) fun _ _ => ⟨rfl, rfl, rfl, rfl⟩
@[simp] theorem readsBack_SM : ReadsBack 26 6 [(22, 4), (17, 5), (14, 3), (13, 1)] fmtOfSM fmtEncSM FmtFits.SM :=
  readsBack FmtSM.mk (fun f => [f.g, f.s, f.m, f.d]) fun _ _ => ⟨rfl, rfl, rfl, rfl⟩
@[simp] theorem readsBack_MS : ReadsBack 26 6 [(22, 4), (17, 5), (12, 5), (10, 2), (9, 1), (8, 1), (7, 1), (0, 7)]
    fmtOfMS fmtEncMS FmtFits.MS :=
  readsBack FmtMS.mk (fun f => [f.g, f.s, f.b, f.sz, f.x, f.pi, f.h, f.off]) fun _ _ => ⟨rfl, rfl, rfl, rfl⟩
@[simp] theorem readsBack_MSW : ReadsBack 26 6 [(22, 4), (17, 5), (12, 5), (10, 2), (9, 1), (8, 1), (7, 1), (32, 32)]
    fmtOfMSW fmtEncMSW FmtFits.MSW :=
  readsBack FmtMSW.mk (fun f => [f.g, f.s, f.b, f.sz, f.x, f.pi, f.h, f.off]) fun _ _ => ⟨rfl, rfl, rfl, rfl⟩
@[simp] theorem readsBack_MT : ReadsBack 26 6 [(22, 4), (17, 5), (12, 5)] fmtOfMT fmtEncMT FmtFits.MT :=
  readsBack FmtMT.mk (fun f => [f.g, f.b, f.l]) fun _ _ => ⟨rfl, rfl, rfl, rfl⟩
@[simp] theorem readsBack_MTW : ReadsBack 26 6 [(22, 4), (17, 5), (32, 32)] fmtOfMTW fmtEncMTW FmtFits.MTW :=
  readsBack FmtMTW.mk (fun f => [f.g, f.b, f.len]) fun _ _ => ⟨rfl, rfl, rfl, rfl⟩
@[simp] theorem readsBack_MV : ReadsBack 26 6 [(22, 4), (16, 6), (11, 5), (9, 2), (8, 1), (7, 1), (0, 7)]
    fmtOfMV fmtEncMV FmtFits.MV :=
  readsBack FmtMV.mk (fun f => [f.g, f.v, f.b, f.e, f.pi, f.h, f.off]) fun _ _ => ⟨rfl, rfl, rfl, rfl⟩
@[simp] theorem readsBack_MVW : ReadsBack 26 6 [(22, 4), (16, 6), (11, 5), (9, 2), (8, 1), (7, 1), (32, 32)]
    fmtOfMVW fmtEncMVW FmtFits.MVW :=
  readsBack FmtMVW.mk (fun f => [f.g, f.v, f.b, f.e, f.pi, f.h, f.off]) fun _ _ => ⟨rfl, rfl, rfl, rfl⟩
@[simp] theorem readsBack_MX : ReadsBack 26 6 [(22, 4), (16, 6), (10, 6), (5, 5), (3, 2), (0, 3)]
    fmtOfMX fmtEncMX FmtFits.MX :=
  readsBack FmtMX.mk (fun f => [f.g, f.v, f.ix, f.b, f.e, f.sh]) fun _ _ => ⟨rfl, rfl, rfl, rfl⟩
@[simp] theorem readsBack_VI : ReadsBack 26 6 [(22, 4), (16, 6), (10, 6), (4, 6), (2, 2), (1, 1), (0, 1)]
    fmtOfVI fmtEncVI FmtFits.VI :=
  readsBack FmtVI.mk (fun f => [f.g, f.d, f.a, f.b, f.e, f.s, f.u]) fun _ _ => ⟨rfl, rfl, rfl, rfl⟩
@[simp] theorem readsBack_VIW : ReadsBack 26 6 [(22, 4), (16, 6), (10, 6), (4, 6), (2, 2), (1, 1), (0, 1), (54, 1), (49, 5)]
    fmtOfVIW fmtEncVIW FmtFits.VIW :=
  readsBack FmtVIW.mk (fun f => [f.g, f.d, f.a, f.b, f.e, f.s, f.u, f.bs, f.sb]) fun _ _ => ⟨rfl, rfl, rfl, rfl⟩
@[simp] theorem readsBack_VC : ReadsBack 26 6 [(22, 4), (17, 5), (11, 6), (5, 6), (2, 3), (1, 1), (0, 1)]
    fmtOfVC fmtEncVC FmtFits.VC :=
  readsBack FmtVC.mk (fun f => [f.g, f.pd, f.a, f.b, f.cond, f.f, f.fzi]) fun _ _ => ⟨rfl, rfl, rfl, rfl⟩
@[simp] theorem readsBack_VS : ReadsBack 26 6 [(22, 4), (16, 6), (10, 6), (4, 6), (0, 4)]
    fmtOfVS fmtEncVS FmtFits.VS :=
  readsBack FmtVS.mk (fun f => [f.g, f.d, f.a, f.b, f.p]) fun _ _ => ⟨rfl, rfl, rfl, rfl⟩
@[simp] theorem readsBack_VSW : ReadsBack 26 6 [(22, 4), (16, 6), (10, 6), (4, 6), (0, 4), (54, 1), (49, 5)]
    fmtOfVSW fmtEncVSW FmtFits.VSW :=
  readsBack FmtVSW.mk (fun f => [f.g, f.d, f.a, f.b, f.p, f.bs, f.sb]) fun _ _ => ⟨rfl, rfl, rfl, rfl⟩
@[simp] theorem readsBack_VV : ReadsBack 26 6 [(22, 4), (16, 6), (10, 6), (7, 3), (4, 3), (2, 2), (1, 1), (0, 1)]
    fmtOfVV fmtEncVV FmtFits.VV :=
  readsBack FmtVV.mk (fun f => [f.g, f.d, f.a, f.df, f.sf, f.part, f.fzi, f.fzo]) fun _ _ => ⟨rfl, rfl, rfl, rfl⟩
@[simp] theorem readsBack_VVW : ReadsBack 26 6
    [(22, 4), (16, 6), (10, 6), (7, 3), (4, 3), (2, 2), (1, 1), (0, 1), (55, 3), (48, 1), (47, 1)]
    fmtOfVVW fmtEncVVW FmtFits.VVW :=
  readsBack FmtVVW.mk
    (fun f => [f.g, f.d, f.a, f.df, f.sf, f.part, f.fzi, f.fzo, f.rmo, f.u, f.sat]) fun _ _ => ⟨rfl, rfl, rfl, rfl⟩
@[simp] theorem readsBack_VP : ReadsBack 26 6 [(22, 4), (16, 6), (10, 6), (4, 6), (2, 2)]
    fmtOfVP fmtEncVP FmtFits.VP :=
  readsBack FmtVP.mk (fun f => [f.g, f.d, f.a, f.x, f.e]) fun _ _ => ⟨rfl, rfl, rfl, rfl⟩
@[simp] theorem readsBack_VB : ReadsBack 26 6 [(22, 4), (16, 6), (11, 5), (9, 2)] fmtOfVB fmtEncVB FmtFits.VB :=
  readsBack FmtVB.mk (fun f => [f.g, f.d, f.sa, f.e]) fun _ _ => ⟨rfl, rfl, rfl, rfl⟩
@[simp] theorem readsBack_VF : ReadsBack 26 6 [(22, 4), (16, 6), (10, 6), (4, 6), (2, 2), (1, 1), (0, 1)]
    fmtOfVF fmtEncVF FmtFits.VF :=
  readsBack FmtVF.mk (fun f => [f.g, f.d, f.a, f.b, f.t, f.fzi, f.fzo]) fun _ _ => ⟨rfl, rfl, rfl, rfl⟩
@[simp] theorem readsBack_VFW : ReadsBack 26 6
    [(22, 4), (16, 6), (10, 6), (4, 6), (2, 2), (1, 1), (0, 1), (58, 6), (55, 3), (54, 1), (49, 5)]
    fmtOfVFW fmtEncVFW FmtFits.VFW :=
  readsBack FmtVFW.mk
    (fun f => [f.g, f.d, f.a, f.b, f.t, f.fzi, f.fzo, f.vc, f.rmo, f.bs, f.sb]) fun _ _ => ⟨rfl, rfl, rfl, rfl⟩
@[simp] theorem readsBack_VR : ReadsBack 26 6 [(22, 4), (16, 6), (10, 6), (7, 3), (6, 1), (5, 1), (4, 1)]
    fmtOfVR fmtEncVR FmtFits.VR :=
  readsBack FmtVR.mk (fun f => [f.g, f.d, f.a, f.fm, f.x, f.fzi, f.fzo]) fun _ _ => ⟨rfl, rfl, rfl, rfl⟩
@[simp] theorem readsBack_VRW : ReadsBack 26 6 [(22, 4), (16, 6), (10, 6), (7, 3), (6, 1), (5, 1), (4, 1), (55, 3)]
    fmtOfVRW fmtEncVRW FmtFits.VRW :=
  readsBack FmtVRW.mk (fun f => [f.g, f.d, f.a, f.fm, f.x, f.fzi, f.fzo, f.rmo]) fun _ _ => ⟨rfl, rfl, rfl, rfl⟩
@[simp] theorem readsBack_VL : ReadsBack 26 6 [(22, 4), (17, 5), (11, 6), (5, 6), (4, 1)]
    fmtOfVL fmtEncVL FmtFits.VL :=
  readsBack FmtVL.mk (fun f => [f.g, f.s, f.v, f.lane, f.d]) fun _ _ => ⟨rfl, rfl, rfl, rfl⟩
@[simp] theorem readsBack_VN : ReadsBack 26 6 [(22, 4), (17, 5), (12, 5)] fmtOfVN fmtEncVN FmtFits.VN :=
  readsBack FmtVN.mk (fun f => [f.g, f.d, f.pa]) fun _ _ => ⟨rfl, rfl, rfl, rfl⟩
@[simp] theorem readsBack_VM : ReadsBack 26 6 [(22, 4), (16, 6), (10, 6), (4, 6), (2, 2), (1, 1)]
    fmtOfVM fmtEncVM FmtFits.VM :=
  readsBack FmtVM.mk (fun f => [f.g, f.d, f.a, f.x, f.t, f.fzi]) fun _ _ => ⟨rfl, rfl, rfl, rfl⟩
@[simp] theorem readsBack_VH : ReadsBack 26 6 [(22, 4), (16, 6), (10, 6), (4, 6)] fmtOfVH fmtEncVH FmtFits.VH :=
  readsBack FmtVH.mk (fun f => [f.g, f.d, f.a, f.b]) fun _ _ => ⟨rfl, rfl, rfl, rfl⟩
@[simp] theorem readsBack_VHW : ReadsBack 26 6 [(22, 4), (16, 6), (10, 6), (4, 6), (54, 1), (49, 5)]
    fmtOfVHW fmtEncVHW FmtFits.VHW :=
  readsBack FmtVHW.mk (fun f => [f.g, f.d, f.a, f.b, f.bs, f.sb]) fun _ _ => ⟨rfl, rfl, rfl, rfl⟩
@[simp] theorem readsBack_VO : ReadsBack 26 6 [(22, 4), (17, 5), (12, 5), (10, 2)] fmtOfVO fmtEncVO FmtFits.VO :=
  readsBack FmtVO.mk (fun f => [f.g, f.pd, f.pa, f.mode]) fun _ _ => ⟨rfl, rfl, rfl, rfl⟩
@[simp] theorem readsBack_PL : ReadsBack 26 6 [(22, 4), (17, 5), (12, 5), (7, 5)] fmtOfPL fmtEncPL FmtFits.PL :=
  readsBack FmtPL.mk (fun f => [f.g, f.pd, f.pa, f.pb]) fun _ _ => ⟨rfl, rfl, rfl, rfl⟩
@[simp] theorem readsBack_PU : ReadsBack 26 6 [(22, 4), (17, 5), (12, 5)] fmtOfPU fmtEncPU FmtFits.PU :=
  readsBack FmtPU.mk (fun f => [f.g, f.pd, f.pa]) fun _ _ => ⟨rfl, rfl, rfl, rfl⟩
@[simp] theorem readsBack_PS : ReadsBack 26 6 [(22, 4), (17, 5), (10, 7)] fmtOfPS fmtEncPS FmtFits.PS :=
  readsBack FmtPS.mk (fun f => [f.g, f.pd, f.n]) fun _ _ => ⟨rfl, rfl, rfl, rfl⟩
@[simp] theorem readsBack_PM : ReadsBack 26 6 [(22, 4), (17, 5), (12, 5), (10, 2)] fmtOfPM fmtEncPM FmtFits.PM :=
  readsBack FmtPM.mk (fun f => [f.g, f.d, f.a, f.sel]) fun _ _ => ⟨rfl, rfl, rfl, rfl⟩
@[simp] theorem readsBack_XC : ReadsBack 26 6 [(22, 4), (16, 6)] fmtOfXC fmtEncXC FmtFits.XC :=
  readsBack FmtXC.mk (fun f => [f.g, f.r]) fun _ _ => ⟨rfl, rfl, rfl, rfl⟩
@[simp] theorem readsBack_XP : ReadsBack 26 6 [(22, 4), (17, 5), (12, 5), (2, 10)] fmtOfXP fmtEncXP FmtFits.XP :=
  readsBack FmtXP.mk (fun f => [f.g, f.a, f.b, f.idx]) fun _ _ => ⟨rfl, rfl, rfl, rfl⟩
@[simp] theorem readsBack_XZ : ReadsBack 26 6 [(22, 4), (16, 6), (12, 4), (7, 5), (6, 1), (5, 1)]
    fmtOfXZ fmtEncXZ FmtFits.XZ :=
  readsBack FmtXZ.mk (fun f => [f.g, f.v, f.tile, f.row, f.h, f.fz]) fun _ _ => ⟨rfl, rfl, rfl, rfl⟩
@[simp] theorem readsBack_XS : ReadsBack 26 6 [(22, 4), (17, 5), (13, 4), (12, 1)] fmtOfXS fmtEncXS FmtFits.XS :=
  readsBack FmtXS.mk (fun f => [f.g, f.d, f.tile, f.clr]) fun _ _ => ⟨rfl, rfl, rfl, rfl⟩
@[simp] theorem readsBack_EC : ReadsBack 26 6 [(22, 4), (17, 5), (12, 5), (7, 5), (2, 5), (1, 1), (0, 1)]
    fmtOfEC fmtEncEC FmtFits.EC :=
  readsBack FmtEC.mk (fun f => [f.g, f.dst, f.src, f.len, f.bar, f.nb, f.dh]) fun _ _ => ⟨rfl, rfl, rfl, rfl⟩
@[simp] theorem readsBack_ECW : ReadsBack 26 6
    [(22, 4), (17, 5), (12, 5), (7, 5), (2, 5), (1, 1), (0, 1), (52, 12), (47, 5), (46, 1), (45, 1), (44, 1),
     (43, 1), (40, 3), (32, 8)]
    fmtOfECW fmtEncECW FmtFits.ECW :=
  readsBack FmtECW.mk
    (fun f => [f.g, f.dst, f.src, f.len, f.bar, f.nb, f.dh, f.inc, f.ts, f.tag, f.ckpt, f.rel, f.acq, f.scope, f.opx])
    fun _ _ => ⟨rfl, rfl, rfl, rfl⟩
@[simp] theorem readsBack_ESE : ReadsBack 26 6 [(22, 4), (17, 5), (15, 2), (2, 5), (1, 1)]
    fmtOfESE fmtEncESE FmtFits.ESE :=
  readsBack FmtESE.mk (fun f => [f.g, f.d, f.op, f.bar, f.nb]) fun _ _ => ⟨rfl, rfl, rfl, rfl⟩
@[simp] theorem readsBack_ESEW : ReadsBack 26 6
    [(22, 4), (17, 5), (15, 2), (2, 5), (1, 1), (52, 12), (44, 1), (43, 1), (40, 3)]
    fmtOfESEW fmtEncESEW FmtFits.ESEW :=
  readsBack FmtESEW.mk (fun f => [f.g, f.d, f.op, f.bar, f.nb, f.inc, f.rel, f.acq, f.scope]) fun _ _ => ⟨rfl, rfl, rfl, rfl⟩
@[simp] theorem readsBack_EK : ReadsBack 26 6 [(22, 4), (19, 3), (14, 5)] fmtOfEK fmtEncEK FmtFits.EK :=
  readsBack FmtEK.mk (fun f => [f.g, f.k, f.d]) fun _ _ => ⟨rfl, rfl, rfl, rfl⟩
@[simp] theorem readsBack_EK0 : ReadsBack 26 6 [(22, 4), (19, 3)] fmtOfEK0 fmtEncEK0 FmtFits.EK0 :=
  readsBack FmtEK0.mk (fun f => [f.g, f.k]) fun _ _ => ⟨rfl, rfl, rfl, rfl⟩
@[simp] theorem readsBack_EH : ReadsBack 26 6 [(22, 4), (17, 5)] fmtOfEH fmtEncEH FmtFits.EH :=
  readsBack FmtEH.mk (fun f => [f.g, f.h]) fun _ _ => ⟨rfl, rfl, rfl, rfl⟩
@[simp] theorem readsBack_EG : ReadsBack 26 6 [(22, 4), (17, 5), (12, 5), (7, 5), (2, 5)]
    fmtOfEG fmtEncEG FmtFits.EG :=
  readsBack FmtEG.mk (fun f => [f.g, f.dst, f.adr, f.hpc, f.ck]) fun _ _ => ⟨rfl, rfl, rfl, rfl⟩
@[simp] theorem readsBack_EGW : ReadsBack 26 6 [(22, 4), (17, 5), (12, 5), (7, 5), (2, 5), (43, 1), (40, 3)]
    fmtOfEGW fmtEncEGW FmtFits.EGW :=
  readsBack FmtEGW.mk (fun f => [f.g, f.dst, f.adr, f.hpc, f.ck, f.acq, f.scope]) fun _ _ => ⟨rfl, rfl, rfl, rfl⟩
@[simp] theorem readsBack_EF : ReadsBack 26 6 [(22, 4), (17, 5), (12, 5), (7, 5), (3, 4), (2, 1)]
    fmtOfEF fmtEncEF FmtFits.EF :=
  readsBack FmtEF.mk (fun f => [f.g, f.dst, f.adr, f.x, f.op, f.w]) fun _ _ => ⟨rfl, rfl, rfl, rfl⟩
@[simp] theorem readsBack_EFW : ReadsBack 26 6
    [(22, 4), (17, 5), (12, 5), (7, 5), (3, 4), (2, 1), (44, 1), (43, 1), (40, 3), (32, 8)]
    fmtOfEFW fmtEncEFW FmtFits.EFW :=
  readsBack FmtEFW.mk
    (fun f => [f.g, f.dst, f.adr, f.x, f.op, f.w, f.rel, f.acq, f.scope, f.opx]) fun _ _ => ⟨rfl, rfl, rfl, rfl⟩
@[simp] theorem readsBack_EA : ReadsBack 26 6 [(22, 4), (17, 5), (12, 5), (11, 1), (2, 5), (1, 1)]
    fmtOfEA fmtEncEA FmtFits.EA :=
  readsBack FmtEA.mk (fun f => [f.g, f.dst, f.src, f.t, f.bar, f.nb]) fun _ _ => ⟨rfl, rfl, rfl, rfl⟩
@[simp] theorem readsBack_EAW : ReadsBack 26 6
    [(22, 4), (17, 5), (12, 5), (11, 1), (2, 5), (1, 1), (52, 12), (44, 1), (40, 3)]
    fmtOfEAW fmtEncEAW FmtFits.EAW :=
  readsBack FmtEAW.mk (fun f => [f.g, f.dst, f.src, f.t, f.bar, f.nb, f.inc, f.rel, f.scope]) fun _ _ => ⟨rfl, rfl, rfl, rfl⟩
@[simp] theorem readsBack_ER : ReadsBack 26 6 [(22, 4), (17, 5), (9, 8), (4, 5)] fmtOfER fmtEncER FmtFits.ER :=
  readsBack FmtER.mk (fun f => [f.g, f.src, f.win, f.rank]) fun _ _ => ⟨rfl, rfl, rfl, rfl⟩
@[simp] theorem readsBack_ERW : ReadsBack 26 6 [(22, 4), (17, 5), (9, 8), (4, 5), (44, 1), (40, 3)]
    fmtOfERW fmtEncERW FmtFits.ERW :=
  readsBack FmtERW.mk (fun f => [f.g, f.src, f.win, f.rank, f.rel, f.scope]) fun _ _ => ⟨rfl, rfl, rfl, rfl⟩
@[simp] theorem readsBack_EN : ReadsBack 26 6 [(22, 4), (19, 3)] fmtOfEN fmtEncEN FmtFits.EN :=
  readsBack FmtEN.mk (fun f => [f.g, f.scope]) fun _ _ => ⟨rfl, rfl, rfl, rfl⟩
@[simp] theorem readsBack_EBA : ReadsBack 26 6 [(22, 4), (17, 5), (5, 12)] fmtOfEBA fmtEncEBA FmtFits.EBA :=
  readsBack FmtEBA.mk (fun f => [f.g, f.b, f.inc]) fun _ _ => ⟨rfl, rfl, rfl, rfl⟩
@[simp] theorem readsBack_EBW : ReadsBack 26 6 [(22, 4), (17, 5), (16, 1)] fmtOfEBW fmtEncEBW FmtFits.EBW :=
  readsBack FmtEBW.mk (fun f => [f.g, f.b, f.ph]) fun _ _ => ⟨rfl, rfl, rfl, rfl⟩
@[simp] theorem readsBack_EBC : ReadsBack 26 6 [(22, 4), (17, 5), (0, 17)] fmtOfEBC fmtEncEBC FmtFits.EBC :=
  readsBack FmtEBC.mk (fun f => [f.g, f.b, f.thr]) fun _ _ => ⟨rfl, rfl, rfl, rfl⟩
@[simp] theorem readsBack_EBCW : ReadsBack 26 6 [(22, 4), (17, 5), (32, 32)] fmtOfEBCW fmtEncEBCW FmtFits.EBCW :=
  readsBack FmtEBCW.mk (fun f => [f.g, f.b, f.thr]) fun _ _ => ⟨rfl, rfl, rfl, rfl⟩
@[simp] theorem readsBack_EBI : ReadsBack 26 6 [(22, 4), (17, 5), (12, 5)] fmtOfEBI fmtEncEBI FmtFits.EBI :=
  readsBack FmtEBI.mk (fun f => [f.g, f.b, f.a]) fun _ _ => ⟨rfl, rfl, rfl, rfl⟩
@[simp] theorem readsBack_ET : ReadsBack 26 6 [(22, 4), (17, 5), (12, 5), (7, 5), (2, 5)]
    fmtOfET fmtEncET FmtFits.ET :=
  readsBack FmtET.mk (fun f => [f.g, f.d, f.b, f.thr, f.desc]) fun _ _ => ⟨rfl, rfl, rfl, rfl⟩
@[simp] theorem readsBack_ETC : ReadsBack 26 6 [(22, 4), (17, 5)] fmtOfETC fmtEncETC FmtFits.ETC :=
  readsBack FmtETC.mk (fun f => [f.g, f.a]) fun _ _ => ⟨rfl, rfl, rfl, rfl⟩
@[simp] theorem readsBack_EM : ReadsBack 26 6 [(22, 4), (18, 4), (13, 5)] fmtOfEM fmtEncEM FmtFits.EM :=
  readsBack FmtEM.mk (fun f => [f.g, f.m, f.c]) fun _ _ => ⟨rfl, rfl, rfl, rfl⟩
@[simp] theorem readsBack_EP : ReadsBack 26 6 [(22, 4), (17, 5)] fmtOfEP fmtEncEP FmtFits.EP :=
  readsBack FmtEP.mk (fun f => [f.g, f.a]) fun _ _ => ⟨rfl, rfl, rfl, rfl⟩
@[simp] theorem readsBack_EP0 : ReadsBack 26 6 [(22, 4)] fmtOfEP0 fmtEncEP0 FmtFits.EP0 :=
  readsBack FmtEP0.mk (fun f => [f.g]) fun _ _ => ⟨rfl, rfl, rfl, rfl⟩
@[simp] theorem readsBack_UW : ReadsBack 58 6 [(52, 6), (32, 20), (29, 3), (9, 20), (5, 4), (4, 1)]
    fmtOfUW fmtEncUW FmtFits.UW :=
  readsBack FmtUW.mk (fun f => [f.sel, f.off, f.qs, f.soff, f.fm, f.fzi]) fun _ _ => ⟨rfl, rfl, rfl, rfl⟩
@[simp] theorem readsBack_UA : ReadsBack 58 6
    [(52, 6), (36, 16), (33, 3), (29, 4), (24, 5), (18, 6), (14, 4), (13, 1), (12, 1)]
    fmtOfUA fmtEncUA FmtFits.UA :=
  readsBack FmtUA.mk
    (fun f => [f.sel, f.off, f.qd, f.tile, f.row0, f.nrows, f.fm, f.fzi, f.gath]) fun _ _ => ⟨rfl, rfl, rfl, rfl⟩
@[simp] theorem readsBack_UT : ReadsBack 58 6 [(29, 4)] fmtOfUT fmtEncUT FmtFits.UT :=
  readsBack FmtUT.mk (fun f => [f.tile]) fun _ _ => ⟨rfl, rfl, rfl, rfl⟩
@[simp] theorem readsBack_UG : ReadsBack 58 6 [(29, 4), (28, 1), (25, 3), (0, 11)] fmtOfUG fmtEncUG FmtFits.UG :=
  readsBack FmtUG.mk (fun f => [f.tile, f.gq, f.q, f.gexp]) fun _ _ => ⟨rfl, rfl, rfl, rfl⟩
@[simp] theorem readsBack_UC : ReadsBack 58 6
    [(52, 6), (36, 16), (33, 3), (29, 4), (24, 5), (18, 6), (14, 4), (13, 1), (12, 1)]
    fmtOfUC fmtEncUC FmtFits.UC :=
  readsBack FmtUC.mk
    (fun f => [f.sel, f.off, f.qd, f.tile, f.row0, f.nrows, f.tgt, f.fzo, f.tag]) fun _ _ => ⟨rfl, rfl, rfl, rfl⟩
@[simp] theorem readsBack_UL : ReadsBack 58 6 [(57, 1), (54, 3), (0, 16)] fmtOfUL fmtEncUL FmtFits.UL :=
  readsBack FmtUL.mk (fun f => [f.cq, f.q, f.cnt]) fun _ _ => ⟨rfl, rfl, rfl, rfl⟩
@[simp] theorem readsBack_UR : ReadsBack 58 6 [(57, 1), (56, 1), (51, 5), (39, 12)] fmtOfUR fmtEncUR FmtFits.UR :=
  readsBack FmtUR.mk (fun f => [f.w, f.bq, f.bar, f.inc]) fun _ _ => ⟨rfl, rfl, rfl, rfl⟩
@[simp] theorem readsBack_UM : ReadsBack 58 6 [(56, 1), (51, 5), (50, 1)] fmtOfUM fmtEncUM FmtFits.UM :=
  readsBack FmtUM.mk (fun f => [f.bq, f.bar, f.ph]) fun _ _ => ⟨rfl, rfl, rfl, rfl⟩
@[simp] theorem readsBack_UI : ReadsBack 58 6 [(54, 3), (0, 32)] fmtOfUI fmtEncUI FmtFits.UI :=
  readsBack FmtUI.mk (fun f => [f.q, f.imm]) fun _ _ => ⟨rfl, rfl, rfl, rfl⟩

end Sys2Proof
end

section
/-! # Decoding what was encoded (O55, second part)

A well-formed instruction is among the candidates of its word (`mem_candidates`), and no two candidates accept one word but for
the uses of MONCFG (`candidates_pairwise`); so the decoder, which takes the first candidate that accepts, answers it. -/

namespace Sys2Proof
open Machine
variable {i j : Instr} {w op : ℕ} {l : List Instr} {c : Cls} {wide : Bool}

/-! ### Among the candidates

Each case is a format read back from its word (`ReadsBack`), at the opcode that the fixed bits hold. -/

theorem mem_candidates_control (hwf : i.wf = true) (hp : placeOf i = .syllable .C wide) :
    i ∈ candidates .C wide (bits (encode i) 26 6) (encode i) := by
  cases i <;> cases hp <;> simp only [Instr.wf, Bool.and_eq_true] at hwf <;>
    simp +decide [encode, candidates, candidatesC, hwf]
theorem mem_candidates_scalar (hwf : i.wf = true) (hp : placeOf i = .syllable .S wide) :
    i ∈ candidates .S wide (bits (encode i) 26 6) (encode i) := by
  cases i <;> cases hp <;> simp only [Instr.wf, Bool.and_eq_true] at hwf <;>
    simp +decide [encode, candidates, candidatesS, wideS, hwf]
theorem mem_candidates_scratchpad (hwf : i.wf = true) (hp : placeOf i = .syllable .M wide) :
    i ∈ candidates .M wide (bits (encode i) 26 6) (encode i) := by
  cases i <;> cases hp <;> simp only [Instr.wf, Bool.and_eq_true] at hwf <;>
    simp +decide [encode, candidates, candidatesM, wideM, hwf]
theorem mem_candidates_vector (hwf : i.wf = true) (hp : placeOf i = .syllable .V wide) :
    i ∈ candidates .V wide (bits (encode i) 26 6) (encode i) := by
  cases i <;> cases hp <;> simp only [Instr.wf, Bool.and_eq_true] at hwf <;>
    simp +decide [encode, candidates, candidatesV, wideV, hwf]
theorem mem_candidates_matrix (hwf : i.wf = true) (hp : placeOf i = .syllable .X wide) :
    i ∈ candidates .X wide (bits (encode i) 26 6) (encode i) := by
  cases i <;> cases hp <;> simp only [Instr.wf, Bool.and_eq_true] at hwf <;>
    simp +decide [encode, candidates, candidatesX, hwf]
theorem mem_candidates_engine (hwf : i.wf = true) (hp : placeOf i = .syllable .E wide) :
    i ∈ candidates .E wide (bits (encode i) 26 6) (encode i) := by
  cases i <;> cases hp <;> simp only [Instr.wf, Bool.and_eq_true] at hwf <;>
    simp +decide [encode, candidates, candidatesE, wideE, hwf]
theorem mem_candidatesMicro (hwf : i.wf = true) (hp : placeOf i = .micro) :
    i ∈ candidatesMicro (bits (encode i) 58 6) (encode i) := by
  cases i <;> cases hp <;> simp only [Instr.wf, Bool.and_eq_true] at hwf <;>
    simp +decide [encode, candidatesMicro, hwf]
theorem mem_candidates (hwf : i.wf = true) (hp : placeOf i = .syllable c wide) :
    i ∈ candidates c wide (bits (encode i) 26 6) (encode i) := by
  cases c with
  | C => exact mem_candidates_control hwf hp
  | S => exact mem_candidates_scalar hwf hp
  | M => exact mem_candidates_scratchpad hwf hp
  | V => exact mem_candidates_vector hwf hp
  | X => exact mem_candidates_matrix hwf hp
  | E => exact mem_candidates_engine hwf hp

/-! ### At most one candidate is accepted -/

/-- The word w is the instruction's, and its operands hold accepted values: what the decoder asks of a candidate. -/
def Instr.accepts (i : Instr) (w : ℕ) : Prop := i.wf = true ∧ encode i = w
/-- MONCFG's uses other than the first, as which the decoder reads their word. -/
def readsAsConfigure : Instr → Bool
  | .moncfgSnapshot _ => true
  | .moncfgSnapshotClear _ => true
  | .moncfgStop _ => true
  | _ => false
/-- Two candidates, in this order, accept the word only where the later one is a use of MONCFG that is read as the first. -/
def excludes (w : ℕ) (i j : Instr) : Prop := i.accepts w → j.accepts w → readsAsConfigure j = true

theorem accepts_of_firstAccepted (h : firstAccepted w l = some i) : i.accepts w := by
  induction l with
  | nil => cases h
  | cons j l ih =>
    rw [firstAccepted] at h
    split at h
    · next hj =>
      obtain rfl := Option.some.inj h
      exact ⟨(Bool.and_eq_true_iff.1 hj).1, eq_of_beq (Bool.and_eq_true_iff.1 hj).2⟩
    · exact ih h
theorem firstAccepted_eq_some (hmem : i ∈ l) (hi : i.accepts w) (ha : readsAsConfigure i = false)
    (hl : l.Pairwise (excludes w)) : firstAccepted w l = some i := by
  induction l with
  | nil => cases hmem
  | cons j l ih =>
    obtain ⟨hj, hl⟩ := List.pairwise_cons.1 hl
    rw [firstAccepted]
    split
    · next h =>
      have hjw : j.accepts w := accepts_of_firstAccepted (l := [j]) (if_pos h)
      obtain rfl | hmem := List.mem_cons.1 hmem
      · rfl
      · simp [hj i hmem hjw hi] at ha
    · next h =>
      obtain rfl | hmem := List.mem_cons.1 hmem
      · simp [hi.1, hi.2] at h
      · exact ih hmem hl

theorem pairwise_loop {f : FmtCLI} {g : FmtCLR} : [Instr.loopImm f, .loopReg g].Pairwise (excludes w) := by
  refine List.pairwise_pair.2 ?_
  rintro ⟨hf, rfl⟩ ⟨hg, h⟩
  simp only [Instr.wf, FmtFits.CLI, FmtFits.CLR, encode, fmtEncCLI, fmtEncCLR, Bool.and_eq_true, decide_eq_true_eq] at hf hg h
  omega
theorem pairwise_movi {f : FmtSLW} {g : FmtSLH} : [Instr.moviWide f, .moviHi g].Pairwise (excludes w) := by
  refine List.pairwise_pair.2 ?_
  rintro ⟨hf, rfl⟩ ⟨hg, h⟩
  simp only [Instr.wf, FmtFits.SLW, FmtFits.SLH, encode, fmtEncSLW, fmtEncSLH, Bool.and_eq_true, decide_eq_true_eq] at hf hg h
  omega
theorem pairwise_mxprog {f g : FmtXP} : [Instr.mxprog f, .mxprogTab g].Pairwise (excludes w) := by
  refine List.pairwise_pair.2 ?_
  rintro ⟨-, rfl⟩ ⟨-, h⟩
  simp only [encode, fmtEncXP] at h
  omega
theorem pairwise_tlbinv {f : FmtEP} {g : FmtEP0} :
    [Instr.tlbinv f, .tlbinvPart g, .tlbinvPkg g].Pairwise (excludes w) := by
  simp only [List.pairwise_cons, List.mem_cons, List.not_mem_nil, or_false, forall_eq_or_imp, forall_eq,
    IsEmpty.forall_iff, implies_true, List.Pairwise.nil, and_true]
  refine ⟨⟨?_, ?_⟩, ?_⟩ <;>
  · rintro ⟨hf, rfl⟩ ⟨hg, h⟩
    simp only [Instr.wf, FmtFits.EP, FmtFits.EP0, encode, fmtEncEP, fmtEncEP0, Bool.and_eq_true, decide_eq_true_eq] at hf hg h
    omega
theorem pairwise_rfop {f : FmtEFW} :
    [Instr.rfopWide f, .rfopIncw f, .rfopBadd f, .rfopCas f].Pairwise (excludes w) := by
  have hi : (Instr.rfopIncw f).wf = true → f.op = 9 := by simp +contextual [Instr.wf]
  have hb : (Instr.rfopBadd f).wf = true → f.op = 10 := by simp +contextual [Instr.wf]
  have hc : (Instr.rfopCas f).wf = true → f.op = 11 := by simp +contextual [Instr.wf]
  have hw : (Instr.rfopWide f).wf = true → f.op ≤ 8 := by simp +contextual [Instr.wf]
  simp only [List.pairwise_cons, List.mem_cons, List.not_mem_nil, or_false, forall_eq_or_imp, forall_eq,
    IsEmpty.forall_iff, implies_true, List.Pairwise.nil, and_true]
  refine ⟨⟨?_, ?_, ?_⟩, ⟨?_, ?_⟩, ?_⟩ <;>
  · rintro ⟨hf, -⟩ ⟨hg, -⟩
    grind
theorem pairwise_moncfg {f : FmtEM} : [Instr.moncfgConfigure f, .moncfgSnapshot f, .moncfgSnapshotClear f,
    .moncfgStop f].Pairwise (excludes w) := by
  simp [excludes, readsAsConfigure]

theorem candidates_pairwise : (candidates c wide op w).Pairwise (excludes w) := by
  cases c <;> cases wide <;> simp only [candidates, List.Pairwise.nil]
  · unfold candidatesC
    split <;> simp only [List.Pairwise.nil, List.pairwise_singleton, pairwise_loop]
  · unfold candidatesS
    split <;> simp only [List.Pairwise.nil, List.pairwise_singleton]
  · unfold wideS
    split <;> simp only [List.Pairwise.nil, List.pairwise_singleton, pairwise_movi]
  · unfold candidatesM
    split <;> simp only [List.Pairwise.nil, List.pairwise_singleton]
  · unfold wideM
    split <;> simp only [List.Pairwise.nil, List.pairwise_singleton]
  · unfold candidatesV
    split <;> simp only [List.Pairwise.nil, List.pairwise_singleton]
  · unfold wideV
    split <;> simp only [List.Pairwise.nil, List.pairwise_singleton]
  · unfold candidatesX
    split <;> simp only [List.Pairwise.nil, List.pairwise_singleton, pairwise_mxprog]
  · unfold candidatesE
    split <;> simp only [List.Pairwise.nil, List.pairwise_singleton, pairwise_tlbinv, pairwise_moncfg]
  · unfold wideE
    split <;> simp only [List.Pairwise.nil, List.pairwise_singleton, pairwise_rfop]
theorem candidatesMicro_pairwise : (candidatesMicro op w).Pairwise (excludes w) := by
  unfold candidatesMicro
  split <;> simp only [List.Pairwise.nil, List.pairwise_singleton]

theorem decodeSyl_eq_ok : decodeSyl c wide w = .ok i ↔ firstAccepted w (candidates c wide (bits w 26 6) w) = some i := by
  rw [decodeSyl]
  cases firstAccepted w (candidates c wide (bits w 26 6) w) with
  | none => dsimp only; split <;> simp
  | some j => simp

theorem decodeSyl_encode (hwf : i.wf = true) (hp : placeOf i = .syllable c wide) (ha : readsAsConfigure i = false) :
    decodeSyl c wide (encode i) = .ok i :=
  decodeSyl_eq_ok.2 (firstAccepted_eq_some (mem_candidates hwf hp) ⟨hwf, rfl⟩ ha candidates_pairwise)
theorem decodeMicro_encode (hwf : i.wf = true) (hp : placeOf i = .micro) : decodeMicro (encode i) = some i :=
  firstAccepted_eq_some (mem_candidatesMicro hwf hp) ⟨hwf, rfl⟩ (by cases i <;> cases hp <;> rfl) candidatesMicro_pairwise
theorem readsAsConfigure_eq_false (h : ∀ f, i ≠ .moncfgSnapshot f ∧ i ≠ .moncfgSnapshotClear f ∧ i ≠ .moncfgStop f) :
    readsAsConfigure i = false := by
  cases i with
  | moncfgSnapshot f => exact absurd rfl (h f).1
  | moncfgSnapshotClear f => exact absurd rfl (h f).2.1
  | moncfgStop f => exact absurd rfl (h f).2.2
  | _ => rfl

/-- Settles O55: a well-formed instruction is among the candidates of its word (`mem_candidates`), no other candidate accepts
that word but for MONCFG's (`candidates_pairwise`), and what the decoder accepts has the word that it reads. -/
theorem decodeAndEncodeAgree : Obligations.DecodeAndEncodeAgree := by
  refine ⟨fun i hwf c wide hp hm => decodeSyl_encode hwf hp (readsAsConfigure_eq_false hm), fun f hf i hi => ?_,
    fun i hwf hp => decodeMicro_encode hwf hp, fun c wide w i h => accepts_of_firstAccepted (decodeSyl_eq_ok.1 h),
    fun w i h => accepts_of_firstAccepted h⟩
  have hw : encode i = encode (.moncfgConfigure f) := by
    simp only [List.mem_cons, List.not_mem_nil, or_false] at hi
    obtain rfl | rfl | rfl := hi <;> rfl
  exact hw ▸ decodeSyl_encode (i := .moncfgConfigure f) hf rfl rfl

end Sys2Proof
end

section
/-! # A slot whose guard is false (O58)

Every syllable's meaning is its effect under its guard, lane 0 (`State.guarded`) or the lane mask (`State.masked`); only what R98
refuses as an encoding or in its context comes before the guard. -/

namespace Sys2Proof.Machine
variable {s : State} {i j : Instr} {o : Out} {wide : Bool}

/-- The outcome leaves the state as it is, or only raises a fault that R98 keeps under a false guard. -/
def State.nullifies (s : State) (o : Out) : Prop :=
  o = .next s ∨ ∃ code tval, (code = illegalEncoding ∨ code = illegalInContext) ∧ o = .next (s.fault code tval)

theorem guard0_of_slotOff (h : s.slotOff (slotOf i) i = true) (hl : laneGuard (slotOf i) i = false) :
    s.guard0 (guardOf i) = false := by
  simpa [State.slotOff, hl] using h
theorem guardMask_of_slotOff (h : s.slotOff (slotOf i) i = true) (hl : laneGuard (slotOf i) i = true) :
    s.guardMask (guardOf i) = 0 := by
  simpa [State.slotOff, hl] using h
theorem nullifies_guarded {k : State → State} (h : s.slotOff (slotOf i) i = true)
    (hl : laneGuard (slotOf i) i = false) (ho : o = .next (s.guarded (guardOf i) k)) : s.nullifies o :=
  .inl (ho.trans (congrArg _ (if_neg (by simp [guard0_of_slotOff h hl]))))
theorem nullifies_masked {k : BitVec 64 → State → State} (h : s.slotOff (slotOf i) i = true)
    (hl : laneGuard (slotOf i) i = true) (ho : o = .next (s.masked (guardOf i) k)) : s.nullifies o :=
  .inl (ho.trans (congrArg _ (if_pos (guardMask_of_slotOff h hl))))
theorem nullifies_illegal {p : Prop} [Decidable p] {tval : Word} (h : s.nullifies o) :
    s.nullifies (if p then .next (s.fault illegalEncoding tval) else o) := by
  split
  · exact .inr ⟨_, _, .inl rfl, rfl⟩
  · exact h
theorem nullifies_refusedIn {always guarded : Bool} {k : State → State} (h : s.slotOff (slotOf i) i = true)
    (hl : laneGuard (slotOf i) i = false) (ho : o = refusedIn s j (guardOf i) always guarded k) : s.nullifies o := by
  rw [ho, refusedIn]
  split
  · exact .inr ⟨_, _, .inr rfl, rfl⟩
  · exact nullifies_guarded h hl rfl

theorem exec_nullifies_control (hp : placeOf i = .syllable .C wide) (h : s.slotOff (slotOf i) i = true) :
    s.nullifies (exec i s) := by
  cases i <;> cases hp
  case prep | loopImm | loopReg => exact nullifies_illegal (nullifies_guarded h rfl rfl)
  case sync | syncj | syncl | join | joinW | detach | smode | suspend | yield => exact nullifies_refusedIn h rfl rfl
  all_goals exact nullifies_guarded h rfl rfl
theorem exec_nullifies_scalar (hp : placeOf i = .syllable .S wide) (h : s.slotOff (slotOf i) i = true) :
    s.nullifies (exec i s) := by
  cases i <;> cases hp <;> exact nullifies_guarded h rfl rfl
theorem exec_nullifies_scratchpad (hp : placeOf i = .syllable .M wide) (h : s.slotOff (slotOf i) i = true) :
    s.nullifies (exec i s) := by
  cases i <;> cases hp
  case vld | vldWide | vst | vstWide | vldx | vstx => exact nullifies_masked h rfl rfl
  all_goals exact nullifies_guarded h rfl rfl
theorem exec_nullifies_vector (hp : placeOf i = .syllable .V wide) (hi : ignoresGuard i = false)
    (h : s.slotOff (slotOf i) i = true) : s.nullifies (exec i s) := by
  cases i <;> cases hp <;> cases hi <;> exact nullifies_masked h rfl rfl
theorem exec_nullifies_matrix (hp : placeOf i = .syllable .X wide) (h : s.slotOff (slotOf i) i = true) :
    s.nullifies (exec i s) := by
  cases i <;> cases hp
  case zrd | zwr => exact nullifies_masked h rfl rfl
  all_goals exact nullifies_guarded h rfl rfl
theorem exec_nullifies_engine (hp : placeOf i = .syllable .E wide) (h : s.slotOff (slotOf i) i = true) :
    s.nullifies (exec i s) := by
  cases i <;> cases hp
  case copyUnseal | copyUnsealWide => exact nullifies_illegal (nullifies_guarded h rfl rfl)
  all_goals exact nullifies_guarded h rfl rfl

/-- Settles O58, class by class: each instruction's meaning is one of the guarded forms. -/
theorem falseGuardNullifies : Obligations.FalseGuardNullifies := by
  intro i s cl wide hp hi h
  cases cl with
  | C => exact exec_nullifies_control hp h
  | S => exact exec_nullifies_scalar hp h
  | M => exact exec_nullifies_scratchpad hp h
  | V => exact exec_nullifies_vector hp hi h
  | X => exact exec_nullifies_matrix hp h
  | E => exact exec_nullifies_engine hp h

end Sys2Proof.Machine
end

section
/-! # Words written out from the spec's tables (O54) -/

namespace Sys2Proof.Machine

/-- Settles O54: the decoder evaluates each word. -/
theorem wordsDecodeAsWritten : Obligations.WordsDecodeAsWritten := by
  unfold Obligations.WordsDecodeAsWritten
  decide +kernel

end Sys2Proof.Machine
end

section
/-! # The state right after reset (O59)

No table of State.reset lists an entry, so every unit it names is the reset unit of its kind. -/

namespace Sys2Proof.Machine

/-! ### The units at reset -/

@[simp] theorem Tab.get_nil {α : Type} (d : α) (k : Nat) : Tab.get d [] k = d := rfl
@[simp] theorem State.reset_core (c : Nat) : State.reset.core c = Core.reset := Tab.get_nil _ _
@[simp] theorem Core.reset_ctx (x : Nat) : Core.reset.ctx x = Ctx.reset := Tab.get_nil _ _
@[simp] theorem State.reset_ctx (c x : Nat) : State.reset.ctx c x = Ctx.reset := by rw [State.ctx, reset_core, Core.reset_ctx]
@[simp] theorem State.reset_die (d : Nat) : State.reset.die d = Die.reset := Tab.get_nil _ _
@[simp] theorem State.reset_nodeEnt (d i : Nat) : State.reset.nodeEnt d i = NodeEnt.reset := by
  rw [State.nodeEnt, reset_die]; exact Tab.get_nil _ _
@[simp] theorem State.reset_pkg (p : Nat) : State.reset.pkg p = Pkg.reset 0 := Tab.get_nil _ _
@[simp] theorem State.reset_part (p n : Nat) : State.reset.part p n = Part.reset := by
  rw [State.part, reset_pkg]; exact Tab.get_nil _ _
@[simp] theorem State.reset_redWin (p w : Nat) : State.reset.redWin p w = RedWin.reset := by
  rw [State.redWin, reset_pkg]; exact Tab.get_nil _ _

/-! ### What they hold -/

/-- An s register reads 0, s0 and the others alike (R126). -/
theorem Ctx.reset_readS (n : Nat) : Ctx.reset.readS n = 0 := by
  by_cases h : n = 0
  · rw [h, Ctx.readS_zero]
  · rw [Ctx.readS, if_neg h]; exact Tab.get_nil _ _
theorem Memory.wf_empty : Memory.wf ⟨[]⟩ = true := rfl
theorem Memory.read_empty (a : Nat) : Memory.read ⟨[]⟩ a = 0 := cellsRead_nil a
/-- No tag is listed as EMPTY (R192). -/
theorem State.reset_tagFull (c o : Nat) : State.reset.tagFull c o = true := rfl
/-- TIME counts from the reset (R351, R352). -/
theorem State.reset_time (p : Nat) : State.reset.time p = 0 := by
  rw [State.time, reset_pkg]; rfl
theorem RedWin.reset_invalid : RedWin.reset.valid = false := rfl

/-- Settles O59: each unit is the reset unit of its kind, whose fields are the spec's reset values. -/
theorem resetState : Obligations.ResetState := by
  refine ⟨Memory.wf_empty, Memory.read_empty, State.reset_tagFull, fun c => ?ident, fun c x n => ?context,
    State.reset_time, fun d i => ?scheduler, fun p n => ?partition, fun p w => ?window⟩
  case ident => rw [State.reset_core]; exact ⟨rfl, rfl, rfl, rfl, rfl, rfl, rfl, rfl⟩
  case context => rw [State.reset_ctx]; exact ⟨Ctx.reset_readS n, rfl, rfl⟩
  case scheduler => rw [State.reset_nodeEnt, State.reset_die]; exact ⟨rfl, rfl⟩
  case partition => rw [State.reset_part]; rfl
  case window => rw [State.reset_redWin, RedWin.reset_invalid]

end Sys2Proof.Machine
end

section
/-! # The integer instructions on registers and immediates (O1, O3)

The wrapping result of an operation on words is the one on their values, reduced to 64 bits. -/

namespace Sys2Proof.Machine

/-- A scalar operation under a true guard sends the value r that its operation comes to. -/
theorem scalarOp_sends {s : State} {g d lat : ℕ} {v : State → Word} {r : Word} (hg : s.guard0 g = true) (hv : v s = r) :
    scalarOp s g d lat v = .next (s.pushS d r 0 lat) :=
  hv ▸ scalarOp_on hg

/-! ### Results as reduced values (R63, R142) -/

theorem add_eq_ofNat (a b : Word) : a + b = BitVec.ofNat 64 (a.toNat + b.toNat) := by
  simp [BitVec.ofNat_add]
theorem add_eq_ofInt (a b : Word) : a + b = BitVec.ofInt 64 (a.toInt + b.toInt) := by
  simp [BitVec.ofInt_add]
theorem sub_eq_ofInt (a b : Word) : a - b = BitVec.ofInt 64 (a.toInt - b.toInt) := by
  rw [Int.sub_eq_add_neg, BitVec.ofInt_add, BitVec.ofInt_neg, BitVec.ofInt_toInt, BitVec.ofInt_toInt, BitVec.sub_eq_add_neg]
theorem mul_eq_ofNat (a b : Word) : a * b = BitVec.ofNat 64 (a.toNat * b.toNat) := by
  simp [BitVec.ofNat_mul]
theorem and_eq_ofNat (a b : Word) : a &&& b = BitVec.ofNat 64 (a.toNat &&& b.toNat) := by
  simp [BitVec.ofNat_and]
theorem or_eq_ofNat (a b : Word) : a ||| b = BitVec.ofNat 64 (a.toNat ||| b.toNat) := by
  simp [BitVec.ofNat_or]
theorem xor_eq_ofNat (a b : Word) : a ^^^ b = BitVec.ofNat 64 (a.toNat ^^^ b.toNat) := by
  simp [BitVec.ofNat_xor]
theorem shiftLeft_eq_ofNat (a : Word) (n : ℕ) : a <<< n = BitVec.ofNat 64 (a.toNat * 2 ^ n) :=
  BitVec.eq_of_toNat_eq (by rw [BitVec.toNat_shiftLeft, Nat.shiftLeft_eq, BitVec.toNat_ofNat])
theorem ushiftRight_eq_ofNat (a : Word) (n : ℕ) : a >>> n = BitVec.ofNat 64 (a.toNat / 2 ^ n) := by
  rw [← Nat.shiftRight_eq_div_pow, ← BitVec.toNat_ushiftRight, BitVec.ofNat_toNat, BitVec.setWidth_eq]
theorem sshiftRight_eq_ofInt (a : Word) (n : ℕ) : a.sshiftRight n = BitVec.ofInt 64 (a.toInt / 2 ^ n) := by
  rw [BitVec.sshiftRight_eq, Int.shiftRight_eq_div_pow, Nat.cast_pow, Nat.cast_ofNat]
theorem ite_le_eq_ofInt_min (a b : Word) : (if a.toInt ≤ b.toInt then a else b) = BitVec.ofInt 64 (min a.toInt b.toInt) := by
  rw [min_def, apply_ite (BitVec.ofInt 64), BitVec.ofInt_toInt, BitVec.ofInt_toInt]
theorem ite_le_eq_ofInt_max (a b : Word) : (if a.toInt ≤ b.toInt then b else a) = BitVec.ofInt 64 (max a.toInt b.toInt) := by
  rw [max_def, apply_ite (BitVec.ofInt 64), BitVec.ofInt_toInt, BitVec.ofInt_toInt]
theorem ite_le_eq_ofNat_min (a b : Word) : (if a.toNat ≤ b.toNat then a else b) = BitVec.ofNat 64 (min a.toNat b.toNat) := by
  rw [min_def, apply_ite (BitVec.ofNat 64), BitVec.ofNat_toNat, BitVec.ofNat_toNat, BitVec.setWidth_eq, BitVec.setWidth_eq]
theorem ite_le_eq_ofNat_max (a b : Word) : (if a.toNat ≤ b.toNat then b else a) = BitVec.ofNat 64 (max a.toNat b.toNat) := by
  rw [max_def, apply_ite (BitVec.ofNat 64), BitVec.ofNat_toNat, BitVec.ofNat_toNat, BitVec.setWidth_eq, BitVec.setWidth_eq]

/-- Settles O1: each instruction sends what its operation comes to, and that is the reduced value of R142. -/
theorem scalarRegisterResults : Obligations.ScalarRegisterResults := by
  unfold Obligations.ScalarRegisterResults
  intro f s hg
  refine ⟨?add, ?sub, ?mul, ?and, ?or, ?xor, ?shl, ?shr, ?sar, ?min, ?max, ?umin, ?umax⟩
  case add => exact scalarOp_sends hg (add_eq_ofNat _ _)
  case sub => exact scalarOp_sends hg (sub_eq_ofInt _ _)
  case mul => exact scalarOp_sends hg (mul_eq_ofNat _ _)
  case and => exact scalarOp_sends hg (and_eq_ofNat _ _)
  case or => exact scalarOp_sends hg (or_eq_ofNat _ _)
  case xor => exact scalarOp_sends hg (xor_eq_ofNat _ _)
  case shl => exact scalarOp_sends hg (shiftLeft_eq_ofNat _ _)
  case shr => exact scalarOp_sends hg (ushiftRight_eq_ofNat _ _)
  case sar => exact scalarOp_sends hg (sshiftRight_eq_ofInt _ _)
  case min => exact scalarOp_sends hg (ite_le_eq_ofInt_min _ _)
  case max => exact scalarOp_sends hg (ite_le_eq_ofInt_max _ _)
  case umin => exact scalarOp_sends hg (ite_le_eq_ofNat_min _ _)
  case umax => exact scalarOp_sends hg (ite_le_eq_ofNat_max _ _)

/-! ### Immediates (R143, R145) -/

/-- SX of a field is its signed value, reduced to 64 bits (R6). -/
theorem sx_eq_ofInt (n x : ℕ) : sx n x = BitVec.ofInt 64 (BitVec.ofNat n x).toInt := rfl
theorem add_sx_eq_ofInt {n : ℕ} (hn : n ≤ 64) (a : Word) (x : ℕ) :
    a + sx n x = BitVec.ofInt 64 (a.toInt + (BitVec.ofNat n x).toInt) := by
  rw [add_eq_ofInt, sx, BitVec.toInt_signExtend_of_le hn]
/-- ADDI, ANDI, ORI and XORI of either form, whose immediate has n bits. -/
theorem scalarImm_sends {s : State} {g d a n i : ℕ} (hn : n ≤ 64) (hg : s.guard0 g = true) :
    scalarImm s g d a (sx n i) (· + ·) =
      .next (s.pushS d (BitVec.ofInt 64 ((s.readS a).toInt + (BitVec.ofNat n i).toInt)) 0 1)
    ∧ scalarImm s g d a (sx n i) (· &&& ·) = .next (s.pushS d (s.readS a &&& BitVec.ofInt 64 (BitVec.ofNat n i).toInt) 0 1)
    ∧ scalarImm s g d a (sx n i) (· ||| ·) = .next (s.pushS d (s.readS a ||| BitVec.ofInt 64 (BitVec.ofNat n i).toInt) 0 1)
    ∧ scalarImm s g d a (sx n i) (· ^^^ ·) = .next (s.pushS d (s.readS a ^^^ BitVec.ofInt 64 (BitVec.ofNat n i).toInt) 0 1) := by
  rw [← sx_eq_ofInt, ← add_sx_eq_ofInt hn]
  exact ⟨scalarOp_on hg, scalarOp_on hg, scalarOp_on hg, scalarOp_on hg⟩
/-- The wide MOVI with H = 0 extends its immediate's sign, with H = 1 it extends it by zeros. -/
theorem ite_sx_eq_ofInt {h i : ℕ} (hi : i < 2 ^ 32) : (if h = 0 then sx 32 i else BitVec.ofNat 64 (i % 2 ^ 32)) =
    BitVec.ofInt 64 (if h = 0 then (BitVec.ofNat 32 i).toInt else i) := by
  rw [Nat.mod_eq_of_lt hi, apply_ite (BitVec.ofInt 64), sx_eq_ofInt, BitVec.ofInt_natCast]

/-! ### Integer compares (R148) -/

/-- The model's condition is the comparison of R148. -/
theorem condInt_iff (cond : ℕ) (a b : Word) : condInt cond a b = true ↔ intCondition cond a b := by
  unfold condInt intCondition
  split <;> simp
/-- What the compares come to under a true guard: 64 bits equal to the condition. -/
theorem compare_sends {s : State} {g p : ℕ} {c : State → Bool} (hg : s.guard0 g = true) :
    (.next (s.guarded g fun s => s.pushP p (allBits (c s)) 0 1) : Out) =
      .next (s.pushP p (if c s then BitVec.allOnes 64 else 0) 0 1) := by
  rw [State.guarded_of_guard0 hg, allBits]
theorem exec_cmp_int {f : FmtSC} (hf : f.f = 0) (s : State) : exec (.cmp f) s =
    .next (s.guarded f.g fun s => s.pushP f.pd (allBits (condInt f.cond (s.readS f.a) (s.readS f.b))) 0 1) := by
  rw [exec_cmp, execCmp]
  simp only [if_pos hf]

/-- Settles O3, format by format: what the operation comes to, with its immediate extended, and each condition of a compare. -/
theorem scalarImmediatesAndCompares : Obligations.ScalarImmediatesAndCompares := by
  unfold Obligations.ScalarImmediatesAndCompares
  refine ⟨⟨?short, ?wide, ?shift, ?movi, ?moviWide, ?moviHi, ?sel⟩, ?cmp, ?cmpi, ?cmpiWide⟩
  case short =>
    intro f s hg
    exact scalarImm_sends (by decide) hg
  case wide =>
    intro f s hg
    exact scalarImm_sends (by decide) hg
  case shift =>
    intro f s hg
    exact ⟨scalarOp_sends hg (shiftLeft_eq_ofNat _ _), scalarOp_sends hg (ushiftRight_eq_ofNat _ _),
      scalarOp_sends hg (sshiftRight_eq_ofInt _ _)⟩
  case movi =>
    intro f s hg
    exact scalarOp_sends hg (sx_eq_ofInt 17 f.i)
  case moviWide =>
    intro f s hg hi
    exact scalarOp_sends hg (ite_sx_eq_ofInt hi)
  case moviHi =>
    intro f s hg hi
    exact scalarOp_sends hg (by rw [Nat.mod_eq_of_lt hi])
  case sel =>
    intro f s hg
    exact scalarOp_on hg
  case cmp =>
    intro f s hg hf _
    exact ⟨_, (exec_cmp_int hf s).trans (compare_sends hg), condInt_iff _ _ _⟩
  case cmpi =>
    intro f s hg _
    exact ⟨_, compare_sends hg, condInt_iff _ _ _⟩
  case cmpiWide =>
    intro f s hg _
    exact ⟨_, compare_sends hg, condInt_iff _ _ _⟩

end Sys2Proof.Machine
end

section
/-! # The integer vector instructions (O7)

An element-wise instruction sends the vector whose enabled elements its operation computes, with the union of their flags
(`vecOp_sends`); of the integer operations only what each computes of two elements remains to be said. -/

namespace Sys2Proof.Machine

/-! ### Elements, and their flags -/

theorem elemOf_lt (w : ℕ) (v : VecWord) (e : ℕ) : elemOf w v e < 2 ^ w := Nat.mod_lt _ (Nat.two_pow_pos w)
/-- A broadcast element is the low bits of the scalar (R159). -/
theorem elemOf_broadcast {w e : ℕ} (x : Word) (he : e < 2048 / w) : elemOf w (broadcast w x) e = x.toNat % 2 ^ w := by
  rw [broadcast, elemOf_ofElems w _ e (by simpa using Nat.mul_div_le 2048 w) (by simpa using he), List.getElem_replicate, Nat.mod_mod]
theorem elemOf_operandB {s : State} {w b bs sb e : ℕ} {v : ℕ → VecWord} (he : e < 2048 / w) :
    elemOf w (operandB s w b bs sb v) e = if bs = 0 then elemOf w (v b) e else (s.readS sb).toNat % 2 ^ w := by
  unfold operandB
  split
  · rfl
  · exact elemOf_broadcast _ he
/-- The union of a list's flags has a flag where one of them has it (R70). -/
theorem getLsbD_foldl_or {α : Type} (flag : α → BitVec 5) (l : List α) (f : BitVec 5) (k : ℕ) :
    (l.foldl (fun acc r => acc ||| flag r) f).getLsbD k = true ↔ f.getLsbD k = true ∨ ∃ r ∈ l, (flag r).getLsbD k = true := by
  induction l generalizing f with
  | nil => simp
  | cons r l ih => rw [List.foldl_cons, ih, BitVec.getLsbD_or, Bool.or_eq_true]; simp [or_assoc]
theorem mapElems_flags (w : ℕ) (m : BitVec 64) (f : ℕ → ℕ × BitVec 5) (k : ℕ) : (mapElems w m f).2.getLsbD k = true ↔
    ∃ e, e < 2048 / w ∧ elemOn w m e = true ∧ (f e).2.getLsbD k = true := by
  have hflag (e : ℕ) : (if elemOn w m e then f e else (0, 0)).2.getLsbD k = true ↔ elemOn w m e = true ∧ (f e).2.getLsbD k = true := by
    split <;> simp [*]
  rw [mapElems, getLsbD_foldl_or fun r : ℕ × BitVec 5 => r.2, or_iff_right (by simp)]
  simp only [List.mem_map, List.mem_range, exists_exists_and_eq_and, hflag]

/-! ### An element-wise instruction (R155, R158) -/

/-- What an instruction sends that computes each enabled element by `F`, in terms of what it says of the elements. -/
theorem vectorFlagged_of_vecOp {i : Instr} {s : State} {g d w lat : ℕ} {regs : List ℕ}
    {F f : State → (ℕ → VecWord) → ℕ → ℕ × BitVec 5} (he : exec i s = vecOp s g d lat w regs F)
    (hf : ∀ q v e, e < 2048 / w → F q v e = f q v e) : vectorFlagged i s g regs d w lat f := by
  intro hg
  refine ⟨_, _, he.trans (congrArg _ (if_neg hg)), fun e hlt hon => ?_, fun k _ => ?_⟩
  · rw [mapElems_elem w _ _ e hlt hon, hf _ _ _ hlt]
  · rw [mapElems_flags]
    exact exists_congr fun e => and_congr_right fun hlt => by rw [hf _ _ _ hlt]; rfl
/-- The same of an instruction that raises no flag. -/
theorem vectorResult_of_vecOp {i : Instr} {s : State} {g d w lat : ℕ} {regs : List ℕ}
    {F f : State → (ℕ → VecWord) → ℕ → ℕ} (he : exec i s = vecOp s g d lat w regs fun q v e => (F q v e, 0))
    (hf : ∀ q v e, e < 2048 / w → F q v e % 2 ^ w = f q v e) : vectorResult i s g regs d w lat f := by
  intro hg
  obtain ⟨v, fl, hsend, helem, hflag⟩ := vectorFlagged_of_vecOp he (fun _ _ _ _ => rfl) hg
  have hfl : fl = 0 := BitVec.eq_of_getLsbD_eq fun k hk => by simpa using hflag k hk
  exact ⟨v, hfl ▸ hsend, fun e hlt hon => (helem e hlt hon).trans (hf _ _ _ hlt)⟩

/-! ### Integer operations on two elements (R61, R63, R160) -/

/-- The number that an element is read as (R160). -/
theorem readInt_eq_elementValue {n x : ℕ} (hn : 0 < n) (u : ℕ) (hx : x < 2 ^ n) : readInt n (u != 0) x = elementValue n u x := by
  have hp : 2 ^ n = 2 * 2 ^ (n - 1) := by rw [← pow_succ', Nat.sub_add_cancel hn]
  rcases eq_or_ne u 0 with rfl | hu
  · have hi : (BitVec.ofNat n x).toInt = if 2 ^ (n - 1) ≤ x then (x : ℤ) - 2 ^ n else x := by
      rw [BitVec.toInt_eq_toNat_cond, BitVec.toNat_ofNat, Nat.mod_eq_of_lt hx]
      have hp' : (2 : ℤ) ^ n = (2 ^ n : ℕ) := by push_cast; rfl
      split <;> split <;> omega
    simpa [readInt, elementValue] using hi
  · simp [readInt, elementValue, hu, Nat.mod_eq_of_lt hx]
/-- A number reduced to n bits. -/
theorem toNat_ofInt_eq_narrowed (n u : ℕ) (r : ℤ) : (BitVec.ofInt n r).toNat = narrowed n 0 u r := by
  simp [narrowed]
/-- A number held within the range of n bits and then reduced to them. -/
theorem toNat_ofInt_clampInt {n : ℕ} (sat u : ℕ) (h : sat ≠ 0) (r : ℤ) :
    (BitVec.ofInt n (clampInt n (u != 0) r)).toNat = narrowed n sat u r := by
  rw [BitVec.toNat_ofInt]
  rcases eq_or_ne u 0 with rfl | hu
  · simp [narrowed, h, clampInt]
  · have h0 : 0 ≤ max 0 (min (2 ^ n - 1) r) := le_max_left _ _
    have hlt : max 0 (min (2 ^ n - 1) r) < (2 : ℤ) ^ n := by
      have : (0 : ℤ) < 2 ^ n := by positivity
      omega
    simp [narrowed, h, clampInt, hu, Int.emod_eq_of_lt h0 hlt]
theorem narrowed_lt (n sat u : ℕ) (r : ℤ) : narrowed n sat u r < 2 ^ n := by
  rcases eq_or_ne sat 0 with rfl | h
  · rw [← toNat_ofInt_eq_narrowed]
    exact BitVec.isLt _
  · rw [← toNat_ofInt_clampInt sat u h]
    exact BitVec.isLt _

/-- An operation on elements of n bits comes to `r`, again an element of n bits. -/
def computes (n : ℕ) (op : ℕ → ℕ → ℕ → ℕ) (r : ℕ → ℕ → ℕ) : Prop :=
  ∀ x y, x < 2 ^ n → y < 2 ^ n → op n x y = r x y ∧ r x y < 2 ^ n

theorem computes_satOp {n : ℕ} (hn : 0 < n) (sat u : ℕ) (op : ℤ → ℤ → ℤ) : computes n (satOp sat u op) fun x y =>
    narrowed n sat u (op (elementValue n u x) (elementValue n u y)) := by
  intro x y hx hy
  refine ⟨?_, narrowed_lt _ _ _ _⟩
  rw [satOp, readInt_eq_elementValue hn u hx, readInt_eq_elementValue hn u hy]
  dsimp only
  split
  · next h => rw [h, toNat_ofInt_eq_narrowed]
  · next h => exact toNat_ofInt_clampInt sat u h _
theorem computes_min {n : ℕ} (hn : 0 < n) (u : ℕ) : computes n (minMaxOp true u) fun x y =>
    if elementValue n u x ≤ elementValue n u y then x else y := by
  intro x y hx hy
  refine ⟨?_, by dsimp only; split <;> assumption⟩
  simp [minMaxOp, readInt_eq_elementValue hn u hx, readInt_eq_elementValue hn u hy]
theorem computes_max {n : ℕ} (hn : 0 < n) (u : ℕ) : computes n (minMaxOp false u) fun x y =>
    if elementValue n u x ≤ elementValue n u y then y else x := by
  intro x y hx hy
  refine ⟨?_, by dsimp only; split <;> assumption⟩
  rw [minMaxOp, readInt_eq_elementValue hn u hx, readInt_eq_elementValue hn u hy]
  split <;> simp_all
theorem computes_and {n : ℕ} : computes n (fun _ x y => x &&& y) fun x y => x &&& y :=
  fun _ _ _ hy => ⟨rfl, Nat.and_lt_two_pow _ hy⟩
theorem computes_or {n : ℕ} : computes n (fun _ x y => x ||| y) fun x y => x ||| y :=
  fun _ _ hx hy => ⟨rfl, Nat.or_lt_two_pow hx hy⟩
theorem computes_xor {n : ℕ} : computes n (fun _ x y => x ^^^ y) fun x y => x ^^^ y :=
  fun _ _ hx hy => ⟨rfl, Nat.xor_lt_two_pow hx hy⟩
theorem computes_shl {n : ℕ} : computes n shlOp fun x y => x * 2 ^ (y % n) % 2 ^ n :=
  fun _ _ _ _ => ⟨rfl, Nat.mod_lt _ (Nat.two_pow_pos n)⟩
theorem computes_shr {n : ℕ} : computes n shrOp fun x y => x / 2 ^ (y % n) :=
  fun _ _ hx _ => ⟨rfl, (Nat.div_le_self _ _).trans_lt hx⟩
theorem computes_sar {n : ℕ} (hn : 0 < n) : computes n sarOp fun x y => (elementValue n 0 x / 2 ^ (y % n) % 2 ^ n).toNat := by
  intro x y hx _
  have h : sarOp n x y = (elementValue n 0 x / 2 ^ (y % n) % 2 ^ n).toNat := by
    rw [sarOp, BitVec.toNat_ofInt, ← readInt_eq_elementValue hn 0 hx]
    simp [readInt]
  exact ⟨h, h.symm.trans_lt (BitVec.isLt _)⟩

/-! ### The instructions -/

theorem eWidth_pos (e : ℕ) : 0 < eWidth e := by
  rw [eWidth]
  positivity
theorem vecInt_result {i : Instr} {f : FmtVI} {s : State} {op : ℕ → ℕ → ℕ → ℕ} {r : ℕ → ℕ → ℕ} (he : exec i s = vecInt s f op)
    (hr : computes (eWidth f.e) op r) : vectorResult i s f.g [f.a, f.b] f.d (eWidth f.e) 2
      fun _ v e => r (elemOf (eWidth f.e) (v f.a) e) (elemOf (eWidth f.e) (v f.b) e) := by
  refine vectorResult_of_vecOp (F := fun _ v e => op (eWidth f.e) (elemOf (eWidth f.e) (v f.a) e) (elemOf (eWidth f.e) (v f.b) e))
    he fun q v e _ => ?_
  obtain ⟨hop, hlt⟩ := hr _ _ (elemOf_lt (eWidth f.e) (v f.a) e) (elemOf_lt (eWidth f.e) (v f.b) e)
  rw [hop, Nat.mod_eq_of_lt hlt]
/-- The second operand of a wide one may be a broadcast scalar (R159). -/
theorem vecIntW_result {i : Instr} {f : FmtVIW} {s : State} {op : ℕ → ℕ → ℕ → ℕ} {r : ℕ → ℕ → ℕ} (he : exec i s = vecIntW s f op)
    (hr : computes (eWidth f.e) op r) : vectorResult i s f.g (if f.bs = 0 then [f.a, f.b] else [f.a]) f.d (eWidth f.e) 2
      fun t v e => r (elemOf (eWidth f.e) (v f.a) e)
        (if f.bs = 0 then elemOf (eWidth f.e) (v f.b) e else (t.readS f.sb).toNat % 2 ^ eWidth f.e) := by
  refine vectorResult_of_vecOp (F := fun t v e => op (eWidth f.e) (elemOf (eWidth f.e) (v f.a) e)
    (elemOf (eWidth f.e) (operandB t (eWidth f.e) f.b f.bs f.sb v) e)) he fun q v e hlt => ?_
  obtain ⟨hop, hlt'⟩ := hr _ _ (elemOf_lt (eWidth f.e) (v f.a) e) (elemOf_lt _ (operandB q (eWidth f.e) f.b f.bs f.sb v) e)
  rw [hop, Nat.mod_eq_of_lt hlt', elemOf_operandB hlt]

/-- Settles O7: each instruction is element-wise, and its operation on two elements is that of R160. -/
theorem vectorIntegerResults : Obligations.VectorIntegerResults := by
  unfold Obligations.VectorIntegerResults
  refine ⟨?short, ?wide⟩
  case short =>
    intro f s n iv
    have hn : 0 < n := eWidth_pos f.e
    simp only [List.forall_mem_cons, List.not_mem_nil, false_imp_iff, implies_true, and_true]
    exact ⟨vecInt_result (op := satOp f.s f.u (· + ·)) rfl (computes_satOp hn _ _ _),
      vecInt_result (op := satOp f.s f.u (· - ·)) rfl (computes_satOp hn _ _ _),
      vecInt_result (op := satOp f.s f.u (· * ·)) rfl (computes_satOp hn _ _ _),
      vecInt_result (op := minMaxOp true f.u) rfl (computes_min hn _),
      vecInt_result (op := minMaxOp false f.u) rfl (computes_max hn _),
      vecInt_result (op := fun _ x y => x &&& y) rfl computes_and,
      vecInt_result (op := fun _ x y => x ||| y) rfl computes_or,
      vecInt_result (op := fun _ x y => x ^^^ y) rfl computes_xor,
      vecInt_result (op := shlOp) rfl computes_shl,
      vecInt_result (op := shrOp) rfl computes_shr,
      vecInt_result (op := sarOp) rfl (computes_sar hn)⟩
  case wide =>
    intro f s n iv b
    have hn : 0 < n := eWidth_pos f.e
    simp only [List.forall_mem_cons, List.not_mem_nil, false_imp_iff, implies_true, and_true]
    exact ⟨vecIntW_result (op := satOp f.s f.u (· + ·)) rfl (computes_satOp hn _ _ _),
      vecIntW_result (op := satOp f.s f.u (· - ·)) rfl (computes_satOp hn _ _ _),
      vecIntW_result (op := satOp f.s f.u (· * ·)) rfl (computes_satOp hn _ _ _),
      vecIntW_result (op := minMaxOp true f.u) rfl (computes_min hn _),
      vecIntW_result (op := minMaxOp false f.u) rfl (computes_max hn _),
      vecIntW_result (op := fun _ x y => x &&& y) rfl computes_and,
      vecIntW_result (op := fun _ x y => x ||| y) rfl computes_or,
      vecIntW_result (op := fun _ x y => x ^^^ y) rfl computes_xor,
      vecIntW_result (op := shlOp) rfl computes_shl,
      vecIntW_result (op := shrOp) rfl computes_shr,
      vecIntW_result (op := sarOp) rfl (computes_sar hn)⟩

end Sys2Proof.Machine
end

section
/-! # A number known up to what lies below its last bit (O8, first part)

The four functions of R162 round from a whole part and a sticky bit. Where the whole part holds a bit more than the format and the
half below it, all numbers with that part round alike (`roundedTo_of_between`), so the one rounding is right
(`FpFmt.round_floor_roundedTo`). -/

namespace Sys2Proof.Machine

/-- Numbers between the same two neighbouring multiples of 1/2 are rounded to the same whole number. -/
theorem wholeOf_of_between {rm : ℕ} {x y : ℝ} {j n : ℤ} (hx : (j : ℝ) / 2 < x ∧ x < (j + 1) / 2) (hy : (j : ℝ) / 2 < y ∧ y < (j + 1) / 2)
    (h : wholeOf rm x n) : wholeOf rm y n := by
  have hj : ((j / 2 : ℤ) : ℝ) ≤ j / 2 ∧ ((j : ℝ) + 1) / 2 ≤ ((j / 2 : ℤ) : ℝ) + 1 := by
    have h1 : 2 * (j / 2) ≤ j := by omega
    have h2 : j + 1 ≤ 2 * (j / 2) + 2 := by omega
    rify at h1 h2
    constructor <;> linarith
  have hfloor {z : ℝ} (hz : (j : ℝ) / 2 < z ∧ z < (j + 1) / 2) : ⌊z⌋ = j / 2 :=
    Int.floor_eq_iff.mpr ⟨by linarith, by linarith⟩
  have hceil {z : ℝ} (hz : (j : ℝ) / 2 < z ∧ z < (j + 1) / 2) : ⌈z⌉ = j / 2 + 1 :=
    Int.ceil_eq_iff.mpr ⟨by push_cast; linarith, by push_cast; linarith⟩
  have hsign {z : ℝ} (hz : (j : ℝ) / 2 < z ∧ z < (j + 1) / 2) : 0 ≤ z ↔ 0 ≤ j := by
    refine ⟨fun h0 => ?_, fun h0 => ?_⟩
    · have : (-1 : ℝ) < j := by linarith
      have : (-1 : ℤ) < j := by exact_mod_cast this
      omega
    · have : (0 : ℝ) ≤ j := by exact_mod_cast h0
      linarith
  unfold wholeOf at h ⊢
  split at h
  · obtain ⟨habs, -⟩ := h
    obtain ⟨hlo, hhi⟩ := abs_le.mp habs
    have h1 : 2 * n - 1 ≤ j := by
      have : (2 * n - 1 : ℝ) < j + 1 := by linarith
      have : 2 * n - 1 < j + 1 := by exact_mod_cast this
      omega
    have h2 : j ≤ 2 * n := by
      have : (j : ℝ) < 2 * n + 1 := by linarith
      have : j < 2 * n + 1 := by exact_mod_cast this
      omega
    rify at h1 h2
    have hlt : |y - n| < 1 / 2 := abs_lt.mpr ⟨by linarith, by linarith⟩
    exact ⟨hlt.le, fun he => absurd he hlt.ne⟩
  · rwa [(hfloor hy).trans (hfloor hx).symm, (hceil hy).trans (hceil hx).symm, ← not_le, hsign hy, ← hsign hx, not_le]
  · rwa [hceil hy, ← hceil hx]
  · rwa [hfloor hy, ← hfloor hx]

/-- Between two neighbouring multiples of 2^e no number is a multiple of a half of a larger step 2^q. -/
theorem exists_half_step (neg : Bool) (m : ℕ) {e q : ℤ} (h : e < q) : ∃ j : ℤ, ∀ x : ℝ, (m : ℝ) * 2 ^ e < x → x < (m + 1) * 2 ^ e →
    (j : ℝ) / 2 < signed neg x / 2 ^ q ∧ signed neg x / 2 ^ q < (j + 1) / 2 := by
  obtain ⟨i, hi⟩ := Int.eq_ofNat_of_zero_le (show 0 ≤ q - e - 1 by omega)
  obtain rfl : q = e + i + 1 := by omega
  have hm1 : ((m / 2 ^ i : ℕ) : ℝ) * 2 ^ i ≤ m := by exact_mod_cast Nat.div_mul_le_self m (2 ^ i)
  have hm2 : ((m : ℝ) + 1) ≤ (((m / 2 ^ i : ℕ) : ℝ) + 1) * 2 ^ i := by
    exact_mod_cast Nat.lt_mul_of_div_lt (Nat.lt_succ_self (m / 2 ^ i)) (Nat.two_pow_pos i)
  generalize m / 2 ^ i = c at hm1 hm2
  have key (x : ℝ) (h1 : (m : ℝ) * 2 ^ e < x) (h2 : x < (m + 1) * 2 ^ e) :
      (c : ℝ) / 2 < x / 2 ^ (e + i + 1) ∧ x / 2 ^ (e + i + 1) < ((c : ℝ) + 1) / 2 := by
    have he : (0 : ℝ) < 2 ^ e := zpow_pos two_pos e
    have hq : (2 : ℝ) ^ (e + i + 1) = 2 ^ i * 2 ^ e * 2 := by
      rw [zpow_add_one₀ two_ne_zero, zpow_add₀ two_ne_zero, zpow_natCast, mul_comm ((2 : ℝ) ^ e)]
    rw [hq, ← div_div]
    constructor
    · refine div_lt_div_of_pos_right ?_ two_pos
      rw [lt_div_iff₀ (by positivity)]
      nlinarith
    · refine div_lt_div_of_pos_right ?_ two_pos
      rw [div_lt_iff₀ (by positivity)]
      nlinarith
  cases neg with
  | false => exact ⟨c, fun x h1 h2 => by simpa using key x h1 h2⟩
  | true =>
    refine ⟨-c - 1, fun x h1 h2 => ?_⟩
    obtain ⟨hlo, hhi⟩ := key x h1 h2
    rw [signed_true, neg_div]
    push_cast
    constructor <;> linarith

/-- Numbers with the same whole part, of one bit more than the format's precision, are rounded alike. -/
theorem roundedTo_of_between {t : FpFmt} {rm : ℕ} {fzo neg : Bool} {m : ℕ} {e : ℤ} {x y : ℝ} {p : ℕ × BitVec 5}
    (hm : 2 ^ (t.fw + 1) ≤ m) (hx : (m : ℝ) * 2 ^ e < x ∧ x < (m + 1) * 2 ^ e) (hy : (m : ℝ) * 2 ^ e < y ∧ y < (m + 1) * 2 ^ e)
    (h : roundedTo t rm fzo (signed neg x) p) : roundedTo t rm fzo (signed neg y) p := by
  obtain ⟨k, u, v, neg', hlo, hhi, hneg, hu, hv, hrest⟩ := h
  have he : (0 : ℝ) < 2 ^ e := zpow_pos two_pos e
  have hx0 : 0 < x := lt_of_le_of_lt (by positivity) hx.1
  have hy0 : 0 < y := lt_of_le_of_lt (by positivity) hy.1
  rw [abs_signed neg hx0.le] at hlo hhi
  have hk : e + t.fw + 1 ≤ k := by
    have h1 : (2 : ℝ) ^ (e + t.fw + 1) < 2 ^ (k + 1) := by
      refine lt_of_le_of_lt ?_ (hx.1.trans hhi)
      rw [add_assoc, zpow_add₀ two_ne_zero, mul_comm]
      refine mul_le_mul_of_nonneg_right ?_ he.le
      exact_mod_cast hm
    have := (zpow_lt_zpow_iff_right₀ (one_lt_two : (1 : ℝ) < 2)).mp h1
    omega
  obtain ⟨i, rfl⟩ : ∃ i : ℕ, k = e + i := ⟨(k - e).toNat, by omega⟩
  have hpow (n : ℕ) : (2 : ℝ) ^ (e + n) = (2 ^ n : ℕ) * 2 ^ e := by
    rw [zpow_add₀ two_ne_zero, zpow_natCast, mul_comm]
    push_cast
    rfl
  have hlo' : (2 : ℝ) ^ (e + i) ≤ y := by
    rw [hpow] at hlo ⊢
    have h1 : ((2 ^ i : ℕ) : ℝ) < m + 1 := lt_of_mul_lt_mul_right (hlo.trans_lt hx.2) he.le
    have h2 : 2 ^ i ≤ m := Nat.lt_succ_iff.mp (by exact_mod_cast h1)
    exact (mul_le_mul_of_nonneg_right (Nat.cast_le.mpr h2) he.le).trans hy.1.le
  have hhi' : y < (2 : ℝ) ^ (e + i + 1) := by
    rw [add_assoc, show (i : ℤ) + 1 = (i + 1 : ℕ) by push_cast; rfl, hpow] at hhi ⊢
    have h1 : (m : ℝ) < (2 ^ (i + 1) : ℕ) := lt_of_mul_lt_mul_right (hx.1.trans hhi) he.le
    have h2 : ((m : ℝ) + 1) ≤ (2 ^ (i + 1) : ℕ) := by exact_mod_cast h1
    exact hy.2.trans_le (mul_le_mul_of_nonneg_right h2 he.le)
  obtain ⟨q, hq⟩ : ∃ q, q = max (e + i - t.fw) (t.emin - t.fw) := ⟨_, rfl⟩
  obtain ⟨ju, hju⟩ := exists_half_step neg m (show e < e + i - t.fw by omega)
  obtain ⟨jv, hjv⟩ := exists_half_step neg m (show e < q by omega)
  have hinexact {z : ℝ} (hz : (m : ℝ) * 2 ^ e < z ∧ z < (m + 1) * 2 ^ e) : (v : ℝ) * 2 ^ q ≠ signed neg z := by
    intro h
    obtain ⟨h1, h2⟩ := hjv z hz.1 hz.2
    rw [← h, mul_div_assoc, div_self (zpow_pos two_pos q).ne', mul_one] at h1 h2
    have h3 : jv < 2 * v := by
      have : (jv : ℝ) < 2 * v := by linarith
      exact_mod_cast this
    have h4 : 2 * v < jv + 1 := by
      have : 2 * (v : ℝ) < jv + 1 := by linarith
      exact_mod_cast this
    omega
  rw [← hq] at hv hrest
  obtain ⟨hflush, hbeyond, hin⟩ := hrest
  refine ⟨e + i, u, v, neg', ?_, ?_, ?_, wholeOf_of_between (hju x hx.1 hx.2) (hju y hy.1 hy.2) hu, ?_⟩
  · rwa [abs_signed neg hy0.le]
  · rwa [abs_signed neg hy0.le]
  · rw [hneg]
    cases neg <;> simp [hx0, hy0, hx0.not_gt, hy0.not_gt]
  · rw [← hq]
    refine ⟨wholeOf_of_between (hjv x hx.1 hx.2) (hjv y hy.1 hy.2) hv, hflush, hbeyond, fun h hb => ?_⟩
    obtain ⟨hlt, hval, -, htiny, hnormal⟩ := hin h hb
    exact ⟨hlt, hval, fun hd => absurd hd (hinexact hy), fun _ => htiny (hinexact hx), fun _ => hnormal (hinexact hx)⟩

/-! ### Rounding with a sticky bit -/

/-- Below a step that is not 0, a sticky bit does what one more bit below the last does. -/
theorem roundMag_sticky {k : ℤ} (hk : k < 0) (mode : ℕ) (neg : Bool) (m : ℕ) :
    roundMag mode neg m k true = roundMag mode neg (2 * m + 1) (k - 1) false := by
  obtain ⟨i, rfl⟩ : ∃ i : ℕ, k = -((i : ℤ) + 1) := ⟨(-k - 1).toNat, by omega⟩
  have h1 : ¬ (0 : ℤ) ≤ -((i : ℤ) + 1) := by omega
  have h2 : ¬ (0 : ℤ) ≤ -((i : ℤ) + 1) - 1 := by omega
  have h3 : (-(-((i : ℤ) + 1))).toNat = i + 1 := by omega
  have h4 : (-(-((i : ℤ) + 1) - 1)).toNat = i + 1 + 1 := by omega
  have hd : 2 ^ (i + 1 + 1) = 2 * 2 ^ (i + 1) := pow_succ' 2 (i + 1)
  have he : 2 ^ (i + 1) = 2 * 2 ^ i := pow_succ' 2 i
  have hm : (2 * m + 1) / 2 = m := by omega
  have hdiv : (2 * m + 1) / 2 ^ (i + 1 + 1) = m / 2 ^ (i + 1) := by rw [hd, ← Nat.div_div_eq_div_mul, hm]
  have hmod : (2 * m + 1) % 2 ^ (i + 1 + 1) = 2 * (m % 2 ^ (i + 1)) + 1 := by
    rw [hd, Nat.mod_mul, hm]
    omega
  simp only [roundMag, shiftExact, h1, h2, if_false, h3, h4, hdiv, hmod]
  generalize m % 2 ^ (i + 1) = r
  have hup (b : Bool) : (decide (2 ^ (i + 1) < 2 * r) || (2 * r == 2 ^ (i + 1) && (true || b))) =
      (decide (2 ^ (i + 1 + 1) < 2 * (2 * r + 1)) || (2 * (2 * r + 1) == 2 ^ (i + 1 + 1) && (false || b))) := by
    rw [hd, he, Bool.eq_iff_iff]
    simp
    omega
  simp only [hup]
  simp

theorem bitLen_two_mul_add_one {m : ℕ} (h : m ≠ 0) : bitLen (2 * m + 1) = bitLen m + 1 := by
  obtain ⟨hpos, hlo, hhi⟩ := bitLen_spec h
  obtain ⟨-, -, hhi'⟩ := bitLen_spec (show 2 * m + 1 ≠ 0 by omega)
  have hle : bitLen (2 * m + 1) ≤ bitLen m + 1 := bitLen_le (by rw [pow_succ]; omega)
  have hlt : 2 ^ bitLen m < 2 ^ bitLen (2 * m + 1) := by
    have : 2 ^ bitLen m = 2 * 2 ^ (bitLen m - 1) := by rw [← pow_succ', Nat.sub_add_cancel hpos]
    omega
  have := (Nat.pow_lt_pow_iff_right (by norm_num)).mp hlt
  omega
/-- Where a significand holds a bit more than the format's, a sticky bit does what one more bit does. -/
theorem FpFmt.round_sticky {t : FpFmt} {m : ℕ} (hm : 2 ^ (t.fw + 1) ≤ m) (rm : ℕ) (fzo neg : Bool) (e : ℤ) :
    t.round rm fzo neg m e true = t.round rm fzo neg (2 * m + 1) (e - 1) false := by
  have h0 : m ≠ 0 := ((Nat.two_pow_pos _).trans_le hm).ne'
  have hlen := bitLen_two_mul_add_one h0
  have hfw : t.fw + 2 ≤ bitLen m := by
    obtain ⟨-, -, hhi⟩ := bitLen_spec h0
    have := (Nat.pow_lt_pow_iff_right (by norm_num)).mp (hm.trans_lt hhi)
    omega
  have htop : e - 1 + ((bitLen m + 1 : ℕ) : ℤ) - 1 = e + bitLen m - 1 := by push_cast; ring
  have hsticky {q : ℤ} (hq : e + bitLen m - 1 - t.fw ≤ q) :
      roundMag rm neg m (e - q) true = roundMag rm neg (2 * m + 1) (e - 1 - q) false := by
    rw [roundMag_sticky (by omega), sub_right_comm]
  unfold FpFmt.round
  simp only [h0, if_false, show 2 * m + 1 ≠ 0 by omega, hlen, htop, hsticky le_rfl, hsticky (le_max_left _ _)]
/-- A number of which the whole part is known, and whether it is more, is rounded once. -/
theorem FpFmt.round_floor_roundedTo {t : FpFmt} (ht : t ∈ fpFormats) {rm : ℕ} (hrm : rm < 4) (fzo neg : Bool) {m : ℕ} {e : ℤ} {s : Bool}
    {x : ℝ} (hm : 2 ^ (t.fw + 1) ≤ m) (hlo : (m : ℝ) * 2 ^ e ≤ x) (hhi : x < (m + 1) * 2 ^ e) (hs : s = false ↔ x = m * 2 ^ e) :
    roundedTo t rm fzo (signed neg x) (t.round rm fzo neg m e s) := by
  have h0 : m ≠ 0 := ((Nat.two_pow_pos _).trans_le hm).ne'
  cases s with
  | false =>
    rw [hs.mp rfl]
    exact round_roundedTo ht hrm h0 fzo neg e
  | true =>
    have hlt : (m : ℝ) * 2 ^ e < x := lt_of_le_of_ne hlo fun h => Bool.noConfusion (hs.mpr h.symm)
    rw [round_sticky hm]
    refine roundedTo_of_between (x := ((2 * m + 1 : ℕ) : ℝ) * 2 ^ (e - 1)) hm ?_ ⟨hlt, hhi⟩
      (round_roundedTo ht hrm (by omega) fzo neg _)
    have hp : (0 : ℝ) < 2 ^ (e - 1) := zpow_pos two_pos _
    have he : (2 : ℝ) ^ e = 2 ^ (e - 1) * 2 := by rw [← zpow_add_one₀ two_ne_zero, sub_add_cancel]
    rw [he]
    push_cast
    constructor <;> nlinarith

end Sys2Proof.Machine
end

section
/-! # The floating-point vector instructions (O8, second part)

The instructions are element-wise; minima and maxima round the operand they pick, 1/a and 1/√a the whole part of a quotient
(`reciprocal_roundedTo`), 2^a at a whole a and log2 a at a power of two an exact number. -/

namespace Sys2Proof.Machine

/-! ### Minima and maxima (R74, R161) -/

theorem not_isNan_of_fpCompare {a b : FpVal} {c : ℤ} (h : fpCompare a b = some c) : a.isNan = false ∧ b.isNan = false := by
  simpa [not_or] using mt fpCompare_none.mpr (by simp [h] : fpCompare a b ≠ none)
/-- A value is encoded as it is, but for the flush of FZO. -/
theorem FpFmt.encodeExact_spec {t : FpFmt} (ht : t ∈ fpFormats) (fzo : Bool) {w : FpVal} (hw : w.isNan = false) :
    (∀ n, w = .inf n → t.encodeExact fzo w = (t.infOf n, 0))
    ∧ (fpInfinite w = false → roundsOnce t 0 fzo (fpNumber w) w.neg (t.encodeExact fzo w)) := by
  cases w with
  | nan s => cases hw
  | inf n => exact ⟨fun k h => by cases h; rfl, fun h => by cases h⟩
  | fin n m e => exact ⟨fun k h => (by cases h), fun _ => round_roundsOnce ht (by norm_num) fzo n m e⟩
/-- Of two operands the picked one: the first where it lies on the wanted side, or is level and has the wanted sign. -/
theorem pickedOf_minMax {t : FpFmt} (ht : t ∈ fpFormats) (fzo isMin : Bool) (a b : FpVal) :
    pickedOf t fzo isMin a b (t.minMax isMin fzo a b) := by
  unfold pickedOf FpFmt.minMax
  cases h : fpCompare a b with
  | none =>
    refine ⟨fun _ => rfl, fun ha hb => ?_⟩
    rcases fpCompare_none.mp h with hn | hn
    · rw [ha] at hn; cases hn
    · rw [hb] at hn; cases hn
  | some c =>
    obtain ⟨ha, hb⟩ := not_isNan_of_fpCompare h
    obtain ⟨hlt, hgt⟩ := fpCompare_some h
    have hself (x : FpVal) : ¬ fpBelow x x := by cases x with
      | nan s => exact id
      | inf n => cases n <;> simp [fpBelow]
      | fin n m e => exact lt_irrefl _
    refine ⟨fun hn => by simp [ha, hb] at hn, fun _ _ => ?_⟩
    dsimp only
    generalize hf : (if c = 0 then if isMin then a.neg else !a.neg else if isMin then decide (c < 0) else decide (0 < c)) = first
    have hside : if first = isMin then ¬ fpBelow b a else ¬ fpBelow a b := by
      rw [← hlt, ← hgt]
      rcases lt_trichotomy c 0 with hc | rfl | hc
      · have hfirst : first = isMin := by rw [← hf, if_neg hc.ne]; cases isMin <;> simp [hc, hc.le]
        rw [if_pos hfirst]
        exact not_lt.mpr hc.le
      · simp
      · have hfirst : first ≠ isMin := by rw [← hf, if_neg hc.ne']; cases isMin <;> simp [hc, hc.le]
        rw [if_neg hfirst]
        exact not_lt.mpr hc.le
    refine ⟨if first then a else b, by split <;> simp, ?_, ?_, (FpFmt.encodeExact_spec ht fzo (by split <;> assumption)).1,
      (FpFmt.encodeExact_spec ht fzo (by split <;> assumption)).2⟩
    · rintro o (rfl | rfl) <;> cases isMin <;> cases first <;> simp_all
    · intro h1 h2
      obtain rfl : c = 0 := by rw [← hlt] at h1; rw [← hgt] at h2; omega
      rw [if_pos rfl] at hf
      cases isMin <;> cases hn : a.neg <;> simp_all

/-! ### 1/a and 1/√a (R162) -/

theorem FpFmt.fw_le {t : FpFmt} (ht : t ∈ fpFormats) : t.fw ≤ 23 := by
  revert t
  decide
/-- A number that is not 0, rounded once. -/
theorem roundsOnce_of_ne {t : FpFmt} {rm : ℕ} {fzo neg : Bool} {r : ℝ} {p : ℕ × BitVec 5} (h : r ≠ 0) (hr : roundedTo t rm fzo r p) :
    roundsOnce t rm fzo r neg p :=
  ⟨fun _ => hr, fun h0 => absurd h0 h⟩
/-- The whole part r of 2^k / S, with the sticky bit of the division, rounds 1 / (S * 2^h) once. -/
theorem reciprocal_roundedTo {t : FpFmt} (ht : t ∈ fpFormats) {rm : ℕ} (hrm : rm < 4) (fzo neg : Bool) {S : ℝ} {r k : ℕ} {h : ℤ}
    {s : Bool} (hS : 0 < S) (hlo : r * S ≤ 2 ^ k) (hhi : (2 : ℝ) ^ k < (r + 1) * S) (hs : s = false ↔ r * S = 2 ^ k)
    (hprec : 2 ^ (t.fw + 1) * S ≤ 2 ^ k) :
    roundedTo t rm fzo (signed neg (1 / (S * 2 ^ h))) (t.round rm fzo neg r (-(k : ℤ) - h) s) := by
  have hk : (0 : ℝ) < 2 ^ k := by positivity
  have hh : (0 : ℝ) < 2 ^ h := zpow_pos two_pos h
  have hstep : (2 : ℝ) ^ (-(k : ℤ) - h) = 1 / (2 ^ k * 2 ^ h) := by
    rw [zpow_sub₀ two_ne_zero, zpow_neg, zpow_natCast, div_eq_mul_inv, one_div, mul_inv]
  have hr : 2 ^ (t.fw + 1) ≤ r := by
    have h1 : (2 : ℝ) ^ (t.fw + 1) < r + 1 := lt_of_mul_lt_mul_right (hprec.trans_lt hhi) hS.le
    exact Nat.lt_succ_iff.mp (by exact_mod_cast h1)
  refine FpFmt.round_floor_roundedTo ht hrm fzo neg hr ?_ ?_ (hs.trans ?_) <;> rw [hstep, mul_one_div]
  · rw [div_le_div_iff₀ (by positivity) (by positivity)]
    nlinarith
  · rw [div_lt_div_iff₀ (by positivity) (by positivity)]
    nlinarith
  · rw [div_eq_div_iff (by positivity) (by positivity), one_mul, ← mul_assoc, mul_left_inj' hh.ne', eq_comm]
theorem precision_le {t : FpFmt} (ht : t ∈ fpFormats) {m c : ℕ} (hm : m ≠ 0) {S : ℝ} (hS : S ≤ m) (hc : 24 ≤ c) :
    2 ^ (t.fw + 1) * S ≤ 2 ^ (bitLen m + c) := by
  obtain ⟨-, hlt⟩ := bitLen_real hm
  have hfw := FpFmt.fw_le ht
  rw [zpow_natCast] at hlt
  calc 2 ^ (t.fw + 1) * S ≤ 2 ^ (t.fw + 1) * 2 ^ bitLen m := by
        exact mul_le_mul_of_nonneg_left (hS.trans hlt.le) (by positivity)
    _ ≤ 2 ^ c * 2 ^ bitLen m := mul_le_mul_of_nonneg_right (pow_le_pow_right₀ one_le_two (by omega)) (by positivity)
    _ = 2 ^ (bitLen m + c) := by rw [← pow_add, add_comm]
theorem FpFmt.recip_roundsOnce {t : FpFmt} (ht : t ∈ fpFormats) {rm : ℕ} (hrm : rm < 4) (fzo n : Bool) {m : ℕ} (hm : m ≠ 0) (e : ℤ) :
    roundsOnce t rm fzo (1 / ((fpNumber (.fin n m e) : ℚ) : ℝ)) n (t.recip rm fzo (.fin n m e)) := by
  have hm' : (0 : ℝ) < m := Nat.cast_pos.mpr (Nat.pos_of_ne_zero hm)
  have he : (0 : ℝ) < 2 ^ e := zpow_pos two_pos e
  have hx : 1 / ((fpNumber (.fin n m e) : ℚ) : ℝ) = signed n (1 / ((m : ℝ) * 2 ^ e)) := by
    rw [fpNumber_fin]
    cases n <;> simp [signed]
  have hround : t.recip rm fzo (.fin n m e) = t.round rm fzo n (2 ^ (bitLen m + 64) / m) (-((bitLen m + 64 : ℕ) : ℤ) - e)
      (2 ^ (bitLen m + 64) % m != 0) := by
    rw [recip]
    simp only [hm, if_false]
    congr 1
    ring
  have hdm := Nat.div_add_mod (2 ^ (bitLen m + 64)) m
  have hmod := Nat.mod_lt (2 ^ (bitLen m + 64)) (Nat.pos_of_ne_zero hm)
  rw [hx, hround]
  refine roundsOnce_of_ne (by cases n <;> simp [signed, hm, he.ne']) (reciprocal_roundedTo ht hrm fzo n hm' ?_ ?_ ?_ ?_)
  · exact_mod_cast Nat.div_mul_le_self _ m
  · exact_mod_cast Nat.lt_mul_of_div_lt (Nat.lt_succ_self _) (Nat.pos_of_ne_zero hm)
  · rw [bne_eq_false_iff_eq]
    constructor
    · intro h0
      exact_mod_cast Nat.div_mul_cancel (Nat.dvd_of_mod_eq_zero h0)
    · intro h0
      have : 2 ^ (bitLen m + 64) / m * m = 2 ^ (bitLen m + 64) := by exact_mod_cast h0
      rw [mul_comm] at this
      omega
  · exact precision_le ht hm le_rfl (by norm_num)

/-- The whole square root, bit by bit. -/
theorem isqrtFrom_spec (n b r : ℕ) (hlo : r * r ≤ n) (hhi : n < (r + 2 ^ b) * (r + 2 ^ b)) :
    isqrtFrom n b r * isqrtFrom n b r ≤ n ∧ n < (isqrtFrom n b r + 1) * (isqrtFrom n b r + 1) := by
  induction b generalizing r with
  | zero => exact ⟨hlo, hhi⟩
  | succ b ih =>
    rw [isqrtFrom]
    split
    · next h => exact ih _ h (by rw [add_assoc, ← two_mul, ← pow_succ']; exact hhi)
    · next h => exact ih _ hlo (not_le.mp h)
theorem FpFmt.rsqrt_roundsOnce {t : FpFmt} (ht : t ∈ fpFormats) {rm : ℕ} (hrm : rm < 4) (fzo : Bool) {m : ℕ} (hm : m ≠ 0) (e : ℤ) :
    roundsOnce t rm fzo (1 / Real.sqrt ((fpNumber (.fin false m e) : ℚ) : ℝ)) false (t.rsqrt rm fzo (.fin false m e)) := by
  obtain ⟨M, h, hM, hval, hround⟩ : ∃ (M : ℕ) (h : ℤ), M ≠ 0 ∧ (m : ℝ) * 2 ^ e = M * 2 ^ (2 * h)
      ∧ t.rsqrt rm fzo (.fin false m e) = (let k := bitLen M + 40
        let r := isqrtFrom (2 ^ (2 * k) / M) (k + 2) 0
        t.round rm fzo false r (-(k : ℤ) - h) (r * r * M != 2 ^ (2 * k))) := by
    rcases Int.emod_two_eq_zero_or_one e with he | he
    · refine ⟨m, e / 2, hm, by rw [Int.mul_ediv_cancel' (Int.dvd_of_emod_eq_zero he)], ?_⟩
      simp [rsqrt, hm, he]
    · refine ⟨2 * m, (e - 1) / 2, by omega, ?_, ?_⟩
      · rw [show 2 * ((e - 1) / 2) = e - 1 by omega, zpow_sub_one₀ two_ne_zero]
        push_cast
        ring
      · simp [rsqrt, hm, he]
  rw [fpNumber_fin, signed_false, hval, hround]
  clear hval hround
  dsimp only
  obtain ⟨k, hk⟩ : ∃ k, k = bitLen M + 40 := ⟨_, rfl⟩
  rw [← hk]
  obtain ⟨hlo, hhi⟩ := isqrtFrom_spec (2 ^ (2 * k) / M) (k + 2) 0 (Nat.zero_le _) (by
    rw [zero_add, ← pow_add]
    exact (Nat.div_le_self _ _).trans_lt (Nat.pow_lt_pow_right (by norm_num) (by omega)))
  generalize isqrtFrom (2 ^ (2 * k) / M) (k + 2) 0 = r at hlo hhi
  have hMpos : 0 < M := Nat.pos_of_ne_zero hM
  have hS : 0 < Real.sqrt M := Real.sqrt_pos.mpr (Nat.cast_pos.mpr hMpos)
  have hSS : Real.sqrt M ^ 2 = M := Real.sq_sqrt (Nat.cast_nonneg M)
  have hlo' : r ^ 2 * M ≤ (2 ^ k) ^ 2 := by
    rw [← pow_mul, mul_comm k]
    exact (Nat.le_div_iff_mul_le hMpos).mp (by rwa [pow_two])
  have hhi' : (2 ^ k) ^ 2 < (r + 1) ^ 2 * M := by
    rw [← pow_mul, mul_comm k]
    exact (Nat.div_lt_iff_lt_mul hMpos).mp (by rwa [pow_two])
  have hh : (0 : ℝ) < 2 ^ h := zpow_pos two_pos h
  have hsqrt : Real.sqrt (M * 2 ^ (2 * h)) = Real.sqrt M * 2 ^ h := by
    rw [Real.sqrt_mul (Nat.cast_nonneg M), mul_comm 2 h, zpow_mul, zpow_ofNat, Real.sqrt_sq hh.le]
  rw [hsqrt]
  refine roundsOnce_of_ne (by positivity) (reciprocal_roundedTo (neg := false) ht hrm fzo hS ?_ ?_ ?_ ?_)
  · rw [← sq_le_sq₀ (by positivity) (by positivity), mul_pow, hSS]
    exact_mod_cast hlo'
  · rw [← sq_lt_sq₀ (by positivity) (by positivity), mul_pow, hSS]
    exact_mod_cast hhi'
  · rw [bne_eq_false_iff_eq, ← sq_eq_sq₀ (by positivity : (0 : ℝ) ≤ r * Real.sqrt M) (by positivity), mul_pow, hSS, ← pow_two,
      mul_comm 2 k, pow_mul]
    exact_mod_cast Iff.rfl
  · rw [hk]
    exact precision_le ht hM (Real.sqrt_le_self_iff.mpr (.inr (Nat.one_le_cast.mpr hMpos))) (by norm_num)

/-! ### 2^a and log2 a (R162) -/

theorem FpFmt.value_exponent {t : FpFmt} {fzi n : Bool} {x m : ℕ} {e : ℤ} (h : t.value fzi x = .fin n m e) : t.emin - t.fw ≤ e := by
  unfold value at h
  dsimp only at h
  split at h
  · cases h
  · split at h
    · split at h <;> cases h
    · split at h
      · cases h
        exact le_rfl
      · cases h
        rw [emin]
        omega
/-- A power of two rounded at a step that it is a multiple of, with a sticky bit or without one. -/
theorem roundMag_multiple (rm n : ℕ) (s : Bool) :
    roundMag rm false 1 n s = (if s = true ∧ rm = 2 then 2 ^ n + 1 else 2 ^ n, s) := by
  have h : ((0 : ℕ) != 0 || s) = s := by simp
  simp only [roundMag, shiftExact, Int.natCast_nonneg, if_true, Int.toNat_natCast, one_mul, h, Prod.mk.injEq, and_true]
  refine if_congr ?_ rfl rfl
  split_ifs <;> simp_all
/-- A power of two rounded at more than four times its size. -/
theorem roundMag_small (rm n : ℕ) (s : Bool) :
    roundMag rm false 1 (-((n : ℤ) + 2)) s = (if rm = 2 then 1 else 0, true) := by
  have h1 : ¬ (0 : ℤ) ≤ -((n : ℤ) + 2) := by omega
  have h2 : (-(-((n : ℤ) + 2))).toNat = n + 2 := by omega
  have h3 : 2 < 2 ^ (n + 2) := by
    have := Nat.one_le_two_pow (n := n)
    rw [pow_add]
    omega
  simp only [roundMag, shiftExact, h1, if_false, h2, Nat.div_eq_of_lt (show 1 < 2 ^ (n + 2) by omega),
    Nat.mod_eq_of_lt (show 1 < 2 ^ (n + 2) by omega)]
  have hhalf : ¬ 2 ^ (n + 2) < 2 * 1 := by omega
  have htie : (2 * 1 == 2 ^ (n + 2)) = false := beq_eq_false_iff_ne.mpr (by omega)
  by_cases h2 : rm = 2 <;> simp [h2, hhalf, htie]
theorem bitLen_roundMag_multiple (rm n : ℕ) (s : Bool) : 1 ≤ bitLen (roundMag rm false 1 n s).1
    ∧ bitLen (roundMag rm false 1 n s).1 ≤ n + 2 := by
  have hp := Nat.two_pow_pos n
  have hle : 2 ^ n ≤ (roundMag rm false 1 n s).1 ∧ (roundMag rm false 1 n s).1 ≤ 2 ^ n + 1 := by
    rw [roundMag_multiple]
    dsimp only
    split <;> omega
  refine ⟨(bitLen_spec (by omega)).1, bitLen_le ?_⟩
  rw [pow_add]
  omega
/-- A power of two far below the format's least step, or a bit more, is flushed, or rounded to that step or to zero. -/
theorem FpFmt.round_far_below {t : FpFmt} (ht : t ∈ fpFormats) {rm : ℕ} {fzo s : Bool} {k : ℤ} (hk : k ≤ -1024) :
    t.round rm fzo false 1 k s = if fzo then (0, flagUF ||| flagNX) else (if rm = 2 then 1 else 0, flagUF ||| flagNX) := by
  have hfmt : 1 ≤ t.maxFinite ∧ -1000 ≤ t.emin - t.fw := by
    revert t
    decide
  obtain ⟨hmax, hmin⟩ := hfmt
  obtain ⟨-, hlen⟩ := bitLen_roundMag_multiple rm t.fw s
  obtain ⟨i, hi⟩ : ∃ i : ℕ, k - (t.emin - t.fw) = -((i : ℤ) + 2) := ⟨(t.emin - t.fw - 2 - k).toNat, by omega⟩
  have hone : bitLen 1 = 1 := by decide
  have htop : k + ((1 : ℕ) : ℤ) - 1 = k := by push_cast; ring
  have hq : max (k - t.fw) (t.emin - t.fw) = t.emin - t.fw := max_eq_right (by omega)
  have htiny : (bitLen (roundMag rm false 1 t.fw s).1 : ℤ) + (k - t.fw) ≤ t.emin := by omega
  have henc : ¬ (t.maxFinite : ℤ) < ((if rm = 2 then 1 else 0 : ℕ) : ℤ) := by split <;> omega
  simp only [round, hone, htop, sub_sub_cancel, hq, htiny, hi, roundMag_small, sub_self, zero_mul, add_zero, henc]
  cases fzo <;> by_cases h2 : rm = 2 <;> simp [h2]
/-- A power of two far beyond the format's largest value, or a bit more, overflows. -/
theorem FpFmt.round_far_above {t : FpFmt} (ht : t ∈ fpFormats) {rm : ℕ} {fzo s : Bool} {k : ℤ} (hk : 1024 ≤ k) :
    t.round rm fzo false 1 k s =
      (if t.e4m3 then t.maxFinite else if rm = 0 ∨ rm = 2 then t.infBits else t.maxFinite, flagOF ||| flagNX) := by
  have hfmt : t.maxFinite ≤ 1000 * 2 ^ t.fw ∧ t.emin ≤ 0 := by
    revert t
    decide
  obtain ⟨hmax, hmin⟩ := hfmt
  have hfw := fw_le ht
  obtain ⟨hlen, -⟩ := bitLen_roundMag_multiple rm t.fw s
  have hone : bitLen 1 = 1 := by decide
  have htop : k + ((1 : ℕ) : ℤ) - 1 = k := by push_cast; ring
  have hq : max (k - t.fw) (t.emin - t.fw) = k - t.fw := max_eq_left (by omega)
  have htiny : ¬ (bitLen (roundMag rm false 1 t.fw s).1 : ℤ) + (k - t.fw) ≤ t.emin := by omega
  have henc : (t.maxFinite : ℤ) < (roundMag rm false 1 t.fw s).1 + (k - t.fw - (t.emin - t.fw)) * 2 ^ t.fw := by
    have hp : (0 : ℤ) < 2 ^ t.fw := by positivity
    have h1 : (t.maxFinite : ℤ) ≤ 1000 * 2 ^ t.fw := by exact_mod_cast hmax
    nlinarith
  simp only [round, hone, htop, sub_sub_cancel, hq, htiny, henc]
  simp
/-- 2^a at a whole a. -/
theorem FpFmt.exp2_roundsOnce {t : FpFmt} (ht : t ∈ fpFormats) {rm : ℕ} (hrm : rm < 4) (fzo n : Bool) {m : ℕ} (hm : m ≠ 0) {e : ℤ}
    (he : -256 ≤ e) {k : ℤ} (hk : fpNumber (.fin n m e) = k) :
    roundsOnce t rm fzo ((2 : ℝ) ^ k) false (t.exp2 rm fzo (.fin n m e)) := by
  have hnum : ((fpNumber (.fin false 1 k) : ℚ) : ℝ) = 2 ^ k := by simp [fpNumber_fin]
  suffices h : t.exp2 rm fzo (.fin n m e) = t.round rm fzo false 1 k false by
    rw [h, ← hnum]
    exact round_roundsOnce ht hrm fzo false 1 k
  have hsigned : signed n ((m : ℝ) * 2 ^ e) = k := by
    rw [← fpNumber_fin, hk, Rat.cast_intCast]
  have hpos : (0 : ℝ) < m * 2 ^ e := mul_pos (Nat.cast_pos.mpr (Nat.pos_of_ne_zero hm)) (zpow_pos two_pos e)
  rw [exp2]
  simp only [hm, if_false]
  split
  · next hbig =>
    have hlarge : (1024 : ℝ) ≤ m * 2 ^ e := by
      refine le_trans ?_ (leading_bit hm e).1
      have : (2 : ℝ) ^ (10 : ℤ) ≤ 2 ^ (e + bitLen m - 1) := zpow_le_zpow_right₀ one_le_two hbig
      norm_num at this
      exact this
    cases n with
    | false =>
      rw [← signed_false ((m : ℝ) * 2 ^ e), hsigned] at hlarge
      have h1 : 1024 ≤ k := by exact_mod_cast hlarge
      simp only [Bool.false_eq_true, if_false, round_far_above ht h1, round_far_above ht (show (1024 : ℤ) ≤ 2000 by norm_num)]
    | true =>
      have h1 : k ≤ -1024 := by
        have : (k : ℝ) ≤ -1024 := by rw [← hsigned, signed_true]; linarith
        exact_mod_cast this
      simp only [if_true, round_far_below ht h1, round_far_below ht (show (-2000 : ℤ) ≤ -1024 by norm_num)]
  · have hv : (if n = true then -((m : ℤ) * 2 ^ (e + 256).toNat) else (m : ℤ) * 2 ^ (e + 256).toNat) = k * 2 ^ 256 := by
      have hshift : (m : ℝ) * 2 ^ (e + 256).toNat = m * 2 ^ e * 2 ^ 256 := by
        rw [mul_assoc, ← zpow_natCast, Int.toNat_of_nonneg (by omega), zpow_add₀ two_ne_zero]
        norm_cast
      have hreal : signed n ((m : ℝ) * 2 ^ (e + 256).toNat) = k * 2 ^ 256 := by rw [hshift, ← signed_mul, hsigned]
      cases n <;> simp only [signed_true, signed_false] at hreal <;> exact_mod_cast hreal
    have hwhole : k * 2 ^ 256 / 2 ^ 256 = k := Int.mul_ediv_cancel k (by positivity)
    have hfrac : (k * 2 ^ 256 % 2 ^ 256).toNat = 0 := by rw [Int.mul_emod_left]; rfl
    simp only [hv, hwhole, hfrac, if_true]
/-- A whole number is rounded once, and 0 is +0 (R75). -/
theorem FpFmt.ofInt_roundsOnce {t : FpFmt} (ht : t ∈ fpFormats) {rm : ℕ} (hrm : rm < 4) (fzo : Bool) (v : ℤ) :
    roundsOnce t rm fzo (v : ℝ) false (t.ofInt rm fzo v) := by
  obtain ⟨hne, h0⟩ := round_roundsOnce ht hrm fzo (decide (v < 0)) v.natAbs 0
  rw [fpNumber_sign, zpow_zero, mul_one, Rat.cast_intCast] at hne h0
  refine ⟨hne, fun hv => ?_⟩
  obtain rfl : v = 0 := by exact_mod_cast hv
  exact h0 hv
/-- log2 a at a power of two. -/
theorem FpFmt.log2_roundsOnce {t : FpFmt} (ht : t ∈ fpFormats) {rm : ℕ} (hrm : rm < 4) (fzo n : Bool) {m : ℕ} (hm : m ≠ 0) {e k : ℤ}
    (hk : fpNumber (.fin n m e) = (2 : ℚ) ^ k) : roundsOnce t rm fzo (k : ℝ) false (t.log2 rm fzo (.fin n m e)) := by
  have hsigned : signed n ((m : ℝ) * 2 ^ e) = 2 ^ k := by
    rw [← fpNumber_fin, hk]
    push_cast
    rfl
  have hpos : (0 : ℝ) < m * 2 ^ e := mul_pos (Nat.cast_pos.mpr (Nat.pos_of_ne_zero hm)) (zpow_pos two_pos e)
  have hkpos : (0 : ℝ) < 2 ^ k := zpow_pos two_pos k
  obtain rfl : n = false := by
    by_contra hn
    rw [Bool.eq_true_of_not_eq_false hn, signed_true] at hsigned
    linarith
  rw [signed_false] at hsigned
  obtain ⟨hlo, hhi⟩ := leading_bit hm e
  rw [hsigned] at hlo hhi
  have h1 := (zpow_le_zpow_iff_right₀ (one_lt_two : (1 : ℝ) < 2)).mp hlo
  have h2 := (zpow_lt_zpow_iff_right₀ (one_lt_two : (1 : ℝ) < 2)).mp hhi
  obtain ⟨hlen, -, -⟩ := bitLen_spec hm
  have hm2 : m = 2 ^ (bitLen m - 1) := by
    rw [show k = e + bitLen m - 1 by omega, show e + (bitLen m : ℤ) - 1 = ((bitLen m - 1 : ℕ) : ℤ) + e by omega,
      zpow_add₀ two_ne_zero, mul_left_inj' (zpow_pos two_pos e).ne', zpow_natCast] at hsigned
    exact_mod_cast hsigned
  have hlog : t.log2 rm fzo (.fin false m e) = t.ofInt rm fzo k := by
    rw [log2]
    simp only [hm, if_false, Bool.false_eq_true, ← hm2, if_true]
    congr 1
    omega
  rw [hlog]
  exact ofInt_roundsOnce ht hrm fzo k
/-- What R162 says of the four functions, case by case. -/
theorem functionsOf_value {t : FpFmt} (ht : t ∈ fpFormats) (hmin : -256 ≤ t.emin - t.fw) {rm : ℕ} (hrm : rm < 4) (z fzi : Bool) (x : ℕ) :
    functionsOf t rm z (t.value fzi x) := by
  unfold functionsOf
  generalize ha : t.value fzi x = a
  refine ⟨?nan, ?zero, ?inf, ?negInf, ?below, ?number⟩
  case nan =>
    intro hn p hp
    cases a with
    | nan s =>
      have hnv : (FpVal.nan s).nv = if s then flagNV else 0 := by cases s <;> rfl
      rw [hnv]
      simpa only [FpFmt.exp2, FpFmt.log2, FpFmt.recip, FpFmt.rsqrt, List.mem_cons, List.not_mem_nil, or_false, or_self] using hp
    | inf n => cases hn
    | fin n m e => cases hn
  case zero =>
    intro h0
    cases a with
    | nan s => cases h0
    | inf n => cases h0
    | fin n m e =>
      obtain rfl : m = 0 := by simpa [fpZero] using h0
      have hone := FpFmt.round_roundsOnce ht hrm z false 1 0
      rw [show ((fpNumber (.fin false 1 0) : ℚ) : ℝ) = 1 by simp [fpNumber]] at hone
      simp only [FpFmt.exp2, FpFmt.log2, FpFmt.recip, FpFmt.rsqrt, if_true, FpVal.neg_fin, and_true]
      exact hone
  case inf =>
    rintro rfl
    exact ⟨rfl, rfl, rfl, rfl⟩
  case negInf =>
    rintro rfl
    exact ⟨rfl, rfl, rfl, rfl⟩
  case below =>
    rintro ⟨hneg, h0, hinf, hnan⟩
    cases a with
    | nan s => cases hnan
    | inf n => cases hinf
    | fin n m e =>
      have hm : m ≠ 0 := by simpa [fpZero] using h0
      obtain rfl : n = true := hneg
      exact ⟨by simp [FpFmt.log2, hm], by simp [FpFmt.rsqrt, hm]⟩
  case number =>
    rintro n m e rfl hm
    have he : -256 ≤ e := hmin.trans (FpFmt.value_exponent ha)
    refine ⟨FpFmt.recip_roundsOnce ht hrm z n hm e, ?_, fun k =>
      ⟨FpFmt.exp2_roundsOnce ht hrm z n hm he, FpFmt.log2_roundsOnce ht hrm z n hm⟩⟩
    rintro rfl
    exact FpFmt.rsqrt_roundsOnce ht hrm z hm e

/-! ### The instructions (R159, R161) -/

section
variable {i : Instr} {s : State}

theorem vecFp_flagged {f : FmtVF} {op : FpFmt → ℕ → Bool → FpVal → FpVal → ℕ × BitVec 5} (he : exec i s = vecFp s f op) :
    vectorFlagged i s f.g [f.a, f.b] f.d (fpOfT f.t).width 4 fun q v e => op (fpOfT f.t) (q.roundMode 0) (f.fzo != 0)
      ((fpOfT f.t).value (f.fzi != 0) (elemOf (fpOfT f.t).width (v f.a) e))
      ((fpOfT f.t).value (f.fzi != 0) (elemOf (fpOfT f.t).width (v f.b) e)) :=
  vectorFlagged_of_vecOp (F := fun q v e => op (fpOfT f.t) (q.roundMode 0) (f.fzo != 0)
      ((fpOfT f.t).value (f.fzi != 0) (elemOf (fpOfT f.t).width (v f.a) e))
      ((fpOfT f.t).value (f.fzi != 0) (elemOf (fpOfT f.t).width (v f.b) e))) he fun _ _ _ _ => rfl
/-- The value of operand b of a wide form. -/
theorem value_operandB {q : State} {t : FpFmt} {z : Bool} {b bs sb e : ℕ} {v : ℕ → VecWord} (he : e < 2048 / t.width) :
    t.value z (elemOf t.width (operandB q t.width b bs sb v) e) =
      if bs = 0 then t.value z (elemOf t.width (v b) e) else t.value z ((q.readS sb).toNat % 2 ^ t.width) := by
  rw [elemOf_operandB he, apply_ite (t.value z)]
theorem vecFpW_flagged {f : FmtVFW} {op : FpFmt → ℕ → Bool → FpVal → FpVal → ℕ × BitVec 5} (he : exec i s = vecFpW s f op) :
    vectorFlagged i s f.g (if f.bs = 0 then [f.a, f.b] else [f.a]) f.d (fpOfT f.t).width 4 fun q v e =>
      op (fpOfT f.t) (q.roundMode f.rmo) (f.fzo != 0) ((fpOfT f.t).value (f.fzi != 0) (elemOf (fpOfT f.t).width (v f.a) e))
        (if f.bs = 0 then (fpOfT f.t).value (f.fzi != 0) (elemOf (fpOfT f.t).width (v f.b) e)
          else (fpOfT f.t).value (f.fzi != 0) ((q.readS f.sb).toNat % 2 ^ (fpOfT f.t).width)) :=
  vectorFlagged_of_vecOp (F := fun q v e => op (fpOfT f.t) (q.roundMode f.rmo) (f.fzo != 0)
      ((fpOfT f.t).value (f.fzi != 0) (elemOf (fpOfT f.t).width (v f.a) e))
      ((fpOfT f.t).value (f.fzi != 0) (elemOf (fpOfT f.t).width (operandB q (fpOfT f.t).width f.b f.bs f.sb v) e))) he
    fun _ _ _ hlt => by rw [value_operandB hlt]
theorem vecFn_flagged {g d a t fzi fzo rmo : ℕ} {op : FpFmt → ℕ → Bool → FpVal → ℕ × BitVec 5}
    (he : exec i s = vecFn s g d a t fzi fzo rmo op) : vectorFlagged i s g [a] d (fpOfT t).width 12 fun q v e =>
      op (fpOfT t) (q.roundMode rmo) (fzo != 0) ((fpOfT t).value (fzi != 0) (elemOf (fpOfT t).width (v a) e)) :=
  vectorFlagged_of_vecOp (F := fun q v e => op (fpOfT t) (q.roundMode rmo) (fzo != 0)
      ((fpOfT t).value (fzi != 0) (elemOf (fpOfT t).width (v a) e))) he fun _ _ _ _ => rfl
end

/-- Settles O8: each instruction is element-wise by an operation of its format; minima, maxima and the four functions deliver what
R74, R161 and R162 say. -/
theorem vectorFloatResults : Obligations.VectorFloatResults := by
  unfold Obligations.VectorFloatResults
  refine ⟨?short, ?wide, ?values⟩
  case short =>
    intro f s t el z
    simp only [List.forall_mem_cons, List.not_mem_nil, false_imp_iff, implies_true, and_true]
    refine ⟨⟨vecFp_flagged (op := FpFmt.add) rfl, vecFp_flagged (op := fpSub) rfl, vecFp_flagged (op := FpFmt.mul) rfl,
      vecFp_flagged (op := fun t _ => t.minMax true) rfl, vecFp_flagged (op := fun t _ => t.minMax false) rfl⟩, ?_,
      vecFn_flagged (op := FpFmt.exp2) rfl, vecFn_flagged (op := FpFmt.log2) rfl, vecFn_flagged (op := FpFmt.recip) rfl,
      vecFn_flagged (op := FpFmt.rsqrt) rfl⟩
    exact vectorFlagged_of_vecOp (F := fun q v e => t.fma (q.roundMode 0) z (el v f.a e) (el v f.b e) (el v f.d e)) rfl
      fun _ _ _ _ => rfl
  case wide =>
    intro f s t el eb z rs
    simp only [List.forall_mem_cons, List.not_mem_nil, false_imp_iff, implies_true, and_true]
    refine ⟨⟨vecFpW_flagged (op := FpFmt.add) rfl, vecFpW_flagged (op := fpSub) rfl, vecFpW_flagged (op := FpFmt.mul) rfl,
      vecFpW_flagged (op := fun t _ => t.minMax true) rfl, vecFpW_flagged (op := fun t _ => t.minMax false) rfl⟩, ?_,
      vecFn_flagged (op := FpFmt.exp2) rfl, vecFn_flagged (op := FpFmt.log2) rfl, vecFn_flagged (op := FpFmt.recip) rfl,
      vecFn_flagged (op := FpFmt.rsqrt) rfl⟩
    exact vectorFlagged_of_vecOp (F := fun q v e => t.fma (q.roundMode f.rmo) z (el v f.a e)
      (t.value (f.fzi != 0) (elemOf t.width (operandB q t.width f.b f.bs f.sb v) e)) (el v f.vc e)) rfl
      fun _ _ _ hlt => by rw [value_operandB hlt]
  case values =>
    intro t ht rm z fzi x y hrm a b
    have hformats : t ∈ fpFormats ∧ -256 ≤ t.emin - t.fw := by
      revert t
      decide
    obtain ⟨ht', hmin⟩ := hformats
    exact ⟨pickedOf_minMax ht' z true a b, pickedOf_minMax ht' z false a b, functionsOf_value ht' hmin hrm z fzi x⟩

end Sys2Proof.Machine
end

section
/-! # Conversions and predicates (O10)

An element is converted by one rounding, by one whole number held within a range, or by neither (`convertsTo_convertElem`); VCVT
does so to each element of the lanes that it writes (`vecConvert_sends`). -/

namespace Sys2Proof.Machine

/-! ### One element (R75) -/

theorem readInt_eq_elementValue_mod {n : ℕ} (hn : 0 < n) (u : Bool) (x : ℕ) :
    readInt n u x = elementValue n (if u then 1 else 0) (x % 2 ^ n) := by
  have hmod : BitVec.ofNat n (x % 2 ^ n) = BitVec.ofNat n x := BitVec.eq_of_toNat_eq (by simp)
  rw [← readInt_eq_elementValue hn _ (Nat.mod_lt x (Nat.two_pow_pos n))]
  cases u <;> simp [readInt, hmod]
theorem fmtBits_mem (k : ℕ) : fmtBits k ∈ [8, 16, 32, 64] := by
  unfold fmtBits
  split_ifs <;> decide
theorem fmtBits_pos (k : ℕ) : 0 < fmtBits k := by
  have h := fmtBits_mem k
  simp only [List.mem_cons, List.not_mem_nil, or_false] at h
  omega
theorem fpOfFmt_mem (k : ℕ) : fpOfFmt k ∈ fpFormats := by
  unfold fpOfFmt
  split_ifs <;> decide
/-- A number rounded to a whole one and held within the range of n bits. -/
theorem fpToInt_fin {n : ℕ} (u : Bool) {rm : ℕ} (hrm : rm < 4) (s : Bool) (m : ℕ) (e : ℤ) :
    let lo : ℤ := if u then 0 else -(2 ^ (n - 1))
    let hi : ℤ := if u then 2 ^ n - 1 else 2 ^ (n - 1) - 1
    let p := fpToInt n u rm (.fin s m e)
    ∃ w, wholeOf rm (fpNumber (.fin s m e)) w ∧ p.1 = max lo (min hi w) ∧ (p.1 ≠ w → p.2 = flagNV)
      ∧ (p.1 = w → (w = fpNumber (.fin s m e) → p.2 = 0) ∧ (w ≠ fpNumber (.fin s m e) → p.2 = flagNX)) := by
  intro lo hi p
  obtain ⟨w, hw⟩ : ∃ w : ℤ, w = signed s ((roundMag rm s m e false).1 : ℤ) := ⟨_, rfl⟩
  have hp : p = if w < lo then (lo, flagNV) else if hi < w then (hi, flagNV)
      else (w, if (roundMag rm s m e false).2 then flagNX else 0) := by
    rw [hw]
    rfl
  have hrange : lo ≤ hi := by
    have h1 : (1 : ℤ) ≤ 2 ^ n := one_le_pow₀ (by norm_num)
    have h2 : (1 : ℤ) ≤ 2 ^ (n - 1) := one_le_pow₀ (by norm_num)
    cases u
    · simp only [lo, hi, Bool.false_eq_true, if_false]; omega
    · simp only [lo, hi, if_true]; omega
  have hexact : (roundMag rm s m e false).2 = false ↔ (w : ℚ) = fpNumber (.fin s m e) := by
    rw [roundMag_exact, ← signed_inj (neg := s), ← signed_cast, ← hw, ← FpFmt.fpNumber_fin]
    exact_mod_cast Iff.rfl
  refine ⟨w, by rw [FpFmt.fpNumber_fin, hw]; exact wholeOf_roundMag hrm s m e, ?_⟩
  rw [hp]
  rcases lt_or_ge w lo with h1 | h1
  · rw [if_pos h1]
    exact ⟨by omega, fun _ => rfl, fun h => by dsimp only at h; omega⟩
  · rw [if_neg (not_lt.mpr h1)]
    rcases lt_or_ge hi w with h2 | h2
    · rw [if_pos h2]
      exact ⟨by omega, fun _ => rfl, fun h => by dsimp only at h; omega⟩
    · rw [if_neg (not_lt.mpr h2)]
      refine ⟨by omega, fun h => absurd rfl h, fun _ => ⟨fun h => ?_, fun h => ?_⟩⟩
      · simp [hexact.mpr h]
      · simp [mt hexact.mp h]
/-- A value of one format in another. -/
theorem FpFmt.convert_special {t : FpFmt} (ht : t ∈ fpFormats) (rm : ℕ) (fzo : Bool) :
    (∀ s, t.convert rm fzo (.nan s) = (t.nanBits, (FpVal.nan s).nv))
    ∧ ∀ s, t.convert rm fzo (.inf s) = if t.e4m3 then (0x7E + (if s then 0x80 else 0), flagNV) else (t.infOf s, 0) := by
  have he : t.e4m3 = true → t.maxFinite = 0x7E ∧ t.signBit = 0x80 := by
    revert t
    decide
  refine ⟨fun s => by cases s <;> rfl, fun s => ?_⟩
  rw [convert]
  split
  · next h => rw [(he h).1, (he h).2]
  · rfl
theorem convertsTo_convertElem (df sf : ℕ) {rm : ℕ} (hrm : rm < 4) (fzi fzo u sat : Bool) (x : ℕ) :
    convertsTo df sf rm fzi fzo u sat x (convertElem df sf rm fzi fzo u sat x) := by
  have hu : ((if u = true then 1 else 0 : ℕ) != 0) = u := by cases u <;> rfl
  unfold convertsTo convertElem
  dsimp only
  rw [readInt_eq_elementValue_mod (fmtBits_pos sf)]
  generalize elementValue (fmtBits sf) (if u = true then 1 else 0) (x % 2 ^ fmtBits sf) = v
  generalize (fpOfFmt sf).value fzi x = a
  split
  · refine ⟨fun hd => ?_, fun hd => ?_⟩
    · rw [if_pos hd]
      cases sat with
      | false => exact congrArg (·, 0) (toNat_ofInt_eq_narrowed _ _ v)
      | true => rw [if_pos rfl, if_pos rfl, ← toNat_ofInt_clampInt 1 _ one_ne_zero, hu]
    · rw [if_neg (by simp [hd])]
      exact FpFmt.ofInt_roundsOnce (fpOfFmt_mem df) hrm fzo v
  · split
    · refine ⟨(fpToInt (fmtBits df) u rm a).1, BitVec.toNat_ofInt _, fun hn => ?_, ?_, ?_⟩
      · cases a with
        | nan s => exact ⟨rfl, rfl⟩
        | inf s => cases hn
        | fin s m e => cases hn
      · rintro s rfl
        exact ⟨rfl, rfl⟩
      · rintro s m e rfl
        exact fpToInt_fin u hrm s m e
    · obtain ⟨hnan, hinf⟩ := FpFmt.convert_special (fpOfFmt_mem df) rm fzo
      refine ⟨fun hn => ?_, ?_, ?_⟩
      · cases a with
        | nan s => exact hnan s
        | inf s => cases hn
        | fin s m e => cases hn
      · rintro s rfl
        exact hinf s
      · rintro s m e rfl
        exact FpFmt.round_roundsOnce (fpOfFmt_mem df) hrm fzo s m e

/-! ### The lanes of a part (R165) -/

theorem testBit_bitsNat (l : List Bool) (n : ℕ) : (bitsNat l).testBit n = l.getD n false := by
  induction l generalizing n with
  | nil => simp [bitsNat]
  | cons b l ih =>
    cases n with
    | zero => cases b <;> simp [bitsNat]
    | succ n =>
      rw [List.getD_cons_succ, ← ih, Nat.testBit_succ, bitsNat]
      congr 1
      split <;> omega
theorem getLsbD_ofBits_range (f : ℕ → Bool) {n : ℕ} (hn : n < 64) : (ofBits ((List.range 64).map f)).getLsbD n = f n := by
  rw [ofBits, BitVec.getLsbD_ofNat, testBit_bitsNat]
  simp [List.getD_eq_getElem?_getD, hn]
theorem getLsbD_partLanes {ws wd : ℕ} (hws : ws ∈ [8, 16, 32, 64]) (hwd : wd ∈ [8, 16, 32, 64]) (part : ℕ) {n : ℕ} (hn : n < 64) :
    (partLanes ws wd part).getLsbD n = true ↔ (wd < ws → part * (64 * wd / ws) ≤ n ∧ n < (part + 1) * (64 * wd / ws)) := by
  have hcount : ∀ ws ∈ [8, 16, 32, 64], ∀ wd ∈ [8, 16, 32, 64], wd < ws → 2048 / ws * wd / 32 = 64 * wd / ws := by decide
  unfold partLanes
  split
  · next h => rw [getLsbD_ofBits_range _ hn, hcount ws hws wd hwd h, Bool.and_eq_true, decide_eq_true_eq, decide_eq_true_eq]; simp [h]
  · next h => exact iff_of_true (BitVec.getLsbD_allOnes.trans (decide_eq_true hn)) fun hlt => absurd hlt h
theorem vecConvert_sends {s : State} {g : ℕ} (hg : s.guardMask g ≠ 0) (d a df sf part fzi fzo rmo : ℕ) (u sat : Bool) :
    ∃ (v : VecWord) (m : BitVec 64) (fl : BitVec 5),
      vecConvert s g d a df sf part fzi fzo rmo u sat = .next ((s.vecOperands [a]).1.pushV d v m fl 4)
      ∧ conversionOf (s.vecOperands [a]).1 (s.guardMask g) df sf part fzi fzo rmo u sat (vecVal (s.vecOperands [a]).2 a) v m fl := by
  refine ⟨_, _, _, congrArg _ (if_neg hg), fun n hn => ?_, fun e he hm => mapElems_elem _ _ _ _ he hm, fun k _ => mapElems_flags _ _ _ _⟩
  rw [BitVec.getLsbD_and, Bool.and_eq_true, getLsbD_partLanes (fmtBits_mem sf) (fmtBits_mem df) part hn]

/-! ### Predicates (R156, R173) -/

theorem predOp_on {s : State} {g : ℕ} (hg : s.guardMask g ≠ 0) (d : ℕ) (v : State → BitVec 64) :
    predOp s g d v = .next (s.pushP d (v s &&& s.guardMask g) 0 1) :=
  congrArg _ (if_neg hg)
theorem execPmov_of_sel (f : FmtPM) (s : State) : exec (.pmov f) s =
    if f.sel = 0 then predOp s f.g f.d fun s => (s.readP f.a).bits
    else if f.sel = 1 then predOp s f.g f.d fun s => s.readS f.a
    else .next (s.pushS f.d ((s.readP f.a).bits &&& s.guardMask f.g) 0 1) := rfl

/-- Settles O10: VCVT by the conversion of an element, and each predicate instruction by the bits that it sends. -/
theorem conversionsAndPredicates : Obligations.ConversionsAndPredicates := by
  unfold Obligations.ConversionsAndPredicates
  refine ⟨⟨fun f s hg => vecConvert_sends hg .., fun f s hg => vecConvert_sends hg ..⟩,
    fun df sf rm x fzi fzo u sat _ _ hrm => convertsTo_convertElem df sf hrm fzi fzo u sat x,
    fun f s hg => ⟨predOp_on hg _ _, predOp_on hg _ _, predOp_on hg _ _⟩, fun f s hg => predOp_on hg _ _, ?pset, ?pmov⟩
  case pset =>
    intro f s hg
    refine ⟨_, predOp_on hg _ _, fun n hn => ?_⟩
    rw [BitVec.getLsbD_and, Bool.and_eq_true, BitVec.getLsbD_ofNat, Nat.testBit_two_pow_sub_one]
    simp [hn]
  case pmov =>
    intro f s
    rw [execPmov_of_sel]
    refine ⟨fun h hg => ?_, fun h hg => ?_, fun h => ?_⟩
    · rw [if_pos h, predOp_on hg]
    · rw [if_neg (by omega), if_pos h, predOp_on hg]
    · rw [if_neg (by omega), if_neg (by omega)]

end Sys2Proof.Machine
end

section
/-! # Vector compares, moves and permutations (O9, first part) -/

namespace Sys2Proof.Machine

theorem exec_vcmp (f : FmtVC) (s : State) : exec (.vcmp f) s = execVcmp f s := rfl
theorem exec_vlane (f : FmtVL) (s : State) : exec (.vlane f) s = execVlane f s := rfl

/-! ### Lanes -/

/-- A lane is an element of 32 bits (R66). -/
theorem lane_toNat (v : VecWord) (n : ℕ) : (lane v n).toNat = elemOf 32 v n := by
  rw [lane, BitVec.toNat_ofNat, elemOf]
/-- A vector that holds a word in one lane. -/
theorem lane_shifted {n : ℕ} (hn : n < 64) (x : ℕ) : lane (BitVec.ofNat 2048 (x % 2 ^ 32 * 2 ^ (32 * n))) n = BitVec.ofNat 32 x := by
  have hx : x % 2 ^ 32 < 2 ^ 32 := Nat.mod_lt _ (by norm_num)
  have hlt : x % 2 ^ 32 * 2 ^ (32 * n) < 2 ^ 2048 := by
    refine (Nat.mul_lt_mul_of_pos_right hx (Nat.two_pow_pos _)).trans_le ?_
    rw [← pow_add]
    exact pow_le_pow_right₀ one_le_two (by omega)
  refine BitVec.eq_of_toNat_eq ?_
  rw [lane, BitVec.toNat_ofNat, BitVec.toNat_ofNat, Nat.mod_eq_of_lt hlt, Nat.mul_div_cancel _ (Nat.two_pow_pos _), Nat.mod_mod,
    BitVec.toNat_ofNat]

/-! ### Compares (R163) -/

theorem vcmp_sends_int {f : FmtVC} {s : State} (hg : s.guardMask f.g ≠ 0) (hf : f.f = 0) :
    let r := s.vecOperands [f.a, f.b]
    exec (.vcmp f) s = .next (r.1.pushP f.pd (ofBits ((List.range 64).map fun n => (s.guardMask f.g).getLsbD n &&
      vcondInt f.cond (lane (vecVal r.2 f.a) n) (lane (vecVal r.2 f.b) n))) 0 2) := by
  rw [exec_vcmp, execVcmp, State.masked, if_neg hg]
  simp [hf]
theorem vcmp_int {f : FmtVC} {s : State} (hg : s.guardMask f.g ≠ 0) (hf : f.f = 0) : ∃ b : BitVec 64,
    exec (.vcmp f) s = .next ((s.vecOperands [f.a, f.b]).1.pushP f.pd b 0 2)
    ∧ ∀ n, n < 64 → (b.getLsbD n = true ↔ (s.guardMask f.g).getLsbD n = true
      ∧ intCondition f.cond ((lane (vecVal (s.vecOperands [f.a, f.b]).2 f.a) n).signExtend 64)
          ((lane (vecVal (s.vecOperands [f.a, f.b]).2 f.b) n).signExtend 64)) := by
  refine ⟨_, vcmp_sends_int hg hf, fun n hn => ?_⟩
  rw [getLsbD_ofBits_range _ hn, Bool.and_eq_true, vcondInt, condInt_iff]
theorem vcmp_sends_fp {f : FmtVC} {s : State} (hg : s.guardMask f.g ≠ 0) (hf : f.f = 1) :
    let r := s.vecOperands [f.a, f.b]
    let x := fun n => fp32.value (f.fzi != 0) (elemOf 32 (vecVal r.2 f.a) n)
    let y := fun n => fp32.value (f.fzi != 0) (elemOf 32 (vecVal r.2 f.b) n)
    exec (.vcmp f) s = .next (r.1.pushP f.pd (ofBits ((List.range 64).map fun n => (s.guardMask f.g).getLsbD n &&
        vcondFp f.cond (x n) (y n)))
      (if (List.range 64).any fun n => (s.guardMask f.g).getLsbD n && ((x n).nv ||| (y n).nv) != 0 then flagNV else 0) 2) := by
  rw [exec_vcmp, execVcmp, State.masked, if_neg hg]
  simp [hf, lane_toNat]
theorem nv_ne_zero_iff {x : FpVal} : x.nv ≠ 0 ↔ x = .nan true := by
  cases x with
  | nan s => cases s <;> decide
  | inf n => simp
  | fin n m e => simp
theorem nv_or_ne_zero_iff {x y : FpVal} : (x.nv ||| y.nv) ≠ 0 ↔ x = .nan true ∨ y = .nan true := by
  rw [← nv_ne_zero_iff, ← nv_ne_zero_iff]
  exact (not_congr BitVec.or_eq_zero_iff).trans not_and_or
theorem vcmp_fp {f : FmtVC} {s : State} (hg : s.guardMask f.g ≠ 0) (hf : f.f = 1) : ∃ (b : BitVec 64) (nv : Bool),
    let x := fun n => fp32.value (f.fzi != 0) (elemOf 32 (vecVal (s.vecOperands [f.a, f.b]).2 f.a) n)
    let y := fun n => fp32.value (f.fzi != 0) (elemOf 32 (vecVal (s.vecOperands [f.a, f.b]).2 f.b) n)
    exec (.vcmp f) s = .next ((s.vecOperands [f.a, f.b]).1.pushP f.pd b (if nv then flagNV else 0) 2)
    ∧ (∀ n, n < 64 → (b.getLsbD n = true ↔ (s.guardMask f.g).getLsbD n = true
        ∧ fpCondition (if f.cond = 6 then 10 else f.cond) (x n) (y n)))
    ∧ (nv = true ↔ ∃ n, n < 64 ∧ (s.guardMask f.g).getLsbD n = true ∧ (x n = .nan true ∨ y n = .nan true)) := by
  refine ⟨_, _, vcmp_sends_fp hg hf, fun n hn => ?_, ?_⟩
  · rw [getLsbD_ofBits_range _ hn, Bool.and_eq_true, vcondFp, condFp_iff]
  · simp only [List.any_eq_true, List.mem_range, Bool.and_eq_true, bne_iff_ne, nv_or_ne_zero_iff]

/-! ### Element-wise moves (R164, R167, R168, R171) -/

theorem vsel_result (f : FmtVS) (s : State) : vectorResult (.vsel f) s f.g [f.a, f.b] f.d 32 2
    fun q v e => if (q.readP f.p).bits.getLsbD e then elemOf 32 (v f.a) e else elemOf 32 (v f.b) e := by
  refine vectorResult_of_vecOp (F := fun q v e => if (q.readP f.p).bits.getLsbD e then elemOf 32 (v f.a) e else elemOf 32 (v f.b) e)
    rfl fun q v e _ => Nat.mod_eq_of_lt ?_
  split <;> exact elemOf_lt _ _ _
theorem vselWide_result (f : FmtVSW) (s : State) :
    vectorResult (.vselWide f) s f.g (if f.bs = 0 then [f.a, f.b] else [f.a]) f.d 32 2
      fun q v e => if (q.readP f.p).bits.getLsbD e then elemOf 32 (v f.a) e
        else if f.bs = 0 then elemOf 32 (v f.b) e else (q.readS f.sb).toNat % 2 ^ 32 := by
  refine vectorResult_of_vecOp (F := fun q v e => if (q.readP f.p).bits.getLsbD e then elemOf 32 (v f.a) e
    else elemOf 32 (operandB q 32 f.b f.bs f.sb v) e) rfl fun q v e hlt => ?_
  rw [← elemOf_operandB hlt]
  refine Nat.mod_eq_of_lt ?_
  split <;> exact elemOf_lt _ _ _
theorem vperm_result (f : FmtVP) (s : State) : vectorResult (.vperm f) s f.g [f.a, f.x] f.d (eWidth f.e) 2
    fun _ v e => elemOf (eWidth f.e) (v f.a) (elemOf (eWidth f.e) (v f.x) e % (2048 / eWidth f.e)) :=
  vectorResult_of_vecOp (F := fun _ v e => elemOf (eWidth f.e) (v f.a) (elemOf (eWidth f.e) (v f.x) e % (2048 / eWidth f.e)))
    rfl fun _ _ _ _ => Nat.mod_eq_of_lt (elemOf_lt _ _ _)
theorem vbcast_result (f : FmtVB) (s : State) : vectorResult (.vbcast f) s f.g [] f.d (eWidth f.e) 2
    fun q _ _ => (q.readS f.sa).toNat % 2 ^ eWidth f.e :=
  vectorResult_of_vecOp (F := fun q _ _ => (q.readS f.sa).toNat % 2 ^ eWidth f.e) rfl fun _ _ _ _ => Nat.mod_mod _ _
/-- One of the two rounds of R171's hash, on words. -/
def mixWord (y m : BitVec 32) (k : ℕ) : BitVec 32 := y * m ^^^ (y * m) >>> k
/-- The same on the numbers that they hold. -/
def mixNat (y m k : ℕ) : ℕ := y * m % 2 ^ 32 ^^^ y * m % 2 ^ 32 / 2 ^ k
theorem mixNat_toNat (y m : BitVec 32) (k : ℕ) : mixNat y.toNat m.toNat k = (mixWord y m k).toNat := by
  simp only [mixNat, mixWord, BitVec.toNat_xor, BitVec.toNat_mul, BitVec.toNat_ushiftRight, Nat.shiftRight_eq_div_pow]
theorem hash32_eq_mixNat (c k : ℕ) : hash32 c k = mixNat (mixNat (c ^^^ k) 0x2C1B3C6D 12) 0x297A2D39 15 := rfl
theorem hashed_eq_mixWord (c k : BitVec 32) : hashed c k = mixWord (mixWord (c ^^^ k) 0x2C1B3C6D 12) 0x297A2D39 15 := rfl
/-- The model's hash of two words is that of R171. -/
theorem hash32_toNat (c k : BitVec 32) : hash32 c.toNat k.toNat = (hashed c k).toNat := by
  rw [hash32_eq_mixNat, hashed_eq_mixWord, ← mixNat_toNat, ← mixNat_toNat, BitVec.toNat_xor]
  rfl
theorem hash32_eq {c k : ℕ} (hc : c < 2 ^ 32) (hk : k < 2 ^ 32) : hash32 c k = (hashed (BitVec.ofNat 32 c) (BitVec.ofNat 32 k)).toNat := by
  rw [← hash32_toNat, BitVec.toNat_ofNat, BitVec.toNat_ofNat, Nat.mod_eq_of_lt hc, Nat.mod_eq_of_lt hk]
theorem vhash_result (f : FmtVH) (s : State) : vectorResult (.vhash f) s f.g [f.a, f.b] f.d 32 3
    fun _ v e => (hashed (BitVec.ofNat 32 (elemOf 32 (v f.a) e)) (BitVec.ofNat 32 (elemOf 32 (v f.b) e))).toNat := by
  refine vectorResult_of_vecOp (F := fun _ v e => hash32 (elemOf 32 (v f.a) e) (elemOf 32 (v f.b) e)) rfl fun _ v e _ => ?_
  rw [hash32_eq (elemOf_lt _ _ _) (elemOf_lt _ _ _)]
  exact Nat.mod_eq_of_lt (BitVec.isLt _)
theorem vhashWide_result (f : FmtVHW) (s : State) :
    vectorResult (.vhashWide f) s f.g (if f.bs = 0 then [f.a, f.b] else [f.a]) f.d 32 3
      fun q v e => (hashed (BitVec.ofNat 32 (elemOf 32 (v f.a) e))
        (if f.bs = 0 then BitVec.ofNat 32 (elemOf 32 (v f.b) e) else (q.readS f.sb).setWidth 32)).toNat := by
  refine vectorResult_of_vecOp (F := fun q v e => hash32 (elemOf 32 (v f.a) e) (elemOf 32 (operandB q 32 f.b f.bs f.sb v) e)) rfl
    fun q v e hlt => ?_
  have hkey : BitVec.ofNat 32 (elemOf 32 (operandB q 32 f.b f.bs f.sb v) e) =
      if f.bs = 0 then BitVec.ofNat 32 (elemOf 32 (v f.b) e) else (q.readS f.sb).setWidth 32 := by
    rw [elemOf_operandB hlt, apply_ite (BitVec.ofNat 32)]
    refine if_congr Iff.rfl rfl (BitVec.eq_of_toNat_eq (by simp))
  rw [hash32_eq (elemOf_lt _ _ _) (elemOf_lt _ _ _), hkey]
  exact Nat.mod_eq_of_lt (BitVec.isLt _)

/-! ### One lane (R169) -/

theorem vlane_eq {f : FmtVL} {s : State} (hg : s.guardMask f.g ≠ 0) : exec (.vlane f) s = .next (
    if f.d = 0 then
      if (s.guardMask f.g).getLsbD f.lane then
        (s.vecOperands [f.v]).1.pushS f.s ((lane (vecVal (s.vecOperands [f.v]).2 f.v) f.lane).setWidth 64) 0 2
      else (s.vecOperands [f.v]).1
    else s.pushV f.v (BitVec.ofNat 2048 ((s.readS f.s).toNat % 2 ^ 32 * 2 ^ (32 * f.lane)))
      (s.guardMask f.g &&& BitVec.ofNat 64 (2 ^ f.lane)) 0 2) := by
  rw [exec_vlane, execVlane, State.masked, if_neg hg]
theorem vlane_result {f : FmtVL} {s : State} (hg : s.guardMask f.g ≠ 0) (hl : f.lane < 64) :
    (f.d = 0 → (s.guardMask f.g).getLsbD f.lane = true → exec (.vlane f) s =
      .next ((s.vecOperands [f.v]).1.pushS f.s ((lane (vecVal (s.vecOperands [f.v]).2 f.v) f.lane).setWidth 64) 0 2))
    ∧ (f.d = 0 → (s.guardMask f.g).getLsbD f.lane = false → exec (.vlane f) s = .next (s.vecOperands [f.v]).1)
    ∧ (f.d ≠ 0 → ∃ v : VecWord, exec (.vlane f) s =
        .next (s.pushV f.v v (s.guardMask f.g &&& BitVec.ofNat 64 (2 ^ f.lane)) 0 2)
        ∧ lane v f.lane = BitVec.ofNat 32 (s.readS f.s).toNat) := by
  refine ⟨fun hd hon => ?_, fun hd hoff => ?_, fun hd => ⟨_, ?_, lane_shifted hl _⟩⟩
  · rw [vlane_eq hg, if_pos hd, if_pos hon]
  · rw [vlane_eq hg, if_pos hd, hoff, if_neg Bool.false_ne_true]
  · rw [vlane_eq hg, if_neg hd]

end Sys2Proof.Machine
end

section
/-! # Vector reductions and scans (O9, second part)

A reduction folds its list of elements by halves, as the tree of R88 does (`redTree_range`), and a scan takes them in order
(`scanFrom_range`); the model's steps are those of R88 and R166 on elements of the format (`redStep_sum`, `redStep_extreme`). -/

namespace Sys2Proof.Machine

/-! ### The tree and the running results of a list -/

section
variable {step step' : ℕ → ℕ → ℕ × BitVec 5}

theorem redTree_range (n : ℕ) (x : ℕ → Option ℕ × BitVec 5) : redTree step n ((List.range (2 ^ n)).map x) = [treeOf step n x] := by
  induction n generalizing x with
  | zero => rfl
  | succ n ih =>
    have hlen : ((List.range (2 ^ (n + 1))).map x).length / 2 = 2 ^ n := by
      rw [List.length_map, List.length_range, pow_succ]
      omega
    have hlist : (List.range (2 ^ (n + 1))).map x = (List.range (2 ^ n)).map x ++ (List.range (2 ^ n)).map fun i => x (i + 2 ^ n) := by
      rw [pow_succ, mul_two, List.range_add, List.map_append, List.map_map]
      simp only [Function.comp_def, Nat.add_comm]
    have hfst : ((List.range (2 ^ n)).map x).length = 2 ^ n := by simp
    rw [redTree, hlen, hlist, List.take_left' hfst, List.drop_left' hfst, List.zipWith_map, List.zipWith_self, ih]
    rfl
/-- The running result before place k. -/
def scanBefore (step : ℕ → ℕ → ℕ × BitVec 5) (x : ℕ → Option ℕ × BitVec 5) : ℕ → Option ℕ × BitVec 5
  | 0 => (none, 0)
  | k + 1 => scanOf step x k
theorem scanOf_eq (x : ℕ → Option ℕ × BitVec 5) (k : ℕ) : scanOf step x k = redCombine step (scanBefore step x k) (x k) := by
  cases k <;> rfl
theorem scanFrom_range' (x : ℕ → Option ℕ × BitVec 5) (k n : ℕ) :
    scanFrom step (scanBefore step x k) ((List.range' k n).map x) = (List.range' k n).map (scanOf step x) := by
  induction n generalizing k with
  | zero => rfl
  | succ n ih =>
    rw [List.range'_succ, List.map_cons, List.map_cons, scanFrom, ← scanOf_eq]
    exact congrArg _ (ih (k + 1))
theorem scanFrom_range (x : ℕ → Option ℕ × BitVec 5) (n : ℕ) :
    scanFrom step (none, 0) ((List.range n).map x) = (List.range n).map (scanOf step x) := by
  rw [List.range_eq_range']
  exact scanFrom_range' x 0 n

/-- The value of an element, where it is present, has a property. -/
def presentHas (P : ℕ → Prop) (y : Option ℕ × BitVec 5) : Prop := ∀ v, y.1 = some v → P v
/-- Two steps agree on values with a property, which they keep. -/
def stepsAgree (P : ℕ → Prop) (step step' : ℕ → ℕ → ℕ × BitVec 5) : Prop :=
  ∀ x y, P x → P y → step x y = step' x y ∧ P (step x y).1
section
variable {P : ℕ → Prop} (hs : stepsAgree P step step')
include hs

theorem redCombine_congr {y z : Option ℕ × BitVec 5} (hy : presentHas P y) (hz : presentHas P z) :
    redCombine step y z = redCombine step' y z ∧ presentHas P (redCombine step y z) := by
  obtain ⟨y, f⟩ := y
  obtain ⟨z, g⟩ := z
  cases y with
  | none => exact ⟨rfl, hz⟩
  | some a =>
    cases z with
    | none => exact ⟨rfl, hy⟩
    | some b =>
      obtain ⟨heq, hP⟩ := hs a b (hy a rfl) (hz b rfl)
      refine ⟨by simp only [redCombine, heq], fun v hv => ?_⟩
      cases hv
      exact hP
theorem treeOf_congr (n : ℕ) {x : ℕ → Option ℕ × BitVec 5} (hx : ∀ i, presentHas P (x i)) : treeOf step n x = treeOf step' n x := by
  induction n generalizing x with
  | zero => rfl
  | succ n ih =>
    have hpair := fun i => redCombine_congr hs (hx i) (hx (i + 2 ^ n))
    rw [treeOf, treeOf, ih fun i => (hpair i).2]
    exact congrArg _ (funext fun i => (hpair i).1)
theorem scanOf_congr (n : ℕ) {x : ℕ → Option ℕ × BitVec 5} (hx : ∀ i, presentHas P (x i)) :
    scanOf step x n = scanOf step' x n ∧ presentHas P (scanOf step x n) := by
  induction n with
  | zero => exact redCombine_congr hs (fun v hv => by cases hv) (hx 0)
  | succ n ih =>
    obtain ⟨heq, hP⟩ := redCombine_congr hs ih.2 (hx (n + 1))
    exact ⟨by rw [scanOf, scanOf, heq, ih.1], hP⟩
end

/-! ### Absent elements (R88) -/

/-- A tree with no element has no flag. -/
theorem treeOf_none (n : ℕ) {x : ℕ → Option ℕ × BitVec 5} (hx : ∀ i, (x i).1 = none → (x i).2 = 0)
    (h : (treeOf step n x).1 = none) : (treeOf step n x).2 = 0 := by
  induction n generalizing x with
  | zero => exact hx 0 h
  | succ n ih =>
    refine ih (fun i hi => ?_) h
    have h1 := hx i
    have h2 := hx (i + 2 ^ n)
    generalize x i = y at *
    generalize x (i + 2 ^ n) = z at *
    obtain ⟨y, f⟩ := y
    obtain ⟨z, g⟩ := z
    cases y <;> cases z <;> simp_all [redCombine]
theorem treeOf_absent (n : ℕ) : treeOf step n (fun _ => (none, 0)) = (none, 0) := by
  induction n with
  | zero => rfl
  | succ n ih => exact ih
theorem scanOf_absent (n : ℕ) : scanOf step (fun _ => (none, 0)) n = (none, 0) := by
  induction n with
  | zero => rfl
  | succ n ih => rw [scanOf, ih]; rfl
end

/-! ### Elements and steps of a format (R88, R166) -/

theorem presentElem_zero (fm : ℕ) (fzi wide : Bool) (v : VecWord) : presentElem 0 fm fzi wide v = fun _ => (none, 0) := by
  funext e
  simp [presentElem]
theorem redElems_eq (fm : ℕ) (fzi : Bool) (m : BitVec 64) (v : VecWord) :
    redElems fm fzi m v = (List.range (2048 / fmtBits fm)).map (presentElem m fm fzi false v) := rfl
/-- The elements of an integer sum, extended to 32 bits. -/
theorem redElems_extended {fm : ℕ} (hfm : fmtInt fm = true) (fzi : Bool) (m : BitVec 64) (v : VecWord) :
    ((redElems fm fzi m v).map fun x => (x.1.map fun y => (BitVec.ofInt 32 (readInt (fmtBits fm) false y)).toNat, x.2)) =
      (List.range (2048 / fmtBits fm)).map (presentElem m fm fzi true v) := by
  rw [redElems_eq, List.map_map]
  refine List.map_congr_left fun e _ => ?_
  have hx : redIn fm fzi (elemOf (fmtBits fm) v e) = elemOf (fmtBits fm) v e := by simp [redIn, hfm]
  have hval := readInt_eq_elementValue (fmtBits_pos fm) 0 (elemOf_lt (fmtBits fm) v e)
  rw [bne_self_eq_false] at hval
  simp only [Function.comp, presentElem, hx]
  split
  · simp [hval, toNat_ofInt_eq_narrowed 32 0]
  · rfl
/-- An integer of at most n bits. -/
def fits (fm n v : ℕ) : Prop := fmtInt fm = true → v < 2 ^ n
theorem presentElem_fits (m : BitVec 64) (fm : ℕ) (fzi wide : Bool) (v : VecWord) (e : ℕ) :
    presentHas (fits fm (if wide then 32 else fmtBits fm)) (presentElem m fm fzi wide v e) := by
  intro x hx hfm
  have hin : redIn fm fzi (elemOf (fmtBits fm) v e) = elemOf (fmtBits fm) v e := by simp [redIn, hfm]
  rw [presentElem, hin] at hx
  split at hx
  · cases hx
    cases wide
    · exact elemOf_lt _ _ _
    · rw [if_pos rfl]
      exact narrowed_lt 32 0 0 _
  · cases hx
/-- The model's sum, of integers of a format k, is that of `sumStep`. -/
theorem redStep_sum {fm k : ℕ} (hk : k = fm ∨ fmtInt fm = true ∧ fmtInt k = true) (rm : ℕ) (fzo : Bool) :
    stepsAgree (fits fm (fmtBits k)) (redStep 0 k rm fzo) (sumStep fm (fmtBits k) rm fzo) := by
  intro x y hx hy
  cases hfm : fmtInt fm with
  | true =>
    have hint : fmtInt k = true := by rcases hk with rfl | ⟨-, h⟩ <;> assumption
    have heq : redStep 0 k rm fzo x y = sumStep fm (fmtBits k) rm fzo x y := by
      have hvx := readInt_eq_elementValue (fmtBits_pos k) 0 (hx hfm)
      have hvy := readInt_eq_elementValue (fmtBits_pos k) 0 (hy hfm)
      rw [bne_self_eq_false] at hvx hvy
      simp only [redStep, sumStep, hint, hfm, if_true, hvx, hvy, toNat_ofInt_eq_narrowed _ 0]
    refine ⟨heq, fun _ => ?_⟩
    rw [heq, sumStep, if_pos hfm]
    exact narrowed_lt _ 0 0 _
  | false =>
    obtain rfl : k = fm := by rcases hk with rfl | ⟨h, -⟩ <;> simp_all
    exact ⟨by simp [redStep, sumStep, hfm], fun h => by simp [hfm] at h⟩
/-- An element is the low bits of the number that it stands for. -/
theorem toNat_ofInt_elementValue {n x : ℕ} (hn : 0 < n) (hx : x < 2 ^ n) : (BitVec.ofInt n (elementValue n 0 x)).toNat = x := by
  rw [← readInt_eq_elementValue hn 0 hx, readInt, bne_self_eq_false, if_neg Bool.false_ne_true, BitVec.ofInt_toInt, BitVec.toNat_ofNat,
    Nat.mod_eq_of_lt hx]
/-- The greater and the lesser of two elements, by the numbers that they stand for. -/
theorem toNat_ofInt_extreme {n a b : ℕ} (hn : 0 < n) (ha : a < 2 ^ n) (hb : b < 2 ^ n) :
    (BitVec.ofInt n (max (elementValue n 0 a) (elementValue n 0 b))).toNat = (if elementValue n 0 b ≤ elementValue n 0 a then a else b)
    ∧ (BitVec.ofInt n (min (elementValue n 0 a) (elementValue n 0 b))).toNat =
      (if elementValue n 0 a ≤ elementValue n 0 b then a else b) := by
  rw [max_def', min_def, apply_ite (BitVec.ofInt n), apply_ite (BitVec.ofInt n), apply_ite BitVec.toNat, apply_ite BitVec.toNat,
    toNat_ofInt_elementValue hn ha, toNat_ofInt_elementValue hn hb]
  exact ⟨rfl, rfl⟩
/-- The model's maximum and minimum are those of `extremeStep`. -/
theorem redStep_extreme {x : ℕ} (hx : x ≤ 1) (fm rm : ℕ) (fzo : Bool) :
    stepsAgree (fits fm (fmtBits fm)) (redStep (1 + x) fm rm fzo) (extremeStep fm x fzo) := by
  intro a b ha hb
  obtain rfl | rfl : x = 0 ∨ x = 1 := by omega
  all_goals cases hfm : fmtInt fm with
  | true =>
    have hn := fmtBits_pos fm
    have hva := readInt_eq_elementValue hn 0 (ha hfm)
    have hvb := readInt_eq_elementValue hn 0 (hb hfm)
    obtain ⟨hmax, hmin⟩ := toNat_ofInt_extreme hn (ha hfm) (hb hfm)
    rw [bne_self_eq_false] at hva hvb
    refine ⟨by simp [redStep, extremeStep, hfm, hva, hvb, hmax, hmin], fun _ => ?_⟩
    rw [redStep, if_pos hfm]
    exact BitVec.isLt _
  | false => exact ⟨by simp [redStep, extremeStep, hfm], fun h => by simp [hfm] at h⟩

/-! ### What the reductions send -/

variable {s : State} {g d a : ℕ}

theorem wholeResult_sends (lat : ℕ) (f : State → BitVec 64 → VecWord → VecWord × BitVec 5)
    (h : s.guardMask g = 0 → (s.core s.iss.core).bound d = false) :
    let q := wholeOperand s g a
    let v := f q.1 (s.guardMask g) q.2
    wholeResult s g d a lat f = .next (q.1.pushV d v.1 (BitVec.allOnes 64) v.2 lat) := by
  simp only [wholeResult, wholeOperand]
  by_cases hm : s.guardMask g = 0
  · simp only [h hm, if_neg Bool.false_ne_true, hm, if_true]
  · simp only [if_neg hm]
/-- The number of elements of a format is a power of two. -/
theorem elements_pow (fm : ℕ) : 2048 / fmtBits fm = 2 ^ Nat.log2 (2048 / fmtBits fm) := by
  have h := fmtBits_mem fm
  generalize fmtBits fm = w at h
  fin_cases h <;> decide
theorem redTree_elements (step : ℕ → ℕ → ℕ × BitVec 5) (fm : ℕ) (x : ℕ → Option ℕ × BitVec 5) :
    redTree step (Nat.log2 (2048 / fmtBits fm)) ((List.range (2048 / fmtBits fm)).map x) =
      [treeOf step (Nat.log2 (2048 / fmtBits fm)) x] := by
  have h := redTree_range (step := step) (Nat.log2 (2048 / fmtBits fm)) x
  rwa [← elements_pow] at h
/-- +0 is delivered as it is. -/
theorem redDeliver_zero (fm : ℕ) : redDeliver fm 0 = 0 := by
  have hz : ∀ t ∈ fpFormats, (t.value false 0).isNan = false := by decide
  simp [redDeliver, hz _ (fpOfFmt_mem fm)]
theorem redEmpty_extreme {x : ℕ} (hx : x ≤ 1) (fm : ℕ) : redEmpty (1 + x) fm = extremeOfNone fm x := by
  obtain rfl | rfl : x = 0 ∨ x = 1 := by omega
  all_goals rfl
/-- A signal comes with an element only. -/
theorem presentElem_none (m : BitVec 64) (fm : ℕ) (fzi wide : Bool) (v : VecWord) (e : ℕ)
    (h : (presentElem m fm fzi wide v e).1 = none) : (presentElem m fm fzi wide v e).2 = 0 := by
  by_cases hm : m.getLsbD (e * fmtBits fm / 32) = true
  · simp [presentElem, hm] at h
  · simp [presentElem, hm]
/-- The elements that a reduction of a kind reads: those of an integer sum are extended to 32 bits. -/
theorem redElems_read (kind fm : ℕ) (fzi : Bool) (m : BitVec 64) (v : VecWord) :
    (if fmtInt fm && kind == 0 then
      (redElems fm fzi m v).map fun x => (x.1.map fun y => (BitVec.ofInt 32 (readInt (fmtBits fm) false y)).toNat, x.2)
    else redElems fm fzi m v) =
      (List.range (2048 / fmtBits fm)).map (presentElem m fm fzi (fmtInt fm && kind == 0) v) := by
  cases hw : fmtInt fm && kind == 0 with
  | true => exact redElems_extended (Bool.and_eq_true_iff.mp hw).1 fzi m v
  | false => rfl
/-- A reduction writes the root of the tree over the elements of its operand, by any step that agrees with its own. -/
theorem vecReduce_sends {fm kind fzi fzo rmo : ℕ} {step : ℕ → ℕ → ℕ × BitVec 5}
    (h : s.guardMask g = 0 → (s.core s.iss.core).bound d = false)
    (hs : stepsAgree (fits fm (if fmtInt fm && kind == 0 then 32 else fmtBits fm))
      (redStep kind (if fmtInt fm && kind == 0 then 0 else fm) ((wholeOperand s g a).1.roundMode rmo) (fzo != 0)) step) :
    let q := wholeOperand s g a
    let r := treeOf step (Nat.log2 (2048 / fmtBits fm)) (presentElem (s.guardMask g) fm (fzi != 0) (fmtInt fm && kind == 0) q.2)
    vecReduce s g d a fm kind fzi fzo rmo =
      .next (q.1.pushV d (BitVec.ofNat 2048 (r.1.elim (redEmpty kind fm) (redDeliver fm))) (BitVec.allOnes 64) r.2 6) := by
  have htree := treeOf_congr hs (Nat.log2 (2048 / fmtBits fm))
    (presentElem_fits (s.guardMask g) fm (fzi != 0) (fmtInt fm && kind == 0) (wholeOperand s g a).2)
  have hnone := treeOf_none (step := step) (Nat.log2 (2048 / fmtBits fm))
    (presentElem_none (s.guardMask g) fm (fzi != 0) (fmtInt fm && kind == 0) (wholeOperand s g a).2)
  rw [vecReduce, wholeResult_sends 6 _ h]
  simp only [redElems_read, List.length_map, List.length_range, redTree_elements, htree]
  generalize treeOf step _ _ = r at hnone
  obtain ⟨x, fl⟩ := r
  cases x with
  | none => rw [hnone rfl]; rfl
  | some x => rfl
theorem vecReduce_sum {fm fzi fzo rmo : ℕ} (h : s.guardMask g = 0 → (s.core s.iss.core).bound d = false) :
    let q := wholeOperand s g a
    let n := if fmtInt fm then 32 else fmtBits fm
    let r := treeOf (sumStep fm n (q.1.roundMode rmo) (fzo != 0)) (Nat.log2 (2048 / fmtBits fm))
      (presentElem (s.guardMask g) fm (fzi != 0) ((if fmtInt fm then 1 else 0) != 0) q.2)
    vecReduce s g d a fm 0 fzi fzo rmo =
      .next (q.1.pushV d (BitVec.ofNat 2048 (redDeliver fm (r.1.getD 0))) (BitVec.allOnes 64) r.2 6) := by
  have hstep : stepsAgree (fits fm (if fmtInt fm && 0 == 0 then 32 else fmtBits fm))
      (redStep 0 (if fmtInt fm && 0 == 0 then 0 else fm) ((wholeOperand s g a).1.roundMode rmo) (fzo != 0))
      (sumStep fm (if fmtInt fm then 32 else fmtBits fm) ((wholeOperand s g a).1.roundMode rmo) (fzo != 0)) := by
    cases hfm : fmtInt fm with
    | true => exact redStep_sum (k := 0) (.inr ⟨hfm, rfl⟩) _ _
    | false => exact redStep_sum (.inl rfl) _ _
  have hwide : (fmtInt fm && 0 == 0) = ((if fmtInt fm then 1 else 0) != 0) := by cases fmtInt fm <;> rfl
  simp only [vecReduce_sends h hstep, hwide]
  generalize treeOf _ _ _ = r
  obtain ⟨x, fl⟩ := r
  cases x with
  | none => rw [Option.getD_none, redDeliver_zero]; rfl
  | some x => rfl
theorem vecReduce_extreme {fm x fzi fzo rmo : ℕ} (hx : x ≤ 1) (h : s.guardMask g = 0 → (s.core s.iss.core).bound d = false) :
    let q := wholeOperand s g a
    let r := treeOf (extremeStep fm x (fzo != 0)) (Nat.log2 (2048 / fmtBits fm))
      (presentElem (s.guardMask g) fm (fzi != 0) (0 != 0) q.2)
    vecReduce s g d a fm (1 + x) fzi fzo rmo =
      .next (q.1.pushV d (BitVec.ofNat 2048 (r.1.elim (extremeOfNone fm x) (redDeliver fm))) (BitVec.allOnes 64) r.2 6) := by
  have hkind : (fmtInt fm && 1 + x == 0) = false := by simp
  have hstep : stepsAgree (fits fm (if fmtInt fm && 1 + x == 0 then 32 else fmtBits fm))
      (redStep (1 + x) (if fmtInt fm && 1 + x == 0 then 0 else fm) ((wholeOperand s g a).1.roundMode rmo) (fzo != 0))
      (extremeStep fm x (fzo != 0)) := by
    rw [hkind]
    exact redStep_extreme hx fm _ _
  simp only [vecReduce_sends h hstep, hkind, redEmpty_extreme hx]
  rfl

/-! ### What the scans send -/

/-- What VSCAN writes as its elements. -/
def scanElems (excl fm n : ℕ) (y : ℕ → Option ℕ × BitVec 5) : List ℕ :=
  let out := (List.range n).map fun e => redDeliver fm ((y e).1.getD 0)
  if excl = 0 then out else 0 :: out.dropLast
theorem getLast?_elements (fm : ℕ) (y : ℕ → Option ℕ × BitVec 5) :
    ((List.range (2048 / fmtBits fm)).map y).getLast? = some (y (2048 / fmtBits fm - 1)) := by
  have hpos : 0 < 2048 / fmtBits fm := elements_pow fm ▸ Nat.two_pow_pos _
  rw [List.getLast?_map, List.getLast?_range, if_neg hpos.ne']
  rfl
theorem vecScan_sends {fm excl fzi fzo rmo : ℕ} (h : s.guardMask g = 0 → (s.core s.iss.core).bound d = false) :
    let q := wholeOperand s g a
    let n := 2048 / fmtBits fm
    let y := scanOf (sumStep fm (fmtBits fm) (q.1.roundMode rmo) (fzo != 0)) (presentElem (s.guardMask g) fm (fzi != 0) (0 != 0) q.2)
    vecScan s g d a fm excl fzi fzo rmo =
      .next (q.1.pushV d (ofElems (fmtBits fm) (scanElems excl fm n y)) (BitVec.allOnes 64) (y (n - 1)).2 6) := by
  have hscan : scanOf (redStep 0 fm ((wholeOperand s g a).1.roundMode rmo) (fzo != 0))
      (presentElem (s.guardMask g) fm (fzi != 0) false (wholeOperand s g a).2) =
        scanOf (sumStep fm (fmtBits fm) ((wholeOperand s g a).1.roundMode rmo) (fzo != 0))
          (presentElem (s.guardMask g) fm (fzi != 0) false (wholeOperand s g a).2) :=
    funext fun n => (scanOf_congr (redStep_sum (.inl rfl) _ _) n (presentElem_fits _ fm _ false _)).1
  rw [vecScan, wholeResult_sends 6 _ h]
  simp only [redElems_eq, scanFrom_range, hscan, List.map_map, getLast?_elements]
  rfl
theorem scanElems_length {fm n : ℕ} (hn : 0 < n) (excl : ℕ) (y : ℕ → Option ℕ × BitVec 5) : (scanElems excl fm n y).length = n := by
  unfold scanElems
  split <;> simp
  omega
theorem scanElems_elem {fm e : ℕ} (he : e < 2048 / fmtBits fm) (excl : ℕ) (y : ℕ → Option ℕ × BitVec 5) :
    elemOf (fmtBits fm) (ofElems (fmtBits fm) (scanElems excl fm (2048 / fmtBits fm) y)) e =
      (scanElems excl fm (2048 / fmtBits fm) y)[e]'((scanElems_length (Nat.zero_lt_of_lt he) excl y).symm ▸ he) % 2 ^ fmtBits fm := by
  refine elemOf_ofElems _ _ _ ?_ _
  rw [scanElems_length (Nat.zero_lt_of_lt he)]
  exact Nat.mul_div_le _ _
/-- An inclusive scan writes each running result. -/
theorem scan_inclusive {fm e : ℕ} (he : e < 2048 / fmtBits fm) (y : ℕ → Option ℕ × BitVec 5) :
    elemOf (fmtBits fm) (ofElems (fmtBits fm) (scanElems 0 fm (2048 / fmtBits fm) y)) e =
      redDeliver fm ((y e).1.getD 0) % 2 ^ fmtBits fm := by
  rw [scanElems_elem he]
  simp [scanElems]
theorem scan_exclusive_zero {fm excl : ℕ} (hx : excl ≠ 0) (h0 : 0 < 2048 / fmtBits fm) (y : ℕ → Option ℕ × BitVec 5) :
    elemOf (fmtBits fm) (ofElems (fmtBits fm) (scanElems excl fm (2048 / fmtBits fm) y)) 0 = 0 := by
  rw [scanElems_elem h0]
  simp [scanElems, hx]
/-- An exclusive scan writes the running result before it. -/
theorem scan_exclusive_succ {fm excl k : ℕ} (hx : excl ≠ 0) (hk : k + 1 < 2048 / fmtBits fm) (y : ℕ → Option ℕ × BitVec 5) :
    elemOf (fmtBits fm) (ofElems (fmtBits fm) (scanElems excl fm (2048 / fmtBits fm) y)) (k + 1) =
      redDeliver fm ((y k).1.getD 0) % 2 ^ fmtBits fm := by
  rw [scanElems_elem hk]
  simp [scanElems, hx]
/-- A vector of zeros is 0. -/
theorem ofElems_zeros (w : ℕ) {l : List ℕ} (hl : ∀ x ∈ l, x = 0) : ofElems w l = 0 := by
  have hpack : packElems w l = 0 := by
    induction l with
    | nil => rfl
    | cons x l ih =>
      obtain ⟨hx, hrest⟩ := List.forall_mem_cons.mp hl
      rw [packElems, hx, ih hrest, Nat.zero_mod, mul_zero, add_zero]
  rw [ofElems, hpack]
  rfl
/-- A scan of absent elements writes zeros. -/
theorem scanElems_absent (excl fm n : ℕ) : ∀ x ∈ scanElems excl fm n (fun _ => (none, 0)), x = 0 := by
  have hout : ∀ x ∈ (List.range n).map fun _ => redDeliver fm ((none : Option ℕ).getD 0), x = 0 := by
    simp [redDeliver_zero]
  unfold scanElems
  split
  · exact hout
  · exact List.forall_mem_cons.mpr ⟨rfl, fun x hx => hout x (List.dropLast_subset _ hx)⟩

/-! ### The instructions -/

theorem reductionsOf_models {fm x fzi fzo rmo : ℕ} {sum ext scan : Instr} (hx : x ≤ 1)
    (hsum : exec sum s = vecReduce s g d a fm 0 fzi fzo rmo) (hext : exec ext s = vecReduce s g d a fm (1 + x) fzi fzo rmo)
    (hscan : exec scan s = vecScan s g d a fm x fzi fzo rmo) :
    reductionsOf s sum ext scan g d a fm x (fzi != 0) (fzo != 0) rmo := by
  intro h
  refine ⟨hsum.trans (vecReduce_sum h), hext.trans (vecReduce_extreme hx h),
    _, hscan.trans (vecScan_sends h), fun e he => ⟨?_, fun hx => ?_⟩⟩
  · rintro rfl
    exact scan_inclusive he _
  · cases e with
    | zero => exact scan_exclusive_zero hx he _
    | succ k => exact scan_exclusive_succ hx he _
section
variable (hm : s.guardMask g = 0) (hb : (s.core s.iss.core).bound d = false)
include hm hb

/-- The sum of no element is 0. -/
theorem vecReduce_sum_zero (fm fzi fzo rmo : ℕ) : vecReduce s g d a fm 0 fzi fzo rmo = .next (s.pushV d 0 (BitVec.allOnes 64) 0 6) := by
  simp only [vecReduce_sum fun _ => hb, wholeOperand, hm, if_true, presentElem_zero, treeOf_absent, Option.getD_none, redDeliver_zero]
  rfl
/-- The running results of no element are 0. -/
theorem vecScan_zero (fm excl fzi fzo rmo : ℕ) : vecScan s g d a fm excl fzi fzo rmo = .next (s.pushV d 0 (BitVec.allOnes 64) 0 6) := by
  have hy := fun step => funext (scanOf_absent (step := step))
  simp only [vecScan_sends fun _ => hb, wholeOperand, hm, if_true, presentElem_zero, hy, ofElems_zeros _ (scanElems_absent _ _ _)]
end

end Sys2Proof.Machine
end

section
/-! # The instructions that rank elements and lanes (O9, third part) -/

namespace Sys2Proof.Machine

/-! ### Ranks (R170) -/

section
variable {t : FpFmt} (ht : t ∈ [fp32, fpBf16, fp16]) (fzi : Bool)

/-- The exponent field of an encoding. -/
def FpFmt.exponentOf (t : FpFmt) (x : ℕ) : ℕ := x / 2 ^ t.fw % 2 ^ t.ew
/-- Its fraction field. -/
def FpFmt.fractionOf (t : FpFmt) (x : ℕ) : ℕ := x % 2 ^ t.fw
/-- An encoding without its sign. -/
theorem FpFmt.mod_signBit (t : FpFmt) (x : ℕ) : x % t.signBit = t.fractionOf x + 2 ^ t.fw * t.exponentOf x := by
  rw [FpFmt.signBit, pow_add, mul_comm, Nat.mod_mul]
  rfl
theorem FpFmt.exponentOf_lt (t : FpFmt) (x : ℕ) : t.exponentOf x < 2 ^ t.ew := Nat.mod_lt _ (Nat.two_pow_pos _)
theorem FpFmt.fractionOf_lt (t : FpFmt) (x : ℕ) : t.fractionOf x < 2 ^ t.fw := Nat.mod_lt _ (Nat.two_pow_pos _)
/-- The sign of an encoding, alone. -/
theorem FpFmt.signOf_encoding (t : FpFmt) {x : ℕ} (hx : x < 2 ^ t.width) :
    x / t.signBit * t.signBit = if t.signBit ≤ x then t.signBit else 0 := by
  have hw : 2 ^ t.width = t.signBit * 2 := by
    rw [FpFmt.signBit, FpFmt.width, Nat.add_assoc, Nat.add_comm, pow_succ]
  rw [hw] at hx
  have hpos : 0 < t.signBit := Nat.two_pow_pos _
  split
  · next h => rw [Nat.div_eq_of_lt_le (k := 1) (by omega) (by omega), one_mul]
  · next h => rw [Nat.div_eq_of_lt (by omega), zero_mul]
include ht
/-- What an encoding of a format with infinities denotes, by its fields. -/
theorem FpFmt.value_fields {x : ℕ} (hx : x < 2 ^ t.width) : let neg := decide (t.signBit ≤ x)
    t.value fzi x =
      if t.exponentOf x = 2 ^ t.ew - 1 then
        if t.fractionOf x = 0 then .inf neg else .nan (decide (t.fractionOf x < 2 ^ (t.fw - 1)))
      else if t.exponentOf x = 0 then .fin neg (if fzi then 0 else t.fractionOf x) (t.emin - t.fw)
      else .fin neg (2 ^ t.fw + t.fractionOf x) (t.exponentOf x - t.bias - t.fw) := by
  have h4 : ∀ t ∈ [fp32, fpBf16, fp16], t.e4m3 = false := by decide
  simp only [FpFmt.value, h4 t ht, Nat.mod_eq_of_lt hx, Bool.false_and, Bool.false_eq_true, if_false, Bool.not_false, Bool.true_and,
    beq_iff_eq]
  rfl
/-- A number's magnitude is that of its encoding without sign, or 0 where it is flushed. -/
theorem FpFmt.value_number {x : ℕ} (hx : x < 2 ^ t.width) (h1 : t.exponentOf x ≠ 2 ^ t.ew - 1) : ∃ n m e,
    t.value fzi x = .fin n m e
    ∧ (|fpNumber (.fin n m e)| : ℚ) = t.magnitude (if fzi && t.subnormal x then 0 else x % t.signBit) := by
  have hfr := t.fractionOf_lt x
  have habs : ∀ n m e, ((|fpNumber (.fin n m e)| : ℚ) : ℝ) = m * 2 ^ e := fun n m e => by
    rw [Rat.cast_abs, FpFmt.fpNumber_fin, abs_signed _ (by positivity)]
  have hsub : t.subnormal x = (t.exponentOf x == 0 && t.fractionOf x != 0) := rfl
  rw [t.value_fields ht fzi hx, if_neg h1, t.mod_signBit, hsub]
  by_cases h0 : t.exponentOf x = 0
  · refine ⟨_, _, _, if_pos h0, ?_⟩
    have hflush : (if fzi && (t.exponentOf x == 0 && t.fractionOf x != 0) then 0 else t.fractionOf x + 2 ^ t.fw * t.exponentOf x) =
        if fzi then 0 else t.fractionOf x := by
      cases fzi <;> simp [h0]
    have hlt : (if fzi then 0 else t.fractionOf x) < 2 ^ t.fw := by
      split
      · exact Nat.two_pow_pos _
      · exact hfr
    rw [habs, hflush, FpFmt.magnitude, if_pos hlt]
  · refine ⟨_, _, _, if_neg h0, ?_⟩
    have hp : 0 < 2 ^ t.fw := Nat.two_pow_pos _
    have hge : ¬ t.fractionOf x + 2 ^ t.fw * t.exponentOf x < 2 ^ t.fw := by nlinarith [Nat.pos_of_ne_zero h0]
    have hz : (t.exponentOf x == 0) = false := beq_eq_false_iff_ne.mpr h0
    simp only [hz, Bool.false_and, Bool.and_false, Bool.false_eq_true, if_false]
    rw [habs, FpFmt.magnitude, if_neg hge, Nat.add_mul_mod_self_left, Nat.mod_eq_of_lt hfr, Nat.add_mul_div_left _ _ hp,
      Nat.div_eq_of_lt hfr, zero_add, FpFmt.emin]
    congr 2
    ring
/-- The three kinds of an element, with the rank that the model gives it. -/
theorem cmprRank_some {x : ℕ} (hx : x < 2 ^ t.width) : let a := t.value fzi x
    (a.isNan = true ∧ cmprRank t fzi (some x) = 2 ^ 40)
    ∨ (a.isNan = false ∧ fpInfinite a = true ∧ cmprRank t fzi (some x) = 1 + t.infBits)
    ∨ (a.isNan = false ∧ fpInfinite a = false ∧ ∃ k < t.infBits, cmprRank t fzi (some x) = 1 + k
      ∧ (|fpNumber a| : ℚ) = t.magnitude k) := by
  have hval := fun z => t.value_fields ht z hx
  by_cases h1 : t.exponentOf x = 2 ^ t.ew - 1
  · simp only [if_pos h1] at hval
    by_cases h2 : t.fractionOf x = 0
    · have hmag : x % t.signBit = t.infBits := by rw [t.mod_signBit, h1, h2, zero_add, mul_comm]; rfl
      simp only [if_pos h2] at hval
      exact .inr (.inl (by simp [cmprRank, hval, hmag, FpVal.isNan, fpInfinite]))
    · simp only [if_neg h2] at hval
      exact .inl (by simp [cmprRank, hval, FpVal.isNan])
  · obtain ⟨n, m, e, hz, hk⟩ := t.value_number ht fzi hx h1
    obtain ⟨n', m', e', hf, -⟩ := t.value_number ht false hx h1
    refine .inr (.inr ⟨by rw [hz]; rfl, by rw [hz]; rfl, _, ?_, by simp only [cmprRank, hf], hz ▸ hk⟩)
    have hlt : x % t.signBit < t.infBits := by
      have hfr := t.fractionOf_lt x
      have hex := t.exponentOf_lt x
      have hle : 2 ^ t.fw * (t.exponentOf x + 1) ≤ 2 ^ t.fw * (2 ^ t.ew - 1) := Nat.mul_le_mul_left _ (by omega)
      rw [t.mod_signBit, FpFmt.infBits, mul_comm (_ - 1)]
      linarith
    split
    · exact Nat.zero_lt_of_lt hlt
    · exact hlt
/-- The model's ranks order the elements as R170 says. -/
theorem ranksBelow_iff {x y : Option ℕ} (hx : ∀ v, x = some v → v < 2 ^ t.width) (hy : ∀ v, y = some v → v < 2 ^ t.width) :
    ranksBelow t fzi x y ↔ cmprRank t fzi x < cmprRank t fzi y := by
  have hinf : t.infBits < 2 ^ 39 := by
    have h : ∀ t ∈ [fp32, fpBf16, fp16], t.infBits < 2 ^ 39 := by decide
    exact h t ht
  cases y with
  | none => exact iff_of_false not_false (Nat.not_lt_zero _)
  | some y =>
    have hry := cmprRank_some ht fzi (hy y rfl)
    cases x with
    | none =>
      refine iff_of_true trivial ?_
      rw [show cmprRank t fzi none = 0 from rfl]
      obtain ⟨-, h⟩ | ⟨-, -, h⟩ | ⟨-, -, k, -, h, -⟩ := hry <;> omega
    | some x =>
      have hrx := cmprRank_some ht fzi (hx x rfl)
      have hlt : |fpNumber (t.value fzi x)| < |fpNumber (t.value fzi y)| ↔
        ((|fpNumber (t.value fzi x)| : ℚ) : ℝ) < (|fpNumber (t.value fzi y)| : ℚ) := Rat.cast_lt.symm
      simp only [ranksBelow, hlt]
      obtain ⟨hnx, hx⟩ | ⟨hnx, hix, hx⟩ | ⟨hnx, hix, k, hk, hx, hkx⟩ := hrx
      · refine iff_of_false (fun h => Bool.false_ne_true (h.1.symm.trans hnx)) ?_
        obtain ⟨-, h⟩ | ⟨-, -, h⟩ | ⟨-, -, k, hk, h, -⟩ := hry <;> omega
      · obtain ⟨hny, hy⟩ | ⟨hny, -, hy⟩ | ⟨hny, -, j, hj, hy, -⟩ := hry <;> simp [*] <;> omega
      · obtain ⟨hny, hy⟩ | ⟨hny, hiy, hy⟩ | ⟨hny, hiy, j, hj, hy, hjy⟩ := hry
        · simp [*]; omega
        · simp [*]
        · simp [*, FpFmt.magnitude_strictMono.lt_iff_lt]
/-- The model writes of a kept element what R170 says. -/
theorem cmprWrite_eq {x : Option ℕ} (hx : ∀ v, x = some v → v < 2 ^ t.width) : cmprWrite t fzi x = keptValue t fzi x := by
  cases x with
  | none => rfl
  | some x =>
    have hval := fun z => t.value_fields ht z (hx x rfl)
    have hsign := t.signOf_encoding (hx x rfl)
    have hsub : t.subnormal x = (t.exponentOf x == 0 && t.fractionOf x != 0) := rfl
    by_cases h1 : t.exponentOf x = 2 ^ t.ew - 1
    · simp only [if_pos h1] at hval
      by_cases h2 : t.fractionOf x = 0
      · simp [cmprWrite, keptValue, hval, h2, FpVal.isNan, fpZero]
      · simp [cmprWrite, keptValue, hval, h2, FpVal.isNan]
    · simp only [if_neg h1] at hval
      by_cases h0 : t.exponentOf x = 0
      · simp only [if_pos h0] at hval
        have hzero : t.fractionOf x = 0 → x = if t.signBit ≤ x then t.signBit else 0 := fun h => by
          have hmag := t.mod_signBit x
          rw [h, h0] at hmag
          have hsum := Nat.div_add_mod' x t.signBit
          rw [hsign, hmag, mul_zero, add_zero, add_zero] at hsum
          exact hsum.symm
        cases fzi with
        | false => simp [cmprWrite, keptValue, hval, FpVal.isNan]
        | true =>
          by_cases hf : t.fractionOf x = 0
          · simp [cmprWrite, keptValue, hval, hsub, hf, FpVal.isNan, fpZero, ← hzero hf]
          · simp [cmprWrite, keptValue, hval, hsub, h0, hf, FpVal.isNan, fpZero, hsign]
      · simp [cmprWrite, keptValue, hval, h0, hsub, FpVal.isNan, fpZero]
theorem keptValue_lt {x : Option ℕ} (hx : ∀ v, x = some v → v < 2 ^ t.width) : keptValue t fzi x < 2 ^ t.width := by
  have hnan : ∀ t ∈ [fp32, fpBf16, fp16], t.nanBits < 2 ^ t.width ∧ t.signBit < 2 ^ t.width := by decide
  obtain ⟨hn, hs⟩ := hnan t ht
  cases x with
  | none => exact Nat.two_pow_pos _
  | some x =>
    simp only [keptValue]
    split_ifs
    · exact hn
    · exact hs
    · exact Nat.two_pow_pos _
    · exact hx x rfl
end

/-! ### The two of four that are kept (R170) -/

/-- One of four elements is outranked by another: a lower index counts among equals. -/
def outranked (r : ℕ → ℕ) (i j : ℕ) : Bool := decide (r i < r j) || (r i == r j && decide (j < i))
/-- Of four, the two that fewer than two outrank. -/
def keepOf (o : ℕ → ℕ → Bool) : ℕ × ℕ :=
  match (List.range 4).filter fun i => decide ((List.range 4).countP (o i) < 2) with
  | i :: j :: _ => (i, j)
  | _ => (0, 1)
theorem cmprKeep_eq (r : ℕ → ℕ) : cmprKeep r = keepOf (outranked r) := rfl
/-- The order of four elements, from its six comparisons. -/
def orderOf (a b c d e f : Bool) : ℕ → ℕ → Bool
  | 0, 1 => a | 0, 2 => b | 0, 3 => c | 1, 2 => d | 1, 3 => e | 2, 3 => f
  | 1, 0 => !a | 2, 0 => !b | 3, 0 => !c | 2, 1 => !d | 3, 1 => !e | 3, 2 => !f
  | _, _ => false
/-- Two comparisons in a row decide the third. -/
def comparesInTurn (ij jk ik : Bool) : Bool := (ij != jk) || (ij == ik)
theorem comparesInTurn_iff {ij jk ik : Bool} : comparesInTurn ij jk ik = true ↔
    (ij = true → jk = true → ik = true) ∧ (ij = false → jk = false → ik = false) := by
  revert ij jk ik
  decide
theorem orderOf_keeps : ∀ a b c d e f : Bool, comparesInTurn a d b = true → comparesInTurn a e c = true → comparesInTurn b f c = true →
    comparesInTurn d f e = true → let q := keepOf (orderOf a b c d e f)
    q.1 < q.2 ∧ q.2 < 4 ∧ ∀ k < 4, k ≠ q.1 → k ≠ q.2 → orderOf a b c d e f k q.1 = true ∧ orderOf a b c d e f k q.2 = true := by
  decide
theorem outranked_iff {r : ℕ → ℕ} {i j : ℕ} : outranked r i j = true ↔ r i < r j ∨ (r i = r j ∧ j < i) := by
  simp [outranked]
theorem outranked_not {r : ℕ → ℕ} {i j : ℕ} : outranked r i j = false ↔ r j < r i ∨ (r i = r j ∧ i ≤ j) := by
  rw [← Bool.not_eq_true, outranked_iff]
  omega
theorem outranked_swap (r : ℕ → ℕ) (i j : ℕ) (h : j < i) : outranked r i j = !outranked r j i := by
  rw [Bool.eq_not, ne_eq, Bool.eq_iff_iff, outranked_iff, outranked_iff]
  omega
theorem outranked_inTurn (r : ℕ → ℕ) {i j k : ℕ} (hij : i < j) (hjk : j < k) :
    comparesInTurn (outranked r i j) (outranked r j k) (outranked r i k) = true := by
  rw [comparesInTurn_iff]
  simp only [outranked_iff, outranked_not]
  omega
theorem outranked_eq_orderOf (r : ℕ → ℕ) : ∀ i < 4, ∀ j < 4, outranked r i j = orderOf (outranked r 0 1) (outranked r 0 2)
    (outranked r 0 3) (outranked r 1 2) (outranked r 1 3) (outranked r 2 3) i j := by
  have hself : ∀ i, outranked r i i = false := fun i => by simp [outranked]
  intro i hi j hj
  interval_cases i <;> interval_cases j <;> simp [orderOf, hself, outranked_swap r]
theorem keepOf_congr {o o' : ℕ → ℕ → Bool} (h : ∀ i < 4, ∀ j < 4, o i j = o' i j) : keepOf o = keepOf o' := by
  have hcount : ∀ i < 4, (List.range 4).countP (o i) = (List.range 4).countP (o' i) := fun i hi =>
    List.countP_congr fun j hj => by rw [h i hi j (List.mem_range.mp hj)]
  unfold keepOf
  rw [List.filter_congr fun i hi => by rw [hcount i (List.mem_range.mp hi)]]
/-- The two that are kept stand in rising order, and no other outranks one of them. -/
theorem cmprKeep_keeps (r : ℕ → ℕ) : ∃ i j, cmprKeep r = (i, j) ∧ keptOfFour (fun k q => r k < r q) i j := by
  have heq := outranked_eq_orderOf r
  have hkeep := orderOf_keeps _ _ _ _ _ _ (outranked_inTurn r zero_lt_one one_lt_two)
    (outranked_inTurn r zero_lt_one (show 1 < 3 by decide))
    (outranked_inTurn r zero_lt_two (show 2 < 3 by decide)) (outranked_inTurn r one_lt_two (show 2 < 3 by decide))
  rw [← keepOf_congr heq, ← cmprKeep_eq] at hkeep
  generalize cmprKeep r = q at hkeep ⊢
  obtain ⟨i, j⟩ := q
  obtain ⟨hlt, h4, hbest⟩ := hkeep
  refine ⟨i, j, rfl, hlt, h4, fun k hk hi hj => ?_⟩
  obtain ⟨h1, h2⟩ := hbest k hk hi hj
  rw [← heq k hk i (hlt.trans h4), outranked_iff] at h1
  rw [← heq k hk j h4, outranked_iff] at h2
  simp only [List.mem_cons, List.not_mem_nil, or_false, forall_eq_or_imp, forall_eq]
  omega

/-! ### The vectors of VCMPR (R170) -/

/-- Two elements from each group, in a row. -/
def pairElem (p q : ℕ → ℕ) (e : ℕ) : ℕ := if e % 2 = 0 then p (e / 2) else q (e / 2)
theorem flatten_pairs (p q : ℕ → ℕ) (n : ℕ) :
    ((List.range n).map fun g => [p g, q g]).flatten = (List.range (2 * n)).map (pairElem p q) := by
  induction n with
  | zero => rfl
  | succ n ih =>
    have hfst : pairElem p q (2 * n) = p n := by simp [pairElem]
    have hsnd : pairElem p q (2 * n + 1) = q n := by
      rw [pairElem, if_neg (by omega), show (2 * n + 1) / 2 = n by omega]
    rw [List.range_succ, List.map_append, List.flatten_append, ih, Nat.mul_succ, List.range_succ, List.range_succ]
    simp [hfst, hsnd]
/-- Beyond its list a vector is 0. -/
theorem elemOf_ofElems_beyond {w e : ℕ} {l : List ℕ} (he : l.length ≤ e) : elemOf w (ofElems w l) e = 0 := by
  have hlt : (ofElems w l).toNat < 2 ^ (w * e) := by
    rw [ofElems, BitVec.toNat_ofNat]
    exact (Nat.mod_le _ _).trans_lt ((packElems_lt w l).trans_le (pow_le_pow_right₀ one_le_two (Nat.mul_le_mul_left w he)))
  rw [elemOf, Nat.div_eq_of_lt hlt, Nat.zero_mod]
/-- A result in flight leaves a stream bound or unbound. -/
theorem bound_pushV {s : State} {d : ℕ} (hd : (s.core s.iss.core).bound d = false) (v : VecWord) (m : BitVec 64) (fl : BitVec 5)
    (lat n : ℕ) : ((s.pushV d v m fl lat).core (s.pushV d v m fl lat).iss.core).bound n = (s.core s.iss.core).bound n := by
  have hpush : s.pushV d v m fl lat = s.pushResult (.v d) v m fl lat := by simp [State.pushV, hd]
  rw [hpush, State.pushResult_iss]
  simp [Core.bound, Core.stream, State.pushResult]
theorem fpOfT_mem (k : ℕ) : fpOfT k ∈ [fp32, fpBf16, fp16] := by
  unfold fpOfT
  split_ifs <;> decide
/-- An element of a guarded operand, absent in a disabled lane. -/
def guardedElem (m : BitVec 64) (w : ℕ) (v : VecWord) (e : ℕ) : Option ℕ :=
  if m.getLsbD (e * w / 32) then some (elemOf w v e) else none
theorem guardedElem_lt {m : BitVec 64} {w e v : ℕ} {x : VecWord} (h : guardedElem m w x e = some v) : v < 2 ^ w := by
  rw [guardedElem] at h
  split at h
  · cases h
    exact elemOf_lt _ _ _
  · cases h
/-- What VCMPR keeps of a group of four elements. -/
def cmprGroup (t : FpFmt) (fzi : Bool) (el : ℕ → Option ℕ) (g : ℕ) : ℕ × ℕ := cmprKeep fun i => cmprRank t fzi (el (4 * g + i))
/-- The elements that VCMPR writes, two for each group. -/
def cmprKept (t : FpFmt) (fzi : Bool) (el : ℕ → Option ℕ) : ℕ → ℕ :=
  pairElem (fun g => cmprWrite t fzi (el (4 * g + (cmprGroup t fzi el g).1)))
    fun g => cmprWrite t fzi (el (4 * g + (cmprGroup t fzi el g).2))
/-- Their vector. -/
def cmprValues (t : FpFmt) (fzi : Bool) (el : ℕ → Option ℕ) : VecWord :=
  ofElems t.width ((List.range (2 * (2048 / t.width / 4))).map (cmprKept t fzi el))
/-- The vector of their indices. -/
def cmprIndices (t : FpFmt) (fzi : Bool) (el : ℕ → Option ℕ) : VecWord :=
  ofElems 8 ((List.range (2048 / t.width / 4)).map fun g => (cmprGroup t fzi el g).1 + 4 * (cmprGroup t fzi el g).2)
/-- A present element is a signalling NaN. -/
def signals (t : FpFmt) (x : Option ℕ) : Bool := match x with
  | none => false
  | some b => (t.value false b).nv != 0
/-- The state after VCMPR has sent one of its two vectors: under a guard of zeros a bound destination takes none (R156). -/
def sentWhole (m : BitVec 64) (s : State) (d : ℕ) (v : VecWord) (fl : BitVec 5) : State :=
  if decide (m = 0) && (s.core s.iss.core).bound d then s else s.pushV d v (BitVec.allOnes 64) fl 4
theorem sentWhole_eq {m : BitVec 64} {s : State} {d : ℕ} (h : m = 0 → (s.core s.iss.core).bound d = false) (v : VecWord)
    (fl : BitVec 5) : sentWhole m s d v fl = s.pushV d v (BitVec.allOnes 64) fl 4 := by
  refine if_neg fun hc => ?_
  obtain ⟨hm, hb⟩ := Bool.and_eq_true_iff.mp hc
  exact Bool.false_ne_true ((h (of_decide_eq_true hm)).symm.trans hb)
theorem exec_vcmpr (f : FmtVM) (s : State) : exec (.vcmpr f) s = execVcmpr f s := rfl
theorem vcmpr_eq (f : FmtVM) (s : State) :
    let q := wholeOperand s f.g f.a
    let m := s.guardMask f.g
    let t := fpOfT f.t
    let el := guardedElem m t.width q.2
    let nv := (List.range (2048 / t.width)).any fun e => signals t (el e)
    exec (.vcmpr f) s = .next (sentWhole m (sentWhole m q.1 f.d (cmprValues t (f.fzi != 0) el) (if nv then flagNV else 0))
      f.x (cmprIndices t (f.fzi != 0) el) 0) := by
  have hread : (if s.guardMask f.g = 0 then (s, []) else s.vecOperands [f.a]) =
      ((wholeOperand s f.g f.a).1, if s.guardMask f.g = 0 then [] else (s.vecOperands [f.a]).2) := by
    rw [wholeOperand]
    split <;> rfl
  have hval : vecVal (if s.guardMask f.g = 0 then [] else (s.vecOperands [f.a]).2) f.a = (wholeOperand s f.g f.a).2 := by
    rw [wholeOperand]
    split <;> rfl
  rw [exec_vcmpr]
  simp only [execVcmpr, hread, hval, cmprValues, cmprKept, ← flatten_pairs, List.map_map]
  rfl
theorem vcmpr_sends {f : FmtVM} {s : State}
    (hb : s.guardMask f.g = 0 → (s.core s.iss.core).bound f.d = false ∧ (s.core s.iss.core).bound f.x = false) :
    let q := wholeOperand s f.g f.a
    let t := fpOfT f.t
    let el := guardedElem (s.guardMask f.g) t.width q.2
    let nv := (List.range (2048 / t.width)).any fun e => signals t (el e)
    exec (.vcmpr f) s = .next ((q.1.pushV f.d (cmprValues t (f.fzi != 0) el) (BitVec.allOnes 64) (if nv then flagNV else 0) 4).pushV
      f.x (cmprIndices t (f.fzi != 0) el) (BitVec.allOnes 64) 0 4) := by
  have hq : s.guardMask f.g = 0 → (wholeOperand s f.g f.a).1 = s := fun h => by rw [wholeOperand, if_pos h]
  have hd : s.guardMask f.g = 0 → ((wholeOperand s f.g f.a).1.core (wholeOperand s f.g f.a).1.iss.core).bound f.d = false :=
    fun h => by rw [hq h]; exact (hb h).1
  simp only [vcmpr_eq, sentWhole_eq hd]
  rw [sentWhole_eq fun h => ?_]
  rw [bound_pushV (hd h), hq h]
  exact (hb h).2

section
variable {t : FpFmt} (ht : t ∈ [fp32, fpBf16, fp16]) (fzi : Bool) (el : ℕ → Option ℕ)

theorem signals_iff {x : Option ℕ} : signals t x = true ↔ ∃ b, x = some b ∧ t.value false b = .nan true := by
  cases x with
  | none => simp [signals]
  | some b =>
    rw [signals, bne_iff_ne, nv_ne_zero_iff]
    simp
theorem cmprIndices_elem {g : ℕ} (hg : g < 2048 / t.width / 4) {i j : ℕ} (hk : cmprGroup t fzi el g = (i, j)) (hi : i < 4) (hj : j < 4)
    (hw : 8 ≤ t.width) : elemOf 8 (cmprIndices t fzi el) g = i + 4 * j := by
  have hle : 8 * (2048 / t.width / 4) ≤ 2048 := by
    have := Nat.div_le_self (2048 / t.width) 4
    have := Nat.mul_div_le 2048 t.width
    nlinarith
  rw [cmprIndices, elemOf_ofElems _ _ _ (by simpa using hle) (by simpa using hg)]
  simp only [List.getElem_map, List.getElem_range, hk]
  omega
theorem cmprValues_elem {e : ℕ} (he : e < 2 * (2048 / t.width / 4)) :
    elemOf t.width (cmprValues t fzi el) e = cmprKept t fzi el e % 2 ^ t.width := by
  have hle : t.width * (2 * (2048 / t.width / 4)) ≤ 2048 := by
    have := Nat.mul_div_le (2048 / t.width) 4
    have := Nat.mul_div_le 2048 t.width
    nlinarith
  rw [cmprValues, elemOf_ofElems _ _ _ (by simpa using hle) (by simpa using he)]
  simp
theorem cmprValues_beyond {e : ℕ} (he : 2048 / t.width / 2 ≤ e) : elemOf t.width (cmprValues t fzi el) e = 0 := by
  refine elemOf_ofElems_beyond ?_
  rw [List.length_map, List.length_range]
  omega
theorem cmprIndices_beyond {e : ℕ} (he : 2048 / t.width / 4 ≤ e) : elemOf 8 (cmprIndices t fzi el) e = 0 := by
  refine elemOf_ofElems_beyond ?_
  rwa [List.length_map, List.length_range]
include ht
variable (hel : ∀ e v, el e = some v → v < 2 ^ t.width)
include hel
/-- The two elements that VCMPR writes for a group, and their indices. -/
theorem cmprGroup_written {g : ℕ} (hg : g < 2048 / t.width / 4) : ∃ i j,
    keptOfFour (fun i k => ranksBelow t fzi (el (4 * g + i)) (el (4 * g + k))) i j
    ∧ elemOf 8 (cmprIndices t fzi el) g = i + 4 * j
    ∧ elemOf t.width (cmprValues t fzi el) (2 * g) = keptValue t fzi (el (4 * g + i))
    ∧ elemOf t.width (cmprValues t fzi el) (2 * g + 1) = keptValue t fzi (el (4 * g + j)) := by
  have hw : ∀ t ∈ [fp32, fpBf16, fp16], 8 ≤ t.width := by decide
  have hwrite := fun e => cmprWrite_eq ht fzi (hel e)
  have hlt := fun e => keptValue_lt ht fzi (hel e)
  obtain ⟨i, j, hk, hkeep⟩ := cmprKeep_keeps fun i => cmprRank t fzi (el (4 * g + i))
  have hfst : cmprKept t fzi el (2 * g) = keptValue t fzi (el (4 * g + i)) := by
    simp [cmprKept, pairElem, hwrite, cmprGroup, hk]
  have hsnd : cmprKept t fzi el (2 * g + 1) = keptValue t fzi (el (4 * g + j)) := by
    rw [cmprKept, pairElem, if_neg (by omega), show (2 * g + 1) / 2 = g by omega, cmprGroup, hk, hwrite]
  have ⟨hij, hj, _⟩ := hkeep
  refine ⟨i, j, ?_, cmprIndices_elem fzi el hg hk (hij.trans hj) hj (hw t ht), ?_, ?_⟩
  · simpa only [ranksBelow_iff ht fzi (hel _) (hel _)] using hkeep
  · rw [cmprValues_elem fzi el (by omega), hfst, Nat.mod_eq_of_lt (hlt _)]
  · rw [cmprValues_elem fzi el (by omega), hsnd, Nat.mod_eq_of_lt (hlt _)]
end

theorem vcmpr_result {f : FmtVM} {s : State}
    (hb : s.guardMask f.g = 0 → (s.core s.iss.core).bound f.d = false ∧ (s.core s.iss.core).bound f.x = false) :
    let q := wholeOperand s f.g f.a
    let t := fpOfT f.t
    let n := 2048 / t.width
    let el := guardedElem (s.guardMask f.g) t.width q.2
    ∃ (v x : VecWord) (nv : Bool), exec (.vcmpr f) s = .next ((q.1.pushV f.d v (BitVec.allOnes 64) (if nv then flagNV else 0) 4).pushV
      f.x x (BitVec.allOnes 64) 0 4)
    ∧ (∀ g, g < n / 4 → ∃ i j, keptOfFour (fun i k => ranksBelow t (f.fzi != 0) (el (4 * g + i)) (el (4 * g + k))) i j
        ∧ elemOf 8 x g = i + 4 * j
        ∧ elemOf t.width v (2 * g) = keptValue t (f.fzi != 0) (el (4 * g + i))
        ∧ elemOf t.width v (2 * g + 1) = keptValue t (f.fzi != 0) (el (4 * g + j)))
    ∧ (∀ e, n / 2 ≤ e → elemOf t.width v e = 0) ∧ (∀ e, n / 4 ≤ e → elemOf 8 x e = 0)
    ∧ (nv = true ↔ ∃ e, e < n ∧ ∃ b, el e = some b ∧ t.value false b = .nan true) := by
  intro q t n el
  refine ⟨cmprValues t (f.fzi != 0) el, cmprIndices t (f.fzi != 0) el, (List.range n).any fun e => signals t (el e), vcmpr_sends hb,
    fun g hg => cmprGroup_written (fpOfT_mem f.t) _ el (fun e v => guardedElem_lt) hg, fun e => cmprValues_beyond _ el,
    fun e => cmprIndices_beyond _ el, ?_⟩
  simp only [List.any_eq_true, List.mem_range, signals_iff]

/-! ### Votes and counts (R172, R174) -/

theorem exec_vvote (f : FmtVO) (s : State) : exec (.vvote f) s = execVvote f s := rfl
theorem exec_vpopc (f : FmtVN) (s : State) : exec (.vpopc f) s = execVpopc f s := rfl
/-- Two masks share a lane. -/
theorem and_bne_zero_iff (p g : BitVec 64) : (p &&& g != 0) = true ↔ ∃ n, g.getLsbD n = true ∧ p.getLsbD n = true := by
  rw [bne_iff_ne, ne_eq, ← not_iff_not, not_not]
  refine ⟨fun h => ?_, fun h => BitVec.eq_of_getLsbD_eq fun n _ => ?_⟩
  · rintro ⟨n, hg, hp⟩
    have hn := congrArg (·.getLsbD n) h
    simp [hg, hp] at hn
  · have hn := fun hg hp => h ⟨n, hg, hp⟩
    simpa using fun hp hg => hn hg hp
/-- One mask has all the lanes of another. -/
theorem or_not_beq_ones_iff (p g : BitVec 64) :
    (p ||| ~~~g == BitVec.allOnes 64) = true ↔ ∀ n, g.getLsbD n = true → p.getLsbD n = true := by
  rw [beq_iff_eq]
  refine ⟨fun h n hg => ?_, fun h => BitVec.eq_of_getLsbD_eq fun n hn => ?_⟩
  · have hn := congrArg (·.getLsbD n) h
    have hlt := BitVec.lt_of_getLsbD hg
    simpa only [BitVec.getLsbD_or, BitVec.getLsbD_not, BitVec.getLsbD_allOnes, hg, hlt, decide_true, Bool.not_true, Bool.and_false,
      Bool.or_false] using hn
  · rw [BitVec.getLsbD_or, BitVec.getLsbD_not, BitVec.getLsbD_allOnes]
    cases hg : g.getLsbD n with
    | true => simp [h n hg, hn]
    | false => simp [hn]
theorem vvote_result (f : FmtVO) (s : State) : ∃ b : Bool,
    exec (.vvote f) s = .next (s.pushP f.pd (if b then BitVec.allOnes 64 else 0) 0 1)
    ∧ (f.mode = 0 → (b = true ↔ ∃ n, (s.guardMask f.g).getLsbD n = true ∧ (s.readP f.pa).bits.getLsbD n = true))
    ∧ (f.mode ≠ 0 → (b = true ↔ ∀ n, (s.guardMask f.g).getLsbD n = true → (s.readP f.pa).bits.getLsbD n = true)) := by
  refine ⟨_, exec_vvote f s, fun h0 => ?_, fun h0 => ?_⟩
  · by_cases hg : s.guardMask f.g = 0
    · simp [h0, hg]
    · rw [if_pos h0, if_neg hg, and_bne_zero_iff]
  · by_cases hg : s.guardMask f.g = 0
    · simp [h0, hg]
    · rw [if_neg h0, if_neg hg, or_not_beq_ones_iff]
theorem vpopc_result (f : FmtVN) (s : State) : exec (.vpopc f) s = .next (s.pushS f.d (BitVec.ofNat 64
    ((List.range 64).filter fun n => (s.readP f.pa).bits.getLsbD n && (s.guardMask f.g).getLsbD n).length) 0 1) := by
  simp only [exec_vpopc, execVpopc, popc, List.countP_eq_length_filter, BitVec.getLsbD_and]

/-! ### The obligation -/

/-- Settles O9: compares, moves and permutations element by element, and the instructions that write whole results. -/
theorem vectorMovesAndWholeResults : Obligations.VectorMovesAndWholeResults := by
  unfold Obligations.VectorMovesAndWholeResults
  exact ⟨⟨fun f s hg hf _ => vcmp_int hg hf, fun f s hg hf _ => vcmp_fp hg hf, vsel_result, vselWide_result, vperm_result,
      vbcast_result, vhash_result, vhashWide_result, fun f s => vlane_result⟩,
    fun f s hx => reductionsOf_models hx rfl rfl rfl, fun f s hx => reductionsOf_models hx rfl rfl rfl,
    fun f s hm hb => ⟨vecReduce_sum_zero hm hb .., vecScan_zero hm hb ..⟩, fun f s hb => vcmpr_result hb, vvote_result, vpopc_result⟩

end Sys2Proof.Machine
end
